-- ==== Sys2Proof/Word.lean ====
section
/-! DEFINITION. Word types of the X8 (R2, R3, R55): 64-bit data words, bytes, and the sparse maps that every
table of the machine is held in. -/

namespace Sys2Proof

/-- A 64-bit data word (R27, R55). -/
abbrev Word := BitVec 64

/-- One byte (R3). -/
abbrev Byte := BitVec 8

/-- A sparse table by number: keys strictly rising, and no entry equal to the value that an unlisted key reads as. -/
abbrev Map (α : Type) := List (Nat × α)

end Sys2Proof
end

