-- ==== Sys2Proof/Config.lean ====
section
/-! DEFINITION. What an implementation of the X8 fixes (Table 1-1, Table 1-4), and the values the manual leaves
open, as opaque constants. -/

namespace Sys2Proof.Config

/-- Fabric dies of a module (R8). -/
abbrev dies : Nat := 8
/-- HBM stacks of a module (R8). -/
abbrev hbmStacks : Nat := 16
/-- Copy flows of a tile hub (R13, R245). -/
abbrev flows : Nat := 48
/-- Entries of a TLB slice (R345). -/
abbrev tlbEntries : Nat := 256
/-- Entries of an engine's translation cache (R362). -/
abbrev engineCacheEntries : Nat := 512
/-- Walks of a slice at once (R345). -/
abbrev walks : Nat := 8
/-- Requests for missing pages that a slice holds (R347). -/
abbrev heldRequests : Nat := 16
/-- Deferred entries of a memory port (R353). -/
abbrev deferEntries : Nat := 64
/-- Request credits of a route (R226). -/
abbrev requestCredits : Nat := 4
/-- Places of an order queue (R232). -/
abbrev orderTokens : Nat := 16
/-- Entries of an SE's request table (R370). -/
abbrev requestTable : Nat := 32
/-- Active queries of an engine (R371). -/
abbrev activeQueries : Nat := 64
/-- Ids of a visited set (R374). -/
abbrev visitedIds : Nat := 65536
/-- Entries of a queue on chip (R314). -/
abbrev queueEntries : Nat := 64
/-- Flits of a replay buffer (R392). -/
abbrev replayFlits : Nat := 512
/-- Notices that wait at a crest core (R401). -/
abbrev notices : Nat := 256
/-- Records that wait at an origin hub (R407). -/
abbrev hubRecords : Nat := 16
/-- Entries of an error log, and of an event queue (R412). -/
abbrev logEntries : Nat := 64
/-- Domain slots (Table 18-4). -/
abbrev domains : Nat := 64
/-- Unloaded own-die HBM latency, firing to reply (R25, R234), in fc. -/
abbrev hbmLatency : Nat := 342
/-- Remote latency and order-token delay across modules (R232, R234), in fc. -/
abbrev remoteLatency : Nat := 684
/-- Unloaded latency of a capacity read (R356), in fc. -/
abbrev capacityLatency : Nat := 11400
/-- One millisecond in fc at 1.9 GHz (R1, R393). -/
abbrev msFc : Nat := 1900000

/-- The outcome of a choice that the manual states as "one of:" (R5, log 6). DESIGN CHOICE: free; the n-th choice
a run makes is `choice n`, and nothing constrains it. -/
opaque choice : Nat → Bool

/-- Units of 8 bytes, and the bytes, of a hub or element record of a save: R309 says what such a record holds, and not how it lies
there. DESIGN CHOICE (log 8): free, by save and record. -/
opaque recordUnits : Nat → Nat → Nat
opaque recordByte : Nat → Nat → Nat → Byte

/-- The vendor's Ed25519 public key, fused in the summit controller (R420, log 10). Free. -/
opaque vendorKey : List Byte

/-- The secret seed of the module identity key (R8, R426, log 10). Free. -/
opaque identitySeed : List Byte

/-- The enterprise number fixed at manufacture (R428, log 10). Free. -/
opaque enterprise : BitVec 32

/-- The payload bytes of a flit that carries a word of a Xanhoka link: the spec gives their place in it and no layout (R391, R395, log
20). Free, by kind of word, its numbers, and byte. -/
opaque linkByte : Nat → Nat → Nat → Nat → Byte

/-- How long the n-th management command takes (R423, log 7), and what each sensor of the module reads at the n-th sample (R424, log
11). Free. -/
opaque mgmtTime : Nat → Nat
opaque sensor : Nat → Nat → BitVec 16

end Sys2Proof.Config
end

