-- ==== Sys2Proof/Syntax.lean ====
section
/-! DEFINITION. The steps of the X8: one constructor of `Instr` for each row of spec/opcode_table.json, and the
records they carry. A slot instruction carries its slot (R27, R29, R32); a command its 24 bytes (R279); a message its
header and payload (R400); every other row the event's own data. -/

namespace Sys2Proof

/-- Kind of a channel word (Table 6-1). -/
inductive WKind | data | eos | cfg | poison
  deriving DecidableEq, Repr, Inhabited

/-- A channel word without its parity bits (R147). -/
structure CWord where
  data : Word
  tag : Byte
  kind : WKind
  deriving DecidableEq, Repr, Inhabited

/-- The fields of a valid slot: guard word (Table 2-1), action word (Table 2-3) and literal. The opcode is the
constructor of `Instr`. -/
structure SlotF where
  cm : BitVec 4
  pri : BitVec 3
  pm : BitVec 8
  pv : BitVec 8
  ua : Bool
  ia : BitVec 5
  ub : Bool
  ib : BitVec 5
  tm : BitVec 3
  tl : BitVec 8
  ka : Bool
  kb : Bool
  xa : Bool
  oa : BitVec 5
  xb : Bool
  ob : BitVec 5
  sa : BitVec 5
  sb : BitVec 5
  da : BitVec 5
  db : BitVec 5
  ta : BitVec 4
  lit : Word
  deriving DecidableEq, Repr, Inhabited

/-- Where a channel word came from, so that a pop returns the credit (R158): a target of an element's output in one
configuration period, a waiter of a barrier, or nothing (a reply, whose place is its own, R226). -/
inductive Src
  | none
  | output (ea out target epoch : Nat)
  | barrier (tile bar waiter : Nat)
  deriving DecidableEq, Repr, Inhabited

/-- What a firing delivers at t + L (R119, R121): a register, predicate bits, words in reserved places, flags. -/
structure Delivery where
  ea : Nat
  ctx : Nat
  reg : Option Nat
  value : Word
  predMask : BitVec 8
  predVal : BitVec 8
  places : List (Nat × Nat)
  word : CWord
  flags : BitVec 6
  epoch : Nat
  deriving DecidableEq, Repr, Inhabited

/-- A word reaching an input channel, with the parity bits it carries (Table 6-1). -/
structure Arrival where
  ea : Nat
  ch : Nat
  word : CWord
  dpar : BitVec 8
  tpar : Bool
  src : Src
  epoch : Nat
  deriving DecidableEq, Repr, Inhabited

/-- The agent whose access this is (R233, R347): a firing, a generator, a copy flow, a spill or fill, a remote module
that asks by a link under a number of its own (R396), or a crest core that reaches an SRAM window (R23). -/
inductive Who
  | firing
  | gen (g : Nat)
  | flow (tile n : Nat)
  | spill
  | remote (link module id : Nat)
  | core (k : Nat)
  | launch (lid : Nat)
  deriving DecidableEq, Repr, Inhabited

/-- What an access does (R229, R352, R368). -/
inductive Acc | ld | st | amo | cas | lde | stf | qry | qabort | gat | sca | packet | migr | record
  deriving DecidableEq, Repr, Inhabited

/-- A request on its way from its sender to its home (R225 to R232). `dst` is the element address of the SE, or of
site (0,0) of the tile, at which it is served; `pa` the local address once translated; `stage` 1 once it is at its bank or
port. `pzn` says that its page is poisoned (R348), `tpage` and `tsize` which page its translation came from, in units of
64 KiB (size 0: none yet), `vals` the values of the further elements of a merged store (R243). A copy's granule of another module has
size 6, its 8 words in `vals` and its mark in `v2`; its answer is at stage 2 on the way to the port (R396). -/
structure MReq where
  id : Nat
  grp : Nat
  dom : Nat
  ea : Nat
  ctx : Nat
  slot : Nat
  who : Who
  acc : Acc
  out : Nat
  epoch : Nat
  endp : BitVec 8
  dst : Nat
  part : Nat
  addr : Word
  pa : Nat
  sz : Nat
  sx : Bool
  aop : Nat
  v1 : Word
  v2 : Word
  tag : Byte
  ren : Bool
  rch : Nat
  ord : Bool
  fen : Bool
  ofwd : Nat
  issued : Nat
  parity : Bool
  dlv : Option Delivery
  stage : Nat
  pzn : Bool
  tpage : Nat
  tsize : Nat
  vals : List Word
  deriving DecidableEq, Repr, Inhabited

/-- A walk of a slice (R345): its number, the request it serves, the slice's tile, the level and the address of the entry
read next or just read, whether its home serves it now, the entry once read, and whether the request waited for a hold place (R347). -/
structure Walk where
  id : Nat
  r : MReq
  tile : Nat
  level : Nat
  addr : Nat
  served : Bool
  entry : Option Word
  again : Bool
  deriving DecidableEq, Repr, Inhabited

/-- A copy on its way to its tile hub (R245, R246). -/
structure CopyReq where
  ea : Nat
  ctx : Nat
  slot : Nat
  grp : Nat
  dom : Nat
  reg : Nat
  ring : Bool
  ssrc : Bool
  spart : Nat
  src : Word
  dst : Word
  len : Nat
  dstEa : Nat
  dring : Nat
  tile : Nat
  tlen : Nat
  deriving DecidableEq, Repr, Inhabited

/-- Where a granule of a copy stands (R245, R248): it reaches the home of its source, is read there at a local address, reaches the
home of its destination, is written there at a local address; the answer of another module's home is back. -/
inductive GranStep
  | readArrive
  | readServed (a : Nat)
  | writeArrive
  | writeServed (a : Nat)
  | writeBack
  deriving DecidableEq, Repr, Inhabited

/-- A step of a granule: the copy flow at its hub, the granule's number, the step (R245). -/
structure GranPart where
  flow : Nat
  gran : Nat
  step : GranStep
  deriving DecidableEq, Repr, Inhabited

/-- A row step that lands at an ME: the columns in which the two halves of a redundant array differ (R218). -/
structure RowLand where
  ea : Nat
  diff : Word
  deriving DecidableEq, Repr, Inhabited

/-- Kind of a barrier message (R332). -/
inductive BarKind | arv | drop | init
  deriving DecidableEq, Repr, Inhabited

/-- A message on its way to a barrier's hub (R332). -/
structure BarMsg where
  grp : Nat
  tile : Nat
  bar : Nat
  kind : BarKind
  ph : Bool
  count : Word
  name : BitVec 13
  ea : Nat
  ctx : Nat
  slot : Nat
  deriving DecidableEq, Repr, Inhabited

/-- A fault record or notice (Table 18-1). SEQ and FENCE are decided at the origin hub (R406); `key` numbers the agent that a
PAGE_NOT_PRESENT record names, for its resume (R347), and is 0 in every other record; `hub` is the origin tile to which it travels;
`fenceNo` numbers the fence of its group that its fault is a cause of, 0 where it fences nothing; `stage` is 1 once the hub holds it. -/
structure FRec where
  code : Byte
  async : Bool
  fence : Bool
  ctxv : Bool
  slotv : Bool
  ea : BitVec 14
  ctx : BitVec 2
  slot : BitVec 5
  grp : BitVec 16
  dom : BitVec 16
  seq : BitVec 16
  detail : BitVec 32
  aux : Word
  cycle : Word
  key : Nat
  hub : Nat
  fenceNo : Nat
  stage : Nat
  deriving DecidableEq, Repr, Inhabited

/-- A command written to a command port: its die, its port, and its 24 bytes (R279). -/
structure Cmd where
  die : Nat
  port : Nat
  action : BitVec 32
  rsv : BitVec 32
  addr : Word
  value : Word
  deriving DecidableEq, Repr, Inhabited

/-- A Sniqua message: the fields of Table 17-5 and the payload. -/
structure Msg where
  type : BitVec 16
  core : Byte
  rsv : Byte
  tag : Word
  dom : BitVec 16
  grp : BitVec 16
  arg0 : BitVec 32
  arg1 : Word
  payload : List Byte
  deriving DecidableEq, Repr, Inhabited

/-- A management command (R428) and its source: the Borelle port, or the mailbox of a stack. -/
structure Mgmt where
  mailbox : Option Nat
  code : Byte
  rsv : Byte
  tag : BitVec 16
  arg0 : Word
  arg1 : Word
  data : List Byte
  deriving DecidableEq, Repr, Inhabited

/-- A load request (R274): the image bytes as supplied, or the fault code of the read that failed, and who asks. -/
structure LoadReq where
  grp : Nat
  splice : Bool
  bytes : List Byte
  readFault : Option Byte
  launch : Option Nat
  reply : Option Msg
  deriving DecidableEq, Repr, Inhabited

/-- A launch entry on its way to a queue (R318, R322). `pusher` is the qpush's element, context, slot and SA. -/
structure EntryReq where
  queue : Nat
  dom : Nat
  packet : List Byte
  parent : Option Nat
  pusher : Option (Nat × Nat × Nat × Word)
  port : Option (Nat × Nat)
  deriving DecidableEq, Repr, Inhabited

/-- A migration request on its way to the copier (R358). -/
structure MigReq where
  id : Nat
  grp : Nat
  dom : Nat
  ea : Nat
  ctx : Nat
  slot : Nat
  page : Word
  tgt : Bool
  record : Word
  tpage : Nat
  tsize : Nat
  deriving DecidableEq, Repr, Inhabited

/-- Who makes a privileged access (R413). -/
inductive Agent
  | crest (die core : Nat)
  | control
  | tor (stack : Nat)
  | other
  deriving DecidableEq, Repr, Inhabited

/-- What a DATA flit of a Xanhoka link carries to this module (log 20): nothing the model names; a reply to a remote request, the 64
bytes of a granule, or a refusal's code and detail in place of one; the completion token of a remote request; the order token of a
request that the sender has sent to this module (R232, R395). -/
inductive FlitLoad
  | none
  | reply (id : Nat) (value : Word) (poison : Bool)
  | data (id : Nat) (bytes : List Byte) (poison : Bool)
  | refusal (id : Nat) (code : Byte) (detail : BitVec 32)
  | completed (id : Nat)
  | token (id : Nat)
  deriving DecidableEq, Repr, Inhabited

/-- A request from a remote module (R396), with what its route says of it (Table 9-1): sign-extended replies, ORD, FEN; `bytes` and
`poison` are what a copy brings to its destination. -/
structure RemoteReq where
  link : Nat
  srcModule : Nat
  dom : Nat
  copy : Bool
  acc : Acc
  addr : Nat
  sz : Nat
  sx : Bool
  ord : Bool
  fen : Bool
  aop : Nat
  v1 : Word
  v2 : Word
  bytes : List Byte
  poison : Bool
  id : Nat
  deriving DecidableEq, Repr, Inhabited

/-- What the summit controller's sensors read (R424, log 11). -/
structure Sensors where
  power : BitVec 16
  inlet : BitVec 16
  tdie : List (BitVec 16)
  tstack : List (BitVec 16)
  rail : List (BitVec 16)
  deriving DecidableEq, Repr, Inhabited

/-- The steps of the machine, one constructor for each row of the opcode table. -/
inductive Instr where
  | mov (f : SlotF) | mov2 (f : SlotF) | sel (f : SlotF) | steer (f : SlotF) | sendeos (f : SlotF)
  | halt (f : SlotF) | exit (f : SlotF) | pset (f : SlotF) | pclr (f : SlotF) | pmov (f : SlotF)
  | drop (f : SlotF) | ctag (f : SlotF)
  | add (f : SlotF) | sub (f : SlotF) | adds (f : SlotF) | addus (f : SlotF) | subs (f : SlotF)
  | mul (f : SlotF) | mulh (f : SlotF) | mulhu (f : SlotF) | mac (f : SlotF) | divu (f : SlotF) | remu (f : SlotF)
  | min (f : SlotF) | max (f : SlotF) | minu (f : SlotF) | maxu (f : SlotF) | abs (f : SlotF)
  | and (f : SlotF) | or (f : SlotF) | xor (f : SlotF) | andn (f : SlotF)
  | shl (f : SlotF) | shr (f : SlotF) | sar (f : SlotF) | rol (f : SlotF)
  | clz (f : SlotF) | ctz (f : SlotF) | popc (f : SlotF) | bext (f : SlotF) | bins (f : SlotF) | lea (f : SlotF)
  | addW2 (f : SlotF) | subW2 (f : SlotF) | mulW2 (f : SlotF) | minW2 (f : SlotF) | maxW2 (f : SlotF)
  | addsW2 (f : SlotF) | idot8 (f : SlotF) | idot8u (f : SlotF)
  | ceq (f : SlotF) | cne (f : SlotF) | clt (f : SlotF) | cle (f : SlotF) | cltu (f : SlotF) | cleu (f : SlotF)
  | ctst (f : SlotF) | cz (f : SlotF)
  | faddS2 (f : SlotF) | fsubS2 (f : SlotF) | fmulS2 (f : SlotF) | fmaS2 (f : SlotF) | fminS2 (f : SlotF)
  | fmaxS2 (f : SlotF) | frcpeS2 (f : SlotF) | frsqeS2 (f : SlotF) | fceqS2 (f : SlotF) | fcltS2 (f : SlotF)
  | fcleS2 (f : SlotF) | fclassS2 (f : SlotF) | frndS2 (f : SlotF)
  | faddH4 (f : SlotF) | fsubH4 (f : SlotF) | fmulH4 (f : SlotF) | fmaH4 (f : SlotF) | fminH4 (f : SlotF)
  | fmaxH4 (f : SlotF) | fdotwH4 (f : SlotF) | fdotwQ8 (f : SlotF) | fsumS2 (f : SlotF)
  | cvtSI (f : SlotF) | cvtIS (f : SlotF) | packBf (f : SlotF) | unpkBfLo (f : SlotF) | unpkBfHi (f : SlotF)
  | packE4 (f : SlotF) | packE5 (f : SlotF) | unpkE4Lo (f : SlotF) | unpkE4Hi (f : SlotF) | unpkE5Lo (f : SlotF)
  | unpkE5Hi (f : SlotF) | packF16 (f : SlotF) | unpkF16Lo (f : SlotF) | unpkF16Hi (f : SlotF)
  | qntI8 (f : SlotF) | deqI8Lo (f : SlotF)
  | spawn (f : SlotF) | tfree (f : SlotF) | pooln (f : SlotF) | chst (f : SlotF) | join (f : SlotF)
  | rdcnt (f : SlotF) | spill (f : SlotF) | fill (f : SlotF) | rdsr (f : SlotF) | wrsr (f : SlotF)
  | setsc (f : SlotF) | rdflg (f : SlotF) | clrflg (f : SlotF)
  | ld (f : SlotF) | st (f : SlotF) | lde (f : SlotF) | stf (f : SlotF) | amo (f : SlotF) | cas (f : SlotF)
  | gat (f : SlotF) | sca (f : SlotF) | copy (f : SlotF) | ccan (f : SlotF)
  | barArv (f : SlotF) | barDrop (f : SlotF) | barInit (f : SlotF) | barQ (f : SlotF) | qpush (f : SlotF)
  | sbar (f : SlotF) | qry (f : SlotF) | qabort (f : SlotF) | trap (f : SlotF) | brk (f : SlotF)
  | migr (f : SlotF) | tinval (f : SlotF) | svc (f : SlotF)
  | sld (f : SlotF) | sst (f : SlotF) | samo (f : SlotF) | hacq (f : SlotF) | hcommit (f : SlotF)
  | hread (f : SlotF) | hrel (f : SlotF) | hstat (f : SlotF) | tlook (f : SlotF) | tins (f : SlotF)
  | tevict (f : SlotF) | gen (f : SlotF) | genp (f : SlotF) | isect (f : SlotF) | merge (f : SlotF)
  | topk (f : SlotF) | prune (f : SlotF) | redc (f : SlotF)
  | mldB (f : SlotF) | mldBs (f : SlotF) | mrow (f : SlotF) | mcfg (f : SlotF) | mdrain (f : SlotF)
  | mls (f : SlotF) | mclr (f : SlotF)
  | cfgwEcw (c : Cmd) | cfgwGuard (c : Cmd) | cfgwAction (c : Cmd) | cfgwLiteral (c : Cmd)
  | cfgwChannel (c : Cmd) | cfgwRouteHeader (c : Cmd) | cfgwRouteTarget (c : Cmd) | cfgwMeBinding (c : Cmd)
  | cfgwHandleRecord (c : Cmd) | cfgwPartition (c : Cmd) | cfgwBarrierInit (c : Cmd)
  | cfgwWaiterTarget (c : Cmd) | cfgwTagPool (c : Cmd)
  | partialReconfigInstall (ea : Nat)
  | cfgswapSwap (c : Cmd) | cfgswapSplice (c : Cmd) | cfgswapClear (c : Cmd)
  | errinj (c : Cmd) | errinjDisarm (c : Cmd) | errlogRemoveOldest (c : Cmd) | errlogClearAll (c : Cmd)
  | ptroot (c : Cmd) | packCommit (c : Cmd) | packCancel (c : Cmd)
  | resultDelivery (d : Delivery)
  | channelWordArrival (a : Arrival)
  | creditReturn (src : Src)
  | routerArbitration (link : Nat)
  | tagRequest (ea pool : Nat)
  | tagGrant (grp pool : Nat)
  | tagCreditArrival (ea pool : Nat) (tag : Byte) (spawn : Bool)
  | tagReleaseArrival (grp pool : Nat) (tag : Byte) (ea ctx slot : Nat)
  | bankService (bank : Nat)
  | handleFullAfterCommit (ea h : Nat)
  | operatorInput (ea : Nat)
  | operatorEnd (ea : Nat)
  | meQueueFill (ea : Nat)
  | meRowReadServed (ea : Nat) (isC : Bool) (id part addr : Nat)
  | mePlaneRead (ea : Nat) (read : Nat × Option (Nat × Nat))
  | mePlaneReady (ea : Nat)
  | meRowLand (l : RowLand)
  | meOutputRowWrite (ea id part : Nat)
  | meNotice (ea : Nat)
  | requestCreditReturn (ea out epoch : Nat)
  | tlbLookup (r : MReq)
  | tlbWalk (w : Walk)
  | requestPerform (r : MReq)
  | feService (r : MReq)
  | replyArrival (r : MReq) (value : Word) (poison : Bool)
  | ackArrival (r : MReq)
  | orderTokenArrival (ea out : Nat) (tag : Byte) (home : Nat)
  | joinWordEntry (ea ctx id : Nat)
  | genElementIssue (ea g : Nat)
  | genStreamEnd (ea g : Nat)
  | copyFlowTake (c : CopyReq)
  | ringBindArrival (tile flow : Nat)
  | permitArrival (tile flow : Nat)
  | copyGranule (tile : Nat) (p : GranPart)
  | copyComplete (tile flow : Nat) (status code : Byte)
  | ccanAtHub (tile ea ctx reg : Nat)
  | barrierMessageArrival (m : BarMsg)
  | completePhase (tile bar : Nat)
  | tinvalAck (ea ctx : Nat)
  | qpushEntry (r : MReq)
  | enqueueEntry (e : EntryReq)
  | schedulerDecision (die : Nat)
  | launchStart (lid : Nat)
  | launchComplete (lid : Nat)
  | signalUpdate (signal : Nat) (add : BitVec 32)
  | imageLoadRequest (l : LoadReq)
  | spliceSwap (ea : Nat)
  | spliceSettled (ea : Nat)
  | kernelComplete (grp : Nat)
  | groupStall (grp : Nat)
  | quiescence (grp : Nat)
  | fenceArrival (grp tile : Nat)
  | faultRecordArrival (r : FRec)
  | svcReplyDelivery (ea ctx : Nat) (value : Word)
  | migrationStart (m : MigReq)
  | migrationCommit (id : Nat)
  | queryAccept (r : MReq)
  | queryAdmit (stack : Nat)
  | queryStep (stack : Nat)
  | queryComplete (stack id : Nat)
  | qabortArrival (stack id : Nat) (r : MReq)
  | screeGather (stack : Nat)
  | screeScatter (stack : Nat)
  | imageLoad (m : Msg)
  | enqueue (m : Msg)
  | memread (m : Msg)
  | memwrite (m : Msg)
  | regread (m : Msg)
  | regwrite (m : Msg)
  | preempt (m : Msg)
  | domainCreate (m : Msg)
  | domainDestroy (m : Msg)
  | telem (m : Mgmt)
  | powerCap (m : Mgmt)
  | fwUpdate (m : Mgmt)
  | logRead (m : Mgmt)
  | attest (m : Mgmt)
  | keyset (m : Mgmt)
  | setModule (m : Mgmt)
  | reset (m : Mgmt)
  | ownerSet (m : Mgmt)
  | pushWrite (die port : Nat) (value : Word)
  | queueEnable (queue : Nat) (value : Word)
  | queueDisable (queue : Nat) (value : Word)
  | preqWrite (grp : Nat) (value : Word)
  | gcmdResume (grp : Nat)
  | gcmdRetire (grp : Nat)
  | cctlResume (ea ctx : Nat) (value : Word)
  | svcReplyWrite (ea ctx : Nat) (value : Word) (die : Nat)
  | pageResume (grp : Nat) (seq : BitVec 16)
  | eventQueuePop (die core : Nat)
  | commandStatusPop (die port : Nat)
  | fullBitSet (stack unit : Nat)
  | fullBitClear (stack unit : Nat)
  | appendGo (port : Nat)
  | linkEnable (link : Nat)
  | linkDisable (link : Nat)
  | linkFenceWrite (link : Nat)
  | linkReset (link : Nat)
  | registerWrite (agent : Agent) (off : Nat) (value : Word)
  | fwTransferTimeout
  | preemptTimeout
  | linkDownRetry
  | remoteTimeout
  | stackReadyTimeout
  | telemetrySample (x : Sensors)
  | clockThrottle (power : BitVec 16) (hot : Bool)
  | powerOn
  | bringupStageEnd (image : List Byte)
  | torReady (stack : Nat) (ok capok : Bool) (version : BitVec 32)
  | crestCoreAccess (die core : Nat) (write : Bool) (addr : Nat) (bytes : List Byte)
  | portOffline (stack port : Nat)
  | savedGroupDiscard (grp : Nat)
  | groupRelease (grp : Nat)
  | crestCoreAvailability (die core : Nat) (available : Bool)
  | scrub (unit : Nat) (correctable uncorrectable : Bool)
  | machineCheck (array entry ea : Nat) (dieScope : Bool)
  | preemptRequest (grp : Nat) (hard : Bool)
  | deferFreeze (grp stack : Nat) (freeze discard : Bool)
  | restore (grp : Nat) (digestOk : Bool)
  | groupRetire (grp : Nat)
  | remoteBatch (stack id remote : Nat)
  | nakReceive (link : Nat) (ack : BitVec 12)
  | trainingEnd (link lanes : Nat)
  | linkRetrain (link : Nat)
  | fenceFlitReceive (link : Nat)
  | linkFenced (link : Nat)
  | remoteRequestArrival (r : RemoteReq)
  | flitReceive (link : Nat) (flit : List Byte) (srcModule : Nat) (load : FlitLoad)
  | appendCommit (port : Nat) (mediaFails : Bool)
  deriving DecidableEq, Repr

end Sys2Proof
end

