-- ==== Sys2Proof/WellFormed.lean ====
section
/-! DEFINITION. Which slots and commands are well formed: the opcode map (R40, Tables 2-9 to 2-14) and the load
checks 7 to 16 of Table 2-15, which also judge a slot at run time (R43). -/

namespace Sys2Proof

/-- Physical or configured kind of an element (R12, Table 2-8). -/
inductive EKind | te | se | me | empty
  deriving DecidableEq, Repr, Inhabited

/-- What an operand form asks of DA (Table 2-7); `quiet` is any code but those of outputs (R331). -/
inductive DaForm | none | any | star | reg | out | quiet
  deriving DecidableEq, Repr, Inhabited

/-- One row of the opcode tables: DA, whether DB is used, the number of sources, whether the literal is an
immediate, the kinds, and the capability bit of ECW.CAP. -/
structure OpInfo where
  da : DaForm
  db : Bool
  ns : Nat
  lit : Bool
  te : Bool
  se : Bool
  me : Bool
  cap : Option Nat
  deriving DecidableEq, Repr

/-- Tables 2-9 to 2-14 (R40). -/
def opInfo (op : Nat) : Option OpInfo :=
  match op with
  | 0x01 | 0x3F => some ⟨.any, false, 1, false, true, true, false, none⟩
  | 0x02 => some ⟨.any, true, 2, false, true, true, false, none⟩
  | 0x03 | 0x2D => some ⟨.any, false, 2, true, true, true, false, none⟩
  | 0x04 => some ⟨.none, false, 2, false, true, true, false, none⟩
  | 0x05 => some ⟨.out, false, 0, false, true, true, true, none⟩
  | 0x06 | 0x07 | 0x0B => some ⟨.none, false, 0, false, true, true, true, none⟩
  | 0x08 | 0x09 | 0x7C | 0x90 | 0x91 | 0x98 | 0x99 => some ⟨.none, false, 0, true, true, true, false, none⟩
  | 0x0A | 0x79 | 0x7A | 0x92 => some ⟨.none, false, 1, true, true, true, false, none⟩
  | 0x0C | 0x9B => some ⟨.none, false, 1, false, true, false, false, none⟩
  | 0x10 | 0x11 | 0x1B | 0x1C | 0x1D | 0x1E | 0x20 | 0x21 | 0x22 | 0x23 | 0x24 | 0x25 | 0x26 | 0x38 | 0x39 | 0x3A | 0x3B | 0x3C | 0x3D | 0x3E => some ⟨.any, false, 2, false, true, true, false, none⟩
  | 0x12 | 0x13 | 0x14 | 0x15 | 0x16 | 0x17 | 0x19 | 0x1A | 0x27 | 0x30 | 0x31 | 0x32 | 0x33 | 0x34 | 0x35 | 0x40 | 0x41 | 0x42 | 0x44 | 0x45 | 0x48 | 0x49 | 0x4A | 0x50 | 0x51 | 0x52 | 0x54 | 0x55 | 0x62 | 0x65 | 0x66 | 0x6B | 0x6E | 0x6F => some ⟨.any, false, 2, false, true, false, false, none⟩
  | 0x18 | 0x36 | 0x37 | 0x43 | 0x53 | 0x56 | 0x57 => some ⟨.star, false, 2, false, true, false, false, none⟩
  | 0x1F | 0x28 | 0x29 | 0x2A | 0x46 | 0x47 | 0x4B | 0x4C | 0x58 | 0x60 | 0x61 | 0x63 | 0x64 | 0x67 | 0x68 | 0x69 | 0x6A | 0x6C | 0x6D | 0x77 => some ⟨.any, false, 1, false, true, false, false, none⟩
  | 0x2B => some ⟨.any, false, 1, true, true, false, false, none⟩
  | 0x2C => some ⟨.star, false, 1, true, true, false, false, none⟩
  | 0x70 => some ⟨.none, false, 2, true, true, false, false, some 2⟩
  | 0x71 => some ⟨.none, false, 1, true, true, false, false, none⟩
  | 0x72 => some ⟨.any, false, 0, true, true, false, false, none⟩
  | 0x93 => some ⟨.quiet, false, 0, true, true, true, false, none⟩
  | 0x73 | 0x75 | 0x78 => some ⟨.any, false, 0, true, true, true, false, none⟩
  | 0x74 => some ⟨.out, false, 0, false, true, true, false, none⟩
  | 0x76 => some ⟨.none, false, 2, false, true, false, false, none⟩
  | 0x7B => some ⟨.any, false, 0, false, true, true, false, none⟩
  | 0x80 | 0x81 | 0x82 | 0x83 => some ⟨.out, false, 2, false, true, true, false, none⟩
  | 0x84 | 0x85 => some ⟨.out, false, 2, true, true, true, false, none⟩
  | 0x86 | 0x87 => some ⟨.out, false, 1, true, true, true, false, none⟩
  | 0x88 => some ⟨.reg, false, 2, true, true, true, false, none⟩
  | 0x89 => some ⟨.none, false, 1, false, true, true, false, none⟩
  | 0x94 => some ⟨.none, false, 2, true, true, false, false, some 0⟩
  | 0x95 => some ⟨.none, false, 0, false, true, true, false, none⟩
  | 0x96 | 0x97 => some ⟨.out, false, 1, false, true, true, false, none⟩
  | 0x9A => some ⟨.none, false, 2, false, true, false, false, some 1⟩
  | 0x9C => some ⟨.none, false, 1, true, true, false, false, some 3⟩
  | 0xA0 => some ⟨.any, false, 1, true, false, true, false, none⟩
  | 0xA1 | 0xAC => some ⟨.none, false, 2, true, false, true, false, none⟩
  | 0xA2 => some ⟨.any, false, 2, true, false, true, false, none⟩
  | 0xA3 => some ⟨.any, false, 0, true, false, true, false, none⟩
  | 0xA4 | 0xA6 => some ⟨.none, false, 1, false, false, true, false, none⟩
  | 0xA5 => some ⟨.any, false, 2, false, false, true, false, none⟩
  | 0xA7 | 0xA8 | 0xAA => some ⟨.any, false, 1, false, false, true, false, none⟩
  | 0xA9 => some ⟨.none, false, 2, false, false, true, false, none⟩
  | 0xAB | 0xAD | 0xAE | 0xAF | 0xB0 | 0xB1 => some ⟨.none, false, 1, true, false, true, false, none⟩
  | 0xC0 | 0xC1 | 0xC3 => some ⟨.none, false, 0, true, false, false, true, none⟩
  | 0xC2 | 0xC4 | 0xC6 => some ⟨.none, false, 0, false, false, false, true, none⟩
  | 0xC5 => some ⟨.out, false, 0, false, false, false, true, none⟩
  | _ => none

/-- Opcodes 0xF0 to 0xF5 are command-only (R41). -/
def commandOnly (op : Nat) : Bool := 0xF0 ≤ op && op ≤ 0xF5

/-- Whether the opcode may stand in a slot of the kind. -/
def OpInfo.allows (o : OpInfo) : EKind → Bool
  | .te => o.te
  | .se => o.se
  | .me => o.me
  | .empty => false

/-- What a route of the element is, for check 12 (R228, R352). -/
inductive RouteUse | unbound | words | request (endp : BitVec 8)
  deriving DecidableEq, Repr, Inhabited

/-- What the checks 7 to 16 of a slot look at beside its words (R42, R43). -/
structure SlotEnv where
  kind : EKind
  ctxen : BitVec 4
  cap : BitVec 4
  bound : BitVec 32
  routes : List (Nat × RouteUse)
  pools : BitVec 8
  deriving DecidableEq, Repr

/-- The use of output `o`. -/
def SlotEnv.route (e : SlotEnv) (o : BitVec 5) : RouteUse :=
  match e.routes.find? (fun p => p.1 == o.toNat) with
  | some p => p.2
  | none => .unbound

/-- The opcode is a request opcode (R228, R368). -/
def requestOp (op : Nat) : Bool := 0x80 ≤ op && op ≤ 0x87 || op == 0x96 || op == 0x97

/-- The slot sends on output A (R36). -/
def SlotF.usesA (f : SlotF) (op : Nat) : Bool :=
  f.da == 16 || f.da == 18 || f.db == 16 || f.db == 18 || op == 0x04 || op == 0x70

/-- The slot sends on output B (R36). -/
def SlotF.usesB (f : SlotF) (op : Nat) : Bool :=
  f.da == 17 || f.da == 18 || f.db == 17 || f.db == 18 || op == 0x04 || (op == 0x70 && f.xb)

/-- The slot sends a word (R35). -/
def SlotF.sends (f : SlotF) (op : Nat) : Bool := f.usesA op || f.usesB op

/-- Source code `c` is valid for the kind and its needs are met (Table 2-4). -/
def srcOk (k : EKind) (f : SlotF) (c : BitVec 5) : Bool :=
  let n := c.toNat
  (match k with
   | .te => n != 23
   | .se => n < 8 || (16 ≤ n && n ≤ 28 && n != 23)
   | .me => 16 ≤ n && n ≤ 21
   | .empty => false) &&
  ((n != 16 && n != 18) || f.ua) && ((n != 17 && n != 19) || f.ub)

/-- `c` is a register code valid for the kind. -/
def regOk (k : EKind) (c : BitVec 5) : Bool :=
  match k with
  | .te => c.toNat < 16
  | .se => c.toNat < 8
  | _ => false

/-- Destination code `c` is valid for the kind and its needs are met (Table 2-5). -/
def dstOk (k : EKind) (f : SlotF) (c : BitVec 5) : Bool :=
  let n := c.toNat
  if n == 31 then true
  else if n == 16 then f.xa
  else if n == 17 then f.xb
  else if n == 18 then f.xa && f.xb
  else if n < 16 then regOk k c
  else n ≤ 27 && (k == .te || k == .se)

/-- Check 7, the guard's own part: CM is not empty and lies within CTXEN (R31). -/
def check7 (e : SlotEnv) (f : SlotF) : Bool := f.cm != 0 && (f.cm &&& ~~~ e.ctxen) == 0

/-- Check 8 (R31). -/
def check8 (f : SlotF) : Bool := (f.pv &&& ~~~ f.pm) == 0

/-- Check 9 for a slot (R31). -/
def check9 (e : SlotEnv) (f : SlotF) : Bool :=
  (f.ua || (f.ia == 0 && !f.ka)) && (f.ub || (f.ib == 0 && !f.kb)) && !(f.ua && f.ub && f.ia == f.ib) &&
  (f.xa || f.oa == 0) && (f.xb || f.ob == 0) && !(f.xa && f.xb && f.oa == f.ob) &&
  (!f.ua || e.bound.getLsbD f.ia.toNat) && (!f.ub || e.bound.getLsbD f.ib.toNat) &&
  (!f.xa || e.route f.oa != .unbound) && (!f.xb || e.route f.ob != .unbound)

/-- Check 10: the tag test (Table 2-2). -/
def check10 (e : SlotEnv) (f : SlotF) : Bool :=
  (match f.tm.toNat with
   | 0 => true
   | 1 | 4 | 5 => f.ua
   | 2 | 3 => f.ua && f.ub
   | 6 => f.ub
   | _ => f.ua && e.kind == .te) &&
  (f.tl == 0 || f.tm == 1 || f.tm == 4 || f.ta == 2)

/-- The route of a declared output suits the opcode (R228, R352). -/
def routeSuits (e : SlotEnv) (op : Nat) (declared : Bool) (o : BitVec 5) : Bool :=
  !declared ||
  match e.route o with
  | .request endp => requestOp op && ((op != 0x82 && op != 0x83) || endp == 0x82)
  | _ => !requestOp op

/-- Check 12 (Tables 2-4, 2-5, 2-7, R36). -/
def check12 (e : SlotEnv) (op : Nat) (o : OpInfo) (f : SlotF) : Bool :=
  (if o.ns == 0 then f.sa == 0 else srcOk e.kind f f.sa) &&
  (if o.ns == 2 && !(op == 0x70 && !f.xb) then srcOk e.kind f f.sb else f.sb == 0) &&
  (match o.da with
   | .none => f.da == 31
   | .any => dstOk e.kind f f.da
   | .quiet => dstOk e.kind f f.da && !(16 ≤ f.da.toNat && f.da.toNat ≤ 18)
   | .star | .reg => regOk e.kind f.da
   | .out => (f.da == 16 || f.da == 17 || (f.da == 18 && !requestOp op)) && dstOk e.kind f f.da) &&
  (if o.db then dstOk e.kind f f.db else f.db == 31) &&
  (op != 0x89 || regOk e.kind f.sa) &&
  (f.xa == f.usesA op) && (f.xb == f.usesB op) &&
  routeSuits e op f.xa f.oa && routeSuits e op f.xb f.ob

/-- Check 13: overlapping destinations (R36). -/
def check13 (f : SlotF) : Bool :=
  let a := f.da.toNat
  let b := f.db.toNat
  let bit (n : Nat) := 20 ≤ n && n ≤ 27
  !(a == b && a != 31) && !(a == 18 && (b == 16 || b == 17)) && !(b == 18 && (a == 16 || a == 17)) &&
  !(a == 19 && bit b) && !(b == 19 && bit a)

/-- The slot reads the literal through source code 20. -/
def readsLit (o : OpInfo) (f : SlotF) : Bool := (o.ns ≥ 1 && f.sa == 20) || (o.ns ≥ 2 && f.sb == 20)

/-- Check 14: the tag action (Table 2-6, R37). -/
def check14 (e : SlotEnv) (op : Nat) (o : OpInfo) (f : SlotF) : Bool :=
  if f.sends op then
    (op != 0x70 || f.ta == 6) &&
    match f.ta.toNat with
    | 0 | 3 => f.ua
    | 1 => f.ub
    | 2 | 5 => true
    | 4 => e.kind == .te
    | 6 => e.kind == .te && f.lit >>> 3 == 0 && !readsLit o f && e.pools.getLsbD (f.lit.toNat % 8)
    | 7 => e.kind == .te && f.ua && f.ka
    | 8 => f.ua && f.ub
    | _ => false
  else f.ta == 0

/-- Check 15 (R37). -/
def check15 (o : OpInfo) (f : SlotF) : Bool := o.lit || readsLit o f || f.ta == 6 || f.lit == 0

/-- Check 16: the capability bit (R38). -/
def check16 (e : SlotEnv) (o : OpInfo) : Bool :=
  match o.cap with
  | some b => e.cap.getLsbD b
  | none => true

/-- The number of the first failing check 7 to 16 of a valid slot, whose reserved guard bits are `rsv`. -/
def slotCheck (e : SlotEnv) (rsv : BitVec 3) (op : Nat) (f : SlotF) : Option Nat :=
  if rsv != 0 || !check7 e f then some 7
  else if !check8 f then some 8
  else if !check9 e f then some 9
  else if !check10 e f then some 10
  else match opInfo op with
  | none => some 11
  | some o =>
    if !o.allows e.kind then some 11
    else if !check12 e op o f then some 12
    else if !check13 f then some 13
    else if !check14 e op o f then some 14
    else if !check15 o f then some 15
    else if !check16 e o then some 16
    else none

/-- The environment in which every channel is bound, every output has a route of the kind the opcode needs, every
pool is declared and every capability given: what a slot's own words can break. -/
def openEnv (k : EKind) (op : Nat) : SlotEnv :=
  ⟨k, 0xF, 0xF, 0xFFFFFFFF,
   (List.range 32).map (fun o => (o, if requestOp op then .request (if op == 0x82 || op == 0x83 then 0x82 else 0x80) else .words)),
   0xFF⟩

/-- The slot's words are well formed for some kind of element (R31, R36, R37). -/
def SlotF.wf (f : SlotF) (op : Nat) : Bool :=
  [EKind.te, .se, .me].any (fun k => slotCheck (openEnv k op) 0 op f == none)

/-- A command's action word and reserved bytes are well formed for opcode `op` (R279). -/
def Cmd.wf (c : Cmd) (op : Nat) : Bool := c.action == BitVec.ofNat 32 (op <<< 24) && c.rsv == 0

/-- Reserved fields of a message header are 0 and the type is `t` (Table 17-5). -/
def Msg.wf (m : Msg) (t : Nat) : Bool :=
  m.type.toNat == t && m.rsv == 0 && m.core >>> 5 == 0 && m.payload.length ≤ 65536

/-- A management command carries the code `c` and at most 4,096 bytes (R428). -/
def Mgmt.wf (m : Mgmt) (c : Nat) : Bool := m.code.toNat == c && m.rsv == 0 && m.data.length ≤ 4096

end Sys2Proof
end

