-- ==== Sys2Proof/Decode.lean ====
section
/-! DEFINITION. Decoding and encoding: slots (R27, R29, R32), commands (R279, R280), Sniqua messages (R400) and
management commands (R428), from bytes and back. Bytes are little-endian (R3). -/

namespace Sys2Proof

/-- Why bytes are no instruction. -/
inductive DecodeError
  /-- Fewer bytes than the record needs. -/
  | truncated
  /-- The guard's V bit is 0 (R28). -/
  | invalidSlot
  /-- A reserved field is not 0 (R29, R52, R279, R400, R428). -/
  | reservedField
  /-- The opcode is reserved (R41). -/
  | reservedOpcode (op : Nat)
  /-- The opcode is command-only and stands in a slot (R41). -/
  | commandOnlyOpcode (op : Nat)
  /-- The opcode of a command is none of 0xF0 to 0xF5, or its variant is reserved (R279, R281). -/
  | unknownCommand (op : Nat)
  /-- The message type is reserved or sent by the X8 alone (Table 17-6). -/
  | unknownMessage (type : Nat)
  /-- The management code is reserved (Table 19-3). -/
  | unknownMgmt (code : Nat)
  deriving DecidableEq, Repr

/-- The value of little-endian bytes (R3). -/
def leNat : List Byte → Nat
  | [] => 0
  | b :: bs => b.toNat + 256 * leNat bs

/-- `n` little-endian bytes of a value (R3). -/
def leBytes : Nat → Nat → List Byte
  | 0, _ => []
  | n + 1, v => BitVec.ofNat 8 v :: leBytes n (v / 256)

/-- The `n` bytes from offset `o` as a value. -/
def leAt (bs : List Byte) (o n : Nat) : Nat := leNat ((bs.drop o).take n)

/-- The `n` bytes from offset `o` as a word of width `w`. -/
def wAt (w : Nat) (bs : List Byte) (o n : Nat) : BitVec w := BitVec.ofNat w (leAt bs o n)

/-- The guard word of a valid slot (Table 2-1). -/
def guardWord (f : SlotF) : Word :=
  1#1 ++ f.cm ++ f.pri ++ f.pm ++ f.pv ++ BitVec.ofBool f.ua ++ f.ia ++ BitVec.ofBool f.ub ++ f.ib ++ f.tm ++ f.tl ++
  BitVec.ofBool f.ka ++ BitVec.ofBool f.kb ++ BitVec.ofBool f.xa ++ f.oa ++ BitVec.ofBool f.xb ++ f.ob ++ 0#3

/-- The action word (Table 2-3). -/
def actionWord (op : Nat) (f : SlotF) : BitVec 32 :=
  BitVec.ofNat 8 op ++ f.sa ++ f.sb ++ f.da ++ f.db ++ f.ta

/-- The fields of a slot's three words (Tables 2-1 and 2-3). -/
def slotFields (g : Word) (a : BitVec 32) (l : Word) : SlotF where
  cm := g.extractLsb' 59 4
  pri := g.extractLsb' 56 3
  pm := g.extractLsb' 48 8
  pv := g.extractLsb' 40 8
  ua := g.getLsbD 39
  ia := g.extractLsb' 34 5
  ub := g.getLsbD 33
  ib := g.extractLsb' 28 5
  tm := g.extractLsb' 25 3
  tl := g.extractLsb' 17 8
  ka := g.getLsbD 16
  kb := g.getLsbD 15
  xa := g.getLsbD 14
  oa := g.extractLsb' 9 5
  xb := g.getLsbD 8
  ob := g.extractLsb' 3 5
  sa := a.extractLsb' 19 5
  sb := a.extractLsb' 14 5
  da := a.extractLsb' 9 5
  db := a.extractLsb' 4 5
  ta := a.extractLsb' 0 4
  lit := l

/-- The opcode of an action word (Table 2-3). -/
def opcodeOf (a : BitVec 32) : Nat := (a.extractLsb' 24 8).toNat

/-- The instruction of a slot opcode (Tables 2-9 to 2-14). -/
def slotInstr (op : Nat) (f : SlotF) : Option Instr :=
  match op with
  | 0x01 => some (.mov f)
  | 0x02 => some (.mov2 f)
  | 0x03 => some (.sel f)
  | 0x04 => some (.steer f)
  | 0x05 => some (.sendeos f)
  | 0x06 => some (.halt f)
  | 0x07 => some (.exit f)
  | 0x08 => some (.pset f)
  | 0x09 => some (.pclr f)
  | 0x0A => some (.pmov f)
  | 0x0B => some (.drop f)
  | 0x0C => some (.ctag f)
  | 0x10 => some (.add f)
  | 0x11 => some (.sub f)
  | 0x12 => some (.adds f)
  | 0x13 => some (.addus f)
  | 0x14 => some (.subs f)
  | 0x15 => some (.mul f)
  | 0x16 => some (.mulh f)
  | 0x17 => some (.mulhu f)
  | 0x18 => some (.mac f)
  | 0x19 => some (.divu f)
  | 0x1A => some (.remu f)
  | 0x1B => some (.min f)
  | 0x1C => some (.max f)
  | 0x1D => some (.minu f)
  | 0x1E => some (.maxu f)
  | 0x1F => some (.abs f)
  | 0x20 => some (.and f)
  | 0x21 => some (.or f)
  | 0x22 => some (.xor f)
  | 0x23 => some (.andn f)
  | 0x24 => some (.shl f)
  | 0x25 => some (.shr f)
  | 0x26 => some (.sar f)
  | 0x27 => some (.rol f)
  | 0x28 => some (.clz f)
  | 0x29 => some (.ctz f)
  | 0x2A => some (.popc f)
  | 0x2B => some (.bext f)
  | 0x2C => some (.bins f)
  | 0x2D => some (.lea f)
  | 0x30 => some (.addW2 f)
  | 0x31 => some (.subW2 f)
  | 0x32 => some (.mulW2 f)
  | 0x33 => some (.minW2 f)
  | 0x34 => some (.maxW2 f)
  | 0x35 => some (.addsW2 f)
  | 0x36 => some (.idot8 f)
  | 0x37 => some (.idot8u f)
  | 0x38 => some (.ceq f)
  | 0x39 => some (.cne f)
  | 0x3A => some (.clt f)
  | 0x3B => some (.cle f)
  | 0x3C => some (.cltu f)
  | 0x3D => some (.cleu f)
  | 0x3E => some (.ctst f)
  | 0x3F => some (.cz f)
  | 0x40 => some (.faddS2 f)
  | 0x41 => some (.fsubS2 f)
  | 0x42 => some (.fmulS2 f)
  | 0x43 => some (.fmaS2 f)
  | 0x44 => some (.fminS2 f)
  | 0x45 => some (.fmaxS2 f)
  | 0x46 => some (.frcpeS2 f)
  | 0x47 => some (.frsqeS2 f)
  | 0x48 => some (.fceqS2 f)
  | 0x49 => some (.fcltS2 f)
  | 0x4A => some (.fcleS2 f)
  | 0x4B => some (.fclassS2 f)
  | 0x4C => some (.frndS2 f)
  | 0x50 => some (.faddH4 f)
  | 0x51 => some (.fsubH4 f)
  | 0x52 => some (.fmulH4 f)
  | 0x53 => some (.fmaH4 f)
  | 0x54 => some (.fminH4 f)
  | 0x55 => some (.fmaxH4 f)
  | 0x56 => some (.fdotwH4 f)
  | 0x57 => some (.fdotwQ8 f)
  | 0x58 => some (.fsumS2 f)
  | 0x60 => some (.cvtSI f)
  | 0x61 => some (.cvtIS f)
  | 0x62 => some (.packBf f)
  | 0x63 => some (.unpkBfLo f)
  | 0x64 => some (.unpkBfHi f)
  | 0x65 => some (.packE4 f)
  | 0x66 => some (.packE5 f)
  | 0x67 => some (.unpkE4Lo f)
  | 0x68 => some (.unpkE4Hi f)
  | 0x69 => some (.unpkE5Lo f)
  | 0x6A => some (.unpkE5Hi f)
  | 0x6B => some (.packF16 f)
  | 0x6C => some (.unpkF16Lo f)
  | 0x6D => some (.unpkF16Hi f)
  | 0x6E => some (.qntI8 f)
  | 0x6F => some (.deqI8Lo f)
  | 0x70 => some (.spawn f)
  | 0x71 => some (.tfree f)
  | 0x72 => some (.pooln f)
  | 0x73 => some (.chst f)
  | 0x74 => some (.join f)
  | 0x75 => some (.rdcnt f)
  | 0x76 => some (.spill f)
  | 0x77 => some (.fill f)
  | 0x78 => some (.rdsr f)
  | 0x79 => some (.wrsr f)
  | 0x7A => some (.setsc f)
  | 0x7B => some (.rdflg f)
  | 0x7C => some (.clrflg f)
  | 0x80 => some (.ld f)
  | 0x81 => some (.st f)
  | 0x82 => some (.lde f)
  | 0x83 => some (.stf f)
  | 0x84 => some (.amo f)
  | 0x85 => some (.cas f)
  | 0x86 => some (.gat f)
  | 0x87 => some (.sca f)
  | 0x88 => some (.copy f)
  | 0x89 => some (.ccan f)
  | 0x90 => some (.barArv f)
  | 0x91 => some (.barDrop f)
  | 0x92 => some (.barInit f)
  | 0x93 => some (.barQ f)
  | 0x94 => some (.qpush f)
  | 0x95 => some (.sbar f)
  | 0x96 => some (.qry f)
  | 0x97 => some (.qabort f)
  | 0x98 => some (.trap f)
  | 0x99 => some (.brk f)
  | 0x9A => some (.migr f)
  | 0x9B => some (.tinval f)
  | 0x9C => some (.svc f)
  | 0xA0 => some (.sld f)
  | 0xA1 => some (.sst f)
  | 0xA2 => some (.samo f)
  | 0xA3 => some (.hacq f)
  | 0xA4 => some (.hcommit f)
  | 0xA5 => some (.hread f)
  | 0xA6 => some (.hrel f)
  | 0xA7 => some (.hstat f)
  | 0xA8 => some (.tlook f)
  | 0xA9 => some (.tins f)
  | 0xAA => some (.tevict f)
  | 0xAB => some (.gen f)
  | 0xAC => some (.genp f)
  | 0xAD => some (.isect f)
  | 0xAE => some (.merge f)
  | 0xAF => some (.topk f)
  | 0xB0 => some (.prune f)
  | 0xB1 => some (.redc f)
  | 0xC0 => some (.mldB f)
  | 0xC1 => some (.mldBs f)
  | 0xC2 => some (.mrow f)
  | 0xC3 => some (.mcfg f)
  | 0xC4 => some (.mdrain f)
  | 0xC5 => some (.mls f)
  | 0xC6 => some (.mclr f)
  | _ => none

/-- The opcode and slot of a slot instruction. -/
def slotOf : Instr → Option (Nat × SlotF)
  | .mov f => some (0x01, f)
  | .mov2 f => some (0x02, f)
  | .sel f => some (0x03, f)
  | .steer f => some (0x04, f)
  | .sendeos f => some (0x05, f)
  | .halt f => some (0x06, f)
  | .exit f => some (0x07, f)
  | .pset f => some (0x08, f)
  | .pclr f => some (0x09, f)
  | .pmov f => some (0x0A, f)
  | .drop f => some (0x0B, f)
  | .ctag f => some (0x0C, f)
  | .add f => some (0x10, f)
  | .sub f => some (0x11, f)
  | .adds f => some (0x12, f)
  | .addus f => some (0x13, f)
  | .subs f => some (0x14, f)
  | .mul f => some (0x15, f)
  | .mulh f => some (0x16, f)
  | .mulhu f => some (0x17, f)
  | .mac f => some (0x18, f)
  | .divu f => some (0x19, f)
  | .remu f => some (0x1A, f)
  | .min f => some (0x1B, f)
  | .max f => some (0x1C, f)
  | .minu f => some (0x1D, f)
  | .maxu f => some (0x1E, f)
  | .abs f => some (0x1F, f)
  | .and f => some (0x20, f)
  | .or f => some (0x21, f)
  | .xor f => some (0x22, f)
  | .andn f => some (0x23, f)
  | .shl f => some (0x24, f)
  | .shr f => some (0x25, f)
  | .sar f => some (0x26, f)
  | .rol f => some (0x27, f)
  | .clz f => some (0x28, f)
  | .ctz f => some (0x29, f)
  | .popc f => some (0x2A, f)
  | .bext f => some (0x2B, f)
  | .bins f => some (0x2C, f)
  | .lea f => some (0x2D, f)
  | .addW2 f => some (0x30, f)
  | .subW2 f => some (0x31, f)
  | .mulW2 f => some (0x32, f)
  | .minW2 f => some (0x33, f)
  | .maxW2 f => some (0x34, f)
  | .addsW2 f => some (0x35, f)
  | .idot8 f => some (0x36, f)
  | .idot8u f => some (0x37, f)
  | .ceq f => some (0x38, f)
  | .cne f => some (0x39, f)
  | .clt f => some (0x3A, f)
  | .cle f => some (0x3B, f)
  | .cltu f => some (0x3C, f)
  | .cleu f => some (0x3D, f)
  | .ctst f => some (0x3E, f)
  | .cz f => some (0x3F, f)
  | .faddS2 f => some (0x40, f)
  | .fsubS2 f => some (0x41, f)
  | .fmulS2 f => some (0x42, f)
  | .fmaS2 f => some (0x43, f)
  | .fminS2 f => some (0x44, f)
  | .fmaxS2 f => some (0x45, f)
  | .frcpeS2 f => some (0x46, f)
  | .frsqeS2 f => some (0x47, f)
  | .fceqS2 f => some (0x48, f)
  | .fcltS2 f => some (0x49, f)
  | .fcleS2 f => some (0x4A, f)
  | .fclassS2 f => some (0x4B, f)
  | .frndS2 f => some (0x4C, f)
  | .faddH4 f => some (0x50, f)
  | .fsubH4 f => some (0x51, f)
  | .fmulH4 f => some (0x52, f)
  | .fmaH4 f => some (0x53, f)
  | .fminH4 f => some (0x54, f)
  | .fmaxH4 f => some (0x55, f)
  | .fdotwH4 f => some (0x56, f)
  | .fdotwQ8 f => some (0x57, f)
  | .fsumS2 f => some (0x58, f)
  | .cvtSI f => some (0x60, f)
  | .cvtIS f => some (0x61, f)
  | .packBf f => some (0x62, f)
  | .unpkBfLo f => some (0x63, f)
  | .unpkBfHi f => some (0x64, f)
  | .packE4 f => some (0x65, f)
  | .packE5 f => some (0x66, f)
  | .unpkE4Lo f => some (0x67, f)
  | .unpkE4Hi f => some (0x68, f)
  | .unpkE5Lo f => some (0x69, f)
  | .unpkE5Hi f => some (0x6A, f)
  | .packF16 f => some (0x6B, f)
  | .unpkF16Lo f => some (0x6C, f)
  | .unpkF16Hi f => some (0x6D, f)
  | .qntI8 f => some (0x6E, f)
  | .deqI8Lo f => some (0x6F, f)
  | .spawn f => some (0x70, f)
  | .tfree f => some (0x71, f)
  | .pooln f => some (0x72, f)
  | .chst f => some (0x73, f)
  | .join f => some (0x74, f)
  | .rdcnt f => some (0x75, f)
  | .spill f => some (0x76, f)
  | .fill f => some (0x77, f)
  | .rdsr f => some (0x78, f)
  | .wrsr f => some (0x79, f)
  | .setsc f => some (0x7A, f)
  | .rdflg f => some (0x7B, f)
  | .clrflg f => some (0x7C, f)
  | .ld f => some (0x80, f)
  | .st f => some (0x81, f)
  | .lde f => some (0x82, f)
  | .stf f => some (0x83, f)
  | .amo f => some (0x84, f)
  | .cas f => some (0x85, f)
  | .gat f => some (0x86, f)
  | .sca f => some (0x87, f)
  | .copy f => some (0x88, f)
  | .ccan f => some (0x89, f)
  | .barArv f => some (0x90, f)
  | .barDrop f => some (0x91, f)
  | .barInit f => some (0x92, f)
  | .barQ f => some (0x93, f)
  | .qpush f => some (0x94, f)
  | .sbar f => some (0x95, f)
  | .qry f => some (0x96, f)
  | .qabort f => some (0x97, f)
  | .trap f => some (0x98, f)
  | .brk f => some (0x99, f)
  | .migr f => some (0x9A, f)
  | .tinval f => some (0x9B, f)
  | .svc f => some (0x9C, f)
  | .sld f => some (0xA0, f)
  | .sst f => some (0xA1, f)
  | .samo f => some (0xA2, f)
  | .hacq f => some (0xA3, f)
  | .hcommit f => some (0xA4, f)
  | .hread f => some (0xA5, f)
  | .hrel f => some (0xA6, f)
  | .hstat f => some (0xA7, f)
  | .tlook f => some (0xA8, f)
  | .tins f => some (0xA9, f)
  | .tevict f => some (0xAA, f)
  | .gen f => some (0xAB, f)
  | .genp f => some (0xAC, f)
  | .isect f => some (0xAD, f)
  | .merge f => some (0xAE, f)
  | .topk f => some (0xAF, f)
  | .prune f => some (0xB0, f)
  | .redc f => some (0xB1, f)
  | .mldB f => some (0xC0, f)
  | .mldBs f => some (0xC1, f)
  | .mrow f => some (0xC2, f)
  | .mcfg f => some (0xC3, f)
  | .mdrain f => some (0xC4, f)
  | .mls f => some (0xC5, f)
  | .mclr f => some (0xC6, f)
  | _ => none

/-- The instruction that the three words of a slot hold (R27 to R32, R41). -/
def decodeSlot (g : Word) (a : BitVec 32) (l : Word) : Except DecodeError Instr :=
  if !g.getLsbD 63 then .error .invalidSlot
  else if g.extractLsb' 0 3 != 0 then .error .reservedField
  else
    let op := opcodeOf a
    if commandOnly op then .error (.commandOnlyOpcode op)
    else match slotInstr op (slotFields g a l) with
      | some i => .ok i
      | none => .error (.reservedOpcode op)

/-- The instruction of the 24 bytes of a slot in an image (R52): guard word, literal, action word, four zero bytes. -/
def decodeSlotBytes (bs : List Byte) : Except DecodeError Instr :=
  if bs.length < 24 then .error .truncated
  else if leAt bs 20 4 != 0 then .error .reservedField
  else decodeSlot (wAt 64 bs 0 8) (wAt 32 bs 16 4) (wAt 64 bs 8 8)

/-- The command item that a cfgw's ADDR names (Table 11-4). -/
def itemOf (addr : Word) : Nat := (addr.extractLsb' 16 4).toNat

/-- The instruction that OP, ITEM and MODE of a command name (R279, R280, R286, Tables 18-7 to 18-9). -/
def cmdInstr (c : Cmd) : Option Instr :=
  match opcodeOf c.action with
  | 0xF0 =>
    match itemOf c.addr with
    | 0 => some (.cfgwEcw c)
    | 1 => some (.cfgwGuard c)
    | 2 => some (.cfgwAction c)
    | 3 => some (.cfgwLiteral c)
    | 4 => some (.cfgwChannel c)
    | 5 => some (.cfgwRouteHeader c)
    | 6 => some (.cfgwRouteTarget c)
    | 7 => some (.cfgwMeBinding c)
    | 8 => some (.cfgwHandleRecord c)
    | 9 => some (.cfgwPartition c)
    | 10 => some (.cfgwBarrierInit c)
    | 11 => some (.cfgwWaiterTarget c)
    | 12 => some (.cfgwTagPool c)
    | _ => none
  | 0xF1 =>
    match (c.value.extractLsb' 0 2).toNat with
    | 0 => some (.cfgswapSwap c)
    | 1 => some (.cfgswapSplice c)
    | 2 => some (.cfgswapClear c)
    | _ => none
  | 0xF2 => some (if c.value.extractLsb' 4 2 == 3 then .errinjDisarm c else .errinj c)
  | 0xF3 =>
    match (c.value.extractLsb' 0 2).toNat with
    | 0 => some (.errlogRemoveOldest c)
    | 1 => some (.errlogClearAll c)
    | _ => none
  | 0xF4 => some (.ptroot c)
  | 0xF5 =>
    match (c.value.extractLsb' 0 2).toNat with
    | 0 => some (.packCommit c)
    | 1 => some (.packCancel c)
    | _ => none
  | _ => none

/-- The instruction of a command's fields: the bits beside OP, and the reserved bytes, are 0 (R279). -/
def decodeCmd (c : Cmd) : Except DecodeError Instr :=
  if c.action.extractLsb' 0 24 != 0 || c.rsv != 0 then .error .reservedField
  else match cmdInstr c with
  | some i => .ok i
  | none => .error (.unknownCommand (opcodeOf c.action))

/-- The command of 24 bytes written to port `port` of die `die` (R279). -/
def decodeCommandBytes (die port : Nat) (bs : List Byte) : Except DecodeError Instr :=
  if bs.length < 24 then .error .truncated
  else decodeCmd ⟨die, port, wAt 32 bs 0 4, wAt 32 bs 4 4, wAt 64 bs 8 8, wAt 64 bs 16 8⟩

/-- The command of a command instruction. -/
def cmdOf : Instr → Option Cmd
  | .cfgwEcw c => some c
  | .cfgwGuard c => some c
  | .cfgwAction c => some c
  | .cfgwLiteral c => some c
  | .cfgwChannel c => some c
  | .cfgwRouteHeader c => some c
  | .cfgwRouteTarget c => some c
  | .cfgwMeBinding c => some c
  | .cfgwHandleRecord c => some c
  | .cfgwPartition c => some c
  | .cfgwBarrierInit c => some c
  | .cfgwWaiterTarget c => some c
  | .cfgwTagPool c => some c
  | .cfgswapSwap c => some c
  | .cfgswapSplice c => some c
  | .cfgswapClear c => some c
  | .errinj c => some c
  | .errinjDisarm c => some c
  | .errlogRemoveOldest c => some c
  | .errlogClearAll c => some c
  | .ptroot c => some c
  | .packCommit c => some c
  | .packCancel c => some c
  | _ => none

/-- The instruction of a request message (Table 17-6). Only its compilation is off: the runtime has no tag for the
last constructors of `Instr`; the kernel evaluates it like any other. -/
noncomputable def decodeMsg (m : Msg) : Except DecodeError Instr :=
  if m.rsv != 0 || m.core.extractLsb' 5 3 != 0 then .error .reservedField
  else match m.type.toNat with
  | 1 => .ok (.imageLoad m)
  | 2 => .ok (.enqueue m)
  | 3 => .ok (.memread m)
  | 4 => .ok (.memwrite m)
  | 5 => .ok (.regread m)
  | 6 => .ok (.regwrite m)
  | 7 => .ok (.preempt m)
  | 8 => .ok (if m.arg0 == 1 then .domainDestroy m else .domainCreate m)
  | t => .error (.unknownMessage t)

/-- The header of a message (Table 17-5). -/
def msgHeader (m : Msg) : List Byte :=
  leBytes 2 m.type.toNat ++ [m.core, m.rsv] ++ leBytes 4 m.payload.length ++ leBytes 8 m.tag.toNat ++
  leBytes 2 m.dom.toNat ++ leBytes 2 m.grp.toNat ++ leBytes 4 m.arg0.toNat ++ leBytes 8 m.arg1.toNat

/-- A message as bytes: its header, its payload, and zeros to a multiple of 8 (R400). -/
def encodeMsg (m : Msg) : List Byte :=
  msgHeader m ++ m.payload ++ List.replicate ((8 - m.payload.length % 8) % 8) 0

/-- The message that bytes hold (R400). -/
def msgOfBytes (bs : List Byte) : Option Msg :=
  let len := leAt bs 4 4
  if bs.length < 32 || bs.length < 32 + len then none
  else some ⟨wAt 16 bs 0 2, wAt 8 bs 2 1, wAt 8 bs 3 1, wAt 64 bs 8 8, wAt 16 bs 16 2, wAt 16 bs 18 2, wAt 32 bs 20 4,
    wAt 64 bs 24 8, (bs.drop 32).take len⟩

/-- The request message of bytes (R400). -/
noncomputable def decodeMessageBytes (bs : List Byte) : Except DecodeError Instr :=
  match msgOfBytes bs with
  | none => .error .truncated
  | some m => decodeMsg m

/-- The message of a message instruction. -/
def msgOf : Instr → Option Msg
  | .imageLoad m => some m
  | .enqueue m => some m
  | .memread m => some m
  | .memwrite m => some m
  | .regread m => some m
  | .regwrite m => some m
  | .preempt m => some m
  | .domainCreate m => some m
  | .domainDestroy m => some m
  | _ => none

/-- The instruction of a management command (Table 19-3); compilation off, as for `decodeMsg`. -/
noncomputable def decodeMgmt (m : Mgmt) : Except DecodeError Instr :=
  if m.rsv != 0 then .error .reservedField
  else match m.code.toNat with
  | 1 => .ok (.telem m)
  | 2 => .ok (.powerCap m)
  | 3 => .ok (.fwUpdate m)
  | 4 => .ok (.logRead m)
  | 5 => .ok (.attest m)
  | 6 => .ok (.keyset m)
  | 7 => .ok (.setModule m)
  | 8 => .ok (.reset m)
  | 9 => .ok (.ownerSet m)
  | c => .error (.unknownMgmt c)

/-- A management request as the bytes after the vendor header of its Borelle message (R428). -/
def encodeMgmt (m : Mgmt) : List Byte :=
  [m.code, m.rsv] ++ leBytes 2 m.tag.toNat ++ leBytes 4 m.data.length ++ leBytes 8 m.arg0.toNat ++
  leBytes 8 m.arg1.toNat ++ m.data

/-- The management request of the bytes of a Borelle message after its vendor header (R428). -/
noncomputable def decodeMgmtBytes (bs : List Byte) : Except DecodeError Instr :=
  let len := leAt bs 4 4
  if bs.length < 24 || bs.length < 24 + len then .error .truncated
  else decodeMgmt ⟨none, wAt 8 bs 0 1, wAt 8 bs 1 1, wAt 16 bs 2 2, wAt 64 bs 8 8, wAt 64 bs 16 8, (bs.drop 24).take len⟩

/-- The management request of a management instruction. -/
def mgmtOf : Instr → Option Mgmt
  | .telem m => some m
  | .powerCap m => some m
  | .fwUpdate m => some m
  | .logRead m => some m
  | .attest m => some m
  | .keyset m => some m
  | .setModule m => some m
  | .reset m => some m
  | .ownerSet m => some m
  | _ => none

/-- The bytes of a slot in an image (R52). -/
def encodeSlot (op : Nat) (f : SlotF) : List Byte :=
  leBytes 8 (guardWord f).toNat ++ leBytes 8 f.lit.toNat ++ leBytes 4 (actionWord op f).toNat ++ leBytes 4 0

/-- The 24 bytes of a command (R279). -/
def encodeCmd (c : Cmd) : List Byte :=
  leBytes 4 c.action.toNat ++ leBytes 4 c.rsv.toNat ++ leBytes 8 c.addr.toNat ++ leBytes 8 c.value.toNat

/-- The bytes of an instruction that has an encoding of its own: a slot, a command, a message, a management command. -/
def encode (i : Instr) : Option (List Byte) :=
  match slotOf i, cmdOf i, msgOf i, mgmtOf i with
  | some (op, f), _, _, _ => some (encodeSlot op f)
  | _, some c, _, _ => some (encodeCmd c)
  | _, _, some m, _ => some (encodeMsg m)
  | _, _, _, some m => some (encodeMgmt m)
  | _, _, _, _ => none

/-- An answer of the decoder as an option. -/
def okOpt (r : Except DecodeError Instr) : Option Instr :=
  match r with
  | .ok i => some i
  | .error _ => none

/-- The instruction of bits numbered as the opcode table numbers them (log 13). The table gives its rows no bits, so
the layout is the model's: the 24 bytes of a valid slot (V at bit 63) or of a command (its opcode at bits [31:24]). -/
def decodeTableWord (nbits w : Nat) : Option Instr :=
  let bs := leBytes 24 (w % 2 ^ nbits)
  if w.testBit 63 then okOpt (decodeSlotBytes bs) else okOpt (decodeCommandBytes 0 0 bs)

end Sys2Proof
end

