-- ==== Sys2Proof/Machine/Flags.lean ====
section
/-! DEFINITION. Number formats, the five rounding modes, the sticky flags and the window sum (chapter 03, R55 to R79).
Values are exact: a finite value is a sign, a magnitude and a power of two; every result is rounded once at the end. -/

namespace Sys2Proof.Machine

/-- A set of flags (Table 3-5): NV, OF, UF, NX, SAT, LS from bit 0. -/
abbrev FlagSet := BitVec 6

abbrev flNV : FlagSet := 1
abbrev flOF : FlagSet := 2
abbrev flUF : FlagSet := 4
abbrev flNX : FlagSet := 8
abbrev flSAT : FlagSet := 16
abbrev flLS : FlagSet := 32

/-- The flag `fl` when `c` holds. -/
def flagIf (c : Bool) (fl : FlagSet) : FlagSet := if c then fl else 0

/-- A rounding mode (R65). The reserved codes 5 to 7 are never installed (R39). -/
inductive Rnd | rne | rtz | rdn | rup | rna
  deriving DecidableEq, Repr, Inhabited

/-- The mode of an RND code (Table 2-8). -/
def rndOf (n : Nat) : Rnd :=
  match n with
  | 1 => .rtz
  | 2 => .rdn
  | 3 => .rup
  | 4 => .rna
  | _ => .rne

/-- A value of a real format: a NaN (signalling or quiet), NaR, an infinity, or (−1)^neg · m · 2^e. -/
inductive FV
  | nan (sig : Bool)
  | nar
  | inf (neg : Bool)
  | fin (neg : Bool) (m : Nat) (e : Int)
  deriving DecidableEq, Repr, Inhabited

/-- An IEEE format by its exponent bits, fraction bits and bias (Table 3-1). -/
structure Fmt where
  eb : Nat
  fb : Nat
  bias : Nat
  deriving DecidableEq, Repr

abbrev fp32 : Fmt := ⟨8, 23, 127⟩
abbrev fp16 : Fmt := ⟨5, 10, 15⟩
abbrev bf16 : Fmt := ⟨8, 7, 127⟩

/-- Bits of the format. -/
def Fmt.width (f : Fmt) : Nat := 1 + f.eb + f.fb
/-- The pattern of infinity without its sign. -/
def Fmt.infBits (f : Fmt) : Nat := (2 ^ f.eb - 1) * 2 ^ f.fb
/-- The canonical NaN (Table 3-1). -/
def Fmt.nanBits (f : Fmt) : Nat := f.infBits + 2 ^ (f.fb - 1)
/-- The largest finite pattern. -/
def Fmt.maxBits (f : Fmt) : Nat := f.infBits - 1
/-- The sign as a bit of the pattern. -/
def Fmt.signBit (f : Fmt) (neg : Bool) : Nat := if neg then 2 ^ (f.eb + f.fb) else 0

/-- The value of a pattern (R56, R57). -/
def Fmt.value (f : Fmt) (bits : Nat) : FV :=
  let neg := bits.testBit (f.eb + f.fb)
  let ex := bits / 2 ^ f.fb % 2 ^ f.eb
  let fr := bits % 2 ^ f.fb
  if ex == 2 ^ f.eb - 1 then
    if fr == 0 then .inf neg else .nan (!fr.testBit (f.fb - 1))
  else if ex == 0 then .fin neg fr (1 - (f.bias : Int) - f.fb)
  else .fin neg (2 ^ f.fb + fr) ((ex : Int) - f.bias - f.fb)

/-- Whether the truncated quotient `q` with remainder `r` of a division by `2 * half` is rounded up in magnitude. -/
def roundUp (mode : Rnd) (neg : Bool) (q r half : Nat) : Bool :=
  match mode with
  | .rne => r > half || (r == half && q % 2 == 1)
  | .rtz => false
  | .rdn => neg && r != 0
  | .rup => !neg && r != 0
  | .rna => r ≥ half && r != 0

/-- `m · 2^e` (m ≠ 0) as a multiple of 2^u: the rounded multiple, and whether it is inexact. -/
def roundAt (mode : Rnd) (neg : Bool) (m : Nat) (e u : Int) : Nat × Bool :=
  if u ≤ e then (m * 2 ^ (e - u).toNat, false)
  else
    let d := (u - e).toNat
    let q := m / 2 ^ d
    let r := m % 2 ^ d
    (if roundUp mode neg q r (2 ^ (d - 1)) then q + 1 else q, r != 0)

/-- The pattern and flags of a finite non-zero value rounded to an IEEE format (R67, R71). -/
def Fmt.roundFin (f : Fmt) (mode : Rnd) (neg : Bool) (m : Nat) (e : Int) : Nat × FlagSet :=
  let msb : Int := Nat.log2 m + e
  let emin : Int := 1 - (f.bias : Int)
  let u := max (msb - f.fb) (emin - f.fb)
  let (q, nx) := roundAt mode neg m e u
  let (q, u) := if q ≥ 2 ^ (f.fb + 1) then (q / 2, u + 1) else (q, u)
  let ex : Int := if q < 2 ^ f.fb then 0 else u + f.fb + f.bias
  if ex ≥ (2 ^ f.eb - 1 : Nat) then
    let toInf : Bool := match mode with
      | .rne | .rna => true
      | .rtz => false
      | .rdn => neg
      | .rup => !neg
    (f.signBit neg + (if toInf then f.infBits else f.maxBits), flOF ||| flNX)
  else
    let bits := if ex == 0 then q else ex.toNat * 2 ^ f.fb + (q - 2 ^ f.fb)
    (f.signBit neg + bits, flagIf nx flNX ||| flagIf (nx && msb < emin) flUF)

/-- A value converted to an IEEE format (R67): NaN and NaR give the canonical NaN, a signalling NaN raises NV. -/
def Fmt.round (f : Fmt) (mode : Rnd) (v : FV) : Nat × FlagSet :=
  match v with
  | .nan sig => (f.nanBits, flagIf sig flNV)
  | .nar => (f.nanBits, 0)
  | .inf neg => (f.signBit neg + f.infBits, 0)
  | .fin neg m e => if m == 0 then (f.signBit neg, 0) else f.roundFin mode neg m e

/-- An F8 format by its fraction bits and bias (R58). -/
structure F8 where
  fb : Nat
  bias : Nat
  deriving DecidableEq, Repr

abbrev f8e4 : F8 := ⟨3, 7⟩
abbrev f8e5 : F8 := ⟨2, 15⟩

/-- The value of an F8 code (R58): exponent field 0 carries a hidden one; 0x00 is zero and 0x80 NaR. -/
def F8.value (f : F8) (b : Nat) : FV :=
  let c := b % 128
  if c == 0 then if b % 256 == 0 then .fin false 0 0 else .nar
  else .fin (b.testBit 7) (2 ^ f.fb + c % 2 ^ f.fb) ((c / 2 ^ f.fb : Nat) - (f.bias : Int) - f.fb)

/-- A value converted to an F8 format (R68). -/
def F8.round (f : F8) (mode : Rnd) (v : FV) : Nat × FlagSet :=
  let sgn (neg : Bool) : Nat := if neg then 128 else 0
  match v with
  | .nan sig => (0x80, flagIf sig flNV)
  | .nar => (0x80, 0)
  | .inf neg => (sgn neg + 0x7F, flOF ||| flNX)
  | .fin neg m e =>
    if m == 0 then (0, 0)
    else
      let lo : Int := -(f.bias : Int) - f.fb
      let min1 := 2 ^ f.fb + 1
      let msb : Int := Nat.log2 m + e
      -- exact comparison of m * 2^e with min1 * 2^lo
      let tiny := if lo ≤ e then m * 2 ^ (e - lo).toNat < min1 else m < min1 * 2 ^ (lo - e).toNat
      if tiny then
        -- between 0 and the smallest code: twice the value against min1 * 2^lo
        let a := if lo ≤ e then 2 * m * 2 ^ (e - lo).toNat else 2 * m
        let b := if lo ≤ e then min1 else min1 * 2 ^ (lo - e).toNat
        let up : Bool := match mode with
          | .rne => a > b
          | .rna => a ≥ b
          | .rtz => false
          | .rdn => neg
          | .rup => !neg
        (if up then sgn neg + 1 else 0, flUF ||| flNX)
      else
        let u := msb - f.fb
        let (q, nx) := roundAt mode neg m e u
        let (q, u) := if q ≥ 2 ^ (f.fb + 1) then (q / 2, u + 1) else (q, u)
        let c : Int := (u + f.fb + f.bias) * (2 ^ f.fb : Nat) + (q - 2 ^ f.fb : Nat)
        if c > 127 then (sgn neg + 0x7F, flOF ||| flNX)
        else (sgn neg + c.toNat, flagIf nx flNX)

/-- The value of an OCP code, E4M3 or E5M2 (R60): `e5` chooses E5M2. -/
def ocpValue (e5 : Bool) (b : Nat) : FV :=
  let neg := b.testBit 7
  let c := b % 128
  if e5 then
    let ex := c / 4
    let fr := c % 4
    if ex == 31 then (if fr == 0 then .inf neg else .nar)
    else if ex == 0 then .fin neg fr (-16) else .fin neg (4 + fr) ((ex : Int) - 17)
  else
    let ex := c / 8
    let fr := c % 8
    if c == 127 then .nar
    else if ex == 0 then .fin neg fr (-9) else .fin neg (8 + fr) ((ex : Int) - 10)

/-- Decoding of an OCP lane into F8E4 or F8E5 (R60, R61). -/
def ocpDecode (e5 : Bool) (mode : Rnd) (b : Nat) : Nat × FlagSet :=
  (if e5 then f8e5 else f8e4).round mode (ocpValue e5 b)

/-- The value of a P2 weight (R63): two signed powers of two, in units of 2^-6; every zero is the same zero. -/
def p2Value (b : Nat) : FV :=
  let term (s : Bool) (e : Nat) : Int := if e == 7 then 0 else (if s then -1 else 1) * (2 ^ (6 - e) : Nat)
  let v := term (b.testBit 7) (b / 16 % 8) + term (b.testBit 3) (b % 8)
  .fin (v < 0) v.natAbs (-6)

/-- An integer as a value. -/
def intValue (v : Int) : FV := .fin (v < 0) v.natAbs 0

/-- The `w` bits of `n` read as signed two's complement. -/
def sInt (w n : Nat) : Int := if (n % 2 ^ w).testBit (w - 1) then ((n % 2 ^ w : Nat) : Int) - (2 ^ w : Nat) else (n % 2 ^ w : Nat)

/-- An integer as `w` bits of two's complement. -/
def ofInt (w : Nat) (v : Int) : Nat := (v % (2 ^ w : Nat)).toNat

/-- Lane `i` of width `w` of a word (R55). -/
def lane (w : Nat) (x : Word) (i : Nat) : Nat := x.toNat / 2 ^ (w * i) % 2 ^ w

/-- The word of lanes of width `w`, lane 0 lowest (R55). -/
def ofLanes (w : Nat) (ls : List Nat) : Word := BitVec.ofNat 64 (ls.foldr (fun l acc => l % 2 ^ w + 2 ^ w * acc) 0)

/-- A value converted to a signed integer of `w` bits (R69). -/
def toInt (w : Nat) (mode : Rnd) (v : FV) : Int × FlagSet :=
  let lo : Int := -(2 ^ (w - 1) : Nat)
  let hi : Int := (2 ^ (w - 1) : Nat) - 1
  match v with
  | .nan _ | .nar => (0, flNV)
  | .inf neg => (if neg then lo else hi, flSAT)
  | .fin neg m e =>
    let (q, nx) := roundAt mode neg m e 0
    let r : Int := if neg then -(q : Int) else q
    if r < lo then (lo, flSAT) else if r > hi then (hi, flSAT) else (r, flagIf nx flNX)

/-- Exact sum of two finite values as an integer multiple of a power of two. -/
def addFin (na : Bool) (ma : Nat) (ea : Int) (nb : Bool) (mb : Nat) (eb : Int) : Int × Int :=
  let e := min ea eb
  let a : Int := (ma * 2 ^ (ea - e).toNat : Nat)
  let b : Int := (mb * 2 ^ (eb - e).toNat : Nat)
  ((if na then -a else a) + (if nb then -b else b), e)

/-- The exact sum of two values and its flags (R133): ∞ − ∞ is an invalid operation. -/
def addFV (a b : FV) : FV × FlagSet :=
  let sigOf : FV → Bool := fun v => v == .nan true
  let nv := flagIf (sigOf a || sigOf b) flNV
  match a, b with
  | .nan _, _ | .nar, _ | _, .nan _ | _, .nar => (.nan false, nv)
  | .inf x, .inf y => if x == y then (.inf x, 0) else (.nan false, flNV)
  | .inf x, _ => (.inf x, 0)
  | _, .inf y => (.inf y, 0)
  | .fin na ma ea, .fin nb mb eb =>
    let (s, e) := addFin na ma ea nb mb eb
    if s == 0 then (.fin (na && nb && ma == 0 && mb == 0) 0 0, 0)
    else (.fin (s < 0) s.natAbs e, 0)

/-- The exact product of two values and its flags (R133): 0 × ∞ is an invalid operation. DESIGN CHOICE (log 74): a zero of a format
that gives it no sign (F8 0x00, a P2 zero, an integer 0) counts as +0, and the sign of a zero product is the exclusive or of the
signs; R74 and R142 do not say what it is there. -/
def mulFV (a b : FV) : FV × FlagSet :=
  let sigOf : FV → Bool := fun v => v == .nan true
  let nv := flagIf (sigOf a || sigOf b) flNV
  match a, b with
  | .nan _, _ | .nar, _ | _, .nan _ | _, .nar => (.nan false, nv)
  | .inf x, .inf y => (.inf (x != y), 0)
  | .inf x, .fin n m _ => if m == 0 then (.nan false, flNV) else (.inf (x != n), 0)
  | .fin n m _, .inf y => if m == 0 then (.nan false, flNV) else (.inf (n != y), 0)
  | .fin na ma ea, .fin nb mb eb => (.fin (na != nb) (ma * mb) (ea + eb), 0)

/-- The negation of a value; a NaN stays as it is. -/
def negFV : FV → FV
  | .nan s => .nan s
  | .nar => .nar
  | .inf n => .inf (!n)
  | .fin n m e => .fin (!n) m e

/-- A value multiplied by an E8M0 scale (R64); 0xFF is NaN. -/
def scaleFV (v : FV) (s : Byte) : FV :=
  if s == 0xFF then .nan false
  else match v with
    | .fin n m e => .fin n m (e + s.toNat - 127)
    | v => v

/-- `a < b` for values that are not NaN; −0 and +0 are equal. -/
def ltFV (a b : FV) : Bool :=
  match a, b with
  | .inf x, .inf y => x && !y
  | .inf x, _ => x
  | _, .inf y => !y
  | .fin na ma ea, .fin nb mb eb => (addFin na ma ea (!nb) mb eb).1 < 0
  | _, _ => false

/-- Whether a value is a NaN or NaR. -/
def isNaN : FV → Bool
  | .nan _ | .nar => true
  | _ => false

/-- The window width of a WW code (Table 3-6). -/
def windowWidth (ww : Nat) : Nat :=
  match ww with
  | 0 => 24
  | 1 => 32
  | 2 => 40
  | 3 => 48
  | 4 => 56
  | 5 => 64
  | 6 => 80
  | _ => 96

/-- The finite members of a window sum as (sign, magnitude, exponent). -/
def finParts (xs : List FV) : List (Bool × Nat × Int) :=
  xs.filterMap (fun v => match v with
    | .fin n m e => some (n, m, e)
    | _ => none)

/-- R74: the window sum of finite values at width `W` into `dst`. -/
def wsFinite (xs : List (Bool × Nat × Int)) (W : Nat) (dst : Fmt) : Nat × FlagSet :=
  let nz := xs.filter (fun x => x.2.1 != 0)
  match nz with
  | [] => (dst.signBit (!xs.isEmpty && xs.all (fun x => x.1)), 0)
  | y :: ys =>
    let top (x : Bool × Nat × Int) : Int := Nat.log2 x.2.1 + x.2.2
    let emax := ys.foldl (fun a x => max a (top x)) (top y)
    let q := emax - W + 1
    let parts := nz.map (fun x =>
      let (k, nx) := roundAt .rtz false x.2.1 x.2.2 q
      ((if x.1 then -(k : Int) else (k : Int)), nx))
    let s : Int := parts.foldl (fun a p => a + p.1) 0
    let ls := flagIf (parts.any (fun p => p.2)) flLS
    if s == 0 then (0, ls)
    else
      let (r, fl) := dst.roundFin .rne (s < 0) s.natAbs q
      (r, fl ||| ls)

/-- R74, R75: the window sum of terms and addends (the addend is one more member of `xs`). -/
def windowSum (xs : List FV) (W : Nat) (dst : Fmt) : Nat × FlagSet :=
  if xs.any isNaN then (dst.nanBits, flNV)
  else
    let pos := xs.contains (.inf false)
    let neg := xs.contains (.inf true)
    if pos && neg then (dst.nanBits, flNV)
    else if pos || neg then (dst.signBit neg + dst.infBits, 0)
    else wsFinite (finParts xs) W dst

/-- R77: the integer window sum of exact products and an INT32 addend. -/
def wsInt (t : List Int) (c : Int) (sat : Bool) : Int × FlagSet :=
  let s := t.foldl (· + ·) c
  if sat then
    if s > 2147483647 then (2147483647, flSAT)
    else if s < -2147483648 then (-2147483648, flSAT)
    else (s, 0)
  else (sInt 32 (ofInt 32 s), 0)

/-- The largest `r` with `r * r ≤ n`, found bit by bit from bit `k − 1`. -/
def isqrtBits (n : Nat) : Nat → Nat → Nat
  | 0, r => r
  | k + 1, r =>
    let r' := r + 2 ^ k
    isqrtBits n k (if r' * r' ≤ n then r' else r)

end Sys2Proof.Machine
end

