-- ==== Sys2Proof/Machine/Arith.lean ====
section
/-! DEFINITION. What the arithmetic instructions compute (chapter 05, R124 to R145): pure functions from operand
values to a result and the flags it raises. -/

namespace Sys2Proof.Machine

/-- A result and its flags. -/
abbrev Res := Word × FlagSet

/-- A value clamped to signed 64 bits (R124). -/
def clampS64 (v : Int) : Res :=
  if v > 9223372036854775807 then (0x7FFFFFFFFFFFFFFF, flSAT)
  else if v < -9223372036854775808 then (0x8000000000000000, flSAT)
  else (BitVec.ofInt 64 v, 0)

/-- R124. -/
def aluAdds (a b : Word) : Res := clampS64 (a.toInt + b.toInt)
/-- R124. -/
def aluSubs (a b : Word) : Res := clampS64 (a.toInt - b.toInt)
/-- R124. -/
def aluAddus (a b : Word) : Res :=
  if a.toNat + b.toNat ≥ 2 ^ 64 then (0xFFFFFFFFFFFFFFFF, flSAT) else (a + b, 0)
/-- R124: the upper half of the exact signed product. -/
def aluMulh (a b : Word) : Word := BitVec.ofInt 64 ((a.toInt * b.toInt) / (2 ^ 64 : Nat))
/-- R124: the upper half of the exact unsigned product. -/
def aluMulhu (a b : Word) : Word := BitVec.ofNat 64 (a.toNat * b.toNat / 2 ^ 64)
/-- R124. -/
def aluMin (a b : Word) : Word := if a.toInt ≤ b.toInt then a else b
/-- R124. -/
def aluMax (a b : Word) : Word := if a.toInt ≤ b.toInt then b else a
/-- R124. -/
def aluMinu (a b : Word) : Word := if a.toNat ≤ b.toNat then a else b
/-- R124. -/
def aluMaxu (a b : Word) : Word := if a.toNat ≤ b.toNat then b else a
/-- R124. -/
def aluAbs (a : Word) : Res :=
  if a == 0x8000000000000000 then (0x7FFFFFFFFFFFFFFF, flSAT) else (if a.msb then -a else a, 0)

/-- Significant bits of a word: 64 − clz (R125). -/
def sigBits (a : Word) : Nat := if a == 0 then 0 else Nat.log2 a.toNat + 1
/-- R125: the latency of a division by its dividend. -/
def divLatency (a : Word) : Nat := 6 + (sigBits a + 1) / 2
/-- R125. -/
def aluDivu (a b : Word) : Word := if b == 0 then 0xFFFFFFFFFFFFFFFF else BitVec.ofNat 64 (a.toNat / b.toNat)
/-- R125. -/
def aluRemu (a b : Word) : Word := if b == 0 then a else BitVec.ofNat 64 (a.toNat % b.toNat)

/-- Whether an exact value lies outside signed 64 bits. -/
def outsideS64 (v : Int) : Bool := v > 9223372036854775807 || v < -9223372036854775808

/-- R126: SA + SB·2^SH, or nothing when a step leaves the range. -/
def aluLea (a b lit : Word) : Option Word :=
  let p := b.toInt * (2 ^ (lit.toNat % 64) : Nat)
  let v := a.toInt + p
  if outsideS64 p || outsideS64 v then none else some (BitVec.ofInt 64 v)

/-- R127. -/
def aluShl (a b : Word) : Word := a <<< (b.toNat % 64)
/-- R127. -/
def aluShr (a b : Word) : Word := a >>> (b.toNat % 64)
/-- R127. -/
def aluSar (a b : Word) : Word := a.sshiftRight (b.toNat % 64)
/-- R127. -/
def aluRol (a b : Word) : Word := (a <<< (b.toNat % 64)) ||| (if b.toNat % 64 == 0 then 0 else a >>> (64 - b.toNat % 64))

/-- R128. -/
def aluClz (a : Word) : Word := BitVec.ofNat 64 (64 - sigBits a)
/-- R128: the number of the lowest set bit, or 64. -/
def aluCtz (a : Word) : Word :=
  BitVec.ofNat 64 (((List.range 64).find? (fun i => a.getLsbD i)).getD 64)
/-- R128. -/
def aluPopc (a : Word) : Word := BitVec.ofNat 64 ((List.range 64).countP (fun i => a.getLsbD i))

/-- R129: the bits [hi:pos] that the literal names, as position and width. -/
def fieldOf (lit : Word) : Nat × Nat :=
  let pos := lit.toNat % 64
  let w := lit.toNat / 256 % 64 + 1
  (pos, min (pos + w - 1) 63 - pos + 1)
/-- R129. -/
def aluBext (a lit : Word) : Word :=
  let (pos, n) := fieldOf lit
  let f := a.toNat / 2 ^ pos % 2 ^ n
  if lit.getLsbD 16 then BitVec.ofInt 64 (sInt n f) else BitVec.ofNat 64 f
/-- R129. -/
def aluBins (d a lit : Word) : Word :=
  let (pos, n) := fieldOf lit
  let mask : Word := BitVec.ofNat 64 ((2 ^ n - 1) * 2 ^ pos)
  (d &&& ~~~mask) ||| ((a <<< pos) &&& mask)

/-- Two lanes of 32 bits, each computed on its own (R130). -/
def lanes2 (g : Nat → Nat → Nat × FlagSet) (a b : Word) : Res :=
  let r0 := g (lane 32 a 0) (lane 32 b 0)
  let r1 := g (lane 32 a 1) (lane 32 b 1)
  (ofLanes 32 [r0.1, r1.1], r0.2 ||| r1.2)

/-- R130. -/
def aluAddW2 (a b : Word) : Word := (lanes2 (fun x y => (x + y, 0)) a b).1
/-- R130. -/
def aluSubW2 (a b : Word) : Word := (lanes2 (fun x y => (x + 2 ^ 32 - y, 0)) a b).1
/-- R130. -/
def aluMulW2 (a b : Word) : Word := (lanes2 (fun x y => (x * y, 0)) a b).1
/-- R130. -/
def aluMinW2 (a b : Word) : Word := (lanes2 (fun x y => (if sInt 32 x ≤ sInt 32 y then x else y, 0)) a b).1
/-- R130. -/
def aluMaxW2 (a b : Word) : Word := (lanes2 (fun x y => (if sInt 32 x ≤ sInt 32 y then y else x, 0)) a b).1
/-- R130. -/
def aluAddsW2 (a b : Word) : Res :=
  lanes2 (fun x y =>
    let v := sInt 32 x + sInt 32 y
    if v > 2147483647 then (2147483647, flSAT)
    else if v < -2147483648 then (2147483648, flSAT)
    else (ofInt 32 v, 0)) a b

/-- R131: one step of the saturating integer window sum; `sgn` chooses signed lanes. -/
def aluIdot8 (sgn : Bool) (d a b : Word) : Res :=
  let v (x : Word) (i : Nat) : Int := if sgn then sInt 8 (lane 8 x i) else (lane 8 x i : Int)
  let t := (List.range 8).map (fun i => v a i * v b i)
  let (r, fl) := wsInt t (sInt 32 (lane 32 d 0)) true
  (BitVec.ofInt 64 r, fl)

/-- A truth value as a 64-bit result (R132). -/
def boolWord (c : Bool) : Word := if c then 1 else 0

/-- R132. -/
def aluCeq (a b : Word) : Word := boolWord (a == b)
/-- R132. -/
def aluCne (a b : Word) : Word := boolWord (a != b)
/-- R132. -/
def aluClt (a b : Word) : Word := boolWord (a.toInt < b.toInt)
/-- R132. -/
def aluCle (a b : Word) : Word := boolWord (a.toInt ≤ b.toInt)
/-- R132. -/
def aluCltu (a b : Word) : Word := boolWord (a.toNat < b.toNat)
/-- R132. -/
def aluCleu (a b : Word) : Word := boolWord (a.toNat ≤ b.toNat)
/-- R132. -/
def aluCtst (a b : Word) : Word := boolWord ((a &&& b) != 0)
/-- R132. -/
def aluCz (a : Word) : Word := boolWord (a == 0)

/-- The lanes of a floating format in a word, computed one by one (R133). -/
def fpLanes (f : Fmt) (g : Nat → Nat × FlagSet) : Res :=
  let rs := (List.range (64 / f.width)).map g
  (ofLanes f.width (rs.map (·.1)), rs.foldl (fun acc r => acc ||| r.2) 0)

/-- Lane `i` as a value. -/
def fpVal (f : Fmt) (x : Word) (i : Nat) : FV := f.value (lane f.width x i)

/-- A lane result rounded to the lane format under RNE (R66, R133). -/
def fpRne (f : Fmt) (r : FV × FlagSet) : Nat × FlagSet :=
  let o := f.round .rne r.1
  (o.1, o.2 ||| r.2)

/-- R134. -/
def aluFadd (f : Fmt) (a b : Word) : Res := fpLanes f (fun i => fpRne f (addFV (fpVal f a i) (fpVal f b i)))
/-- R134. -/
def aluFsub (f : Fmt) (a b : Word) : Res := fpLanes f (fun i => fpRne f (addFV (fpVal f a i) (negFV (fpVal f b i))))
/-- R134. -/
def aluFmul (f : Fmt) (a b : Word) : Res := fpLanes f (fun i => fpRne f (mulFV (fpVal f a i) (fpVal f b i)))
/-- R134: a × b + c with one rounding. -/
def aluFma (f : Fmt) (c a b : Word) : Res :=
  fpLanes f (fun i =>
    let p := mulFV (fpVal f a i) (fpVal f b i)
    let r := addFV p.1 (fpVal f c i)
    fpRne f (r.1, r.2 ||| p.2))

/-- A value that ranks a pattern for fmin and fmax: −0 below +0 (R135). -/
def rankLt (f : Fmt) (x y : Nat) : Bool :=
  let vx := f.value x
  let vy := f.value y
  ltFV vx vy || (!ltFV vy vx && x.testBit (f.width - 1) && !y.testBit (f.width - 1))

/-- R135: `mx` chooses the larger. -/
def aluFminmax (mx : Bool) (f : Fmt) (a b : Word) : Res :=
  fpLanes f (fun i =>
    let x := lane f.width a i
    let y := lane f.width b i
    let vx := f.value x
    let vy := f.value y
    let nv := flagIf (vx == .nan true || vy == .nan true) flNV
    if isNaN vx && isNaN vy then (f.nanBits, nv)
    else if isNaN vx then (y, nv)
    else if isNaN vy then (x, nv)
    else (if rankLt f x y != mx then x else y, nv))

/-- R136: bit i is the answer for lane i; `sigOnly` raises NV for signalling NaNs alone. -/
def aluFcmp (sigOnly : Bool) (g : FV → FV → Bool) (a b : Word) : Res :=
  let one (i : Nat) : Nat × FlagSet :=
    let x := fpVal fp32 a i
    let y := fpVal fp32 b i
    if isNaN x || isNaN y then (0, flagIf (!sigOnly || x == .nan true || y == .nan true) flNV)
    else ((g x y).toNat, 0)
  (BitVec.ofNat 64 ((one 0).1 + 2 * (one 1).1), (one 0).2 ||| (one 1).2)

/-- R136. -/
def aluFceq (a b : Word) : Res := aluFcmp true (fun x y => !ltFV x y && !ltFV y x) a b
/-- R136. -/
def aluFclt (a b : Word) : Res := aluFcmp false ltFV a b
/-- R136. -/
def aluFcle (a b : Word) : Res := aluFcmp false (fun x y => !ltFV y x) a b

/-- R137: the class bit of an FP32 pattern. -/
def classBit (x : Nat) : Nat :=
  match fp32.value x with
  | .nan sig => if sig then 8 else 9
  | .nar => 9
  | .inf neg => if neg then 0 else 7
  | .fin neg m _ =>
    if m == 0 then (if neg then 3 else 4)
    else if x / 2 ^ 23 % 256 == 0 then (if neg then 2 else 5)
    else (if neg then 1 else 6)

/-- R137. -/
def aluFclass (a : Word) : Word := ofLanes 32 [2 ^ classBit (lane 32 a 0), 2 ^ classBit (lane 32 a 1)]

/-- R138. -/
def aluFrnd (a : Word) : Res :=
  fpLanes fp32 (fun i =>
    let x := lane 32 a i
    match fp32.value x with
    | .nan sig => (fp32.nanBits, flagIf sig flNV)
    | .nar => (fp32.nanBits, 0)
    | .inf _ => (x, 0)
    | .fin neg m e =>
      let (q, nx) := roundAt .rne neg m e 0
      ((fp32.round .rne (.fin neg q 0)).1, flagIf nx flNX))

/-- Normalisation of a finite non-zero magnitude: floor((m − 1)·2^11) and the exponent (R139). -/
def normIndex (m : Nat) (e : Int) : Nat × Int :=
  let k := Nat.log2 m
  (m * 2 ^ 11 / 2 ^ k - 2 ^ 11, k + e)

/-- R139: the 12-bit reciprocal estimate of one lane. -/
def rcpLane (x : Nat) : Nat × FlagSet :=
  match fp32.value x with
  | .nan sig => (fp32.nanBits, flagIf sig flNV)
  | .nar => (fp32.nanBits, 0)
  | .inf neg => (fp32.signBit neg, 0)
  | .fin neg m e =>
    if m == 0 then (fp32.signBit neg + fp32.infBits, 0)
    else
      let (i, ex) := normIndex m e
      let n := 4096 + 2 * i + 1
      let q := 2 ^ 24 / n
      let r := 2 ^ 24 % n
      let k := if 2 * r > n then q + 1 else q
      let (bits, fl) := fp32.roundFin .rne neg k (-12 - ex)
      (bits, fl &&& flOF ||| flagIf ((fl &&& flOF) != 0) flNX)

/-- R140: the 12-bit reciprocal square root estimate of one lane. -/
def rsqLane (x : Nat) : Nat × FlagSet :=
  match fp32.value x with
  | .nan sig => (fp32.nanBits, flagIf sig flNV)
  | .nar => (fp32.nanBits, 0)
  | .inf neg => if neg then (fp32.nanBits, flNV) else (0, 0)
  | .fin neg m e =>
    if m == 0 then (fp32.signBit neg + fp32.infBits, 0)
    else if neg then (fp32.nanBits, flNV)
    else
      let (i, ex) := normIndex m e
      let k := (ex % 2).toNat
      let n := 4096 + 2 * i + 1
      -- 4096 / sqrt(mid) = sqrt(2^(36-k) / n), rounded to nearest through its double
      let r := isqrtBits (4 * 2 ^ (36 - k) / n) 14 0
      let j := (r + 1) / 2
      ((fp32.roundFin .rne false j (-12 - (ex - k) / 2)).1, 0)

/-- R139. -/
def aluFrcpe (a : Word) : Res := fpLanes fp32 (fun i => rcpLane (lane 32 a i))
/-- R140. -/
def aluFrsqe (a : Word) : Res := fpLanes fp32 (fun i => rsqLane (lane 32 a i))

/-- Where an operand came from, for the window dots (R141): the format code of its channel binding and the scale. -/
structure LaneSrc where
  fmt : Option Nat
  scale : Byte
  deriving DecidableEq, Repr, Inhabited

/-- Lane `i` of an fdotw.h4 operand (Table 5-9). -/
def h4Val (x : Word) (o : LaneSrc) (i : Nat) : FV :=
  match o.fmt with
  | some 2 => scaleFV (fp16.value (lane 16 x i)) o.scale
  | some 3 => scaleFV (bf16.value (lane 16 x i)) o.scale
  | _ => bf16.value (lane 16 x i)

/-- Lane `i` of an fdotw.q8 operand (Table 5-9); OCP channels have been decoded (R152). -/
def q8Val (x : Word) (o : LaneSrc) (i : Nat) : FV :=
  let b := lane 8 x i
  match o.fmt with
  | some 4 | some 6 => scaleFV (f8e4.value b) o.scale
  | some 5 | some 7 => scaleFV (f8e5.value b) o.scale
  | some 11 => p2Value b
  | some 8 => intValue (sInt 8 b)
  | some 9 => intValue b
  | _ => f8e4.value b

/-- R142: a window dot of `n` lanes with the FP32 addend in bits [31:0] of `d`. -/
def aluFdot (n : Nat) (g : Word → LaneSrc → Nat → FV) (W : Nat) (d a b : Word) (oa ob : LaneSrc) : Res :=
  let t := (List.range n).map (fun i => (mulFV (g a oa i) (g b ob i)).1)
  let (r, fl) := windowSum (t ++ [fp32.value (lane 32 d 0)]) W fp32
  (BitVec.ofNat 64 r, fl)

/-- R142. -/
def aluFdotwH4 (W : Nat) (d a b : Word) (oa ob : LaneSrc) : Res := aluFdot 4 h4Val W d a b oa ob
/-- R142. -/
def aluFdotwQ8 (W : Nat) (d a b : Word) (oa ob : LaneSrc) : Res := aluFdot 8 q8Val W d a b oa ob
/-- R143. -/
def aluFsum (W : Nat) (a : Word) : Res :=
  let (r, fl) := windowSum [fpVal fp32 a 0, fpVal fp32 a 1] W fp32
  (BitVec.ofNat 64 r, fl)

/-- A list of lane results as a word (R144). -/
def packLanes (w : Nat) (rs : List (Nat × FlagSet)) : Res :=
  (ofLanes w (rs.map (·.1)), rs.foldl (fun acc r => acc ||| r.2) 0)

/-- R144. -/
def aluCvtSI (m : Rnd) (a : Word) : Res :=
  packLanes 32 ([0, 1].map (fun i => fp32.round m (intValue (sInt 32 (lane 32 a i)))))
/-- R144. -/
def aluCvtIS (m : Rnd) (a : Word) : Res :=
  packLanes 32 ([0, 1].map (fun i =>
    let r := toInt 32 m (fpVal fp32 a i)
    (ofInt 32 r.1, r.2)))
/-- R144: pack.bf and pack.f16. -/
def aluPack (f : Fmt) (m : Rnd) (a b : Word) : Res :=
  packLanes 16 [f.round m (fpVal fp32 a 0), f.round m (fpVal fp32 a 1), f.round m (fpVal fp32 b 0), f.round m (fpVal fp32 b 1)]
/-- R144: lanes `k`, `k + 1` of a 16-bit format widened to FP32. -/
def aluUnpk16 (f : Fmt) (k : Nat) (a : Word) : Res :=
  packLanes 32 [fp32.round .rne (fpVal f a k), fp32.round .rne (fpVal f a (k + 1))]
/-- R144: pack.e4 and pack.e5. -/
def aluPack8 (f : F8) (m : Rnd) (a b : Word) : Res :=
  packLanes 8 ((List.range 4).map (fun i => f.round m (fpVal bf16 a i)) ++ (List.range 4).map (fun i => f.round m (fpVal bf16 b i)))
/-- R144: F8 lanes `k` to `k + 3` widened to BF16. -/
def aluUnpk8 (f : F8) (k : Nat) (a : Word) : Res :=
  packLanes 16 ((List.range 4).map (fun i => bf16.round .rne (f.value (lane 8 a (k + i)))))
/-- R145. -/
def aluQntI8 (m : Rnd) (a b : Word) : Res :=
  packLanes 8 ((List.range 4).map (fun i =>
    let p := mulFV (fpVal bf16 a i) (fpVal fp32 b 0)
    let r := toInt 8 m p.1
    (ofInt 8 r.1, r.2)))
/-- R145. DESIGN CHOICE (log 75): a lane of 0 with a negative scale gives −0, by the exclusive or of the signs; R145 does not say. -/
def aluDeqI8 (m : Rnd) (a b : Word) : Res :=
  packLanes 16 ((List.range 4).map (fun i =>
    let p := mulFV (intValue (sInt 8 (lane 8 a i))) (fpVal fp32 b 0)
    let r := bf16.round m p.1
    (r.1, r.2 ||| p.2)))

end Sys2Proof.Machine
end

