-- ==== Sys2Proof/Machine/Map.lean ====
section
/-! DEFINITION. Reading and writing the sparse tables of the machine (`Map`), memory among them: keys strictly rising,
and no entry equal to what an unlisted key reads as. -/

namespace Sys2Proof.Machine

/-- The entry of `k`, or `d` where none is listed. -/
def tget {α : Type} (d : α) (k : Nat) : Map α → α
  | [] => d
  | (k', v) :: m => if k == k' then v else tget d k m

/-- The table with `k` removed. -/
def tdel {α : Type} (k : Nat) : Map α → Map α
  | [] => []
  | (k', v) :: m => if k == k' then tdel k m else (k', v) :: tdel k m

/-- The table with `k` listed as `v`. -/
def tins {α : Type} (k : Nat) (v : α) : Map α → Map α
  | [] => [(k, v)]
  | (k', v') :: m => if k == k' then (k, v) :: m else if k < k' then (k, v) :: (k', v') :: m else (k', v') :: tins k v m

/-- The table in which `k` reads as `v`, where an unlisted key reads as `d`. -/
def tput {α : Type} [DecidableEq α] (d : α) (k : Nat) (v : α) (m : Map α) : Map α :=
  if v = d then tdel k m else tins k v m

/-- Every entry changed by `f`; entries that become `d` are no longer listed. -/
def tmap {α : Type} [DecidableEq α] (d : α) (f : Nat → α → α) (m : Map α) : Map α :=
  m.filterMap (fun p => if f p.1 p.2 = d then none else some (p.1, f p.1 p.2))

/-- The least key is above `b`. -/
def tabove {α : Type} (b : Nat) : Map α → Bool
  | [] => true
  | (k, _) :: _ => b < k

/-- The canonical form: keys strictly rising, no entry equal to `d`. -/
def twf {α : Type} [DecidableEq α] (d : α) : Map α → Bool
  | [] => true
  | (k, v) :: m => decide (v ≠ d) && tabove k m && twf d m

/-- The entry of a table whose unlisted keys hold nothing. -/
def tfind {α : Type} (k : Nat) : Map α → Option α
  | [] => none
  | (k', v) :: m => if k == k' then some v else tfind k m

/-- A number in a rising list of numbers. -/
def nmem (k : Nat) (l : List Nat) : Bool := l.contains k

/-- A rising list of numbers with `k` in it. -/
def nadd (k : Nat) : List Nat → List Nat
  | [] => [k]
  | x :: xs => if k == x then x :: xs else if k < x then k :: x :: xs else x :: nadd k xs

/-- A list of numbers without `k`. -/
def ndel (k : Nat) (l : List Nat) : List Nat := l.filter (fun x => x != k)

end Sys2Proof.Machine
end

