-- ==== Sys2Proof/Machine/Geometry.lean ====
section
/-! DEFINITION. Where things are: element addresses (R9, R12, R15), hop counts and paths (R155), crossings (R11), the local
address map (R20 to R23), little helpers over the 2-dimensional grid of tiles and sites. -/

namespace Sys2Proof.Machine

/-- Element address of a site: die, ltx, lty, sy, sx (R15). -/
def eaDie (ea : Nat) : Nat := ea / 2048 % 8
def eaLtx (ea : Nat) : Nat := ea / 256 % 8
def eaLty (ea : Nat) : Nat := ea / 64 % 4
def eaSy (ea : Nat) : Nat := ea / 8 % 8
def eaSx (ea : Nat) : Nat := ea % 8
/-- Module tile column and row (R9). -/
def eaTx (ea : Nat) : Nat := eaDie ea % 4 * 8 + eaLtx ea
def eaTy (ea : Nat) : Nat := eaDie ea / 4 * 4 + eaLty ea
/-- Module site coordinates (R155). -/
def eaX (ea : Nat) : Nat := 8 * eaTx ea + eaSx ea
def eaY (ea : Nat) : Nat := 8 * eaTy ea + eaSy ea

/-- The element address of site (sx, sy) of module tile (tx, ty). -/
def eaOf (tx ty sx sy : Nat) : Nat :=
  (4 * (ty / 4) + tx / 8) * 2048 + tx % 8 * 256 + ty % 4 * 64 + sy * 8 + sx

/-- The element address of module site (X, Y). -/
def eaAt (x y : Nat) : Nat := eaOf (x / 8) (y / 8) (x % 8) (y % 8)

/-- A tile is named by the element address of its site (0,0). -/
def tileOf (ea : Nat) : Nat := ea / 64 * 64
/-- The tile at module tile coordinates. -/
def tileAt (tx ty : Nat) : Nat := eaOf tx ty 0 0
/-- The tile index of R23: die·32 + lty·8 + ltx. -/
def tileIndex (ea : Nat) : Nat := eaDie ea * 32 + eaLty ea * 8 + eaLtx ea
/-- The tile of a tile index (R23). -/
def tileOfIndex (k : Nat) : Nat := k / 32 * 2048 + k % 8 * 256 + k / 8 % 4 * 64

/-- The physical kind of a site: 0 TE, 1 SE, 2 ME (R12, R16). -/
def physKind (ea : Nat) : Nat :=
  match eaSx ea with
  | 0 | 7 => 1
  | 3 => 2
  | _ => 0

/-- The SE index of a site of column 0 or 7 (R12). -/
def seIndex (ea : Nat) : Nat := 8 * (eaSx ea / 7) + eaSy ea
/-- The site of SE index `n` of a tile (R12). -/
def seSite (tile n : Nat) : Nat := tileOf tile + n % 8 * 8 + (if n ≥ 8 then 7 else 0)

/-- Distance of two numbers. -/
def ndist (a b : Nat) : Nat := (a - b) + (b - a)

/-- Tile boundaries between two sites (R155). -/
def tileCross (a b : Nat) : Nat := ndist (eaTx a) (eaTx b) + ndist (eaTy a) (eaTy b)
/-- Die boundaries between two sites: col crossings (R11, R155). -/
def dieCross (a b : Nat) : Nat := ndist (eaTx a / 8) (eaTx b / 8) + ndist (eaTy a / 4) (eaTy b / 4)
/-- Col crossings between two dies (R11). -/
def dieDist (d e : Nat) : Nat := ndist (d % 4) (e % 4) + ndist (d / 4) (e / 4)

/-- The hop count of a route (R155). -/
def hops (a b : Nat) : Nat :=
  if a == b then 1 else ndist (eaX a) (eaX b) + ndist (eaY a) (eaY b) + 2 * tileCross a b + 24 * dieCross a b

/-- The delay of a hub message: 2 + 2m + 24c (R98, R403). -/
def hubDelay (a b : Nat) : Nat := 2 + 2 * tileCross a b + 24 * dieCross a b

/-- A direction of a router link: 0 east, 1 west, 2 south (Y rises), 3 north. The next site on a route moves along X
first, then along Y (R155). -/
def nextDir (a b : Nat) : Nat :=
  if eaX a < eaX b then 0 else if eaX b < eaX a then 1 else if eaY a < eaY b then 2 else 3

/-- The site next to `a` in direction `d`. -/
def stepSite (a d : Nat) : Nat :=
  match d with
  | 0 => eaAt (eaX a + 1) (eaY a)
  | 1 => eaAt (eaX a - 1) (eaY a)
  | 2 => eaAt (eaX a) (eaY a + 1)
  | _ => eaAt (eaX a) (eaY a - 1)

/-- The cost of one link: 1, and 2 more at a tile boundary, 24 more at a die boundary (R155). -/
def linkCost (a b : Nat) : Nat := 1 + 2 * tileCross a b + 24 * dieCross a b

/-- The number of a router link: the site it leaves and its direction. -/
def linkNo (a d : Nat) : Nat := 4 * a + d

/-- The crest core that serves nothing but its own die: dies in the order of R14. -/
def coreId (die core : Nat) : Nat := 4 * die + core

/-- What a local address belongs to (Table 1-3). -/
inductive Region | hbm | capacity | hole | window | regs
  deriving DecidableEq, Repr

/-- Table 1-3. -/
def regionOf (a : Nat) : Region :=
  if a < 0x10000000000 then .hbm
  else if a < 0x90000000000 then .capacity
  else if a < 0xA0000000000 then .hole
  else if a < 0xA0200000000 then .window
  else if a < 0xF0000000000 then .hole
  else if a < 0x100000000000 then .regs
  else .hole

/-- The HBM stack of an HBM address (Table 1-3). -/
def stackOf (a : Nat) : Nat := a / 0x1000000000 % 16
/-- The capacity stack of a capacity address (Table 1-3). -/
def capOf (a : Nat) : Nat := a / 0x10000000000 - 1
/-- The base die that serves a capacity address (R10). -/
def capStack (a : Nat) : Nat := 2 * capOf a + a / 4096 % 2
/-- The memory port of an HBM address in its stack (R22). -/
def hbmPort (a : Nat) : Nat :=
  let f (k n : Nat) : Nat := a / 2 ^ k % 2 ^ n
  Nat.xor (Nat.xor (Nat.xor (f 8 5) (f 13 5)) (Nat.xor (f 18 5) (f 23 5))) (Nat.xor (f 28 5) (f 33 3))

/-- Base of the SRAM window of a tile (R23). -/
def windowBase (tile : Nat) : Nat := 0xA0000000000 + tileIndex tile * 0x2000000
/-- Address of byte `o` of bank `b` of a tile store in its window (R23). -/
def tsAddr (tile b o : Nat) : Nat := windowBase tile + b * 0x10000 + o
/-- Address of byte `o` of the memory of an SE in its tile's window (R23). -/
def seAddr (ea o : Nat) : Nat := windowBase ea + 0x1800000 + seIndex ea * 0x80000 + o

/-- A virtual address is canonical (R17). -/
def canonical (a : Word) : Bool := a.extractLsb' 56 8 == 0 || a.extractLsb' 56 8 == 0xFF

/-- The 57 significant bits of an address (R17). -/
def vbits (a : Word) : Nat := a.toNat % 2 ^ 57

end Sys2Proof.Machine
end

