-- ==== Sys2Proof/Machine/State.lean ====
section
/-! DEFINITION. The state of the X8 as plain data, and its value at reset. Every table is sparse (`Map`): a key that is
not listed reads as the value its docstring names. -/

namespace Sys2Proof.Machine

/-- Why a step can stop with a fault. The X8's own faults are next states (R402), so none of them is here. -/
inductive Fault
  /-- Never raised by a meaning: every fault of the manual is taken by the machine and gives a next state. Safe. -/
  | none
  deriving DecidableEq, Repr

/-- Why an instruction has no meaning. -/
inductive Refusal
  /-- An arm of `exec` that has no meaning yet. Safe: the machine goes on, the model stops. -/
  | notModelled (mnemonic : String)
  deriving DecidableEq, Repr

/-! ## Elements -/

/-- The three words of a slot (R27); reset 0. -/
structure SlotW where
  guard : Word
  action : BitVec 32
  lit : Word
  deriving DecidableEq, Repr, Inhabited

/-- The empty slot. -/
abbrev SlotW.zero : SlotW := ⟨0, 0, 0⟩

/-- A route: the number of targets and the target words (Table 11-5, ITEMs 5 and 6); reset 0. -/
structure Route where
  n : Nat
  targets : Map Word
  deriving DecidableEq, Repr, Inhabited

/-- The unbound route. -/
abbrev Route.zero : Route := ⟨0, []⟩

/-- A configuration plane (R271): ECW, slots, channel entries, routes, handle records, ME binding. -/
structure Plane where
  ecw : Word
  slots : Map SlotW
  chans : Map Word
  routes : Map Route
  handles : Map (Word × Word)
  meb : Word × Word
  deriving DecidableEq, Repr, Inhabited

/-- The empty plane: KIND 3 and every other field 0 (R272). -/
abbrev Plane.zero : Plane := ⟨3, [], [], [], [], (0, 0)⟩

/-- State of a context that changes only by an event (Table 4-2): IDLE, ELIGIBLE and WAITING are `running`. -/
inductive CtxSt | disabled | running | halted | exited | faulted
  deriving DecidableEq, Repr, Inhabited

/-- An svc outstanding (R416): its reply register, SERVICE and argument. -/
structure Svc where
  reg : Nat
  num : Nat
  arg : Word
  deriving DecidableEq, Repr, Inhabited

/-- A context (Table 4-1) and what its instructions in flight leave with it. -/
structure Ctx where
  st : CtxSt
  regs : Map Word
  pred : Byte
  tag : Byte
  flags : BitVec 6
  fires : BitVec 32
  pendReg : BitVec 16
  pendPred : Byte
  spillOvf : Word
  /-- The context's area of the spill map, as SPILLBASE reports it (Table 7-6). -/
  spillBase : Word
  /-- Accesses fired and not yet acknowledged, by request number (R169, R235). -/
  acks : List Nat
  /-- What an sbar still awaits: requests by number, generators (R235). -/
  sbarReqs : List Nat
  sbarGens : List Nat
  /-- The context waits at tinval, qpush or migr until its unit answers (R322, R350, R358). -/
  wait : Nat
  /-- The svc that awaits its reply (R416), SKIPBRK (Table 18-6), qpushes outstanding (R322). -/
  svc : Option Svc
  skipbrk : Bool
  qp : Nat
  deriving DecidableEq, Repr, Inhabited

/-- A context of no configuration. -/
abbrev Ctx.zero : Ctx := ⟨.disabled, [], 0, 0, 0, 0, 0, 0, 0, 0, [], [], [], 0, none, false, 0⟩

/-- State of an input channel (Table 6-5). -/
inductive ChSt | unbound | opened | ended | drained | stray
  deriving DecidableEq, Repr, Inhabited

/-- A word in an input channel: where its credit goes, and the cycle it came (R160). -/
structure QWord where
  word : CWord
  src : Src
  came : Nat
  deriving DecidableEq, Repr, Inhabited

/-- An input channel (R149, R161); `reserved` counts the places held for replies (R226), `shadow` is the shadow input
store (R292). -/
structure Chan where
  st : ChSt
  q : List QWord
  reserved : Nat
  shadow : List QWord
  deriving DecidableEq, Repr, Inhabited

/-- The unbound channel. -/
abbrev Chan.zero : Chan := ⟨.unbound, [], 0, []⟩

/-- A place reserved in an output by a firing (R91, R121); `word` once its result is ready. -/
structure Place where
  id : Nat
  epoch : Nat
  word : Option CWord
  deriving DecidableEq, Repr, Inhabited

/-- A request of a route, in issue order, until it is performed and its reply has left (R230, R231): its bytes as carried, its
physical address once translated, whether it is performed, its reply while that waits for the replies before it, and whether it
is one for an engine beneath a stack. -/
structure ReqEnt where
  id : Nat
  lo : Nat
  hi : Nat
  pa : Option Nat
  ren : Bool
  done : Bool
  reply : Option CWord
  eng : Bool
  deriving DecidableEq, Repr, Inhabited

/-- An output channel: places in the order of their firings, the next number of a place, the first cycle in which the
next word may enter (R121), and the credits in use at each target (R158). A request route has its credits in use, its
requests, and an order queue with its reserved places (R226, R232); a token is its tag, the cycle in which its predecessor
was performed, and where. -/
structure Out where
  places : List Place
  nextId : Nat
  free : Nat
  used : Map Nat
  reqUsed : Nat
  reqs : List ReqEnt
  tokens : List (Byte × Nat × Nat)
  tokRes : Nat
  deriving DecidableEq, Repr, Inhabited

/-- The idle output. -/
abbrev Out.zero : Out := ⟨[], 0, 0, [], 0, [], [], 0⟩

/-- A join that waits (R169): its number, context, the accesses it awaits, its places and its tag, and its firing. -/
structure Join where
  id : Nat
  ctx : Nat
  waits : List Nat
  places : List (Nat × Nat)
  tag : Byte
  deriving DecidableEq, Repr, Inhabited

/-- A tag credit of a pool (R97): requested, or held with its tag and class. -/
inductive TagCred
  | none
  | asked
  | held (tag : Byte) (spawn : Bool)
  deriving DecidableEq, Repr, Inhabited

/-- State of a buffer handle (Table 7-3). -/
inductive HSt | free | filling | full | draining
  deriving DecidableEq, Repr, Inhabited

/-- A handle: its state, OWN, the ssts a pending commit awaits (R186), and the cycle in which it became FULL. -/
structure Hnd where
  st : HSt
  own : Nat
  commit : Option (List Nat)
  since : Nat
  deriving DecidableEq, Repr, Inhabited

abbrev Hnd.zero : Hnd := ⟨.free, 0, none, 0⟩

/-- A ring: how many fills and drains its pointers have taken, the copy flow that it is bound to, as tile and flow (R179), and
whether the binding has reached the SE, which sends permits from then on (R247). -/
structure Ring where
  fill : Nat
  drain : Nat
  bound : Option (Nat × Nat)
  permits : Bool
  deriving DecidableEq, Repr, Inhabited

abbrev Ring.zero : Ring := ⟨0, 0, none, false⟩

/-- What the stream unit is doing (R193, R194). -/
inductive SuPhase | run | flush | record | eos | finished
  deriving DecidableEq, Repr, Inhabited

/-- A running stream operator (R193 to R200): its firing, and what it has formed. `in0`, `in1` hold words popped and not
yet used, `end0`, `end1` that the input's EOS is popped, `prev0`, `prev1` the last keys, `outq` the words still to send,
`kept` the elements of topk or prune or the operands of redc by tag, `acc` the running sums of redc. -/
structure Su where
  op : Nat
  lit : Word
  sa : Nat
  ctx : Nat
  slot : Nat
  phase : SuPhase
  in0 : List CWord
  in1 : List CWord
  end0 : Bool
  end1 : Bool
  prev0 : Option Nat
  prev1 : Option Nat
  lastKey : Option Nat
  unsorted : Bool
  outq : List Word
  count : Nat
  status : Nat
  kept : List CWord
  seq : Nat
  acc : Word
  next : Nat
  busy : Nat
  lastPop : Nat
  flags : BitVec 6
  deriving DecidableEq, Repr, Inhabited

/-- State of a generator (Table 9-4). -/
inductive GenSt | idle | running | stopped | paused | done
  deriving DecidableEq, Repr, Inhabited

/-- A dimension of a shape record (Table 9-5). -/
structure GDim where
  start : Word
  count : Nat
  extent : Nat
  stride : Word
  deriving DecidableEq, Repr, Inhabited

/-- An element of a stream on its way: its request's number, its place in the output, or its word for the stream unit
once that is there, and the 64-byte row it lies in, if any (R243). -/
structure GFly where
  id : Nat
  place : Option (Nat × Nat)
  word : Option CWord
  row : Option Nat
  deriving DecidableEq, Repr, Inhabited

/-- A generator (R236 to R244): its state, the firing that started it and its operands, the copy of its shape record,
its position, what it has popped for the next element, and the elements on their way. -/
structure Gen where
  st : GenSt
  ctx : Nat
  slot : Nat
  lit : Word
  sa : Nat
  genp : Bool
  base : Word
  pad : Word
  esz : Nat
  mode : Nat
  idx : Nat
  loff : Word
  dims : List GDim
  /-- Rounds wanted (0: until an EOS), rounds begun, and whether the next round's parameter is still to come. -/
  rounds : Nat
  round : Nat
  param : Bool
  /-- Elements of the round already taken. -/
  k : Nat
  x0 : Option Word
  val : Option Word
  /-- The next address in linked mode. -/
  link : Option Word
  fly : List GFly
  /-- The next element awaits its translation, or the loaded value that gives its address. -/
  wait : Bool
  /-- A fault that stops the stream once the earlier elements are performed (R239). -/
  fault : Option (Nat × Word × Nat)
  /-- Every element is issued. -/
  ending : Bool
  eosDue : Bool
  /-- First cycle in which it may issue (R243). -/
  busy : Nat
  /-- The cycle of its latest element or acknowledgement, which its EOS follows (R243). -/
  last : Nat
  /-- Its next element has met a missing page: it is STOPPED once the earlier ones are performed (Table 9-4). -/
  halt : Bool
  /-- The first request that a home has refused: later ones are not performed (Table 9-3, R239). -/
  cut : Option Nat
  deriving DecidableEq, Repr, Inhabited

abbrev Gen.zero : Gen :=
  ⟨.idle, 0, 0, 0, 0, false, 0, 0, 0, 0, 0, 0, [], 0, 0, false, 0, none, none, none, [], false, none, false, false, 0, 0, false, none⟩

/-- State of a weight plane of an ME (Table 8-3). -/
inductive PlSt | empty | loading | ready | active
  deriving DecidableEq, Repr, Inhabited

/-- A weight plane (R204, R214 to R216): its state, the load it came from, its format and layout, the handle it is read from,
reads issued and served, the bytes served by read and part, and, once READY, its columns of element codes, the A positions its
rows take, and its decode flags. -/
structure MePlane where
  st : PlSt
  load : Nat
  fmt : Nat
  spa : Bool
  tr : Bool
  rnd : Nat
  se : Nat
  handle : Nat
  issued : Nat
  served : Nat
  bytes : Map (List Byte)
  bad : Bool
  cols : List (List Nat)
  sel : List (List Nat)
  flags : BitVec 6
  deriving DecidableEq, Repr, Inhabited

abbrev MePlane.zero : MePlane := ⟨.empty, 0, 0, false, false, 0, 0, 0, 0, 0, [], false, [], [], 0⟩

/-- A row of a queue (R208): its number, its bytes by part, parts wanted, the cycle from which it may be used, and whether its
read returned poison. -/
structure MeRow where
  id : Nat
  parts : Map (List Byte)
  need : Nat
  ready : Nat
  bad : Bool
  deriving DecidableEq, Repr, Inhabited

/-- A queue of rows (R208): the handle its reads come from, the next row to read, rows whose read is served, and the rows. -/
structure MeQueue where
  handle : Option Nat
  next : Nat
  served : Nat
  rows : List MeRow
  deriving DecidableEq, Repr, Inhabited

abbrev MeQueue.zero : MeQueue := ⟨none, 0, 0, []⟩

/-- A row step on its way (R212): the cycle in which it lands, its counters, its result, LS masks and flags, whether it
goes to the output, its pass, and whether it is computed twice (R218). -/
structure MeFly where
  due : Nat
  j : Nat
  out : Bool
  r : List Nat
  ls : Word
  cls : Word
  flags : BitVec 6
  pc : Nat
  red : Bool
  deriving DecidableEq, Repr, Inhabited

/-- An output row being written (R209): its number, its bytes by part, and the parts still to write. -/
structure MeOut where
  id : Nat
  se : Nat
  handle : Nat
  row : Nat
  bytes : List Byte
  left : List Nat
  flags : BitVec 6
  deriving DecidableEq, Repr, Inhabited

/-- The state of an ME (Table 8-1). An ACC row that is not listed holds zeros. `opos` counts the rows taken by the handle at the
output pointer, `owr` those written into it, `note` is the place reserved for its notice; `poll` says that its queues are being
filled. -/
structure Me where
  mode : Word
  p0 : MePlane
  p1 : MePlane
  rc : Nat
  pc : Nat
  acc : Map (List Nat)
  accls : Map Word
  accf : Map (BitVec 6)
  aq : MeQueue
  cq : MeQueue
  optr : Nat
  opos : Nat
  owr : Nat
  oflags : BitVec 6
  note : Option (Nat × Nat)
  mls : Word
  last : Option Nat
  fly : List MeFly
  outs : List MeOut
  poll : Bool
  /-- Handles kept DRAINING with OWN 3 by loads that ended without their plane (Table 8-3): SE index and handle. -/
  kept : List (Nat × Nat)
  /-- The handle at the pointer is complete, and its notice is sent in the next cycle (R209, R219). -/
  done : Bool
  /-- A mismatch has been found: rows fired from now on are discarded (R218). -/
  drops : Bool
  deriving DecidableEq, Repr, Inhabited

abbrev Me.zero : Me :=
  ⟨0, .zero, .zero, 0, 0, [], [], [], .zero, .zero, 0, 0, 0, 0, none, 0, none, [], [], false, [], false, false⟩

/-- An entry of an SE's request table (R370): the request, its packet or record offset, its stack. -/
structure Tab where
  r : MReq
  off : Nat
  stack : Nat
  rows : List (Nat × List Byte)
  bad : Bool
  deriving DecidableEq, Repr, Inhabited

/-- An element. -/
structure Elem where
  p0 : Plane
  p1 : Plane
  /-- Plane 1 is the active one. -/
  act : Bool
  /-- The working configuration: ECW, channels, routes, handle records and binding as installed at activation (R281). -/
  work : Plane
  /-- Counts activations; a word sent for another configuration is told apart by it (R289). -/
  epoch : Nat
  /-- Counts the splices the element has swapped in; a word of another side of a splice is told apart by it (R292). -/
  wave : Nat
  ctxs : Map Ctx
  /-- The arbitration pointer P (R88). -/
  ptr : Nat
  slotFires : Map (BitVec 32)
  chans : Map Chan
  outs : Map Out
  /-- Scale registers; an unlisted one holds 0x7F (R153). -/
  scales : Map Byte
  /-- First cycle in which the divider is free (R122). -/
  divFree : Nat
  tagCreds : Map TagCred
  joins : List Join
  /-- Barrier arrivals and requests that wait for acknowledgements before they are sent (R332, R322, R358). -/
  barWaits : List (List Nat × BarMsg)
  sends : List (List Nat × MReq)
  /-- Partial reconfigurations in progress: the new ECW, and the die and port its status goes to (R284). -/
  partials : List (Word × Nat × Nat)
  /-- The ADDR of the first cfgw to the shadow plane since the element was armed (R294). -/
  armedWrite : Option Word
  /-- The element is armed and has not swapped (R289). -/
  armed : Bool
  /-- First cycle in which the slots of the plane may fire (R287, R291, R284). -/
  holdUntil : Nat
  /-- SE: handles, rings, tag table by 4·set + way, ssts not yet performed, stream unit (chapter 07). -/
  handles : Map Hnd
  rings : Map Ring
  ttab : Map (Option (Nat × Nat))
  ssts : List Nat
  /-- SE: the cycle in which an sst was performed last (R186). -/
  sstLast : Nat
  su : Option Su
  /-- SE: the generators, and their 16-element buffers at the stream unit (R243). -/
  gens : Map Gen
  gbuf : Map (List CWord)
  /-- ME: the state of chapter 08. -/
  me : Me
  /-- SE: the request table, and the requests that wait for a place in it (R370). -/
  table : List Tab
  tabWait : List MReq
  /-- The latest cycle in which a cfgw changed the active plane, and that plane and the working ECW as they were at its start: what
  fires in that cycle fires by them (R281). -/
  was : Option (Nat × Plane × Word)
  deriving DecidableEq, Repr, Inhabited

/-- The element at reset (R272). -/
abbrev Elem.zero : Elem :=
  ⟨.zero, .zero, false, .zero, 0, 0, [], 0, [], [], [], [], 0, [], [], [], [], [], none, false, 0, [], [], [], [], 0, none, [], [], .zero, [], [], none⟩

/-! ## Groups -/

/-- State of a group (Table 12-1). -/
inductive GSt | free | reserved | loading | live | draining | quiescent | saved | fenced | retired
  deriving DecidableEq, Repr, Inhabited

/-- A tag pool at its origin hub (R96): the free list, and the requests that wait, oldest first (R97). -/
structure Pool where
  declared : Bool
  first : Nat
  count : Nat
  reserve : Nat
  freeTags : List Byte
  /-- Arrival cycle, element address, spawn class; in the order of service. -/
  waiting : List (Nat × Nat × Bool)
  /-- First cycle in which the hub may grant again (R97). -/
  nextGrant : Nat
  /-- The free counts of earlier cycles, newest first: (cycle at whose end it held, declared, count) (R113). -/
  past : List (Nat × Bool × Nat)
  /-- The pool has been declared since the group was placed: a slot that names it waits when it is removed (R97). -/
  known : Bool
  deriving DecidableEq, Repr, Inhabited

abbrev Pool.zero : Pool := ⟨false, 0, 0, 0, [], [], 0, [], false⟩

/-- State of a kernel (Table 11-1). -/
inductive KSt | image | staged | resident | running | draining | quiescent | retired | faulted
  deriving DecidableEq, Repr, Inhabited

/-- A kernel of a group (R273): its state, KID, measurement and key index (R275). -/
structure Kern where
  st : KSt
  kid : Word
  meas : List Byte
  key : Nat
  /-- Barrier and tag-pool sections of its image, for the splice checks (R288). -/
  barSec : List Byte
  poolSec : List Byte
  /-- The state before the kernel became FAULTED, which it takes back at a GCMD resume (log 30). -/
  prev : KSt
  /-- The SE bytes that a save keeps for its DATA and SHAPE records: site by 64·tile index + 8·sy + sx, offset, length (R309). -/
  live : List (Nat × Nat × Nat)
  deriving DecidableEq, Repr, Inhabited

abbrev Kern.zero : Kern := ⟨.image, 0, [], 0, [], [], .image, []⟩

/-- A pre-emption request in force (R304): the cycle it counts from, whether it is hard, whether it has been taken. -/
structure Preq where
  start : Nat
  hard : Bool
  taken : Bool
  deriving DecidableEq, Repr, Inhabited

/-! ## Tile hubs -/

/-- An entry of an error log (Table 18-3). -/
structure LogEnt where
  array : Nat
  type : Nat
  inj : Bool
  ea : Nat
  loc : Word
  cycle : Word
  deriving DecidableEq, Repr, Inhabited

/-- An error log: up to 64 entries, and the count of those not kept (R412). -/
structure ErrLog where
  ents : List LogEnt
  lost : Nat
  deriving DecidableEq, Repr, Inhabited

abbrev ErrLog.zero : ErrLog := ⟨[], 0⟩

/-- State of a barrier (Table 14-2). -/
inductive BSt | free | armed | faulted | retired
  deriving DecidableEq, Repr, Inhabited

/-- A barrier (R328): its word, its waiter targets (R330, R334), and its words of earlier cycles,
newest first, which bar.q samples (R336). -/
structure Bar where
  st : BSt
  held : Bool
  expect : Nat
  count : Nat
  drops : Nat
  phase : BitVec 32
  waiters : List Word
  past : List (Nat × Word)
  deriving DecidableEq, Repr, Inhabited

abbrev Bar.zero : Bar := ⟨.free, false, 0, 0, 0, 0, [], []⟩

/-- A partition of the tile store (R176): first bank, number of banks (0 when none is declared), granule code. -/
structure Part where
  first : Nat
  count : Nat
  gran : Nat
  deriving DecidableEq, Repr, Inhabited

abbrev Part.zero : Part := ⟨0, 0, 0⟩

/-- State of a copy flow (R245). -/
inductive FlowSt | free | active | stopped
  deriving DecidableEq, Repr, Inhabited

/-- A granule begun (R245): its number in the machine, its index in the copy, its source and destination once translated,
whether its page is poisoned, its units once read, each with its mark (R248, R251), and the domain and
leaves its translations came from, as first page and size in units of 64 KiB. -/
structure Gran where
  id : Nat
  idx : Nat
  src : Option Nat
  dst : Option Nat
  pzn : Bool
  data : Option (List (Nat × Bool))
  dom : Nat
  spage : Nat
  ssize : Nat
  dpage : Nat
  dsize : Nat
  deriving DecidableEq, Repr, Inhabited

/-- A copy flow (R245 to R251): its copy, granules begun, granules or whole tiles performed, granules on their way, permits
held, the handles being filled (with the tile each takes and the granules landed in it), the granules taken back at a missing page,
to begin again, whether it has met one, the cycle of its cancellation, and the code it is to end with. -/
structure Flow where
  st : FlowSt
  c : CopyReq
  begun : Nat
  moved : Nat
  fly : List Gran
  permits : Nat
  handles : List (Nat × Nat × Nat)
  redo : List Nat
  halt : Bool
  cancel : Option Nat
  code : Nat
  deriving DecidableEq, Repr, Inhabited

abbrev Flow.zero : Flow := ⟨.free, default, 0, 0, [], 0, [], [], false, none, 0⟩

/-- A tile hub (R13). -/
structure Hub where
  log : ErrLog
  bars : Map Bar
  parts : Map Part
  flows : Map Flow
  /-- Copies that wait for a flow, in arrival order (R245), and the flow served next in turn. -/
  copies : List CopyReq
  turn : Nat
  /-- Notices of groups with their origin here that wait for a crest core to be available (R14). -/
  notices : List (Nat × Msg)
  /-- The latest cycle in which a partition was written, and the partitions at its start, by which accesses of that cycle go (R283). -/
  was : Option (Nat × Map Part)
  /-- The records that the hub holds as an origin hub, in arrival order, and those that wait at their agents for a place (R406, R407). -/
  recs : List FRec
  recWait : List FRec
  deriving DecidableEq, Repr, Inhabited

abbrev Hub.zero : Hub := ⟨.zero, [], [], [], [], 0, [], none, [], []⟩

/-- A record of a save (R309): type, group-relative tile and site, bytes of its body, and, for memory, the ranges of the saved bytes that
it holds. -/
structure SaveRec where
  type : Nat
  tx : Nat
  ty : Nat
  sx : Nat
  sy : Nat
  len : Nat
  spans : List (Nat × Nat)
  deriving DecidableEq, Repr, Inhabited

/-- A saved group (R309, log 8): the fields of its header (Table 12-3), its records, the number of its free bytes, and what the
records hold: elements by 64·tile index + 8·sy + sx, barriers and partitions and STOPPED flows by tile
index, the saved bytes by 2^26·tile index + window offset, and the requests held for missing pages and the deferred ones, as
sent again at a restore (R349, R354). -/
structure Save where
  magic : Nat
  version : Nat
  w : Nat
  h : Nat
  kid : Word
  grp : Nat
  dom : Nat
  module : Nat
  size : Nat
  nrec : Nat
  rsv : Nat
  recs : List SaveRec
  body : Nat
  elems : Map Elem
  bars : Map (Map Bar)
  parts : Map (Map Part)
  flows : List (Nat × Nat × Flow)
  bytes : List Host.Cell
  marks : List Nat
  held : List MReq
  defers : List MReq
  deriving DecidableEq, Repr, Inhabited

/-- A group (R297). -/
structure Group where
  st : GSt
  /-- WLIM, PLIM and PMODE of the group control register (Table 12-2). -/
  wlim : Nat
  plim : Nat
  pmode : Bool
  preq : Option Preq
  /-- The running kernel, and the successor of an armed or staged splice (R273). -/
  kern : Kern
  succ : Kern
  armed : Bool
  /-- DATA and SHAPE records that wait for an SE's swap: element, offset, bytes (R288); those of SEs that have swapped, which are
  being written (R291). -/
  heldData : List (Nat × Nat × List Byte)
  rowData : List (Nat × Nat × List Byte)
  /-- Records counted since placement (SEQ), the CODE of the first fault, the number of times the group was fenced, and those times
  whose FENCE record has reached the origin hub (R406). -/
  seq : Nat
  firstFault : Option Nat
  fenceNo : Nat
  told : List Nat
  /-- PAGE_NOT_PRESENT records by SEQ, with the agents they name (R347). -/
  pnp : List (Nat × Nat)
  /-- The cycle from which its deferred entries freeze (R354, R355). -/
  frozen : Option Nat
  /-- The launch that the group runs (R324). -/
  lid : Option Nat
  dom : Nat
  x : Nat
  y : Nat
  w : Nat
  h : Nat
  launchArg : Word
  pools : Map Pool
  /-- Tiles in which the fence holds (R403). -/
  fencedTiles : List Nat
  /-- The watchdog counter, and the cycles at which progress reaches the origin hub (R302). -/
  wdog : Nat
  progress : List Nat
  /-- The save, the SHA-512 of it that the crest core keeps, and the status of the last restore: CODE and 256·detail (R309, R310). -/
  save : Option Save
  digest : List Byte
  restat : Nat
  /-- The cycle in which its tiles were taken, and whether through the module tile map (R299). -/
  placed : Option (Nat × Bool)
  /-- An accepted INSTALL whose partitions a bank refuses with CFG_BUSY: the image, its key index and the cycle of the next try (R277). -/
  install : Option (List Byte × Nat × Nat)
  deriving DecidableEq, Repr, Inhabited

abbrev Group.zero : Group :=
  ⟨.free, 128, 255, false, none, .zero, .zero, false, [], [], 0, none, 0, [], [], none, none, 0, 0, 0, 1, 1, 0, [], [], 0, [], none, [], 0, none, none⟩

/-! ## Pages -/

/-- An entry of a TLB slice or engine cache (R345): domain, first page and size in units of 64 KiB, leaf. -/
structure TlbEnt where
  dom : Nat
  page : Nat
  size : Nat
  leaf : Word
  deriving DecidableEq, Repr, Inhabited

/-- A request stopped at a missing page (R347): the number its record carries, and the table entry its walk met. -/
structure Held where
  key : Nat
  r : MReq
  entry : Nat
  deriving DecidableEq, Repr, Inhabited

/-- A TLB slice (R345, R347): entries, least recently used first; walks in progress, with those that must begin again; misses
that wait for a walk; agents stopped at a missing page; requests that wait for one of the 16 places, and the number of those that
walk again for a place (R347). -/
structure Slice where
  ents : List TlbEnt
  walks : List (Nat × MReq × Bool)
  waiting : List (MReq × Bool)
  held : List Held
  beyond : List MReq
  retries : Nat
  deriving DecidableEq, Repr, Inhabited

abbrev Slice.zero : Slice := ⟨[], [], [], [], [], 0⟩

/-- A domain slot of the privileged view (Table 18-4): domain, LIVE, root, frame lists and their counts. -/
structure Dom where
  dom : Nat
  live : Bool
  root : Option Nat
  fast : Word
  cap : Word
  fastN : Word
  capN : Word
  deriving DecidableEq, Repr, Inhabited

abbrev Dom.zero : Dom := ⟨0, false, none, 0, 0, 0, 0⟩

/-- A tinval not yet acknowledged (R350): its context, the first cycle of the acknowledgement, and the requests it awaits. -/
structure Tinv where
  ea : Nat
  ctx : Nat
  ready : Nat
  waits : List Nat
  deriving DecidableEq, Repr, Inhabited

/-- A migration accepted (R359): its request, the leaf's address and its word before, the old and the new frame; and how far its copy
is: the pass, 0 for the first and 1 to 4 for those of the lines written since, the cycle from which its lines count, how many are copied
and which are still to be. -/
structure Mig where
  m : MigReq
  entry : Nat
  leaf : Word
  old : Nat
  new : Nat
  pass : Nat
  since : Nat
  count : Nat
  lines : List Nat
  deriving DecidableEq, Repr, Inhabited

/-- How far a request to another module is (R397, R398): it has no port yet, it is on its way to one until a cycle (R11), it waits
there to leave, it has left, or its reply is here and its completion token is not (R232). -/
inductive FarSt
  | held
  | toPort (due : Nat)
  | atPort
  | sent
  | answered
  deriving DecidableEq, Repr, Inhabited

/-- A request to another module (R397, R398): the request, the cycle from which its timeout counts, the port it leaves by, the
set S of ports from which that was chosen, how far it is, and whether it keeps a credit of its route while it waits (R393). -/
structure Remote where
  r : MReq
  since : Nat
  link : Option Nat
  ports : BitVec 32
  st : FarSt
  cred : Bool
  deriving DecidableEq, Repr, Inhabited

/-- A base die (R10): its error log, the mask of its offline memory ports (R409), the translation caches of its Cairn engine
and its Scree unit (R362), TSTAT
and TVER of its Tor mailbox (Table 19-9), and whether it is out of service (R435). -/
structure Base where
  log : ErrLog
  off : BitVec 32
  ents : List TlbEnt
  sents : List TlbEnt
  tstat : BitVec 2
  capok : Bool
  tver : Word
  dead : Bool
  deriving DecidableEq, Repr, Inhabited

abbrev Base.zero : Base := ⟨.zero, 0, [], [], 0, false, 0, false⟩

/-- A record of a migration or append port (Table 15-9): its registers, the state it reads, and when an append commits. -/
structure Append where
  dst : Word
  src : Word
  stat : Nat
  due : Nat
  deriving DecidableEq, Repr, Inhabited

abbrev Append.zero : Append := ⟨0, 0, 0, 0⟩

/-! ## Queries (chapter 16) -/

/-- An entry of a query's heap (R374): FP32 distance, id, expanded. -/
structure HEnt where
  d : Nat
  id : Nat
  done : Bool
  deriving DecidableEq, Repr, Inhabited

/-- A batch of a step (R375): its stack, the ids to measure, or the one candidate to read; how far it is (0 on its way to
its engine, 1 waiting there, 2 in service, 3 on its way back) and when that ends; a candidate's record once read, or the fault. -/
structure Batch where
  stack : Nat
  ids : List Nat
  cand : Bool
  st : Nat
  due : Nat
  got : List Byte
  bad : Option (Nat × Word)
  deriving DecidableEq, Repr, Inhabited

/-- A query at its home engine (R371, R374): its request and packet, query vector and descriptor; whether it is admitted; V,
H, HOPS, FLAGS; the batches of its step still out, the ids of the step in slot order, the distances and the faults that are back;
the cycle of its next turn, and its end once it has one, as STATUS, CODE and FADDR, with the results written and those still to be
written; `left` counts what is done of its end. `rows` are the rows of the vector's handle that have been copied, of `need`, `vbad` is
the first unit of it that could not be, with CODE and FADDR; `num` is its number in the order of admission. -/
structure Query where
  r : MReq
  off : Nat
  pkt : List Byte
  vec : List Byte
  desc : List Byte
  active : Bool
  seen : List Nat
  heap : List HEnt
  hops : Nat
  flags : BitVec 6
  batches : List Batch
  order : List Nat
  back : List HEnt
  faults : List (Nat × Nat × Word)
  ready : Nat
  fin : Option (Nat × Nat × Word)
  count : Nat
  left : Nat
  sel : List HEnt
  rows : List (Nat × List Byte)
  need : Nat
  vbad : Option (Nat × Nat × Word)
  num : Nat
  deriving DecidableEq, Repr, Inhabited

/-- A Scree request at its unit (R386): its request, record and offset, and the cycle from which it may be served; the index list once
read, the rows of a scatter's source values that have been read; its end once it has one, as STATUS, CODE, FADDR, COUNT and FLAGS, the
cycle in which that is back at the SE, and the bytes of a gather; whether rows are being read or the answer written. -/
structure ScreeReq where
  r : MReq
  off : Nat
  rec_ : List Byte
  came : Nat
  idx : Option (List Byte)
  rows : List (Nat × List Byte)
  fin : Option (Nat × Nat × Word × Nat × BitVec 6)
  ready : Nat
  data : List Byte
  busy : Bool
  deriving DecidableEq, Repr, Inhabited

/-- The engines of a base die: queries in the order of their arrival, the number of the query that had the last turn, Scree
requests, and the cycle from which the Scree unit is free; queries admitted so far, the batch in service as home stack and request, and
those that wait, in their order of arrival (R382). -/
structure Engine where
  queries : List Query
  turn : Nat
  scree : List ScreeReq
  sfree : Nat
  admitted : Nat
  cur : Option (Nat × Nat)
  jobs : List (Nat × Nat)
  deriving DecidableEq, Repr, Inhabited

abbrev Engine.zero : Engine := ⟨[], 0, [], 0, 0, none, []⟩

/-! ## Queues and launches (chapter 13) -/

/-- State of a queue (Table 13-3). -/
inductive QuSt | disabled | opened | blocked | draining
  deriving DecidableEq, Repr, Inhabited

/-- A queue (R314 to R316): its registers, the launches on chip and in the backing ring by LID, oldest first, the next place of
the ring, entries that wait for room (R322), the pass count and promotions (R326), and the group whose pre-emption it has
requested (R327). -/
structure Queue where
  st : QuSt
  pri : Nat
  age : Nat
  pen : Bool
  pmode : Bool
  dom : Nat
  base : Word
  szlog : Nat
  ents : List Nat
  back : List Nat
  slot : Nat
  waiting : List EntryReq
  passes : Nat
  promos : Nat
  asked : Option Nat
  /-- Its head has met no room at effective priority 0: until it is placed, no head of a greater PRI is (R327). -/
  hold : Bool
  deriving DecidableEq, Repr, Inhabited

abbrev Queue.zero : Queue := ⟨.disabled, 7, 0, false, false, 0, 0, 0, [], [], 0, [], 0, 0, none, false⟩

/-- State of a launch (Table 13-7). -/
inductive LSt | queued | placed | running | waitingChildren | complete | failed
  deriving DecidableEq, Repr, Inhabited

/-- A launch (R318, R324): LID, queue, packet, state, group, parent, children outstanding, failure mark and CODE, enqueue time,
and whether it returned SAVED to its queue; its domain, and the origin tile of its group. -/
structure Launch where
  lid : Nat
  queue : Nat
  pkt : List Byte
  st : LSt
  grp : Option Nat
  parent : Option Nat
  kids : Nat
  fail : Bool
  code : Nat
  enq : Nat
  saved : Bool
  dom : Nat
  origin : Nat
  /-- A child has FAILED (Table 13-7). -/
  kidFail : Bool
  /-- The store of its record to another module (R325): 0 not begun, 1 on its way, 2 performed, 3 dropped. -/
  rec_ : Nat
  deriving DecidableEq, Repr, Inhabited

/-- A push port (R320): its packet words, status, the cycle in which the status comes, and the entry on its way. -/
structure Push where
  pkt : Map Word
  stat : Nat
  busy : Bool
  deriving DecidableEq, Repr, Inhabited

abbrev Push.zero : Push := ⟨[], 0, false⟩

/-! ## Cores and command ports -/

/-- A crest core as the fabric sees it: its event queue (R412), messages that wait for the Sniqua port and the notices dropped
(R401), whether it is held in reset or halted (R14), the message it serves, and the messages that wait for it (R400). -/
structure Core where
  evq : List FRec
  lost : Nat
  out : List Msg
  dropped : Nat
  off : Bool
  serving : Option Msg
  inq : List Msg
  /-- Pieces of the message it serves that its window has not served yet, and the words that it has (R23, R175). -/
  left : Nat
  got : Map Word
  deriving DecidableEq, Repr, Inhabited

abbrev Core.zero : Core := ⟨[], 0, [], 0, false, none, [], 0, []⟩

/-- A command port (R279): ACTION and ADDR, the cycle of its latest command's effect, and the status words with the cycles in
which they are there. -/
structure CPort where
  action : Word
  addr : Word
  last : Nat
  replies : List (Nat × Word)
  deriving DecidableEq, Repr, Inhabited

abbrev CPort.zero : CPort := ⟨0, 0, 0, []⟩

/-! ## Links (chapter 17) -/

/-- State of a link (Table 17-2). -/
inductive LkSt | down | training | up | degraded | fenced
  deriving DecidableEq, Repr, Inhabited

/-- What a flit that leaves carries (log 20): nothing, bytes of a message, the remote request of a number, the answer to a request of
a module, a granule for it, the completion token of its request, or the order token of a request that was sent to it (R232). -/
inductive TxLoad
  | none
  | bytes (b : List Byte)
  | request (id : Nat)
  | answer (id module : Nat) (value : Word) (code : Nat) (poison : Bool)
  | granule (id module : Nat) (b : List Byte) (poison : Bool)
  | completed (id module : Nat)
  | token (id module : Nat)
  deriving DecidableEq, Repr, Inhabited

/-- A flit that leaves (Table 17-1). -/
structure TxFlit where
  type : Nat
  vc : Nat
  seq : Nat
  ack : Nat
  load : TxLoad
  deriving DecidableEq, Repr, Inhabited

/-- A link (R392 to R394): state, lanes, ENABLE, CAUSE, RETRAINS, RTO; since when it is in its state and whether it trains after
UP or DEGRADED; last SEQ sent, replay buffer, words that wait for room in it; last SEQ accepted, whether it discards until the
replay, consecutive NAKs received and their SEQ, NAKs sent for one SEQ; and the flits that have left, each with its 68 bytes (R391),
the latest last. -/
structure Link where
  st : LkSt
  lanes : Nat
  enable : Bool
  cause : Nat
  retrains : Nat
  rto : Nat
  since : Nat
  fromUp : Bool
  txSeq : Nat
  replay : List TxFlit
  pending : List (Nat × TxLoad)
  rxSeq : Nat
  discard : Bool
  naks : Nat
  nakSeq : Nat
  nakTx : Nat
  wire : List (TxFlit × List Byte)
  /-- Answers to requests that came by the link, while they have no port: module, local address, virtual channel, word (R397). -/
  held : List (Nat × Nat × Nat × TxLoad)
  deriving DecidableEq, Repr, Inhabited

abbrev Link.zero : Link := ⟨.down, 0, false, 0, 0, 16, 0, false, 0, [], [], 0, false, 0, 0, 0, [], []⟩

/-! ## Summit controller (chapter 19) -/

/-- A summit mailbox (R422). -/
structure MBox where
  arg0 : Word
  arg1 : Word
  stat : Nat
  busy : Bool
  len : Nat
  buf : Map Word
  deriving DecidableEq, Repr, Inhabited

abbrev MBox.zero : MBox := ⟨0, 0, 0, false, 0, []⟩

/-- An image key entry (Table 19-2). -/
structure KeyEnt where
  key : List Byte
  dom : Nat
  en : Bool
  deriving DecidableEq, Repr, Inhabited

abbrev KeyEnt.zero : KeyEnt := ⟨List.replicate 32 0, 0, false⟩

/-- A firmware transfer in progress (R431): the bytes accepted, ARG1, and the cycle of the last chunk. -/
structure FwXfer where
  data : List Byte
  total : Nat
  last : Nat
  deriving DecidableEq, Repr, Inhabited

/-- A management command that waits (R423): the cycle in which it came, whether its LEN is that of its data (R428), and the command. -/
structure MgWait where
  came : Nat
  whole : Bool
  cmd : Mgmt
  deriving DecidableEq, Repr, Inhabited

/-- The summit controller: bring-up stage (1 to 5, 6 when bring-up has ended), recovery, the start of the stage; MB0 to MB2;
stored MODULE; caps; keys, owner key and counters; firmware banks by 2·component + bank, active banks, rollback counters, the
transfer; telemetry frame and its number, fabric clock, THROT, whether heat holds the fabric in reset (R425). A bank is active as `active` mod 2; 2 more where the other one takes over at the next reset. -/
structure Summit where
  stage : Nat
  recovery : Bool
  since : Nat
  mb0 : List Byte
  mb1 : List Byte
  mb2 : List Byte
  store : Nat
  capB : Nat
  capM : Nat
  keys : Map KeyEnt
  owner : Option (List Byte)
  ownerCnt : Nat
  keyCnt : Nat
  banks : Map (List Byte)
  active : Map Nat
  rollback : Map Nat
  fw : Option FwXfer
  frame : List Byte
  seq : Nat
  fclk : Nat
  throt : Nat
  hot : Bool
  /-- Messages that have come to the Borelle port, and those sent by it, as bytes (R428). -/
  inbox : List (List Byte)
  borelle : List (List Byte)
  /-- Commands that wait, and the one in progress with the cycle of its end (R423). -/
  waiting : List MgWait
  serving : Option (Nat × MgWait)
  /-- The cycle of the last sample, and the power of up to ten, the newest first (R424, R425). -/
  sampled : Nat
  window : List Nat
  deriving DecidableEq, Repr, Inhabited

abbrev zero64 : List Byte := List.replicate 64 0

/-- The summit controller after module reset, as it left manufacture (R419, R423, R432). -/
abbrev Summit.zero : Summit :=
  ⟨1, false, 0, zero64, zero64, zero64, 0, 4400, 4400, [], none, 0, 0, [], [], [], none, [], 0, 1900, 0, false, [], [], [], none, 0, []⟩

/-! ## The machine -/

/-- A fabric die: the cycle at which its fabric reset was released (R24), and its error log (Table 18-4). -/
structure Die where
  released : Option Nat
  log : ErrLog
  deriving DecidableEq, Repr, Inhabited

abbrev Die.zero : Die := ⟨none, .zero⟩

/-- A request word, a reply or a spill word on its way through the routers: its target site, the events that follow its arrival
there, each with the fc by which it follows, and the sites it goes on to, with theirs. -/
structure Parcel where
  dst : Nat
  evs : List (Nat × Instr)
  more : List (Nat × List (Nat × Instr))
  deriving DecidableEq, Repr, Inhabited

/-- A word waiting at a router link: when it is there, its input port and virtual channel (R156), and its arrivals: the
copies of a multicast word pass a link that they share together (ch. 20, Table 22-2; log 5). A word that goes to no channel
carries its parcel. -/
structure Transit where
  ready : Nat
  port : Nat
  vc : Nat
  at_ : Nat
  arrs : List Arrival
  parcel : Option Parcel
  deriving DecidableEq, Repr, Inhabited

/-- A router link: waiting words, the round-robin pointers over ports and virtual channels. -/
structure RLink where
  q : List Transit
  rrPort : Nat
  rrVc : Map Nat
  /-- First cycle in which the link can pass its next word. -/
  free : Nat
  deriving DecidableEq, Repr, Inhabited

abbrev RLink.zero : RLink := ⟨[], 0, [], 0⟩

/-- An event in flight: the cycle in which it happens, its order within the cycle, the event (log 3). -/
structure Entry where
  due : Nat
  key : Nat
  instr : Instr
  deriving DecidableEq, Repr

/-- A firing chosen for this cycle: element, context and slot. -/
structure Cursor where
  ea : Nat
  ctx : Nat
  slot : Nat
  deriving DecidableEq, Repr, Inhabited

/-- Where the machine stands in a cycle (log 3). -/
inductive Phase | events | triggered | fire
  deriving DecidableEq, Repr, Inhabited

/-- A request in a port queue of a bank (R173): its port, since when it is at the head, what is done when it is served, and
the request route whose credit returns when the request enters the queue of depth 4. -/
structure BReq where
  port : Nat
  headAt : Nat
  instr : Instr
  credit : Option (Nat × Nat × Nat)
  deriving DecidableEq, Repr

/-- A bank of an SE memory or of a tile store: waiting requests in order of arrival, the port served next in turn, the
first cycle in which it can serve again. -/
structure Bank where
  q : List BReq
  rr : Nat
  free : Nat
  deriving DecidableEq, Repr

abbrev Bank.zero : Bank := ⟨[], 0, 0⟩

/-- An armed error injection (R417): its array, its unit or entry, its kind and its bit. -/
structure Inj where
  array : Nat
  target : Nat
  kind : Nat
  bit : Nat
  deriving DecidableEq, Repr, Inhabited

structure State where
  /-- The model's cycle count in fc (log 2). -/
  now : Nat
  phase : Phase
  agenda : List Entry
  chosen : List Cursor
  cur : Option Cursor
  /-- Handles and rings of the SEs as the firings of this cycle found them, while MEs fire (R7, R85). -/
  found : Map (Map Hnd × Map Ring)
  /-- Units that the engine access being made serves (R256, R366); empty between accesses. -/
  units : List Nat
  elems : Map Elem
  groups : Map Group
  /-- Tile hubs, by the element address of site (0,0). -/
  hubs : Map Hub
  dies : Map Die
  links : Map RLink
  /-- Banks of SE memories and tile stores, by bank number. -/
  banks : Map Bank
  /-- Memory: HBM, capacity tier, SE memories and tile stores by local address; an unlisted byte reads 0 (log 1). -/
  mem : List Host.Cell
  /-- 8-byte units marked poison, by unit number (R410). -/
  poison : List Nat
  /-- Full bits, by unit number (R351). -/
  full : List Nat
  /-- TLB slices by tile, domain slots, tinvals not yet acknowledged (chapter 15). -/
  slices : Map Slice
  doms : Map Dom
  tinvs : List Tinv
  /-- Deferred lde and stf requests, oldest first (R352). -/
  defers : List MReq
  /-- Migrations in progress, by number (R359). -/
  migs : List (Nat × Mig)
  /-- Requests to other modules that await their reply (R398). -/
  remotes : List Remote
  /-- Requests of other modules that wait here for their order tokens, and tokens, by module and request, that came first (R232). -/
  farHeld : List RemoteReq
  farTokens : List (Nat × Nat)
  /-- Base dies by stack. -/
  bases : Map Base
  /-- Armed error injections (R417). -/
  injs : List Inj
  /-- Engines by stack (chapter 16). -/
  engines : Map Engine
  /-- Queues, signals, launches and the next LID, push ports by 32·die + j, packets read for qpush by
  request number, the queue placed last by 8·die + priority, as
  its number + 1 (chapter 13). -/
  queues : Map Queue
  signals : Map (BitVec 32)
  launches : List Launch
  lids : Nat
  pushes : Map Push
  reads : Map (List Byte)
  lastPlaced : Map Nat
  /-- Crest cores by 4·die + core, command ports by 8·die + port (chapter 18). -/
  cores : Map Core
  cports : Map CPort
  /-- Xanhoka links 0 to 31 and the Sniqua link 32, the route table, copy windows, append-log ports, the Sniqua message being
  received, messages that have left (chapters 15, 17, 18). -/
  xlinks : Map Link
  routeTab : Map (BitVec 32)
  windows : Map (Word × Word × Word)
  appends : Map Append
  rxMsg : List Byte
  sent : List Msg
  /-- Summit mailboxes by stack, and the summit controller (chapter 19). -/
  mboxes : Map MBox
  summit : Summit
  /-- MODULE (R16, R19). -/
  module : Nat
  /-- Counts the choices the manual leaves open (log 6). -/
  free : Nat
  /-- Numbers requests, places and other things in flight. -/
  serial : Nat
  deriving DecidableEq, Repr

/-- The machine after module reset: bring-up stage 1, every die held in reset, every table empty. -/
def State.reset : State where
  now := 0
  phase := .events
  agenda := []
  chosen := []
  cur := none
  found := []
  units := []
  elems := []
  groups := []
  hubs := []
  dies := []
  links := []
  banks := []
  mem := []
  poison := []
  full := []
  slices := []
  doms := []
  tinvs := []
  defers := []
  migs := []
  remotes := []
  farHeld := []
  farTokens := []
  bases := []
  injs := []
  engines := []
  queues := []
  signals := []
  launches := []
  lids := 0
  pushes := []
  reads := []
  lastPlaced := []
  cores := []
  cports := []
  xlinks := []
  routeTab := []
  windows := []
  appends := []
  rxMsg := []
  sent := []
  mboxes := []
  summit := .zero
  module := 0
  free := 0
  serial := 0

end Sys2Proof.Machine
end

