-- ==== Sys2Proof/Machine/Ops.lean ====
section
/-! DEFINITION. The named operations over the state: fields of the tables, the agenda, memory, taking a fault (R402 to
R408), channels and outputs (R121, R158 to R164), and the firing common to all slot instructions (R91). -/

namespace Sys2Proof.Machine

/-! ## Tables -/

def State.elem (s : State) (ea : Nat) : Elem := tget .zero ea s.elems
def State.setElem (s : State) (ea : Nat) (e : Elem) : State := { s with elems := tput .zero ea e s.elems }
def State.modElem (s : State) (ea : Nat) (f : Elem → Elem) : State := s.setElem ea (f (s.elem ea))

def Elem.ctx (e : Elem) (c : Nat) : Ctx := tget .zero c e.ctxs
def Elem.setCtx (e : Elem) (c : Nat) (x : Ctx) : Elem := { e with ctxs := tput .zero c x e.ctxs }
def State.ctx (s : State) (ea c : Nat) : Ctx := (s.elem ea).ctx c
def State.modCtx (s : State) (ea c : Nat) (f : Ctx → Ctx) : State :=
  s.modElem ea (fun e => e.setCtx c (f (e.ctx c)))

def Ctx.reg (c : Ctx) (n : Nat) : Word := tget 0 n c.regs
def Ctx.setReg (c : Ctx) (n : Nat) (v : Word) : Ctx := { c with regs := tput 0 n v c.regs }

def Elem.chan (e : Elem) (n : Nat) : Chan := tget .zero n e.chans
def Elem.setChan (e : Elem) (n : Nat) (x : Chan) : Elem := { e with chans := tput .zero n x e.chans }
def State.chan (s : State) (ea n : Nat) : Chan := (s.elem ea).chan n
def State.modChan (s : State) (ea n : Nat) (f : Chan → Chan) : State :=
  s.modElem ea (fun e => e.setChan n (f (e.chan n)))

def Elem.out (e : Elem) (n : Nat) : Out := tget .zero n e.outs
def Elem.setOut (e : Elem) (n : Nat) (x : Out) : Elem := { e with outs := tput .zero n x e.outs }
def State.modOut (s : State) (ea n : Nat) (f : Out → Out) : State :=
  s.modElem ea (fun e => e.setOut n (f (e.out n)))

def State.group (s : State) (g : Nat) : Group := tget .zero g s.groups
def State.setGroup (s : State) (n : Nat) (g : Group) : State := { s with groups := tput .zero n g s.groups }
def State.modGroup (s : State) (n : Nat) (f : Group → Group) : State := s.setGroup n (f (s.group n))

def State.die (s : State) (d : Nat) : Die := tget .zero d s.dies
def State.modDie (s : State) (d : Nat) (f : Die → Die) : State :=
  { s with dies := tput .zero d (f (s.die d)) s.dies }

/-- The cycle counter of a die (R24). -/
def State.dieCycle (s : State) (d : Nat) : Word :=
  match (s.die d).released with
  | some t => BitVec.ofNat 64 (s.now - t)
  | none => 0

/-- The next number for something in flight. -/
def State.bump (s : State) : State := { s with serial := s.serial + 1 }

/-- The outcome of a choice the manual leaves open, and the state that has made it (R5, log 6). -/
def State.choose (s : State) : Bool × State := (Config.choice s.free, { s with free := s.free + 1 })

/-! ## Planes -/

def Elem.plane (e : Elem) (one : Bool) : Plane := if one then e.p1 else e.p0
def Elem.active (e : Elem) : Plane := e.plane e.act
def Elem.shadow (e : Elem) : Plane := e.plane (!e.act)
/-- The plane and the ECW by which slots fire in cycle `now`: a cfgw to them is seen from the next cycle (R281). -/
def Elem.planeNow (e : Elem) (now : Nat) : Plane :=
  match e.was with
  | some (t, p, _) => if t == now then p else e.active
  | none => e.active
def Elem.ecwNow (e : Elem) (now : Nat) : Word :=
  match e.was with
  | some (t, _, w) => if t == now then w else e.work.ecw
  | none => e.work.ecw
def Elem.setPlane (e : Elem) (one : Bool) (p : Plane) : Elem := if one then { e with p1 := p } else { e with p0 := p }

/-- Fields of an ECW (Table 2-8). -/
def ecwKind (w : Word) : EKind :=
  match (w.extractLsb' 0 2).toNat with
  | 0 => .te
  | 1 => .se
  | 2 => .me
  | _ => .empty
def ecwCtxen (w : Word) : BitVec 4 := w.extractLsb' 2 4
def ecwRnd (w : Word) : Nat := (w.extractLsb' 6 3).toNat
def ecwWw (w : Word) : Nat := (w.extractLsb' 9 3).toNat
def ecwCap (w : Word) : BitVec 4 := w.extractLsb' 12 4
def ecwDepths (w : Word) : Nat := (w.extractLsb' 16 7).toNat
def ecwSpill (w : Word) : Nat := (w.extractLsb' 24 8).toNat
def ecwBrken (w : Word) : Bool := w.getLsbD 32
def ecwKid (w : Word) : BitVec 16 := w.extractLsb' 48 16

/-- Slots of a kind (R27). -/
def slotsOf : EKind → Nat
  | .te => 32
  | .se => 16
  | .me => 8
  | .empty => 0

/-- Contexts of a kind (R80). -/
def ctxsOf : EKind → Nat
  | .te => 4
  | .se => 2
  | .me => 1
  | .empty => 0

def Elem.kind (e : Elem) : EKind := ecwKind e.work.ecw

def Plane.slot (p : Plane) (n : Nat) : SlotW := tget .zero n p.slots
def Plane.route (p : Plane) (o : Nat) : Route := tget .zero o p.routes
def Plane.chanWord (p : Plane) (c : Nat) : Word := tget 0 c p.chans
def Plane.handle (p : Plane) (h : Nat) : Word × Word := tget (0, 0) h p.handles

/-- Fields of a channel entry (R52): depth, format byte, scale register. -/
def chanDepth (w : Word) : Nat := (w.extractLsb' 8 8).toNat
def chanFmt (w : Word) : Nat := (w.extractLsb' 16 5).toNat
def chanCfgin (w : Word) : Bool := w.getLsbD 23
def chanScale (w : Word) : Nat := (w.extractLsb' 24 8).toNat

/-- A target of a route (R53, Table 9-1): tile, site, channel or endpoint code. -/
def tgtTx (w : Word) : Nat := (w.extractLsb' 0 8).toNat
def tgtTy (w : Word) : Nat := (w.extractLsb' 8 8).toNat
def tgtSx (w : Word) : Nat := (w.extractLsb' 16 8).toNat
def tgtSy (w : Word) : Nat := (w.extractLsb' 24 8).toNat
def tgtCh (w : Word) : BitVec 8 := w.extractLsb' 32 8
/-- A target names a memory endpoint (R225). -/
def tgtIsReq (w : Word) : Bool := (tgtCh w).getLsbD 7

def Route.target (r : Route) (i : Nat) : Word := tget 0 i r.targets
def Route.isReq (r : Route) : Bool := r.n == 1 && tgtIsReq (r.target 0)

/-! ## Groups -/

/-- The group holds its rectangle of tiles (R297). -/
def Group.holdsTiles (g : Group) : Bool := g.st != .free && g.st != .saved

/-- The rectangle covers the tile of an element address. -/
def Group.covers (g : Group) (ea : Nat) : Bool :=
  g.x ≤ eaTx ea && eaTx ea < g.x + g.w && g.y ≤ eaTy ea && eaTy ea < g.y + g.h

/-- The group of a tile, by number (R297). -/
def State.groupAt (s : State) (ea : Nat) : Option Nat :=
  (s.groups.find? (fun p => p.2.holdsTiles && p.2.covers ea)).map (·.1)

/-- The group of a tile, or number 65,536, which no group has. -/
def State.groupNo (s : State) (ea : Nat) : Nat := (s.groupAt ea).getD 65536

/-- The origin tile (R14). -/
def Group.origin (g : Group) : Nat := tileAt g.x g.y

/-- The tiles of a group, in ascending group-relative index (R297). -/
def Group.tiles (g : Group) : List Nat :=
  (List.range (g.w * g.h)).map (fun i => tileAt (g.x + i % g.w) (g.y + i / g.w))

/-- The element address of a group-relative position. -/
def Group.ea (g : Group) (gx gy sx sy : Nat) : Nat := eaOf (g.x + gx) (g.y + gy) sx sy

/-- The element address that a route target names, for an element of the group. -/
def Group.targetEa (g : Group) (w : Word) : Nat := g.ea (tgtTx w) (tgtTy w) (tgtSx w) (tgtSy w)

/-- The fence of R403 holds in the tile. -/
def Group.fencedAt (g : Group) (ea : Nat) : Bool := nmem (tileOf ea) g.fencedTiles
/-- The engines of a tile stop: the fence holds there (R405), or the kernel is RESIDENT and has not started, which is as if it did
(R273). -/
def Group.stopsAt (g : Group) (ea : Nat) : Bool := g.fencedAt ea || g.kern.st == .resident

/-! ## The agenda -/

/-- The first key of the events that follow the firings of their cycle: what the engines of an SE take and send, which a chst of the
same cycle does not see yet (R167). -/
abbrev engineKey : Nat := 0xB00000

/-- The order of events within a cycle (log 3): credits and acknowledgements, then results, then arrivals, then services,
then the router; after the firings, the engines; events of one class by element address. -/
def eventKey : Instr → Nat
  | .creditReturn _ => 0
  | .requestCreditReturn _ _ _ => 0
  | .fenceArrival _ _ => 0
  | .resultDelivery _ => 0x100000
  | .channelWordArrival a => 0x200000 + a.ea
  | .replyArrival r _ _ => 0x200000 + r.ea
  | .ackArrival r => 0x300000 + r.ea
  | .orderTokenArrival ea _ _ _ => 0x300000 + ea
  | .tagReleaseArrival _ _ _ ea ctx _ => 0x400000 + 4 * ea + ctx
  | .barrierMessageArrival m => 0x400000 + 4 * m.ea + m.ctx
  | .tagRequest ea _ => 0x500000 + ea
  | .tagGrant _ _ => 0x600000
  | .tagCreditArrival ea _ _ _ => 0x300000 + ea
  | .enqueueEntry e => (match e.port, e.pusher with
    | some p, _ => 0x400000 + p.2
    | none, some p => 0x400100 + p.1
    | none, none => 0x400000)
  | .faultRecordArrival r => 0x700000 + 4 * r.ea.toNat + r.ctx.toNat
  | .routerArbitration _ => 0x900000
  | .remoteTimeout => 0x8F0000
  | .bankService _ => 0x880000
  | .tlbLookup r => 0x800000 + r.ea
  | .requestPerform r => 0x800000 + r.ea
  | .copyFlowTake c => 0x480000 + c.ea
  | .spliceSwap _ => 0
  | .spliceSettled _ => 0
  | .cfgwEcw _ | .cfgwGuard _ | .cfgwAction _ | .cfgwLiteral _ | .cfgwChannel _ | .cfgwRouteHeader _ | .cfgwRouteTarget _
  | .cfgwMeBinding _ | .cfgwHandleRecord _ | .cfgwPartition _ | .cfgwBarrierInit _ | .cfgwWaiterTarget _ | .cfgwTagPool _
  | .cfgswapSwap _ | .cfgswapSplice _ | .cfgswapClear _ | .errinj _ | .errinjDisarm _ | .errlogRemoveOldest _
  | .errlogClearAll _ | .ptroot _ | .packCommit _ | .packCancel _ => 0xA00000
  | .partialReconfigInstall _ => 0xA80000
  | .operatorInput ea => engineKey + ea
  | .genElementIssue ea _ => engineKey + ea
  | .genStreamEnd ea _ => engineKey + ea
  | .ccanAtHub _ ea ctx _ => 0x480000 + 4 * ea + ctx
  | _ => 0x800000

/-- An event put in its place: after every entry of the same cycle and order. -/
def insEntry (x : Entry) : List Entry → List Entry
  | [] => [x]
  | y :: ys => if x.due < y.due || (x.due == y.due && x.key < y.key) then x :: y :: ys else y :: insEntry x ys

/-- The event `i` happens in cycle `due`. -/
def State.at_ (s : State) (due : Nat) (i : Instr) : State := { s with agenda := insEntry ⟨due, eventKey i, i⟩ s.agenda }

/-- The event `i` happens `d` cycles from now. -/
def State.after (s : State) (d : Nat) (i : Instr) : State := s.at_ (s.now + d) i

/-! ## Memory -/

/-- What a byte that nothing has written reads as (log 1). -/
abbrev memDefault : Byte := 0

/-- The canonical form of memory. -/
def Memory.wf (m : List Host.Cell) : Bool := twf memDefault m

def State.readByte (s : State) (a : Nat) : Byte := tget memDefault a s.mem
def State.writeByte (s : State) (a : Nat) (b : Byte) : State := { s with mem := tput memDefault a b s.mem }

/-- `n` bytes from `a`, little-endian (R3). -/
def State.readNat (s : State) (a : Nat) : Nat → Nat
  | 0 => 0
  | n + 1 => (s.readByte a).toNat + 256 * s.readNat (a + 1) n

/-- `n` bytes of `v` written from `a`, little-endian (R3). -/
def State.writeNat (s : State) (a : Nat) : Nat → Nat → State
  | 0, _ => s
  | n + 1, v => (s.writeByte a (BitVec.ofNat 8 v)).writeNat (a + 1) n (v / 256)

def State.read64 (s : State) (a : Nat) : Word := BitVec.ofNat 64 (s.readNat a 8)
def State.write64 (s : State) (a : Nat) (v : Word) : State := s.writeNat a 8 v.toNat
def State.readBytes (s : State) (a n : Nat) : List Byte := (List.range n).map (fun i => s.readByte (a + i))

/-- Bytes written from `a`. -/
def State.writeBytes (s : State) (a : Nat) : List Byte → State
  | [] => s
  | b :: bs => (s.writeByte a b).writeBytes (a + 1) bs

/-- `n` bytes of a string of bytes from an offset. -/
def sliceAt (b : List Byte) (off n : Nat) : List Byte := (b.drop off).take n
/-- A little-endian field of a string of bytes. -/
def fld (b : List Byte) (off n : Nat) : Nat := leNat (sliceAt b off n)

/-- The unit of an address (R254). -/
def unitOf (a : Nat) : Nat := a / 8
/-- A unit's poison mark (R410). -/
def State.poisoned (s : State) (u : Nat) : Bool := nmem u s.poison
def State.setPoison (s : State) (u : Nat) (p : Bool) : State :=
  { s with poison := if p then nadd u s.poison else ndel u s.poison }
/-- A unit's full bit (R351). -/
def State.isFull (s : State) (u : Nat) : Bool := nmem u s.full
def State.setFull (s : State) (u : Nat) (p : Bool) : State :=
  { s with full := if p then nadd u s.full else ndel u s.full }

/-- 8 bytes of clean data written to a unit clear its mark (R410). -/
def State.storeUnit (s : State) (a : Nat) (v : Word) : State := (s.write64 a v).setPoison (unitOf a) false

/-! ## Progress (R302) and faults (R402 to R408) -/

/-- A progress event of cycle `t` of a group in a tile reaches the origin hub 2 + 2m + 24c later (R302). -/
def State.progress (s : State) (gn ea : Nat) (t : Nat := s.now) : State :=
  s.modGroup gn (fun g =>
    if g.st == .free then g else { g with progress := nadd (t + hubDelay ea g.origin) g.progress })

/-- Progress of the group that holds the element. -/
def State.progressAt (s : State) (ea : Nat) (t : Nat := s.now) : State :=
  match s.groupAt ea with
  | some gn => s.progress gn ea t
  | none => s

/-- The fence of a group reaches each of its tiles (R403). -/
def State.fenceTiles (s : State) (gn ea : Nat) : List Nat → State
  | [] => s
  | t :: ts => (s.after (hubDelay ea t) (.fenceArrival gn t)).fenceTiles gn ea ts

/-- A kernel becomes FAULTED with its group, and remembers what it was (Table 11-1). -/
def Kern.fault (k : Kern) : Kern := if k.st == .image then k else { k with prev := k.st, st := .faulted }

/-- The group becomes FENCED at the fault of an agent at `ea`; a drain in force is abandoned, with what it froze, and deferred entries
freeze anew (R300, R306, R295, R355). -/
def State.fenceGroup (s : State) (gn ea : Nat) : State :=
  (s.modGroup gn (fun g =>
    { g with
      st := .fenced, preq := none, frozen := some s.now, kern := g.kern.fault, fenceNo := g.fenceNo + 1
      succ := if g.armed then g.succ.fault else g.succ })).fenceTiles gn ea (s.group gn).tiles

/-- TAKING A FAULT (R402 to R406): the record goes to the origin hub, and where the scope includes the group, the group
is fenced; a second such fault, while it is FENCED, brings its own fence to each tile (R403). `src` is where it is raised, `ea` the element
it names; which record carries FENCE is decided at the hub. A group that is FREE, SAVED or RETIRED takes none (R404). -/
def State.raiseRec (s : State) (gn src ea : Nat) (ctx slot : Option Nat) (code : Nat) (async fence : Bool) (detail : Nat)
    (aux : Word) (key : Nat := 0) : State :=
  let g := s.group gn
  if g.st == .free || g.st == .saved || g.st == .retired then s
  else
    let first := fence && (g.st == .live || g.st == .draining)
    let more := fence && g.st == .fenced
    let r : FRec := {
      code := BitVec.ofNat 8 code
      async := async
      fence := false
      ctxv := ctx.isSome
      slotv := slot.isSome
      ea := BitVec.ofNat 14 ea
      ctx := BitVec.ofNat 2 (ctx.getD 0)
      slot := BitVec.ofNat 5 (slot.getD 0)
      grp := BitVec.ofNat 16 gn
      dom := BitVec.ofNat 16 g.dom
      seq := 0
      detail := BitVec.ofNat 32 detail
      aux := aux
      cycle := s.dieCycle (eaDie src)
      key := key
      hub := g.origin
      fenceNo := if first then g.fenceNo + 1 else if more then g.fenceNo else 0
      stage := 0 }
    let s := s.after (hubDelay src g.origin) (.faultRecordArrival r)
    if first then s.fenceGroup gn src else if more then s.fenceTiles gn src g.tiles else s

/-- A context becomes FAULTED (R402). -/
def State.ctxFaulted (s : State) (ea c : Nat) : State := s.modCtx ea c (fun x => { x with st := .faulted })

/-- A synchronous fault of a firing: no effect but the record, the FAULTED context and the fenced group (R7, R402). -/
def State.raiseSync (s : State) (cu : Cursor) (code detail : Nat) (aux : Word) : State :=
  (s.ctxFaulted cu.ea cu.ctx).raiseRec (s.groupNo cu.ea) cu.ea cu.ea (some cu.ctx) (some cu.slot) code false true detail aux

/-- An asynchronous fault of scope C+G: the context named becomes FAULTED and the group is fenced (R408). -/
def State.raiseCtx (s : State) (gn src : Nat) (cu : Cursor) (code detail : Nat) (aux : Word) : State :=
  (s.ctxFaulted cu.ea cu.ctx).raiseRec gn src cu.ea (some cu.ctx) (some cu.slot) code true true detail aux

/-- An asynchronous fault of scope G (R408). -/
def State.raiseGroup (s : State) (gn src ea : Nat) (code detail : Nat) (aux : Word) : State :=
  s.raiseRec gn src ea none none code true true detail aux

/-- Generators that pre-emption has paused run again (Table 9-4), and rows are computed again (R218). -/
def Elem.unpause (e : Elem) : Elem :=
  { e with me := { e.me with drops := false }, gens := e.gens.map (fun p => (p.1, if p.2.st == .paused then { p.2 with st := .running } else p.2)) }

/-- A kernel goes on when its group is LIVE again: it takes back the state it had, and a drain for pre-emption is over. -/
def Kern.live_ (k : Kern) (armed : Bool) : Kern :=
  let st := if k.st == .faulted then k.prev else k.st
  { k with st := if !armed && (st == .draining || st == .quiescent) then .running else st }

/-- Return from a fault, and from a drain that is abandoned: the group is LIVE again, every engine goes on, deferred entries
are no longer frozen, and a fence still on its way does not take hold; FAULTED contexts stay FAULTED (Table 12-1, R405, R354). -/
def State.liveAgain (s : State) (gn : Nat) : State :=
  let g := s.group gn
  let s := s.setGroup gn { g with
    st := .live, fencedTiles := [], frozen := none, preq := none, kern := g.kern.live_ g.armed
    succ := if g.armed && g.succ.st == .faulted then { g.succ with st := g.succ.prev } else g.succ }
  { s with
    elems := tmap .zero (fun ea e => if g.covers ea then e.unpause else e) s.elems
    agenda := s.agenda.filter (fun x => match x.instr with
      | .fenceArrival n _ => n != gn
      | _ => true) }

/-! ## Error logs (R412) -/

def State.hub (s : State) (tile : Nat) : Hub := tget .zero tile s.hubs
def State.modHub (s : State) (tile : Nat) (f : Hub → Hub) : State :=
  { s with hubs := tput .zero tile (f (s.hub tile)) s.hubs }

/-- An entry joins a log of 64; beyond that it is counted (R412). -/
def ErrLog.add (l : ErrLog) (x : LogEnt) : ErrLog :=
  if l.ents.length < Config.logEntries then { l with ents := l.ents ++ [x] } else { l with lost := l.lost + 1 }

/-- An entry in the log of the tile hub that holds an element. -/
def State.logTile (s : State) (ea array type : Nat) (inj : Bool) (loc : Word) : State :=
  let x : LogEnt := ⟨array, type, inj, ea, loc, s.dieCycle (eaDie ea)⟩
  s.modHub (tileOf ea) (fun h => { h with log := h.log.add x })

/-- The injection armed for an array and target, if any, taken (R417). -/
def State.takeInj (s : State) (array target : Nat) : Option Inj × State :=
  match s.injs.find? (fun j => j.array == array && j.target == target) with
  | some j => (some j, { s with injs := s.injs.erase j })
  | none => (none, s)

/-! ## Words on their way (R121, R155 to R158) -/

/-- The port by which a word enters a site when it has moved in direction `d`: 0 north, 1 east, 2 south, 3 west. -/
def entryPort (d : Nat) : Nat :=
  match d with
  | 0 => 3
  | 1 => 1
  | 2 => 0
  | _ => 2

def State.rlink (s : State) (l : Nat) : RLink := tget .zero l s.links
def State.setRlink (s : State) (l : Nat) (x : RLink) : State := { s with links := tput .zero l x s.links }

/-- Copies of one word at site `site` from cycle `t` wait for the next link of their route in direction `d`; those that go
another way, or are there, do not. `port` is the input port they stand at. -/
def State.joinLink (s : State) (t site port vc : Nat) (as : List Arrival) (d : Nat) : State :=
  let bs := as.filter (fun a => a.ea != site && nextDir site a.ea == d)
  if bs.isEmpty then s
  else
    let l := linkNo site d
    let x := s.rlink l
    (s.setRlink l { x with q := x.q ++ [⟨t, port, vc, site, bs, none⟩] }).at_ t (.routerArbitration l)

/-- The copies of one word at site `site` from cycle `t`: into their channels there, and to the next links of their routes,
one passage for the copies that share a link (R156, R159; log 5). -/
def State.forward (s : State) (t site port vc : Nat) (as : List Arrival) : State :=
  let s := (as.filter (fun a => a.ea == site)).foldl (fun s a => s.at_ t (.channelWordArrival a)) s
  [0, 1, 2, 3].foldl (fun s d => s.joinLink t site port vc as d) s

/-- The events that follow something in cycle `t`. -/
def State.follow (s : State) (t : Nat) (evs : List (Nat × Instr)) : State := evs.foldl (fun s e => s.at_ (t + e.1) e.2) s

/-- A parcel waits at site `site` from cycle `t` for the next link of its way (R156). -/
def State.parcelWaits (s : State) (t site port vc : Nat) (p : Parcel) : State :=
  let l := linkNo site (nextDir site p.dst)
  let x := s.rlink l
  (s.setRlink l { x with q := x.q ++ [⟨t, port, vc, site, [], some p⟩] }).at_ t (.routerArbitration l)

/-- A parcel that has reached site `site` in cycle `t` goes on to the sites that follow, if any. -/
def State.parcelOn (s : State) (t site vc : Nat) : List (Nat × List (Nat × Instr)) → State
  | [] => s
  | (d, evs) :: more =>
    if site == d then (s.follow t evs).parcelOn t site vc more else s.parcelWaits t site 4 vc ⟨d, evs, more⟩

/-- A parcel at site `site` from cycle `t`: at its target its events follow and it goes on, else it waits for the next link of its way
(R156). -/
def State.passParcel (s : State) (t site port vc : Nat) (p : Parcel) : State :=
  if site == p.dst then (s.follow t p.evs).parcelOn t site vc p.more else s.parcelWaits t site port vc p

/-- A request word, a reply or a spill word sets out in cycle `t` from site `from_` to site `dst` (R155, R156). -/
def State.sendParcel (s : State) (t from_ dst vc : Nat) (evs : List (Nat × Instr)) : State :=
  if from_ == dst then s.follow (t + hops from_ dst) evs else s.passParcel t from_ 4 vc ⟨dst, evs, []⟩

/-- A word sets out in cycle `t` from site `from_` to site `dst`, and from there to site `last`. -/
def State.sendTwice (s : State) (t from_ dst : Nat) (evs : List (Nat × Instr)) (last : Nat) (evs' : List (Nat × Instr)) : State :=
  if from_ == dst then (s.follow (t + hops from_ dst) evs).parcelOn (t + hops from_ dst) dst 0 [(last, evs')]
  else s.passParcel t from_ 4 0 ⟨dst, evs, [(last, evs')]⟩

/-- Even parity over a byte (Table 6-1). -/
def parity (b : Nat) : Bool := (List.range 10).foldl (fun acc i => acc != b.testBit i) false

/-- The code of a kind (Table 6-1). -/
def kindCode : WKind → Nat
  | .data => 0
  | .eos => 1
  | .cfg => 2
  | .poison => 3

/-- DPAR of a word. -/
def dparOf (w : Word) : BitVec 8 :=
  (List.range 8).foldl (fun acc i => acc ||| (if parity (lane8 w i) then BitVec.ofNat 8 (2 ^ i) else 0)) 0
where
  /-- Byte `i` of a word. -/
  lane8 (x : Word) (i : Nat) : Nat := x.toNat / 2 ^ (8 * i) % 256

/-- TPAR of a word. -/
def tparOf (w : CWord) : Bool := parity (w.tag.toNat + 256 * kindCode w.kind)

/-- A word enters its journey at site `from_` in cycle `t`, to channel `ch` of `dst` (R147, R155). -/
def State.launchWord (s : State) (t from_ dst ch : Nat) (w : CWord) (src : Src) (epoch : Nat) : State :=
  let a : Arrival := ⟨dst, ch, w, dparOf w.data, tparOf w, src, epoch⟩
  if from_ == dst then s.at_ (t + 1) (.channelWordArrival a) else s.forward t from_ 4 0 [a]

/-- Copies of one word set out from site `ea` in cycle `t`; a channel of the element itself is one hop away (R155). -/
def State.launchCopies (s : State) (t ea : Nat) (as : List Arrival) : State :=
  let s := (as.filter (fun a => a.ea == ea)).foldl (fun s a => s.at_ (t + 1) (.channelWordArrival a)) s
  s.forward t ea 4 0 (as.filter (fun a => a.ea != ea))

/-- The copies of a word that enters output `o` of `ea` in cycle `t`: one for each target (R155, R159). -/
def State.launchTargets (s : State) (g : Group) (t ea o epoch : Nat) (r : Route) (w : CWord) : State :=
  s.launchCopies t ea ((List.range r.n).map (fun i =>
    ⟨g.targetEa (r.target i), (tgtCh (r.target i)).toNat, w, dparOf w.data, tparOf w, .output ea o i epoch, (s.elem ea).wave⟩))

/-- Words that are ready enter their output in the order of their places, one in a cycle (R121). -/
def State.enterReady (s : State) (ea o : Nat) : List Place → State
  | [] => s.modOut ea o (fun x => { x with places := [] })
  | p :: ps =>
    match p.word with
    | none => s.modOut ea o (fun x => { x with places := p :: ps })
    | some w =>
      let t := max s.now ((s.elem ea).out o).free
      let gn := s.groupNo ea
      let r := (s.elem ea).work.route o
      let s := s.modOut ea o (fun x => { x with free := t + 1 })
      let s := (s.progress gn ea t).launchTargets (s.group gn) t ea o p.epoch r w
      s.enterReady ea o ps

/-- A place in output `o` is filled, and the words that may enter do (R121). -/
def State.fillPlace (s : State) (ea o id : Nat) (w : CWord) : State :=
  let ps := ((s.elem ea).out o).places.map (fun p => if p.id == id then { p with word := some w } else p)
  s.enterReady ea o ps

/-- Places are filled one after the other. -/
def State.fillPlaces (s : State) (ea : Nat) (w : CWord) : List (Nat × Nat) → State
  | [] => s
  | (o, id) :: ps => (s.fillPlace ea o id w).fillPlaces ea w ps

/-- One place is reserved in output `o`, and a credit of every target with it (R91, R158). -/
def State.reserve (s : State) (ea o : Nat) : State × (Nat × Nat) :=
  let e := s.elem ea
  let x := e.out o
  let n := (e.work.route o).n
  let used := (List.range n).foldl (fun u i => tput 0 i (tget 0 i u + 1) u) x.used
  (s.setElem ea (e.setOut o { x with places := x.places ++ [⟨x.nextId, e.epoch, none⟩], nextId := x.nextId + 1, used := used }),
   (o, x.nextId))

/-- One place in each of the outputs named. -/
def State.reserveAll (s : State) (ea : Nat) : List Nat → State × List (Nat × Nat)
  | [] => (s, [])
  | o :: os =>
    let (s, p) := s.reserve ea o
    let (s, ps) := s.reserveAll ea os
    (s, p :: ps)

/-- The bound depth of a channel. -/
def Elem.depth (e : Elem) (ch : Nat) : Nat := chanDepth (e.work.chanWord ch)

/-- The depth that a sender of splice wave `wave` sees: a target that has not swapped yet is seen through its shadow
binding (R292). -/
def Elem.depthFor (e : Elem) (wave ch : Nat) : Nat :=
  if e.wave < wave then chanDepth (e.shadow.chanWord ch) else e.depth ch

/-- The credits left at target `i` of output `o` (R158). -/
def State.credit (s : State) (ea o i : Nat) : Nat :=
  let e := s.elem ea
  let tg := (e.work.route o).target i
  let dst := (s.group (s.groupNo ea)).targetEa tg
  (s.elem dst).depthFor e.wave (tgtCh tg).toNat - tget 0 i (e.out o).used

/-- The smallest credit over the targets of an output. -/
def State.room (s : State) (ea o : Nat) : Nat :=
  let n := ((s.elem ea).work.route o).n
  (List.range n).foldl (fun m i => min m (s.credit ea o i)) 4

/-- Fields of an endpoint target (Table 9-1). -/
def tgtRch (w : Word) : Nat := (w.extractLsb' 40 5).toNat
def tgtRen (w : Word) : Bool := w.getLsbD 45
def tgtOrd (w : Word) : Bool := w.getLsbD 46
def tgtSz (w : Word) : Nat := (w.extractLsb' 48 2).toNat
def tgtSext (w : Word) : Bool := w.getLsbD 50
def tgtOfwd (w : Word) : Nat := (w.extractLsb' 51 5).toNat
def tgtFen (w : Word) : Bool := w.getLsbD 56
def tgtPart (w : Word) : Nat := (w.extractLsb' 57 3).toNat

/-- The further request firings a request route could take, at most 4 (R167, R226). -/
def Elem.reqRoom (e : Elem) (o : Nat) : Nat :=
  let t := (e.work.route o).target 0
  let x := e.out o
  let a := Config.requestCredits - x.reqUsed
  let c := e.chan (tgtRch t)
  let b := if tgtRen t then e.depth (tgtRch t) - c.q.length - c.reserved else 4
  let q := e.out (tgtOfwd t)
  let d := if tgtFen t then Config.orderTokens - q.tokens.length - q.tokRes else 4
  min (min a b) (min d 4)

/-! ## Banks (R171 to R176) -/

/-- The number of the home of a local address (R255): the bank of an SRAM window (R171, R175), the memory port of an HBM
address (R22), the base die of a capacity address (R10). -/
def bankOf (a : Nat) : Nat :=
  if a < 0x10000000000 then 2 ^ 25 + stackOf a * 32 + hbmPort a
  else if a < 0xA0000000000 then 2 ^ 25 + 512 + capStack a
  else
    let k := (a - 0xA0000000000) / 0x2000000
    let o := (a - 0xA0000000000) % 0x2000000
    if o < 0x1800000 then 2 ^ 24 + k * 512 + o / 0x10000
    else (k * 16 + (o - 0x1800000) / 0x80000) * 8 + o / 64 % 8

/-- Ports of a home: 6 at an SE bank, 25 at a tile-store bank (R171, R175), one at a memory port, which serves the oldest first
(R313). -/
def bankPorts (bank : Nat) : Nat := if bank < 2 ^ 24 then 6 else if bank < 2 ^ 25 then 25 else 1

def State.engine (s : State) (stack : Nat) : Engine := tget .zero stack s.engines
def State.modEngine (s : State) (stack : Nat) (f : Engine → Engine) : State :=
  { s with engines := tput .zero stack (f (s.engine stack)) s.engines }
def State.bank (s : State) (b : Nat) : Bank := tget .zero b s.banks
def State.setBank (s : State) (b : Nat) (x : Bank) : State := { s with banks := tput .zero b x s.banks }

/-- The requests of port `p` in a bank's queue. -/
def Bank.waiting (b : Bank) (p : Nat) : Nat := b.q.countP (fun r => r.port == p)

/-- A credit of a request route is back (R226). -/
def State.creditBack (s : State) (c : Option (Nat × Nat × Nat)) : State :=
  match c with
  | some (ea, o, epoch) => s.at_ s.now (.requestCreditReturn ea o epoch)
  | none => s

/-- A request enters the queue of its port at the bank that holds `a`; what is done at its service is `i` (R173). -/
def State.bankEnter (s : State) (a port : Nat) (i : Instr) (credit : Option (Nat × Nat × Nat)) : State :=
  let n := bankOf a
  let b := s.bank n
  let room := b.waiting port < 4
  let s := s.setBank n { b with q := b.q ++ [⟨port, s.now, i, if room then none else credit⟩] }
  let s := if room then s.creditBack credit else s
  s.at_ (max s.now b.free) (.bankService n)

/-- A port holds a request for which its bank's queue has no room: its source sends no more until it has entered (R173). `bank` says
which banks the port is asked about. -/
def State.portHolds (s : State) (port : Nat) (bank : Nat → Bool) : Bool := s.banks.any (fun p => bank p.1 && p.2.waiting port > 4)

/-- A bank of the memory of an SE, by its number. -/
def seBank (ea n : Nat) : Bool := n / 8 == tileIndex ea * 16 + seIndex ea
/-- A bank of the tile store of a tile, by its number. -/
def storeBank (ea n : Nat) : Bool := 2 ^ 24 ≤ n && n < 2 ^ 25 && (n - 2 ^ 24) / 512 == tileIndex ea

/-- SE memory below the carve-out: P (R172). -/
def Elem.progBytes (e : Elem) : Nat := 0x80000 - 4096 * ecwSpill e.work.ecw

/-- Bytes of a granule code (Table 7-2). -/
def granBytes (g : Nat) : Nat :=
  match g with
  | 0 => 64
  | 1 => 256
  | 2 => 4096
  | _ => 65536

def Hub.part (h : Hub) (p : Nat) : Part := tget .zero p h.parts
/-- A partition as the accesses of cycle `now` find it: a new mapping holds from the cycle after its write (R283). -/
def Hub.partNow (h : Hub) (now p : Nat) : Part :=
  match h.was with
  | some (t, m) => if t == now then tget .zero p m else h.part p
  | none => h.part p

/-- The local address of offset `o` of partition `p` of a tile; none beyond its size (R176). -/
def State.partAddr (s : State) (tile p o : Nat) : Option Nat :=
  let x := (s.hub tile).partNow s.now p
  if o ≥ x.count * 65536 then none
  else
    let g := granBytes x.gran
    let k := o / g
    some (tsAddr tile (x.first + k % x.count) (k / x.count * g + o % g))

/-- A request with nothing in it. -/
def MReq.zero : MReq :=
  ⟨0, 0, 0, 0, 0, 0, .firing, .ld, 0, 0, 0, 0, 0, 0, 0, 0, false, 0, 0, 0, 0, false, 0, false, false, 0, 0, false, none, 0, false, 0, 0, []⟩

/-- The output number of a request that comes through an SE's local port, and of spill traffic (R171, R191). -/
abbrev localOut : Nat := 32
abbrev spillOut : Nat := 33

/-! ## Pops (R161) -/

/-- The head word of a channel for a guard: a CFG word is none (R162). DESIGN CHOICE (log 76): a channel that is STRAY has no head,
the words queued before it became so among them; R161 does not say. -/
def Chan.head (c : Chan) : Option QWord :=
  match c.q with
  | [] => none
  | w :: _ => if w.word.kind == .cfg || c.st == .stray then none else some w

/-- State of a channel after a pop that leaves `rest` (Table 6-5). -/
def chanAfterPop (st : ChSt) (rest : List QWord) : ChSt :=
  if st == .ended && !rest.any (fun w => w.word.kind == .eos) then .drained else st

/-- The credit of a popped word returns after the hops of its route (R158). -/
def State.returnCredit (s : State) (ea : Nat) (src : Src) : State :=
  match src with
  | .none => s
  | .output e _ _ _ => s.after (hops e ea) (.creditReturn src)
  | .barrier tile _ _ => s.after (hops tile ea) (.creditReturn src)

/-- The head of a channel is popped (Table 6-5, R158); a pop is progress (R302). -/
def State.pop (s : State) (ea ch : Nat) : State :=
  let c := s.chan ea ch
  match c.q with
  | [] => s
  | w :: rest =>
    ((s.modChan ea ch (fun c => { c with q := rest, st := chanAfterPop c.st rest })).returnCredit ea w.src).progressAt ea

/-- The pop of the head when `k` asks for it. -/
def State.popIf (s : State) (k : Bool) (ea ch : Nat) : State := if k then s.pop ea ch else s

end Sys2Proof.Machine
end

