-- ==== Sys2Proof/Machine/Operands.lean ====
section
/-! DEFINITION. Operands of a firing: sources (Table 2-4), special registers (Table 4-6), tags (Table 2-6), destinations
(Table 2-5), and the part of a firing that every slot instruction has (R91). -/

namespace Sys2Proof.Machine

/-- A source value: its bits, whether it is the DATA of a POISON word (R163) and of which channel, the flags its decoding
raises (R152), and what a window dot needs to know of it (R141). -/
structure Opnd where
  val : Word
  poison : Bool
  ch : Nat
  isB : Bool
  fl : FlagSet
  src : LaneSrc
  deriving DecidableEq, Repr, Inhabited

/-- A plain value. -/
def Opnd.plain (v : Word) : Opnd := ⟨v, false, 0, false, 0, ⟨none, 0x7F⟩⟩

/-- A data word decoded by its channel's format (Table 6-3, R152). -/
def decodeData (fmt : Nat) (m : Rnd) (w : Word) : Res :=
  if fmt == 6 || fmt == 7 then packLanes 8 ((List.range 8).map (fun i => ocpDecode (fmt == 7) m (lane 8 w i)))
  else (w, 0)

/-- A scale register; an unlisted one holds 0x7F (R153). -/
def Elem.scale (e : Elem) (n : Nat) : Byte := tget 0x7F n e.scales

/-- The DATA of a head word, read through code 16 or 17 (R152, R162, R163). -/
def readHead (e : Elem) (now ch : Nat) (isB : Bool) : Opnd :=
  match (e.chan ch).head with
  | none => .plain 0
  | some q =>
    let cw := e.work.chanWord ch
    let fmt := chanFmt cw
    let src : LaneSrc := ⟨some fmt, e.scale (chanScale cw)⟩
    match q.word.kind with
    | .data =>
      let r := decodeData fmt (rndOf (ecwRnd (e.ecwNow now))) q.word.data
      ⟨r.1, false, ch, isB, r.2, src⟩
    | .poison => ⟨q.word.data, true, ch, isB, 0, src⟩
    | _ => ⟨0, false, ch, isB, 0, src⟩

/-- The TAG of a head word (R152). -/
def headTag (e : Elem) (ch : Nat) : Byte :=
  match (e.chan ch).head with
  | none => 0
  | some q => q.word.tag

/-- ELEMID (Table 1-2). -/
def elemId (s : State) (ea : Nat) : Word :=
  BitVec.ofNat 64 (ea + physKind ea * 2 ^ 14 + eaTx ea * 2 ^ 16 + eaTy ea * 2 ^ 21 + s.module * 2 ^ 24)

/-- GROUPID (Table 4-7). -/
def groupId (gn : Nat) (g : Group) : Word :=
  BitVec.ofNat 64 (gn + g.dom * 2 ^ 16 + (g.w - 1) * 2 ^ 32 + (g.h - 1) * 2 ^ 37 + g.x * 2 ^ 40 + g.y * 2 ^ 45)

/-- How far back the state of a hub is sampled, in fc: more than the longest way in the module, 2 + 2m + 24c (R113, R336). -/
abbrev sampleReach : Nat := 512

/-- The entries of a history, newest first, that a sample may still ask for: those within reach, and the next older one. -/
def recent {α : Type} (now : Nat) (at_ : α → Nat) : List α → List α
  | [] => []
  | x :: xs => if now < at_ x + sampleReach then x :: recent now at_ xs else [x]

/-- The free count of a pool at the end of cycle `c`; 0 when it was not declared then (R113). -/
def Pool.countAt (p : Pool) (c : Int) : Nat :=
  match p.past.find? (fun x => (x.1 : Int) ≤ c) with
  | some (_, dec, n) => if dec then n else 0
  | none => 0

/-- The free count of pool `k` as a TE at `ea` samples it (R113). -/
def poolSample (s : State) (ea k : Nat) : Nat :=
  let g := s.group (s.groupNo ea)
  (tget .zero k g.pools).countAt ((s.now : Int) - hubDelay ea g.origin)

/-- POOLS (Table 4-8). -/
def poolsReg (s : State) (ea : Nat) : Word :=
  BitVec.ofNat 64 ((List.range 8).foldl (fun acc k => acc + poolSample s ea k * 2 ^ (8 * k)) 0)

/-- An unprivileged special register (Table 4-6). -/
def specialReg (s : State) (cu : Cursor) (i : Nat) : Word :=
  let e := s.elem cu.ea
  let c := e.ctx cu.ctx
  match i with
  | 0 => elemId s cu.ea
  | 1 => groupId (s.groupNo cu.ea) (s.group (s.groupNo cu.ea))
  | 2 => (s.group (s.groupNo cu.ea)).launchArg
  | 3 => s.dieCycle (eaDie cu.ea)
  | 4 => c.flags.setWidth 64
  | 5 => c.tag.setWidth 64
  | 6 => c.spillBase
  | 7 => c.spillOvf
  | 8 => BitVec.ofNat 64 (ecwWw (e.ecwNow s.now))
  | 9 => BitVec.ofNat 64 (ecwRnd (e.ecwNow s.now))
  | 10 => poolsReg s cu.ea
  | _ => 0

/-- A source operand (Table 2-4). -/
def readSource (s : State) (cu : Cursor) (f : SlotF) (code : BitVec 5) : Opnd :=
  let e := s.elem cu.ea
  let c := e.ctx cu.ctx
  let n := code.toNat
  if n < 16 then .plain (c.reg n)
  else match n with
    | 16 => readHead e s.now f.ia.toNat false
    | 17 => readHead e s.now f.ib.toNat true
    | 18 => .plain ((headTag e f.ia.toNat).setWidth 64)
    | 19 => .plain ((headTag e f.ib.toNat).setWidth 64)
    | 20 => .plain f.lit
    | 22 => .plain (c.pred.setWidth 64)
    | _ => if n < 24 then .plain 0 else .plain (specialReg s cu (n - 24))

/-- POISON_CONSUMED names the channel, and bit 5 for input B (R163). -/
def poisonDetail (o : Opnd) : Nat := o.ch + (if o.isB then 32 else 0)

/-- A firing that consumes a poisoned source (R163). -/
def State.raisePoison (s : State) (cu : Cursor) (o : Opnd) : State := s.raiseSync cu 0x15 (poisonDetail o) o.val

/-! ## Tags -/

/-- The declared pool that owns a tag (R96). -/
def poolOf (g : Group) (tag : Nat) : Option Nat :=
  (g.pools.find? (fun p => p.2.declared && p.2.first ≤ tag && tag < p.2.first + p.2.count)).map (·.1)

/-- The tag of a held credit. -/
def credTag : TagCred → Byte
  | .held t _ => t
  | _ => 0

/-- The tag of the words that the slot sends (Table 2-6). -/
def sentTag (s : State) (cu : Cursor) (f : SlotF) : Byte :=
  let e := s.elem cu.ea
  let a := headTag e f.ia.toNat
  let b := headTag e f.ib.toNat
  match f.ta.toNat with
  | 0 => a
  | 1 => b
  | 2 => f.tl
  | 3 => a + 1
  | 4 => (e.ctx cu.ctx).tag
  | 6 => credTag (tget .none (f.lit.toNat % 8) e.tagCreds)
  | 7 => a
  | 8 => if b.toNat < a.toNat then a else b
  | _ => 0

/-- RELEASE_A names a tag of no declared pool (R98). -/
def badRelease (s : State) (cu : Cursor) (f : SlotF) : Bool :=
  f.ta == 7 && (poolOf (s.group (s.groupNo cu.ea)) (headTag (s.elem cu.ea) f.ia.toNat).toNat).isNone

/-- A tag goes back to pool `k` (R98). -/
def State.releaseTag (s : State) (cu : Cursor) (k : Nat) (tag : Byte) : State :=
  let gn := s.groupNo cu.ea
  s.after (hubDelay cu.ea (s.group gn).origin) (.tagReleaseArrival gn k tag cu.ea cu.ctx cu.slot)

/-- What TA does besides choosing the tag: FRESH uses its credit, RELEASE_A returns the tag (R97, R98). -/
def State.tagEffect (s : State) (cu : Cursor) (f : SlotF) : State :=
  if f.ta == 6 then s.modElem cu.ea (fun e => { e with tagCreds := tput .none (f.lit.toNat % 8) .none e.tagCreds })
  else if f.ta == 7 then
    let tag := headTag (s.elem cu.ea) f.ia.toNat
    match poolOf (s.group (s.groupNo cu.ea)) tag.toNat with
    | some k => s.releaseTag cu k tag
    | none => s
  else s

/-! ## The common firing -/

/-- The counters and the pointer P of a firing (R81, R88). -/
def State.countFiring (s : State) (cu : Cursor) : State :=
  s.modElem cu.ea (fun e =>
    let e := e.setCtx cu.ctx (let c := e.ctx cu.ctx; { c with fires := c.fires + 1 })
    { e with ptr := cu.ctx, slotFires := tput 0 cu.slot (tget 0 cu.slot e.slotFires + 1) e.slotFires })

/-- What every firing does: counters, the tag action's own effect, the pops of the guard (R91). -/
def State.fireBase (s : State) (cu : Cursor) (f : SlotF) : State :=
  (((s.countFiring cu).tagEffect cu f).popIf f.ka cu.ea f.ia.toNat).popIf f.kb cu.ea f.ib.toNat

/-- A result that delivers nothing yet. -/
def Delivery.none (s : State) (cu : Cursor) : Delivery :=
  ⟨cu.ea, cu.ctx, Option.none, 0, 0, 0, [], ⟨0, 0, .data⟩, 0, (s.elem cu.ea).epoch⟩

/-- The firing's slot decodes the head of an OCP channel (R152). -/
def State.decodesOcp (s : State) (cu : Cursor) : Bool :=
  let e := s.elem cu.ea
  let f := slotFields (e.planeNow s.now |>.slot cu.slot).guard (e.planeNow s.now |>.slot cu.slot).action
    (e.planeNow s.now |>.slot cu.slot).lit
  let ocp (ch : BitVec 5) : Bool := let fmt := chanFmt (e.work.chanWord ch.toNat); fmt == 6 || fmt == 7
  let reads (code : BitVec 5) : Bool := (code == 16 && ocp f.ia) || (code == 17 && ocp f.ib)
  reads f.sa || reads f.sb

/-- Flags raised `lat` cycles from now (R72, R120); the decode of an OCP word is outstanding until then, also where it raises none
(R284). -/
def State.raiseFlags (s : State) (cu : Cursor) (lat : Nat) (fl : FlagSet) : State :=
  if fl == 0 && !s.decodesOcp cu then s else s.after lat (.resultDelivery { Delivery.none s cu with flags := fl })

/-- The outputs a destination code names. -/
def destOuts (f : SlotF) (d : BitVec 5) : List Nat :=
  match d.toNat with
  | 16 => [f.oa.toNat]
  | 17 => [f.ob.toNat]
  | 18 => [f.oa.toNat, f.ob.toNat]
  | _ => []

/-- The predicate bits a destination code writes. -/
def destPreds (d : BitVec 5) : Byte :=
  let n := d.toNat
  if n == 19 then 0xFF else if 20 ≤ n && n ≤ 27 then BitVec.ofNat 8 (2 ^ (n - 20)) else 0

/-- The bits a destination code gives the predicates (Table 2-5). -/
def destPredVal (d : BitVec 5) (v : Word) : Byte :=
  if d == 19 then v.setWidth 8 else if v.getLsbD 0 then destPreds d else 0

/-- The registers and predicate bits that wait for a result are marked pending (R86). -/
def State.markPending (s : State) (cu : Cursor) (reg : Option Nat) (preds : Byte) : State :=
  s.modCtx cu.ea cu.ctx (fun c =>
    { c with
      pendReg := match reg with
        | some r => c.pendReg ||| BitVec.ofNat 16 (2 ^ r)
        | Option.none => c.pendReg
      pendPred := c.pendPred ||| preds })

/-- The register a destination code names. -/
def destReg (d : BitVec 5) : Option Nat := if d.toNat < 16 then some d.toNat else Option.none

/-- A result sent to destination `d` with latency `lat` (Table 2-5, R86, R119, R121). -/
def State.deliver (s : State) (cu : Cursor) (f : SlotF) (d : BitVec 5) (lat : Nat) (v : Word) (kind : WKind) (tag : Byte)
    (fl : FlagSet) : State :=
  let (s, places) := s.reserveAll cu.ea (destOuts f d)
  let s := if lat > 1 then s.markPending cu (destReg d) (destPreds d) else s
  s.after lat (.resultDelivery { Delivery.none s cu with
    reg := destReg d, value := v, predMask := destPreds d, predVal := destPredVal d v, places := places,
    word := ⟨v, tag, kind⟩, flags := fl })

/-! ## A firing that computes a value -/

/-- The operands of an arithmetic instruction (R119). -/
structure AluIn where
  d : Word
  a : Word
  b : Word
  lit : Word
  rnd : Rnd
  W : Nat
  oa : LaneSrc
  ob : LaneSrc
  deriving DecidableEq, Repr, Inhabited

/-- The operands of the firing at the cursor. -/
def aluIn (s : State) (cu : Cursor) (f : SlotF) : AluIn :=
  let e := s.elem cu.ea
  let a := readSource s cu f f.sa
  let b := readSource s cu f f.sb
  ⟨(e.ctx cu.ctx).reg f.da.toNat, a.val, b.val, f.lit, rndOf (ecwRnd (e.ecwNow s.now)), windowWidth (ecwWw (e.ecwNow s.now)), a.src, b.src⟩

/-- The fault that a firing's operands raise before it computes: a poisoned source, or a RELEASE_A of a tag of no pool. -/
def State.operandFault (s : State) (cu : Cursor) (f : SlotF) : Option State :=
  let a := readSource s cu f f.sa
  let b := readSource s cu f f.sb
  if a.poison then some (s.raisePoison cu a)
  else if b.poison then some (s.raisePoison cu b)
  else if badRelease s cu f then some (s.raiseSync cu 0x05 0 ((headTag (s.elem cu.ea) f.ia.toNat).setWidth 64))
  else Option.none

/-- The flags that decoding the sources raises, at t + 2 (R152). -/
def sourceFlags (s : State) (cu : Cursor) (f : SlotF) : FlagSet :=
  (readSource s cu f f.sa).fl ||| (readSource s cu f f.sb).fl

/-- The firing of an instruction that computes one value for DA (R119 to R121). -/
def State.fireAlu (s : State) (f : SlotF) (lat : AluIn → Nat) (g : AluIn → Res) : State :=
  match s.cur with
  | Option.none => s
  | some cu =>
    match s.operandFault cu f with
    | some s' => s'
    | Option.none =>
      let x := aluIn s cu f
      let r := g x
      let tag := sentTag s cu f
      let fl := sourceFlags s cu f
      ((s.fireBase cu f).raiseFlags cu 2 fl).deliver cu f f.da (lat x) r.1 .data tag r.2

/-- The firing of an instruction with an effect of its own beside the common part: `g` acts on the state after the pops,
given the operands read before them. -/
def State.fireWith (s : State) (f : SlotF) (g : Cursor → AluIn → Byte → State → State) : State :=
  match s.cur with
  | Option.none => s
  | some cu =>
    match s.operandFault cu f with
    | some s' => s'
    | Option.none =>
      let x := aluIn s cu f
      let tag := sentTag s cu f
      let fl := sourceFlags s cu f
      g cu x tag ((s.fireBase cu f).raiseFlags cu 2 fl)

end Sys2Proof.Machine
end

