-- ==== Sys2Proof/Machine/Context.lean ====
section
/-! DEFINITION. The instructions of chapter 04: moves, ending a context, predicates and the context tag, spawn and tag
release, counters, special registers and flags (R101 to R118), and the events of tag pools (R97, R98) and results. -/

namespace Sys2Proof.Machine

/-- The outcome of a meaning: always a next state. -/
abbrev Out1 := Host.Outcome State Fault Refusal

/-! ## Moves and selection (R102 to R105) -/

/-- Whether a moved source may pass its poison on: its destination is outputs alone (R163). -/
def passes (f : SlotF) (d : BitVec 5) : Bool := !(destOuts f d).isEmpty

/-- The kind of the word that a mov, mov2 or steer sends (R163). -/
def moveKind (o : Opnd) : WKind := if o.poison then .poison else .data

/-- RELEASE_A of a tag that lies in no declared pool (R98). -/
def State.raiseRelease (s : State) (cu : Cursor) (f : SlotF) : State :=
  s.raiseSync cu 0x05 0 ((headTag (s.elem cu.ea) f.ia.toNat).setWidth 64)

/-- R102, R163. -/
def execMov (f : SlotF) (s : State) : Out1 := .next <|
  match s.cur with
  | none => s
  | some cu =>
    let a := readSource s cu f f.sa
    if a.poison && !passes f f.da then s.raisePoison cu a
    else if badRelease s cu f then s.raiseRelease cu f
    else
      let tag := sentTag s cu f
      ((s.fireBase cu f).raiseFlags cu 2 a.fl).deliver cu f f.da 1 a.val (moveKind a) tag 0

/-- R102, R163: both sources are read before either is written. -/
def execMov2 (f : SlotF) (s : State) : Out1 := .next <|
  match s.cur with
  | none => s
  | some cu =>
    let a := readSource s cu f f.sa
    let b := readSource s cu f f.sb
    if a.poison && !passes f f.da then s.raisePoison cu a
    else if b.poison && !passes f f.db then s.raisePoison cu b
    else if badRelease s cu f then s.raiseRelease cu f
    else
      let tag := sentTag s cu f
      let s := (s.fireBase cu f).raiseFlags cu 2 (a.fl ||| b.fl)
      (s.deliver cu f f.da 1 a.val (moveKind a) tag 0).deliver cu f f.db 1 b.val (moveKind b) tag 0

/-- R103. -/
def execSel (f : SlotF) (s : State) : Out1 :=
  .next (s.fireAlu f (fun _ => 1) (fun x => (if x.b.getLsbD 0 then x.a else x.lit, 0)))

/-- R104, R168: only the chosen output is reserved. -/
def execSteer (f : SlotF) (s : State) : Out1 := .next <|
  match s.cur with
  | none => s
  | some cu =>
    let a := readSource s cu f f.sa
    let b := readSource s cu f f.sb
    if b.poison then s.raisePoison cu b
    else if badRelease s cu f then s.raiseRelease cu f
    else
      let tag := sentTag s cu f
      let s := (s.fireBase cu f).raiseFlags cu 2 (a.fl ||| b.fl)
      s.deliver cu f (if b.val.getLsbD 0 then 16 else 17) 1 a.val (moveKind a) tag 0

/-- R105. -/
def execSendeos (f : SlotF) (s : State) : Out1 :=
  .next (s.fireWith f (fun cu _ tag s => s.deliver cu f f.da 1 0 .eos tag 0))

/-! ## Ending a context (R106, R107) -/

/-- R106: a notice with CODE 0x00 and DETAIL 1 goes to the origin hub (R412). -/
def execHalt (f : SlotF) (s : State) : Out1 :=
  .next (s.fireWith f (fun cu _ _ s =>
    (s.modCtx cu.ea cu.ctx (fun c => { c with st := .halted })).raiseRec (s.groupNo cu.ea) cu.ea cu.ea (some cu.ctx)
      (some cu.slot) 0 false false 1 0))

/-- R107. -/
def execExit (f : SlotF) (s : State) : Out1 :=
  .next (s.fireWith f (fun cu _ _ s => s.modCtx cu.ea cu.ctx (fun c => { c with st := .exited })))

/-! ## Predicates and the context tag (R108 to R110) -/

/-- Predicate bits written at t + 1: those of `mask` take the values in `v` (R108). -/
def State.writePreds (s : State) (cu : Cursor) (mask v : Byte) : State :=
  if mask == 0 then s
  else s.after 1 (.resultDelivery { Delivery.none s cu with predMask := mask, predVal := v &&& mask })

/-- R108. -/
def execPset (f : SlotF) (s : State) : Out1 :=
  .next (s.fireWith f (fun cu _ _ s => s.writePreds cu (f.lit.setWidth 8) 0xFF))

/-- R108. -/
def execPclr (f : SlotF) (s : State) : Out1 :=
  .next (s.fireWith f (fun cu _ _ s => s.writePreds cu (f.lit.setWidth 8) 0))

/-- R108. -/
def execPmov (f : SlotF) (s : State) : Out1 :=
  .next (s.fireWith f (fun cu x _ s => s.writePreds cu (f.lit.setWidth 8) (x.a.setWidth 8)))

/-- R109. -/
def execDrop (f : SlotF) (s : State) : Out1 := .next (s.fireWith f (fun _ _ _ s => s))

/-- R110. -/
def execCtag (f : SlotF) (s : State) : Out1 :=
  .next (s.fireWith f (fun cu x _ s => s.modCtx cu.ea cu.ctx (fun c => { c with tag := x.a.setWidth 8 })))

/-! ## Spawn and tag release (R111 to R113) -/

/-- R111: one tag for both words. -/
def execSpawn (f : SlotF) (s : State) : Out1 :=
  .next (s.fireWith f (fun cu x tag s =>
    let s := s.deliver cu f 16 1 x.a .data tag 0
    if f.xb then s.deliver cu f 17 1 x.b .data tag 0 else s))

/-- R112. -/
def execTfree (f : SlotF) (s : State) : Out1 := .next <|
  match s.cur with
  | none => s
  | some cu =>
    match s.operandFault cu f with
    | some s' => s'
    | none =>
      let a := readSource s cu f f.sa
      let tag := a.val.toNat % 256
      let k := f.lit.toNat % 8
      let p := tget .zero k (s.group (s.groupNo cu.ea)).pools
      if !p.declared || tag < p.first || p.first + p.count ≤ tag then
        s.raiseSync cu 0x05 0 (BitVec.ofNat 64 (256 * k + tag))
      else ((s.fireBase cu f).raiseFlags cu 2 a.fl).releaseTag cu k (BitVec.ofNat 8 tag)

/-- R113. -/
def execPooln (f : SlotF) (s : State) : Out1 :=
  .next (s.fireWith f (fun cu _ tag s' =>
    s'.deliver cu f f.da 1 (BitVec.ofNat 64 (poolSample s cu.ea (f.lit.toNat % 8))) .data tag 0))

/-! ## Counters, special registers and flags (R114 to R117) -/

/-- The counter that rdcnt selects, as it stood before the firing (R114). -/
def counterOf (s : State) (cu : Cursor) (lit : Word) : Word :=
  let e := s.elem cu.ea
  let n := lit.toNat % 32
  if lit.getLsbD 5 then
    let c := e.ctx (n % 4)
    if n % 4 < ctxsOf e.kind && c.st != .disabled then c.fires.setWidth 64 else 0
  else if n < slotsOf e.kind then (tget 0 n e.slotFires).setWidth 64 else 0

/-- R114. -/
def execRdcnt (f : SlotF) (s : State) : Out1 :=
  .next (s.fireWith f (fun cu _ tag s' => s'.deliver cu f f.da 1 (counterOf s cu f.lit) .data tag 0))

/-- A special-register index that is not present for the kind (R115). -/
def srAbsent (k : EKind) (i : Nat) : Bool := i > 10 || (k != .te && 5 ≤ i && i ≤ 7)

/-- R115. -/
def execRdsr (f : SlotF) (s : State) : Out1 := .next <|
  match s.cur with
  | none => s
  | some cu =>
    let i := f.lit.toNat % 16
    if srAbsent (s.elem cu.ea).kind i then s.raiseSync cu 0x01 0 f.lit
    else s.fireWith f (fun cu _ tag s' => s'.deliver cu f f.da 1 (specialReg s cu i) .data tag 0)

/-- A write to a special register: CTXTAG and SPILLOVF take it, the others ignore it (R116, R192). -/
def Ctx.writeSr (c : Ctx) (i : Nat) (v : Word) : Ctx :=
  match i with
  | 5 => { c with tag := v.setWidth 8 }
  | 7 => { c with spillOvf := v &&& ~~~7 }
  | _ => c

/-- R116. -/
def execWrsr (f : SlotF) (s : State) : Out1 := .next <|
  match s.cur with
  | none => s
  | some cu =>
    let i := f.lit.toNat % 16
    if srAbsent (s.elem cu.ea).kind i then s.raiseSync cu 0x01 0 f.lit
    else s.fireWith f (fun cu x _ s => s.modCtx cu.ea cu.ctx (fun c => c.writeSr i x.a))

/-- R117. -/
def execRdflg (f : SlotF) (s : State) : Out1 :=
  .next (s.fireWith f (fun cu _ tag s' => s'.deliver cu f f.da 1 ((s.ctx cu.ea cu.ctx).flags.setWidth 64) .data tag 0))

/-- R72, R117: what is readable at the firing is cleared, what becomes readable later survives. -/
def execClrflg (f : SlotF) (s : State) : Out1 :=
  .next (s.fireWith f (fun cu _ _ s => s.modCtx cu.ea cu.ctx (fun c => { c with flags := c.flags &&& ~~~(f.lit.setWidth 6) })))

/-! ## Results (R85, R86, R119 to R121) -/

/-- The registers, predicates and flags of a result land in its context, and their marks end. -/
def Ctx.land (c : Ctx) (d : Delivery) : Ctx :=
  let c := match d.reg with
    | some r => { c.setReg r d.value with pendReg := c.pendReg &&& ~~~(BitVec.ofNat 16 (2 ^ r)) }
    | none => c
  { c with
    pred := (c.pred &&& ~~~d.predMask) ||| d.predVal
    pendPred := c.pendPred &&& ~~~d.predMask
    flags := c.flags ||| d.flags }

/-- A result of a firing is delivered: to its context, if the configuration that fired it is still the element's, and to
the places it reserved (R119, R121, R123). -/
def execResultDelivery (d : Delivery) (s : State) : Out1 :=
  let s := if (s.elem d.ea).epoch == d.epoch then s.modCtx d.ea d.ctx (fun c => c.land d) else s
  .next (s.fillPlaces d.ea d.word d.places)

/-! ## Tag pools (R97, R98) -/

/-- A pool's history is extended by its count now; what no sample can reach any more is dropped (R113). -/
def Pool.note (p : Pool) (now : Nat) : Pool :=
  { p with past := (now, p.declared, p.freeTags.length) :: recent now (·.1) (p.past.filter (fun x => x.1 != now)) }

def State.modPool (s : State) (gn k : Nat) (f : Pool → Pool) : State :=
  s.modGroup gn (fun g => { g with pools := tput .zero k ((f (tget .zero k g.pools)).note s.now) g.pools })

/-- A request put in the hub's order: by arrival cycle, then by element address (R97). -/
def insWaiting (x : Nat × Nat × Bool) : List (Nat × Nat × Bool) → List (Nat × Nat × Bool)
  | [] => [x]
  | y :: ys => if x.1 < y.1 || (x.1 == y.1 && x.2.1 < y.2.1) then x :: y :: ys else y :: insWaiting x ys

/-- R97: a TE asks its origin hub for a credit of its class. -/
def State.askTag (s : State) (ea pool : Nat) (spawn : Bool) : State :=
  let gn := s.groupNo ea
  let t := s.now + hubDelay ea (s.group gn).origin
  let s := s.modElem ea (fun e => { e with tagCreds := tput .none pool .asked e.tagCreds })
  let s := s.modPool gn pool (fun p => { p with waiting := insWaiting (t, ea, spawn) p.waiting })
  s.at_ t (.tagGrant gn pool)

/-- A waiting request that has arrived and can be served (R97). -/
def Pool.serves (p : Pool) (now : Nat) (x : Nat × Nat × Bool) : Bool :=
  x.1 ≤ now && p.declared && (if x.2.2 then p.freeTags.length > p.reserve else !p.freeTags.isEmpty)

/-- R97: the oldest request that can be served takes the head of the free list; one grant a cycle. -/
def execTagGrant (gn k : Nat) (s : State) : Out1 := .next <|
  let p := tget .zero k (s.group gn).pools
  if s.now < p.nextGrant then s
  else match p.waiting.find? (p.serves s.now), p.freeTags with
    | some x, tag :: rest =>
      let p' := { p with waiting := p.waiting.erase x, freeTags := rest, nextGrant := s.now + 1 }
      let s := s.modPool gn k (fun _ => p')
      let o := (s.group gn).origin
      let s := (s.progress gn o).after (hubDelay x.2.1 o) (.tagCreditArrival x.2.1 k tag x.2.2)
      if p'.waiting.isEmpty then s else s.after 1 (.tagGrant gn k)
    | _, _ => s

/-- R97: the credit reaches the TE that asked for it. -/
def execTagCreditArrival (ea k : Nat) (tag : Byte) (spawn : Bool) (s : State) : Out1 :=
  .next (s.modElem ea (fun e =>
    if tget .none k e.tagCreds == .asked then { e with tagCreds := tput .none k (.held tag spawn) e.tagCreds } else e))

/-- A tag of a pool is held as a credit: by a TE of the group, or on its way to one (R98). -/
def State.tagHeld (s : State) (gn k : Nat) (tag : Byte) : Bool :=
  s.elems.any (fun p => (s.group gn).covers p.1 && (match tget .none k p.2.tagCreds with
    | .held t _ => t == tag
    | _ => false)) ||
  s.agenda.any (fun x => match x.instr with
    | .tagCreditArrival ea k' t _ => k' == k && t == tag && (s.group gn).covers ea
    | _ => false)

/-- R98: the tag joins the tail of the free list, unless it is there already or held as a credit. -/
def execTagReleaseArrival (gn k : Nat) (tag : Byte) (ea ctx slot : Nat) (s : State) : Out1 := .next <|
  let p := tget .zero k (s.group gn).pools
  if !p.declared then s
  else if p.freeTags.contains tag || s.tagHeld gn k tag then
    s.raiseRec gn (s.group gn).origin ea (some ctx) (some slot) 0x05 true true 0 (BitVec.ofNat 64 (256 * k + tag.toNat))
  else
    let s := s.modPool gn k (fun p => { p with freeTags := p.freeTags ++ [tag] })
    s.at_ s.now (.tagGrant gn k)

end Sys2Proof.Machine
end

