-- ==== Sys2Proof/Machine/Barrier.lean ====
section
/-! DEFINITION. Barriers (chapter 14, R328 to R339): bar.arv, bar.drop, bar.init, bar.q, and what a hub does with their
messages. -/

namespace Sys2Proof.Machine

/-- The code of a barrier state (Table 14-1). -/
def bstCode : BSt → Nat
  | .free => 0
  | .armed => 1
  | .faulted => 2
  | .retired => 3

/-- The barrier word (Table 14-1). -/
def Bar.word (b : Bar) : Word :=
  BitVec.ofNat 64 (bstCode b.st + (if b.held then 4 else 0) +
    (if b.st == .armed then b.expect % 2 ^ 16 * 2 ^ 8 else 0) + b.count % 2 ^ 16 * 2 ^ 24 + b.drops % 2 ^ 16 * 2 ^ 40 +
    b.phase.toNat % 256 * 2 ^ 56)

/-- A barrier's history is extended by its word now (R336), as far back as a bar.q reaches. -/
def Bar.note (b : Bar) (now : Nat) : Bar :=
  { b with past := (now, b.word) :: recent now (·.1) (b.past.filter (fun x => x.1 != now)) }

def Hub.bar (h : Hub) (n : Nat) : Bar := tget .zero n h.bars

def State.modBar (s : State) (tile n : Nat) (f : Bar → Bar) : State :=
  s.modHub tile (fun h => { h with bars := tput .zero n ((f (h.bar n)).note s.now) h.bars })

/-- The barrier word as it stood at the end of cycle `c` (R336). -/
def Bar.wordAt (b : Bar) (c : Int) : Word :=
  match b.past.find? (fun x => (x.1 : Int) ≤ c) with
  | some (_, w) => w
  | none => 0

/-- Fields of a barrier literal (Table 14-4). -/
def barNo (lit : Word) : Nat := lit.toNat % 32
def barGtx (lit : Word) : Nat := lit.toNat / 2 ^ 5 % 32
def barGty (lit : Word) : Nat := lit.toNat / 2 ^ 10 % 8
def barPh (lit : Word) : Bool := lit.getLsbD 13

/-- The literal breaks R332: a reserved field, PH where it must be 0, or a tile outside the group. -/
def barBad (g : Group) (lit : Word) (phOk : Bool) : Bool :=
  lit >>> 14 != 0 || (barPh lit && !phOk) || barGtx lit ≥ g.w || barGty lit ≥ g.h

/-- The tile of a barrier. -/
def barTile (g : Group) (lit : Word) : Nat := tileAt (g.x + barGtx lit) (g.y + barGty lit)

/-- The message of a firing to its barrier's hub. -/
def barMsg (s : State) (cu : Cursor) (lit : Word) (kind : BarKind) (count : Word) : BarMsg :=
  let gn := s.groupNo cu.ea
  ⟨gn, barTile (s.group gn) lit, barNo lit, kind, barPh lit, count, lit.setWidth 13, cu.ea, cu.ctx, cu.slot⟩

/-- The message leaves now: it reaches the hub 2 + 2m + 24c later (R332). -/
def State.sendBar (s : State) (m : BarMsg) : State := s.after (hubDelay m.ea m.tile) (.barrierMessageArrival m)

/-- The firing of bar.arv and bar.drop: the message leaves once the accesses fired before are acknowledged (R332). -/
def State.fireArrive (s : State) (f : SlotF) (kind : BarKind) : State :=
  match s.cur with
  | none => s
  | some cu =>
    if barBad (s.group (s.groupNo cu.ea)) f.lit true then s.raiseSync cu 0x01 0 f.lit
    else
      let m := barMsg s cu f.lit kind 0
      let waits := (s.ctx cu.ea cu.ctx).acks
      let s := s.fireBase cu f
      if waits.isEmpty then s.sendBar m
      else s.modElem cu.ea (fun e => { e with barWaits := e.barWaits ++ [(waits, m)] })

/-- R331, R332. -/
def execBarArv (f : SlotF) (s : State) : Out1 := .next (s.fireArrive f .arv)
/-- R331, R332. -/
def execBarDrop (f : SlotF) (s : State) : Out1 := .next (s.fireArrive f .drop)

/-- R331, R332. -/
def execBarInit (f : SlotF) (s : State) : Out1 := .next <|
  match s.cur with
  | none => s
  | some cu =>
    let a := readSource s cu f f.sa
    if a.poison then s.raisePoison cu a
    else if barBad (s.group (s.groupNo cu.ea)) f.lit false then s.raiseSync cu 0x01 0 f.lit
    else if a.val >>> 16 != 0 || a.val == 0 then s.raiseSync cu 0x01 1 a.val
    else ((s.fireBase cu f).raiseFlags cu 2 a.fl).sendBar (barMsg s cu f.lit .init a.val)

/-- R336: the word as it stood at the hub 2 + 2m + 24c earlier. -/
def execBarQ (f : SlotF) (s : State) : Out1 := .next <|
  match s.cur with
  | none => s
  | some cu =>
    let g := s.group (s.groupNo cu.ea)
    if barBad g f.lit false then s.raiseSync cu 0x01 0 f.lit
    else
      let tile := barTile g f.lit
      let w := ((s.hub tile).bar (barNo f.lit)).wordAt ((s.now : Int) - hubDelay cu.ea tile)
      s.fireWith f (fun cu _ tag s => s.deliver cu f f.da 1 w .data tag 0)

/-! ## At the hub -/

/-- The number of an input channel, as the source of a token names its target. -/
def chanNo (ea ch : Nat) : Nat := 32 * ea + ch

/-- The words that take credits of a channel from a barrier (R158, R334): those in it, those on their way to it, and those popped whose
credit is not back at the hub. -/
def State.tokensOut (s : State) (tile n ea ch : Nat) : Nat :=
  let here (a : Arrival) : Bool := a.ea == ea && a.ch == ch
  (s.chan ea ch).q.length +
    s.agenda.countP (fun x => match x.instr with
      | .channelWordArrival a => here a
      | .creditReturn src => src == .barrier tile n (chanNo ea ch)
      | _ => false) +
    (s.links.map (fun l => l.2.q.countP (fun t => t.arrs.any here))).sum

/-- Every waiter target has a credit (R334). -/
def State.barRoom (s : State) (g : Group) (tile n : Nat) (b : Bar) : Bool :=
  b.waiters.all (fun w =>
    let ea := g.targetEa w
    s.tokensOut tile n ea (tgtCh w).toNat < (s.elem ea).depth (tgtCh w).toNat)

/-- Token `i` and those after it set out (R334). -/
def State.sendTokens (s : State) (g : Group) (tile n : Nat) (k : BitVec 32) (i : Nat) : List Word → State
  | [] => s
  | w :: ws =>
    let ea := g.targetEa w
    let ch := (tgtCh w).toNat
    (s.launchWord (s.now + 1 + i) tile ea ch ⟨k.setWidth 64, k.setWidth 8, .data⟩ (.barrier tile n (chanNo ea ch)) (s.elem ea).wave).sendTokens g tile n k (i + 1) ws

/-- The open phase is completed (R334). -/
def Bar.completed (b : Bar) : Bar :=
  let ex := b.expect - b.drops
  { b with
    phase := b.phase + 1, expect := ex, count := 0, drops := 0, held := false
    st := if ex == 0 then .retired else b.st }

/-- complete_phase (R334): the tokens set out, or the phase is HELD and tried again in the next cycle. -/
def State.completePhase (s : State) (gn tile n : Nat) : State :=
  let g := s.group gn
  let b := (s.hub tile).bar n
  if s.barRoom g tile n b then
    (((s.modBar tile n Bar.completed).progress gn tile).sendTokens g tile n b.phase 0 b.waiters)
  else (s.modBar tile n (fun b => { b with held := true })).after 1 (.completePhase tile n)

/-- A HELD phase is tried again while its barrier is ARMED (R334, Table 14-2). -/
def execCompletePhase (tile n : Nat) (s : State) : Out1 := .next <|
  if ((s.hub tile).bar n).held && ((s.hub tile).bar n).st == .armed then s.completePhase (s.groupNo tile) tile n else s

/-- A fault of a barrier names the firing that sent the message (R333). -/
def State.raiseBar (s : State) (m : BarMsg) (code detail count : Nat) : State :=
  s.raiseRec m.grp m.tile m.ea (some m.ctx) (some m.slot) code true true detail
    (BitVec.ofNat 64 (m.name.toNat + count % 2 ^ 16 * 2 ^ 32))

/-- overrun(d) of R333: the barrier becomes FAULTED. -/
def State.overrun (s : State) (m : BarMsg) (d : Nat) : State :=
  let c := ((s.hub m.tile).bar m.bar).count
  (s.modBar m.tile m.bar (fun b => { b with st := .faulted })).raiseBar m 0x40 d c

/-- An arrival at its hub (R333). -/
def State.barArrive (s : State) (m : BarMsg) : State :=
  let b := (s.hub m.tile).bar m.bar
  match b.st with
  | .free => s.raiseBar m 0x41 0 b.count
  | .faulted => s
  | .retired => s.overrun m 3
  | .armed =>
    if b.held then s.overrun m 1
    else if m.ph != b.phase.getLsbD 0 then s.overrun m 0
    else
      let s := s.modBar m.tile m.bar (fun b =>
        { b with count := b.count + 1, drops := if m.kind == .drop then b.drops + 1 else b.drops })
      if b.count + 1 == b.expect then s.completePhase m.grp m.tile m.bar else s

/-- A bar.init at its hub (R335). -/
def State.barInit (s : State) (m : BarMsg) : State :=
  match ((s.hub m.tile).bar m.bar).st with
  | .free | .retired =>
    s.modBar m.tile m.bar (fun b =>
      { b with st := .armed, expect := m.count.toNat % 2 ^ 16, count := 0, drops := 0, phase := 0, held := false })
  | .armed => s.overrun m 2
  | .faulted => s

/-- R333, R335. -/
def execBarrierMessageArrival (m : BarMsg) (s : State) : Out1 := .next <|
  match m.kind with
  | .init => s.barInit m
  | _ => s.barArrive m

end Sys2Proof.Machine
end

