-- ==== Sys2Proof/Machine/Buffer.lean ====
section
/-! DEFINITION. Scratchpad elements: banks, local loads, stores and atomics, buffer handles, the tag table (R171 to R189)
and the spill instructions (R190 to R192). -/

namespace Sys2Proof.Machine

/-! ## Banks (R173) -/

/-- The head of each port's queue. -/
def Bank.heads (b : Bank) (ports : Nat) : List BReq :=
  (List.range ports).filterMap (fun p => b.q.find? (fun r => r.port == p))

/-- The first of the longest waiting among promoted heads (R173). -/
def oldestHead : List BReq → Option BReq
  | [] => none
  | r :: rs =>
    match oldestHead rs with
    | none => some r
    | some x => if x.headAt < r.headAt then some x else some r

/-- Port `p`'s next request is at the head from now on. -/
def markHead (p now : Nat) : List BReq → List BReq
  | [] => []
  | r :: rs => if r.port == p then { r with headAt := now } :: rs else r :: markHead p now rs

/-- The credit of the request that has just become fourth in its port's queue is due (R226). -/
def takeFourth (p k : Nat) : List BReq → Option (Nat × Nat × Nat) × List BReq
  | [] => (none, [])
  | r :: rs =>
    if r.port == p then
      if k == 0 then (r.credit, { r with credit := none } :: rs)
      else let x := takeFourth p (k - 1) rs; (x.1, r :: x.2)
    else let x := takeFourth p k rs; (x.1, r :: x.2)

/-- R173: a bank serves one request. -/
def execBankService (n : Nat) (s : State) : Out1 := .next <|
  let b := s.bank n
  let ports := bankPorts n
  if s.now < b.free then s
  else
    let heads := b.heads ports
    let pick := match oldestHead (heads.filter (fun r => s.now - r.headAt ≥ 32)) with
      | some r => some r
      | none =>
        match roundRobin ports b.rr (fun p => heads.any (fun r => r.port == p)) with
        | some p => heads.find? (fun r => r.port == p)
        | none => none
    match pick with
    | none => s
    | some r =>
      let q := markHead r.port s.now (b.q.erase r)
      let x := takeFourth r.port 3 q
      let s := (s.setBank n ⟨x.2, (r.port + 1) % ports, s.now + 1⟩).creditBack x.1
      let s := s.at_ s.now r.instr
      if x.2.isEmpty then s else s.after 1 (.bankService n)
where
  /-- The first of the numbers `p, p + 1, …` modulo `n` that `ok` admits. -/
  roundRobin (n p : Nat) (ok : Nat → Bool) : Option Nat := ((List.range n).map (fun i => (p + i) % n)).find? ok

/-! ## Local loads, stores and atomics (R184) -/

/-- Fields of a local access literal (Table 7-5). -/
def locOff (lit : Word) : Nat := lit.toNat % 2 ^ 19
def locSz (lit : Word) : Nat := lit.toNat / 2 ^ 19 % 4
def locSx (lit : Word) : Bool := lit.getLsbD 21
def locAop (lit : Word) : Nat := lit.toNat / 2 ^ 24 % 16

/-- The fault of a local access, in the order of R183 and R184: code, aux. -/
def locFault (e : Elem) (acc : Acc) (lit : Word) (sa : Word) : Option (Nat × Word) :=
  let a := sa.toNat + locOff lit
  let n := 2 ^ locSz lit
  let bad := match acc with
    | .ld => locAop lit != 0
    | .amo => locSx lit || locSz lit < 2 || locAop lit > 8
    | _ => locSx lit || locAop lit != 0
  if bad then some (0x01, lit)
  else if a % n != 0 then some (0x13, BitVec.ofNat 64 a)
  else if a + n > e.progBytes then some (0x12, BitVec.ofNat 64 a)
  else none

/-- The places and marks of a result that comes later, and the delivery that will fill them (R86). -/
def State.promise (s : State) (cu : Cursor) (f : SlotF) (tag : Byte) : State × Delivery :=
  let (s, places) := s.reserveAll cu.ea (destOuts f f.da)
  let s := s.markPending cu (destReg f.da) (destPreds f.da)
  (s, { Delivery.none s cu with reg := destReg f.da, predMask := destPreds f.da, places := places, word := ⟨0, tag, .data⟩ })

/-- A promised result with its value (Table 2-5). -/
def Delivery.withValue (d : Delivery) (v : Word) (k : WKind) : Delivery :=
  { d with
    value := v
    predVal := if d.predMask == 0xFF then v.setWidth 8 else if v.getLsbD 0 then d.predMask else 0
    word := { d.word with data := v, kind := k } }

/-- The request of a firing through the local port of its SE (R171). -/
def localReq (s : State) (cu : Cursor) (acc : Acc) (a sz : Nat) : MReq :=
  { MReq.zero with
    id := s.serial, grp := s.groupNo cu.ea, dom := (s.group (s.groupNo cu.ea)).dom, ea := cu.ea, ctx := cu.ctx,
    slot := cu.slot, acc := acc, out := localOut, epoch := (s.elem cu.ea).epoch, endp := 0x80, dst := cu.ea,
    addr := BitVec.ofNat 64 a, pa := seAddr cu.ea a, sz := sz, issued := s.now }

/-- sld, sst and samo: the access is served in its bank from t + 4 on (R184, R201). -/
def State.fireLocal (s : State) (f : SlotF) (acc : Acc) : State :=
  match s.cur with
  | none => s
  | some cu =>
    match s.operandFault cu f with
    | some s' => s'
    | none =>
      let x := aluIn s cu f
      let fl := sourceFlags s cu f
      match locFault (s.elem cu.ea) acc f.lit x.a with
      | some (code, aux) => s.raiseSync cu code 0 aux
      | none =>
        let tag := sentTag s cu f
        let r := { localReq s cu acc (x.a.toNat + locOff f.lit) (locSz f.lit) with
          sx := locSx f.lit, aop := locAop f.lit, v1 := x.b }
        let s := (s.bump.fireBase cu f).raiseFlags cu 2 fl
        if acc == .st then
          (s.modElem cu.ea (fun e => { e with ssts := e.ssts ++ [r.id] })).after 4 (.requestPerform r)
        else
          let (s, d) := s.promise cu f tag
          s.after 4 (.requestPerform { r with dlv := some d })

/-- R184. -/
def execSld (f : SlotF) (s : State) : Out1 := .next (s.fireLocal f .ld)
/-- R184. -/
def execSst (f : SlotF) (s : State) : Out1 := .next (s.fireLocal f .st)
/-- R184. -/
def execSamo (f : SlotF) (s : State) : Out1 := .next (s.fireLocal f .amo)

/-! ## Handles (R178 to R187) -/

/-- Fields of a handle record (Table 7-2). -/
def hrDeclared (h : Word × Word) : Bool := h.1.extractLsb' 0 8 == 1
def hrRing (h : Word × Word) : Nat := (h.1.extractLsb' 48 8).toNat
def hrLoc (h : Word × Word) : Nat := (h.1.extractLsb' 56 4).toNat
def hrInit (h : Word × Word) : Bool := h.1.getLsbD 60
def hrBase (h : Word × Word) : Nat := (h.2.extractLsb' 0 32).toNat
def hrSizeM1 (h : Word × Word) : Nat := (h.2.extractLsb' 32 16).toNat

def Elem.hnd (e : Elem) (h : Nat) : Hnd := tget .zero h e.handles
def Elem.setHnd (e : Elem) (h : Nat) (x : Hnd) : Elem := { e with handles := tput .zero h x e.handles }
def Elem.ring (e : Elem) (r : Nat) : Ring := tget .zero r e.rings
def Elem.setRing (e : Elem) (r : Nat) (x : Ring) : Elem := { e with rings := tput .zero r x e.rings }

def hstCode : HSt → Nat
  | .free => 0
  | .filling => 1
  | .full => 2
  | .draining => 3

/-- The handle word (Table 7-1); 0 when the handle is not declared (R187). -/
def Elem.handleWord (e : Elem) (h : Nat) : Word :=
  let r := e.work.handle h
  let x := e.hnd h
  if !hrDeclared r then 0
  else BitVec.ofNat 64 (h + hstCode x.st * 2 ^ 6 + hrRing r * 2 ^ 8 + hrLoc r * 2 ^ 12 + hrBase r % 2 ^ 20 * 2 ^ 16 +
    hrSizeM1 r % 2 ^ 13 * 2 ^ 36 + x.own * 2 ^ 50)

/-- The handles of a ring, in ascending order (R179). -/
def Elem.ringHandles (e : Elem) (r : Nat) : List Nat :=
  (e.work.handles.filter (fun p => hrDeclared p.2 && hrRing p.2 == r)).map (·.1)

/-- The handle at the fill or drain pointer of a ring. -/
def Elem.ringAt (e : Elem) (r : Nat) (drain : Bool) : Option Nat :=
  let hs := e.ringHandles r
  let n := if drain then (e.ring r).drain else (e.ring r).fill
  hs[n % hs.length]?

/-- A pointer of a ring advances (R179). -/
def Elem.advanceRing (e : Elem) (r : Nat) (drain : Bool) : Elem :=
  let x := e.ring r
  let n := (e.ringHandles r).length
  e.setRing r (if drain then { x with drain := (x.drain + 1) % n } else { x with fill := (x.fill + 1) % n })

/-- Fields of an hacq literal (Table 7-4). -/
def acqRing (lit : Word) : Nat := lit.toNat % 16
def acqDrain (lit : Word) : Bool := lit.getLsbD 4

/-- The hacq faults whatever the handle states: no declared handle, or a fill of an engine-bound ring (R185). -/
def acqFaults (e : Elem) (lit : Word) : Bool :=
  (e.ringHandles (acqRing lit)).isEmpty || (!acqDrain lit && (e.ring (acqRing lit)).bound.isSome)

/-- The op-specific condition of hacq (R185). -/
def acqReady (e : Elem) (lit : Word) : Bool :=
  acqFaults e lit ||
  match e.ringAt (acqRing lit) (acqDrain lit) with
  | some h => (e.hnd h).st == (if acqDrain lit then .full else .free) && (e.hnd h).commit.isNone
  | none => true

/-- R185. -/
def execHacq (f : SlotF) (s : State) : Out1 := .next <|
  match s.cur with
  | none => s
  | some cu =>
    let e := s.elem cu.ea
    let r := acqRing f.lit
    let dr := acqDrain f.lit
    if acqFaults e f.lit then s.raiseSync cu 0x22 0 (BitVec.ofNat 64 r)
    else match e.ringAt r dr with
    | none => s
    | some h =>
      s.fireWith f (fun cu _ tag s =>
        let s := s.modElem cu.ea (fun e =>
          (e.setHnd h ⟨if dr then .draining else .filling, 1, none, s.now⟩).advanceRing r dr)
        s.deliver cu f f.da 1 ((s.elem cu.ea).handleWord h) .data tag 0)

/-- The handle is in one of the states and held by a context (R181, R186). -/
def handleHeld (e : Elem) (h : Nat) (sts : List HSt) (commitOk : Bool) : Bool :=
  hrDeclared (e.work.handle h) && (e.hnd h).own == 1 && sts.contains (e.hnd h).st && (commitOk || (e.hnd h).commit.isNone)

/-- The handle becomes FULL (Table 7-3). -/
def State.handleFull (s : State) (ea h : Nat) : State :=
  s.modElem ea (fun e => e.setHnd h ⟨.full, 0, none, s.now⟩)

/-- A commit that awaits no sst any more makes its handle FULL in the cycle after the last one, for guards one later (R85, R186). -/
def execHandleFullAfterCommit (ea h : Nat) (s : State) : Out1 := .next <|
  if ((s.elem ea).hnd h).commit == some [] then s.handleFull ea h else s

/-- R186. -/
def execHcommit (f : SlotF) (s : State) : Out1 := .next <|
  match s.cur with
  | none => s
  | some cu =>
    let a := readSource s cu f f.sa
    let e := s.elem cu.ea
    let h := a.val.toNat % 64
    if a.poison then s.raisePoison cu a
    else if !handleHeld e h [.filling] false then s.raiseSync cu 0x22 0 (e.handleWord h)
    else s.fireWith f (fun cu _ _ s =>
      if e.ssts.isEmpty && e.sstLast < s.now then s.handleFull cu.ea h
      else if e.ssts.isEmpty then
        (s.modElem cu.ea (fun x => x.setHnd h ⟨.filling, 1, some [], 0⟩)).after 2 (.handleFullAfterCommit cu.ea h)
      else s.modElem cu.ea (fun x => x.setHnd h ⟨.filling, 1, some e.ssts, 0⟩))

/-- An sst has been performed: the commits that await it (R186). -/
def State.sstDone (s : State) (ea id : Nat) : State :=
  let e := s.elem ea
  let due := (e.handles.filter (fun p => p.2.commit == some [id])).map (·.1)
  let s := s.modElem ea (fun e =>
    { e with
      ssts := ndel id e.ssts
      sstLast := s.now
      handles := e.handles.map (fun p => (p.1, { p.2 with commit := p.2.commit.map (ndel id) })) })
  due.foldl (fun s h => s.after 2 (.handleFullAfterCommit ea h)) s

/-- The handle becomes FREE; on an engine-bound ring a landing permit sets out to the flow's engine (R181, R182). -/
def State.handleFree (s : State) (ea h : Nat) : State :=
  let s := s.modElem ea (fun e => e.setHnd h .zero)
  let e := s.elem ea
  let x := e.ring (hrRing (e.work.handle h))
  match x.bound with
  | some (tile, flow) => if x.permits then s.after (hops ea tile) (.permitArrival tile flow) else s
  | none => s

/-- R186. -/
def execHrel (f : SlotF) (s : State) : Out1 := .next <|
  match s.cur with
  | none => s
  | some cu =>
    let a := readSource s cu f f.sa
    let e := s.elem cu.ea
    let h := a.val.toNat % 64
    if a.poison then s.raisePoison cu a
    else if !handleHeld e h [.draining] true then s.raiseSync cu 0x22 0 (e.handleWord h)
    else s.fireWith f (fun cu _ _ s => s.handleFree cu.ea h)

/-- The local address of byte `o` of a handle's buffer (R176, R178). -/
def State.handleAddr (s : State) (ea h o : Nat) : Option Nat :=
  let r := (s.elem ea).work.handle h
  if hrLoc r == 0 then some (seAddr ea (hrBase r * 64 + o)) else s.partAddr (tileOf ea) (hrLoc r - 1) (hrBase r * 64 + o)

/-- R187: served in SE memory from t + 4, in the tile store from t + 10; a buffer that its partition no longer covers is a fault
(R176). -/
def execHread (f : SlotF) (s : State) : Out1 := .next <|
  match s.cur with
  | none => s
  | some cu =>
    match s.operandFault cu f with
    | some s' => s'
    | none =>
      let e := s.elem cu.ea
      let x := aluIn s cu f
      let fl := sourceFlags s cu f
      let h := x.a.toNat % 64
      let hr := e.work.handle h
      if !handleHeld e h [.filling, .draining] true then s.raiseSync cu 0x22 0 (e.handleWord h)
      else if x.b.toNat % 8 != 0 then s.raiseSync cu 0x13 0 x.b
      else if x.b.toNat + 8 > (hrSizeM1 hr + 1) * 64 then s.raiseSync cu 0x12 0 x.b
      else match s.handleAddr cu.ea h x.b.toNat with
      | none => s.raiseSync cu 0x12 0 (BitVec.ofNat 64 (hrBase hr * 64 + x.b.toNat))
      | some pa =>
        let tag := sentTag s cu f
        let r := { localReq s cu .ld 0 3 with addr := x.b, pa := pa, endp := if hrLoc hr == 0 then 0x80 else 0x81 }
        let s := (s.bump.fireBase cu f).raiseFlags cu 2 fl
        let (s, d) := s.promise cu f tag
        s.after (if hrLoc hr == 0 then 4 else 10) (.requestPerform { r with dlv := some d })

/-- R187: the word as it stood before the firing. -/
def execHstat (f : SlotF) (s : State) : Out1 :=
  .next (s.fireWith f (fun cu x tag s' => s'.deliver cu f f.da 1 ((s.elem cu.ea).handleWord (x.a.toNat % 64)) .data tag 0))

/-! ## The tag table (R188, R189) -/

/-- The set of a key (R188). -/
def keySet (k : Nat) : Nat :=
  let b (i : Nat) : Nat := k / 2 ^ (8 * i) % 256
  Nat.xor (Nat.xor (Nat.xor (b 0) (b 1)) (Nat.xor (b 2) (b 3))) (b 4)

/-- The key of a table instruction (R189). -/
def keyOf (a : Word) : Nat := a.toNat % 2 ^ 40

/-- The entry of a way. -/
def Elem.way (e : Elem) (i : Nat) : Option (Nat × Nat) := tget none i e.ttab

/-- The way that holds a key. -/
def Elem.keyWay (e : Elem) (k : Nat) : Option Nat :=
  ((List.range 4).map (fun w => 4 * keySet k + w)).find? (fun i => (e.way i).any (fun x => x.1 == k))

/-- The lowest free way of a key's set. -/
def Elem.freeWay (e : Elem) (k : Nat) : Option Nat :=
  ((List.range 4).map (fun w => 4 * keySet k + w)).find? (fun i => (e.way i).isNone)

/-- What tlook and tevict answer (R189). -/
def Elem.lookup (e : Elem) (k : Nat) : Word :=
  match e.keyWay k with
  | some i => BitVec.ofNat 64 (2 ^ 63 + ((e.way i).map (·.2)).getD 0)
  | none => 0

/-- R189. -/
def execTlook (f : SlotF) (s : State) : Out1 :=
  .next (s.fireWith f (fun cu x tag s' => s'.deliver cu f f.da 2 ((s.elem cu.ea).lookup (keyOf x.a)) .data tag 0))

/-- The op-specific condition of tins (R189). -/
def tinsReady (e : Elem) (key : Word) : Bool := (e.keyWay (keyOf key)).isSome || (e.freeWay (keyOf key)).isSome

/-- R189. -/
def execTins (f : SlotF) (s : State) : Out1 :=
  .next (s.fireWith f (fun cu x _ s =>
    s.modElem cu.ea (fun e =>
      let k := keyOf x.a
      match (e.keyWay k).orElse (fun _ => e.freeWay k) with
      | some i => { e with ttab := tput none i (some (k, x.b.toNat % 2 ^ 63)) e.ttab }
      | none => e)))

/-- R189. -/
def execTevict (f : SlotF) (s : State) : Out1 :=
  .next (s.fireWith f (fun cu x tag s' =>
    let k := keyOf x.a
    let s' := s'.modElem cu.ea (fun e =>
      match e.keyWay k with
      | some i => { e with ttab := tput none i none e.ttab }
      | none => e)
    s'.deliver cu f f.da 2 ((s.elem cu.ea).lookup k) .data tag 0))

end Sys2Proof.Machine
end

