-- ==== Sys2Proof/Machine/Channel.lean ====
section
/-! DEFINITION. The instructions of chapter 06, chst, join and setsc, and the events of words: arrival at an input
channel, return of a credit, arbitration of a router link (R147 to R170). -/

namespace Sys2Proof.Machine

/-! ## Instructions -/

/-- The code of a channel state (Table 6-7). -/
def chStCode : ChSt → Nat
  | .unbound => 0
  | .opened => 1
  | .ended => 2
  | .drained => 3
  | .stray => 4

/-- State of an input channel as chst reads it (Table 6-7). -/
def chstIn (e : Elem) (n : Nat) : Word :=
  let c := e.chan n
  let w := e.work.chanWord n
  let head := match c.q with
    | [] => 0
    | q :: _ => kindCode q.word.kind * 2 ^ 9 + 2 ^ 11 + q.word.tag.toNat * 2 ^ 12
  BitVec.ofNat 64 (chStCode c.st + c.q.length * 2 ^ 3 + chanDepth w * 2 ^ 6 + head + chanFmt w * 2 ^ 20 +
    chanScale w * 2 ^ 25 + (if chanCfgin w then 2 ^ 29 else 0))

/-- State of an output channel as chst reads it (Table 6-8). -/
def chstOut (s : State) (ea n : Nat) : Word :=
  let e := s.elem ea
  let r := e.work.route n
  if r.n == 0 then 0
  else if r.isReq then BitVec.ofNat 64 (1 + e.reqRoom n * 2 ^ 3 + 1 * 2 ^ 6)
  else BitVec.ofNat 64 (1 + s.room ea n * 2 ^ 3 + r.n * 2 ^ 6)

/-- R167: the state before the firing. -/
def execChst (f : SlotF) (s : State) : Out1 :=
  .next (s.fireWith f (fun cu _ tag s' =>
    let n := f.lit.toNat % 32
    let v := if f.lit.getLsbD 5 then chstOut s cu.ea n else chstIn (s.elem cu.ea) n
    s'.deliver cu f f.da 1 v .data tag 0))

/-- R169: places are reserved now; the word enters when the accesses fired before it are acknowledged. -/
def execJoin (f : SlotF) (s : State) : Out1 :=
  .next (s.fireWith f (fun cu _ tag s =>
    let (s, places) := s.reserveAll cu.ea (destOuts f f.da)
    let waits := (s.ctx cu.ea cu.ctx).acks
    let id := s.serial
    let s := s.bump.modElem cu.ea (fun e => { e with joins := e.joins ++ [⟨id, cu.ctx, waits, places, tag⟩] })
    if waits.isEmpty then s.after 1 (.joinWordEntry cu.ea cu.ctx id) else s))

/-- R169: the word of a join enters its outputs. -/
def execJoinWordEntry (ea ctx id : Nat) (s : State) : Out1 := .next <|
  match (s.elem ea).joins.find? (fun j => j.id == id && j.ctx == ctx) with
  | none => s
  | some j =>
    let s := s.modElem ea (fun e => { e with joins := e.joins.filter (fun k => k.id != id) })
    s.fillPlaces ea ⟨0, j.tag, .data⟩ j.places

/-- R170. -/
def execSetsc (f : SlotF) (s : State) : Out1 :=
  .next (s.fireWith f (fun cu x _ s =>
    s.modElem cu.ea (fun e => { e with scales := tput 0x7F (f.lit.toNat % 16) (x.a.setWidth 8) e.scales })))

/-! ## Events of words -/

/-- R158: a credit is back at the output it was taken from; a credit of an earlier configuration is nothing any more. That of a barrier
is back with its event, which the hub counts no longer (`State.tokensOut`). -/
def State.creditHome (s : State) (src : Src) : State :=
  match src with
  | .none => s
  | .output ea o i epoch =>
    if (s.elem ea).epoch == epoch then
      s.modOut ea o (fun x => { x with used := tput 0 i (tget 0 i x.used - 1) x.used })
    else s
  | .barrier _ _ _ => s

/-- R158. -/
def execCreditReturn (src : Src) (s : State) : Out1 := .next (s.creditHome src)

/-- The first of the numbers `p, p + 1, …` modulo `n` that `ok` admits (round robin). -/
def roundRobin (n p : Nat) (ok : Nat → Bool) : Option Nat :=
  ((List.range n).map (fun i => (p + i) % n)).find? ok

/-- A stray word (R164): the channel enters STRAY and keeps it, or, when it is STRAY already, the word is discarded and
logged (R161). -/
def State.strayWord (s : State) (ea ch : Nat) (w : QWord) : State :=
  if (s.chan ea ch).st == .stray then s.logTile ea 3 3 false (BitVec.ofNat 64 ch)
  else
    (s.modChan ea ch (fun c => { c with st := .stray, q := c.q ++ [w] })).raiseGroup (s.groupNo ea) ea ea 0x30 ch w.word.data

/-- State of a bound channel after the arrival of a word (Table 6-5). -/
def chanAfterArrival (st : ChSt) (k : WKind) : ChSt :=
  match k with
  | .eos => .ended
  | .cfg => st
  | _ => .opened

/-- A word is queued in a bound channel. -/
def State.queueWord (s : State) (ea ch : Nat) (w : QWord) : State :=
  s.modChan ea ch (fun c => { c with q := c.q ++ [w], st := chanAfterArrival c.st w.word.kind })

/-- A word reaches its channel (R148, R161, R162, R292): a parity mismatch makes it POISON and is logged; a word of the
successor's side of a splice is held in the shadow store; one of the predecessor's side after the swap is stray. -/
def execChannelWordArrival (a : Arrival) (s : State) : Out1 := .next <|
  let (inj, s) := s.takeInj 3 a.ea
  let bad := a.dpar != dparOf a.word.data || a.tpar != tparOf a.word || inj.isSome
  let w : QWord := ⟨if bad then { a.word with kind := .poison } else a.word, a.src, s.now⟩
  let s := if bad then s.logTile a.ea 3 2 inj.isSome (BitVec.ofNat 64 a.ch) else s
  let e := s.elem a.ea
  let st := (e.chan a.ch).st
  if e.wave < a.epoch then s.modChan a.ea a.ch (fun c => { c with shadow := c.shadow ++ [w] })
  else if a.epoch < e.wave || st == .unbound || st == .stray then s.strayWord a.ea a.ch w
  else if w.word.kind == .cfg && !chanCfgin (e.work.chanWord a.ch) then s.strayWord a.ea a.ch w
  else s.queueWord a.ea a.ch w

/-- R156: one waiting word passes: round robin over the input ports, then over the virtual channels of the port. -/
def execRouterArbitration (l : Nat) (s : State) : Out1 := .next <|
  let x := s.rlink l
  if s.now < x.free then s
  else
    let here := x.q.filter (fun t => t.ready ≤ s.now)
    match roundRobin 5 x.rrPort (fun p => here.any (fun t => t.port == p)) with
    | none => s
    | some p =>
      match roundRobin 4 (tget 0 p x.rrVc) (fun v => here.any (fun t => t.port == p && t.vc == v)) with
      | none => s
      | some v =>
        match here.find? (fun t => t.port == p && t.vc == v) with
        | none => s
        | some t =>
          let x' : RLink := { x with
            q := x.q.erase t, rrPort := (p + 1) % 5, rrVc := tput 0 p ((v + 1) % 4) x.rrVc, free := s.now + 1 }
          let s := s.setRlink l x'
          let d := l % 4
          let nxt := stepSite t.at_ d
          let there := s.now + linkCost t.at_ nxt
          let s := match t.parcel with
            | none => s.forward there nxt (entryPort d) t.vc t.arrs
            | some p => s.passParcel there nxt (entryPort d) t.vc p
          if x'.q.isEmpty then s else s.after 1 (.routerArbitration l)

end Sys2Proof.Machine
end

