-- ==== Sys2Proof/Machine/Crypto.lean ====
section
/-! DEFINITION. SHA-512 (FIPS 180-4) and Ed25519 (RFC 8032), which the scope file requires by name (log 9). -/

namespace Sys2Proof.Machine

/-! ## SHA-512 -/

/-- The floor of the `k`-th root of `x`, a number of `n` bits. -/
def floorRoot (k x : Nat) : Nat → Nat
  | 0 => 0
  | n + 1 =>
    let r := 2 * floorRoot k (x / 2 ^ k) n
    if (r + 1) ^ k ≤ x then r + 1 else r

/-- The primes below 410: the first 80. -/
def shaPrimes : List Nat := (List.range' 2 408).filter (fun p => (List.range' 2 19).all (fun d => p == d || p % d != 0))

/-- 64 bits of the fraction of the `k`-th root of a prime. -/
def rootFraction (k p : Nat) : Word := BitVec.ofNat 64 (floorRoot k (p * 2 ^ (64 * k)) 70)

/-- The 80 round constants: the cube roots of the primes. -/
def shaK : List Word := shaPrimes.map (rootFraction 3)

/-- The initial hash value: the square roots of the first 8. -/
def shaInit : List Word := (shaPrimes.take 8).map (rootFraction 2)

def rotr (x : Word) (n : Nat) : Word := (x >>> n) ||| (x <<< (64 - n))

/-- 8 bytes as a big-endian word. -/
def beWord (b : List Byte) : Word := b.foldl (fun a x => (a <<< 8) ||| x.setWidth 64) 0

/-- A number as `n` bytes, the most significant first. -/
def beBytes (n : Nat) (v : Nat) : List Byte := ((List.range n).map (fun i => BitVec.ofNat 8 (v / 256 ^ i))).reverse

/-- The small sigma functions: two rotations and a shift. -/
def shaSmall (r1 r2 sh : Nat) (x : Word) : Word := rotr x r1 ^^^ rotr x r2 ^^^ x >>> sh

/-- The big sigma functions: three rotations. -/
def shaBig (r1 r2 r3 : Nat) (x : Word) : Word := [r1, r2, r3].foldl (fun acc r => acc ^^^ rotr x r) 0

/-- The message schedule continued: `w` holds the words so far, the newest first. -/
def shaNext (w : List Word) : Word :=
  [shaSmall 19 61 6 (w.getD 1 0), w.getD 6 0, shaSmall 1 8 7 (w.getD 14 0), w.getD 15 0].sum

/-- Words 16 to 79 of the schedule; `w` is what there is, the newest first. -/
def shaSchedule (w : List Word) : Nat → List Word
  | 0 => w.reverse
  | n + 1 => shaSchedule (shaNext w :: w) n

/-- Each bit from `x` where `m` has a 1, from `y` elsewhere. -/
def shaChoose (m x y : Word) : Word := y ^^^ (m &&& (x ^^^ y))

/-- Each bit as most of the three have it. -/
def shaMost (x y z : Word) : Word := shaChoose (x ^^^ y) z x

/-- One round: the eight working variables move one place on, and two of them take in new bits (`kw` is constant and word). -/
def shaRound (v : List Word) (kw : Word) : List Word :=
  let p (i : Nat) : Word := v.getD i 0
  let mix := p 7 + kw + shaBig 14 18 41 (p 4) + shaChoose (p 4) (p 5) (p 6)
  let top := mix + shaBig 28 34 39 (p 0) + shaMost (p 0) (p 1) (p 2)
  top :: (v.take 3 ++ (p 3 + mix) :: (v.drop 4).take 3)

/-- One block of 128 bytes. -/
def shaBlock (h : List Word) (block : List Byte) : List Word :=
  let w := (List.range 16).map (fun i => beWord ((block.drop (8 * i)).take 8))
  let v := (shaK.zip (shaSchedule w.reverse 64)).foldl (fun v x => shaRound v (x.1 + x.2)) h
  (h.zip v).map (fun x => x.1 + x.2)

/-- `n` blocks of a padded message. -/
def shaBlocks (h : List Word) (m : List Byte) : Nat → List Word
  | 0 => h
  | n + 1 => shaBlocks (shaBlock h (m.take 128)) (m.drop 128) n

/-- SHA-512 of a message, as 64 bytes. -/
def sha512 (m : List Byte) : List Byte :=
  let pad := (239 - m.length % 128) % 128
  let msg := m ++ [0x80] ++ List.replicate pad 0 ++ beBytes 16 (8 * m.length)
  (shaBlocks shaInit msg (msg.length / 128)).flatMap (fun w => beBytes 8 w.toNat)

/-! ## Ed25519 -/

/-- The field's prime, the group's order, and the constant d. -/
def edP : Nat := 2 ^ 255 - 19
def edL : Nat := 2 ^ 252 + 27742317777372353535851937790883648493

/-- `x ^ e` in the field, over the `n` low bits of `e`. -/
def edPow (x e : Nat) : Nat → Nat
  | 0 => 1
  | n + 1 =>
    let h := edPow x (e / 2) n
    let h2 := h * h % edP
    if e % 2 == 1 then h2 * x % edP else h2

def edInv (x : Nat) : Nat := edPow x (edP - 2) 255
def edSub (a b : Nat) : Nat := (a + edP - b) % edP
def edD : Nat := edSub 0 (121665 * edInv 121666 % edP)

/-- A point in extended coordinates. -/
structure EdPoint where
  x : Nat
  y : Nat
  z : Nat
  t : Nat
  deriving DecidableEq, Repr

def EdPoint.zero : EdPoint := ⟨0, 1, 1, 0⟩

/-- The sum of two points. -/
def EdPoint.add (p q : EdPoint) : EdPoint :=
  let a := edSub p.y p.x * edSub q.y q.x % edP
  let b := (p.y + p.x) * (q.y + q.x) % edP
  let c := 2 * p.t * q.t % edP * edD % edP
  let d := 2 * p.z * q.z % edP
  let e := edSub b a
  let f := edSub d c
  let g := (d + c) % edP
  let h := (b + a) % edP
  ⟨e * f % edP, g * h % edP, f * g % edP, e * h % edP⟩

/-- A multiple of a point, over the `n` low bits of the factor. -/
def EdPoint.mul (p : EdPoint) (k : Nat) : Nat → EdPoint
  | 0 => .zero
  | n + 1 =>
    let h := p.mul (k / 2) n
    let h2 := h.add h
    if k % 2 == 1 then h2.add p else h2

/-- Two points are equal. -/
def EdPoint.same (p q : EdPoint) : Bool :=
  p.x * q.z % edP == q.x * p.z % edP && p.y * q.z % edP == q.y * p.z % edP

/-- The x of a point from its y and the sign of x; none where there is none. -/
def edRecover (y : Nat) (sign : Nat) : Option Nat :=
  if y ≥ edP then none
  else
    let x2 := edSub (y * y % edP) 1 * edInv ((edD * (y * y % edP) + 1) % edP) % edP
    if x2 == 0 then (if sign == 1 then none else some 0)
    else
      let x := edPow x2 ((edP + 3) / 8) 255
      let x := if x * x % edP == x2 then x else x * edPow 2 ((edP - 1) / 4) 255 % edP
      if x * x % edP != x2 then none
      else some (if x % 2 == sign then x else edP - x)

/-- The point that 32 bytes encode. -/
def edDecode (b : List Byte) : Option EdPoint :=
  let n := leNat b
  if b.length != 32 then none
  else (edRecover (n % 2 ^ 255) (n / 2 ^ 255)).map (fun x => ⟨x, n % 2 ^ 255, 1, x * (n % 2 ^ 255) % edP⟩)

/-- The 32 bytes of a point. -/
def EdPoint.encode (p : EdPoint) : List Byte :=
  let zi := edInv p.z
  let x := p.x * zi % edP
  let y := p.y * zi % edP
  leBytes 32 (y + x % 2 * 2 ^ 255)

/-- The base point. -/
def edBase : EdPoint :=
  let y := 4 * edInv 5 % edP
  let x := (edRecover y 0).getD 0
  ⟨x, y, 1, x * y % edP⟩

/-- Ed25519 verifies a signature of 64 bytes over a message. -/
def edVerify (pub msg sig : List Byte) : Bool :=
  match edDecode pub, edDecode (sig.take 32) with
  | some a, some r =>
    let s := leNat (sig.drop 32)
    let k := leNat (sha512 (sig.take 32 ++ pub ++ msg)) % edL
    sig.length == 64 && s < edL && (edBase.mul s 256).same (r.add (a.mul k 256))
  | _, _ => false

/-- The scalar of a secret seed, and the second half of its digest. -/
def edSecret (seed : List Byte) : Nat × List Byte :=
  let h := sha512 seed
  let a := leNat (h.take 32)
  (a % 2 ^ 254 / 8 * 8 + 2 ^ 254, h.drop 32)

/-- The public key of a seed. -/
def edPublic (seed : List Byte) : List Byte := (edBase.mul (edSecret seed).1 256).encode

/-- Ed25519 signs a message. -/
def edSign (seed msg : List Byte) : List Byte :=
  let (a, pre) := edSecret seed
  let pub := edPublic seed
  let r := leNat (sha512 (pre ++ msg)) % edL
  let rp := (edBase.mul r 256).encode
  let k := leNat (sha512 (rp ++ pub ++ msg)) % edL
  rp ++ leBytes 32 ((r + k * a) % edL)

end Sys2Proof.Machine
end

