-- ==== Sys2Proof/Machine/Gen.lean ====
section
/-! DEFINITION. What a generator's position and literal say (R236 to R244), for the parts of the machine that its elements pass
through. -/

namespace Sys2Proof.Machine

/-! ## The literal (Table 9-6) -/

def gnG (lit : Word) : Nat := lit.toNat % 2
def gnSt (lit : Word) : Bool := lit.getLsbD 1
def gnLoc (lit : Word) : Bool := lit.getLsbD 2
def gnRout (lit : Word) : Nat := lit.toNat / 2 ^ 3 % 32
def gnDst (lit : Word) : Nat := lit.toNat / 2 ^ 8 % 64
def gnSch (lit : Word) : Nat := lit.toNat / 2 ^ 14 % 32
def gnReos (lit : Word) : Bool := lit.getLsbD 19
def gnPch (lit : Word) : Nat := lit.toNat / 2 ^ 32 % 32
def gnPsel (lit : Word) : Nat := lit.toNat / 2 ^ 37 % 8

/-! ## Generators of an element -/

def Elem.gen (e : Elem) (g : Nat) : Gen := tget .zero g e.gens
def State.modGen (s : State) (ea g : Nat) (f : Gen → Gen) : State :=
  s.modElem ea (fun e => { e with gens := tput .zero g (f (e.gen g)) e.gens })

/-- Elements of a round. -/
def Gen.count (x : Gen) : Nat := x.dims.foldl (fun n d => n * d.count) 1

/-- Elements are taken; the last of a round begins the next or ends the stream. A round that is known not to be the last is
followed by its EOS at once (R243, R244). -/
def Gen.advance (x : Gen) (n : Nat) : Gen :=
  let x := { x with k := x.k + n, x0 := none, val := none }
  if x.k < x.count then x
  else if !x.genp then { x with ending := true }
  else if x.rounds != 0 && x.round ≥ x.rounds then { x with ending := true }
  else { x with k := 0, param := true, link := none, eosDue := x.rounds != 0 && gnReos x.lit }

/-- A word of a load stream with the stream's tag (R243). -/
def Gen.word (g : Gen) (v : Word) (k : WKind) : CWord := ⟨v, (g.lit.extractLsb' 20 8), k⟩

/-- The loaded value of an element that gives the next address in linked mode: the stream ends after a 0; no address is formed
after the last element of a round (R241). -/
def Gen.linked (g : Gen) (v : Word) : Gen :=
  if g.mode != 2 then g
  else
    let a := v.toInt + g.loff.toInt
    if v == 0 then { g with wait := false, ending := true }
    else if g.ending || g.param then { g with wait := false }
    else if outsideS64 a then
      { g with wait := false, fault := g.fault.orElse (fun _ => some (0x10, BitVec.ofNat 64 g.k, 1)) }
    else { g with wait := false, link := some (BitVec.ofInt 64 a) }

/-- A generator that an sbar of its context awaits: not ended, or its stores not all acknowledged (R235). -/
def Gen.awaited (x : Gen) : Bool := x.st == .running || x.st == .paused || !x.fly.isEmpty

/-- The elements before the one that faults are performed or delivered: those before the one refused at its home, or all that are
issued (R239). -/
def Gen.ripe (x : Gen) : Bool :=
  match x.cut with
  | some k => x.fly.all (fun y => k < y.id)
  | none => x.fly.isEmpty

/-- A generator that no sbar need await any more leaves what the contexts of its SE await (R235). -/
def State.genSettled (s : State) (ea g : Nat) : State :=
  if ((s.elem ea).gen g).awaited then s
  else s.modElem ea (fun e => { e with ctxs := tmap .zero (fun _ c => { c with sbarGens := ndel g c.sbarGens }) e.ctxs })

/-- A reserved place whose word will never come is given back with its credits, and the words behind it may enter (R91, R158). -/
def State.unreserve (s : State) (ea o id : Nat) : State :=
  let e := s.elem ea
  let x := e.out o
  let n := (e.work.route o).n
  let used := (List.range n).foldl (fun u i => tput 0 i (tget 0 i u - 1) u) x.used
  (s.setElem ea (e.setOut o { x with used := used })).enterReady ea o (x.places.filter (fun p => p.id != id))

/-- An element issued is taken back, with its place and its request's place in its route: it is issued anew, or never
(Table 9-4). -/
def State.genUnissue (s : State) (ea g id : Nat) : State :=
  let x := (s.elem ea).gen g
  let s := match (x.fly.find? (fun y => y.id == id)).bind (·.place) with
    | some p => s.unreserve ea p.1 p.2
    | none => s
  let s := s.modGen ea g (fun x => { x with fly := x.fly.filter (fun y => y.id != id) })
  if gnLoc x.lit then s.modOut ea (gnRout x.lit) (fun o => { o with reqs := o.reqs.filter (fun q => q.id != id) }) else s

end Sys2Proof.Machine
end

