-- ==== Sys2Proof/Machine/Operator.lean ====
section
/-! DEFINITION. The stream unit of an SE: isect, merge, topk, prune and redc (R193 to R200). A firing starts an operator;
the operator then works once a cycle (`operatorInput`), writes its record (`operatorEnd`), and ends with an EOS. -/

namespace Sys2Proof.Machine

/-- Fields of a stream literal (Tables 7-7 and 7-8). -/
def suIn0 (lit : Word) : Nat := lit.toNat % 64
def suIn1 (lit : Word) : Nat := lit.toNat / 64 % 64
def suOut (lit : Word) : Nat := lit.toNat / 2 ^ 12 % 32
def suTag (lit : Word) : Byte := lit.extractLsb' 56 8
def suBit24 (lit : Word) : Bool := lit.getLsbD 24
def topkK (lit : Word) : Nat := lit.toNat / 2 ^ 24 % 256 + 1
def topkXn (lit : Word) : Bool := lit.getLsbD 32
def pruneM (lit : Word) : Nat := lit.toNat / 2 ^ 24 % 32
def pruneN (lit : Word) : Nat := lit.toNat / 2 ^ 29 % 16
def pruneMeta (lit : Word) : Bool := lit.getLsbD 33
def redcType (lit : Word) : Nat := lit.toNat / 2 ^ 25 % 4
def redcWw (lit : Word) : Nat := lit.toNat / 2 ^ 27 % 8
def redcBase (lit : Word) : Nat := lit.toNat / 2 ^ 30 % 256
def redcN (lit : Word) : Nat := lit.toNat / 2 ^ 38 % 512

/-- The operator has two inputs. -/
def twoInputs (op : Nat) : Bool := op == 0xAD || op == 0xAE

/-- A reserved or out-of-range field of a stream literal (R193, Table 7-8). -/
def suBad (op : Nat) (lit : Word) : Bool :=
  suIn0 lit > 33 || (if twoInputs op then suIn1 lit > 33 else suIn1 lit != 0) ||
  match op with
  | 0xB0 => pruneM lit < 2 || pruneM lit > 16 || pruneN lit == 0 || pruneN lit ≥ pruneM lit
  | 0xB1 =>
    suIn0 lit > 31 || redcType lit == 3 || redcN lit == 0 || redcN lit > 256 ||
    (redcType lit != 0 && (redcN lit > 128 || suBit24 lit))
  | _ => false

/-- A channel of the element is bound. -/
def Elem.bound (e : Elem) (ch : Nat) : Bool := e.work.chanWord ch != 0

/-- The channel or output that is missing, if any (R193). An output on a request route counts as one without (DESIGN CHOICE, log 86). -/
def suUnbound (e : Elem) (op : Nat) (lit : Word) : Option Nat :=
  let inMiss (i : Nat) : Bool := i < 32 && !e.bound i
  if inMiss (suIn0 lit) then some (suIn0 lit)
  else if twoInputs op && inMiss (suIn1 lit) then some (suIn1 lit)
  else if (e.work.route (suOut lit)).n == 0 || (e.work.route (suOut lit)).isReq then some (suOut lit)
  else none

/-- A new operator. -/
def Su.start (op : Nat) (lit : Word) (sa ctx slot now : Nat) : Su :=
  ⟨op, lit, sa, ctx, slot, .run, [], [], false, !twoInputs op, none, none, none, false, [], 0, 0, [], 0, 0, 0, now, now, 0⟩

/-- The firing of a stream operator (R193). -/
def State.fireStream (s : State) (f : SlotF) (op : Nat) : State :=
  match s.cur with
  | none => s
  | some cu =>
    let a := readSource s cu f f.sa
    let e := s.elem cu.ea
    if a.poison then s.raisePoison cu a
    else if suBad op f.lit then s.raiseSync cu 0x01 0 f.lit
    else match suUnbound e op f.lit with
    | some n => s.raiseSync cu 0x06 0 (BitVec.ofNat 64 n)
    | none =>
      if a.val.toNat % 8 != 0 then s.raiseSync cu 0x13 0 a.val
      else if a.val.toNat + 8 > e.progBytes then s.raiseSync cu 0x12 0 a.val
      else
        let u := Su.start op f.lit a.val.toNat cu.ctx cu.slot s.now
        (((s.fireBase cu f).raiseFlags cu 2 a.fl).modElem cu.ea (fun e => { e with su := some u })).after 1
          (.operatorInput cu.ea)

/-- R196. -/
def execIsect (f : SlotF) (s : State) : Out1 := .next (s.fireStream f 0xAD)
/-- R197. -/
def execMerge (f : SlotF) (s : State) : Out1 := .next (s.fireStream f 0xAE)
/-- R198. -/
def execTopk (f : SlotF) (s : State) : Out1 := .next (s.fireStream f 0xAF)
/-- R199. -/
def execPrune (f : SlotF) (s : State) : Out1 := .next (s.fireStream f 0xB0)
/-- R200. -/
def execRedc (f : SlotF) (s : State) : Out1 := .next (s.fireStream f 0xB1)

/-! ## Inputs and output -/

/-- The head of an input: a channel, or the buffer of a generator (R193). -/
def suHead (e : Elem) (i : Nat) : Option CWord :=
  if i < 32 then (e.chan i).head.map (·.word) else (tget [] (i - 32) e.gbuf).head?

/-- The head of an input is popped. -/
def State.suPop (s : State) (ea i : Nat) : State :=
  if i < 32 then s.pop ea i
  else s.modElem ea (fun e => { e with gbuf := tput [] (i - 32) ((tget [] (i - 32) e.gbuf).drop 1) e.gbuf })

def State.setSu (s : State) (ea : Nat) (u : Option Su) : State := s.modElem ea (fun e => { e with su := u })

/-- A word of the operator enters OUT, when OUT has room (R193, R194). -/
def State.suSend (s : State) (ea o : Nat) (w : CWord) : Option State :=
  if s.room ea o == 0 then none
  else
    let (s, p) := s.reserve ea o
    some (s.fillPlace ea p.1 p.2 w)

/-- The key of an element (R196). -/
def suKey (w : CWord) : Nat := w.data.toNat % 2 ^ 32

/-- A word cannot go on: the key breaks the order of its input. -/
def breaks (strict : Bool) (prev : Option Nat) (k : Nat) : Bool :=
  match prev with
  | none => false
  | some p => if strict then k ≤ p else k < p

/-- The operator has taken what it takes and sends what is left. -/
def Su.finish (u : Su) (out : List Word) : Su := { u with phase := .flush, outq := u.outq ++ out }

/-! ## isect and merge -/

/-- What a two-input operator finds at an input: nothing yet, its end, or an element. -/
inductive InView
  | empty
  | ended
  | elem (w : CWord)
  deriving DecidableEq, Repr

def inView (e : Elem) (i : Nat) (ended : Bool) : InView :=
  if ended then .ended
  else match suHead e i with
    | none => .empty
    | some w => .elem w

/-- A key breaks the order of its input: nothing more is matched, and both inputs are popped to their EOS (R196). -/
def Su.breakOrder (u : Su) : Su :=
  { u with unsorted := true, status := 1, count := if u.op == 0xAD && suBit24 u.lit then 0 else u.count }

/-- An element that merge takes from IN0 (`first`) or IN1: sent, unless UNIQ is set and its key was sent before (R197). -/
def Su.mergeOut (u : Su) (w : CWord) (first : Bool) : Su :=
  let k := suKey w
  let u := if first then { u with prev0 := some k } else { u with prev1 := some k }
  if suBit24 u.lit && u.lastKey == some k then u
  else { u with lastKey := some k, outq := u.outq ++ [w.data], count := u.count + 1 }

/-- One match of isect (R196). -/
def Su.matched (u : Su) (w : CWord) : Su :=
  let u := { u with prev0 := some (suKey w), prev1 := some (suKey w), count := u.count + 1 }
  if suBit24 u.lit then u else { u with outq := u.outq ++ [w.data] }

/-- Both inputs of a two-input operator have ended: isect with CNT sends its count (R196). -/
def Su.bothEnded (u : Su) : Su :=
  u.finish (if u.op == 0xAD && suBit24 u.lit && !u.unsorted then [BitVec.ofNat 64 u.count] else [])

/-- What is done with the heads of both inputs: `none` when the operator must wait for one. EOS words are popped as they are
met, elements that no longer matter are popped and discarded. -/
def State.suCompare (s : State) (ea : Nat) (u : Su) : Option (State × Su) :=
  let i0 := suIn0 u.lit
  let i1 := suIn1 u.lit
  let strict := u.op == 0xAD
  match inView (s.elem ea) i0 u.end0, inView (s.elem ea) i1 u.end1 with
  | .ended, .ended => some (s, u.bothEnded)
  | .empty, .empty => none
  | .empty, .ended => none
  | .ended, .empty => none
  | .elem a, v1 =>
    if a.kind == .eos then some (s.suPop ea i0, { u with end0 := true })
    else if u.unsorted then some (s.suPop ea i0, u)
    else if breaks strict u.prev0 (suKey a) then some (s, u.breakOrder)
    else match v1 with
    | .empty => none
    | .ended =>
      some (s.suPop ea i0, if strict then { u with prev0 := some (suKey a) } else u.mergeOut a true)
    | .elem b =>
      if b.kind == .eos then some (s.suPop ea i1, { u with end1 := true })
      else if breaks strict u.prev1 (suKey b) then some (s, u.breakOrder)
      else if strict then
        if suKey a == suKey b then some ((s.suPop ea i0).suPop ea i1, u.matched a)
        else if suKey a < suKey b then some (s.suPop ea i0, { u with prev0 := some (suKey a) })
        else some (s.suPop ea i1, { u with prev1 := some (suKey b) })
      else if suKey a ≤ suKey b then some (s.suPop ea i0, u.mergeOut a true)
      else some (s.suPop ea i1, u.mergeOut b false)
  | v0, .elem b =>
    if b.kind == .eos then some (s.suPop ea i1, { u with end1 := true })
    else if u.unsorted then some (s.suPop ea i1, u)
    else if breaks strict u.prev1 (suKey b) then some (s, u.breakOrder)
    else if v0 == .empty then none
    else some (s.suPop ea i1, if strict then { u with prev1 := some (suKey b) } else u.mergeOut b false)

/-- The comparisons of one cycle of isect: until a block of 64 elements of one input is used up (R196). -/
def State.suBlock (s : State) (ea : Nat) (u : Su) (stop : Elem → Bool) : Nat → State × Su
  | 0 => (s, u)
  | n + 1 =>
    if u.phase != .run || stop (s.elem ea) then (s, u)
    else match s.suCompare ea u with
      | none => (s, u)
      | some (s, u) => s.suBlock ea u stop n

/-! ## topk and prune -/

/-- The rank of an FP32 value in topk: NaN above all, −0 below +0 (R198). -/
def topkRank (x : Nat) : Nat :=
  if x % 2 ^ 31 > 0x7F800000 then 2 ^ 33
  else if x < 2 ^ 31 then 2 ^ 31 + x
  else 2 ^ 32 - 1 - x

/-- `x` ranks strictly above `y` (R198): by value, then by the lower index. -/
def topkAbove (x y : Word) : Bool :=
  let v (w : Word) : Nat := topkRank (lane 32 w 0)
  v x > v y || (v x == v y && lane 32 x 1 < lane 32 y 1)

/-- An element put in its place, behind every element that it does not rank above (R198). -/
def topkInsert (x : CWord) : List CWord → List CWord
  | [] => [x]
  | y :: ys => if topkAbove x.data y.data then x :: y :: ys else y :: topkInsert x ys

/-- The bits are an FP32 NaN. -/
def nanBits32 (x : Nat) : Bool := x % 2 ^ 31 > 0x7F800000

/-- topk takes an element (R198). -/
def Su.topkTake (u : Su) (w : CWord) : Su :=
  if nanBits32 (lane 32 w.data 0) then
    if topkXn u.lit then u
    else { u with kept := (topkInsert w u.kept).take (topkK u.lit), flags := u.flags ||| flNV }
  else { u with kept := (topkInsert w u.kept).take (topkK u.lit) }

/-- The magnitude of an element in prune: NaN above all (R199). -/
def pruneMag (w : CWord) : Nat :=
  let x := lane 32 w.data 0
  if nanBits32 x then 2 ^ 32 else x % 2 ^ 31

/-- Position `j` of a group is kept: fewer than N positions rank above it (R199). -/
def pruneKeeps (g : List CWord) (n j : Nat) : Bool :=
  let m (i : Nat) : Nat := ((g[i]?).map pruneMag).getD 0
  (List.range g.length).countP (fun i => m i > m j || (m i == m j && i < j)) < n

/-- A group is sent (R199). -/
def Su.pruneEmit (u : Su) : Su :=
  let g := u.kept
  let ks := (List.range g.length).map (fun j => pruneKeeps g (pruneN u.lit) j)
  let ws := (g.zip ks).map (fun p => if p.2 then p.1.data else 0)
  let mask := (List.range ks.length).foldl (fun acc j => acc + (if ks[j]? == some true then 2 ^ j else 0)) 0
  let extra := if pruneMeta u.lit then [BitVec.ofNat 64 mask] else []
  if g.isEmpty then u else { u with kept := [], outq := u.outq ++ ws ++ extra, count := u.count + g.length }

/-- prune takes an element (R199). -/
def Su.pruneTake (u : Su) (w : CWord) : Su :=
  let fl := if nanBits32 (lane 32 w.data 0) then flNV else 0
  let u := { u with kept := u.kept ++ [w], flags := u.flags ||| fl }
  if u.kept.length == pruneM u.lit then u.pruneEmit else u

/-- topk and prune take the head of IN0, or end at its EOS. DESIGN CHOICE (log 62): prune takes no input while more than M + 1 formed
words wait for OUT; R199 gives no depth. -/
def State.suRankStep (s : State) (ea : Nat) (u : Su) : Option (State × Su) :=
  let i0 := suIn0 u.lit
  match suHead (s.elem ea) i0 with
  | none => none
  | some w =>
    if u.op == 0xAF then
      if w.kind == .eos then
        some (s.suPop ea i0, { u.finish (u.kept.map (·.data)) with count := u.kept.length })
      else some (s.suPop ea i0, u.topkTake w)
    else if w.kind == .eos then some (s.suPop ea i0, u.pruneEmit.finish [])
    else if u.outq.length > pruneM u.lit + 1 then none
    else some (s.suPop ea i0, u.pruneTake w)

/-! ## redc (R200) -/

/-- The place of a tag among the operands. -/
def redcIdx (lit : Word) (tag : Byte) : Nat := (tag.toNat + 256 - redcBase lit) % 256

/-- Operands are summed one by one in tag order. -/
def redcSeq (lit : Word) : Bool := redcType lit == 0 && !suBit24 lit

/-- The sum of all operands in one step: WS of each lane, or ws_int (R200). -/
def redcAll (lit : Word) (ws : List CWord) : Res :=
  let one (i : Nat) : Nat × FlagSet :=
    if redcType lit == 0 then windowSum (ws.map (fun w => fp32.value (lane 32 w.data i))) (windowWidth (redcWw lit)) fp32
    else
      let r := wsInt (ws.map (fun w => sInt 32 (lane 32 w.data i))) 0 (redcType lit == 1)
      (ofInt 32 r.1, r.2)
  packLanes 32 [one 0, one 1]

/-- One addition of the sequential mode, when its operand is held and the adder is free. -/
def Su.redcAdd (u : Su) (now : Nat) : Su :=
  if !redcSeq u.lit || now < u.seq then u
  else match u.kept.find? (fun w => redcIdx u.lit w.tag == u.next) with
    | none => u
    | some w =>
      let r := if u.next == 0 then (w.data, 0) else aluFadd fp32 u.acc w.data
      { u with
        kept := u.kept.erase w, acc := r.1, flags := u.flags ||| r.2, next := u.next + 1
        seq := if u.next == 0 then u.seq else now + 4 }

/-- All operands are summed: the result follows, at least 6 fc after the last pop. -/
def Su.redcDone (u : Su) : Su :=
  if redcSeq u.lit then
    if u.next == redcN u.lit then { u.finish [u.acc] with busy := max (u.lastPop + 6) u.seq } else u
  else if u.count == redcN u.lit then
    let r := redcAll u.lit u.kept
    { u.finish [r.1] with flags := u.flags ||| r.2, busy := u.lastPop + 6 }
  else u

/-- What redc does with the head of its channel. -/
def State.redcTake (s : State) (ea : Nat) (u : Su) : State × Su :=
  if u.count == redcN u.lit then (s, u)
  else match suHead (s.elem ea) (suIn0 u.lit) with
    | none => (s, u)
    | some w =>
      let i := redcIdx u.lit w.tag
      if w.kind == .eos then (s.suPop ea (suIn0 u.lit), { u.finish [] with status := 3 })
      else if i ≥ redcN u.lit || i < u.next || u.kept.any (fun x => x.tag == w.tag) then
        (s, { u.finish [] with status := 2 })
      else if redcSeq u.lit && i - u.next ≥ 16 then (s, u)
      else (s.suPop ea (suIn0 u.lit), { u with kept := u.kept ++ [w], count := u.count + 1, lastPop := s.now })

/-! ## The cycle of an operator -/

/-- The input of the running operator whose head is POISON, with its DATA (R195). -/
def suPoison (e : Elem) (u : Su) : Option (Nat × Word) :=
  let at_ (i : Nat) (ended : Bool) : Option (Nat × Word) :=
    if ended then none
    else match suHead e i with
      | some w => if w.kind == .poison then some (i, w.data) else none
      | none => none
  if u.phase != .run || (u.op == 0xB1 && u.count == redcN u.lit) then none
  else (at_ (suIn0 u.lit) u.end0).orElse (fun _ => at_ (suIn1 u.lit) u.end1)

/-- The operator waits on empty inputs with nothing left to send (R194). -/
def suWaits (e : Elem) (u : Su) : Bool :=
  u.phase == .run && u.outq.isEmpty &&
  (if u.op == 0xB1 then
    !(redcSeq u.lit && u.kept.any (fun w => redcIdx u.lit w.tag == u.next)) && (suHead e (suIn0 u.lit)).isNone
  else (!u.end0 && (suHead e (suIn0 u.lit)).isNone) || (!u.end1 && (suHead e (suIn1 u.lit)).isNone))

/-- A word waiting to be sent goes out when OUT has room. -/
def State.suFlushOne (s : State) (ea : Nat) (u : Su) : State × Su :=
  match u.outq with
  | [] => (s, u)
  | w :: ws =>
    if s.now < u.busy && u.op == 0xB1 then (s, u)
    else match s.suSend ea (suOut u.lit) ⟨w, suTag u.lit, .data⟩ with
      | none => (s, u)
      | some s => (s, { u with outq := ws })

/-- merge takes one element in a cycle (Table 7-11), past the EOS words and the break of order that it meets before it. -/
def State.mergeCycle (s : State) (ea : Nat) (u : Su) (stop : Elem → Bool) : Nat → State × Su
  | 0 => (s, u)
  | n + 1 =>
    if u.phase != .run || !u.outq.isEmpty || stop (s.elem ea) then (s, u)
    else match s.suCompare ea u with
      | none => (s, u)
      | some (s, v) =>
        if v.end0 == u.end0 && v.end1 == u.end1 && v.unsorted == u.unsorted then (s, v) else s.mergeCycle ea v stop n

/-- What the operator does with its inputs in a cycle (R196 to R200). DESIGN CHOICE (log 62): isect and merge take no input while
formed words wait for OUT; R196 does not say whether they go on comparing. -/
def State.suWork (s : State) (ea : Nat) (u : Su) : State × Su :=
  if u.op == 0xB1 then
    let (s, u) := s.redcTake ea u
    if u.phase == .run then (s, (u.redcAdd s.now).redcDone) else (s, u)
  else if twoInputs u.op then
    if !u.outq.isEmpty || s.now < u.busy then (s, u)
    else
      let stop (e : Elem) : Bool := (suPoison e u).isSome
      if u.op == 0xAD then
        let (s, u) := s.suBlock ea u stop 64
        (s, { u with busy := s.now + 2 })
      else s.mergeCycle ea u stop 4
  else match s.suRankStep ea u with
    | none => (s, u)
    | some r => r

/-- The operator's part in a cycle in which it may work. -/
def State.suCycle (s : State) (ea : Nat) (u : Su) : State :=
  let (s, u) := s.suFlushOne ea u
  match u.phase with
  | .run =>
    match (if u.outq.isEmpty then suPoison (s.elem ea) u else none) with
    | some (i, w) => (s.setSu ea none).raiseGroup (s.groupNo ea) ea ea 0x15 i w
    | none =>
      if (suPoison (s.elem ea) u).isSome then (s.setSu ea (some u)).after 1 (.operatorInput ea)
      else
        let (s, u) := s.suWork ea u
        (s.setSu ea (some u)).after 1 (.operatorInput ea)
  | .flush =>
    if u.outq.isEmpty then
      (s.setSu ea (some { u with phase := .record })).bankEnter (seAddr ea u.sa) 3 (.operatorEnd ea) none
    else (s.setSu ea (some u)).after 1 (.operatorInput ea)
  | .record => s
  | .eos =>
    match s.suSend ea (suOut u.lit) ⟨0, suTag u.lit, .eos⟩ with
    | none => s.after 1 (.operatorInput ea)
    | some s =>
      ((s.modCtx ea u.ctx (fun c => { c with flags := c.flags ||| u.flags })).setSu ea
        (some { u with phase := .finished })).after 1 (.operatorInput ea)
  | .finished => s.setSu ea none

/-- A running operator works once in each cycle from t + 1 (R193); in a fenced tile it stands still (R403). -/
def execOperatorInput (ea : Nat) (s : State) : Out1 := .next <|
  match (s.elem ea).su with
  | none => s
  | some u =>
    if (s.group (s.groupNo ea)).stopsAt ea then s.after 1 (.operatorInput ea) else s.suCycle ea u

/-- The completion record (Table 7-9). -/
def Su.record (u : Su) : Word := BitVec.ofNat 64 (u.count % 2 ^ 32 + u.status * 2 ^ 32 + 2 ^ 63)

/-- The record of an operator is written; its EOS follows in the next cycle (R194). -/
def execOperatorEnd (ea : Nat) (s : State) : Out1 := .next <|
  match (s.elem ea).su with
  | none => s
  | some u =>
    if u.phase != .record then s
    else
      (((s.progressAt ea).storeUnit (seAddr ea u.sa) u.record).setSu ea (some { u with phase := .eos })).after 1 (.operatorInput ea)

end Sys2Proof.Machine
end

