-- ==== Sys2Proof/Machine/Port.lean ====
section
/-! DEFINITION. The sending side of a link (R391, R392): flits and their bytes, the replay buffer, and words that wait for room in it. -/

namespace Sys2Proof.Machine

/-- Links by number: Xanhoka ports 0 to 31, and the Sniqua port. -/
abbrev sniqua : Nat := 32

def State.core (s : State) (k : Nat) : Core := tget .zero k s.cores
def State.modCore (s : State) (k : Nat) (f : Core → Core) : State :=
  { s with cores := tput .zero k (f (s.core k)) s.cores }

def State.xlink (s : State) (l : Nat) : Link := tget .zero l s.xlinks
def State.modXlink (s : State) (l : Nat) (f : Link → Link) : State :=
  { s with xlinks := tput .zero l (f (s.xlink l)) s.xlinks }

/-- The full lane count of a link (R393). -/
def linkLanes (l : Nat) : Nat := if l == sniqua then 4 else 8

/-- The link carries DATA flits (Table 17-2). -/
def Link.carries (x : Link) : Bool := x.st == .up || x.st == .degraded

/-- Virtual channels of Table 17-1. -/
abbrev vcRequest : Nat := 0
abbrev vcReply : Nat := 1
abbrev vcCopy : Nat := 2
abbrev vcMessage : Nat := 3

/-! ## The bytes of a flit (R391) -/

/-- One bit step of the CRC-32 of IEEE 802.3, least significant bit first. -/
def crcBit (c : Nat) : Nat := if c % 2 == 1 then Nat.xor (c / 2) 0xEDB88320 else c / 2

/-- CRC-32 over bytes (R391): polynomial 0x04C1_1DB7, initial value and final inversion of ones. -/
def crc32 (b : List Byte) : Nat :=
  Nat.xor (b.foldl (fun c x => (List.range 8).foldl (fun c _ => crcBit c) (Nat.xor c x.toNat)) 0xFFFFFFFF) 0xFFFFFFFF

/-- The 60 bytes that a flit carries: those of a message, zeros where it carries nothing (log 20); the bytes of a Xanhoka link's words
are free. -/
def TxLoad.payload : TxLoad → List Byte
  | .none => List.replicate 60 0
  | .bytes b => (b ++ List.replicate 60 0).take 60
  | .request id => (List.range 60).map (Config.linkByte 0 id 0)
  | .answer id m _ _ _ => (List.range 60).map (Config.linkByte 1 id m)
  | .granule id m _ _ => (List.range 60).map (Config.linkByte 2 id m)
  | .completed id m => (List.range 60).map (Config.linkByte 3 id m)
  | .token id m => (List.range 60).map (Config.linkByte 4 id m)

/-- The header of a flit (Table 17-1). -/
def TxFlit.header (f : TxFlit) : Nat := f.seq % 4096 + f.ack % 4096 * 2 ^ 12 + f.type % 16 * 2 ^ 24 + f.vc % 16 * 2 ^ 28

/-- The 68 bytes of a flit: header, payload, CRC-32 over both (R391). -/
def TxFlit.bytes (f : TxFlit) : List Byte :=
  let b := leBytes 4 f.header ++ f.load.payload
  b ++ leBytes 4 (crc32 b)

/-- A flit leaves. -/
def Link.put (x : Link) (f : TxFlit) : Link := { x with wire := x.wire ++ [(f, f.bytes)] }

/-! ## Sending -/

/-- Words that wait leave as DATA flits while the replay buffer has room (R392). -/
def Link.flush (x : Link) : Nat → Link
  | 0 => x
  | n + 1 =>
    match x.pending with
    | [] => x
    | (vc, load) :: rest =>
      if x.carries && x.replay.length < Config.replayFlits then
        let seq := (x.txSeq + 1) % 4096
        let f : TxFlit := ⟨1, vc, seq, x.rxSeq, load⟩
        ({ x with txSeq := seq, replay := x.replay ++ [f], pending := rest }.put f).flush n
      else x

/-- RTO of a port, in fc (Table 17-3). -/
def State.rtoTime (s : State) (l : Nat) : Nat := (s.xlink l).rto * 2 ^ 16

/-- A word that waits at a link is still to be sent: a request that has ended is not. -/
def State.stillSent (s : State) (load : TxLoad) : Bool :=
  match load with
  | .request id => s.remotes.any (fun q => q.r.id == id && q.st == .atPort)
  | _ => true

/-- A request has left its port: its timeout counts from now (R398), and the credit that it kept returns (R226, R393). -/
def State.leftPort (s : State) (l : Nat) (load : TxLoad) : State :=
  match load with
  | .request id =>
    match s.remotes.find? (fun q => q.r.id == id && q.st == .atPort) with
    | none => s
    | some q =>
      let sent : Remote := { q with st := .sent, since := s.now, cred := false }
      let s := { s with remotes := s.remotes.map (fun x => if x == q then sent else x) }
      let s := if q.cred then s.at_ s.now (.requestCreditReturn q.r.ea q.r.out q.r.epoch) else s
      let s := if q.r.ord then s.after 1 .remoteTimeout else s
      s.after (s.rtoTime l) .remoteTimeout
  | _ => s

/-- What waits at a link leaves as far as it can. -/
def State.flushLink (s : State) (l : Nat) : State :=
  let ps := (s.xlink l).pending.filter (fun p => s.stillSent p.2)
  let s := s.modXlink l (fun x => { x with pending := ps }.flush ps.length)
  (ps.take (ps.length - (s.xlink l).pending.length)).foldl (fun s p => s.leftPort l p.2) s

/-- A word for the peer of a link (R392). -/
def State.linkSend (s : State) (l vc : Nat) (load : TxLoad) : State :=
  (s.modXlink l (fun x => { x with pending := x.pending ++ [(vc, load)] })).flushLink l

/-- A flit that takes no sequence number leaves: IDLE 0, NAK 2, FENCE 4. -/
def State.sendControl (s : State) (l type : Nat) : State :=
  s.modXlink l (fun x => x.put ⟨type, 0, 0, x.rxSeq, .none⟩)

/-! ## The port of a word to another module (R397) -/

/-- The set S of ports for a module (R397). -/
def State.portSet (s : State) (m : Nat) : BitVec 32 :=
  let e := tget 0 (m % 1024) s.routeTab
  BitVec.ofNat 32 ((List.range 32).foldl (fun a p => if e.getLsbD p && (s.xlink p).carries then a + 2 ^ p else a) 0)

/-- The ports of a mask, in ascending order. -/
def maskPorts (e : BitVec 32) : List Nat := (List.range 32).filter (fun p => e.getLsbD p)

/-- The port of S by which a word for a module and an address leaves (R397). -/
def pickPort (set : BitVec 32) (m a : Nat) : Option Nat :=
  let x := Nat.xor m (a / 64 % 2 ^ 38)
  let h := Nat.xor (Nat.xor x (x / 2 ^ 16)) (x / 2 ^ 32) % 2 ^ 16
  let ps := maskPorts set
  if ps.isEmpty then none else ps[h % ps.length]?

/-- Words to a module wait until what was sent by another set S is acknowledged (R397). -/
def State.portsSettled (s : State) (m : Nat) (set : BitVec 32) : Bool :=
  s.remotes.all (fun q => q.r.pa / 2 ^ 44 != m || q.link.isNone || q.ports == set)

/-- The port by which an answer to a module for a local address leaves: none while there is none, or while what left by another
set is not acknowledged (R397). -/
def State.answerPort (s : State) (m a : Nat) : Option Nat :=
  let set := s.portSet m
  if s.portsSettled m set then pickPort set m a else none

/-- A word that answers a request of a module for a local address leaves by its port, or waits for one at the link `l` by which the
request came (R397). -/
def State.sendAnswer (s : State) (l m a vc : Nat) (load : TxLoad) : State :=
  match s.answerPort m a with
  | some p => s.linkSend p vc load
  | none => s.modXlink l (fun x => { x with held := x.held ++ [(m, a, vc, load)] })

/-- The answers that wait for a port try again (R397). -/
def State.retryAnswers (s : State) : State :=
  (s.xlinks.filter (fun x => !x.2.held.isEmpty)).foldl (fun s x =>
    x.2.held.foldl (fun s h => s.sendAnswer x.1 h.1 h.2.1 h.2.2.1 h.2.2.2) (s.modXlink x.1 (fun y => { y with held := [] }))) s

/-- The answer to a request of a remote module for a local address: a value, or a refusal code. -/
def State.answerRemote (s : State) (l module a id : Nat) (v : Word) (code : Nat) (poison : Bool) : State :=
  s.sendAnswer l module a vcReply (.answer id module v code poison)

end Sys2Proof.Machine
end

