-- ==== Sys2Proof/Machine/Page.lean ====
section
/-! DEFINITION. Pages (chapter 15): leaves and their rights, TLB slices and walks, requests stopped at a missing page and
their resume, tinval. A request that is translated goes on as `requestPerform`, a migration as `migrationStart`. -/

namespace Sys2Proof.Machine

/-! ## Leaves (R341 to R346) -/

/-- Fields of a table entry (Tables 15-2 and 15-3). -/
def pteV (e : Word) : Bool := e.getLsbD 0
def pteLeaf (e : Word) : Bool := e.getLsbD 1
def pteRd (e : Word) : Bool := e.getLsbD 2
def pteWr (e : Word) : Bool := e.getLsbD 3
def pteAt (e : Word) : Bool := e.getLsbD 4
def pteQr (e : Word) : Bool := e.getLsbD 5
def pteFe (e : Word) : Bool := e.getLsbD 6
def pteTier (e : Word) : Nat := (e.extractLsb' 7 2).toNat
def ptePzn (e : Word) : Bool := e.getLsbD 9
def pteNext (e : Word) : Nat := (e.extractLsb' 12 36).toNat * 256
def pteFrame (e : Word) : Nat := (e.extractLsb' 12 48).toNat

/-- Pages of 64 KiB that a leaf at a level maps (Table 15-1). -/
def leafSize (level : Nat) : Nat :=
  match level with
  | 0 => 1
  | 1 => 32
  | _ => 16384

/-- A malformed entry at a level (R343). -/
def pteBad (level : Nat) (e : Word) : Bool :=
  let frame := pteFrame e
  let tier := pteTier e
  if pteLeaf e then
    level ≥ 3 || e.extractLsb' 10 2 != 0 || e.extractLsb' 60 4 != 0 || frame % leafSize level != 0 || tier == 3 ||
      (tier == 0 && regionOf (frame * 65536 % 2 ^ 44) != .hbm) ||
      (tier == 1 && regionOf (frame * 65536 % 2 ^ 44) != .capacity) ||
      (pteFe e && (tier == 1 || level != 0))
  else
    level == 0 || e.extractLsb' 2 10 != 0 || e.extractLsb' 48 16 != 0 ||
      pteNext e % (if level == 1 then 256 else 4096) != 0 || pteNext e ≥ 2 ^ 40

/-- The address of the entry for an address in a table (Table 15-1). -/
def entryAddr (table level va : Nat) : Nat :=
  match level with
  | 0 => table + 8 * (va / 2 ^ 16 % 32)
  | n + 1 => table + 8 * (va / 2 ^ (21 + 9 * n) % 512)

/-- The rights of Table 15-5 are there: RD, WR, AT, QR. -/
def rightsOk (acc : Acc) (e : Word) : Bool :=
  match acc with
  | .ld => pteRd e
  | .st => pteWr e
  | .amo | .cas => pteRd e && pteWr e && pteAt e
  | .lde => pteRd e && pteWr e
  | .stf => pteWr e
  | .migr => pteRd e && pteWr e
  | .record => pteWr e
  | .packet => pteRd e
  | .gat | .qry => pteQr e && pteRd e
  | .sca => pteQr e && pteWr e
  | .qabort => true

/-- The outcome of a leaf for an access (R346, R21, R348): the physical address, or a fault detail. No link carries a
migration's request (R395), so one whose frame lies in another module is refused as R21 refuses an access (log 73). -/
def leafUse (module : Nat) (acc : Acc) (copy : Bool) (page size : Nat) (e : Word) (va : Nat) : Sum Nat Nat :=
  let pa := pteFrame e * 65536 + (va - page * 65536) % (size * 65536)
  let m := pa / 2 ^ 44
  let region := regionOf (pa % 2 ^ 44)
  if !rightsOk acc e then .inr 0x10
  else if (acc == .lde || acc == .stf) && !pteFe e then .inr 0x13
  else if region != .hbm && region != .capacity then .inr 0x11
  else if m / 1024 % 1024 != module / 1024 % 1024 && !copy then .inr 0x11
  else if acc == .migr && m != module then .inr 0x11
  else .inl pa

/-! ## Domains -/

/-- The slot of a live domain (R18). -/
def State.domSlot (s : State) (d : Nat) : Option Nat := (s.doms.find? (fun p => p.2.live && p.2.dom == d)).map (·.1)
def State.dom (s : State) (k : Nat) : Dom := tget .zero k s.doms
/-- The root of a domain (R340); none when V is 0 or the domain is not live. -/
def State.root (s : State) (d : Nat) : Option Nat := ((s.domSlot d).map s.dom).bind (·.root)

/-! ## Parts out of service (R409, R435) -/

def State.base (s : State) (stack : Nat) : Base := tget .zero stack s.bases
def State.modBase (s : State) (stack : Nat) (f : Base → Base) : State :=
  { s with bases := tput .zero stack (f (s.base stack)) s.bases }

/-- A die is out of reset: the scheduler of one that is held takes nothing, and its queues read DISABLED (R435). -/
def State.dieUp (s : State) (d : Nat) : Bool := (s.die d).released.isSome

/-- The next die on the way from one die to another: along the columns first, as words go (R11, R155). -/
def dieToward (a b : Nat) : Nat :=
  if a % 4 < b % 4 then a + 1 else if b % 4 < a % 4 then a - 1 else if a < b then a + 4 else if b < a then a - 4 else a

/-- The dies on the way from one die to another, both ends included. -/
def diePath (a b : Nat) : Nat → List Nat
  | 0 => [a]
  | n + 1 => if a == b then [a] else a :: diePath (dieToward a b) b n

/-- The die of a home of module memory (R10). -/
def memDie (a : Nat) : Nat := if regionOf a == .capacity then capOf a else stackOf a / 2

/-- The die of a Xanhoka port (R10). -/
def portDie (p : Nat) : Nat := p / 4

/-- The PORT_SELECT detail of an access from the tile of `ea` to a local address: an offline port, a capacity unit whose base
die is not READY, a die held in reset on the way (R409, R435). -/
def State.homeFault (s : State) (ea a : Nat) : Option Nat :=
  if regionOf a == .hbm && ((s.base (stackOf a)).dead || (s.base (stackOf a)).off.getLsbD (hbmPort a)) then some (hbmPort a)
  else if regionOf a == .capacity && (s.base (capStack a)).dead then some (32 + capOf a)
  else ((diePath (eaDie ea) (memDie a) 4).find? (fun d => (s.die d).released.isNone)).map (64 + ·)

/-! ## Walks -/

/-- What an untimed walk finds: a missing page at an entry, a malformed entry, an entry whose home is out of service, or a leaf with its
page, size and address. -/
inductive WalkRes
  | missing (entry : Nat)
  | bad
  | offline
  | leaf (page size addr : Nat) (e : Word)
  deriving DecidableEq, Repr

/-- The page of a leaf at a level. -/
def leafPage (level va : Nat) : Nat := va / 65536 / leafSize level * leafSize level

/-- A walk from a table at a level, at one instant, for an agent at the tile of `ea` (R435). -/
def State.walkFrom (s : State) (ea va table : Nat) : Nat → WalkRes
  | 0 =>
    let a := entryAddr table 0 va
    let e := s.read64 a
    if (s.homeFault ea a).isSome then .offline
    else if !pteV e then .missing a
    else if pteBad 0 e then .bad
    else .leaf (leafPage 0 va) 1 a e
  | n + 1 =>
    let a := entryAddr table (n + 1) va
    let e := s.read64 a
    if (s.homeFault ea a).isSome then .offline
    else if !pteV e then .missing a
    else if pteBad (n + 1) e then .bad
    else if pteLeaf e then .leaf (leafPage (n + 1) va) (leafSize (n + 1)) a e
    else s.walkFrom ea va (pteNext e) n

/-- The entries that a walk from a table at a level reads. -/
def State.walkEntries (s : State) (va table : Nat) : Nat → List Nat
  | 0 => [entryAddr table 0 va]
  | n + 1 =>
    let a := entryAddr table (n + 1) va
    let e := s.read64 a
    if !pteV e || pteBad (n + 1) e || pteLeaf e then [a] else a :: s.walkEntries va (pteNext e) n

/-- The number that stands for a domain without a root where a table entry is named. -/
abbrev noEntry : Nat := 2 ^ 50

/-- A walk of a domain at one instant, for an agent at the tile of `ea` (R340). -/
def State.walkNow (s : State) (ea d va : Nat) : WalkRes :=
  match s.root d with
  | none => .missing noEntry
  | some t => s.walkFrom ea va t 4

/-- The units of the entries that it reads. -/
def State.walkUnits (s : State) (d va : Nat) : List Nat :=
  match s.root d with
  | none => []
  | some t => (s.walkEntries va t 4).map unitOf

/-! ## Slices -/

def State.slice (s : State) (tile : Nat) : Slice := tget .zero tile s.slices
def State.modSlice (s : State) (tile : Nat) (f : Slice → Slice) : State :=
  { s with slices := tput .zero tile (f (s.slice tile)) s.slices }

/-- The tile whose slice owns an address (R301). -/
def Group.owner (g : Group) (a : Word) : Nat :=
  let v := vbits a / 65536
  let x := Nat.xor (Nat.xor v (v / 2 ^ 13)) (Nat.xor (v / 2 ^ 26) g.dom)
  let i := x % (g.w * g.h)
  tileAt (g.x + i % g.w) (g.y + i / g.w)

/-- An entry of a cache that maps a page of a domain. -/
def TlbEnt.maps (t : TlbEnt) (dom page : Nat) : Bool := t.dom == dom && t.page ≤ page && page < t.page + t.size

/-- An entry put last, as the one used latest; the one used least recently makes room (R345). -/
def cacheAdd (cap : Nat) (t : TlbEnt) (l : List TlbEnt) : List TlbEnt :=
  let l := (l.filter (fun x => !(x.dom == t.dom && x.page == t.page && x.size == t.size))) ++ [t]
  l.drop (l.length - cap)

/-- fc from an element's hub to a slice (log 5). -/
def hubTravel (ea owner : Nat) : Nat := if owner == tileOf ea then 0 else hops (tileOf ea) owner

/-- fc from the firing to the slice, of a request without waits: one to its output, then to its hub, then to the slice. -/
def sliceTravel (ea owner : Nat) : Nat := 1 + hops ea (tileOf ea) + hubTravel ea owner

/-- fc from the issue of a request to its slice: of a granule, from its hub (R301). -/
def reqTravel (r : MReq) (owner : Nat) : Nat :=
  match r.who with
  | .flow tile _ => hops tile owner
  | _ => sliceTravel r.ea owner

/-- A request word that enters an output of its element in cycle `t`, or is issued there, goes to its tile hub, where `credit` follows,
and on to its owning slice, over the links of both ways (R155, R156, R301). -/
def State.toSlice (s : State) (t : Nat) (r : MReq) (credit : List (Nat × Instr)) : State :=
  let owner := (s.group r.grp).owner r.addr
  s.sendTwice t r.ea (tileOf r.ea) credit owner [(0, .tlbLookup r)]

/-- Half of the unloaded latency to a home of module memory (R25, R26, R234, R356, R10). What another module's takes is the links' and
that module's: its request leaves at once, and its reply is visible as it arrives (Table 17-4). -/
def homeHalf (module ea pa : Nat) : Nat :=
  if pa / 2 ^ 44 != module then 0
  else match regionOf (pa % 2 ^ 44) with
    | .capacity => Config.capacityLatency / 2 + 24 * dieDist (eaDie ea) (capOf (pa % 2 ^ 44))
    | _ => Config.hbmLatency / 2 + 24 * dieDist (eaDie ea) (stackOf (pa % 2 ^ 44) / 2)

/-- The agent number of a missing-page record (R347). -/
def agentDetail (w : Who) : Nat :=
  match w with
  | .gen g => 1 + g
  | .flow _ n => 3 + 256 * n
  | _ => 0

/-- The agent is a copy flow (R21). -/
def isFlow (w : Who) : Bool :=
  match w with
  | .flow _ _ => true
  | _ => false

/-- Flows of a hub. -/
def Hub.flow (h : Hub) (n : Nat) : Flow := tget .zero n h.flows
def State.flow (s : State) (tile n : Nat) : Flow := (s.hub tile).flow n
def State.modFlow (s : State) (tile n : Nat) (f : Flow → Flow) : State :=
  s.modHub tile (fun h => { h with flows := tput .zero n (f (h.flow n)) h.flows })

/-- The agent of a request still awaits its translation: a copy flow that has ended meanwhile does not. -/
def State.asks (s : State) (r : MReq) : Bool :=
  match r.who with
  | .flow t n => (s.flow t n).st != .free && (s.flow t n).fly.any (fun x => x.id == r.id)
  | _ => true

/-- The granule `id` is taken back, to begin again (R251). -/
def Flow.takeBack (f : Flow) (id : Nat) : Flow :=
  { f with
    fly := f.fly.filter (fun x => x.id != id)
    redo := (f.fly.filter (fun x => x.id == id)).foldl (fun l x => nadd x.idx l) f.redo }

/-- A flow that has met a missing page is STOPPED once its granules in flight have landed (R251). -/
def State.flowStops (s : State) (tile n : Nat) : State :=
  s.modFlow tile n (fun f => if f.halt && f.fly.isEmpty && f.st == .active then { f with st := .stopped } else f)

/-- The physical address of a route's request, by which those that overlap it are known from now on (R231, R254). -/
def State.notePa (s : State) (r : MReq) (pa : Nat) : State :=
  s.modOut r.ea r.out (fun o => { o with reqs := o.reqs.map (fun x => if x.id == r.id then { x with pa := some pa } else x) })

/-- A translated request goes on: its remaining way is that of a request that has met no wait since its slice (R234). -/
def State.onward (s : State) (r : MReq) (pa page size : Nat) (pzn : Bool) (late : Nat) (fe : Bool) : State :=
  let r := { r with
    pa := pa, tpage := page, tsize := size, pzn := pzn, issued := r.issued + late, sx := if r.acc == Acc.record then fe else r.sx }
  match r.who with
  | .flow _ _ => s.after (if late == 0 then 4 else 0) (.requestPerform r)
  | _ =>
    if r.acc == Acc.migr then
      s.after (homeHalf s.module r.ea pa) (.migrationStart
        ⟨r.id, r.grp, r.dom, r.ea, r.ctx, r.slot, r.addr, r.aop == 1, r.v1, page, size⟩)
    else
      let s := match r.who with
        | .gen g => (s.notePa r pa).modGen r.ea g (fun x => { x.advance 1 with wait := x.mode == 2 })
        | .firing => if r.out < localOut then s.notePa r pa else s
        | _ => s
      s.at_ (max (s.now + (if late == 0 then 4 else 1)) (r.issued + homeHalf s.module r.ea pa)) (.requestPerform r)

/-! ## The end of a flow (R249 to R251) -/

/-- Bytes performed (Table 9-9). -/
def Flow.bytes (f : Flow) : Nat := f.moved * (if f.c.ring then f.c.tlen else 64)

/-- The whole copy is performed. -/
def Flow.finished (f : Flow) : Bool := f.bytes == f.c.len

/-- A flow that has nothing on its way ends: done, faulted or cancelled; where its completion falls in the cycle of its
cancellation, as one of the two (R250). A flow that has met a missing page is STOPPED (R249 to R251); one that is done in a FENCED
group stays ACTIVE until the group is LIVE (R405). -/
def State.flowEnd (s : State) (tile n : Nat) : State :=
  let s := s.flowStops tile n
  let f := s.flow tile n
  let ends (s : State) (status code : Nat) : State :=
    s.at_ s.now (.copyComplete tile n (BitVec.ofNat 8 status) (BitVec.ofNat 8 code))
  let ended := s.agenda.any (fun x => match x.instr with
    | .copyComplete t m _ _ => t == tile && m == n
    | _ => false)
  if f.st == .free || !f.fly.isEmpty || ended then s
  else if f.code != 0 then ends s 2 f.code
  else match f.cancel with
  | none => if f.finished && !(s.group f.c.grp).fencedAt tile then ends s 0 0 else s
  | some k =>
    if f.finished && k == s.now then let (b, s) := s.choose; ends s (if b then 1 else 0) 0 else ends s 1 0

/-- A flow is to end with a code; the granule `id` is not performed. -/
def State.flowCode (s : State) (tile n id code : Nat) : State :=
  s.modFlow tile n (fun x =>
    { x with code := if x.code == 0 then code else x.code, fly := x.fly.filter (fun g => g.id != id) })

/-! ## Requests that end without being performed (R233, Table 9-3) -/

/-- Bits of the units a context waits at: a tinval, a qpush's packet read, a migr (R350, R322, R358). -/
abbrev waitTinval : Nat := 0
abbrev waitQpush : Nat := 1
abbrev waitMigr : Nat := 2

def Ctx.setWait (c : Ctx) (b : Nat) (v : Bool) : Ctx :=
  { c with wait := c.wait - (if c.wait.testBit b then 2 ^ b else 0) + (if v then 2 ^ b else 0) }

/-- What a context awaits of a request of its own unit ends with the request (R322, R358). -/
def Ctx.giveUp (c : Ctx) (acc : Acc) : Ctx :=
  match acc with
  | .packet => { c.setWait waitQpush false with qp := c.qp - 1 }
  | .migr | .record => c.setWait waitMigr false
  | _ => c

/-- A request leaves its route without being performed: no reply, acknowledgement or token (R233). -/
def State.dropReq (s : State) (r : MReq) : State :=
  match r.who with
  | .firing =>
    if r.out ≥ localOut then s.modCtx r.ea r.ctx (fun c => c.giveUp r.acc)
    else
      let s := s.modOut r.ea r.out (fun o =>
        { o with reqs := o.reqs.filter (fun x => x.id != r.id), reqUsed := if r.ord then o.reqUsed - 1 else o.reqUsed })
      let s := if r.ren then
          (s.modChan r.ea r.rch (fun c => { c with reserved := c.reserved - 1 })).after 1 (.replyArrival { r with id := 0 } 0 false)
        else s
      if r.fen then s.modOut r.ea r.ofwd (fun o => { o with tokRes := o.tokRes - 1 }) else s
  | .spill =>
    s.modOut r.ea r.out (fun o => { o with reqs := o.reqs.filter (fun x => x.id != r.id) })
  | _ => s

/-- The store of a launch's record to another module is over, and the launch goes on (R325). -/
def State.recordOver (s : State) (lid : Nat) (stored : Bool) : State :=
  State.at_ { s with launches := s.launches.map (fun (l : Launch) =>
    if l.lid == lid && l.rec_ == 1 then { l with rec_ := if stored then 2 else 3 } else l) } s.now (.launchComplete lid)

/-- A request ends with a fault: that of its context and group, of its stream, or of its copy (R233, R239, R251). -/
def State.failReq (s : State) (r : MReq) (src code detail : Nat) : State :=
  match r.who with
  | .gen g => (s.genUnissue r.ea g r.id).modGen r.ea g (fun x =>
      { x with
        fault := if x.cut.all (fun k => r.id < k) then some (code, r.addr, detail) else x.fault
        cut := some (min r.id (x.cut.getD r.id)) })
  | .flow tile n =>
    if !s.asks r then s
    else
      let s := s.flowCode tile n r.id code
      let s := if code == 0x03 || code == 0x16 || code == 0x60 || code == 0x61 then s
        else if code == 0x12 then s.raiseCtx r.grp src ⟨r.ea, r.ctx, r.slot⟩ code detail r.addr
        else s.raiseRec r.grp src r.ea (some r.ctx) (some r.slot) code true true detail r.addr
      s.flowEnd tile n
  | .remote link module id => s.answerRemote link module (r.pa % 2 ^ 44) id (BitVec.ofNat 64 detail) code false
  | .launch lid => s.recordOver lid false
  | _ => (s.dropReq r).raiseCtx r.grp src ⟨r.ea, r.ctx, r.slot⟩ code detail r.addr

/-! ## Walks (R345 to R347) -/

/-- A walk begins, or begins again, at the root. -/
def State.walkStep (s : State) (tile id : Nat) (r : MReq) (again : Bool) : State :=
  match s.root r.dom with
  | none => s.after 1 (.tlbWalk ⟨id, r, tile, 4, noEntry, false, some 0, again⟩)
  | some t =>
    let a := entryAddr t 4 (vbits r.addr)
    s.after (homeHalf s.module tile (s.module * 2 ^ 44 + a)) (.tlbWalk ⟨id, r, tile, 4, a, false, none, again⟩)

/-- A miss starts a walk, or waits behind the 8 in progress (R345). -/
def State.startWalk (s : State) (tile : Nat) (r : MReq) (again : Bool) : State :=
  if (s.slice tile).walks.length < Config.walks then
    let id := s.serial
    (s.bump.modSlice tile (fun x => { x with walks := x.walks ++ [(id, r, false)] })).walkStep tile id r again
  else s.modSlice tile (fun x => { x with waiting := x.waiting ++ [(r, again)] })

/-- A walk has ended; the next miss that waits starts its own. -/
def State.endWalk (s : State) (w : Walk) : State :=
  let s := s.modSlice w.tile (fun x =>
    { x with walks := x.walks.filter (fun y => y.1 != w.id), retries := if w.again then x.retries - 1 else x.retries })
  match (s.slice w.tile).waiting with
  | [] => s
  | (r, again) :: rest => (s.modSlice w.tile (fun x => { x with waiting := rest })).startWalk w.tile r again

/-- Places for missing pages in use: held request words, and those that walk again for a place (R347). -/
def Slice.places (x : Slice) : Nat := x.held.countP (fun h => agentDetail h.r.who == 0) + x.retries

/-- A request that waits for a place walks again when one is free (R347). -/
def State.refill (s : State) (tile : Nat) : State :=
  match (s.slice tile).beyond with
  | [] => s
  | r :: rest =>
    if (s.slice tile).places < Config.heldRequests then
      let s := s.modSlice tile (fun x => { x with beyond := rest, retries := x.retries + 1 })
      let s := if r.who == .firing && r.out < localOut && !r.ord then s.at_ s.now (.requestCreditReturn r.ea r.out r.epoch) else s
      s.startWalk tile r true
    else s

/-- The flow of a request, when it is cancelled, to end with a code or stopping already: a missing page does not stop it any more
(R250, R251). -/
def State.endingFlow (s : State) (r : MReq) : Option (Nat × Nat) :=
  match r.who with
  | .flow t n => if (s.flow t n).cancel.isSome || (s.flow t n).code != 0 || (s.flow t n).halt then some (t, n) else none
  | _ => none

/-- An agent stops at a missing page: a record with its number, and no fence (R347). A generator takes its element back; it and
a flow are STOPPED once what they sent before is performed (Table 9-4, R251). -/
def State.stopAtPage (s : State) (tile : Nat) (r : MReq) (entry : Nat) : State :=
  if !s.asks r then s
  else match s.endingFlow r with
  | some (t, n) => (s.modFlow t n (fun x => x.takeBack r.id)).flowEnd t n
  | none =>
    let key := s.serial + 1
    let s := { s with serial := key }
    let s := match r.who with
      | .gen g => (s.genUnissue r.ea g r.id).modGen r.ea g (fun x => { x with halt := true })
      | .flow t n => (s.modFlow t n (fun x => { x.takeBack r.id with halt := true })).flowStops t n
      | _ => s
    (s.modSlice tile (fun x => { x with held := x.held ++ [⟨key, r, entry⟩] })).raiseRec r.grp tile r.ea (some r.ctx)
      (some r.slot) 0x11 true false (agentDetail r.who) r.addr key

/-- A walk has met V = 0 (R347). A migration's page counts as UNMAPPED, which its copier answers (Table 15-6). -/
def State.missPage (s : State) (tile : Nat) (r : MReq) (entry : Nat) (again : Bool) : State :=
  if r.acc == Acc.migr then
    s.after 1 (.migrationStart ⟨r.id, r.grp, r.dom, r.ea, r.ctx, r.slot, r.addr, r.aop == 1, r.v1, 0, 0⟩)
  else if agentDetail r.who == 0 && !again && (s.slice tile).places ≥ Config.heldRequests then
    let s := s.modSlice tile (fun x => { x with beyond := x.beyond ++ [r] })
    if r.who == .firing && r.out < localOut && !r.ord then
      s.modOut r.ea r.out (fun o => { o with reqUsed := o.reqUsed + 1 })
    else s
  else s.stopAtPage tile r entry

/-- R345: the owning slice looks the request up; a hit adds 4 fc, a miss or a denied right starts a walk (R346). -/
def execTlbLookup (r : MReq) (s : State) : Out1 := .next <|
  let g := s.group r.grp
  let tile := g.owner r.addr
  let page := vbits r.addr / 65536
  match (s.slice tile).ents.find? (fun t => t.maps r.dom page) with
  | none => s.startWalk tile r false
  | some t =>
    match leafUse s.module r.acc (isFlow r.who) t.page t.size t.leaf (vbits r.addr) with
    | .inl pa =>
      (s.modSlice tile (fun x => { x with ents := cacheAdd Config.tlbEntries t x.ents })).onward r pa t.page t.size
        (ptePzn t.leaf) 0 (pteFe t.leaf)
    | .inr _ => (s.modSlice tile (fun x => { x with ents := x.ents.erase t })).startWalk tile r false

/-- The walk's leaf is cached and the request goes on, or ends with PERMISSION (R345, R346). -/
def State.walkLeaf (s : State) (w : Walk) (e : Word) : State :=
  let r := w.r
  let page := leafPage w.level (vbits r.addr)
  let size := leafSize w.level
  let s := s.modSlice w.tile (fun x => { x with ents := cacheAdd Config.tlbEntries ⟨r.dom, page, size, e⟩ x.ents })
  match leafUse s.module r.acc (isFlow r.who) page size e (vbits r.addr) with
  | .inl pa =>
    let late := s.now - (r.issued + reqTravel r w.tile + 4)
    s.onward r pa page size (ptePzn e) (max late 1) (pteFe e)
  | .inr d => s.failReq r w.tile 0x12 d

/-- A request that walked again for a place has not needed it: the next one that waits tries (R347). -/
def State.walkOver (s : State) (w : Walk) : State := if w.again then s.refill w.tile else s

/-! ## Resume (R347) -/

/-- A generator released from a missing page reissues the element that met it (Table 9-4). One that a fault has stopped stays so. -/
def State.genResume (s : State) (ea g : Nat) : State :=
  let x := (s.elem ea).gen g
  let stopped := x.st == .stopped && x.halt
  let s := s.modGen ea g (fun x =>
    if x.halt then { x with st := if stopped then .running else x.st, halt := false, wait := false } else x)
  if stopped then s.at_ s.now (.genElementIssue ea g) else s

/-- Agents released from a missing page go on: a request walks again, a generator reissues its element, a flow its granule. -/
def State.release (s : State) (tile : Nat) : List Held → State
  | [] => s
  | h :: hs =>
    let s := match h.r.who with
      | .gen g => s.genResume h.r.ea g
      | .flow t n => s.modFlow t n (fun x => { x with st := .active, halt := false })
      | _ => s.startWalk tile h.r false
    s.release tile hs

/-- Agents of a slice that stopped at an entry are released; requests that wait for a place take those that are free. -/
def State.releaseAt (s : State) (entry : Nat) : List Nat → State
  | [] => s
  | t :: ts =>
    let x := s.slice t
    let s := s.modSlice t (fun x => { x with held := x.held.filter (fun h => h.entry != entry) })
    let s := s.release t (x.held.filter (fun h => h.entry == entry))
    ((List.range Config.heldRequests).foldl (fun s _ => s.refill t) s).releaseAt entry ts

/-- The table entry at which the agent of a record is stopped. -/
def State.stoppedAt (s : State) (gn key : Nat) : Option Nat :=
  (s.group gn).tiles.findSome? (fun t => ((s.slice t).held.find? (fun h => h.key == key)).map (·.entry))

/-- R347: RESUME releases every agent of the group that stopped at the entry of the named record's agent. -/
def execPageResume (gn : Nat) (seq : BitVec 16) (s : State) : Out1 := .next <|
  match (s.group gn).pnp.find? (fun p => p.1 == seq.toNat) with
  | none => s
  | some (_, key) =>
    match s.stoppedAt gn key with
    | none => s
    | some entry => s.releaseAt entry (s.group gn).tiles

/-! ## Invalidation (R350) -/

/-- A translation of a domain is removed: of one page, or every one. -/
def removes (dom : Nat) (page : Option Nat) (d p size : Nat) : Bool :=
  d == dom && (match page with | some k => p ≤ k && k < p + size | none => true)

/-- Removal from a slice: its entries, and the domain's walks in progress begin again, whatever leaf they would end in (R350). -/
def Slice.remove (x : Slice) (dom : Nat) (page : Option Nat) : Slice :=
  { x with
    ents := x.ents.filter (fun t => !removes dom page t.dom t.page t.size)
    walks := x.walks.map (fun w => (w.1, w.2.1, w.2.2 || w.2.1.dom == dom)) }

/-- Removal from the engine caches of a base die. -/
def Base.removeEnts (x : Base) (dom : Nat) (page : Option Nat) : Base :=
  let keep (t : TlbEnt) : Bool := !removes dom page t.dom t.page t.size
  { x with ents := x.ents.filter keep, sents := x.sents.filter keep }

/-- Removal from every slice and engine cache of the module. -/
def State.invalidate (s : State) (dom : Nat) (page : Option Nat) : State :=
  { s with
    slices := tmap .zero (fun _ x => x.remove dom page) s.slices
    bases := tmap .zero (fun _ x => x.removeEnts dom page) s.bases }

/-- The request that an event performs, if it is one. -/
def reqOf (i : Instr) : Option MReq :=
  match i with
  | .requestPerform r => some r
  | _ => none

/-- The requests on their way to a home: in the agenda, in port queues, and to other modules. -/
def State.travelling (s : State) : List MReq :=
  s.agenda.filterMap (fun x => reqOf x.instr) ++ s.banks.flatMap (fun p => p.2.q.filterMap (fun q => reqOf q.instr)) ++
    s.remotes.map (·.r)

/-- The numbers of the requests, granules and migrations that took their translation from a removed page and are on their way. -/
def State.removedUsers (s : State) (dom : Nat) (page : Option Nat) : List Nat :=
  (s.travelling.filter (fun r => r.tsize != 0 && removes dom page r.dom r.tpage r.tsize)).map (·.id) ++
  s.hubs.flatMap (fun p => p.2.flows.flatMap (fun f =>
    (f.2.fly.filter (fun x => (x.ssize != 0 && removes dom page x.dom x.spage x.ssize) ||
      (x.dsize != 0 && removes dom page x.dom x.dpage x.dsize))).map (·.id))) ++
  s.agenda.filterMap (fun x => match x.instr with
    | .migrationStart m => if m.tsize != 0 && removes dom page m.dom m.tpage m.tsize then some m.id else none
    | _ => none)

/-- A request or granule of this number is still on its way. -/
def State.onWay (s : State) (id : Nat) : Bool :=
  s.travelling.any (fun r => r.id == id) || s.agenda.any (fun x => match x.instr with
    | .migrationStart m => m.id == id
    | _ => false) || s.hubs.any (fun p => p.2.flows.any (fun f => f.2.fly.any (fun x => x.id == id)))

/-- The largest number of col crossings from a die (R350). -/
def maxCross (d : Nat) : Nat := (List.range Config.dies).foldl (fun m e => max m (dieDist d e)) 0

/-- R350. -/
def execTinval (f : SlotF) (s : State) : Out1 := .next <|
  match s.cur with
  | none => s
  | some cu =>
    match s.operandFault cu f with
    | some s' => s'
    | none =>
      let a := (readSource s cu f f.sa).val
      if !a.getLsbD 0 && !canonical a then s.raiseSync cu 0x10 0 a
      else s.fireWith f (fun cu x _ s =>
        let dom := (s.group (s.groupNo cu.ea)).dom
        let page := if x.a.getLsbD 0 then none else some (vbits x.a / 65536)
        let ready := s.now + 64 + 48 * maxCross (eaDie cu.ea)
        let t : Tinv := ⟨cu.ea, cu.ctx, ready, s.removedUsers dom page⟩
        let s := { s with tinvs := s.tinvs ++ [t] }
        ((s.invalidate dom page).modCtx cu.ea cu.ctx (fun c => c.setWait waitTinval true)).at_ ready (.tinvalAck cu.ea cu.ctx))

/-- R350: the acknowledgement arrives once every request translated from a removed entry has been performed. -/
def execTinvalAck (ea ctx : Nat) (s : State) : Out1 := .next <|
  match s.tinvs.find? (fun t => t.ea == ea && t.ctx == ctx) with
  | none => s
  | some t =>
    if s.now < t.ready then s
    else if t.waits.any s.onWay then s.after 1 (.tinvalAck ea ctx)
    else { s with tinvs := s.tinvs.erase t }.modCtx ea ctx (fun c => c.setWait waitTinval false)

end Sys2Proof.Machine
end

