-- ==== Sys2Proof/Machine/Home.lean ====
section
/-! DEFINITION. What a home does with an access: SECDED and poison (R410), error logs of base dies (R412), atomics (R184,
R229), and where a home is (R232, R255). -/

namespace Sys2Proof.Machine

/-! ## Units, poison and errors -/

/-- An entry in the log of a base die (R412); the die counter is that of the fabric die it serves. -/
def State.logBase (s : State) (stack array type : Nat) (inj : Bool) (loc : Word) : State :=
  let x : LogEnt := ⟨array, type, inj, 0, loc, s.dieCycle (stack / 2)⟩
  s.modBase stack (fun b => { b with log := b.log.add x })

/-- The element address of the SE, or of site (0,0) of the tile, that holds an SRAM-window address (R23). -/
def windowEa (a : Nat) : Nat :=
  let tile := tileOfIndex ((a - 0xA0000000000) / 0x2000000)
  let o := (a - 0xA0000000000) % 0x2000000
  if o < 0x1800000 then tile else seSite tile ((o - 0x1800000) / 0x80000)

/-- The array of Table 18-3 that holds a local address. -/
def arrayOf (a : Nat) : Nat :=
  match regionOf a with
  | .hbm => 8
  | .window => if (a - 0xA0000000000) % 0x2000000 < 0x1800000 then 1 else 0
  | _ => 9

/-- An error at a unit is logged in the tile or base die that holds it (R410, R412). -/
def State.logUnit (s : State) (a type : Nat) (inj : Bool) : State :=
  match regionOf a with
  | .hbm => s.logBase (stackOf a) 8 type inj (BitVec.ofNat 64 a)
  | .window =>
    let ea := windowEa a
    let x : LogEnt := ⟨arrayOf a, type, inj, if arrayOf a == 0 then ea else 0, BitVec.ofNat 64 a, s.dieCycle (eaDie ea)⟩
    s.modHub (tileOf ea) (fun h => { h with log := h.log.add x })
  | _ => s.logBase (capStack a) 9 type inj (BitVec.ofNat 64 a)

/-- An access meets the unit of a local address: an armed injection flips its bits; a one-bit error is corrected, a two-bit
error poisons the unit (R410, R417). -/
def State.touch (s : State) (a : Nat) : State :=
  let (inj, s) := s.takeInj (arrayOf a) (if arrayOf a == 9 then capOf a else unitOf a)
  match inj with
  | none => s
  | some j =>
    if j.kind == 1 then (s.setPoison (unitOf a) true).logUnit a 1 true else s.logUnit a 0 true

/-! ## Atomics -/

/-- AOP of Table 7-5 applied to operands of `w` bits. -/
def amoOp (aop w old x : Nat) : Nat :=
  let x := x % 2 ^ w
  match aop with
  | 0 => (old + x) % 2 ^ w
  | 1 => Nat.land old x
  | 2 => Nat.lor old x
  | 3 => Nat.xor old x
  | 4 => if sInt w old ≤ sInt w x then old else x
  | 5 => if sInt w old ≤ sInt w x then x else old
  | 6 => min old x
  | 7 => max old x
  | _ => x

/-- What one access does at its home (R229): the state after, the reply, and whether the reply is poisoned; `none` where the
unit's poison refuses it (R233, R410). -/
def State.access (s : State) (acc : Acc) (a sz : Nat) (sx : Bool) (aop : Nat) (v1 v2 : Word) (pzn : Bool) :
    Option (State × Word × Bool) :=
  let s := s.touch a
  let n := 2 ^ sz
  let w := 8 * n
  let bad := pzn || s.poisoned (unitOf a)
  let old := s.readNat a n
  match acc with
  | .ld => some (s, if sx then BitVec.ofInt 64 (sInt w old) else BitVec.ofNat 64 old, bad)
  | .amo => if bad then none else some (s.writeNat a n (amoOp aop w old v1.toNat), BitVec.ofNat 64 old, false)
  | .cas =>
    if bad then none
    else
      let exp := if sz == 3 then v2.toNat else v1.toNat % 2 ^ 32
      let nv := if sz == 3 then v1.toNat else v1.toNat / 2 ^ 32
      some (if old == exp % 2 ^ w then s.writeNat a n nv else s, BitVec.ofNat 64 old, false)
  | _ =>
    if sz == 3 then some (s.storeUnit a v1, 0, false)
    else if bad then none
    else some (s.writeNat a n v1.toNat, 0, false)

/-! ## Where homes are -/

/-- A number for the home of a request (R232): an HBM or capacity stack, an SE, a tile store, a remote module. -/
def homeCode (module : Nat) (r : MReq) : Nat :=
  if r.endp == 0x80 then 1 + 4 * r.dst
  else if r.endp == 0x81 then 2 + 4 * r.dst
  else if r.pa / 2 ^ 44 != module then 3
  else if regionOf (r.pa % 2 ^ 44) == .capacity then 4 * (16 + capOf (r.pa % 2 ^ 44))
  else 4 * stackOf (r.pa % 2 ^ 44)

/-- The die of a home. -/
def homeDie (h : Nat) : Nat := if h % 4 == 0 then (if h / 4 < 16 then h / 4 / 2 else h / 4 - 16) else eaDie (h / 4)

/-- The delay of an order token between two homes (R232), from when it is in its order queue to when it serves a request here or leaves
for the module of one: half of the way to or from another module is that of the links. -/
def tokenDelay (a b : Nat) : Nat :=
  if a % 4 == 3 && b % 4 == 3 then 0
  else if a % 4 == 3 || b % 4 == 3 then Config.remoteLatency / 2
  else if a == b then 8
  else 8 + 48 * dieDist (homeDie a) (homeDie b)

/-- fc from the performance of another module's request to the port by which its answer leaves (R11, R397). -/
def State.answerDelay (s : State) (l m a : Nat) : Nat := 24 * dieDist (portDie ((s.answerPort m a).getD l)) (memDie a)

/-- fc from another module's answer to the element, or from a home of module memory: half of the latency, and the crossings between
the port of the answer and the element (R11). -/
def memBack (module : Nat) (r : MReq) : Nat :=
  homeHalf module r.ea r.pa + (if r.pa / 2 ^ 44 != module then 24 * dieDist (eaDie r.ea) (eaDie r.dst) else 0)

/-- fc from the performance of a request to its reply and acknowledgement (R234, R191); from the arrival of a reply at a port of
another die, the crossings too (R11). -/
def replyDelay (module : Nat) (r : MReq) : Nat :=
  if r.out == localOut then
    (match r.who with
     | .gen _ => 4
     | _ => 0)
  else if r.endp == 0x80 then 4 + hops r.ea r.dst
  else if r.endp == 0x81 then 10 + hops r.ea r.dst + 1
  else memBack module r

end Sys2Proof.Machine
end

