-- ==== Sys2Proof/Machine/Served.lean ====
section
/-! DEFINITION. What the performance of a request brings (R229, R230): its token, acknowledgement and reply, refusals for poison, and
full/empty words with the deferred requests that a service releases (R351 to R355). -/

namespace Sys2Proof.Machine

/-! ## Performance (R229, R230) -/

/-- The first request of a route leaves it once it is performed and has no reply to send. -/
def dropDone : List ReqEnt → List ReqEnt
  | [] => []
  | x :: xs => if x.done && !x.ren then dropDone xs else x :: xs

/-- A performed request of a route: those before it that are done, too, leave the route (R230, R231). -/
def State.routeDone (s : State) (r : MReq) : State :=
  s.modOut r.ea r.out (fun o => { o with reqs := dropDone (o.reqs.map (fun x => if x.id == r.id then { x with done := true } else x)) })

/-- A crest core's access of an SRAM window is served (R23): a piece of a message is noted, for its REPLY. -/
def State.coreServed (s : State) (k : Nat) (r : MReq) (v : Word) : State :=
  if r.slot == 0 then s else s.modCore k (fun c => { c with left := c.left - 1, got := tput 0 r.ctx v c.got })

/-- The answer of a request goes back: through the routers, as a word, where an SE or a tile store sends one; `back` is its time
when nothing waits (R234, R156). -/
def State.sendBack (s : State) (r : MReq) (word : Bool) (back : Nat) (evs : List Instr) : State :=
  if word && (r.out < localOut || r.who == .spill) && r.endp != 0x82 then
    s.sendParcel (s.now + (back - hops r.dst r.ea)) r.dst r.ea 1 (evs.map (fun i => (0, i)))
  else evs.foldl (fun s i => s.after back i) s

/-- The oldest token for a held request, if it has reached the request's home (R232). -/
def State.tokenFor (s : State) (r : MReq) : Option (Byte × Nat × Nat) :=
  match ((s.elem r.ea).out r.out).tokens.find? (fun t => t.1 == r.tag) with
  | none => none
  | some t => if t.2.1 + tokenDelay t.2.2 (homeCode s.module r) ≤ s.now then some t else none

/-- A request of another module is performed: its completion token leaves where its route has FEN, then its answer (R232, R395). -/
def State.answerDone (s : State) (link module id : Nat) (r : MReq) (v : Word) (poison : Bool) : State :=
  let a := r.pa % 2 ^ 44
  let s := if r.fen then s.sendAnswer link module a vcReply (.completed id module) else s
  s.answerRemote link module a id v 0 poison

/-- What follows the performance of a request: progress, its token, its acknowledgement and its reply `back` fc later
(R230, R232, R234). -/
def State.complete (s : State) (r : MReq) (v : Word) (poison : Bool) (back : Nat) : State :=
  let s := s.progress r.grp r.ea
  match r.who with
  | .gen _ =>
    let s := if r.out < localOut then s.routeDone r else s
    if r.acc == .ld then s.sendBack r true back [.replyArrival r v poison] else s.after back (.ackArrival r)
  | .flow _ _ => s
  | .core k => s.coreServed k r v
  | .launch lid => s.recordOver lid true
  | .remote link module id =>
    let back := s.answerDelay link module (r.pa % 2 ^ 44)
    if back == 0 then s.answerDone link module id r v poison else s.after back (.replyArrival r v poison)
  | .spill =>
    let s := s.modOut r.ea r.out (fun o => { o with reqs := o.reqs.filter (fun x => x.id != r.id) })
    match r.dlv with
    | some d => s.sendBack r true back [.resultDelivery (Delivery.withValue d v (if poison then .poison else .data))]
    | none => s
  | .firing =>
    if r.out ≥ localOut then
      match r.dlv with
      | some d => s.after back (.resultDelivery (Delivery.withValue d v (if poison then .poison else .data)))
      | none => s
    else
      let s := s.routeDone r
      let s := if r.fen then s.at_ s.now (.orderTokenArrival r.ea r.ofwd r.tag (homeCode s.module r)) else s
      let s := s.after back (.ackArrival r)
      if r.ren then s.sendBack r true back [.replyArrival r v poison] else s

/-- A home refuses a request for the poison of its unit or word (Table 9-3): nothing is performed, and the fault is one of
the group, which names the firing. -/
def State.refuse (s : State) (r : MReq) (parity : Bool) : State :=
  let d := (match r.who with | .gen g => 1 + g | _ => 0) + (if parity then 2 ^ 7 else 0)
  match r.who with
  | .core _ => s
  | .launch lid => s.recordOver lid false
  | .gen _ | .remote _ _ _ => s.failReq r r.ea 0x15 d
  | _ => (s.dropReq r).raiseRec r.grp r.ea r.ea (some r.ctx) (some r.slot) 0x15 true true d r.addr

/-- A poisoned unit that a local load or fill reads is consumed by its firing: a fault of the group (R410). -/
def State.localPoison (s : State) (r : MReq) (p : Bool) : State :=
  if p && r.who != .spill && r.out == localOut && r.who == .firing then
    s.raiseRec r.grp r.ea r.ea (some r.ctx) (some r.slot) 0x15 true true 0 r.addr
  else s

/-! ## Full/empty words (R351 to R355) -/

/-- The deferred request is frozen: its group drains or is fenced, and the port knows of it (R354, R355). -/
def State.frozenReq (s : State) (r : MReq) : Bool :=
  let g := s.group r.grp
  match g.frozen with
  | none => false
  | some f => f + 8 + 48 * dieDist (eaDie g.origin) (stackOf (r.pa % 2 ^ 44) / 2) ≤ s.now

/-- The kind of a full/empty access: a record's store is an stf (R358). -/
def feIsStf (r : MReq) : Bool := r.acc != .lde

/-- The oldest deferred request of a kind at a unit, frozen ones passed over (R354). -/
def State.deferred (s : State) (u : Nat) (stf : Bool) : Option MReq :=
  s.defers.find? (fun r => unitOf (r.pa % 2 ^ 44) == u && feIsStf r == stf && !s.frozenReq r)

/-- A deferral entry is taken off its queue. -/
def State.undefer (s : State) (r : MReq) : State := { s with defers := s.defers.filter (fun x => x.id != r.id) }

/-- An access of the kind lde is performed at a full unit: it empties it. -/
def State.doLde (s : State) (r : MReq) : State :=
  let a := r.pa % 2 ^ 44
  let p := r.pzn || s.poisoned (unitOf a)
  (s.setFull (unitOf a) false).complete r (s.read64 a) p (replyDelay s.module r)

/-- The two stores of a migration record, STATUS first (Table 15-6); the record is written with the second. -/
def State.recordStored (s : State) (r : MReq) : State :=
  if r.aop == 0 then
    let r := { r with id := s.serial, addr := r.addr + 8, aop := 1, v1 := r.v2, issued := s.now, stage := 0, tsize := 0 }
    s.bump.toSlice (s.now + 1) r []
  else s.modCtx r.ea r.ctx (fun c => c.setWait waitMigr false)

/-- An access of the kind stf is performed at an empty unit: it writes clean data and fills it. -/
def State.doStf (s : State) (r : MReq) : State :=
  let a := r.pa % 2 ^ 44
  let s := (s.storeUnit a r.v1).setFull (unitOf a) true
  if r.acc == .record then (s.progress r.grp r.ea).recordStored r else s.complete r 0 false (replyDelay s.module r)

/-- A unit that permits it releases the oldest deferred request of the kind it admits, which is performed (R352). -/
def State.feRelease (s : State) (u : Nat) : State :=
  match s.deferred u (!s.isFull u) with
  | some x => let s := s.undefer x; if feIsStf x then s.doStf x else s.doLde x
  | none => s

/-- A service of units from a local address releases, in queue order, the deferred requests that their units now permit: those that
were frozen when a partner passed (R354; DEDUCED, log 61). -/
def State.feSettle (s : State) (a : Nat) : Nat → State
  | 0 => s
  | n + 1 =>
    let u := unitOf a
    ((s.defers.filter (fun r => unitOf (r.pa % 2 ^ 44) == u)).foldl (fun s _ => s.feRelease u) s).feSettle (8 * (u + 1)) n

/-- Units that an access of `n` bytes touches. -/
def unitsAt (a n : Nat) : Nat := unitOf (a + n - 1) + 1 - unitOf a

/-- A port's deferral entries in use (R353). -/
def State.portDefers (s : State) (a : Nat) : Nat := s.defers.countP (fun r => bankOf (r.pa % 2 ^ 44) == bankOf a)

/-- R352, R353: an lde or stf at its unit is performed, and then releases the oldest deferred partner in the same service; or
it is deferred; or it finds all 64 entries of the port taken. -/
def execFeService (r : MReq) (s : State) : Out1 := .next <|
  let a := r.pa % 2 ^ 44
  let s := s.touch a
  if s.isFull (unitOf a) != feIsStf r then (if feIsStf r then s.doStf r else s.doLde r).feSettle a 1
  else if s.portDefers a ≥ Config.deferEntries then (s.failReq r r.ea 0x14 0).feSettle a 1
  else { s with defers := s.defers ++ [r] }.feSettle a 1

end Sys2Proof.Machine
end

