-- ==== Sys2Proof/Machine/Copy.lean ====
section
/-! DEFINITION. Copies (R245 to R251): the instructions copy and ccan, the flows of a tile hub, and the transfer engine. -/

namespace Sys2Proof.Machine

/-! ## The literal and its checks (R246) -/

/-- Fields of a copy literal (Table 9-8). -/
def cpKind (lit : Word) : Nat := lit.toNat % 4
def cpSsrc (lit : Word) : Bool := lit.getLsbD 2
def cpSpart (lit : Word) : Nat := lit.toNat / 2 ^ 3 % 8
def cpDtx (lit : Word) : Nat := lit.toNat / 2 ^ 6 % 32
def cpDty (lit : Word) : Nat := lit.toNat / 2 ^ 11 % 8
def cpDse (lit : Word) : Nat := lit.toNat / 2 ^ 14 % 16
def cpRing (lit : Word) : Nat := lit.toNat / 2 ^ 18 % 16
def cpTlen (lit : Word) : Nat := 64 * (lit.toNat / 2 ^ 22 % 2 ^ 13 + 1)
def cpLen (lit : Word) : Nat := lit.toNat / 2 ^ 24

/-- The copy that a firing asks for. -/
def copyReq (s : State) (cu : Cursor) (f : SlotF) (a b : Word) : CopyReq :=
  let gn := s.groupNo cu.ea
  let g := s.group gn
  let ring := cpKind f.lit == 0
  ⟨cu.ea, cu.ctx, cu.slot, gn, g.dom, f.da.toNat, ring, cpSsrc f.lit, cpSpart f.lit, a, if ring then 0 else b,
    if ring then b.toNat else cpLen f.lit,
    if ring then seSite (tileAt (g.x + cpDtx f.lit) (g.y + cpDty f.lit)) (cpDse f.lit) else 0,
    cpRing f.lit, tileOf cu.ea, cpTlen f.lit⟩

/-- An address, or that of its last byte, overflows or is not canonical. -/
def spanBad (a : Word) (len : Nat) : Bool :=
  !canonical a || a.toNat + len - 1 ≥ 2 ^ 64 || !canonical (BitVec.ofNat 64 (a.toNat + len - 1))

/-- The fault of a copy's operands: code and aux, in the order of R246. -/
def copyFault (s : State) (lit : Word) (c : CopyReq) : Option (Nat × Word) :=
  let g := s.group c.grp
  let part := (s.hub c.tile).partNow s.now c.spart
  let dstE := s.elem c.dstEa
  if cpKind lit ≥ 2 || (c.ring && lit.toNat / 2 ^ 35 != 0) || (!c.ring && lit.toNat / 2 ^ 6 % 2 ^ 18 != 0) ||
      (!c.ssrc && c.spart != 0) || c.len == 0 || c.len % 64 != 0 ||
      (c.ring && (c.len % c.tlen != 0 || c.len > 2 ^ 40)) || (c.ssrc && part.count == 0) then some (0x01, lit)
  else if c.src.toNat % 64 != 0 then some (0x13, c.src)
  else if !c.ring && c.dst.toNat % 64 != 0 then some (0x13, c.dst)
  else if !c.ssrc && spanBad c.src c.len then some (0x10, c.src)
  else if !c.ring && spanBad c.dst c.len then some (0x10, c.dst)
  else if c.ssrc && c.src.toNat + c.len > part.count * 65536 then some (0x12, c.src)
  else if c.ring && (cpDtx lit ≥ g.w || cpDty lit ≥ g.h || (dstE.ringHandles c.dring).isEmpty ||
      (dstE.ringHandles c.dring).any (fun h => (hrSizeM1 (dstE.work.handle h) + 1) * 64 < c.tlen)) then
    some (0x22, BitVec.ofNat 64 c.dring)
  else none

/-- The lowest FREE flow of a hub. -/
def Hub.freeFlow (h : Hub) : Option Nat := (List.range Config.flows).find? (fun n => (h.flow n).st == .free)

/-- The destination ring of a copy is engine-bound (R179). -/
def ringBound (s : State) (c : CopyReq) : Bool := c.ring && ((s.elem c.dstEa).ring c.dring).bound.isSome

/-- The op-specific condition of copy (R246). -/
def copyReady (s : State) (cu : Cursor) (f : SlotF) : Bool :=
  let c := copyReq s cu f 0 0
  let g := s.group c.grp
  (s.hub c.tile).freeFlow.isSome && (cpDtx f.lit ≥ g.w || cpDty f.lit ≥ g.h || !ringBound s c)

/-- The delay from an element to its tile hub (R245). -/
def hubHops (ea : Nat) : Nat := hops ea (tileOf ea) + 1

/-- R246. -/
def execCopy (f : SlotF) (s : State) : Out1 := .next <|
  match s.cur with
  | none => s
  | some cu =>
    match s.operandFault cu f with
    | some s' => s'
    | none =>
      let x := aluIn s cu f
      let c := copyReq s cu f x.a x.b
      match copyFault s f.lit c with
      | some (code, aux) => s.raiseSync cu code 0 aux
      | none =>
        s.fireWith f (fun cu _ _ s =>
          (s.markPending cu (some f.da.toNat) 0).after (hubHops cu.ea) (.copyFlowTake c))

/-- R250: the cancellation acts at the tile hub. -/
def execCcan (f : SlotF) (s : State) : Out1 :=
  .next (s.fireWith f (fun cu _ _ s => s.after (hubHops cu.ea) (.ccanAtHub (tileOf cu.ea) cu.ea cu.ctx f.sa.toNat)))

/-! ## Taking a flow (R245, R247) -/

/-- A copy takes a flow; a ring copy makes its ring engine-bound, and the binding sets out to the SE (R247). -/
def State.takeFlow (s : State) (n : Nat) (c : CopyReq) : State :=
  let s := s.modFlow c.tile n (fun _ => { Flow.zero with st := .active, c := c })
  if c.ring then
    (s.modElem c.dstEa (fun e => e.setRing c.dring { e.ring c.dring with bound := some (c.tile, n), permits := false })).after
      (hops c.dstEa c.tile) (.ringBindArrival c.tile n)
  else s

/-- Waiting copies take flows, in arrival order. -/
def State.takeCopies (s : State) (tile : Nat) : List CopyReq → State
  | [] => s
  | c :: cs =>
    match (s.hub tile).freeFlow with
    | none => s
    | some n =>
      if ringBound s c then s.takeCopies tile cs
      else ((s.modHub tile (fun h => { h with copies := h.copies.erase c })).takeFlow n c).takeCopies tile cs

/-- R245: a copy reaches its hub. -/
def execCopyFlowTake (c : CopyReq) (s : State) : Out1 := .next <|
  let s := s.modHub c.tile (fun h => { h with copies := h.copies ++ [c] })
  s.takeCopies c.tile (s.hub c.tile).copies

/-- R247: the binding reaches the SE, which sends a permit for each FREE handle of the ring. -/
def execRingBindArrival (tile flow : Nat) (s : State) : Out1 := .next <|
  let c := (s.flow tile flow).c
  let e := s.elem c.dstEa
  if (e.ring c.dring).bound != some (tile, flow) then s
  else
    let free := (e.ringHandles c.dring).filter (fun h => (e.hnd h).st == .free)
    let s := s.modElem c.dstEa (fun e => e.setRing c.dring { e.ring c.dring with permits := true })
    free.foldl (fun s _ => s.after (hops c.dstEa tile) (.permitArrival tile flow)) s

/-- R247. -/
def execPermitArrival (tile flow : Nat) (s : State) : Out1 :=
  .next (if (s.flow tile flow).st == .free then s else s.modFlow tile flow (fun x => { x with permits := x.permits + 1 }))

/-! ## The end of a flow (R249 to R251) -/

/-- The copy status word (Table 9-9). -/
def copyStatus (status code bytes : Nat) : Word := BitVec.ofNat 64 (status + code * 2 ^ 8 + bytes % 2 ^ 41 * 2 ^ 16)

/-- The status of a copy sets out to its token register (R249). -/
def State.tokenWord (s : State) (c : CopyReq) (v : Word) : State :=
  s.after (hubHops c.ea) (.resultDelivery { Delivery.none s ⟨c.ea, c.ctx, c.slot⟩ with reg := some c.reg, value := v })

/-- Handles that a ring copy leaves partly written return to FREE, and the fill pointer steps back to the first (R250). -/
def State.returnHandles (s : State) (f : Flow) : State :=
  if f.c.ring then
    s.modElem f.c.dstEa (fun e =>
      let e := f.handles.foldl (fun e h => e.setHnd h.2.1 .zero) e
      let x := e.ring f.c.dring
      let n := (e.ringHandles f.c.dring).length
      e.setRing f.c.dring ⟨(x.fill + n * f.handles.length - f.handles.length) % n, x.drain, none, false⟩)
  else s

/-- Copies that wait at any hub take what has become free: a flow of their hub, or their ring (R245). -/
def State.takeAllCopies (s : State) : State :=
  (s.hubs.filter (fun h => !h.2.copies.isEmpty)).foldl (fun s h => s.takeCopies h.1 (s.hub h.1).copies) s

/-- A flow returns to FREE; its permits on their way are discarded, and no slice holds it any more (R250). -/
def State.freeFlowNow (s : State) (tile n : Nat) : State :=
  let s := s.returnHandles (s.flow tile n)
  let s := { s with agenda := s.agenda.filter (fun x => x.instr != Instr.permitArrival tile n && x.instr != Instr.ringBindArrival tile n) }
  let s := s.modFlow tile n (fun _ => .zero)
  let s := { s with
    slices := tmap .zero (fun _ (x : Slice) => { x with held := x.held.filter (fun h => h.r.who != Who.flow tile n) }) s.slices }
  s.takeAllCopies

/-- R249: a copy ends and its status word sets out. -/
def execCopyComplete (tile n : Nat) (status code : Byte) (s : State) : Out1 := .next <|
  let f := s.flow tile n
  if f.st == .free then s
  else (s.freeFlowNow tile n).tokenWord f.c (copyStatus status.toNat code.toNat f.bytes)

/-- R250: a cancellation reaches the hub. -/
def execCcanAtHub (tile ea ctx reg : Nat) (s : State) : Out1 := .next <|
  let mine (c : CopyReq) : Bool := c.ea == ea && c.ctx == ctx && c.reg == reg
  match (s.hub tile).copies.find? mine with
  | some c => (s.modHub tile (fun h => { h with copies := h.copies.erase c })).tokenWord c (copyStatus 1 0 0)
  | none =>
    match (List.range Config.flows).find? (fun n => (s.flow tile n).st != .free && mine (s.flow tile n).c) with
    | none => s
    | some n =>
      (s.modFlow tile n (fun x => { x with cancel := some s.now })).flowEnd tile n

/-! ## The transfer engine (R245, R247, R248, R251) -/

/-- A granule of a flow is replaced. -/
def State.setGran (s : State) (tile n : Nat) (x : Gran) : State :=
  s.modFlow tile n (fun f => { f with fly := f.fly.map (fun g => if g.id == x.id then x else g) })

/-- An address of a granule sets out in cycle `at1` to its owning slice, over the route of R155 from its hub (R301). -/
def State.flowAsk (s : State) (at1 tile n id : Nat) (acc : Acc) (a : Word) : State :=
  let c := (s.flow tile n).c
  s.sendParcel at1 tile ((s.group c.grp).owner a) 0 [(0, .tlbLookup { MReq.zero with
    id := id, grp := c.grp, dom := c.dom, ea := c.ea, ctx := c.ctx, slot := c.slot, who := .flow tile n, acc := acc, endp := 0x82,
    addr := a, issued := at1 })]

/-- The handle for the tile of granule `k` of a ring copy: taken at the fill pointer against a permit when the tile begins (R247). -/
def State.takeHandle (s : State) (tile n k : Nat) : Option State :=
  let f := s.flow tile n
  let m := k * 64 / f.c.tlen
  if f.handles.any (fun h => h.1 == m) then some s
  else
    let e := s.elem f.c.dstEa
    match e.ringAt f.c.dring false with
    | none => none
    | some h =>
      if f.permits == 0 || (e.hnd h).st != .free then none
      else
        let s := s.modElem f.c.dstEa (fun e => (e.setHnd h ⟨.filling, 2, none, 0⟩).advanceRing f.c.dring false)
        some (s.modFlow tile n (fun x => { x with permits := x.permits - 1, handles := x.handles ++ [(m, h, 0)] }))

/-- A copy of a group ends with a fault that fences the group, PERMISSION for its context too (R251, R408); the granule `id` is not
performed. -/
def State.copyFence (s : State) (tile n id code : Nat) (aux : Word) : State :=
  let f := s.flow tile n
  if f.code != 0 then (s.flowCode tile n id code).flowEnd tile n
  else if code == 0x12 then
    ((s.flowCode tile n id code).raiseCtx f.c.grp tile ⟨f.c.ea, f.c.ctx, f.c.slot⟩ code 0 aux).flowEnd tile n
  else ((s.flowCode tile n id code).raiseRec f.c.grp tile f.c.ea (some f.c.ctx) (some f.c.slot) code true true 0 aux).flowEnd tile n

/-- A copy ends with a code and nothing else (R251, R356, R409). -/
def State.copyCode (s : State) (tile n id code : Nat) : State := (s.flowCode tile n id code).flowEnd tile n

/-- The code with which a local home refuses a granule: an offline port, or a write to the capacity tier. -/
def State.homeRefuses (s : State) (tile pa : Nat) (write : Bool) : Option Nat :=
  if pa / 2 ^ 44 != s.module then none
  else if regionOf (pa % 2 ^ 44) != .window && (s.homeFault tile (pa % 2 ^ 44)).isSome then some 0x03
  else if write && regionOf (pa % 2 ^ 44) == .capacity then some 0x16
  else none

/-- Granule `k` is begun: the address of its source sets out to its slice; one read from the tile store of the hub itself is there
(R245, R248, R301). -/
def State.beginGranule (s : State) (tile n k : Nat) (src : Option Nat) : State :=
  let f := s.flow tile n
  let id := s.serial
  let off := BitVec.ofNat 64 (64 * k)
  let s := s.bump.modFlow tile n (fun f => { f with
    begun := max f.begun (k + 1), redo := ndel k f.redo, fly := f.fly ++ [⟨id, k, src, none, false, none, f.c.dom, 0, 0, 0, 0⟩] })
  if src.isSome then s.at_ s.now (.copyGranule tile ⟨n, id, .readArrive⟩) else s.flowAsk s.now tile n id .ld (f.c.src + off)

/-- A port of the transfer engine holds a request that its bank's queue has no room for (R173). -/
def State.enginePortHolds (s : State) (tile : Nat) (c : CopyReq) : Bool :=
  (c.ssrc && s.portHolds 24 (storeBank tile)) ||
    (c.ring && (s.portHolds 24 (storeBank c.dstEa) || s.portHolds 4 (seBank c.dstEa)))

/-- The granule that a flow begins next: one taken back, or the next of the copy. -/
def Flow.next (f : Flow) : Option Nat := f.redo.head?.orElse (fun _ => if f.begun * 64 < f.c.len then some f.begun else none)

/-- The turn of a flow: it begins its next granule, a ring copy when there is a handle for it. A source in the tile store that its
partition does not hold any more ends the copy (R176). -/
def State.flowTurn (s : State) (tile n : Nat) : State :=
  let f := s.flow tile n
  match f.next with
  | none => s
  | some k =>
    let so := (f.c.src + BitVec.ofNat 64 (64 * k)).toNat
    let src := if f.c.ssrc then (s.partAddr tile f.c.spart so).map (s.module * 2 ^ 44 + ·) else none
    if f.c.ssrc && src.isNone then s.copyFence tile n s.serial 0x12 (BitVec.ofNat 64 so)
    else match if f.c.ring then s.takeHandle tile n k else some s with
    | none => s
    | some s => s.beginGranule tile n k src

/-- A flow that may begin a granule: ACTIVE, not held back by its end, a missing page or a fence (R245, R251, R405). -/
def State.flowBegins (s : State) (tile n : Nat) : Bool :=
  let f := s.flow tile n
  f.st == .active && !f.halt && f.cancel.isNone && f.code == 0 && f.next.isSome && !(s.group f.c.grp).stopsAt tile &&
    !s.enginePortHolds tile f.c

/-- The transfer engine of a tile begins at most 4 granules in a cycle, at most one of a flow, in round-robin order (R245); flows that a
fence kept from ending end (R405). -/
def State.engineCycle (s : State) (tile : Nat) : State :=
  let h := s.hub tile
  let order := (List.range Config.flows).map (fun i => (h.turn + i) % Config.flows)
  let waits (n : Nat) : Bool := let f := s.flow tile n; f.st == .active && f.fly.isEmpty && f.code == 0 && f.finished
  let s := (order.filter waits).foldl (fun s n => s.flowEnd tile n) s
  let picked := (order.filter (s.flowBegins tile)).take 4
  match picked.getLast? with
  | none => s
  | some l =>
    let s := s.modHub tile (fun h => { h with turn := (l + 1) % Config.flows })
    picked.foldl (fun s n => if s.flowBegins tile n then s.flowTurn tile n else s) s

/-- Units from a local address are read: the bytes and the mark of each (R248, R348). -/
def State.readUnits (s : State) (a : Nat) (pzn : Bool) : Nat → State × List (Nat × Bool)
  | 0 => (s, [])
  | n + 1 =>
    let s := s.touch a
    let u := (s.readNat a 8, pzn || s.poisoned (unitOf a))
    let (s, us) := s.readUnits (a + 8) pzn n
    (s, u :: us)

/-- Bytes that another module sent, as units (R348). -/
def unitsOf (b : List Byte) (poison : Bool) : List (Nat × Bool) :=
  (List.range 8).map (fun i => (((b.drop (8 * i)).take 8).foldr (fun x acc => x.toNat + 256 * acc) 0, poison))

/-- The units of a granule are written, each with its mark (R251, R410). -/
def State.writeGranule (s : State) (a : Nat) : List (Nat × Bool) → State
  | [] => s
  | (v, p) :: vs => ((s.writeNat a 8 v).setPoison (unitOf a) p).writeGranule (a + 8) vs

/-- The port by which an access of the transfer engine enters the home of a local address: the row crossbar of an SE, the hub's
port of a tile store (R171, R175). -/
def enginePort (a : Nat) : Nat :=
  if regionOf a != .window then 0 else if (a - 0xA0000000000) % 0x2000000 < 0x1800000 then 24 else 4

def Flow.gran (f : Flow) (id : Nat) : Option Gran := f.fly.find? (fun x => x.id == id)

/-- The handle that takes a granule of a ring copy, with the tile and the granules landed in it, and the offset there. -/
def Flow.landing (f : Flow) (x : Gran) : Option (Nat × Nat × Nat) × Nat :=
  (f.handles.find? (fun h => h.1 == x.idx * 64 / f.c.tlen), x.idx * 64 % f.c.tlen)

/-- The physical address that a granule is read from or written to: that of its page as it now stands, or of its handle. -/
def State.granAddr (s : State) (f : Flow) (x : Gran) (write : Bool) : Option Nat :=
  if !write then x.src
  else if !f.c.ring then x.dst
  else (f.landing x).1.bind (fun h => (s.handleAddr f.c.dstEa h.2.1 (f.landing x).2).map (s.module * 2 ^ 44 + ·))

/-- The access of a granule as a request to another module (R395). -/
def granReq (f : Flow) (tile n : Nat) (x : Gran) (write : Bool) (pa now : Nat) : MReq :=
  { MReq.zero with
    id := x.id, grp := f.c.grp, dom := f.c.dom, ea := f.c.ea, ctx := f.c.ctx, slot := f.c.slot, who := .flow tile n,
    acc := if write then .st else .ld, endp := 0x82,
    addr := (if write then f.c.dst else f.c.src) + BitVec.ofNat 64 (64 * x.idx), pa := pa, issued := now }

/-- The handle of a granule lies beyond its partition, which has shrunk since (R176), or is gone. -/
def State.granLost (s : State) (tile n : Nat) (x : Gran) : State :=
  let f := s.flow tile n
  match (f.landing x).1 with
  | none => (s.modFlow tile n (fun f => { f with fly := f.fly.erase x })).flowEnd tile n
  | some h => s.copyFence tile n x.id 0x12 (BitVec.ofNat 64 (hrBase ((s.elem f.c.dstEa).work.handle h.2.1) * 64 + (f.landing x).2))

/-- A granule reaches the home of its source or destination: another module's, or the queue of its port, unless the home refuses
it (R251, R356, R409). A poisoned one bound for a ring ends the copy. -/
def State.granArrive (s : State) (tile n : Nat) (x : Gran) (write : Bool) : State :=
  let f := s.flow tile n
  if write && f.c.ring && (x.data.getD []).any (·.2) then
    s.copyFence tile n x.id 0x15 (f.c.src + BitVec.ofNat 64 (64 * x.idx))
  else match s.granAddr f x write with
  | none => s.granLost tile n x
  | some pa =>
    if pa / 2 ^ 44 != s.module then
      let q : Remote := ⟨granReq f tile n x write pa s.now, s.now, none, 0, .held, false⟩
      { s with remotes := s.remotes ++ [q] }.at_ s.now .remoteTimeout
    else match s.homeRefuses tile pa write with
    | some code => s.copyCode tile n x.id code
    | none =>
      let a := pa % 2 ^ 44
      s.bankEnter a (enginePort a) (.copyGranule tile ⟨n, x.id, if write then .writeServed a else .readServed a⟩) none

/-- The way of a granule from its hub to its destination: half of the latency of module memory, or the crossings to the SE of a ring
(R11, R25). -/
def State.granWay (s : State) (tile n : Nat) (x : Gran) : Nat :=
  let f := s.flow tile n
  if f.c.ring then 24 * dieDist (eaDie tile) (eaDie f.c.dstEa) else homeHalf s.module tile (x.dst.getD 0)

/-- A granule has been read, and is back at its hub after `back` fc: it sets out a cycle later, to its ring, or over the slice of its
destination to the home of that (R301). -/
def State.granRead (s : State) (tile n : Nat) (x : Gran) (us : List (Nat × Bool)) (back : Nat) : State :=
  let c := (s.flow tile n).c
  let y := { x with data := some us }
  let s := s.setGran tile n y
  let leaves := s.now + back + 1
  if c.ring then s.at_ (leaves + s.granWay tile n y) (.copyGranule tile ⟨n, x.id, .writeArrive⟩)
  else s.flowAsk leaves tile n x.id .st (c.dst + BitVec.ofNat 64 (64 * x.idx))

/-- The translation of an address of a granule has reached its home: a source is read there; to a destination the granule
goes on, and is written there (R248). -/
def State.flowTranslated (s : State) (r : MReq) : State :=
  match r.who with
  | .flow tile n =>
    match (s.flow tile n).gran r.id with
    | none => s
    | some x =>
      if r.acc == .ld then
        let y := { x with src := some r.pa, pzn := r.pzn, spage := r.tpage, ssize := r.tsize }
        (s.setGran tile n y).granArrive tile n y false
      else
        let y := { x with dst := some r.pa, dpage := r.tpage, dsize := r.tsize }
        (s.setGran tile n y).after (s.granWay tile n y) (.copyGranule tile ⟨n, y.id, .writeArrive⟩)
  | _ => s

/-- A granule is performed: one more, and a tile whose last granule has landed makes its handle FULL (R247). -/
def State.granDone (s : State) (tile n : Nat) (x : Gran) : State :=
  let f := s.flow tile n
  let s := s.modFlow tile n (fun f => { f with fly := f.fly.erase x })
  match f.c.ring, (f.landing x).1 with
  | false, _ => (s.modFlow tile n (fun f => { f with moved := f.moved + 1 })).flowEnd tile n
  | true, none => s.flowEnd tile n
  | true, some h =>
    if (h.2.2 + 1) * 64 == f.c.tlen then
      ((s.handleFull f.c.dstEa h.2.1).modFlow tile n (fun f => { f with moved := f.moved + 1, handles := f.handles.erase h })).flowEnd tile n
    else (s.modFlow tile n (fun f =>
      { f with handles := f.handles.map (fun y => if y.1 == h.1 then (y.1, y.2.1, y.2.2 + 1) else y) })).flowEnd tile n

/-- R245, R248: a granule of a flow goes one step on. A page that has moved since the granule entered its home's queue sends it to
the new home (R360). -/
def execCopyGranule (tile : Nat) (p : GranPart) (s : State) : Out1 := .next <|
  let n := p.flow
  let f := s.flow tile n
  match f.gran p.gran with
  | none => s
  | some x =>
    match p.step with
    | .readArrive => s.granArrive tile n x false
    | .writeArrive => s.granArrive tile n x true
    | .readServed a =>
      if (s.granAddr f x false).map (· % 2 ^ 44) != some a then s.granArrive tile n x false
      else match s.homeRefuses tile (x.src.getD 0) false with
      | some code => s.copyCode tile n x.id code
      | none =>
        let (s, us) := s.readUnits a x.pzn 8
        ((s.feSettle a 8).progress f.c.grp tile).granRead tile n x us (if f.c.ssrc then 10 else homeHalf s.module tile (x.src.getD 0))
    | .writeServed a =>
      if (s.granAddr f x true).map (· % 2 ^ 44) != some a then s.granArrive tile n x true
      else match if f.c.ring then none else s.homeRefuses tile (x.dst.getD 0) true with
      | some code => s.copyCode tile n x.id code
      | none => (((s.writeGranule a (x.data.getD [])).feSettle a 8).progress f.c.grp tile).granDone tile n x
    | .writeBack => s.granDone tile n x

end Sys2Proof.Machine
end

