-- ==== Sys2Proof/Machine/Request.lean ====
section
/-! DEFINITION. Requests (R225 to R235): the instructions ld, st, amo, cas, lde, stf, sbar, spill and fill, the way of a
request to its home, its performance there, full/empty words (R352, R353), replies, acknowledgements and order tokens. -/

namespace Sys2Proof.Machine

/-! ## Acknowledgements (R169, R235, R332) -/

/-- A number leaves the lists that await it; lists that become empty start what waited. -/
def State.ackWaits (s : State) (ea id : Nat) : State :=
  let e := s.elem ea
  let joins := e.joins.filter (fun j => j.waits == [id])
  let bars := e.barWaits.filter (fun b => b.1 == [id])
  let sends := e.sends.filter (fun b => b.1 == [id])
  let s := s.modElem ea (fun e =>
    { e with
      joins := e.joins.map (fun j => { j with waits := ndel id j.waits })
      barWaits := (e.barWaits.filter (fun b => b.1 != [id])).map (fun b => (ndel id b.1, b.2))
      sends := (e.sends.filter (fun b => b.1 != [id])).map (fun b => (ndel id b.1, b.2)) })
  let s := joins.foldl (fun s j => s.after 1 (.joinWordEntry ea j.ctx j.id)) s
  let s := bars.foldl (fun s b => s.sendBar b.2) s
  sends.foldl (fun s b =>
    s.toSlice s.now { b.2 with issued := s.now } []) s

/-- R230: the acknowledgement of a request reaches its element; that of a store stream frees its element. -/
def execAckArrival (r : MReq) (s : State) : Out1 := .next <|
  match r.who with
  | .gen g =>
    (s.modGen r.ea g (fun x => { x with fly := x.fly.filter (fun y => y.id != r.id), last := s.now })).genSettled r.ea g
  | .spill => s
  | _ =>
    let s := s.modCtx r.ea r.ctx (fun c => { c with acks := ndel r.id c.acks, sbarReqs := ndel r.id c.sbarReqs })
    s.ackWaits r.ea r.id

/-- R226: a request credit is back at its route. -/
def execRequestCreditReturn (ea o epoch : Nat) (s : State) : Out1 :=
  .next (if (s.elem ea).epoch == epoch then s.modOut ea o (fun x => { x with reqUsed := x.reqUsed - 1 }) else s)

/-- R232: a completion token enters the order queue of its OFWD route; it serves a request `tokenDelay` after its
predecessor was performed. -/
def execOrderTokenArrival (ea o : Nat) (tag : Byte) (home : Nat) (s : State) : Out1 :=
  .next (s.modOut ea o (fun x => { x with tokens := x.tokens ++ [(tag, s.now, home)], tokRes := x.tokRes - 1 }))

/-! ## Replies (R230) -/

/-- Replies enter RCH in the order of the firings, one in a cycle (R230). -/
def State.flushReplies (s : State) (r : MReq) : State :=
  let reqs := dropDone ((s.elem r.ea).out r.out).reqs
  let s := s.modOut r.ea r.out (fun o => { o with reqs := reqs })
  match reqs with
  | x :: xs =>
    match x.reply with
    | some w =>
      let s := s.modOut r.ea r.out (fun o => { o with reqs := dropDone xs })
      let s := s.modChan r.ea r.rch (fun c => { c with reserved := c.reserved - 1 })
      let q : QWord := ⟨w, .none, s.now⟩
      let s := s.queueWord r.ea r.rch q
      if (dropDone xs).any (fun y => y.reply.isSome) then s.after 1 (.replyArrival { r with id := 0 } 0 false) else s
    | none => s
  | [] => s

/-- An element of a load stream is there (R243): its word fills its place in the output, or goes to the stream unit. -/
def State.genLoaded (s : State) (ea g id : Nat) (v : Word) (poison : Bool) : State :=
  let x := (s.elem ea).gen g
  match x.fly.find? (fun y => y.id == id) with
  | none => s
  | some y =>
    let w := x.word v (if poison then .poison else .data)
    let s := s.modGen ea g (fun x => x.linked v)
    match y.place with
    | some p =>
      ((s.modGen ea g (fun x => { x with fly := x.fly.filter (fun z => z.id != id), last := s.now })).fillPlace ea p.1 p.2 w).genSettled
        ea g
    | none => s.modGen ea g (fun x =>
        { x with fly := x.fly.map (fun z => if z.id == id then { z with word := some w } else z) })

/-- R230: a reply reaches its element. -/
def execReplyArrival (r : MReq) (v : Word) (poison : Bool) (s : State) : Out1 := .next <|
  match r.who with
  | .gen g => s.genLoaded r.ea g r.id v poison
  | .remote link module id => s.answerDone link module id r v poison
  | _ =>
    let w : CWord := ⟨v, r.tag, if poison then .poison else .data⟩
    (s.modOut r.ea r.out (fun o =>
      { o with reqs := o.reqs.map (fun x => if x.id == r.id then { x with reply := some w } else x) })).flushReplies r

/-! ## At the home -/

/-- A store of a migration record where the page is not FE. -/
def State.plainRecord (s : State) (r : MReq) : State :=
  ((s.storeUnit (r.pa % 2 ^ 44) r.v1).progress r.grp r.ea).recordStored r

/-- The packet of a qpush is there (R322): its 128 bytes go to the tile hub, or its poison is a fault of the group. -/
def State.packetThere (s : State) (r : MReq) (b : List Byte) (poison : Bool) : State :=
  let s := (s.progress r.grp r.ea).modCtx r.ea r.ctx (fun c => c.setWait waitQpush false)
  if poison || r.pzn then
    (s.modCtx r.ea r.ctx (fun c => { c with qp := c.qp - 1 })).raiseRec r.grp r.ea r.ea (some r.ctx) (some r.slot) 0x15 true true 0
      r.addr
  else
    { s with reads := tput [] r.id ((b ++ List.replicate 128 0).take 128) s.reads }.after (memBack s.module r) (.qpushEntry r)

/-- The packet read of a qpush is performed at its home (R322). -/
def State.packetRead (s : State) (r : MReq) : State :=
  let a := r.pa % 2 ^ 44
  let s := (List.range 16).foldl (fun s i => s.touch (a + 8 * i)) s
  s.packetThere r (s.readBytes a 128) ((List.range 16).any (fun i => s.poisoned (unitOf (a + 8 * i))))

/-- One access at its home (R229), of a request or of an element of a merged one. -/
def State.performOne (s : State) (r : MReq) : State :=
  match s.access r.acc (r.pa % 2 ^ 44) r.sz r.sx r.aop r.v1 r.v2 r.pzn with
  | none => (s.touch (r.pa % 2 ^ 44)).refuse r false
  | some (s, v, p) =>
    let s := s.localPoison r p
    let s := s.complete r v p (replyDelay s.module r)
    if r.out == localOut && r.acc == .st && r.who == .firing then s.sstDone r.ea r.id else s

/-- The elements of a merged access of a stream (R243), one after the other; a refused store stops the stream: what comes after it in
element order is not performed (Table 9-3, R239). -/
def State.performMerged (s : State) (r : MReq) : Nat → State
  | 0 => s
  | n + 1 =>
    let bad := r.acc == .st && ((s.elem r.ea).gen (match r.who with | .gen g => g | _ => 0)).cut.any (fun k => k < r.id)
    let s := if bad then s.failReq r r.ea 0x15 0 else s.performOne { r with aop := 0 }
    s.performMerged { r with
      id := r.id + 1, pa := r.pa + 2 ^ r.sz, addr := r.addr + BitVec.ofNat 64 (2 ^ r.sz), v1 := r.vals.headD 0,
      vals := r.vals.tail } n

/-- A copy's granule of another module: 64 bytes in one access (R396). -/
def remoteCopyReq (r : MReq) : Bool := r.sz == 6

/-- A copy's granule is read or written for another module in a service of its home, each unit with its mark (R396, R410); what it
answers goes back to the port it came by (R11). -/
def State.performRemoteCopy (s : State) (r : MReq) : State :=
  let a := r.pa % 2 ^ 44
  let back (s : State) (r : MReq) : State :=
    let d := match r.who with
      | .remote link module _ => s.answerDelay link module a
      | _ => 0
    s.after d (.requestPerform { r with stage := 2 })
  if r.acc == .ld then
    let (s, us) := s.readUnits a false 8
    back s { r with vals := us.map (fun u => BitVec.ofNat 64 u.1), v2 := if us.any (·.2) then 1 else 0 }
  else back (s.writeGranule a (r.vals.map (fun v => (v.toNat, r.v2 != 0)))) r

/-- The answer to a copy's granule of another module leaves by its port (R396). -/
def State.answerCopy (s : State) (r : MReq) : State :=
  match r.who with
  | .remote link module id =>
    if r.acc == .ld then s.sendAnswer link module (r.pa % 2 ^ 44) vcCopy (.granule id module (r.vals.flatMap (fun v => (List.range 8).map (fun i => v.extractLsb' (8 * i) 8))) (r.v2 != 0))
    else s.answerRemote link module (r.pa % 2 ^ 44) id 0 0 false
  | _ => s

/-- The element address from whose tile a request's home is reached: of a crest core, of the port of another module. -/
def agentEa (r : MReq) : Nat :=
  match r.who with
  | .core k => 2048 * (k / 4)
  | .remote l _ _ => 2048 * portDie l
  | _ => r.ea

/-- A request finds its home out of service when it is to be performed there: it is not (R409, R435). -/
def State.offHome (s : State) (r : MReq) : Option Nat :=
  if r.endp == 0x82 && r.pa / 2 ^ 44 == s.module then s.homeFault (agentEa r) (r.pa % 2 ^ 44) else none

/-- A request that its home cannot perform ends with PORT_SELECT; an access of a crest core ends without effect (R409, R413). -/
def State.offEnd (s : State) (r : MReq) (d : Nat) : State :=
  match r.who with
  | .core k => s.coreServed k r 0
  | _ => s.failReq r r.ea 0x03 d

/-- The access is performed in a service of its home (R229, R256); a parity error met on the way leaves a load a POISON word and
refuses any other access (Table 9-3). -/
def State.performNow (s : State) (r : MReq) : State :=
  let a := r.pa % 2 ^ 44
  let write := r.acc == .st || r.acc == .amo || r.acc == .cas || r.acc == .stf || r.acc == .record
  match s.offHome r with
  | some d => s.offEnd r d
  | none =>
  if r.endp == 0x82 && write && regionOf a == .capacity then s.failReq r r.ea 0x16 0
  else if r.parity && (r.acc == .ld || r.acc == .lde) then s.complete r 0 true (replyDelay s.module r)
  else if r.parity then s.refuse r true
  else if r.acc == .lde || r.acc == .stf || (r.acc == .record && r.sx) then s.at_ s.now (.feService r)
  else
    let n := match r.who with | .gen _ => max r.aop 1 | _ => 1
    let s :=
      if remoteCopyReq r then s.performRemoteCopy r
      else if r.acc == .packet then s.packetRead r
      else if r.acc == .record then s.plainRecord r
      else match r.who with
        | .gen _ => s.performMerged r n
        | _ => s.performOne r
    s.feSettle a (if r.acc == .packet then 16 else unitsAt a (n * 2 ^ r.sz))

/-- The bytes that a request names at its endpoint: those of its access, a query packet, a Scree record (R367, R386). -/
def reqLen (r : MReq) : Nat :=
  match r.acc with
  | .qry => 256
  | .gat | .sca => 64
  | .qabort => 0
  | _ => 2 ^ r.sz

/-- A request for an engine beneath a stack (R368). -/
def engineAcc (acc : Acc) : Bool :=
  match acc with
  | .qry | .qabort | .gat | .sca => true
  | _ => false

/-- An earlier request of a route overlaps one that has reached its endpoint (R231, R254): by their physical addresses; by their
places in a page of 64 KiB where the earlier one is not translated yet, since two pages may be one frame; by their offsets at an
SE or a tile store. -/
def ReqEnt.overlaps (x : ReqEnt) (r : MReq) : Bool :=
  let meet (a n b m : Nat) : Bool := a < b + m && b < a + n
  let n := x.hi - x.lo
  if r.endp != 0x82 then meet x.lo n r.addr.toNat (reqLen r)
  else match x.pa with
  | some p => meet p n r.pa (reqLen r)
  | none => meet (x.lo % 65536) n (r.addr.toNat % 65536) (reqLen r)

/-- The virtual addresses of the elements of a Scree request, and their size, as its record and index list stand now (R386); none where
they cannot be read. -/
def State.elementsOf (s : State) (r : MReq) : List Int × Nat :=
  let rc := s.readBytes (seAddr r.dst r.addr.toNat) 32
  let iw := if r.aop.testBit 0 then 8 else 4
  let esz := fld rc 0x14 2
  let base := (BitVec.ofNat 64 (fld rc 8 8)).toInt
  ((List.range (min 4096 (fld rc 0x10 4))).filterMap (fun i =>
    let va := BitVec.ofNat 64 (fld rc 0 8 + iw * i)
    match s.walkNow r.dst r.dom (vbits va) with
    | .leaf page _ _ e =>
      let pa := (pteFrame e * 65536 + (vbits va - page * 65536)) % 2 ^ 44
      some (base + sInt (8 * iw) (s.readNat pa iw) * esz)
    | _ => none), esz)

/-- Element bytes of two Scree requests overlap (R389). -/
def State.elementsMeet (s : State) (x y : MReq) : Bool :=
  let a := s.elementsOf x
  let b := s.elementsOf y
  a.1.any (fun u => b.1.any (fun v => u < v + b.2 && v < u + a.2))

/-- Scree requests (R386). -/
def screeAcc (acc : Acc) : Bool := acc == .gat || acc == .sca

/-- An earlier Scree request of the route still waits for its token, and its elements overlap those of this one (R389, R231; log 45). -/
def State.screeBefore (s : State) (r : MReq) (before : List ReqEnt) : Bool :=
  screeAcc r.acc && s.agenda.any (fun x => match x.instr with
    | .requestPerform y =>
      screeAcc y.acc && y.ord && y.ea == r.ea && y.out == r.out && before.any (fun z => z.id == y.id) && s.elementsMeet y r
    | _ => false)

/-- An earlier request of the same route overlaps this one and is not performed (R231): of a firing, or of a generator that sends on
the route. Requests for engines do not wait for one another here, but for a Scree request held for its token: they are ordered where they are
served (R370, R386, R389). A
context's spills and fills are all performed in order (R191). -/
def State.streamBlocked (s : State) (r : MReq) : Bool :=
  let reqs := ((s.elem r.ea).out r.out).reqs
  let before := reqs.takeWhile (fun x => x.id != r.id)
  match r.who with
  | .spill => !before.isEmpty
  | .firing | .gen _ =>
    r.out < localOut && (before.any (fun x => !x.done && !(x.eng && engineAcc r.acc) && x.overlaps r) || s.screeBefore r before)
  | _ => false

/-- The port by which a request enters the bank that holds it (R171, R175). -/
def bankPort (r : MReq) : Nat :=
  match r.who with
  | .gen g => if r.out == localOut then 1 + g else if r.endp == 0x80 then 5 else if r.endp == 0x81 then 24 else 0
  | .spill => if r.endp == 0x80 then 5 else 0
  | _ =>
    if r.out == localOut then (if r.endp == 0x80 then 0 else seIndex r.ea)
    else if r.endp == 0x80 then 5
    else if r.endp == 0x81 then 24
    else 0

/-- The request enters the queue of its home; its route's credit returns when it leaves its entry point (R226). -/
def State.enterHome (s : State) (r : MReq) : State :=
  let credit := if r.out < localOut && r.endp != 0x82 then some (r.ea, r.out, r.epoch) else none
  s.bankEnter (r.pa % 2 ^ 44) (bankPort r) (.requestPerform { r with stage := 1 }) credit

/-- The local address of a request at an SE or tile store, or none where it lies outside (R227). -/
def State.endpointAddr (s : State) (r : MReq) : Option Nat :=
  if r.out == localOut then some r.pa
  else if r.endp == 0x81 then s.partAddr r.dst r.part r.addr.toNat
  else if r.who == .spill then some r.pa
  else if r.addr.toNat + 2 ^ r.sz > (s.elem r.dst).progBytes then none
  else some (seAddr r.dst r.addr.toNat)

/-- A request that has reached its endpoint goes to its home: to a bank, a memory port, a remote module, or an SE's request
table (R370). -/
def State.toHome (s : State) (r : MReq) : State :=
  if engineAcc r.acc then s.at_ s.now (.queryAccept r)
  else if r.endp == 0x82 then
    if r.pa / 2 ^ 44 != s.module then
      -- the home knows nothing of the page's mark: what its poison refuses is refused here (R348)
      if r.pzn && (r.acc == .amo || r.acc == .cas || (r.acc == .st && r.sz < 3)) then s.refuse r false
      else
        let q : Remote := ⟨r, s.now, none, 0, .held, false⟩
        { s with remotes := s.remotes ++ [q] }.at_ s.now .remoteTimeout
    else match s.homeFault r.ea (r.pa % 2 ^ 44) with
      | some d => s.failReq r r.ea 0x03 d
      | none => s.enterHome r
  else match s.endpointAddr r with
    | none => s.failReq r r.dst 0x12 0
    | some a => s.enterHome { r with pa := a }

/-- A request word that comes by a route: of a firing, or of a generator (R233). -/
def routeWord (r : MReq) : Bool :=
  r.out < localOut && (match r.who with | .firing | .gen _ => true | _ => false) && !engineAcc r.acc

/-- A word of a request may arrive with a parity error (R417): the injection armed for the endpoint's channel input. -/
def State.requestParity (s : State) (r : MReq) : State × MReq :=
  if routeWord r && !r.parity then
    let (inj, s) := s.takeInj 3 (if r.endp == 0x82 then tileOf r.ea else r.dst)
    if inj.isSome then (s.logTile r.dst 3 2 true 0, { r with parity := true }) else (s, r)
  else (s, r)

/-- A request whose order token has come is held no more: its credit returns as it leaves its entry point (R226, R232). -/
def State.tokenTaken (s : State) (r : MReq) (t : Byte × Nat × Nat) : State :=
  let s := s.modOut r.ea r.out (fun o => { o with tokens := o.tokens.erase t })
  let s := if r.endp == 0x82 then s.at_ s.now (.requestCreditReturn r.ea r.out r.epoch) else s
  s.toHome { r with ord := false }

/-- R229 to R232: a request at its endpoint waits for its turn in stream order and for its token, then goes to its home; at
its home it is performed. One for another module waits there (R395). The translation of a copy's granule goes back to its flow. -/
def execRequestPerform (r : MReq) (s : State) : Out1 := .next <|
  if isFlow r.who then s.flowTranslated r
  else if r.stage == 1 then s.performNow r
  else if r.stage == 2 then s.answerCopy r
  else
    let (s, r) := s.requestParity r
    if s.streamBlocked r then s.after 1 (.requestPerform r)
    else if r.ord && r.who == .firing && r.out < localOut && !(r.endp == 0x82 && r.pa / 2 ^ 44 != s.module) then
      match s.tokenFor r with
      | none => s.after 1 (.requestPerform r)
      | some t => s.tokenTaken r t
    else s.toHome r

/-! ## Firing a request (R228, R229) -/

/-- The request of a firing on a route (Table 9-1). -/
def routeReq (s : State) (cu : Cursor) (o : Nat) (acc : Acc) (a : Word) (tag : Byte) : MReq :=
  let e := s.elem cu.ea
  let tg := (e.work.route o).target 0
  let gn := s.groupNo cu.ea
  let g := s.group gn
  { MReq.zero with
    id := s.serial, grp := gn, dom := g.dom, ea := cu.ea, ctx := cu.ctx, slot := cu.slot, who := .firing, acc := acc, out := o,
    epoch := e.epoch, endp := tgtCh tg, dst := if tgtCh tg == 0x80 then g.targetEa tg else tileOf (g.targetEa tg),
    part := tgtPart tg, addr := a, sz := tgtSz tg, sx := tgtSext tg, tag := tag, ren := tgtRen tg, rch := tgtRch tg,
    ord := tgtOrd tg, fen := tgtFen tg, ofwd := tgtOfwd tg, issued := s.now }

/-- A request sets out: to its SE or tile store, or by way of its tile hub to its owning slice (R227, R234, R301). -/
def State.sendReq (s : State) (r : MReq) : State :=
  if r.endp == 0x80 then s.sendParcel (s.now + 1) r.ea r.dst 0 [(0, .requestPerform r)]
  else if r.endp == 0x81 then s.sendParcel (s.now + 1) r.ea r.dst 0 [(1, .requestPerform r)]
  else
    let credit : List (Nat × Instr) := if r.out < localOut && !r.ord then [(0, .requestCreditReturn r.ea r.out r.epoch)] else []
    s.toSlice (s.now + 1) r credit

/-- The places of a request in its route: a credit, its place in issue order, a place for its reply and one for its token
(R226). -/
def State.reserveReq (s : State) (r : MReq) (len : Nat) : State :=
  let s := s.modOut r.ea r.out (fun o =>
    { o with
      reqUsed := o.reqUsed + 1
      reqs := o.reqs ++ [⟨r.id, r.addr.toNat, r.addr.toNat + len, none, r.ren, false, none, engineAcc r.acc⟩] })
  let s := if r.ren then s.modChan r.ea r.rch (fun c => { c with reserved := c.reserved + 1 }) else s
  if r.fen then s.modOut r.ea r.ofwd (fun o => { o with tokRes := o.tokRes + 1 }) else s

/-- The address of a request (R229); none where it overflows. -/
def reqAddr (acc : Acc) (a b : Word) : Option Word :=
  if acc == .ld || acc == .lde then
    let x := a.toInt + b.toInt
    if outsideS64 x then none else some (BitVec.ofInt 64 x)
  else some a

/-- The range check of R227 fails. -/
def rangeBad (s : State) (r : MReq) (n : Nat) : Bool :=
  if r.endp == 0x80 then r.addr.toNat + n > (s.elem r.dst).progBytes
  else if r.endp == 0x81 then (s.partAddr r.dst r.part r.addr.toNat).isNone
  else false

/-- The checks of R229 after the address is formed: code, detail, aux. -/
def reqFault (s : State) (r : MReq) (lit : Word) : Option (Nat × Nat × Word) :=
  let n := 2 ^ r.sz
  let isA := r.acc == .amo || r.acc == .cas
  if r.endp == 0x82 && !canonical r.addr then some (0x10, 0, r.addr)
  else if r.addr.toNat % n != 0 then some (0x13, 0, r.addr)
  else if isA && r.sz < 2 then some (0x01, 0, lit)
  else if r.acc == .amo && lit.toNat % 16 > 8 then some (0x01, 0, lit)
  else if r.acc == .cas && r.sz == 2 && lit != 0 then some (0x01, 0, lit)
  else if (r.acc == .lde || r.acc == .stf) && r.sz != 3 then some (0x01, 2, 0)
  else if rangeBad s r n then some (0x12, 0, r.addr)
  else none

/-- The output that a request instruction sends on. -/
def reqOut (f : SlotF) : Nat := if f.da == 17 then f.ob.toNat else f.oa.toNat

/-- The firing of ld, st, amo, cas, lde and stf (R229). -/
def State.fireRequest (s : State) (f : SlotF) (acc : Acc) : State :=
  match s.cur with
  | none => s
  | some cu =>
    match s.operandFault cu f with
    | some s' => s'
    | none =>
      let x := aluIn s cu f
      match reqAddr acc x.a x.b with
      | none => s.raiseSync cu 0x10 1 x.a
      | some a =>
        let r := routeReq s cu (reqOut f) acc a (sentTag s cu f)
        match reqFault s r f.lit with
        | some (code, detail, aux) => s.raiseSync cu code detail aux
        | none =>
          let fl := sourceFlags s cu f
          let r := { r with aop := f.lit.toNat % 16, v1 := x.b, v2 := f.lit }
          let s := ((s.bump.fireBase cu f).raiseFlags cu 2 fl).reserveReq r (2 ^ r.sz)
          let s := s.modCtx cu.ea cu.ctx (fun c => { c with acks := c.acks ++ [r.id] })
          (s.progressAt cu.ea (s.now + 1)).sendReq r

/-- R229. -/
def execLd (f : SlotF) (s : State) : Out1 := .next (s.fireRequest f .ld)
/-- R229. -/
def execSt (f : SlotF) (s : State) : Out1 := .next (s.fireRequest f .st)
/-- R229. -/
def execAmo (f : SlotF) (s : State) : Out1 := .next (s.fireRequest f .amo)
/-- R229. -/
def execCas (f : SlotF) (s : State) : Out1 := .next (s.fireRequest f .cas)
/-- R352. -/
def execLde (f : SlotF) (s : State) : Out1 := .next (s.fireRequest f .lde)
/-- R352. -/
def execStf (f : SlotF) (s : State) : Out1 := .next (s.fireRequest f .stf)

/-- R235: the accesses and generators of the context so far hold back its later access firings. -/
def execSbar (f : SlotF) (s : State) : Out1 :=
  .next (s.fireWith f (fun cu _ _ s =>
    let e := s.elem cu.ea
    let gens := (e.gens.filter (fun p => p.2.ctx == cu.ctx && p.2.awaited)).map (·.1)
    s.modCtx cu.ea cu.ctx (fun c => { c with sbarReqs := c.acks, sbarGens := gens })))

/-! ## Spill and fill (R190, R191) -/

/-- Fields of SPILLBASE (Table 7-6). -/
def sbOff (w : Word) : Nat := w.toNat % 2 ^ 19
def sbSe (w : Word) : Nat := w.toNat / 2 ^ 19 % 16
def sbSize (w : Word) : Nat := w.toNat / 2 ^ 24 % 2 ^ 20

/-- The request of a spill or fill of slot `j` (R191): its fault, or the request. -/
def spillReq (s : State) (cu : Cursor) (j : Nat) (acc : Acc) : Sum (Nat × Nat × Word) MReq :=
  let c := s.ctx cu.ea cu.ctx
  let gn := s.groupNo cu.ea
  let r := { MReq.zero with
    id := s.serial, grp := gn, dom := (s.group gn).dom, ea := cu.ea, ctx := cu.ctx, slot := cu.slot, who := .spill,
    acc := acc, out := spillOut + cu.ctx, epoch := (s.elem cu.ea).epoch, sz := 3, issued := s.now }
  if 8 * j < sbSize c.spillBase then
    let se := seSite (tileOf cu.ea) (sbSe c.spillBase)
    let o := sbOff c.spillBase + 8 * j
    .inr { r with endp := 0x80, dst := se, addr := BitVec.ofNat 64 o, pa := seAddr se o }
  else if c.spillOvf == 0 then .inl (0x12, 1, BitVec.ofNat 64 j)
  else
    let a := c.spillOvf.toNat + 8 * (j - sbSize c.spillBase / 8)
    let w := BitVec.ofNat 64 a
    if a ≥ 2 ^ 64 || !canonical w then .inl (0x10, 0, w) else .inr { r with endp := 0x82, addr := w }

/-- A spill or fill sets out: to the SE's network port, or as a memory access through its slice (R191). -/
def State.sendSpill (s : State) (r : MReq) : State :=
  let s := s.modOut r.ea r.out (fun o =>
    { o with reqs := o.reqs ++ [⟨r.id, r.addr.toNat, r.addr.toNat + 8, none, false, false, none, false⟩] })
  if r.endp == 0x80 then s.sendParcel s.now r.ea r.dst 0 [(0, .requestPerform r)]
  else s.toSlice (s.now + 1) r []

/-- R191. -/
def execSpill (f : SlotF) (s : State) : Out1 := .next <|
  match s.cur with
  | none => s
  | some cu =>
    match s.operandFault cu f with
    | some s' => s'
    | none =>
      let x := aluIn s cu f
      match spillReq s cu x.b.toNat .st with
      | .inl (code, d, aux) => s.raiseSync cu code d aux
      | .inr r =>
        let fl := sourceFlags s cu f
        ((s.bump.fireBase cu f).raiseFlags cu 2 fl).sendSpill { r with v1 := x.a }

/-- R191. -/
def execFill (f : SlotF) (s : State) : Out1 := .next <|
  match s.cur with
  | none => s
  | some cu =>
    match s.operandFault cu f with
    | some s' => s'
    | none =>
      let x := aluIn s cu f
      match spillReq s cu x.a.toNat .ld with
      | .inl (code, d, aux) => s.raiseSync cu code d aux
      | .inr r =>
        let fl := sourceFlags s cu f
        let tag := sentTag s cu f
        let (s, d) := ((s.bump.fireBase cu f).raiseFlags cu 2 fl).promise cu f tag
        s.sendSpill { r with dlv := some d }

end Sys2Proof.Machine
end

