-- ==== Sys2Proof/Machine/Stream.lean ====
section
/-! DEFINITION. Address generators (R236 to R244): the instructions gen and genp, the issue of elements, and the end of a
stream. -/

namespace Sys2Proof.Machine

/-! ## The literal and the shape record -/

/-- Dimension `i` of the shape record at a local address (Table 9-5). -/
def State.shapeDim (s : State) (a i : Nat) : GDim :=
  let b := a + 0x20 + 24 * i
  ⟨s.read64 b, s.readNat (b + 8) 4, s.readNat (b + 12) 4, s.read64 (b + 16)⟩

/-- A dimension with nothing in it. -/
def GDim.isZero (d : GDim) : Bool := d.start == 0 && d.count == 0 && d.extent == 0 && d.stride == 0

/-- A stream as its firing starts it, with the record copied (R237, R242). -/
def genStart (s : State) (cu : Cursor) (lit : Word) (genp : Bool) (sa : Nat) (rounds : Word) : Gen :=
  let a := seAddr cu.ea sa
  { Gen.zero with
    st := .running, ctx := cu.ctx, slot := cu.slot, lit := lit, sa := sa, genp := genp, base := s.read64 a,
    pad := s.read64 (a + 8), esz := s.readNat (a + 0x11) 1, mode := s.readNat (a + 0x12) 1, idx := s.readNat (a + 0x13) 1,
    loff := s.read64 (a + 0x18), dims := (List.range (s.readNat (a + 0x10) 1)).map (s.shapeDim a),
    rounds := rounds.toNat, param := genp, busy := s.now + 8 }

/-- The record at a local address breaks the reserved bytes, or the other limits, of Table 9-5 (R237, R244): code, detail. -/
def recordFault (s : State) (e : Elem) (x : Gen) (a : Nat) : Option (Nat × Nat) :=
  let ndim := s.readNat (a + 0x10) 1
  if s.readNat (a + 0x14) 4 != 0 || s.read64 (a + 0x98) != 0 || x.idx / 64 != 0 then some (0x02, 0)
  else if ndim == 0 || ndim > 5 || x.esz > 3 || x.mode > 2 ||
      !((List.range 5).all (fun i => i < ndim || (s.shapeDim a i).isZero)) || x.dims.any (fun d => d.count == 0) ||
      (x.mode == 1 && !e.bound (x.idx % 32)) || (x.mode == 2 && (ndim != 1 || x.esz != 3)) then some (0x01, 0)
  else if x.genp && gnPsel x.lit > ndim then some (0x01, 2)
  else none

/-- A field of the literal that R242 refuses. -/
def genBad (e : Elem) (lit : Word) (genp : Bool) (mode : Nat) : Bool :=
  let tg := (e.work.route (gnRout lit)).target 0
  lit.toNat / 2 ^ 28 % 16 != 0 || lit.toNat / 2 ^ 40 != 0 || gnDst lit > 32 || gnPsel lit > 5 ||
  (!genp && (gnReos lit || gnPch lit != 0 || gnPsel lit != 0)) ||
  (!gnLoc lit && gnRout lit != 0) || (!gnSt lit && gnSch lit != 0) ||
  (gnSt lit && (mode == 2 || gnDst lit == 32)) ||
  (gnLoc lit && (e.work.route (gnRout lit)).isReq && (tgtRen tg || tgtOrd tg || tgtFen tg))

/-- The channel or output that is missing (R242). An output on a request route counts as one without (DESIGN CHOICE, log 86). -/
def genUnbound (e : Elem) (lit : Word) (genp : Bool) : Option Nat :=
  if gnLoc lit && !(e.work.route (gnRout lit)).isReq then some (gnRout lit)
  else if gnDst lit < 32 && ((e.work.route (gnDst lit)).n == 0 || (e.work.route (gnDst lit)).isReq) then some (gnDst lit)
  else if gnSt lit && !e.bound (gnSch lit) then some (gnSch lit)
  else if genp && !e.bound (gnPch lit) then some (gnPch lit)
  else none

/-- The firing of gen and genp (R242). -/
def State.fireGen (s : State) (f : SlotF) (genp : Bool) : State :=
  match s.cur with
  | none => s
  | some cu =>
    match s.operandFault cu f with
    | some s' => s'
    | none =>
      let x := aluIn s cu f
      let e := s.elem cu.ea
      let sa := x.a.toNat
      let inside := sa % 8 == 0 && sa + 160 ≤ e.progBytes
      let mode := if inside then s.readNat (seAddr cu.ea sa + 0x12) 1 else 0
      if genBad e f.lit genp mode then s.raiseSync cu 0x01 0 f.lit
      else match genUnbound e f.lit genp with
      | some n => s.raiseSync cu 0x06 0 (BitVec.ofNat 64 n)
      | none =>
        if sa % 8 != 0 then s.raiseSync cu 0x13 0 x.a
        else if sa + 160 > e.progBytes then s.raiseSync cu 0x12 0 x.a
        else
          let g := genStart s cu f.lit genp sa (if genp then x.b else 1)
          let g := { g with fault := (recordFault s e g (seAddr cu.ea sa)).map (fun c => (c.1, x.a, c.2)) }
          let fl := sourceFlags s cu f
          let s := (s.fireBase cu f).raiseFlags cu 2 fl
          let s := s.modCtx cu.ea cu.ctx (fun c => { c with sbarGens := ndel (gnG f.lit) c.sbarGens })
          (s.modGen cu.ea (gnG f.lit) (fun _ => g)).after 1 (.genElementIssue cu.ea (gnG f.lit))

/-- R242. -/
def execGen (f : SlotF) (s : State) : Out1 := .next (s.fireGen f false)
/-- R242, R244. -/
def execGenp (f : SlotF) (s : State) : Out1 := .next (s.fireGen f true)

/-- The op-specific condition of gen and genp (R242). -/
def genReady (e : Elem) (lit : Word) : Bool :=
  (e.gen (gnG lit)).st == .idle || (e.gen (gnG lit)).st == .done

/-! ## Elements (R239 to R241) -/

/-- The steps of dimension `i` of element `k` of a round, and of the dimensions above it. -/
def stepsOf : List GDim → Nat → List (GDim × Nat)
  | [], _ => []
  | d :: ds, k => (d, k % d.count) :: stepsOf ds (k / d.count)

/-- The coordinates of element `k` (R239); in indexed mode dimension 0 takes the index popped (R240). -/
def Gen.coords (x : Gen) (k : Nat) : List (GDim × Int) :=
  let cs := (stepsOf x.dims k).map (fun p => (p.1, p.1.start.toInt + (p.2 : Int)))
  match x.x0, cs with
  | some v, (d, _) :: rest => (d, v.toInt) :: rest
  | _, _ => cs

/-- The element lies within the extents. -/
def inExtents (cs : List (GDim × Int)) : Bool := cs.all (fun p => 0 ≤ p.2 && p.2 < (p.1.extent : Int))

/-- The address of an element (R239), none where a step of the sum leaves the signed 64-bit range. -/
def addrOf (a : Int) : List (GDim × Int) → Option Int
  | [] => some a
  | (d, x) :: ps =>
    let p := x * d.stride.toInt
    if outsideS64 x || outsideS64 p || outsideS64 (a + p) then none else addrOf (a + p) ps

/-- What element `k` is: a pad, an address, or an overflow (R239, R241). -/
inductive Elt
  | pad
  | at_ (a : Int)
  | overflow
  deriving DecidableEq, Repr

def Gen.elt (x : Gen) (k : Nat) : Elt :=
  if x.mode == 2 then
    match x.link with
    | some a => .at_ a.toInt
    | none =>
      match x.dims with
      | d :: _ =>
        let p := d.start.toInt * d.stride.toInt
        if outsideS64 p || outsideS64 (x.base.toInt + p) then .overflow else .at_ (x.base.toInt + p)
      | [] => .overflow
  else
    let cs := x.coords k
    if !inExtents cs then .pad
    else match addrOf x.base.toInt cs with
      | some a => .at_ a
      | none => .overflow

/-! ## Output -/

/-- Places left for words of a stream: in DST, or in the buffer of the stream unit (R243). -/
def State.genRoom (s : State) (ea g : Nat) (x : Gen) : Nat :=
  if gnDst x.lit < 32 then s.room ea (gnDst x.lit)
  else 16 - (tget [] g (s.elem ea).gbuf).length - x.fly.length

/-- The EOS of a stream, or of a round (R243, R244), behind the elements on their way; none when there is no room. -/
def State.genEos (s : State) (ea g : Nat) (x : Gen) : Option State :=
  let w := x.word 0 .eos
  if s.genRoom ea g x == 0 then none
  else if gnDst x.lit < 32 then
    let (s, p) := s.reserve ea (gnDst x.lit)
    some (s.fillPlace ea p.1 p.2 w)
  else if x.fly.isEmpty then some (s.modElem ea (fun e => { e with gbuf := tput [] g (tget [] g e.gbuf ++ [w]) e.gbuf }))
  else some (s.bump.modGen ea g (fun y => { y with fly := y.fly ++ [⟨s.serial, none, some w, none⟩] }))

/-- The elements that go to the stream unit in one cycle: the first that is there, and those after it in its 64-byte row, at most 8
(R243). A pad or an EOS lies in no row and goes alone. -/
def feedable : List GFly → List GFly
  | [] => []
  | y :: ys =>
    if y.word.isNone then []
    else if y.row.isNone then [y]
    else y :: (ys.takeWhile (fun z => z.word.isSome && z.row == y.row)).take 7

/-- Words that are there go to the stream unit, in element order (R243). -/
def State.genFeed (s : State) (ea g : Nat) : State :=
  let x := (s.elem ea).gen g
  let ready := feedable x.fly
  if gnDst x.lit != 32 || ready.isEmpty then s
  else
    let s := s.modGen ea g (fun x => { x with fly := x.fly.drop ready.length, last := s.now })
    (s.modElem ea (fun e => { e with gbuf := tput [] g (tget [] g e.gbuf ++ ready.filterMap (·.word)) e.gbuf })).genSettled ea g

/-! ## Issue -/

/-- A stream stops at a fault: the group is fenced, and the record names the starting firing (Table 9-4, R239). The context is
FAULTED where Table 18-2 gives streams no scope of their own. -/
def State.genStop (s : State) (ea g : Nat) (code : Nat) (aux : Word) (detail : Nat) : State :=
  let x := (s.elem ea).gen g
  let s := (s.modGen ea g (fun x => { x with st := .stopped, fault := none, wait := false, halt := false, cut := none })).genSettled ea g
  let s := if code == 0x16 || code == 0x60 || code == 0x61 || code == 0x03 then s.ctxFaulted ea x.ctx else s
  s.raiseRec (s.groupNo ea) ea ea (some x.ctx) (some x.slot) code true true detail aux

/-- The request of an element (R239). -/
def genReq (s : State) (ea g : Nat) (x : Gen) (a : Word) (n : Nat) : MReq :=
  let gn := s.groupNo ea
  let r := { MReq.zero with
    id := s.serial, grp := gn, dom := (s.group gn).dom, ea := ea, ctx := x.ctx, slot := x.slot, who := .gen g,
    acc := if gnSt x.lit then .st else .ld, epoch := (s.elem ea).epoch, addr := a, sz := x.esz, aop := if n > 1 then n else 0,
    v1 := x.val.getD 0, issued := s.now }
  if gnLoc x.lit then
    let tg := ((s.elem ea).work.route (gnRout x.lit)).target 0
    let t := (s.group gn).targetEa tg
    { r with out := gnRout x.lit, endp := tgtCh tg, dst := if tgtCh tg == 0x80 then t else tileOf t, part := tgtPart tg }
  else { r with out := localOut, endp := 0x80, dst := ea, pa := seAddr ea a.toNat }

/-- The fault of an element's address (R229, R227, R239): code, aux. -/
def eltFault (s : State) (ea : Nat) (x : Gen) (a : Int) (r : MReq) : Option (Nat × Word) :=
  let w := BitVec.ofInt 64 a
  let n := 2 ^ x.esz
  if r.endp == 0x82 && !canonical w then some (0x10, w)
  else if w.toNat % n != 0 then some (0x13, w)
  else if r.endp == 0x82 then none
  else if a < 0 then some (0x12, w)
  else if !gnLoc x.lit then (if a.toNat + n > (s.elem ea).progBytes then some (0x12, w) else none)
  else if rangeBad s r n then some (0x12, w)
  else none

/-- An index as dimension 0 takes it (R240). -/
def Gen.useIndex (x : Gen) (v : Word) : Gen :=
  { x with x0 := some (if x.idx / 32 % 2 == 1 then v else (v.setWidth 32).signExtend 64) }

/-- The data words that a channel holds from its head on. -/
def Chan.dataAhead (c : Chan) : List Word :=
  if c.st == .stray then [] else (c.q.takeWhile (fun q => q.word.kind == .data)).map (·.word.data)

/-- Element `k + i` lies next in the 64-byte row that begins the access at `a`, and its index and value are there. -/
def Gen.follows (x : Gen) (a : Int) (idxs vals : List Word) (i : Nat) : Bool :=
  let b := a + (i * 2 ^ x.esz : Nat)
  let y := (if x.mode == 1 then (idxs[i - 1]?).map x.useIndex else some x)
  x.k + i < x.count && a / 64 == b / 64 && (!gnSt x.lit || i ≤ vals.length) &&
    match y with
    | some y => y.elt (x.k + i) == .at_ b
    | none => false

/-- How many elements one access of the SE's own memory takes: those consecutive in both order and bytes within one row, as far as
there is room for their words, or their indices and values are there (R243). -/
def Gen.merge (x : Gen) (a : Int) (idxs vals : List Word) (room : Nat) : Nat :=
  if x.mode == 2 then 1 else 1 + ((List.range' 1 (min 63 (room - 1))).takeWhile (x.follows a idxs vals)).length

/-- The elements on their way after `n` more are issued from address `a`, each load with its place. -/
def State.genFly (s : State) (ea g : Nat) (x : Gen) (a id : Nat) : Nat → State
  | 0 => s
  | n + 1 =>
    let (s, p) := if gnSt x.lit || gnDst x.lit == 32 then (s, none) else let (s, p) := s.reserve ea (gnDst x.lit); (s, some p)
    (s.modGen ea g (fun x => { x with fly := x.fly ++ [⟨id, p, none, some (a / 64)⟩] })).genFly ea g x (a + 2 ^ x.esz) (id + 1) n

/-- `n` words are popped from a channel. -/
def State.popN (s : State) (ea ch : Nat) : Nat → State
  | 0 => s
  | n + 1 => (s.pop ea ch).popN ea ch n

/-- The generator's port of its own SE holds a request (R173). -/
def State.genPortHolds (s : State) (ea g : Nat) (x : Gen) : Bool := !gnLoc x.lit && s.portHolds (1 + g) (seBank ea)

/-- An element, or those of one merged access, is issued at its address. One of module memory counts as taken only once it is
translated: a missing page leaves it the next (Table 9-4). -/
def State.genAccess (s : State) (ea g : Nat) (x : Gen) (a : Int) : State :=
  let w := BitVec.ofInt 64 a
  let room := if gnSt x.lit then 64 else min (s.genRoom ea g x) (if gnDst x.lit == 32 then 8 else 64)
  let idxs := if x.mode == 1 then ((s.elem ea).chan (x.idx % 32)).dataAhead else []
  let vals := if gnSt x.lit then ((s.elem ea).chan (gnSch x.lit)).dataAhead else []
  let n := if gnLoc x.lit || (gnSt x.lit && x.mode == 1 && x.idx % 32 == gnSch x.lit) then 1 else x.merge a idxs vals room
  let r := { genReq s ea g x w n with vals := vals.take (n - 1) }
  match eltFault s ea x a r with
  | some (code, aux) => s.modGen ea g (fun x => { x with fault := some (code, aux, 0) })
  | none =>
    if (gnLoc x.lit && (s.elem ea).reqRoom (gnRout x.lit) == 0) || s.genPortHolds ea g x then s
    else
      let id := s.serial
      let s := { s with serial := s.serial + n }
      let s := s.genFly ea g x w.toNat id n
      let s := s.modGen ea g (fun y =>
        if r.endp == 0x82 then { y with wait := true, busy := s.now + 1 }
        else { y.advance n with wait := x.mode == 2, busy := s.now + 1 })
      let s := if x.mode == 1 then s.popN ea (x.idx % 32) (n - 1) else s
      let s := if gnSt x.lit then s.popN ea (gnSch x.lit) (n - 1) else s
      if gnLoc x.lit then ((s.reserveReq r (2 ^ x.esz)).progressAt ea (s.now + 1)).sendReq r
      else s.bankEnter r.pa (1 + g) (.requestPerform { r with stage := 1 }) none

/-- A pad: delivered by a load, its value dropped by a store (R239). -/
def State.genPad (s : State) (ea g : Nat) (x : Gen) : State :=
  let s := s.modGen ea g (fun y => { y.advance 1 with busy := s.now + 1, last := s.now })
  if gnSt x.lit then s
  else
    let w := x.word x.pad .data
    if gnDst x.lit < 32 then
      let (s, p) := s.reserve ea (gnDst x.lit)
      s.fillPlace ea p.1 p.2 w
    else
      let id := s.serial
      s.bump.modGen ea g (fun y => { y with fly := y.fly ++ [⟨id, none, some w, none⟩] })

/-- The next element, once its index and value are there (R239). -/
def State.genElement (s : State) (ea g : Nat) : State :=
  let x := (s.elem ea).gen g
  if !gnSt x.lit && s.genRoom ea g x == 0 then s
  else match x.elt x.k with
    | .overflow => s.modGen ea g (fun y => { y with fault := some (0x10, BitVec.ofNat 64 x.k, 1) })
    | .pad => s.genPad ea g x
    | .at_ a => s.genAccess ea g x a

/-- What a generator takes from a channel: nothing yet, an end, a fault, or a word. DETAIL is the channel (DESIGN CHOICE, log 89). -/
def State.genPop (s : State) (ea g ch : Nat) (use : Gen → Word → Gen) : State :=
  match ((s.elem ea).chan ch).head with
  | none => s
  | some q =>
    let s := s.pop ea ch
    match q.word.kind with
    | .eos => s.modGen ea g (fun x => { x with ending := true })
    | .poison => s.modGen ea g (fun x => { x with fault := some (0x15, q.word.data, ch) })
    | _ => s.modGen ea g (fun x => use x q.word.data)

/-- A parameter replaces BASE or an extent, and begins a round (R244): where the number of rounds is not given, it shows that the
round before was not the last. -/
def Gen.useParam (x : Gen) (v : Word) : Gen :=
  let x := { x with param := false, round := x.round + 1, eosDue := x.eosDue || (gnReos x.lit && x.rounds == 0 && x.round != 0) }
  if gnPsel x.lit == 0 then { x with base := v }
  else { x with dims := x.dims.zipIdx.map (fun p => if p.2 + 1 == gnPsel x.lit then { p.1 with extent := v.toNat % 2 ^ 32 } else p.1) }

/-- What a running generator does in a cycle in which it may issue. -/
def State.genAct (s : State) (ea g : Nat) : State :=
  let x := (s.elem ea).gen g
  if x.eosDue then
    match s.genEos ea g x with
    | some s => s.modGen ea g (fun y => { y with eosDue := false, busy := s.now + 1 })
    | none => s
  else
    let s := if x.param then s.genPop ea g (gnPch x.lit) Gen.useParam else s
    let x := (s.elem ea).gen g
    if x.param || x.eosDue || x.ending || x.fault.isSome then s
    else
      let s := if x.mode == 1 && x.x0.isNone then s.genPop ea g (x.idx % 32) Gen.useIndex else s
      let x := (s.elem ea).gen g
      if x.ending || x.fault.isSome || (x.mode == 1 && x.x0.isNone) then s
      else
        let s := if gnSt x.lit && x.val.isNone then s.genPop ea g (gnSch x.lit) (fun y v => { y with val := some v }) else s
        let x := (s.elem ea).gen g
        if x.ending || x.fault.isSome || (gnSt x.lit && x.val.isNone) then s else s.genElement ea g

/-- R239 to R244: the cycle of a running generator: it feeds the stream unit, stops at a fault or a missing page once the earlier
elements are performed, ends, or issues its next element. A paused one, or one in a fenced tile, issues nothing; a fault that what it
sent before meets is raised when it is found (R402). -/
def execGenElementIssue (ea g : Nat) (s : State) : Out1 := .next <|
  let s := s.genFeed ea g
  let x := (s.elem ea).gen g
  let again := s.after 1 (.genElementIssue ea g)
  match x.st with
  | .idle | .stopped => s
  | .done => if x.fly.isEmpty then s else again
  | .paused | .running =>
    match x.fault with
    | some (code, aux, d) => if x.ripe then s.genStop ea g code aux d else again
    | none =>
      if x.halt then
        if x.fly.isEmpty then (s.modGen ea g (fun y => { y with st := .stopped })).genSettled ea g else again
      else if x.st == .paused || (s.group (s.groupNo ea)).stopsAt ea then again
      else if x.wait || s.now < x.busy then again
      else if x.ending then (if x.fly.isEmpty then s.at_ s.now (.genStreamEnd ea g) else again)
      else (s.genAct ea g).after 1 (.genElementIssue ea g)

/-- R243: the EOS of a stream, in the cycle after its last element or acknowledgement; it is then DONE. -/
def execGenStreamEnd (ea g : Nat) (s : State) : Out1 := .next <|
  let x := (s.elem ea).gen g
  if (x.st != .running && x.st != .paused) || !x.ending then s
  else if x.st == .paused || (s.group (s.groupNo ea)).stopsAt ea || s.now ≤ x.last then s.after 1 (.genStreamEnd ea g)
  else match s.genEos ea g x with
    | none => s.after 1 (.genStreamEnd ea g)
    | some s => (s.modGen ea g (fun y => { y with st := .done })).genSettled ea g

end Sys2Proof.Machine
end

