-- ==== Sys2Proof/Machine/Matrix.lean ====
section
/-! DEFINITION. Matrix elements (chapter 08): mld.b, mld.bs, mrow, mcfg, mdrain, mls, mclr, the filling of the row queues, the
loading of planes, and the landing and writing of rows. -/

namespace Sys2Proof.Machine

/-! ## The mode word (Table 8-4) -/

def mAfmt (w : Word) : Nat := w.toNat % 16
def mBfmt (w : Word) : Nat := w.toNat / 2 ^ 4 % 16
def mOdt (w : Word) : Nat := w.toNat / 2 ^ 8 % 4
def mWw (w : Word) : Nat := w.toNat / 2 ^ 10 % 8
def mSatm (w : Word) : Bool := w.getLsbD 13
def mFlg (w : Word) : Bool := w.getLsbD 14
def mRed (w : Word) : Bool := w.getLsbD 15
def mSpa (w : Word) : Bool := w.getLsbD 16
def mAccin (w : Word) : Bool := w.getLsbD 17
def mHold (w : Word) : Bool := w.getLsbD 18
def mRows (w : Word) : Nat := w.toNat / 2 ^ 19 % 128 + 1
def mKp (w : Word) : Nat := w.toNat / 2 ^ 26 % 256 + 1
def mAsc (w : Word) : Byte := w.extractLsb' 34 8
def mBsc (w : Word) : Byte := w.extractLsb' 42 8

/-- F8 and OCP formats; integer formats of 8 bits; 16-bit formats. -/
def isF8 (f : Nat) : Bool := 4 ≤ f && f ≤ 7
def isI8 (f : Nat) : Bool := f == 8 || f == 9
def isF16 (f : Nat) : Bool := f == 2 || f == 3

/-- The legal combinations of Table 8-5, with SPA. -/
def modeLegal (w : Word) : Bool :=
  let a := mAfmt w
  let b := mBfmt w
  let int := mOdt w == 3
  (isF8 a && isF8 b && !int) || (isF8 a && b == 11 && !int && !mSpa w) || (isI8 a && isI8 b && int) ||
  (isI8 a && b == 10 && int && !mSpa w) || (isF16 a && isF16 b && !int && !mSpa w)

/-- The row interval of Table 8-5, and I, which redundant mode doubles (R206). -/
def baseInterval (w : Word) : Nat := if isF16 (mAfmt w) then 2 else 1
def rowInterval (w : Word) : Nat := if mRed w then 2 * baseInterval w else baseInterval w

/-- Bytes of an A row and of a plane (Table 8-5). -/
def aRowBytes (w : Word) : Nat := if mSpa w || isF16 (mAfmt w) then 128 else 64
def planeBytes (w : Word) : Nat :=
  if mSpa w then 5120 else if isF16 (mBfmt w) then 8192 else if mBfmt w == 10 then 2048 else 4096

/-- Bytes of an output row, and its stride with the flag tail (R209). -/
def oRowBytes (w : Word) : Nat := if mOdt w == 0 || mOdt w == 3 then 256 else 128
def oStride (w : Word) : Nat := oRowBytes w + (if mFlg w then 64 else 0)

/-! ## The binding (Table 8-2) -/

/-- Byte `i` of a binding record. -/
def bindByte (b : Word × Word) (i : Nat) : Nat :=
  if i < 8 then b.1.toNat / 2 ^ (8 * i) % 256 else b.2.toNat / 2 ^ (8 * (i - 8)) % 256

def bindHas (b : Word × Word) (bit : Nat) : Bool := (bindByte b 10).testBit bit
def bindNoten (b : Word × Word) : Bool := (bindByte b 9).testBit 5
def bindNote (b : Word × Word) : Nat := bindByte b 9 % 32
/-- The SE of the tile that term `i` (byte `i`) names, and its ring. -/
def bindSe (ea : Nat) (b : Word × Word) (i : Nat) : Nat := seSite (tileOf ea) (bindByte b i % 16)
def bindRing (b : Word × Word) (i : Nat) : Nat := bindByte b i / 16

/-! ## The state of an ME -/

def State.me (s : State) (ea : Nat) : Me := (s.elem ea).me
def State.modMe (s : State) (ea : Nat) (f : Me → Me) : State := s.modElem ea (fun e => { e with me := f e.me })

def Me.plane (m : Me) (one : Bool) : MePlane := if one then m.p1 else m.p0
def Me.setPlane (m : Me) (one : Bool) (p : MePlane) : Me := if one then { m with p1 := p } else { m with p0 := p }
def Me.loading (m : Me) : Bool := m.p0.st == .loading || m.p1.st == .loading
/-- Rows in flight: fired and not landed, or not yet written (R207). -/
def Me.inFlight (m : Me) : Bool := !m.fly.isEmpty || !m.outs.isEmpty

/-- ME index of a site of column 3 (R12). -/
def meIndex (ea : Nat) : Nat := eaSy ea

/-- Bytes of a handle's buffer. -/
def Elem.handleBytes (e : Elem) (h : Nat) : Nat := (hrSizeM1 (e.work.handle h) + 1) * 64

/-- The latency of an access to a handle's buffer without waits: 4 in SE memory, 10 in the tile store (R224). -/
def State.handleLat (s : State) (se h : Nat) : Nat := if hrLoc ((s.elem se).work.handle h) == 0 then 4 else 10

/-- The row crossbar of an SE, or the ME's port of the tile store, holds a request; the ME sends no more until it has entered
(R173). -/
def State.mePortHolds (s : State) (ea se : Nat) : Bool :=
  s.portHolds 4 (seBank se) || s.portHolds (16 + meIndex ea) (storeBank (tileOf ea))

/-- A part of a row or plane goes to its bank by the row crossbar: SE port 4, or the ME's port of the tile store (R208). A buffer
that its partition no longer covers is a fault of the group (R176). -/
def State.meAccess (s : State) (ea se h o : Nat) (i : Nat → Instr) : State :=
  match s.handleAddr se h o with
  | none => s.raiseGroup (s.groupNo ea) ea ea 0x12 0 (BitVec.ofNat 64 (hrBase ((s.elem se).work.handle h) * 64 + o))
  | some a => s.bankEnter a (if hrLoc ((s.elem se).work.handle h) == 0 then 4 else 16 + meIndex ea) (i a) none

/-- The output handle: that at the ME's own pointer of the O ring (R209). -/
def State.outHandle (s : State) (ea : Nat) : Option (Nat × Nat) :=
  let e := s.elem ea
  let b := e.work.meb
  let se := bindSe ea b 7
  let hs := (s.elem se).ringHandles (bindRing b 7)
  (hs[e.me.optr % hs.length]?).map (fun h => (se, h))

/-- The output handle takes rows: it is FILLING with OWN 1 (R209). -/
def State.outOpen (s : State) (ea : Nat) : Bool :=
  match s.outHandle ea with
  | none => false
  | some (se, h) => let x := (s.elem se).hnd h; x.st == .filling && x.own == 1

/-- Rows that the output handle takes (R209). -/
def State.outRows (s : State) (ea : Nat) : Nat :=
  match s.outHandle ea with
  | none => 0
  | some (se, h) => (s.elem se).handleBytes h / oStride (s.me ea).mode

/-! ## Eligibility (R207, R211, R215, R219, R220) -/

/-- A swap onto a READY plane is due (R210). -/
def Me.swapDue (m : Me) : Bool := m.rc == 0 && !(mHold m.mode && (m.p0.st == .active || m.p1.st == .active))

/-- The row that the next mrow fires goes to the output. -/
def Me.lastPass (m : Me) : Bool := m.pc + 1 == mKp m.mode

/-- The head of a queue may be used. A poisoned one stays there (DESIGN CHOICE, log 87). -/
def MeQueue.usable (q : MeQueue) (now : Nat) : Bool :=
  match q.rows with
  | [] => false
  | r :: _ => r.parts.length == r.need && !r.bad && r.ready ≤ now

/-- The row completes its handle (R211). -/
def State.rowCompletes (s : State) (ea : Nat) : Bool := (s.me ea).opos + 1 == s.outRows ea

/-- The op-specific condition of mrow (R211). -/
def mrowReady (s : State) (ea : Nat) : Bool :=
  let m := s.me ea
  let b := (s.elem ea).work.meb
  m.mode == 0 ||
  ((match m.last with | some t => t + rowInterval m.mode ≤ s.now | none => true) &&
   m.aq.usable s.now &&
   (if m.swapDue then m.p0.st == .ready || m.p1.st == .ready else m.p0.st == .active || m.p1.st == .active) &&
   (if m.pc == 0 then !mAccin m.mode || m.cq.usable s.now else !m.fly.any (fun x => !x.out && x.j == m.rc)) &&
   (!m.lastPass ||
     (s.outOpen ea && m.opos < s.outRows ea &&
      (!s.rowCompletes ea || !bindNoten b || s.room ea (bindNote b) > 0))))

/-- The op-specific condition of mcfg (R207). -/
def mcfgReady (s : State) (ea : Nat) : Bool := !(s.me ea).inFlight && !(s.me ea).loading

/-- The plane that the next load takes (R215): the EMPTY one that is not ACTIVE, P0 first. -/
def Me.emptyPlane (m : Me) : Option Bool :=
  if m.p0.st == .empty then some false else if m.p1.st == .empty then some true else none

/-- The fault of an mld.b or mld.bs, in the order of the table of R215: code, aux. -/
def mldFault (s : State) (ea : Nat) (sparse : Bool) (lit : Word) : Option (Nat × Word × Nat) :=
  let e := s.elem ea
  let m := e.me
  let se := s.elem (bindSe ea e.work.meb 6)
  let ring := lit.toNat % 16
  if m.mode == 0 || lit.toNat / 2 ^ 5 != 0 || !bindHas e.work.meb 1 then some (0x01, lit, 0)
  else if mSpa m.mode != sparse || (sparse && lit.getLsbD 4) then some (0x01, lit, 0)
  else if (se.ringHandles ring).isEmpty then some (0x22, BitVec.ofNat 64 ring, 0)
  else match se.ringAt ring true with
    | some h => if se.handleBytes h < planeBytes m.mode then some (0x22, se.handleWord h, 1) else none
    | none => none

/-- The op-specific condition of mld.b and mld.bs (R215). -/
def mldReady (s : State) (ea : Nat) (sparse : Bool) (lit : Word) : Bool :=
  (mldFault s ea sparse lit).isSome ||
  (let m := s.me ea
   let se := s.elem (bindSe ea (s.elem ea).work.meb 6)
   m.emptyPlane.isSome && !m.loading &&
   (match se.ringAt (lit.toNat % 16) true with
    | some h => (se.hnd h).st == .full
    | none => false))

/-- A handle that mdrain would report (R219): a full one has its own notice (R209). -/
def drainDue (s : State) (ea : Nat) : Bool := s.outOpen ea && (s.me ea).owr > 0 && !(s.me ea).done

/-- The op-specific condition of mdrain (R219). -/
def mdrainReady (s : State) (ea : Nat) : Bool :=
  let b := (s.elem ea).work.meb
  !(s.me ea).inFlight && (!drainDue s ea || !bindNoten b || s.room ea (bindNote b) > 0)

/-! ## mcfg, mls, mclr -/

/-- The literal of an mcfg is refused (R207). An all-zero literal is never refused (DESIGN CHOICE, log 87). -/
def mcfgBad (b : Word × Word) (w : Word) : Bool :=
  w != 0 &&
  (w.toNat / 2 ^ 50 != 0 || mAfmt w == 0 || !modeLegal w || (mRed w && mSpa w) || (mAccin w && !bindHas b 3) ||
    !bindHas b 0 || !bindHas b 1 || !bindHas b 2)

/-- R207. -/
def execMcfg (f : SlotF) (s : State) : Out1 := .next <|
  match s.cur with
  | none => s
  | some cu =>
    let m := s.me cu.ea
    if mcfgBad (s.elem cu.ea).work.meb f.lit then s.raiseSync cu 0x01 0 f.lit
    else s.fireWith f (fun cu _ _ s =>
      let clear := f.lit == 0 || mBfmt f.lit != mBfmt m.mode || mSpa f.lit != mSpa m.mode
      let s := s.modMe cu.ea (fun m =>
        { m with
          mode := f.lit, rc := 0, pc := 0, poll := m.poll || f.lit != 0
          p0 := if clear then .zero else m.p0
          p1 := if clear then .zero else m.p1 })
      if m.poll || f.lit == 0 then s else s.after 1 (.meQueueFill cu.ea))

/-- R220. -/
def execMls (f : SlotF) (s : State) : Out1 :=
  .next (s.fireWith f (fun cu _ tag s' => s'.deliver cu f f.da 1 (s.me cu.ea).mls .data tag 0))

/-- R220. -/
def execMclr (f : SlotF) (s : State) : Out1 :=
  .next (s.fireWith f (fun cu _ _ s => s.modMe cu.ea (fun m => { m with mls := 0, acc := [], accls := [], accf := [] })))

/-! ## Queues (R208) -/

/-- A queue of the ME: the A queue or the C queue. -/
def Me.queue (m : Me) (isC : Bool) : MeQueue := if isC then m.cq else m.aq
def Me.setQueue (m : Me) (isC : Bool) (q : MeQueue) : Me := if isC then { m with cq := q } else { m with aq := q }

/-- Bytes of a row of a queue. -/
def Me.rowBytes (m : Me) (isC : Bool) : Nat := if isC then 256 else aRowBytes m.mode

/-- The parts of a read sent to their banks. -/
def State.readParts (s : State) (ea se h o : Nat) (i : Nat → Nat → Instr) : List Nat → State
  | [] => s
  | k :: ks => (s.meAccess ea se h (o + 64 * k) (i k)).readParts ea se h o i ks

/-- A queue without a handle takes the one at the ring's drain pointer at the end of a cycle for whose firings it was FULL and in
which no context took it (R208, R222): the event that follows that cycle. A handle too small for a row is bound too (DESIGN
CHOICE, log 87). -/
def State.bindQueue (s : State) (ea : Nat) (isC : Bool) : State :=
  let b := (s.elem ea).work.meb
  let i := if isC then 8 else 5
  let se := bindSe ea b i
  let e := s.elem se
  match e.ringAt (bindRing b i) true with
  | none => s
  | some h =>
    if (e.hnd h).st == .full && (e.hnd h).since + 1 < s.now then
      let s := s.modElem se (fun e => (e.setHnd h ⟨.draining, 3, none, 0⟩).advanceRing (bindRing b i) true)
      s.modMe ea (fun m => m.setQueue isC { m.queue isC with handle := some h, next := 0, served := 0 })
    else s

/-- A queue with room issues its next row read (R208). DESIGN CHOICE (log 87) where an mcfg has changed the size. -/
def State.readRow (s : State) (ea : Nat) (isC : Bool) : State :=
  let m := s.me ea
  let q := m.queue isC
  let n := m.rowBytes isC
  let se := bindSe ea (s.elem ea).work.meb (if isC then 8 else 5)
  match q.handle with
  | none => s
  | some h =>
    if q.rows.length < 16 && !s.mePortHolds ea se && q.next < (s.elem se).handleBytes h / n then
      let id := s.serial
      let row : MeRow := ⟨id, [], n / 64, 0, false⟩
      let s := s.bump.modMe ea (fun m =>
        m.setQueue isC { q with next := q.next + 1, rows := q.rows ++ [row] })
      s.readParts ea se h (q.next * n) (fun k a => .meRowReadServed ea isC id k a) (List.range (n / 64))
    else s

/-- A queue's work in a cycle. -/
def State.fillQueue (s : State) (ea : Nat) (isC : Bool) : State :=
  if !bindHas (s.elem ea).work.meb (if isC then 3 else 0) then s
  else
    let s := if ((s.me ea).queue isC).handle.isNone then s.bindQueue ea isC else s
    s.readRow ea isC

/-- R208: while MODE is set the ME fills its queues, a read a cycle for each; in a fenced tile it issues none (R405). -/
def execMeQueueFill (ea : Nat) (s : State) : Out1 := .next <|
  if (s.me ea).mode == 0 then s.modMe ea (fun m => { m with poll := false })
  else
    let s := if (s.group (s.groupNo ea)).stopsAt ea then s else (s.fillQueue ea false).fillQueue ea true
    s.after 1 (.meQueueFill ea)

/-- 64 bytes read for the ME, and whether a unit of them is poisoned. -/
def State.meRead (s : State) (a : Nat) : State × List Byte × Bool :=
  let s := (List.range 8).foldl (fun s i => s.touch (a + 8 * i)) s
  (s, s.readBytes a 64, (List.range 8).any (fun i => s.poisoned (unitOf a + i)))

/-- A queue with the part of a row that has been served. -/
def MeQueue.serve (q : MeQueue) (id part : Nat) (bytes : List Byte) (bad : Bool) (ready : Nat) : MeQueue :=
  { q with rows := q.rows.map (fun r =>
      if r.id == id then { r with parts := tput [] part bytes r.parts, bad := r.bad || bad, ready := max r.ready ready } else r) }

/-- R208: a part of a row read is served; the handle is FREE once its last row is. Poison is a fault of the group, and the row
is not used (R222). -/
def execMeRowReadServed (ea : Nat) (isC : Bool) (id part addr : Nat) (s : State) : Out1 := .next <|
  let q := (s.me ea).queue isC
  match q.handle, q.rows.find? (fun r => r.id == id) with
  | some h, some row =>
    let se := bindSe ea (s.elem ea).work.meb (if isC then 8 else 5)
    let (s, bytes, bad) := (s.progressAt ea).meRead addr
    let s := if bad && !row.bad then s.raiseGroup (s.groupNo ea) ea ea 0x15 0 ((s.elem se).handleWord h) else s
    let whole := row.parts.length + 1 == row.need
    let q := q.serve id part bytes bad (s.now + s.handleLat se h)
    let q := if whole then { q with served := q.served + 1 } else q
    let rows := (s.elem se).handleBytes h / (s.me ea).rowBytes isC
    if q.served == rows then
      (s.modMe ea (fun m => m.setQueue isC { q with handle := none, next := 0, served := 0 })).handleFree se h
    else s.modMe ea (fun m => m.setQueue isC q)
  | _, _ => s

/-! ## Planes (R214 to R217) -/

/-- Reads of a plane: 64 bytes each, or 128 for 16-bit formats (R215). -/
def planeReads (p : MePlane) : Nat :=
  if p.spa then 80 else if p.fmt == 10 then 32 else 64
def readBytesOf (p : MePlane) : Nat := if isF16 p.fmt then 128 else 64
/-- The offset of a plane's read: the metadata come first (R216). -/
def planeOffset (p : MePlane) (k : Nat) : Nat :=
  if p.spa then (if k < 16 then 4096 + 64 * k else 64 * (k - 16)) else readBytesOf p * k

/-- The bytes of a plane in the order of its handle. -/
def planeByte (p : MePlane) (i : Nat) : Nat :=
  (((tget [] (i / 64) p.bytes)[i % 64]?).map (·.toNat)).getD 0

/-- The state with the handles and rings as the firings of this cycle found them: what an ME's firing judges its SEs by, which fire
in the same cycle (R7, R85). -/
def State.asFound (s : State) : State :=
  s.found.foldl (fun s p => s.modElem p.1 (fun e => { e with handles := p.2.1, rings := p.2.2 })) s

/-- The word of a handle as a firing of this cycle found it, FULL and with no owner (R85, R215; DEDUCED, log 78). -/
def Elem.fullWord (e : Elem) (h : Nat) : Word := (e.setHnd h ⟨.full, 0, none, 0⟩).handleWord h

/-- The firing of mld.b and mld.bs (R215); a context that took the handle in the same cycle leaves it HANDLE_STATE, and so does
another ME (DESIGN CHOICE, log 80). -/
def State.fireMld (s : State) (f : SlotF) (sparse : Bool) : State :=
  match s.cur with
  | none => s
  | some cu =>
    match mldFault s.asFound cu.ea sparse f.lit with
    | some (code, aux, d) => s.raiseSync cu code d aux
    | none =>
      let e := s.elem cu.ea
      let se := bindSe cu.ea e.work.meb 6
      let ring := f.lit.toNat % 16
      match (s.asFound.elem se).ringAt ring true, e.me.emptyPlane with
      | some h, some one =>
        if ((s.elem se).hnd h).st != .full then s.raiseSync cu 0x22 2 ((s.elem se).fullWord h)
        else
          let id := s.serial
          let p := { MePlane.zero with
            st := .loading, load := id, fmt := mBfmt e.me.mode, spa := sparse, tr := f.lit.getLsbD 4,
            rnd := ecwRnd (e.ecwNow s.now), se := se, handle := h }
          let s := s.bump.fireWith f (fun cu _ _ s =>
            (s.modElem se (fun x => (x.setHnd h ⟨.draining, 3, none, 0⟩).advanceRing ring true)).modMe cu.ea
              (fun m => m.setPlane one p))
          s.after 1 (.mePlaneRead cu.ea (id, none))
      | _, _ => s

/-- R215. -/
def execMldB (f : SlotF) (s : State) : Out1 := .next (s.fireMld f false)
/-- R215, R216. -/
def execMldBs (f : SlotF) (s : State) : Out1 := .next (s.fireMld f true)

/-- The plane that is LOADING. -/
def Me.loadingPlane (m : Me) : Option (Bool × MePlane) :=
  if m.p0.st == .loading then some (false, m.p0) else if m.p1.st == .loading then some (true, m.p1) else none

/-- The metadata nibble of group `g` of column `n` (R216). -/
def metaNibble (p : MePlane) (n g : Nat) : Nat := planeByte p (4096 + 16 * n + g / 2) / 16 ^ (g % 2) % 16

/-- The nibble has i0 < i1 (Table 8-8). -/
def nibbleOk (x : Nat) : Bool := x % 4 < x / 4

/-- The first illegal group, in ascending column and then group. -/
def badMeta (p : MePlane) : Option (Nat × Nat) :=
  ((List.range 64).flatMap (fun n => (List.range 32).map (fun g => (n, g)))).find? (fun x => !nibbleOk (metaNibble p x.1 x.2))

/-- The code of element (row `m`, column `n`) of a plane, OCP codes decoded, with its decode flags (R214, R216). -/
def planeElem (p : MePlane) (m n : Nat) : Nat × FlagSet :=
  let x := if p.tr then 64 * n + m else 64 * m + n
  if p.spa then dec (planeByte p (64 * m + n))
  else if p.fmt == 10 then (planeByte p (x / 2) / 16 ^ (x % 2) % 16, 0)
  else if isF16 p.fmt then (planeByte p (2 * x) + 256 * planeByte p (2 * x + 1), 0)
  else dec (planeByte p x)
where
  /-- An 8-bit code, decoded when it is an OCP one. -/
  dec (b : Nat) : Nat × FlagSet :=
    if p.fmt == 6 || p.fmt == 7 then ocpDecode (p.fmt == 7) (rndOf p.rnd) b else (b, 0)

/-- The A position that row `m` of column `n` takes (R212, R216). -/
def planeSel (p : MePlane) (m n : Nat) : Nat :=
  if p.spa then
    let x := metaNibble p n (m / 2)
    4 * (m / 2) + (if m % 2 == 0 then x % 4 else x / 4)
  else m

/-- The plane with its columns formed. -/
def MePlane.form (p : MePlane) : MePlane :=
  let cells := (List.range 64).map (fun n => (List.range 64).map (fun m => planeElem p m n))
  { p with
    st := .ready
    cols := cells.map (fun c => c.map (·.1))
    sel := if p.spa then (List.range 64).map (fun n => (List.range 64).map (fun m => planeSel p m n)) else []
    flags := cells.foldl (fun acc c => c.foldl (fun acc x => acc ||| x.2) acc) 0
    bytes := [] }

/-- A plane that is not loaded is EMPTY, and the ME keeps its handle, DRAINING with OWN 3 (Table 8-3). -/
def State.planeGone (s : State) (ea : Nat) (one : Bool) (p : MePlane) : State :=
  s.modMe ea (fun m => { m.setPlane one .zero with kept := m.kept ++ [(seIndex p.se, p.handle)] })

/-- A load of a plane ends without it, with a fault of the group. -/
def State.planeFail (s : State) (ea : Nat) (one : Bool) (code detail : Nat) (p : MePlane) : State :=
  (s.planeGone ea one p).raiseGroup (s.groupNo ea) ea ea code detail ((s.elem p.se).handleWord p.handle)

/-- The halves of one plane read. -/
def planeParts (p : MePlane) : Nat := readBytesOf p / 64

/-- A plane load's next read, in a cycle in which it may issue (R215). -/
def State.planeIssue (s : State) (ea : Nat) (one : Bool) (p : MePlane) : State :=
  if p.bad || p.issued ≥ planeReads p then s
  else if s.mePortHolds ea p.se then s.after 1 (.mePlaneRead ea (p.load, none))
  else
    let s := s.modMe ea (fun m => m.setPlane one { p with issued := p.issued + 1 })
    let o := planeOffset p p.issued
    let s := s.readParts ea p.se p.handle o (fun k a => .mePlaneRead ea (p.load, some (o / 64 + k, a)))
      (List.range (planeParts p))
    if p.issued + 1 < planeReads p then s.after 1 (.mePlaneRead ea (p.load, none)) else s

/-- A plane read is served (R215, R216, R222): the metadata are checked once the last of them is; the plane is READY after the
last read; poison ends the load once the reads already issued are served. -/
def State.planeServed (s : State) (ea : Nat) (one : Bool) (p : MePlane) (key addr : Nat) : State :=
  let (s, bytes, bad) := (s.progressAt ea).meRead addr
  let s := if bad && !p.bad then s.raiseGroup (s.groupNo ea) ea ea 0x15 0 ((s.elem p.se).handleWord p.handle) else s
  let p := { p with bytes := tput [] key bytes p.bytes, served := p.served + 1, bad := p.bad || bad }
  let s := s.modMe ea (fun m => m.setPlane one p)
  if p.bad then (if p.served == p.issued * planeParts p then s.planeGone ea one p else s)
  else
    let metaDone := p.spa && (List.range 16).all (fun k => (tfind (64 + k) p.bytes).isSome)
    match (if metaDone then badMeta p else none) with
    | some (n, g) => s.planeFail ea one 0x20 (n + 256 * g) p
    | none =>
      if p.served == planeReads p * planeParts p then s.after (s.handleLat p.se p.handle + 1) (.mePlaneReady ea) else s

/-- R215: the plane load of a number issues its next read, or one of its reads is served, at a place of the plane and an address;
what is left of a load that has ended does nothing. -/
def execMePlaneRead (ea : Nat) (read : Nat × Option (Nat × Nat)) (s : State) : Out1 := .next <|
  match (s.me ea).loadingPlane with
  | none => s
  | some (one, p) =>
    if read.1 != p.load then s
    else match read.2 with
    | none =>
      if (s.group (s.groupNo ea)).stopsAt ea then s.after 1 (.mePlaneRead ea read) else s.planeIssue ea one p
    | some (key, addr) => s.planeServed ea one p key addr

/-- R215: the plane is READY and its handle FREE. DESIGN CHOICE (log 62): R204 frees the handle with the step from LOADING to READY,
and the model takes both when the plane is READY, a + 1 after its last read is served. -/
def execMePlaneReady (ea : Nat) (s : State) : Out1 := .next <|
  match (s.me ea).loadingPlane with
  | none => s
  | some (one, p) =>
    if p.served == planeReads p * planeParts p then
      (s.modMe ea (fun m => m.setPlane one p.form)).handleFree p.se p.handle
    else s

/-! ## The row step (R210 to R213, R218) -/

/-- The value of an A or B element under a format (R206). -/
def elemValue (fmt : Nat) (sc : Byte) (x : Nat) : FV :=
  match fmt with
  | 2 => scaleFV (fp16.value x) sc
  | 3 => scaleFV (bf16.value x) sc
  | 4 | 6 => scaleFV (f8e4.value x) sc
  | 5 | 7 => scaleFV (f8e5.value x) sc
  | 11 => p2Value x
  | 8 => intValue (sInt 8 x)
  | 9 => intValue x
  | 10 => intValue (sInt 4 x)
  | _ => intValue x

/-- The integer value of an element. -/
def elemInt (fmt x : Nat) : Int :=
  match fmt with
  | 8 => sInt 8 x
  | 10 => sInt 4 x
  | _ => x

/-- The element codes of an A row, OCP codes decoded, each with its decode flags (R206). -/
def aRow (m : Word) (rnd : Nat) (bytes : List Byte) : List (Nat × FlagSet) :=
  if isF16 (mAfmt m) then pairs bytes
  else bytes.map (fun b =>
    if mAfmt m == 6 || mAfmt m == 7 then ocpDecode (mAfmt m == 7) (rndOf rnd) b.toNat else (b.toNat, 0))
where
  /-- 16-bit elements. -/
  pairs : List Byte → List (Nat × FlagSet)
    | a :: b :: rest => (a.toNat + 256 * b.toNat, 0) :: pairs rest
    | _ => []

/-- 32-bit lanes of a row. -/
def lanes32 : List Byte → List Nat
  | a :: b :: c :: d :: rest => (a.toNat + 256 * b.toNat + 65536 * c.toNat + 16777216 * d.toNat) :: lanes32 rest
  | _ => []

/-- The format of a result (R212). -/
def outFmt (odt : Nat) : Fmt :=
  match odt with
  | 1 => bf16
  | 2 => fp16
  | _ => fp32

/-- One column of a row step: the result and its flags (R212). -/
def mrowColumn (m : Word) (last : Bool) (as : List Nat) (bs : List Nat) (c : Option Nat) : Nat × FlagSet :=
  if mOdt m == 3 then
    let r := wsInt ((as.zip bs).map (fun p => elemInt (mAfmt m) p.1 * elemInt (mBfmt m) p.2))
      ((c.map (sInt 32)).getD 0) (mSatm m)
    (ofInt 32 r.1, r.2)
  else
    let t := (as.zip bs).map (fun p => (mulFV (elemValue (mAfmt m) (mAsc m) p.1) (elemValue (mBfmt m) (mBsc m) p.2)).1)
    windowSum (t ++ (c.map fp32.value).toList) (windowWidth (mWw m)) (outFmt (if last then mOdt m else 0))

/-- A row step of all 64 columns: results, LS mask, flags (R212, R213). -/
def mrowStep (m : Word) (last : Bool) (a : List (Nat × FlagSet)) (p : MePlane) (c : Option (List Nat)) :
    List Nat × Word × FlagSet :=
  let sel (n : Nat) : List (Nat × FlagSet) :=
    if p.spa then ((p.sel[n]?).getD []).map (fun k => (a[k]?).getD (0, 0)) else a
  let cols := (List.range 64).map (fun n =>
    let x := sel n
    let r := mrowColumn m last (x.map (·.1)) ((p.cols[n]?).getD []) (c.map (fun row => (row[n]?).getD 0))
    (r.1, r.2, x.foldl (fun acc y => acc ||| y.2) 0))
  (cols.map (·.1),
   BitVec.ofNat 64 ((List.range 64).foldl (fun acc n =>
     acc + (if ((cols[n]?).map (fun x => x.2.1 &&& flLS != 0)) == some true then 2 ^ n else 0)) 0),
   cols.foldl (fun acc x => acc ||| x.2.1 ||| x.2.2) p.flags)

/-- The planes after the swap that a row makes (R210). -/
def Me.swap (m : Me) : Me :=
  if !m.swapDue then m
  else
    let one := m.p0.st != .ready || (m.p1.st == .ready && m.p1.load < m.p0.load)
    let p := m.plane one
    let q := m.plane (!one)
    (m.setPlane one { p with st := .active }).setPlane (!one) (if q.st == .active then .zero else q)

/-- The counters after a row (R210). -/
def Me.count (m : Me) : Me :=
  if m.rc + 1 < mRows m.mode then { m with rc := m.rc + 1 }
  else if m.pc + 1 < mKp m.mode then { m with rc := 0, pc := m.pc + 1 }
  else { m with rc := 0, pc := 0 }

/-- The bytes of the row at the head of a queue. -/
def MeQueue.headBytes (q : MeQueue) : List Byte :=
  match q.rows with
  | [] => []
  | r :: _ => (List.range r.need).flatMap (fun k => tget [] k r.parts)

/-- The effect of mrow at its firing (R210, R212): rows are popped, the swap is made, the result is formed, and lands later, unless it
is discarded (R218). -/
def Me.step (m : Me) (rnd now : Nat) : Me :=
  let m := m.swap
  let p := if m.p0.st == .active then m.p0 else m.p1
  let last := m.lastPass
  let c := if m.pc > 0 then some (accRow m) else if mAccin m.mode then some (lanes32 m.cq.headBytes) else none
  let r := mrowStep m.mode last (aRow m.mode rnd m.aq.headBytes) p c
  let carry := if m.pc == 0 then 0 else tget 0 m.rc m.accf
  let cls := if m.pc == 0 then 0 else tget 0 m.rc m.accls
  let x : MeFly := ⟨now + 14 + (if mRed m.mode then baseInterval m.mode else 0), m.rc, last, r.1, r.2.1, cls ||| r.2.1, carry ||| r.2.2, m.pc,
    mRed m.mode⟩
  let cq := if m.pc == 0 && mAccin m.mode then { m.cq with rows := m.cq.rows.drop 1 } else m.cq
  { m.count with
    aq := { m.aq with rows := m.aq.rows.drop 1 }, cq := cq, fly := if m.drops then m.fly else m.fly ++ [x], last := some now
    opos := if last && !m.drops then m.opos + 1 else m.opos }
where
  /-- ACC row RC; a row that is not listed holds zeros. -/
  accRow (m : Me) : List Nat :=
    let a := tget [] m.rc m.acc
    if a.isEmpty then List.replicate 64 0 else a

/-- R211, R212. -/
def execMrow (f : SlotF) (s : State) : Out1 := .next <|
  match s.cur with
  | none => s
  | some cu =>
    let m := s.me cu.ea
    if m.mode == 0 then s.raiseSync cu 0x01 0 0
    else
      let b := (s.elem cu.ea).work.meb
      let notes := m.lastPass && s.rowCompletes cu.ea && bindNoten b && !m.drops
      s.fireWith f (fun cu _ _ s =>
        let m' := (s.me cu.ea).step (ecwRnd ((s.elem cu.ea).ecwNow s.now)) s.now
        let s := s.modMe cu.ea (fun _ => m')
        let s := if notes then
            let (s, p) := s.reserve cu.ea (bindNote b)
            s.modMe cu.ea (fun m => { m with note := some p })
          else s
        s.after (14 + (if mRed m.mode then baseInterval m.mode else 0)) (.meRowLand ⟨cu.ea, 0⟩))

/-- The bytes of lanes of `w` bytes, little-endian. -/
def laneBytes (w : Nat) (ls : List Nat) : List Byte :=
  ls.flatMap (fun x => (List.range w).map (fun i => BitVec.ofNat 8 (x / 2 ^ (8 * i))))

/-- An output row with its tail (R209). -/
def outBytes (m : Word) (r : List Nat) (ls : Word) : List Byte :=
  laneBytes (oRowBytes m / 64) r ++ (if mFlg m then laneBytes 8 (ls.toNat :: List.replicate 7 0) else [])

/-- An output row is sent to the handle at the output pointer, part by part, once that is open (R209). -/
def State.writeRow (s : State) (ea : Nat) (x : MeFly) : State :=
  match s.outHandle ea with
  | none => s
  | some (se, h) =>
    let m := s.me ea
    let bytes := outBytes m.mode x.r x.cls
    let n := bytes.length / 64
    let id := s.serial
    let row := m.owr + m.outs.length
    let o : MeOut := ⟨id, se, h, row, bytes, List.range n, x.flags⟩
    let s := s.bump.modMe ea (fun m => { m with outs := m.outs ++ [o] })
    (List.range n).foldl (fun s k => s.after (s.handleLat se h) (.meOutputRowWrite ea id (n + k))) s

/-- R218: the two results of a row differ in the columns `diff`: it writes nothing, the rows after it and those fired from now on are
discarded, with the place that the notice of the last of them holds, and the group faults. A notice of rows fired earlier stays. -/
def State.rowsDiscarded (s : State) (ea : Nat) (x : MeFly) (diff : Word) : State :=
  let m := s.me ea
  let lost := m.fly.any (·.out)
  let s := match m.note with
    | some p => if lost then s.unreserve ea p.1 p.2 else s
    | none => s
  (s.modMe ea (fun m =>
    { m with fly := [], note := if lost then none else m.note, opos := m.opos - m.fly.countP (·.out), drops := true })).raiseGroup
    (s.groupNo ea) ea ea 0x21 (x.j + 256 * x.pc) diff

/-- R212: the row that is due lands: in ACC, or on its way to its output handle; its LS mask joins MLS. A row whose handle is
not open waits (R209). `l.diff` names the columns in which the two halves of a redundant array differ (R218): none in the rows that
mrow sends, since the model's arithmetic does not fail (log 63); an input of the machine that fails may name some. -/
def execMeRowLand (l : RowLand) (s : State) : Out1 := .next <|
  let ea := l.ea
  let m := s.me ea
  match m.fly with
  | [] => s
  | x :: rest =>
    if s.now < x.due then s
    else if x.red && l.diff != 0 then s.rowsDiscarded ea x l.diff
    else if x.out && !s.outOpen ea then s.after 1 (.meRowLand l)
    else
      let s := (s.progressAt ea).modMe ea (fun m =>
        { m with
          fly := rest, mls := m.mls ||| x.ls
          acc := if x.out then m.acc else tput [] x.j x.r m.acc
          accls := if x.out then m.accls else tput 0 x.j x.cls m.accls
          accf := if x.out then m.accf else tput 0 x.j x.flags m.accf })
      if x.out then s.writeRow ea x else s

/-- The notice word (Table 8-6). -/
def noticeWord (h rows : Nat) (fl : FlagSet) (part : Bool) : CWord :=
  ⟨BitVec.ofNat 64 (h + rows * 2 ^ 12 + fl.toNat * 2 ^ 25 + (if part then 2 ^ 31 else 0)), BitVec.ofNat 8 h, .data⟩

/-- The output pointer advances to the next handle of its ring, at position 0 (R209). -/
def State.advanceOut (s : State) (ea : Nat) : State :=
  let b := (s.elem ea).work.meb
  let n := ((s.elem (bindSe ea b 7)).ringHandles (bindRing b 7)).length
  s.modMe ea (fun m => { m with optr := (m.optr + 1) % n, opos := m.opos - m.owr, owr := 0, oflags := 0, note := none, done := false })

/-- A row write that has been performed (R209). -/
def State.rowWritten (s : State) (ea : Nat) (o : MeOut) : State :=
  let s := s.modMe ea (fun m =>
    { m with outs := m.outs.filter (fun x => x.id != o.id), owr := m.owr + 1, oflags := m.oflags ||| o.flags })
  if (s.me ea).owr == s.outRows ea then (s.modMe ea (fun m => { m with done := true })).after 1 (.meNotice ea) else s

/-- The handle that an output row is written into is FILLING with OWN 1 (R209). -/
def State.rowOpen (s : State) (o : MeOut) : Bool :=
  let x := (s.elem o.se).hnd o.handle
  x.st == .filling && x.own == 1

/-- R209: a part of an output row goes to its bank (numbers from the count of parts on), or is written there; while its handle is
not open, or its port holds a request, it waits. -/
def execMeOutputRowWrite (ea id part : Nat) (s : State) : Out1 := .next <|
  match (s.me ea).outs.find? (fun o => o.id == id) with
  | none => s
  | some o =>
    let n := o.bytes.length / 64
    let at_ (k : Nat) : Nat := o.row * o.bytes.length + 64 * k
    if !s.rowOpen o || (part ≥ n && s.mePortHolds ea o.se) then s.after 1 (.meOutputRowWrite ea id (n + part % n))
    else if part ≥ n then s.meAccess ea o.se o.handle (at_ (part - n)) (fun _ => .meOutputRowWrite ea id (part - n))
    else match s.handleAddr o.se o.handle (at_ part) with
    | none => s
    | some a =>
      let s := (s.progressAt ea).writeBytes a ((o.bytes.drop (64 * part)).take 64)
      let s := (List.range 8).foldl (fun s i => s.setPoison (unitOf a + i) false) s
      let o' := { o with left := ndel part o.left }
      if o'.left.isEmpty then s.rowWritten ea o
      else s.modMe ea (fun m => { m with outs := m.outs.map (fun x => if x.id == id then o' else x) })

/-- R209: the notice of a completed handle is sent, and the pointer advances. -/
def execMeNotice (ea : Nat) (s : State) : Out1 := .next <|
  match s.outHandle ea with
  | none => s
  | some (_, h) =>
    let m := s.me ea
    let s := match m.note with
      | some p => s.fillPlace ea p.1 p.2 (noticeWord h m.owr m.oflags false)
      | none => s
    s.advanceOut ea

/-- R219. -/
def execMdrain (f : SlotF) (s : State) : Out1 :=
  .next (s.fireWith f (fun cu _ _ s =>
    let m := s.me cu.ea
    let b := (s.elem cu.ea).work.meb
    match s.outHandle cu.ea with
    | none => s
    | some (_, h) =>
      if !drainDue s.asFound cu.ea then s
      else
        let w := noticeWord h m.owr m.oflags true
        let s := if bindNoten b then
            let (s, p) := s.reserve cu.ea (bindNote b)
            s.after 1 (.resultDelivery { Delivery.none s cu with places := [p], word := w })
          else s
        s.advanceOut cu.ea))


end Sys2Proof.Machine
end

