-- ==== Sys2Proof/Machine/Migrate.lean ====
section
/-! DEFINITION. Migration of pages between tiers (R358 to R360) and the append-log ports (R356, R357). -/

namespace Sys2Proof.Machine

/-! ## migr (R358) -/

/-- A context has at most one migr outstanding (R358). -/
def migrReady (s : State) (cu : Cursor) : Bool := !(s.ctx cu.ea cu.ctx).wait.testBit waitMigr

/-- The checks of a migr's operands, in their order (R358). -/
def migrFault (a b : Word) : Option (Nat × Word) :=
  if a.extractLsb' 1 15 != 0 then some (0x01, a)
  else if !canonical a then some (0x10, a)
  else if b != 0 && !canonical b then some (0x10, b)
  else if b.toNat % 16 != 0 then some (0x13, b)
  else none

/-- The request of a migr: the page, TGT and the record's address. -/
def migrReq (s : State) (cu : Cursor) (a b : Word) : MReq :=
  let gn := s.groupNo cu.ea
  { MReq.zero with
    id := s.serial, grp := gn, dom := (s.group gn).dom, ea := cu.ea, ctx := cu.ctx, slot := cu.slot, acc := .migr,
    out := localOut, endp := 0x82, sz := 3, addr := BitVec.ofNat 64 (a.toNat / 65536 * 65536), aop := a.toNat % 2, v1 := b,
    issued := s.now }

/-- A request waits for the accesses its context fired before, then sets out to its owning slice (R358, R322). -/
def State.sendAfterAcks (s : State) (cu : Cursor) (r : MReq) : State :=
  let waits := (s.ctx cu.ea cu.ctx).acks
  if waits.isEmpty then s.toSlice (s.now + 1) r []
  else s.modElem cu.ea (fun e => { e with sends := e.sends ++ [(waits, r)] })

/-- R358. -/
def execMigr (f : SlotF) (s : State) : Out1 := .next <|
  match s.cur with
  | none => s
  | some cu =>
    match s.operandFault cu f with
    | some s' => s'
    | none =>
      let x := aluIn s cu f
      match migrFault x.a x.b with
      | some (code, aux) => s.raiseSync cu code 0 aux
      | none =>
        s.fireWith f (fun cu x _ s =>
          let r := migrReq s cu x.a x.b
          (s.bump.modCtx cu.ea cu.ctx (fun c => c.setWait waitMigr true)).sendAfterAcks cu r)

/-! ## Frame pools -/

/-- A frame taken from the pool of a tier: the entry at index count - 1 (Table 18-4). -/
def State.takeFrame (s : State) (dom tier : Nat) : Option (Nat × State) :=
  (s.domSlot dom).bind (fun k =>
    let d := s.dom k
    let n := if tier == 0 then d.fastN else d.capN
    let a := if tier == 0 then d.fast else d.cap
    if n == 0 then none
    else
      let f := s.read64 (a.toNat + 8 * (n.toNat - 1))
      let d := if tier == 0 then { d with fastN := n - 1 } else { d with capN := n - 1 }
      some (f.toNat / 65536 * 65536, { s with doms := tput .zero k d s.doms }))

/-- A frame returns to its pool, at the index that the count gives. -/
def State.giveFrame (s : State) (dom tier frame : Nat) : State :=
  match s.domSlot dom with
  | none => s
  | some k =>
    let d := s.dom k
    let n := if tier == 0 then d.fastN else d.capN
    let a := if tier == 0 then d.fast else d.cap
    let d := if tier == 0 then { d with fastN := n + 1 } else { d with capN := n + 1 }
    { s.storeUnit (a.toNat + 8 * n.toNat) (BitVec.ofNat 64 frame) with doms := tput .zero k d s.doms }

/-! ## The copier (R359, Table 15-6) -/

/-- A leaf with another TIER, and with another frame. -/
def pteSetTier (e : Word) (tier : Nat) : Word :=
  (e &&& ~~~(3#64 <<< 7)) ||| (BitVec.ofNat 64 (tier % 4) <<< 7)
def pteSetFrame (e : Word) (frame : Nat) : Word :=
  (e &&& ~~~((BitVec.allOnes 48).setWidth 64 <<< 12)) ||| (BitVec.ofNat 64 (frame / 65536 % 2 ^ 48) <<< 12)

/-- The outcome of a migr is decided: its record is stored, STATUS first, or the migr is over (R358). -/
def State.migrDone (s : State) (m : MigReq) (status code : Nat) : State :=
  if m.record == 0 then s.modCtx m.ea m.ctx (fun c => c.setWait waitMigr false)
  else
    let r := { MReq.zero with
      id := s.serial, grp := m.grp, dom := m.dom, ea := m.ea, ctx := m.ctx, slot := m.slot, acc := .record, out := localOut,
      endp := 0x82, sz := 3, addr := m.record, aop := 0, v1 := BitVec.ofNat 64 (status + 256 * code), v2 := m.page,
      issued := s.now }
    s.bump.toSlice (s.now + 1) r []

/-- The status that refuses a migration, or the leaf that is to move (Table 15-6). A page whose frame lies in another module by now is none
that a base die homes here: it counts as UNMAPPED (log 73). -/
def State.migrCheck (s : State) (m : MigReq) : Sum Nat (Nat × Word) :=
  match s.walkNow m.ea m.dom (vbits m.page) with
  | .missing _ => .inl 1
  | .bad => .inl 1
  | .offline => .inl 1
  | .leaf _ size a e =>
    if ptePzn e || pteFrame e / 2 ^ 28 != s.module then .inl 1
    else if pteTier e == (if m.tgt then 1 else 0) then .inl 2
    else if size != 1 then .inl 3
    else if pteFe e && m.tgt then .inl 4
    else if pteTier e == 2 then .inl 6
    else .inr (a, e)

/-- The cycle in which line number `k` of a pass is copied: a line per fc, bounded by the capacity read rate of Table 1-4 and after the
latency of R356 where the source is CAPACITY (R359, log 34). -/
def Mig.lineDue (x : Mig) (k : Nat) : Nat :=
  x.since + (if pteTier x.leaf == 1 then Config.capacityLatency + ((k + 1) * 1946 + 1023) / 1024 else k + 1)

/-- R358, R359: the copier decides a request and begins the copy. -/
def execMigrationStart (m : MigReq) (s : State) : Out1 := .next <|
  match s.migrCheck m with
  | .inl status => s.migrDone m status 0
  | .inr (a, e) =>
    match s.takeFrame m.dom (if m.tgt then 1 else 0) with
    | none => s.migrDone m 5 0
    | some (new, s) =>
      let id := s.serial
      let x : Mig := ⟨m, a, e, pteFrame e * 65536, new, 0, s.now, 0, List.range 1024⟩
      let s := (s.bump.storeUnit a (pteSetTier e 2))
      { s with migs := s.migs ++ [(id, x)] }.at_ (x.lineDue 0) (.migrationCommit id)

/-- The address lies in a 64 KiB frame. -/
def inFrame (frame a : Nat) : Bool := a / 65536 == frame / 65536

/-- The full bits of one frame move to another with its page (R351). -/
def State.moveFull (s : State) (o n : Nat) : State :=
  { s with
    full := (s.full.filter (fun u => inFrame o (8 * u))).foldl (fun l u => nadd (unitOf (n + 8 * u % 65536)) l)
      (s.full.filter (fun u => !inFrame o (8 * u) && !inFrame n (8 * u))) }

/-- The cells of a run of bytes, by their places in it. -/
def State.cellsIn (s : State) (a n : Nat) : List Host.Cell :=
  (s.mem.filter (fun c => a ≤ c.1 && c.1 < a + n)).map (fun c => (c.1 - a, c.2))

/-- The lines of a frame that another one does not hold as they are: those written since they were copied last (R359). -/
def State.changedLines (s : State) (old new : Nat) : List Nat :=
  let a := s.cellsIn (old % 2 ^ 44) 65536
  let b := s.cellsIn (new % 2 ^ 44) 65536
  if a == b then []
  else (List.range 1024).filter (fun i => a.filter (fun c => c.1 / 64 == i) != b.filter (fun c => c.1 / 64 == i))

/-- A line of 64 bytes is read, with its armed errors met, and copied to another place, clean; it is not where a unit of it is poisoned
(R359, R410). -/
def State.copyLine (s : State) (o n : Nat) : Bool × State :=
  let s := if s.injs.isEmpty then s else (List.range 8).foldl (fun s i => s.touch (o + 8 * i)) s
  if s.poison.any (fun u => u / 8 == o / 64) then (false, s)
  else
    let kept := s.mem.filter (fun c => c.1 / 64 != n / 64)
    (true, { s with
      mem := (s.mem.filter (fun c => c.1 / 64 == o / 64)).foldl (fun m c => tput memDefault (n + c.1 % 64) c.2 m) kept
      poison := s.poison.filter (fun u => u / 8 != n / 64) })

/-- Lines of a frame copied to another, one after the other, to the first uncorrectable error. -/
def State.copyLines (s : State) (old new : Nat) : List Nat → Bool × State
  | [] => (true, s)
  | i :: is =>
    match s.copyLine (old % 2 ^ 44 + 64 * i) (new % 2 ^ 44 + 64 * i) with
    | (false, s) => (false, s)
    | (true, s) => s.copyLines old new is

/-- A physical address follows its page. -/
def movedAddr (old new pa : Nat) : Nat := if inFrame old pa then new + pa % 65536 else pa

/-- An event on its way to the old frame is performed at the new one (R360). -/
def movedEvent (old new : Nat) (i : Instr) : Instr :=
  match i with
  | .requestPerform r =>
    if r.endp == 0x82 && r.tsize != 0 then .requestPerform { r with pa := movedAddr old new r.pa } else .requestPerform r
  | .feService r => .feService { r with pa := movedAddr old new r.pa }
  | i => i

/-- A request that waits at the old home. -/
def waitsAt (old : Nat) (q : BReq) : Bool :=
  match q.instr with
  | .requestPerform r => r.endp == 0x82 && r.tsize != 0 && inFrame old r.pa
  | _ => false

/-- Requests forwarded from the old home enter the queue of the new one in their order (R359). -/
def State.forwardReqs (s : State) (old new : Nat) : List BReq → State
  | [] => s
  | q :: qs =>
    match reqOf (movedEvent old new q.instr) with
    | none => s.forwardReqs old new qs
    | some r => (s.bankEnter (r.pa % 2 ^ 44) q.port (.requestPerform r) q.credit).forwardReqs old new qs

/-- Granules on their way follow the page (R360). -/
def Flow.moved_ (f : Flow) (old new : Nat) : Flow :=
  { f with
    fly := f.fly.map (fun g =>
      { g with
        src := if f.c.ssrc then g.src else g.src.map (movedAddr old new)
        dst := g.dst.map (movedAddr old new) }) }

/-- A request follows its page: its deferral entry, too, is forwarded to the new home (R359). -/
def pageMoved (old new : Nat) (r : MReq) : MReq := { r with pa := movedAddr old new r.pa }

/-- The requests of a port follow the page (R254, R360). -/
def Out.moved (o : Out) (old new : Nat) : Out :=
  { o with reqs := o.reqs.map (fun x => { x with pa := x.pa.map (movedAddr old new) }) }

/-- Everything that has a translation of the page goes on at the new frame, the deferral queues in their order (R359, R360). -/
def State.moveUsers (s : State) (old new : Nat) : State :=
  let waiting := s.banks.flatMap (fun p => p.2.q.filter (waitsAt old))
  let s : State := { s with
    agenda := s.agenda.map (fun x => (⟨x.due, x.key, movedEvent old new x.instr⟩ : Entry))
    defers := s.defers.map (pageMoved old new)
    elems := tmap .zero (fun _ (e : Elem) => { e with outs := tmap .zero (fun _ o => o.moved old new) e.outs }) s.elems
    banks := tmap .zero (fun _ (b : Bank) => { b with q := b.q.filter (fun q => !waitsAt old q) }) s.banks
    hubs := tmap .zero (fun _ (h : Hub) => { h with flows := tmap .zero (fun _ f => f.moved_ old new) h.flows }) s.hubs }
  s.forwardReqs old new waiting

/-- A migration goes on with what is left to copy. -/
def State.setMig (s : State) (id : Nat) (x : Mig) : State :=
  { s with migs := s.migs.map (fun p => if p.1 == id then (id, x) else p) }

/-- An uncorrectable error in the copy: the migration ends with STATUS 7, and the page stays (R359, Table 15-4). -/
def State.migrAbort (s : State) (x : Mig) : State :=
  ((s.storeUnit x.entry x.leaf).giveFrame x.m.dom (if x.m.tgt then 1 else 0) x.new).migrDone x.m 7 0x15

/-- The commit, one instant for the page: the lines still written are copied, the leaf is rewritten from the one that the migration met,
so that a crest core's write of it meanwhile has no effect (R344, log 34), the slices lose the page, and what waits goes on at the new
home (R359). -/
def State.migrCommit (s : State) (x : Mig) : State :=
  let tgt := if x.m.tgt then 1 else 0
  let dom := x.m.dom
  match s.copyLines x.old x.new (s.changedLines x.old x.new) with
  | (false, s) => s.migrAbort x
  | (true, s) =>
    let s := s.moveFull (x.old % 2 ^ 44) (x.new % 2 ^ 44)
    let s := s.storeUnit x.entry (pteSetTier (pteSetFrame x.leaf x.new) tgt)
    let s := (s.invalidate dom (some (vbits x.m.page / 65536))).moveUsers x.old x.new
    (s.giveFrame dom (pteTier x.leaf) x.old).migrDone x.m 0 0

/-- The copy of a migration after a line: the next line of its pass; after the last one a pass over the lines written since, four times
at most; then its commit (R359). -/
def State.migrNext (s : State) (id : Nat) (x : Mig) : State :=
  if !x.lines.isEmpty then (s.setMig id x).at_ (x.lineDue x.count) (.migrationCommit id)
  else
    let again := if x.pass < 4 then s.changedLines x.old x.new else []
    if again.isEmpty then { s with migs := s.migs.filter (fun p => p.1 != id) }.migrCommit x
    else
      let x := { x with pass := x.pass + 1, since := s.now, count := 0, lines := again }
      (s.setMig id x).at_ (x.lineDue 0) (.migrationCommit id)

/-- R359: the copier copies the next line of a migration, and commits it after the last. -/
def execMigrationCommit (id : Nat) (s : State) : Out1 := .next <|
  match s.migs.find? (fun p => p.1 == id) with
  | none => s
  | some (_, x) =>
    match x.lines with
    | [] => s.migrNext id x
    | i :: is =>
      match s.copyLine (x.old % 2 ^ 44 + 64 * i) (x.new % 2 ^ 44 + 64 * i) with
      | (false, s) => { s with migs := s.migs.filter (fun p => p.1 != id) }.migrAbort x
      | (true, s) => s.migrNext id { x with count := x.count + 1, lines := is }

/-! ## Append-log ports (R357) -/

def State.append (s : State) (n : Nat) : Append := tget .zero n s.appends
def State.modAppend (s : State) (n : Nat) (f : Append → Append) : State :=
  { s with appends := tput .zero n (f (s.append n)) s.appends }

/-- Codes of ALSTAT (Table 15-9). -/
abbrev alBusy : Nat := 1
abbrev alDone : Nat := 2
abbrev alRange : Nat := 3
abbrev alPoison : Nat := 4
abbrev alMedia : Nat := 5

/-- ALDST or ALSRC breaks Table 15-9. -/
def appendBad (n : Nat) (x : Append) : Bool :=
  x.dst.toNat % 4096 != 0 || x.dst.toNat / 2 ^ 44 != 0 || x.src.toNat % 4096 != 0 || x.src.toNat / 2 ^ 44 != 0 ||
    regionOf x.dst.toNat != .capacity || capOf x.dst.toNat != n || regionOf x.src.toNat != .hbm

/-- R357: GO issues the append; it commits after the time of a capacity access (log 31). -/
def execAppendGo (n : Nat) (s : State) : Out1 := .next <|
  let x := s.append n
  if x.stat == alBusy then s
  else if appendBad n x then s.modAppend n (fun x => { x with stat := alRange })
  else s.modAppend n (fun x => { x with stat := alBusy, due := s.now + Config.capacityLatency })

/-- The 4 KiB of a source, with its armed errors met. -/
def State.touchUnit4K (s : State) (a : Nat) : State :=
  (s.injs.filter (fun j => j.array == 8 && 8 * j.target / 4096 == a / 4096)).foldl (fun s j => s.touch (8 * j.target)) s

/-- R357: the append commits, or ends with POISON or MEDIA and changes nothing. -/
def execAppendCommit (n : Nat) (mediaFails : Bool) (s : State) : Out1 := .next <|
  let x := s.append n
  if x.stat != alBusy then s
  else
    let src := x.src.toNat
    let dst := x.dst.toNat
    let s := s.touchUnit4K src
    if s.poison.any (fun u => 8 * u / 4096 == src / 4096) then s.modAppend n (fun x => { x with stat := alPoison })
    else if mediaFails then
      (s.logBase (capStack dst) 9 1 false x.dst).modAppend n (fun x => { x with stat := alMedia })
    else
      let kept := s.mem.filter (fun c => c.1 / 4096 != dst / 4096)
      let cells := s.mem.filter (fun c => c.1 / 4096 == src / 4096)
      let s := { s with
        mem := cells.foldl (fun (m : Map Byte) (c : Host.Cell) => tput memDefault (dst + c.1 % 4096) c.2 m) kept
        poison := s.poison.filter (fun u => 8 * u / 4096 != dst / 4096) }
      s.modAppend n (fun x => { x with stat := alDone })

end Sys2Proof.Machine
end

