-- ==== Sys2Proof/Machine/Plane.lean ====
section
/-! DEFINITION. Configuration planes: their checks (R286, Table 2-15), the spill map (R190), and what a plane that becomes
active sets (R81, R88, R153, R161, R181, R188, R202). -/

namespace Sys2Proof.Machine

/-! ## Sites -/

/-- The sites of a tile, in ascending element address. -/
def sitesOf (tile : Nat) : List Nat := (List.range 64).map (fun i => tileOf tile + i)

/-- Numbers put in ascending order. -/
def sortNat : List Nat → List Nat
  | [] => []
  | x :: xs => nadd x (sortNat xs)

/-- The sites of a group, in ascending element address. -/
def Group.sites (g : Group) : List Nat := (sortNat g.tiles).flatMap sitesOf

/-- The tiles of a group are those of element `ea`'s group-relative position; used by records that name it. -/
def Group.inside (g : Group) (x y : Nat) : Bool := x < g.w && y < g.h

/-- The kind of a plane. -/
def Plane.kind (p : Plane) : EKind := ecwKind p.ecw

/-- The plane is the empty one as far as its kind goes. -/
def Plane.isEmpty (p : Plane) : Bool := p.kind == .empty

/-! ## Single items -/

/-- The conditions of Table 2-8 on one ECW, for a site (R38, R39); the number of the check that fails. -/
def ecwCheck (ea : Nat) (w : Word) : Option Nat :=
  let n := w.toNat % 4
  let ctx := (ecwCtxen w).toNat
  if n == 3 then (if w == 3 then none else some 4)
  else if n != physKind ea then some 3
  else if ecwRnd w > 4 || w.getLsbD 23 || w.extractLsb' 33 15 != 0 then some 4
  else if n == 0 && (ecwDepths w > 64 || ecwSpill w != 0) then some 4
  else if n == 1 && (ctx > 3 || ecwDepths w > 64 || ecwSpill w > 128) then some 4
  else if n == 2 && (ctx != 1 || ecwDepths w > 16 || ecwSpill w != 0) then some 4
  else none

/-- A channel entry obeys R151 for channel `c`. -/
def chanOk (c : Nat) (w : Word) : Bool :=
  w.toNat % 256 == c && c < 32 && 1 ≤ chanDepth w && chanDepth w ≤ 4 && chanFmt w ≤ 13 && w.extractLsb' 21 2 == 0 &&
    chanScale w ≤ 15 && w.extractLsb' 32 32 == 0

/-- The reserved bits of a route target (R53, Table 9-1) are 0 and its channel or endpoint code is one of those given. -/
def targetBits (w : Word) : Bool :=
  let k := (tgtCh w).toNat
  if k < 0x20 then w.extractLsb' 40 24 == 0
  else 0x80 ≤ k && k ≤ 0x82 && !w.getLsbD 47 && w.extractLsb' 60 4 == 0

/-- The reserved bits of half `k` of a handle record (Table 7-2). -/
def handleBits (k : Nat) (w : Word) : Bool :=
  if k == 0 then w == 0 || (w.toNat % 256 == 1 && w.extractLsb' 61 3 == 0 && w.toNat / 2 ^ 40 % 256 < 64 && hrRing (w, 0) < 16 &&
    hrLoc (w, 0) ≤ 8)
  else w.extractLsb' 48 16 == 0

/-- The reserved bits of half `k` of an ME binding (Table 8-2). -/
def bindBits (k : Nat) (w : Word) : Bool :=
  if k == 0 then w == 0 || (w.toNat % 256 == 3 && w.toNat / 2 ^ 52 % 16 == 0)
  else w.extractLsb' 14 2 == 0 && w.extractLsb' 20 4 == 0 && w.extractLsb' 24 40 == 0

/-! ## Plane checks (R286) -/

/-- What the checks look at: the group, the plane that each element is to have, the hub's partitions, the declared pools. -/
structure PlaneEnv where
  g : Group
  plane : Nat → Plane
  part : Nat → Nat → Part
  pools : BitVec 8

/-- The use of an output. -/
def routeUse (r : Route) : RouteUse :=
  if r.n == 0 then .unbound else if r.isReq then .request (tgtCh (r.target 0)) else .words

/-- A mask of the bound channels. -/
def boundMask (p : Plane) : BitVec 32 :=
  BitVec.ofNat 32 ((List.range 32).foldl (fun m c => m + (if p.chanWord c == 0 then 0 else 2 ^ c)) 0)

/-- What the checks 7 to 16 of a slot look at. -/
def Plane.env (p : Plane) (pools : BitVec 8) : SlotEnv :=
  ⟨p.kind, ecwCtxen p.ecw, ecwCap p.ecw, boundMask p, (List.range 32).map (fun o => (o, routeUse (p.route o))), pools⟩

/-- The guard's V bit. -/
def SlotW.valid (w : SlotW) : Bool := w.guard.getLsbD 63
/-- The fields of a slot. -/
def SlotW.fields (w : SlotW) : SlotF := slotFields w.guard w.action w.lit
/-- Its opcode. -/
def SlotW.op (w : SlotW) : Nat := opcodeOf w.action

/-- The first of the checks 7 to 16 that a valid slot fails (R42, R43). -/
def SlotW.check (w : SlotW) (env : SlotEnv) : Option Nat :=
  if w.valid then slotCheck env (w.guard.extractLsb' 0 3) w.op w.fields else none

/-- Declared pools, as a mask. -/
def Group.poolMask (g : Group) : BitVec 8 :=
  BitVec.ofNat 8 ((List.range 8).foldl (fun m k => m + (if (tget .zero k g.pools).declared then 2 ^ k else 0)) 0)

/-- Pools that slots may name at run time: those removed since the group was placed are waited for (R97). -/
def Group.poolsKnown (g : Group) : BitVec 8 :=
  BitVec.ofNat 8 ((List.range 8).foldl (fun m k => m + (if (tget .zero k g.pools).known then 2 ^ k else 0)) 0)

/-- The input channels that the routes of an element target, replies among them (R154, R225). -/
def PlaneEnv.targets (v : PlaneEnv) (ea : Nat) : List (Nat × Nat) :=
  let p := v.plane ea
  if p.isEmpty then []
  else (List.range 32).flatMap (fun o =>
    let r := p.route o
    (List.range r.n).flatMap (fun i =>
      let t := r.target i
      if tgtIsReq t then (if tgtRen t then [(ea, tgtRch t)] else []) else [(v.g.targetEa t, (tgtCh t).toNat)]))

/-- The rules of R225 on an endpoint target. -/
def PlaneEnv.endpointOk (v : PlaneEnv) (ea : Nat) (t : Word) : Bool :=
  let p := v.plane ea
  let k := (tgtCh t).toNat
  let inside := v.g.inside (tgtTx t) (tgtTy t) && tgtSx t < 8 && tgtSy t < 8
  let tile := v.g.ea (tgtTx t) (tgtTy t) 0 0
  inside &&
  (if k == 0x80 then physKind (v.g.targetEa t) == 1 && (v.plane (v.g.targetEa t)).kind == .se && tgtPart t == 0
   else if k == 0x81 then tgtSx t == 0 && tgtSy t == 0 && (v.part tile (tgtPart t)).count != 0
   else tgtSx t == 0 && tgtSy t == 0 && tile == tileOf ea && tgtPart t == 0) &&
  (!tgtRen t || p.chanWord (tgtRch t) != 0) &&
  (!tgtFen t || ((p.route (tgtOfwd t)).isReq && tgtOrd ((p.route (tgtOfwd t)).target 0)))

/-- The rules of R154 on a channel target. -/
def PlaneEnv.channelOk (v : PlaneEnv) (t : Word) : Bool :=
  v.g.inside (tgtTx t) (tgtTy t) && tgtSx t < 8 && tgtSy t < 8 &&
    !(v.plane (v.g.targetEa t)).isEmpty && (v.plane (v.g.targetEa t)).chanWord (tgtCh t).toNat != 0

/-- The routes of an element obey R154 and R225; `all` lists the targets of every route of the group. -/
def PlaneEnv.routesOk (v : PlaneEnv) (all : List (Nat × Nat)) (ea : Nat) : Bool :=
  let p := v.plane ea
  (List.range 32).all (fun o =>
    let r := p.route o
    r.n ≤ 8 && (List.range r.n).all (fun i =>
      let t := r.target i
      targetBits t && (if tgtIsReq t then r.n == 1 && v.endpointOk ea t else v.channelOk t))) &&
  (v.targets ea).all (fun x => all.count x ≤ 1)

/-- Two ranges overlap. An empty one inside the other does, too (DESIGN CHOICE, log 68). -/
def overlap (a n b m : Nat) : Bool := a < b + m && b < a + n

/-- Byte range of a handle's buffer. -/
def hrSpan (h : Word × Word) : Nat × Nat := (hrBase h * 64, (hrSizeM1 h + 1) * 64)

/-- The handle records of an element obey R180. -/
def PlaneEnv.handlesOk (v : PlaneEnv) (ea : Nat) : Bool :=
  let p := v.plane ea
  let hs := p.handles.filter (fun x => x.2.1 != 0 || x.2.2 != 0)
  hs.all (fun x =>
    let h := x.2
    let loc := hrLoc h
    handleBits 0 h.1 && handleBits 1 h.2 && hrDeclared h && p.kind == .se && h.1.toNat / 2 ^ 40 % 256 == x.1 &&
    (if loc == 0 then (hrSpan h).1 + (hrSpan h).2 ≤ 0x80000 - 4096 * ecwSpill p.ecw
     else (hrSpan h).1 + (hrSpan h).2 ≤ (v.part (tileOf ea) (loc - 1)).count * 65536) &&
    hs.all (fun y => y.1 == x.1 || hrLoc y.2 != loc || !overlap (hrSpan h).1 (hrSpan h).2 (hrSpan y.2).1 (hrSpan y.2).2))

/-- A ring of an SE has a declared handle. -/
def PlaneEnv.ringDeclared (v : PlaneEnv) (se ring : Nat) : Bool :=
  (v.plane se).handles.any (fun x => hrDeclared x.2 && hrRing x.2 == ring)

/-- A term of a binding (valid bit `bit`, byte `i`) is not given, or names a site that is not empty and a declared ring (R203). -/
def PlaneEnv.bindTerm (v : PlaneEnv) (ea : Nat) (b : Word × Word) (bit i : Nat) (ring : Bool) : Bool :=
  !bindHas b bit || (!(v.plane (bindSe ea b i)).isEmpty && (!ring || v.ringDeclared (bindSe ea b i) (bindRing b i)))

/-- Two terms that are given name the same ring of the same SE. -/
def bindSame (b : Word × Word) (bit i bit' i' : Nat) : Bool := bindHas b bit && bindHas b bit' && bindByte b i == bindByte b i'

/-- The ME binding of an element obeys R203. -/
def PlaneEnv.bindOk (v : PlaneEnv) (ea : Nat) : Bool :=
  let p := v.plane ea
  let b := p.meb
  if b.1 == 0 && b.2 == 0 then true
  else
    bindBits 0 b.1 && bindBits 1 b.2 && b.1.toNat % 256 == 3 && p.kind == .me &&
    v.bindTerm ea b 0 5 true && v.bindTerm ea b 1 6 false && v.bindTerm ea b 2 7 true && v.bindTerm ea b 3 8 true &&
    (!bindNoten b || (p.route (bindNote b)).n != 0) && !bindSame b 0 5 3 8 && !bindSame b 2 7 0 5 && !bindSame b 2 7 3 8

/-- The sum of the depths of the bound channels (R149). -/
def Plane.depthSum (p : Plane) : Nat := p.chans.foldl (fun n c => n + chanDepth c.2) 0

/-- The first check that an element fails (R286, Table 2-15); `kid` is the KID16 that a non-empty ECW must hold. -/
def PlaneEnv.elemCheck (v : PlaneEnv) (all : List (Nat × Nat)) (kid : BitVec 16) (ea : Nat) : Option Nat :=
  let p := v.plane ea
  if p.isEmpty then (if p.ecw == 3 then none else some 4)
  else if !v.handlesOk ea || !v.bindOk ea then some 1
  else match ecwCheck ea p.ecw with
  | some k => some k
  | none =>
    if ecwDepths p.ecw != p.depthSum || ecwKid p.ecw != kid then some 4
    else if !p.chans.all (fun c => chanOk c.1 c.2) then some 9
    else
      let env := p.env v.pools
      match (List.range (slotsOf p.kind)).findSome? (fun n => (p.slot n).check env) with
      | some k => some k
      | none => if v.routesOk all ea then none else some 9

/-- The first failing element in ascending element address, and its check (R286). -/
def PlaneEnv.check (v : PlaneEnv) (kid : BitVec 16) (eas : List Nat) : Option (Nat × Nat) :=
  let all := v.g.sites.flatMap v.targets
  eas.findSome? (fun ea => (v.elemCheck all kid ea).map (fun k => (k, ea)))

/-- The environment of a command: shadow planes of `eas`, the active plane of every other element (R286). -/
def State.planeEnv (s : State) (g : Group) (eas : List Nat) : PlaneEnv where
  g := g
  plane := fun ea => if eas.contains ea then (s.elem ea).shadow else (s.elem ea).active
  part := fun tile p => (s.hub tile).part p
  pools := g.poolMask

/-! ## The spill map (R190) -/

/-- The TE contexts enabled in a tile, as element and context, in their order. -/
def State.teContexts (s : State) (tile : Nat) : List (Nat × Nat) :=
  (sitesOf tile).flatMap (fun ea =>
    let e := s.elem ea
    if e.kind == .te then ((List.range 4).filter (fun c => (ecwCtxen e.work.ecw).getLsbD c)).map (fun c => (ea, c)) else [])

/-- The carve-outs of a tile in ascending SE index: index, first byte, bytes (R172). -/
def State.carves (s : State) (tile : Nat) : List (Nat × Nat × Nat) :=
  (List.range 16).filterMap (fun n =>
    let e := s.elem (seSite tile n)
    let b := 4096 * ecwSpill e.work.ecw
    if e.kind == .se && b != 0 then some (n, 0x80000 - b, b) else none)

/-- `n` areas of `sz` bytes laid through the carve-outs, as SE index and offset. -/
def layAreas (sz : Nat) : List (Nat × Nat × Nat) → Nat → List (Nat × Nat)
  | [], _ => []
  | (se, o, b) :: cs, n =>
    let k := min n (b / sz)
    (List.range k).map (fun i => (se, o + i * sz)) ++ layAreas sz cs (n - k)

/-- The largest multiple of 64, not above 64·k, for which every one of `n` contexts receives an area. -/
def areaSize (cs : List (Nat × Nat × Nat)) (n : Nat) : Nat → Nat
  | 0 => 0
  | k + 1 => if (layAreas (64 * (k + 1)) cs n).length == n then 64 * (k + 1) else areaSize cs n k

/-- SPILLBASE words of a tile's contexts. -/
def State.spillWords (s : State) (tile : Nat) : List ((Nat × Nat) × Word) :=
  let cs := s.carves tile
  let ctxs := s.teContexts tile
  let n := ctxs.length
  let total := cs.foldl (fun t c => t + c.2.2) 0
  let sz := if n == 0 then 0 else areaSize cs n (total / n / 64)
  if sz == 0 then ctxs.map (fun c => (c, 0))
  else (ctxs.zip (layAreas sz cs n)).map (fun x => (x.1, BitVec.ofNat 64 (x.2.2 + x.2.1 * 2 ^ 19 + sz * 2 ^ 24)))

/-- The hub builds the spill map of a tile (R190). -/
def State.buildSpill (s : State) (tile : Nat) : State :=
  (s.spillWords tile).foldl (fun s x => s.modCtx x.1.1 x.1.2 (fun c => { c with spillBase := x.2 })) s

/-- Bytes of memory read 0 from now on. -/
def State.zeroBytes (s : State) (a n : Nat) : State :=
  { s with
    mem := s.mem.filter (fun c => c.1 < a || a + n ≤ c.1)
    poison := s.poison.filter (fun u => 8 * u < a || a + n ≤ 8 * u) }

/-- The carve-outs of a tile read 0 (R190). -/
def State.zeroCarves (s : State) (tile : Nat) : State :=
  (s.carves tile).foldl (fun s c => s.zeroBytes (seAddr (seSite tile c.1) c.2.1) c.2.2) s

/-! ## Activation -/

/-- The contexts of a plane that becomes active (R81, R83). -/
def freshCtxs (w : Word) : Map Ctx :=
  ((List.range (ctxsOf (ecwKind w))).filter (fun c => (ecwCtxen w).getLsbD c)).map (fun c => (c, { Ctx.zero with st := .running }))

/-- The channels of a plane that becomes active: bound ones OPEN and empty (R161), or with the words held for the plane
(R292). -/
def freshChans (p : Plane) (old : Map Chan) : Map Chan :=
  p.chans.map (fun c =>
    let held := (tget .zero c.1 old).shadow
    (c.1, ⟨held.foldl (fun st w => chanAfterArrival st w.word.kind) .opened, held, 0, []⟩))

/-- The handles of a plane that becomes active (R181): those FULL at the start. -/
def freshHandles (p : Plane) (now : Nat) : Map Hnd :=
  (p.handles.filter (fun h => hrDeclared h.2 && hrInit h.2)).map (fun h => (h.1, ⟨.full, 0, none, now⟩))

/-- An element whose plane `one` becomes active. DESIGN CHOICE (log 67): its tag credits, and the requests for them that are
outstanding (R97), stay with it; the spec does not say what a swap does to them. What has fired and waits for acknowledgements is sent
(R332, R322, R358). -/
def Elem.activate (e : Elem) (one : Bool) (now : Nat) : Elem :=
  let p := e.plane one
  { Elem.zero with
    p0 := e.p0, p1 := e.p1, act := one, work := p, epoch := e.epoch + 1, wave := e.wave, ctxs := freshCtxs p.ecw,
    ptr := ctxsOf p.kind - 1, chans := freshChans p e.chans, tagCreds := e.tagCreds, barWaits := e.barWaits,
    sends := e.sends,
    holdUntil := now + 1, handles := freshHandles p now }

/-- The count of splices that the elements of a group have in common: an element that took no part in one has fallen behind, and
takes the count when it becomes active again (R292). -/
def State.waveOf (s : State) (g : Group) : Nat := s.elems.foldl (fun m p => if g.covers p.1 then max m p.2.wave else m) 0

/-- The words in the channels of an element that swaps are gone, and their credits are back where they came from (R158, R161). -/
def State.voidWords (s : State) (ea : Nat) : State :=
  ((s.elem ea).chans.flatMap (fun c => c.2.q)).foldl (fun s w => s.creditHome w.src) s

/-- Planes of elements of a group become active by SWAP (R287): the old active planes become the shadows, and the spill maps of
their tiles are built. -/
def State.swapPlanes (s : State) (g : Group) (eas : List Nat) : State :=
  let w := s.waveOf g
  let s := eas.foldl (fun s ea => (s.voidWords ea).modElem ea (fun e => { e.activate (!e.act) s.now with wave := w })) s
  (sortNat (eas.map tileOf)).foldl (fun s t => (s.buildSpill t).zeroCarves t) s

/-- An element whose planes are cleared: what R271 keeps apart from planes and nothing else changes stays, the states of handles
(R181, R455) and the rings' pointers, scale registers and the tag table. -/
def Elem.cleared (e : Elem) : Elem :=
  { Elem.zero with
    handles := e.handles, rings := tmap .zero (fun _ r => { r with bound := none, permits := false }) e.rings, scales := e.scales,
    ttab := e.ttab }

/-- The planes of a group are cleared (Table 12-1). -/
def State.clearPlanes (s : State) (g : Group) : State :=
  { s with elems := tmap .zero (fun ea e => if g.covers ea then e.cleared else e) s.elems }

end Sys2Proof.Machine
end

