-- ==== Sys2Proof/Machine/Save.lean ====
section
/-! DEFINITION. The form of a save (R309, R310, Table 12-3): its header, its records with their heads, its bytes and their digest. -/

namespace Sys2Proof.Machine

/-! ## The header (Table 12-3) -/

/-- The header of a save. -/
def Save.header (sv : Save) : List Byte :=
  leBytes 4 sv.magic ++ leBytes 2 sv.version ++ leBytes 1 sv.w ++ leBytes 1 sv.h ++ leBytes 8 sv.kid.toNat ++ leBytes 2 sv.grp ++
    leBytes 2 sv.dom ++ leBytes 4 sv.module ++ leBytes 8 sv.size ++ leBytes 8 sv.nrec ++ leBytes 24 sv.rsv

/-! ## Records -/

/-- The length of a record has room in its head; a longer one, or none, takes 4 bytes after the head (DEDUCED, log 8: in units of 8
bytes, too). -/
def SaveRec.short (r : SaveRec) : Bool := 0 < r.len && r.len / 8 < 65536

/-- The head of a record, with the length that follows it. -/
def SaveRec.head (r : SaveRec) : List Byte :=
  leBytes 1 r.type ++ leBytes 1 r.tx ++ leBytes 1 r.ty ++ leBytes 1 r.sx ++ leBytes 1 r.sy ++ [0] ++
    (if r.short then leBytes 2 (r.len / 8) else leBytes 2 0 ++ leBytes 4 (r.len / 8))

/-- Bytes of a record in a save. -/
def SaveRec.bytes (r : SaveRec) : Nat := 8 + (if r.short then 0 else 4) + r.len

/-- `n` bytes from a key of a sparse list that begins there. -/
def spread (a : Nat) : Nat → List Host.Cell → List Byte
  | 0, _ => []
  | n + 1, [] => 0 :: spread (a + 1) n []
  | n + 1, c :: cs => if c.1 == a then c.2 :: spread (a + 1) n cs else 0 :: spread (a + 1) n (c :: cs)

/-- A range of the saved bytes, taken 64 at a time. -/
def spanBytes (m : List Host.Cell) (x : Nat × Nat) : List Byte :=
  (List.range ((x.2 + 63) / 64)).flatMap (fun k =>
    spread (x.1 + 64 * k) (min 64 (x.2 - 64 * k)) (m.dropWhile (fun c => c.1 < x.1 + 64 * k)))

/-- The body of record `i`: the memory that it holds; for a hub or an element, whose bytes the spec does not lay out, free values. -/
def Save.recBody (sv : Save) (i : Nat) (r : SaveRec) : List Byte :=
  if r.type == 3 then ((r.spans.flatMap (spanBytes sv.bytes)) ++ List.replicate 8 0).take r.len
  else (List.range r.len).map (Config.recordByte sv.body i)

/-- A save as it stands in memory: the header, and the records in their order. -/
def Save.area (sv : Save) : List Byte :=
  sv.header ++ ((List.range sv.recs.length).zip sv.recs).flatMap (fun x => x.2.head ++ sv.recBody x.1 x.2)

/-- Bytes of the whole save. -/
def Save.areaSize (sv : Save) : Nat := 64 + sv.recs.foldl (fun n r => n + r.bytes) 0

/-- The SHA-512 of the whole save (R310). -/
def Save.digest (sv : Save) : List Byte := sha512 sv.area

/-- Ranges in ascending order, those that meet made one. -/
def insSpan (x : Nat × Nat) : List (Nat × Nat) → List (Nat × Nat)
  | [] => [x]
  | y :: ys => if x.1 ≤ y.1 then x :: y :: ys else y :: insSpan x ys
def joinSpans (l : List (Nat × Nat)) : List (Nat × Nat) :=
  ((l.filter (fun x => x.2 != 0)).foldl (fun l x => insSpan x l) []).foldl (fun acc x =>
    match acc.getLast? with
    | some y => if x.1 ≤ y.1 + y.2 then acc.dropLast ++ [(y.1, max (y.1 + y.2) (x.1 + x.2) - y.1)] else acc ++ [x]
    | none => [x]) []

/-- A record of memory, padded to a multiple of 8 bytes. -/
def memoryRec (tx ty sx sy : Nat) (spans : List (Nat × Nat)) : SaveRec :=
  ⟨3, tx, ty, sx, sy, (spans.foldl (fun n x => n + x.2) 0 + 7) / 8 * 8, spans⟩

end Sys2Proof.Machine
end

