-- ==== Sys2Proof/Machine/Group.lean ====
section
/-! DEFINITION. The life of a group (chapter 12): placement, pre-emption, quiescence, save and restore, retirement and
release, and what of its work in flight ends with it. -/

namespace Sys2Proof.Machine

/-! ## Launch records -/

/-- The launch of a number that is not over, or the latest. -/
def State.launch (s : State) (lid : Nat) : Option Launch := s.launches.find? (fun l => l.lid == lid)
def State.modLaunch (s : State) (lid : Nat) (f : Launch → Launch) : State :=
  { s with launches := s.launches.map (fun l => if l.lid == lid then f l else l) }

def State.queue (s : State) (q : Nat) : Queue := tget .zero q s.queues
def State.modQueue (s : State) (q : Nat) (f : Queue → Queue) : State :=
  { s with queues := tput .zero q (f (s.queue q)) s.queues }

/-! ## Work in flight of a group -/

/-- The group that a request, or the element address that another event, belongs to. -/
inductive Owner
  | nobody
  | group (gn : Nat)
  | elem (ea : Nat)
  deriving DecidableEq, Repr

/-- Whose work an event in flight is. Records, fences, commits of migrations and entries on their way to queues outlive their
group (R406, R359, R324). -/
def eventOwner (i : Instr) : Owner :=
  match i with
  | .resultDelivery d => .elem d.ea
  | .channelWordArrival a => .elem a.ea
  | .creditReturn (.output ea _ _ _) => .elem ea
  | .creditReturn (.barrier tile _ _) => .elem tile
  | .tagRequest ea _ => .elem ea
  | .tagGrant g _ => .group g
  | .tagCreditArrival ea _ _ _ => .elem ea
  | .tagReleaseArrival g _ _ _ _ _ => .group g
  | .handleFullAfterCommit ea _ => .elem ea
  | .operatorInput ea => .elem ea
  | .operatorEnd ea => .elem ea
  | .meQueueFill ea => .elem ea
  | .meRowReadServed ea _ _ _ _ => .elem ea
  | .mePlaneRead ea _ => .elem ea
  | .mePlaneReady ea => .elem ea
  | .meRowLand l => .elem l.ea
  | .meOutputRowWrite ea _ _ => .elem ea
  | .meNotice ea => .elem ea
  | .requestCreditReturn ea _ _ => .elem ea
  | .tlbLookup r => .group r.grp
  | .tlbWalk w => .group w.r.grp
  | .requestPerform r => .group r.grp
  | .feService r => .group r.grp
  | .replyArrival r _ _ => .group r.grp
  | .ackArrival r => .group r.grp
  | .orderTokenArrival ea _ _ _ => .elem ea
  | .joinWordEntry ea _ _ => .elem ea
  | .genElementIssue ea _ => .elem ea
  | .genStreamEnd ea _ => .elem ea
  | .copyFlowTake c => .group c.grp
  | .ringBindArrival tile _ => .elem tile
  | .permitArrival tile _ => .elem tile
  | .copyGranule tile _ => .elem tile
  | .copyComplete tile _ _ _ => .elem tile
  | .ccanAtHub tile _ _ _ => .elem tile
  | .barrierMessageArrival m => .group m.grp
  | .completePhase tile _ => .elem tile
  | .tinvalAck ea _ => .elem ea
  | .qpushEntry r => .group r.grp
  | .spliceSwap ea => .elem ea
  | .spliceSettled ea => .elem ea
  | .partialReconfigInstall ea => .elem ea
  | .svcReplyDelivery ea _ _ => .elem ea
  | .migrationStart m => .group m.grp
  | .queryAccept r => .group r.grp
  | .qabortArrival _ _ r => .group r.grp
  | _ => .nobody

/-- The event is work of group `gn`, which holds the tiles of `g`. -/
def ownedBy (gn : Nat) (g : Group) (i : Instr) : Bool :=
  match eventOwner i with
  | .nobody => false
  | .group n => n == gn
  | .elem ea => g.covers ea

/-- A word on its way through the routers is work of group `gn`. -/
def Transit.ownedBy (t : Transit) (gn : Nat) (g : Group) : Bool :=
  t.arrs.any (fun a => g.covers a.ea) || t.parcel.any (fun p => p.evs.any (fun e => Machine.ownedBy gn g e.2))

/-- fc of a record or element read within its stack (Table 16-9). -/
abbrev recordTime : Nat := 228

/-- The event at which a Scree unit serves a request, or an answer of it is back. -/
def screeEvent (r : MReq) (stack : Nat) : Instr := if r.acc == .gat then .screeGather stack else .screeScatter stack

/-- The cycle in which a request may be served: its record has been there for the time of Table 16-9, since the unit was free (R386). -/
def Engine.screeDue (e : Engine) (q : ScreeReq) : Nat := max q.came (e.sfree + recordTime)

/-- The oldest request that is not served yet is looked at when it is due (R386). -/
def State.screeWake (s : State) (stack : Nat) : State :=
  match (s.engine stack).scree.find? (fun q => q.fin.isNone) with
  | none => s
  | some q => s.at_ (max s.now ((s.engine stack).screeDue q)) (screeEvent q.r stack)

/-- Engines that have lost queries may admit others, and Scree units serve the next request (R371, R386). -/
def State.admitNext (s : State) (bs : List Nat) : State := bs.foldl (fun s k => (s.at_ s.now (.queryAdmit k)).screeWake k) s

/-- Everything of a group that is in flight ends: its words, requests, copies, queries and deferred entries (R385, R355, R405). -/
def State.purge (s : State) (gn : Nat) : State :=
  let g := s.group gn
  State.admitNext { s with
    agenda := s.agenda.filter (fun x => !ownedBy gn g x.instr)
    banks := tmap .zero (fun _ (b : Bank) => { b with q := b.q.filter (fun q => !ownedBy gn g q.instr) }) s.banks
    links := tmap .zero (fun _ (l : RLink) => { l with q := l.q.filter (fun t => !t.ownedBy gn g) }) s.links
    slices := s.slices.filter (fun p => !g.covers p.1)
    hubs := tmap .zero (fun t (h : Hub) => if g.covers t then { h with flows := [], copies := [] } else h) s.hubs
    defers := s.defers.filter (fun r => r.grp != gn)
    remotes := s.remotes.filter (fun r => r.r.grp != gn)
    reads := s.reads.filter (fun p => s.agenda.any (fun x => match x.instr with
      | .qpushEntry r => r.id == p.1 && r.grp != gn
      | _ => false))
    tinvs := s.tinvs.filter (fun t => !g.covers t.ea)
    engines := tmap .zero (fun _ (e : Engine) =>
      { e with queries := e.queries.filter (fun q => q.r.grp != gn), scree := e.scree.filter (fun q => q.r.grp != gn) }) s.engines }
    ((s.engines.filter (fun (p : Nat × Engine) => p.2.queries.any (fun q => q.r.grp == gn) || p.2.scree.any (fun q => q.r.grp == gn))).map (fun (p : Nat × Engine) => p.1))

/-- The barriers of a group's tiles become FREE (Table 14-2), their words of earlier cycles as they were (R336); its partitions go with
them (log 32). -/
def State.freeHubs (s : State) (g : Group) : State :=
  let freed (b : Bar) : Bar := ({ Bar.zero with past := b.past } : Bar).note s.now
  { s with hubs := tmap .zero (fun t (h : Hub) =>
    if g.covers t then { h with bars := tmap .zero (fun _ b => freed b) h.bars, parts := [] } else h) s.hubs }

/-! ## The end of a group -/

/-- A group becomes FREE: tiles and number released, planes cleared (Table 12-1); a SAVED group holds no tile. Records that its origin
hub still holds stay there until they enter a queue (R407). -/
def State.releaseGroup (s : State) (gn : Nat) : State :=
  let g := s.group gn
  if g.st == .free then s
  else if g.st == .saved then s.setGroup gn (Group.zero)
  else (((s.purge gn).clearPlanes g).freeHubs g).setGroup gn (Group.zero)

/-- Table 12-1: the crest core releases a RESERVED or RETIRED group. -/
def execGroupRelease (gn : Nat) (s : State) : Out1 :=
  .next (if (s.group gn).st == .reserved || (s.group gn).st == .retired then s.releaseGroup gn else s)

/-- The launch of a group ends, in COMPLETE or FAILED once its children have ended; its group is released (Table 13-7). -/
def State.endLaunch (s : State) (gn : Nat) (fail : Bool) (code : Nat) : State :=
  match (s.group gn).lid with
  | none => s
  | some lid =>
    ((s.releaseGroup gn).modLaunch lid (fun l => { l with fail := l.fail || fail, code := if fail then code else l.code })).at_
      s.now (.launchComplete lid)

/-- A FENCED group is retired (R405, Table 12-1): what is in flight ends, its planes are cleared, and its launch fails with the
CODE of the group's first fault. -/
def State.retireGroup (s : State) (gn : Nat) : State :=
  let g := s.group gn
  if g.st != .fenced then s
  else
    let s := ((s.purge gn).clearPlanes g).freeHubs g
    let s := s.setGroup gn { g with
      st := .retired, kern := { g.kern with st := .retired }, succ := .zero, armed := false, fencedTiles := [], frozen := none,
      preq := none, heldData := [], rowData := [] }
    s.endLaunch gn true (g.firstFault.getD 0)

/-- R405, Table 12-1. -/
def execGroupRetire (gn : Nat) (s : State) : Out1 := .next (s.retireGroup gn)

/-- Table 18-6: GCMD 2 retires a FENCED group. -/
def execGcmdRetire (gn : Nat) (s : State) : Out1 := .next (s.retireGroup gn)

/-- Table 18-6: GCMD 1 moves a FENCED group back to LIVE and resets its watchdog. -/
def execGcmdResume (gn : Nat) (s : State) : Out1 :=
  .next (if (s.group gn).st == .fenced then (s.liveAgain gn).modGroup gn (fun g => { g with wdog := 0, progress := [] }) else s)

/-- The kernel of a group is complete (R296): the group becomes RETIRED, and its launch goes on to its end. -/
def State.completeGroup (s : State) (gn : Nat) : State :=
  let g := s.group gn
  let s := { s.freeHubs g with defers := s.defers.filter (fun r => r.grp != gn) }
  (s.setGroup gn { g with st := .retired, kern := { g.kern with st := .retired }, frozen := none, preq := none }).endLaunch gn false 0

/-- R296: the event comes when the conditions of R296 hold (`State.triggerGroup`). -/
def execKernelComplete (gn : Nat) (s : State) : Out1 :=
  .next (if (s.group gn).st == .live && (s.group gn).kern.st == .draining then s.completeGroup gn else s)

/-! ## Pre-emption (R304 to R307) -/

/-- Generators that run are PAUSED (Table 9-4). -/
def Elem.pause (e : Elem) : Elem :=
  { e with gens := e.gens.map (fun p => (p.1, if p.2.st == .running then { p.2 with st := .paused } else p.2)) }

/-- A request is taken (R304): sources stop, the kernel drains, deferred entries freeze (R354). -/
def State.takePreempt (s : State) (gn : Nat) (q : Preq) : State :=
  let g := s.group gn
  let s := s.setGroup gn { g with
    st := .draining, preq := some { q with taken := true }, frozen := some s.now
    kern := if g.kern.st == .running then { g.kern with st := .draining } else g.kern }
  { s with elems := tmap .zero (fun ea e => if g.covers ea then e.pause else e) s.elems }

/-- R304: a request is taken, waits, is merged, or is refused. -/
def State.preemptGroup (s : State) (gn : Nat) (hard : Bool) : Bool × State :=
  let g := s.group gn
  match g.preq with
  | some q => (true, s.setGroup gn { g with preq := some { q with hard := q.hard || hard } })
  | none =>
    let q : Preq := ⟨s.now, hard, false⟩
    if g.st == .live && !g.armed then (true, s.takePreempt gn q)
    else if g.st == .live || g.st == .loading then (true, s.setGroup gn { g with preq := some q })
    else (false, s)

/-- A request that waited for LOADING or for a splice is taken (R304, R295). -/
def State.takeWaiting (s : State) (gn : Nat) : State :=
  let g := s.group gn
  match g.preq with
  | some q => if !q.taken && g.st == .live && !g.armed then s.takePreempt gn q else s
  | none => s

/-- A request that waited for a load is taken; its bound counts from now (R304, R307). -/
def State.takeLoaded (s : State) (gn : Nat) : State :=
  (s.modGroup gn (fun g => { g with preq := g.preq.map (fun q => { q with start := s.now }) })).takeWaiting gn

/-- R304. -/
def execPreemptRequest (gn : Nat) (hard : Bool) (s : State) : Out1 := .next (s.preemptGroup gn hard).2

/-- R304: PREQ requests pre-emption in the mode that PMODE gives; the other fields of the register are stored (Table 12-2). -/
def State.storeGroupReg (s : State) (gn : Nat) (v : Word) : State :=
  let lim (n : Nat) : Nat := if n == 0 then 1 else n
  s.modGroup gn (fun g =>
    { g with wlim := lim (v.toNat / 16 % 256), plim := lim (v.toNat / 2 ^ 12 % 256), pmode := v.getLsbD 21 })

/-- R304, R308. -/
def execPreqWrite (gn : Nat) (v : Word) (s : State) : Out1 := .next <|
  if (s.group gn).st == .free then s
  else
    let s := s.storeGroupReg gn v
    if v.getLsbD 20 then (s.preemptGroup gn (s.group gn).pmode).2 else s

/-- The enabled contexts of a group, with their states. -/
def State.ctxStates (s : State) (g : Group) : List CtxSt :=
  (s.elems.filter (fun p => g.covers p.1)).flatMap (fun p => (p.2.ctxs.map (·.2.st)).filter (fun c => c != .disabled))

/-- Every context of the group is EXITED (R296, R305). -/
def State.allExited (s : State) (g : Group) : Bool := (s.ctxStates g).all (fun c => c == .exited)

/-- R305, Table 12-1: a draining group becomes QUIESCENT, or RETIRED when every context has exited. The event comes when the
conditions of R305 hold (`State.triggerGroup`). -/
def execQuiescence (gn : Nat) (s : State) : Out1 := .next <|
  let g := s.group gn
  if g.st != .draining then s
  else if s.allExited g then s.completeGroup gn
  else s.setGroup gn { g with st := .quiescent, preq := none, kern := { g.kern with st := .quiescent } }

/-- R354, R355: the ports freeze, unfreeze or discard a group's deferred entries. -/
def execDeferFreeze (gn _stack : Nat) (freeze discard : Bool) (s : State) : Out1 := .next <|
  if discard then { s with defers := s.defers.filter (fun r => r.grp != gn) }
  else s.modGroup gn (fun g =>
    if g.st == .free then g else { g with frozen := if freeze then g.frozen.orElse (fun _ => some s.now) else none })

/-! ## Placement (R298, R299) -/

/-- A tile may be taken: its die is in service and it belongs to no group (R299, R435). -/
def State.tileFree (s : State) (tile : Nat) : Bool := (s.die (eaDie tile)).released.isSome && (s.groupAt tile).isNone

/-- Origins in the order of R299. -/
def origins : List (Nat × Nat) :=
  (List.range 8).flatMap (fun d => (List.range 4).flatMap (fun y => (List.range 8).map (fun x => (d % 4 * 8 + x, d / 4 * 4 + y))))

/-- The tiles of a rectangle. -/
def rectTiles (x y w h : Nat) : List Nat := (List.range (w * h)).map (fun i => tileAt (x + i % w) (y + i / w))

/-- The rectangle lies inside the grid. -/
def rectFits (x y w h : Nat) : Bool := x + w ≤ 32 && y + h ≤ 8

/-- The first origin of R299. -/
def State.firstOrigin (s : State) (w h : Nat) : Option (Nat × Nat) :=
  origins.find? (fun o => rectFits o.1 o.2 w h && (rectTiles o.1 o.2 w h).all s.tileFree)

/-- The lowest free group number (R298). -/
def State.freeNumber (s : State) : Nat :=
  ((List.range (s.groups.length + 1)).find? (fun n => (s.group n).st == .free)).getD 0

/-- Placement from FREE (R299): the group is RESERVED, its tiles are held. -/
def State.placeGroup (s : State) (x y w h dom : Nat) : Nat × State :=
  let gn := s.freeNumber
  (gn, s.setGroup gn { Group.zero with
    st := .reserved, dom := dom, x := x, y := y, w := w, h := h })

/-! ## Save (R309, R100) -/

/-- The credits that TEs hold go back to the tails of their pools, in ascending element address, then pool (R100). -/
def State.returnCredits (s : State) (gn : Nat) : State :=
  let g := s.group gn
  let held := (s.elems.filter (fun p => g.covers p.1)).flatMap (fun p =>
    p.2.tagCreds.filterMap (fun c => match c.2 with
      | .held t _ => some (c.1, t)
      | _ => none))
  held.foldl (fun s c => s.modPool gn c.1 (fun p => { p with freeTags := p.freeTags ++ [c.2] })) s

/-- Byte ranges of an SE that a save keeps: handle buffers in SE memory, shape and DATA records, the carve-out (R309). -/
def liveRanges (e : Elem) (site : Nat) (k : Kern) : List (Nat × Nat) :=
  let hs := (e.work.handles.filter (fun h => hrDeclared h.2 && hrLoc h.2 == 0)).map (fun h => hrSpan h.2)
  hs ++ ((k.live.filter (fun x => x.1 == site)).map (fun x => (x.2.1, x.2.2))) ++ [(e.progBytes, 0x80000 - e.progBytes)]

/-- A byte of a tile's window is kept by a save. -/
def State.keepsByte (s : State) (k : Kern) (tile idx o : Nat) : Bool :=
  if o < 0x1800000 then
    (s.hub tile).parts.any (fun p => p.2.first ≤ o / 0x10000 && o / 0x10000 < p.2.first + p.2.count)
  else
    let ea := seSite tile ((o - 0x1800000) / 0x80000)
    let b := (o - 0x1800000) % 0x80000
    (liveRanges (s.elem ea) (64 * idx + ea % 64) k).any (fun r => r.1 ≤ b && b < r.1 + r.2)

/-- What a group holds of memory, tile by tile: bytes and poison marks, by 2^26·index + window offset. -/
def State.saveBytes (s : State) (g : Group) : List Host.Cell × List Nat :=
  let at_ (a : Nat) : Option Nat :=
    if regionOf a == .window then
      let tile := tileOfIndex ((a - 0xA0000000000) / 0x2000000)
      let o := (a - 0xA0000000000) % 0x2000000
      if g.covers tile then
        let idx := (eaTy tile - g.y) * g.w + (eaTx tile - g.x)
        if s.keepsByte g.kern tile idx o then some (2 ^ 26 * idx + o) else none
      else none
    else none
  (s.mem.foldl (fun m c => match at_ c.1 with
    | some k => tput memDefault k c.2 m
    | none => m) [],
   s.poison.foldl (fun m u => match at_ (8 * u) with
    | some k => nadd k m
    | none => m) [])

/-- An element as a save records it: credits are back, channels empty (R165, R338). -/
def Elem.saved (e : Elem) : Elem :=
  { e with tagCreds := [], outs := tmap .zero (fun _ (o : Out) => { o with used := [], free := 0, reqUsed := 0 }) e.outs }

/-- A request put behind those that were issued before it. -/
def insReq (r : MReq) : List MReq → List MReq
  | [] => [r]
  | x :: xs => if r.id < x.id then r :: x :: xs else x :: insReq r xs

/-- The requests of a group that a save withdraws from its slices, in their original order (R349). An element that a generator or a
copy stopped at is not issued: its agent goes on from it (R252). -/
def State.heldReqs (s : State) (g : Group) : List MReq :=
  (((s.slices.filter (fun p => g.covers p.1)).flatMap (fun p => p.2.held.map (·.r) ++ p.2.beyond)).filter (fun r =>
    match r.who with
    | .gen _ | .flow _ _ => false
    | _ => true)).foldl (fun l r => insReq r l) []

/-- The records of a group's save in their order (R309): each tile's hub and elements, the live bytes of each SE, the banks of each
partition. -/
def State.saveRecs (s : State) (g : Group) (body : Nat) : List SaveRec :=
  let tiles := (List.range (g.w * g.h)).map (fun i => (i, tileAt (g.x + i % g.w) (g.y + i / g.w)))
  let units (i : Nat) (r : SaveRec) : SaveRec := { r with len := 8 * Config.recordUnits body i }
  let heads := tiles.flatMap (fun t =>
    ⟨1, t.1 % g.w, t.1 / g.w, 0, 0, 0, []⟩ ::
      ((sitesOf t.2).filter (fun ea => !(s.elem ea).active.isEmpty)).map (fun ea =>
        ⟨2, t.1 % g.w, t.1 / g.w, eaSx ea, eaSy ea, 0, []⟩))
  let ses := tiles.flatMap (fun t =>
    ((List.range 16).filter (fun k => (s.elem (seSite t.2 k)).kind == .se)).map (fun k =>
      let ea := seSite t.2 k
      memoryRec (t.1 % g.w) (t.1 / g.w) (eaSx ea) (eaSy ea)
        ((joinSpans (liveRanges (s.elem ea) (64 * t.1 + ea % 64) g.kern)).map (fun x =>
          (2 ^ 26 * t.1 + 0x1800000 + 0x80000 * k + x.1, x.2)))))
  let banks := tiles.flatMap (fun t =>
    (sortNat ((s.hub t.2).parts.flatMap (fun p => (List.range p.2.count).map (fun i => p.2.first + i)))).map (fun b =>
      memoryRec (t.1 % g.w) (t.1 / g.w) 0 0 [(2 ^ 26 * t.1 + 0x10000 * b, 0x10000)]))
  ((List.range heads.length).zip heads).map (fun x => units x.1 x.2) ++ ses ++ banks

/-- A save whose header counts its own records and bytes. -/
def Save.counted (sv : Save) : Save := { sv with size := sv.areaSize, nrec := sv.recs.length }

/-- The save of a group (R309). -/
def State.saveOf (s : State) (gn : Nat) : Save :=
  let g := s.group gn
  let m := s.saveBytes g
  let idx (tile : Nat) : Nat := (eaTy tile - g.y) * g.w + (eaTx tile - g.x)
  let tiles := s.hubs.filter (fun p => g.covers p.1)
  Save.counted {
    magic := 0x534B5255, version := 1, w := g.w, h := g.h, kid := g.kern.kid, grp := gn, dom := g.dom, module := s.module,
    size := 0, nrec := 0, rsv := 0, recs := s.saveRecs g s.free, body := s.free,
    elems := (s.elems.filter (fun p => g.covers p.1)).foldl (fun m p => tput .zero (64 * idx p.1 + p.1 % 64) p.2.saved m) []
    bars := tiles.foldl (fun m p => tput [] (idx p.1)
      (tmap .zero (fun _ b => { b with past := [] }) p.2.bars) m) []
    parts := tiles.foldl (fun m p => tput [] (idx p.1) p.2.parts m) []
    flows := tiles.flatMap (fun p => (p.2.flows.filter (fun f => f.2.st == .stopped)).map (fun f => (idx p.1, f.1, f.2)))
    bytes := m.1
    marks := m.2
    held := s.heldReqs g
    defers := s.defers.filter (fun r => r.grp == gn) }

/-- Tags on their way back to a pool are home before a save (R98, R309). -/
def State.landReleases (s : State) (gn : Nat) : State :=
  s.agenda.foldl (fun s x => match x.instr with
    | .tagReleaseArrival g k tag ea ctx slot =>
      (match g == gn, execTagReleaseArrival g k tag ea ctx slot s with
       | true, .next s' => s'
       | _, _ => s)
    | _ => s) s

/-- A QUIESCENT group becomes SAVED (R309, Table 12-1): tiles released, planes cleared; its launch returns to the head of its
queue (Table 13-7). -/
def State.saveGroup (s : State) (gn : Nat) : State :=
  let s := (s.landReleases gn).returnCredits gn
  let sv := s.saveOf gn
  let g := s.group gn
  let s := (({ s with free := s.free + 1 }.purge gn).clearPlanes g).freeHubs g
  let s := s.setGroup gn { g with st := .saved, save := some sv, digest := sv.digest, frozen := none }
  match g.lid with
  | none => s
  | some lid =>
    match s.launch lid with
    | none => s
    | some l => (s.modLaunch lid (fun l => { l with st := .queued, saved := true })).modQueue l.queue (fun q =>
        { q with ents := lid :: q.ents })

/-- The owner discards the save of a SAVED group, which is then FREE, and its kernel, QUIESCENT, RETIRED (Tables 11-1, 12-1). Its
launch stays QUEUED, as Table 13-7 has no other way for it, and is placed anew (log 33). A group that is itself QUIESCENT has no
save yet, and Table 12-1 no such way for it. -/
def execSavedGroupDiscard (gn : Nat) (s : State) : Out1 := .next <|
  let g := s.group gn
  if g.st == .saved then (s.modLaunch (g.lid.getD (2 ^ 32)) (fun l => { l with saved := false, grp := none })).releaseGroup gn
  else s

/-! ## Restore (R310, R311) -/

/-- An element address of the group where it stood at `g`, where it stands at (x, y). -/
def movedEa (g : Group) (x y ea : Nat) : Nat :=
  if g.covers ea then eaOf (eaTx ea - g.x + x) (eaTy ea - g.y + y) (eaSx ea) (eaSy ea) else ea

/-- A request of a relocated group. -/
def movedReq (g : Group) (x y now : Nat) (r : MReq) : MReq :=
  { r with ea := movedEa g x y r.ea, dst := movedEa g x y r.dst, issued := now, stage := 0, tsize := 0 }

/-- The contexts and channels of an element whose stored plane takes effect at a restore: those that it enables or binds, as they
were saved, or else as an activation leaves them (R281, R81, R161). -/
def keptCtxs (w : Word) (old : Map Ctx) : Map Ctx := (freshCtxs w).map (fun c => (c.1, (tfind c.1 old).getD c.2))
def keptChans (p : Plane) (old : Map Chan) : Map Chan := (freshChans p []).map (fun c => (c.1, (tfind c.1 old).getD c.2))

/-- A generator as a restore takes it: one that stopped at a missing page goes on with the others, and meets the page afresh
(R349, Table 9-4). -/
def Gen.restored (x : Gen) : Gen := if x.st == .stopped && x.halt then { x with st := .paused, halt := false, wait := false } else x

/-- An element of a relocated group: its stored active plane becomes active (R272, R281) with the pointer P as R88 sets it, and what
it holds of other places moves with it. Its generators stay PAUSED until the group starts (R311). -/
def Elem.relocate (e : Elem) (g : Group) (x y now : Nat) : Elem :=
  { e with
    work := e.active, ctxs := keptCtxs e.active.ecw e.ctxs, chans := keptChans e.active e.chans
    ptr := ctxsOf e.active.kind - 1, gens := e.gens.map (fun p => (p.1, p.2.restored))
    barWaits := e.barWaits.map (fun b => (b.1, { b.2 with ea := movedEa g x y b.2.ea, tile := movedEa g x y b.2.tile }))
    sends := e.sends.map (fun b => (b.1, movedReq g x y now b.2)) }

/-- A stopped flow takes the lowest FREE flow of the tile that now holds its issuer, and its granule walks again (R252). -/
def State.placeFlow (s : State) (g : Group) (x y : Nat) (f : Flow) : State :=
  let c := f.c
  let tile := movedEa g x y c.tile
  let c := { c with ea := movedEa g x y c.ea, tile := tile, dstEa := movedEa g x y c.dstEa }
  match (s.hub tile).freeFlow with
  | none => s
  | some n =>
    let s := s.modFlow tile n (fun _ => { f with st := .active, halt := false, c := c })
    if c.ring then s.modElem c.dstEa (fun e => e.setRing c.dring { e.ring c.dring with bound := some (tile, n) }) else s

/-- The engines of a restored element wait for the start of the group: generators, a stream operator, the queue fills of an ME
(R311, R273). -/
def State.startEngines (s : State) (ea : Nat) : State :=
  let e := s.elem ea
  let s := e.gens.foldl (fun s p => if p.2.st == .paused then s.after 1 (.genElementIssue ea p.1) else s) s
  let s := if e.su.isSome then s.after 1 (.operatorInput ea) else s
  if e.me.poll then s.after 1 (.meQueueFill ea) else s

/-- The hub state of a restored group is noted anew: what pooln samples of earlier cycles reads 0 (R113), and what bar.q does is the hub's
word of the time (R336); a phase that was HELD is tried again (R338). -/
def State.noteHubs (s : State) (gn : Nat) : State :=
  let g := s.group gn
  let s := s.setGroup gn { g with pools := tmap .zero (fun _ p => ({ p with past := [], waiting := [], nextGrant := 0 } : Pool).note s.now) g.pools }
  let s := { s with hubs := tmap .zero (fun t (h : Hub) =>
    if g.covers t then { h with bars := tmap .zero (fun _ b => b.note s.now) h.bars } else h) s.hubs }
  (s.hubs.filter (fun h => g.covers h.1)).foldl (fun s h =>
    (h.2.bars.filter (fun b => b.2.held)).foldl (fun s b => s.after 1 (.completePhase h.1 b.1)) s) s

/-- The records of a save written at a new origin (R311). -/
def State.loadSave (s : State) (gn x y : Nat) (sv : Save) : State :=
  let g := s.group gn
  let tile (i : Nat) : Nat := tileAt (x + i % g.w) (y + i / g.w)
  let s := s.setGroup gn { g with st := .loading, x := x, y := y, save := none }
  let s := sv.elems.foldl (fun s p => s.setElem (tile (p.1 / 64) + p.1 % 64) (p.2.relocate g x y s.now)) s
  let s := (List.range (g.w * g.h)).foldl (fun s i => s.zeroBytes (windowBase (tile i)) 0x2000000) s
  let s := sv.bytes.foldl (fun s c => s.writeByte (windowBase (tile (c.1 / 2 ^ 26)) + c.1 % 2 ^ 26) c.2) s
  let s := sv.marks.foldl (fun s c => s.setPoison (unitOf (windowBase (tile (c / 2 ^ 26)) + c % 2 ^ 26)) true) s
  let s := sv.bars.foldl (fun s b => s.modHub (tile b.1) (fun h =>
    { h with bars := b.2.foldl (fun m x => tput .zero x.1 { x.2 with past := (tget .zero x.1 m).past } m) h.bars })) s
  let s := sv.parts.foldl (fun s b => s.modHub (tile b.1) (fun h => { h with parts := b.2 })) s
  let s := sv.flows.foldl (fun s f => s.placeFlow g x y f.2.2) s
  let s := (List.range (g.w * g.h)).foldl (fun s i => s.buildSpill (tile i)) s
  let send (s : State) (r : MReq) : State :=
    let r := movedReq g x y s.now r
    s.toSlice (s.now + 1) r []
  let s := (sv.held ++ sv.defers).foldl send s
  let s := sv.elems.foldl (fun s p => s.startEngines (tile (p.1 / 64) + p.1 % 64)) s
  ((s.modGroup gn (fun g => { g with st := .live, kern := { g.kern with st := .resident } })).noteHubs gn).takeLoaded gn

/-- The header of a save keeps Table 12-3, fits the group, and names this module. -/
def State.saveFits (s : State) (gn : Nat) (sv : Save) : Bool :=
  let g := s.group gn
  sv.magic == 0x534B5255 && sv.version == 1 && sv.rsv == 0 && sv.size == sv.areaSize && sv.nrec == sv.recs.length &&
    sv.module == s.module && sv.grp == gn && sv.dom == g.dom && sv.w == g.w && sv.h == g.h && sv.kid == g.kern.kid

/-- A restore that is refused has CFG_ILLEGAL, detail 0x24, as its status; the group stays SAVED (R310). -/
def State.refuseRestore (s : State) (gn : Nat) : State := s.modGroup gn (fun g => { g with restat := 0x32 + 256 * 0x24 })

/-- The save of a group may be restored: the digest computed again is the one kept, over bytes that nothing has altered (`intact`), and
the header holds (R310). -/
def State.saveHolds (s : State) (gn : Nat) (sv : Save) (intact : Bool) : Bool :=
  intact && s.saveFits gn sv && sv.digest == (s.group gn).digest

/-- Reservations through the module tile map that were made in this cycle before one now, by an agent of a die for tiles of another,
which is granted that many fc later (R299). DESIGN CHOICE (log 71): the tiles are held from the decision on, and the load or start that
follows the grant waits. -/
def State.mapUsed (die x y w h : Nat) : Bool := (rectTiles x y w h).any (fun t => eaDie t != die)
def State.mapDelay (s : State) (die : Nat) (o : Nat × Nat) (w h : Nat) : Nat :=
  if State.mapUsed die o.1 o.2 w h then s.groups.countP (fun g => g.2.placed == some (s.now, true)) else 0

/-- R310, R311: a SAVED group whose save holds is placed at the first free rectangle of its shape by an agent of a die, and its records
are written back; none where there is no such rectangle or save. -/
def State.restoreGroup (s : State) (gn die : Nat) (intact : Bool) : Option State :=
  let g := s.group gn
  match g.st == .saved, g.save, s.firstOrigin g.w g.h with
  | true, some sv, some o =>
    if s.saveHolds gn sv intact then
      some ((s.loadSave gn o.1 o.2 sv).modGroup gn (fun g => { g with
        restat := 0, digest := [], placed := some (s.now, State.mapUsed die o.1 o.2 g.w g.h) }))
    else none
  | _, _, _ => none

/-- The head of a queue, or another entry, leaves it: the oldest entry of the backing ring moves in (R314); a DRAINING queue that is
empty is DISABLED (Table 13-3). -/
def Queue.leave (q : Queue) (lid : Nat) : Queue :=
  let ents := q.ents.erase lid
  let fits := ents.length < Config.queueEntries
  let q := { q with ents := if fits then ents ++ q.back.take 1 else ents, back := if fits then q.back.drop 1 else q.back }
  if q.st == .draining && q.ents.isEmpty && q.back.isEmpty then { q with st := .disabled } else q

/-- A launch of the group waits in its queue: its next placement restores it, and nothing else does (Table 13-7). -/
def State.launchWaits (s : State) (gn : Nat) : Bool := (((s.group gn).lid.bind s.launch).map (·.saved)).getD false

/-- R310, R311: a SAVED group is restored, by an agent of the die where it stood. One whose launch is QUEUED is restored by its scheduler
(R324, R326); one without a launch is RESIDENT and starts nothing that would wait for the reservation of its tiles (R299). -/
def execRestore (gn : Nat) (digestOk : Bool) (s : State) : Out1 := .next <|
  let g := s.group gn
  let die := eaDie g.origin
  if g.st != .saved || s.launchWaits gn then s
  else match g.save, s.firstOrigin g.w g.h with
  | some sv, some _ =>
    if !s.saveHolds gn sv digestOk then s.refuseRestore gn
    else (s.restoreGroup gn die digestOk).getD s
  | _, _ => s

/-! ## Reuse (Table 12-1) -/

/-- A RETIRED group of a shape that runs no launch any more: the scheduler may reuse the lowest (log 70). -/
def State.reusable (s : State) (w h : Nat) : Option Nat :=
  (s.groups.find? (fun g => g.2.st == .retired && g.2.w == w && g.2.h == h && g.2.tiles.all (fun t => (s.die (eaDie t)).released.isSome))).map
    (·.1)

/-- A RETIRED group is RESERVED again for a domain: its number, its tiles, and its planes until the next install (Table 12-1). -/
def State.reuseGroup (s : State) (gn dom : Nat) : State :=
  let g := s.group gn
  (s.purge gn).setGroup gn { Group.zero with
    st := .reserved, dom := dom, x := g.x, y := g.y, w := g.w, h := g.h }

end Sys2Proof.Machine
end

