-- ==== Sys2Proof/Machine/Command.lean ====
section
/-! DEFINITION. Commands (R278 to R287, R417): cfgw, cfgswap, errinj, errlog, ptroot and pack, the partial reconfiguration,
and the swaps of a splice (R289 to R294). A command takes effect when its event comes (R279, `State.issue`). -/

namespace Sys2Proof

/-- The element address of a cfgw. -/
def Cmd.ea (c : Cmd) : Nat := c.addr.toNat % 2 ^ 14
/-- Fields of ADDR (Table 11-4). -/
def Cmd.plane (c : Cmd) : Nat := c.addr.toNat / 2 ^ 14 % 4
def Cmd.index (c : Cmd) : Nat := c.addr.toNat / 2 ^ 20 % 64
def Cmd.sub (c : Cmd) : Nat := c.addr.toNat / 2 ^ 26 % 8
def Cmd.wt (c : Cmd) : Nat := c.addr.toNat / 2 ^ 29 % 16
/-- Fields of a cfgswap VALUE (Table 11-6). -/
def Cmd.scope (c : Cmd) : Bool := c.value.getLsbD 2
def Cmd.kid16 (c : Cmd) : BitVec 16 := c.value.extractLsb' 16 16
/-- OP of the action word. -/
def Cmd.op (c : Cmd) : Nat := c.action.toNat / 2 ^ 24
/-- The element that the status of a cfgswap names: its own, or 0 for group scope (Table 11-3). -/
def Cmd.swapEa (c : Cmd) : Nat := if c.scope then 0 else c.ea
/-- The bits of the action word beside OP, and the reserved bytes, are 0. -/
def Cmd.clean (c : Cmd) : Bool := c.action.toNat % 2 ^ 24 == 0 && c.rsv == 0

end Sys2Proof

namespace Sys2Proof.Machine

/-! ## Status words (Table 11-3) -/

abbrev codeBusy : Nat := 0x31
abbrev codeIllegal : Nat := 0x32
abbrev codeSplice : Nat := 0x33

/-- A command's status word. -/
def statusWord (code detail ea : Nat) (part : Bool) : Word :=
  BitVec.ofNat 64 (code + detail * 2 ^ 8 + ea % 2 ^ 14 * 2 ^ 16 + (if part then 2 ^ 30 else 0))

def State.cport (s : State) (die port : Nat) : CPort := tget .zero (8 * die + port) s.cports
def State.modCport (s : State) (die port : Nat) (f : CPort → CPort) : State :=
  { s with cports := tput .zero (8 * die + port) (f (s.cport die port)) s.cports }

/-- A status word is at its port in cycle `t` (R279). -/
def State.reply (s : State) (die port t : Nat) (w : Word) : State :=
  s.modCport die port (fun p => { p with replies := p.replies ++ [(t, w)] })

/-- The largest number of col crossings from a die to a group's tiles. -/
def groupCross (g : Group) (die : Nat) : Nat := g.tiles.foldl (fun m t => max m (dieDist die (eaDie t))) 0

/-- The col crossings of a command (R279). -/
def State.cmdCross (s : State) (c : Cmd) : Nat :=
  let a := c.addr.toNat
  match c.op with
  | 0xF0 => dieDist c.die (eaDie c.ea)
  | 0xF1 => if c.scope then groupCross (s.group (a % 65536)) c.die else dieDist c.die (eaDie c.ea)
  | 0xF2 =>
    match c.value.toNat % 16 with
    | 0 | 1 => if regionOf a == .window then dieDist c.die (eaDie (windowEa a)) else 0
    | 8 => if regionOf a == .hbm then dieDist c.die (stackOf a / 2) else 0
    | _ => dieDist c.die (eaDie c.ea)
  | 0xF3 => dieDist c.die (if c.addr.getLsbD 0 then a / 2 % 256 / 2 % 8 else a / 2 % 256 / 32)
  | 0xF5 => groupCross (s.group (a % 65536)) c.die
  | _ => 0

/-- The status of a command that takes effect now reaches its port 6 + 24·c fc later (R279). -/
def State.answer (s : State) (c : Cmd) (code detail ea : Nat) : State :=
  s.reply c.die c.port (s.now + 6 + 24 * s.cmdCross c) (statusWord code detail ea false)

/-! ## cfgw: element items (R280, R281) -/

/-- An element is busy (R278). -/
def State.busyElem (s : State) (ea : Nat) : Bool :=
  match s.groupAt ea with
  | some gn => ((s.group gn).st == .live || (s.group gn).st == .draining) && !(s.elem ea).active.isEmpty
  | none => false

/-- The plane that PLANE names: true for plane 1. -/
def Elem.planeOf (e : Elem) (plane : Nat) : Bool :=
  match plane with
  | 0 => e.act
  | 1 => !e.act
  | 2 => false
  | _ => true

/-- INDEXes of an item at a site (R281). -/
def itemTop (ea item : Nat) : Nat :=
  match item with
  | 0 => 1
  | 1 | 2 | 3 => slotsOf (match physKind ea with | 0 => .te | 1 => .se | _ => .me)
  | 4 | 5 | 6 => 32
  | 7 => if physKind ea == 2 then 1 else 0
  | 8 => if physKind ea == 1 then 64 else 0
  | _ => 0

/-- SUBs of an item. -/
def subTop (item : Nat) : Nat :=
  match item with
  | 6 => 8
  | 7 | 8 => 2
  | _ => 1

/-- The check on write of Table 11-5. -/
def itemOk (p : Plane) (c : Cmd) (item : Nat) : Bool :=
  let v := c.value
  match item with
  | 0 => (ecwCheck c.ea v).isNone
  | 2 => v >>> 32 == 0
  | 4 => v == 0 || chanOk c.index v
  | 5 => v.toNat ≤ 8
  | 6 => c.sub < (p.route c.index).n && (if tgtIsReq v then !v.getLsbD 47 && v >>> 60 == 0 else v >>> 40 == 0)
  | 7 => if c.sub == 0 then v.toNat / 2 ^ 52 % 16 == 0 else v.extractLsb' 14 2 == 0 && v >>> 20 == 0
  | 8 => if c.sub == 0 then v >>> 61 == 0 else v >>> 48 == 0
  | _ => true

/-- One half of a record replaced. -/
def setHalf (r : Word × Word) (sub : Nat) (v : Word) : Word × Word := if sub == 0 then (v, r.2) else (r.1, v)

/-- The plane with an item written. -/
def Plane.setItem (p : Plane) (c : Cmd) (item : Nat) : Plane :=
  let v := c.value
  let i := c.index
  match item with
  | 0 => { p with ecw := v }
  | 1 => { p with slots := tput .zero i { p.slot i with guard := v } p.slots }
  | 2 => { p with slots := tput .zero i { p.slot i with action := v.setWidth 32 } p.slots }
  | 3 => { p with slots := tput .zero i { p.slot i with lit := v } p.slots }
  | 4 => { p with chans := tput 0 i v p.chans }
  | 5 => { p with routes := tput .zero i { p.route i with n := v.toNat } p.routes }
  | 6 => { p with routes := tput .zero i { p.route i with targets := tput 0 c.sub v (p.route i).targets } p.routes }
  | 7 => { p with meb := setHalf p.meb c.sub v }
  | 8 => { p with handles := tput (0, 0) i (setHalf (p.handle i) c.sub v) p.handles }
  | _ => p

/-- The mask of RND and WW in an ECW. -/
abbrev rndWw : Word := 0xFC0

/-- An ECW that takes the RND and WW of another. -/
def setRndWw (w v : Word) : Word := (w &&& ~~~rndWw) ||| (v &&& rndWw)

/-- Two ECWs differ in RND, WW or both, and in nothing else. -/
def rndWwOnly (w v : Word) : Bool := w != v && (w ^^^ v) &&& ~~~rndWw == 0

/-- A cfgw of an element item that breaks R281. -/
def State.itemBad (s : State) (c : Cmd) (item : Nat) : Bool :=
  let e := s.elem c.ea
  c.addr >>> 33 != 0 || c.wt != 0 || c.index ≥ itemTop c.ea item || c.sub ≥ subTop item ||
    !itemOk (e.plane (e.planeOf c.plane)) c item

/-- The active plane is about to change in cycle `now`: what it was is kept for the firings of that cycle (R281). -/
def Elem.keepWas (e : Elem) (now : Nat) : Elem :=
  if (e.was.map (·.1)) == some now then e else { e with was := some (now, e.active, e.work.ecw) }

/-- A cfgw of an element item (R278, R280, R281, R284, R294). -/
def State.cfgw (s : State) (c : Cmd) (item : Nat) : State :=
  let ea := c.ea
  let e := s.elem ea
  let one := e.planeOf c.plane
  if !c.clean then s.answer c codeIllegal 0xFF ea
  else if s.itemBad c item then s.answer c codeIllegal item ea
  else if one == e.act && s.busyElem ea then
    if item == 0 && rndWwOnly e.work.ecw c.value then
      (s.modElem ea (fun e => { e with partials := e.partials ++ [(c.value, c.die, c.port)] })).at_ s.now
        (.partialReconfigInstall ea)
    else s.answer c codeBusy 0 ea
  else
    let p := e.plane one
    let e := if one == e.act then e.keepWas s.now else e
    let e := e.setPlane one (p.setItem c item)
    let e := if one == e.act && item == 0 && rndWwOnly p.ecw c.value then
        { e with work := { e.work with ecw := setRndWw e.work.ecw c.value } }
      else e
    let e := if one != e.act && e.armed then { e with armedWrite := e.armedWrite.orElse (fun _ => some c.addr) } else e
    (s.setElem ea e).answer c 0 0 ea

/-- Table 11-5, ITEM 0. -/
def execCfgwEcw (c : Cmd) (s : State) : Out1 := .next (s.cfgw c 0)
/-- Table 11-5, ITEM 1. -/
def execCfgwGuard (c : Cmd) (s : State) : Out1 := .next (s.cfgw c 1)
/-- Table 11-5, ITEM 2. -/
def execCfgwAction (c : Cmd) (s : State) : Out1 := .next (s.cfgw c 2)
/-- Table 11-5, ITEM 3. -/
def execCfgwLiteral (c : Cmd) (s : State) : Out1 := .next (s.cfgw c 3)
/-- Table 11-5, ITEM 4. -/
def execCfgwChannel (c : Cmd) (s : State) : Out1 := .next (s.cfgw c 4)
/-- Table 11-5, ITEM 5. -/
def execCfgwRouteHeader (c : Cmd) (s : State) : Out1 := .next (s.cfgw c 5)
/-- Table 11-5, ITEM 6. -/
def execCfgwRouteTarget (c : Cmd) (s : State) : Out1 := .next (s.cfgw c 6)
/-- Table 11-5, ITEM 7. -/
def execCfgwMeBinding (c : Cmd) (s : State) : Out1 := .next (s.cfgw c 7)
/-- Table 11-5, ITEM 8. -/
def execCfgwHandleRecord (c : Cmd) (s : State) : Out1 := .next (s.cfgw c 8)

/-! ## Partial reconfiguration (R284) -/

/-- A result of the element's firings is on its way (R123). -/
def State.resultsOut (s : State) (ea : Nat) : Bool :=
  s.agenda.any (fun x => match x.instr with
    | .resultDelivery d => d.ea == ea && d.epoch == (s.elem ea).epoch
    | _ => false) || s.links.any (fun l => l.2.q.any (fun t => t.parcel.any (fun p => p.evs.any (fun x => match x.2 with
    | .resultDelivery d => d.ea == ea && d.epoch == (s.elem ea).epoch
    | _ => false))))

/-- A register or predicate of the element is marked pending (R86). -/
def Elem.marked (e : Elem) : Bool := e.ctxs.any (fun c => c.2.pendReg != 0 || c.2.pendPred != 0)

/-- R284: the new RND and WW are installed in the first cycle that starts with nothing in flight; slots are eligible from
the next. -/
def execPartialReconfigInstall (ea : Nat) (s : State) : Out1 := .next <|
  let e := s.elem ea
  match e.partials.getLast? with
  | none => s
  | some l =>
    if s.resultsOut ea || e.marked || e.me.loading then s.after 1 (.partialReconfigInstall ea)
    else
      let p := e.active
      let e' := { e.setPlane e.act { p with ecw := setRndWw p.ecw l.1 } with
        work := { e.work with ecw := setRndWw e.work.ecw l.1 }, partials := [], holdUntil := s.now + 1 }
      e.partials.foldl (fun s x => s.reply x.2.1 x.2.2 (s.now + 6 + 24 * dieDist x.2.1 (eaDie ea)) (statusWord 0 0 ea true))
        (s.setElem ea e')

/-! ## cfgw: hub items (R283) -/

/-- The rules of R283 on ADDR. -/
def hubAddrOk (c : Cmd) (item : Nat) : Bool :=
  c.addr >>> 33 == 0 && c.plane == 0 && c.sub == 0 && (item == 11 || c.wt == 0) && c.ea % 64 == 0

/-- A hub item that is well addressed acts by `f`; any other is refused. -/
def State.cfgwHub (s : State) (c : Cmd) (item : Nat) (f : State → State) : State :=
  if !c.clean then s.answer c codeIllegal 0xFF c.ea
  else if !hubAddrOk c item then s.answer c codeIllegal item c.ea
  else f s

/-- A partition from the VALUE of ITEM 9. -/
def partOf (v : Word) : Part := ⟨v.toNat % 512, v.toNat / 2 ^ 9 % 512, v.toNat / 2 ^ 18 % 4⟩

/-- The write of a partition breaks R283. -/
def partBad (h : Hub) (n : Nat) (v : Word) : Bool :=
  let p := partOf v
  n > 7 || v >>> 20 != 0 || p.first > 383 || p.first + p.count > 384 ||
    (p.count != 0 && h.parts.any (fun q => q.1 != n && overlap p.first p.count q.2.first q.2.count))

/-- A port queue of one of the banks of a partition holds a request (R177). -/
def State.partQueued (s : State) (tile : Nat) (p : Part) : Bool :=
  (List.range p.count).any (fun i => !(s.bank (bankOf (tsAddr tile (p.first + i) 0))).q.isEmpty)

/-- A partition is declared, changed or removed; accesses go by the new mapping from the next cycle (R283). -/
def State.setPart (s : State) (tile n : Nat) (p : Part) : State :=
  s.modHub tile (fun h => { h with
    parts := tput .zero n (if p.count == 0 then .zero else p) h.parts
    was := if (h.was.map (·.1)) == some s.now then h.was else some (s.now, h.parts) })

/-- Table 11-5, ITEM 9 (R283, R177). -/
def execCfgwPartition (c : Cmd) (s : State) : Out1 :=
  .next (s.cfgwHub c 9 (fun s =>
    let old := (s.hub c.ea).part c.index
    let p := partOf c.value
    if partBad (s.hub c.ea) c.index c.value then s.answer c codeIllegal 9 c.ea
    else if p != old && (s.partQueued c.ea old || s.partQueued c.ea p) then s.answer c codeBusy 0 c.ea
    else (s.setPart c.ea c.index p).answer c 0 0 c.ea))

/-- The barrier is ARMED in a group that is LIVE or DRAINING (R283). -/
def State.barBusy (s : State) (tile n : Nat) : Bool :=
  match s.groupAt tile with
  | some gn => ((s.group gn).st == .live || (s.group gn).st == .draining) && ((s.hub tile).bar n).st == .armed
  | none => false

/-- A barrier as an install leaves it (R329, R330). -/
def State.initBar (s : State) (tile n expect : Nat) (targets : List Word) : State :=
  s.modBar tile n (fun b => { Bar.zero with
    past := b.past, st := if expect == 0 then .free else .armed, expect := expect, waiters := targets })

/-- Table 11-5, ITEM 10 (R283, R329, R330): targets are 0 until ITEM 11 writes them. -/
def execCfgwBarrierInit (c : Cmd) (s : State) : Out1 :=
  .next (s.cfgwHub c 10 (fun s =>
    let n := c.value.toNat / 2 ^ 16 % 32
    if c.index > 31 || n > 16 || c.value >>> 21 != 0 then s.answer c codeIllegal 10 c.ea
    else if s.barBusy c.ea c.index then s.answer c codeBusy 0 c.ea
    else
      let old := ((s.hub c.ea).bar c.index).waiters
      (s.initBar c.ea c.index (c.value.toNat % 65536) ((old ++ List.replicate 16 0).take n)).answer c 0 0 c.ea))

/-- A waiter target breaks R330, judged on the tile's hub alone (R283). -/
def State.waiterBad (s : State) (tile n i : Nat) (v : Word) : Bool :=
  let h := s.hub tile
  let outside := match s.groupAt tile with
    | some gn => !(s.group gn).inside (tgtTx v) (tgtTy v)
    | none => false
  let twice := h.bars.any (fun b =>
    ((List.range b.2.waiters.length).zip b.2.waiters).any (fun w => (b.1 != n || w.1 != i) && w.2 == v && v != 0))
  v >>> 40 != 0 || (tgtCh v).toNat > 31 || tgtSx v > 7 || tgtSy v > 7 || outside || twice

/-- Table 11-5, ITEM 11 (R283, R330). -/
def execCfgwWaiterTarget (c : Cmd) (s : State) : Out1 :=
  .next (s.cfgwHub c 11 (fun s =>
    let b := (s.hub c.ea).bar c.index
    if c.index > 31 || c.wt ≥ b.waiters.length || s.waiterBad c.ea c.index c.wt c.value then s.answer c codeIllegal 11 c.ea
    else if s.barBusy c.ea c.index then s.answer c codeBusy 0 c.ea
    else
      (s.modBar c.ea c.index (fun b =>
        { b with waiters := b.waiters.mapIdx (fun i w => if i == c.wt then c.value else w) })).answer c 0 0 c.ea))

/-- Credits of a pool that are held, or on their way, are discarded (R283). -/
def State.dropCredits (s : State) (gn k : Nat) : State :=
  let g := s.group gn
  let onWay : List Nat := s.agenda.filterMap (fun x => match x.instr with
    | .tagCreditArrival ea k' _ _ => if k' == k && g.covers ea then some ea else none
    | _ => none)
  let drop (ea : Nat) (e : Elem) : Elem :=
    match tget .none k e.tagCreds with
    | .held _ _ => { e with tagCreds := tput .none k .none e.tagCreds }
    | _ => if onWay.contains ea then { e with tagCreds := tput .none k .none e.tagCreds } else e
  { s with
    agenda := s.agenda.filter (fun x => match x.instr with
      | .tagCreditArrival ea k' _ _ => !(k' == k && g.covers ea)
      | _ => true)
    elems := tmap .zero (fun ea e => if g.covers ea then drop ea e else e) s.elems }

/-- The limits of R96, and no tag shared with another pool of the group. -/
def poolBad (g : Group) (k first count reserve : Nat) : Bool :=
  k > 7 || (count != 0 && (count > 64 || first + count > 256 || reserve ≥ count ||
    g.pools.any (fun q => q.1 != k && q.2.declared && overlap first count q.2.first q.2.count)))

/-- A pool is declared or removed (R283): waiting requests keep their order and are served once it is declared. -/
def State.setPool (s : State) (gn k first count reserve : Nat) : State :=
  let s := s.modPool gn k (fun p => { p with
    declared := count != 0, known := p.known || count != 0, first := first, count := count, reserve := reserve,
    freeTags := (List.range count).map (fun i => BitVec.ofNat 8 (first + i)) })
  s.at_ s.now (.tagGrant gn k)

/-- Table 11-5, ITEM 12 (R283, R96, R97). -/
def execCfgwTagPool (c : Cmd) (s : State) : Out1 :=
  .next (s.cfgwHub c 12 (fun s =>
    match s.groupAt c.ea with
    | none => s.answer c codeIllegal 12 c.ea
    | some gn =>
      let g := s.group gn
      let v := c.value.toNat
      if g.origin != c.ea || c.value >>> 24 != 0 || poolBad g c.index (v % 256) (v / 256 % 256) (v / 65536 % 256) then
        s.answer c codeIllegal 12 c.ea
      else if g.st != .reserved && g.st != .loading && g.st != .fenced then s.answer c codeBusy 0 c.ea
      else ((s.dropCredits gn c.index).setPool gn c.index (v % 256) (v / 256 % 256) (v / 65536 % 256)).answer c 0 0 c.ea))

/-! ## cfgswap (R285 to R287) -/

/-- What a cfgswap names: a group number, if any, the group or the tile on its own, and the elements; none where a field is
reserved or a group undefined (R285). -/
def State.swapNames (s : State) (c : Cmd) (needsGroup : Bool) : Option (Option Nat × Group × List Nat) :=
  let a := c.addr.toNat
  if c.value.extractLsb' 3 13 != 0 || c.value >>> 32 != 0 then none
  else if c.scope then
    let g := s.group (a % 65536)
    if a / 65536 != 0 || !g.holdsTiles then none else some (some (a % 65536), g, g.sites)
  else if a / 2 ^ 14 != 0 || needsGroup then none
  else
    let gn := s.groupAt a
    let alone : Group := { Group.zero with x := eaTx a, y := eaTy a }
    some (gn, (gn.map s.group).getD alone, [a])

/-- The kernel of the new planes: the staged successor, where the shadow planes held one, or else the group's own (R287). -/
def Group.resident (g : Group) : Group :=
  if g.succ.st == .staged && !g.armed then { g with kern := { g.succ with st := .resident }, succ := .zero, heldData := [] }
  else { g with kern := { g.kern with st := .resident } }

/-- The kernel of the swapped planes is RESIDENT, and a group whose load this ends is LIVE (R287, Tables 11-1, 12-1). -/
def State.residentGroup (s : State) (gn : Nat) : State :=
  let loads := (s.group gn).st == .loading
  let s := s.modGroup gn (fun g => { g.resident with st := if loads then .live else g.st })
  if loads then s.takeLoaded gn else s.takeWaiting gn

/-- SWAP (R286, R287), as a code, a detail and an element, or the state after. -/
def State.swap (s : State) (gn : Option Nat) (g : Group) (eas : List Nat) (scope : Bool) (kid : BitVec 16) :
    Sum (Nat × Nat × Nat) State :=
  match (s.planeEnv g eas).check kid eas with
  | some (k, ea) => .inl (codeIllegal, k, ea)
  | none =>
    match eas.find? s.busyElem with
    | some ea => .inl (codeBusy, 0, if scope then 0 else ea)
    | none =>
      let s := s.swapPlanes g eas
      match scope, gn with
      | true, some n => .inr (s.residentGroup n)
      | _, _ => .inr s

/-- R287. -/
def execCfgswapSwap (c : Cmd) (s : State) : Out1 := .next <|
  if !c.clean then s.answer c codeIllegal 0xFF c.swapEa
  else match s.swapNames c false with
  | none => s.answer c codeIllegal 0xFE c.swapEa
  | some (gn, g, eas) =>
    match s.swap gn g eas c.scope c.kid16 with
    | .inl (code, d, ea) => s.answer c code d ea
    | .inr s' => s'.answer c 0 0 c.swapEa

/-- A staged successor that is not armed is discarded (Table 11-1). -/
def Group.unstage (g : Group) : Group :=
  if g.succ.st == KSt.staged && !g.armed then { g with succ := .zero, heldData := [] } else g

/-- R287: the empty plane is written to the shadows; staging is discarded (Table 11-1). -/
def execCfgswapClear (c : Cmd) (s : State) : Out1 := .next <|
  if !c.clean then s.answer c codeIllegal 0xFF c.swapEa
  else match s.swapNames c false with
  | none => s.answer c codeIllegal 0xFE c.swapEa
  | some (gn, _, eas) =>
    match eas.find? (fun ea => (s.elem ea).armed) with
    | some ea => s.answer c codeSplice 7 (if c.scope then 0 else ea)
    | none =>
      let s := eas.foldl (fun s ea => s.modElem ea (fun e => e.setPlane (!e.act) .zero)) s
      let s : State := match gn with
        | some n => s.modGroup n Group.unstage
        | none => s
      s.answer c 0 0 c.swapEa

/-! ## Splices (R288 to R294) -/

/-- What decides a tile's spill map: the enabled TE contexts, and SPILL, of the sites that have any (R190). -/
def spillKey (plane : Nat → Plane) (tile : Nat) : List (Nat × Nat × Nat) :=
  (sitesOf tile).filterMap (fun ea =>
    let w := (plane ea).ecw
    match ecwKind w with
    | .te => if ecwCtxen w == 0 then none else some (ea % 64, 0, (ecwCtxen w).toNat)
    | .se => if ecwSpill w == 0 then none else some (ea % 64, 1, ecwSpill w)
    | _ => none)

/-- For each output, the targets that take a CFG word of a swap: those whose active plane binds CFGIN (R291). -/
def State.cfgTargets (s : State) (ea : Nat) : List (List Word) :=
  let g := s.group (s.groupNo ea)
  let p := (s.elem ea).work
  (List.range 32).map (fun o =>
    let r := p.route o
    if r.isReq then []
    else ((List.range r.n).map r.target).filter (fun x =>
      chanCfgin ((s.elem (g.targetEa x)).work.chanWord (tgtCh x).toNat)))

/-- The rows of 64 bytes that held records of an SE write (R291). -/
def heldRows (l : List (Nat × Nat × List Byte)) : List Nat :=
  sortNat (l.flatMap (fun x => (List.range ((x.2.1 % 64 + x.2.2.length + 63) / 64)).map (fun i => x.2.1 / 64 + i)))

/-- Clean data written through an SRAM window (R410). -/
def State.windowBytes (s : State) (a : Nat) (b : List Byte) : State :=
  let s := s.writeBytes a b
  { s with poison := s.poison.filter (fun u => 8 * u + 7 < a || a + b.length ≤ 8 * u) }

/-- The rows that are still to be written for an SE that has swapped. -/
def Group.rowsHeld (g : Group) (ea : Nat) : Nat := (heldRows (g.rowData.filter (fun x => x.1 == ea))).length

/-- Records held for the SEs of a group that have swapped are written: of each SE one row of 64 bytes in a cycle (R288, R291). -/
def State.writeHeldRows (s : State) (gn : Nat) : State :=
  let g := s.group gn
  if g.rowData.isEmpty then s
  else
    let due (ea : Nat) : Bool := (s.elem ea).holdUntil ≤ s.now + g.rowsHeld ea
    let now_ (x : Nat × Nat × List Byte) : Bool :=
      due x.1 && g.rowData.all (fun y => y.1 != x.1 || x.2.1 / 64 ≤ y.2.1 / 64)
    let room (x : Nat × Nat × List Byte) : Nat := 64 - x.2.1 % 64
    let s := (g.rowData.filter now_).foldl (fun s x => s.windowBytes (seAddr x.1 x.2.1) (x.2.2.take (room x))) s
    s.modGroup gn (fun g => { g with rowData := g.rowData.filterMap (fun x =>
      if !now_ x then some x
      else if x.2.2.length ≤ room x then none
      else some (x.1, x.2.1 + room x, x.2.2.drop (room x))) })

/-- The spill areas of an element's contexts read 0 (R291). -/
def State.zeroSpill (s : State) (ea : Nat) : State :=
  (s.elem ea).ctxs.foldl (fun s c =>
    let w := c.2.spillBase.toNat
    s.zeroBytes (seAddr (seSite (tileOf ea) (w / 2 ^ 19 % 16)) (w % 2 ^ 19)) (w / 2 ^ 24 % 2 ^ 20)) s

/-- Every element has swapped: the predecessor is RETIRED and the splice is disarmed (R291); the launch stays RUNNING (R443). -/
def State.spliceDone (s : State) (gn : Nat) : State :=
  (s.modGroup gn (fun g => { g with kern := { g.succ with st := .running }, succ := .zero, armed := false })).takeWaiting gn

/-- An element of an armed group swaps (R291): its slots wait until the rows held for it are written. -/
def State.spliceOne (s : State) (gn ea : Nat) : State :=
  let e := s.elem ea
  let cfg := s.cfgTargets ea
  let w : CWord := ⟨0, 0, .cfg⟩
  let s := cfg.foldl (fun s xs => s.launchCopies (s.now + 1) ea (xs.map (fun x =>
    ⟨(s.group gn).targetEa x, (tgtCh x).toNat, w, dparOf w.data, tparOf w, .none, e.wave⟩))) s
  let s := s.setElem ea { e.activate (!e.act) s.now with wave := e.wave + 1 }
  let s := s.modGroup gn (fun g => { g with
    heldData := g.heldData.filter (fun x => x.1 != ea), rowData := g.rowData ++ g.heldData.filter (fun x => x.1 == ea) })
  let s := ((s.buildSpill (tileOf ea)).zeroSpill ea).modElem ea (fun e =>
    { e with holdUntil := s.now + 1 + (s.group gn).rowsHeld ea })
  s.modGroup gn (fun g => if g.succ.st == .staged then { g with succ := { g.succ with st := .running } } else g)

/-- An element that waited swaps; after the last one the splice is over (R291). -/
def State.spliceElem (s : State) (gn ea : Nat) : State :=
  let s := s.spliceOne gn ea
  if (s.group gn).sites.any (fun x => (s.elem x).armed) then s else s.spliceDone gn

/-- A group is armed (R289): elements whose active plane alone is empty swap at once. -/
def State.armGroup (s : State) (gn : Nat) (kid : BitVec 16) : State :=
  let g := s.group gn
  let succ := if g.succ.st == KSt.staged then g.succ else { Kern.zero with st := KSt.staged, kid := kid.setWidth 64 }
  let s := s.setGroup gn { g with armed := true, kern := { g.kern with st := .draining }, succ := succ }
  let old := g.sites.filter (fun ea => !(s.elem ea).active.isEmpty)
  let new := g.sites.filter (fun ea => (s.elem ea).active.isEmpty && !(s.elem ea).shadow.isEmpty)
  let w := s.waveOf g
  let s := old.foldl (fun s ea => s.modElem ea (fun e => { e with armed := true, armedWrite := none })) s
  let s := new.foldl (fun s ea => (s.modElem ea (fun e => { e with wave := w })).spliceOne gn ea) s
  if old.isEmpty then s.spliceDone gn else s

/-- SPLICE (R286, R289), as a code, a detail and an element, or the state after. The splice rules that say something of planes
are 1, 5 and 6 of R288; DEDUCED (log 69): the first comes before the plane checks, the others after them. -/
def State.splice (s : State) (gn : Nat) (kid : BitVec 16) : Sum (Nat × Nat × Nat) State :=
  let g := s.group gn
  if g.st != .live || g.kern.st != .running || g.armed then .inl (codeSplice, 1, 0)
  else match (s.planeEnv g g.sites).check kid g.sites with
  | some (k, ea) => .inl (codeIllegal, k, ea)
  | none =>
    if g.tiles.any (fun t => spillKey (fun ea => (s.elem ea).active) t != spillKey (fun ea => (s.elem ea).shadow) t) then
      .inl (codeSplice, 5, 0)
    else if kid == g.kern.kid.setWidth 16 then .inl (codeSplice, 6, 0)
    else .inr (s.armGroup gn kid)

/-- R289. -/
def execCfgswapSplice (c : Cmd) (s : State) : Out1 := .next <|
  if !c.clean then s.answer c codeIllegal 0xFF c.swapEa
  else match s.swapNames c true with
  | some (some gn, _, _) =>
    (match s.splice gn c.kid16 with
    | .inl (code, d, ea) => s.answer c code d ea
    | .inr s' => s'.answer c 0 0 0)
  | _ => s.answer c codeIllegal 0xFE c.swapEa

/-- R291, R294: the event comes when the element was drained at the end of the cycle before (`State.triggerSplice`). -/
def execSpliceSwap (ea : Nat) (s : State) : Out1 := .next <|
  let gn := s.groupNo ea
  let e := s.elem ea
  if !e.armed || (s.group gn).st != .live then s
  else match e.armedWrite with
  | some a => s.raiseGroup gn ea ea codeSplice 1 a
  | none => s.spliceElem gn ea

/-- The first input channel of an armed element that holds a word other than a CFG word (R290, R293). -/
def Elem.offending (e : Elem) : Option (Nat × QWord) :=
  e.chans.findSome? (fun c => (c.2.q.find? (fun w => w.word.kind != .cfg)).map (fun w => (c.1, w)))

/-- R293: the event comes when the element is settled (`State.triggerSplice`). -/
def execSpliceSettled (ea : Nat) (s : State) : Out1 := .next <|
  let gn := s.groupNo ea
  match (s.elem ea).offending with
  | none => s
  | some (ch, w) =>
    if (s.group gn).st != .live then s
    else (s.modChan ea ch (fun c => { c with st := .stray })).raiseGroup gn ea ea 0x30 ch w.word.data

/-! ## errinj, errlog, ptroot, pack (R417) -/

/-- The unit, or the holder of the entry, that an errinj names: an element, a tile, a die or a stack (log 35); none where ADDR, VALUE or the action word is outside Table 18-7. -/
def injTarget (c : Cmd) : Option (Nat × Nat) :=
  let a := c.addr.toNat
  let array := c.value.toNat % 16
  if !c.clean || c.value >>> 13 != 0 || array > 12 || c.value.toNat / 64 % 128 > 71 then none
  else if array == 0 || array == 1 || array == 8 then
    if arrayOf a == array && (regionOf a == .window || regionOf a == .hbm) then some (array, unitOf a) else none
  else if a / 2 ^ 14 != 0 then none
  else some (array, match array with
    | 6 | 7 => tileOf a
    | 9 | 11 | 12 => eaDie a
    | 10 => a % 16
    | _ => a)

/-- The holder of an array's entry: a unit's SE, tile or stack, or the element. -/
def injHolder (array target : Nat) : Nat :=
  match array with
  | 0 | 1 => windowEa (8 * target)
  | 8 => stackOf (8 * target)
  | _ => target

/-- The injections armed, without that of an array of a holder (R417). -/
def State.disarm (s : State) (array target : Nat) : State :=
  { s with injs := s.injs.filter (fun j => !(j.array == array && injHolder array j.target == injHolder array target)) }

/-- The element address of a status: 0 for a unit. -/
def injEa (c : Cmd) : Nat := if c.value.toNat % 16 == 0 || c.value.toNat % 16 == 1 || c.value.toNat % 16 == 8 then 0 else c.ea

/-- R417: an injection is armed, in place of an earlier one of the array. -/
def execErrinj (c : Cmd) (s : State) : Out1 := .next <|
  match injTarget c with
  | none => s.answer c codeIllegal 0x50 (injEa c)
  | some (array, t) =>
    let s := s.disarm array t
    let j : Inj := ⟨array, t, c.value.toNat / 16 % 4, c.value.toNat / 64 % 128⟩
    { s with injs := s.injs ++ [j] }.answer c 0 0 (injEa c)

/-- R417, KIND 3. -/
def execErrinjDisarm (c : Cmd) (s : State) : Out1 := .next <|
  match injTarget c with
  | none => s.answer c codeIllegal 0x50 (injEa c)
  | some (array, t) => (s.disarm array t).answer c 0 0 (injEa c)

/-- The change of the log that an errlog names (R417). -/
def State.errlog (s : State) (c : Cmd) (f : ErrLog → ErrLog) : State :=
  let i := c.addr.toNat / 2 % 256
  let baseLog := c.addr.getLsbD 0
  if !c.clean || c.addr >>> 9 != 0 || c.value >>> 2 != 0 || (baseLog && i ≥ Config.hbmStacks) then s.answer c codeIllegal 0x51 0
  else if baseLog then (s.modBase i (fun b => { b with log := f b.log })).answer c 0 0 0
  else (s.modHub (tileOfIndex i) (fun h => { h with log := f h.log })).answer c 0 0 0

/-- R417. -/
def execErrlogRemoveOldest (c : Cmd) (s : State) : Out1 := .next (s.errlog c (fun l => { l with ents := l.ents.tail }))
/-- R417. -/
def execErrlogClearAll (c : Cmd) (s : State) : Out1 := .next (s.errlog c (fun _ => .zero))

/-- R417, R340: the domain's root is set and its translations are removed, as by a tinval with ALL (R350), before the status. -/
def execPtroot (c : Cmd) (s : State) : Out1 := .next <|
  let a := c.addr.toNat
  let v := c.value.toNat
  match s.domSlot (a % 65536) with
  | some k =>
    if !c.clean || a / 65536 != 0 || v / 2 % 2 ^ 11 != 0 || v / 2 ^ 40 != 0 then s.answer c codeIllegal 0x31 0
    else
      let d := { s.dom k with root := if v % 2 == 1 then some (v / 4096 * 4096) else none }
      let s := { s with doms := tput .zero k d s.doms }.invalidate (a % 65536) none
      s.reply c.die c.port (s.now + 6 + 64 + 48 * maxCross c.die) (statusWord 0 0 0 false)
  | none => s.answer c codeIllegal (if !c.clean || a / 65536 != 0 then 0x31 else 0x30) 0

/-- A pack acts by `f` on a QUIESCENT group (R417). -/
def State.pack (s : State) (c : Cmd) (f : State → Nat → State) : State :=
  let a := c.addr.toNat
  if !c.clean || a / 65536 != 0 || c.value >>> 2 != 0 || (s.group (a % 65536)).st != .quiescent then s.answer c codeIllegal 0x40 0
  else (s.answer c 0 0 0) |> fun s => f s (a % 65536)

/-- R309, R417: the save is written and the group is SAVED. -/
def execPackCommit (c : Cmd) (s : State) : Out1 := .next (s.pack c (fun s gn => s.saveGroup gn))
/-- R417, Table 12-1: the group is LIVE again. -/
def execPackCancel (c : Cmd) (s : State) : Out1 := .next (s.pack c (fun s gn => s.liveAgain gn))

end Sys2Proof.Machine
end

