-- ==== Sys2Proof/Machine/Compute.lean ====
section
/-! DEFINITION. The arithmetic instructions (chapter 05): each is one firing that delivers a value of Arith.lean to DA
at its latency of Table 5-11, with its flags. -/

namespace Sys2Proof.Machine

/-- R124, Table 5-2. -/
def execAdd (f : SlotF) (s : State) : Host.Outcome State Fault Refusal := .next (s.fireAlu f (fun _ => 1) (fun x => (x.a + x.b, 0)))

/-- R124, Table 5-2. -/
def execSub (f : SlotF) (s : State) : Host.Outcome State Fault Refusal := .next (s.fireAlu f (fun _ => 1) (fun x => (x.a - x.b, 0)))

/-- R124, Table 5-2. -/
def execAdds (f : SlotF) (s : State) : Host.Outcome State Fault Refusal := .next (s.fireAlu f (fun _ => 1) (fun x => aluAdds x.a x.b))

/-- R124, Table 5-2. -/
def execAddus (f : SlotF) (s : State) : Host.Outcome State Fault Refusal := .next (s.fireAlu f (fun _ => 1) (fun x => aluAddus x.a x.b))

/-- R124, Table 5-2. -/
def execSubs (f : SlotF) (s : State) : Host.Outcome State Fault Refusal := .next (s.fireAlu f (fun _ => 1) (fun x => aluSubs x.a x.b))

/-- R124, Table 5-2. -/
def execMul (f : SlotF) (s : State) : Host.Outcome State Fault Refusal := .next (s.fireAlu f (fun _ => 3) (fun x => (x.a * x.b, 0)))

/-- R124, Table 5-2. -/
def execMulh (f : SlotF) (s : State) : Host.Outcome State Fault Refusal := .next (s.fireAlu f (fun _ => 3) (fun x => (aluMulh x.a x.b, 0)))

/-- R124, Table 5-2. -/
def execMulhu (f : SlotF) (s : State) : Host.Outcome State Fault Refusal := .next (s.fireAlu f (fun _ => 3) (fun x => (aluMulhu x.a x.b, 0)))

/-- R124, Table 5-2. -/
def execMac (f : SlotF) (s : State) : Host.Outcome State Fault Refusal := .next (s.fireAlu f (fun _ => 3) (fun x => (x.d + x.a * x.b, 0)))

/-- R124, Table 5-2. -/
def execMin (f : SlotF) (s : State) : Host.Outcome State Fault Refusal := .next (s.fireAlu f (fun _ => 1) (fun x => (aluMin x.a x.b, 0)))

/-- R124, Table 5-2. -/
def execMax (f : SlotF) (s : State) : Host.Outcome State Fault Refusal := .next (s.fireAlu f (fun _ => 1) (fun x => (aluMax x.a x.b, 0)))

/-- R124, Table 5-2. -/
def execMinu (f : SlotF) (s : State) : Host.Outcome State Fault Refusal := .next (s.fireAlu f (fun _ => 1) (fun x => (aluMinu x.a x.b, 0)))

/-- R124, Table 5-2. -/
def execMaxu (f : SlotF) (s : State) : Host.Outcome State Fault Refusal := .next (s.fireAlu f (fun _ => 1) (fun x => (aluMaxu x.a x.b, 0)))

/-- R124, Table 5-2. -/
def execAbs (f : SlotF) (s : State) : Host.Outcome State Fault Refusal := .next (s.fireAlu f (fun _ => 1) (fun x => aluAbs x.a))

/-- R127, Table 5-3. -/
def execAnd (f : SlotF) (s : State) : Host.Outcome State Fault Refusal := .next (s.fireAlu f (fun _ => 1) (fun x => (x.a &&& x.b, 0)))

/-- R127, Table 5-3. -/
def execOr (f : SlotF) (s : State) : Host.Outcome State Fault Refusal := .next (s.fireAlu f (fun _ => 1) (fun x => (x.a ||| x.b, 0)))

/-- R127, Table 5-3. -/
def execXor (f : SlotF) (s : State) : Host.Outcome State Fault Refusal := .next (s.fireAlu f (fun _ => 1) (fun x => (x.a ^^^ x.b, 0)))

/-- R127, Table 5-3. -/
def execAndn (f : SlotF) (s : State) : Host.Outcome State Fault Refusal := .next (s.fireAlu f (fun _ => 1) (fun x => (x.a &&& ~~~x.b, 0)))

/-- R127, Table 5-3. -/
def execShl (f : SlotF) (s : State) : Host.Outcome State Fault Refusal := .next (s.fireAlu f (fun _ => 1) (fun x => (aluShl x.a x.b, 0)))

/-- R127, Table 5-3. -/
def execShr (f : SlotF) (s : State) : Host.Outcome State Fault Refusal := .next (s.fireAlu f (fun _ => 1) (fun x => (aluShr x.a x.b, 0)))

/-- R127, Table 5-3. -/
def execSar (f : SlotF) (s : State) : Host.Outcome State Fault Refusal := .next (s.fireAlu f (fun _ => 1) (fun x => (aluSar x.a x.b, 0)))

/-- R127, Table 5-3. -/
def execRol (f : SlotF) (s : State) : Host.Outcome State Fault Refusal := .next (s.fireAlu f (fun _ => 1) (fun x => (aluRol x.a x.b, 0)))

/-- R128. -/
def execClz (f : SlotF) (s : State) : Host.Outcome State Fault Refusal := .next (s.fireAlu f (fun _ => 1) (fun x => (aluClz x.a, 0)))

/-- R128. -/
def execCtz (f : SlotF) (s : State) : Host.Outcome State Fault Refusal := .next (s.fireAlu f (fun _ => 1) (fun x => (aluCtz x.a, 0)))

/-- R128. -/
def execPopc (f : SlotF) (s : State) : Host.Outcome State Fault Refusal := .next (s.fireAlu f (fun _ => 1) (fun x => (aluPopc x.a, 0)))

/-- R129. -/
def execBext (f : SlotF) (s : State) : Host.Outcome State Fault Refusal := .next (s.fireAlu f (fun _ => 1) (fun x => (aluBext x.a x.lit, 0)))

/-- R129. -/
def execBins (f : SlotF) (s : State) : Host.Outcome State Fault Refusal := .next (s.fireAlu f (fun _ => 1) (fun x => (aluBins x.d x.a x.lit, 0)))

/-- R130, Table 5-5. -/
def execAddW2 (f : SlotF) (s : State) : Host.Outcome State Fault Refusal := .next (s.fireAlu f (fun _ => 1) (fun x => (aluAddW2 x.a x.b, 0)))

/-- R130, Table 5-5. -/
def execSubW2 (f : SlotF) (s : State) : Host.Outcome State Fault Refusal := .next (s.fireAlu f (fun _ => 1) (fun x => (aluSubW2 x.a x.b, 0)))

/-- R130, Table 5-5. -/
def execMulW2 (f : SlotF) (s : State) : Host.Outcome State Fault Refusal := .next (s.fireAlu f (fun _ => 3) (fun x => (aluMulW2 x.a x.b, 0)))

/-- R130, Table 5-5. -/
def execMinW2 (f : SlotF) (s : State) : Host.Outcome State Fault Refusal := .next (s.fireAlu f (fun _ => 1) (fun x => (aluMinW2 x.a x.b, 0)))

/-- R130, Table 5-5. -/
def execMaxW2 (f : SlotF) (s : State) : Host.Outcome State Fault Refusal := .next (s.fireAlu f (fun _ => 1) (fun x => (aluMaxW2 x.a x.b, 0)))

/-- R130, Table 5-5. -/
def execAddsW2 (f : SlotF) (s : State) : Host.Outcome State Fault Refusal := .next (s.fireAlu f (fun _ => 1) (fun x => aluAddsW2 x.a x.b))

/-- R131. -/
def execIdot8 (f : SlotF) (s : State) : Host.Outcome State Fault Refusal := .next (s.fireAlu f (fun _ => 3) (fun x => aluIdot8 true x.d x.a x.b))

/-- R131. -/
def execIdot8u (f : SlotF) (s : State) : Host.Outcome State Fault Refusal := .next (s.fireAlu f (fun _ => 3) (fun x => aluIdot8 false x.d x.a x.b))

/-- R132, Table 5-6. -/
def execCeq (f : SlotF) (s : State) : Host.Outcome State Fault Refusal := .next (s.fireAlu f (fun _ => 1) (fun x => (aluCeq x.a x.b, 0)))

/-- R132, Table 5-6. -/
def execCne (f : SlotF) (s : State) : Host.Outcome State Fault Refusal := .next (s.fireAlu f (fun _ => 1) (fun x => (aluCne x.a x.b, 0)))

/-- R132, Table 5-6. -/
def execClt (f : SlotF) (s : State) : Host.Outcome State Fault Refusal := .next (s.fireAlu f (fun _ => 1) (fun x => (aluClt x.a x.b, 0)))

/-- R132, Table 5-6. -/
def execCle (f : SlotF) (s : State) : Host.Outcome State Fault Refusal := .next (s.fireAlu f (fun _ => 1) (fun x => (aluCle x.a x.b, 0)))

/-- R132, Table 5-6. -/
def execCltu (f : SlotF) (s : State) : Host.Outcome State Fault Refusal := .next (s.fireAlu f (fun _ => 1) (fun x => (aluCltu x.a x.b, 0)))

/-- R132, Table 5-6. -/
def execCleu (f : SlotF) (s : State) : Host.Outcome State Fault Refusal := .next (s.fireAlu f (fun _ => 1) (fun x => (aluCleu x.a x.b, 0)))

/-- R132, Table 5-6. -/
def execCtst (f : SlotF) (s : State) : Host.Outcome State Fault Refusal := .next (s.fireAlu f (fun _ => 1) (fun x => (aluCtst x.a x.b, 0)))

/-- R132, Table 5-6. -/
def execCz (f : SlotF) (s : State) : Host.Outcome State Fault Refusal := .next (s.fireAlu f (fun _ => 1) (fun x => (aluCz x.a, 0)))

/-- R133, R134. -/
def execFaddS2 (f : SlotF) (s : State) : Host.Outcome State Fault Refusal := .next (s.fireAlu f (fun _ => 4) (fun x => aluFadd fp32 x.a x.b))

/-- R133, R134. -/
def execFsubS2 (f : SlotF) (s : State) : Host.Outcome State Fault Refusal := .next (s.fireAlu f (fun _ => 4) (fun x => aluFsub fp32 x.a x.b))

/-- R133, R134. -/
def execFmulS2 (f : SlotF) (s : State) : Host.Outcome State Fault Refusal := .next (s.fireAlu f (fun _ => 4) (fun x => aluFmul fp32 x.a x.b))

/-- R133, R134. -/
def execFmaS2 (f : SlotF) (s : State) : Host.Outcome State Fault Refusal := .next (s.fireAlu f (fun _ => 4) (fun x => aluFma fp32 x.d x.a x.b))

/-- R135. -/
def execFminS2 (f : SlotF) (s : State) : Host.Outcome State Fault Refusal := .next (s.fireAlu f (fun _ => 2) (fun x => aluFminmax false fp32 x.a x.b))

/-- R135. -/
def execFmaxS2 (f : SlotF) (s : State) : Host.Outcome State Fault Refusal := .next (s.fireAlu f (fun _ => 2) (fun x => aluFminmax true fp32 x.a x.b))

/-- R139. -/
def execFrcpeS2 (f : SlotF) (s : State) : Host.Outcome State Fault Refusal := .next (s.fireAlu f (fun _ => 5) (fun x => aluFrcpe x.a))

/-- R140. -/
def execFrsqeS2 (f : SlotF) (s : State) : Host.Outcome State Fault Refusal := .next (s.fireAlu f (fun _ => 5) (fun x => aluFrsqe x.a))

/-- R136. -/
def execFceqS2 (f : SlotF) (s : State) : Host.Outcome State Fault Refusal := .next (s.fireAlu f (fun _ => 2) (fun x => aluFceq x.a x.b))

/-- R136. -/
def execFcltS2 (f : SlotF) (s : State) : Host.Outcome State Fault Refusal := .next (s.fireAlu f (fun _ => 2) (fun x => aluFclt x.a x.b))

/-- R136. -/
def execFcleS2 (f : SlotF) (s : State) : Host.Outcome State Fault Refusal := .next (s.fireAlu f (fun _ => 2) (fun x => aluFcle x.a x.b))

/-- R137. -/
def execFclassS2 (f : SlotF) (s : State) : Host.Outcome State Fault Refusal := .next (s.fireAlu f (fun _ => 2) (fun x => (aluFclass x.a, 0)))

/-- R138. -/
def execFrndS2 (f : SlotF) (s : State) : Host.Outcome State Fault Refusal := .next (s.fireAlu f (fun _ => 2) (fun x => aluFrnd x.a))

/-- R133, R134. -/
def execFaddH4 (f : SlotF) (s : State) : Host.Outcome State Fault Refusal := .next (s.fireAlu f (fun _ => 4) (fun x => aluFadd bf16 x.a x.b))

/-- R133, R134. -/
def execFsubH4 (f : SlotF) (s : State) : Host.Outcome State Fault Refusal := .next (s.fireAlu f (fun _ => 4) (fun x => aluFsub bf16 x.a x.b))

/-- R133, R134. -/
def execFmulH4 (f : SlotF) (s : State) : Host.Outcome State Fault Refusal := .next (s.fireAlu f (fun _ => 4) (fun x => aluFmul bf16 x.a x.b))

/-- R133, R134. -/
def execFmaH4 (f : SlotF) (s : State) : Host.Outcome State Fault Refusal := .next (s.fireAlu f (fun _ => 4) (fun x => aluFma bf16 x.d x.a x.b))

/-- R135. -/
def execFminH4 (f : SlotF) (s : State) : Host.Outcome State Fault Refusal := .next (s.fireAlu f (fun _ => 2) (fun x => aluFminmax false bf16 x.a x.b))

/-- R135. -/
def execFmaxH4 (f : SlotF) (s : State) : Host.Outcome State Fault Refusal := .next (s.fireAlu f (fun _ => 2) (fun x => aluFminmax true bf16 x.a x.b))

/-- R141, R142. -/
def execFdotwH4 (f : SlotF) (s : State) : Host.Outcome State Fault Refusal := .next (s.fireAlu f (fun _ => 6) (fun x => aluFdotwH4 x.W x.d x.a x.b x.oa x.ob))

/-- R141, R142. -/
def execFdotwQ8 (f : SlotF) (s : State) : Host.Outcome State Fault Refusal := .next (s.fireAlu f (fun _ => 6) (fun x => aluFdotwQ8 x.W x.d x.a x.b x.oa x.ob))

/-- R143. -/
def execFsumS2 (f : SlotF) (s : State) : Host.Outcome State Fault Refusal := .next (s.fireAlu f (fun _ => 6) (fun x => aluFsum x.W x.a))

/-- R144, Table 5-10. -/
def execCvtSI (f : SlotF) (s : State) : Host.Outcome State Fault Refusal := .next (s.fireAlu f (fun _ => 2) (fun x => aluCvtSI x.rnd x.a))

/-- R144, Table 5-10. -/
def execCvtIS (f : SlotF) (s : State) : Host.Outcome State Fault Refusal := .next (s.fireAlu f (fun _ => 2) (fun x => aluCvtIS x.rnd x.a))

/-- R144, Table 5-10. -/
def execPackBf (f : SlotF) (s : State) : Host.Outcome State Fault Refusal := .next (s.fireAlu f (fun _ => 2) (fun x => aluPack bf16 x.rnd x.a x.b))

/-- R144, Table 5-10. -/
def execUnpkBfLo (f : SlotF) (s : State) : Host.Outcome State Fault Refusal := .next (s.fireAlu f (fun _ => 2) (fun x => aluUnpk16 bf16 0 x.a))

/-- R144, Table 5-10. -/
def execUnpkBfHi (f : SlotF) (s : State) : Host.Outcome State Fault Refusal := .next (s.fireAlu f (fun _ => 2) (fun x => aluUnpk16 bf16 2 x.a))

/-- R144, Table 5-10. -/
def execPackE4 (f : SlotF) (s : State) : Host.Outcome State Fault Refusal := .next (s.fireAlu f (fun _ => 2) (fun x => aluPack8 f8e4 x.rnd x.a x.b))

/-- R144, Table 5-10. -/
def execPackE5 (f : SlotF) (s : State) : Host.Outcome State Fault Refusal := .next (s.fireAlu f (fun _ => 2) (fun x => aluPack8 f8e5 x.rnd x.a x.b))

/-- R144, Table 5-10. -/
def execUnpkE4Lo (f : SlotF) (s : State) : Host.Outcome State Fault Refusal := .next (s.fireAlu f (fun _ => 2) (fun x => aluUnpk8 f8e4 0 x.a))

/-- R144, Table 5-10. -/
def execUnpkE4Hi (f : SlotF) (s : State) : Host.Outcome State Fault Refusal := .next (s.fireAlu f (fun _ => 2) (fun x => aluUnpk8 f8e4 4 x.a))

/-- R144, Table 5-10. -/
def execUnpkE5Lo (f : SlotF) (s : State) : Host.Outcome State Fault Refusal := .next (s.fireAlu f (fun _ => 2) (fun x => aluUnpk8 f8e5 0 x.a))

/-- R144, Table 5-10. -/
def execUnpkE5Hi (f : SlotF) (s : State) : Host.Outcome State Fault Refusal := .next (s.fireAlu f (fun _ => 2) (fun x => aluUnpk8 f8e5 4 x.a))

/-- R144, Table 5-10. -/
def execPackF16 (f : SlotF) (s : State) : Host.Outcome State Fault Refusal := .next (s.fireAlu f (fun _ => 2) (fun x => aluPack fp16 x.rnd x.a x.b))

/-- R144, Table 5-10. -/
def execUnpkF16Lo (f : SlotF) (s : State) : Host.Outcome State Fault Refusal := .next (s.fireAlu f (fun _ => 2) (fun x => aluUnpk16 fp16 0 x.a))

/-- R144, Table 5-10. -/
def execUnpkF16Hi (f : SlotF) (s : State) : Host.Outcome State Fault Refusal := .next (s.fireAlu f (fun _ => 2) (fun x => aluUnpk16 fp16 2 x.a))

/-- R144, R145. -/
def execQntI8 (f : SlotF) (s : State) : Host.Outcome State Fault Refusal := .next (s.fireAlu f (fun _ => 2) (fun x => aluQntI8 x.rnd x.a x.b))

/-- R144, R145. -/
def execDeqI8Lo (f : SlotF) (s : State) : Host.Outcome State Fault Refusal := .next (s.fireAlu f (fun _ => 2) (fun x => aluDeqI8 x.rnd x.a x.b))

/-- A division: the divider is busy until the result is out (R122, R125). -/
def State.fireDiv (s : State) (f : SlotF) (g : AluIn → Res) : State :=
  match s.cur with
  | none => s
  | some cu =>
    let t := s.now + divLatency (readSource s cu f f.sa).val
    match s.operandFault cu f with
    | some s' => s'
    | none => (s.fireAlu f (fun x => divLatency x.a) g).modElem cu.ea (fun e => { e with divFree := t })

/-- R122, R125. -/
def execDivu (f : SlotF) (s : State) : Host.Outcome State Fault Refusal := .next (s.fireDiv f (fun x => (aluDivu x.a x.b, 0)))

/-- R122, R125. -/
def execRemu (f : SlotF) (s : State) : Host.Outcome State Fault Refusal := .next (s.fireDiv f (fun x => (aluRemu x.a x.b, 0)))

/-- R126: ADDR_OVERFLOW when a step leaves the range. -/
def execLea (f : SlotF) (s : State) : Host.Outcome State Fault Refusal := .next <|
  match s.cur with
  | none => s
  | some cu =>
    let a := readSource s cu f f.sa
    let b := readSource s cu f f.sb
    match s.operandFault cu f with
    | some s' => s'
    | none =>
      if (aluLea a.val b.val f.lit).isNone then s.raiseSync cu 0x10 (f.lit.toNat % 64) a.val
      else s.fireAlu f (fun _ => 1) (fun x => ((aluLea x.a x.b x.lit).getD 0, 0))

end Sys2Proof.Machine
end

