-- ==== Sys2Proof/Machine/Access.lean ====
section
/-! DEFINITION. Reads of page-table entries by the slices' walks (R345), and the accesses of the engines beneath the stacks (R362, R363,
R366): translation through an engine's cache, the units of an access, and its performance in one service of each of their homes (R256). -/

namespace Sys2Proof.Machine

/-! ## Walks of the slices (R345) -/

/-- A walk reads an entry in a service of its home, then acts on it: the next level, a leaf, a missing page, a malformed entry (R340 to
R347, R256). A walk whose page was removed meanwhile begins again (R350). -/
def execTlbWalk (w : Walk) (s : State) : Out1 := .next <|
  match (s.slice w.tile).walks.find? (fun x => x.1 == w.id) with
  | none => s
  | some (_, r, true) =>
    (s.modSlice w.tile (fun x => { x with walks := x.walks.map (fun y => if y.1 == w.id then (y.1, y.2.1, false) else y) })).walkStep
      w.tile w.id r w.again
  | some (_, _, false) =>
    match w.entry with
    | none =>
      match s.homeFault w.tile w.addr with
      | some d => ((s.endWalk w).failReq w.r w.tile 0x03 d).walkOver w
      | none =>
        if w.served then
          (s.feSettle w.addr 1).after (homeHalf s.module w.tile (s.module * 2 ^ 44 + w.addr)) (.tlbWalk { w with
            entry := some (s.read64 w.addr) })
        else s.bankEnter w.addr 0 (.tlbWalk { w with served := true }) none
    | some e =>
      if !pteV e then (s.endWalk w).missPage w.tile w.r w.addr w.again
      else if pteBad w.level e then ((s.endWalk w).failReq w.r w.tile 0x12 0x12).walkOver w
      else if pteLeaf e then ((s.endWalk w).walkLeaf w e).walkOver w
      else
        let a := entryAddr (pteNext e) (w.level - 1) (vbits w.r.addr)
        s.after (homeHalf s.module w.tile (s.module * 2 ^ 44 + a))
          (.tlbWalk { w with level := w.level - 1, addr := a, entry := none, served := false })

/-! ## One service of each home (R256) -/

/-- Units that the engine access being made serves. -/
def State.serve (s : State) (us : List Nat) : State := { s with units := us ++ s.units }

/-- The banks of units, each once. -/
def banksOf (us : List Nat) : List Nat := us.foldl (fun l u => nadd (bankOf (8 * u)) l) []

/-- The homes of units have served nothing in this cycle (R256). -/
def State.homesFree (s : State) (us : List Nat) : Bool := (banksOf us).all (fun n => (s.bank n).free ≤ s.now)

/-- The homes of units serve an engine access in this cycle, and nothing else; deferred requests of the units are settled (R256, R354). -/
def State.occupy (s : State) : State :=
  let us := s.units
  let s := (banksOf us).foldl (fun (s : State) n =>
    let b := s.bank n
    let s := s.setBank n { b with free := s.now + 1 }
    if b.q.isEmpty then s else s.after 1 (.bankService n)) { s with units := [] }
  if s.defers.isEmpty then s else us.foldl (fun s u => s.feSettle (8 * u) 1) s

/-- An access `f` of an engine: performed at this instant, where the home of every unit that it reads or writes can serve it; none where
one has served another access in this cycle (R256, R366). -/
def State.inService {α : Type} (s : State) (f : State → α × State) : Option (α × State) :=
  let r := f { s with units := [] }
  if s.homesFree r.2.units then some (r.1, r.2.occupy) else none

/-! ## Engines and their translations (R362, R363) -/

/-- The fabric die of a stack, as the element address of its first tile (R10). -/
def stackEa (stack : Nat) : Nat := stack / 2 * 2048

/-- A stack is out of service (R435). -/
def State.stackDown (s : State) (stack : Nat) : Bool := (s.base stack).dead || !s.dieUp (stack / 2)

/-- The way between two dies passes one that is held in reset (R435). -/
def State.wayDown (s : State) (a b : Nat) : Bool := (diePath a b 4).any (fun d => !s.dieUp d)

/-- A number of a fault with the address it concerns. -/
abbrev EFault := Nat × Word

/-- The cache of an engine: that of the Cairn engine, or of the Scree unit. -/
def Base.cache (b : Base) (scree : Bool) : List TlbEnt := if scree then b.sents else b.ents
def Base.setCache (b : Base) (scree : Bool) (l : List TlbEnt) : Base := if scree then { b with sents := l } else { b with ents := l }

/-- A list without its entry `n`. -/
def dropAt {α : Type} (n : Nat) (l : List α) : List α := l.take n ++ l.drop (n + 1)

/-- A parity error in entry `n` of the caches of a stack's engines, those of the Cairn engine first: the entry is discarded, and the
error logged (R411, log 35). -/
def State.cacheError (s : State) (stack n : Nat) (inj : Bool) : State :=
  (s.modBase stack (fun b =>
    if n < Config.engineCacheEntries then { b with ents := dropAt n b.ents }
    else { b with sents := dropAt (n - Config.engineCacheEntries) b.sents })).logBase stack 10 2 inj (BitVec.ofNat 64 n)

/-- An injection armed for the engine state of a stack is met at the entry that maps a page (R417). -/
def State.meetCache (s : State) (stack dom page : Nat) (scree : Bool) : State :=
  match ((s.base stack).cache scree).findIdx? (fun t => t.maps dom page) with
  | none => s
  | some i =>
    match s.takeInj 10 stack with
    | (some _, s) => s.cacheError stack ((if scree then Config.engineCacheEntries else 0) + i) true
    | (none, s) => s

/-- A page through the cache of the Cairn engine or of the Scree unit, or by a walk that fills it, whose entries are read with the access
(R362): a leaf that denies the access leaves the cache first (R346). The local address, and whether its page is poisoned; or the code of
the fault. -/
def State.engPage (s : State) (stack dom : Nat) (scree : Bool) (acc : Acc) (va : Word) : Sum (Nat × Bool) Nat × State :=
  let page := vbits va / 65536
  let use (p size : Nat) (e : Word) : Option (Nat × Bool) :=
    match leafUse s.module acc false p size e (vbits va) with
    | .inl pa => if pa / 2 ^ 44 == s.module then some (pa % 2 ^ 44, ptePzn e) else none
    | .inr _ => none
  let s := s.meetCache stack dom page scree
  let hit := ((s.base stack).cache scree).find? (fun t => t.maps dom page)
  match hit.bind (fun t => (use t.page t.size t.leaf).map (fun r => (t, r))) with
  | some (t, r) =>
    (.inl r, s.modBase stack (fun b => b.setCache scree (cacheAdd Config.engineCacheEntries t (b.cache scree))))
  | none =>
    let s := (s.modBase stack (fun b => b.setCache scree ((b.cache scree).filter (fun t => some t != hit)))).serve
      (s.walkUnits dom (vbits va))
    match s.walkNow (stackEa stack) dom (vbits va) with
    | .missing _ => (.inr 0x11, s)
    | .bad => (.inr 0x12, s)
    | .offline => (.inr 0x03, s)
    | .leaf p size _ e =>
      let s := s.modBase stack (fun b => b.setCache scree (cacheAdd Config.engineCacheEntries ⟨dom, p, size, e⟩ (b.cache scree)))
      match use p size e with
      | some r => (.inl r, s)
      | none => (.inr 0x12, s)

/-- The frame of an access lies where it must: in stack `want` when one is named, with a code of its own for a scatter to the
capacity tier (R363); and its home is in service. -/
def State.engHome (s : State) (stack : Nat) (acc : Acc) (want : Option Nat) (pa : Nat) : Option Nat :=
  if want.isSome && acc == .sca && regionOf pa == .capacity then some 0x16
  else if want.any (fun k => regionOf pa != .hbm || stackOf pa != k) then some 0x12
  else if (s.homeFault (stackEa stack) pa).isSome then some 0x03
  else none

/-- Bytes of a granule, which lies behind one port (R22). -/
abbrev granuleBytes : Nat := 256

/-- Where `n` bytes from an address lie: pieces of the granules they cross (R22), as local address and length, each with whether its
page is poisoned; or the first fault. `fuel` bounds the pieces. -/
def State.engPieces (s : State) (stack dom : Nat) (scree : Bool) (acc : Acc) (want : Option Nat) (va : Word) (n : Nat) :
    Nat → Sum (List (Nat × Nat × Bool)) EFault × State
  | 0 => (.inl [], s)
  | fuel + 1 =>
    if n == 0 then (.inl [], s)
    else if !canonical va then (.inr (0x10, va), s)
    else
      match s.engPage stack dom scree acc va with
      | (.inr c, s) => (.inr (c, va), s)
      | (.inl (pa, pzn), s) =>
        match s.engHome stack acc want pa with
        | some c => (.inr (c, va), s)
        | none =>
          let k := min n (granuleBytes - va.toNat % granuleBytes)
          match s.engPieces stack dom scree acc want (va + BitVec.ofNat 64 k) (n - k) fuel with
          | (.inr e, s) => (.inr e, s)
          | (.inl ps, s) => (.inl ((pa, k, pzn) :: ps), s)

/-- The units of a piece. -/
def pieceUnits (pa n : Nat) : List Nat := (List.range ((pa % 8 + n + 7) / 8)).map (fun i => unitOf pa + i)

/-- The units of pieces. -/
def piecesUnits (ps : List (Nat × Nat × Bool)) : List Nat := ps.flatMap (fun p => pieceUnits p.1 p.2.1)

/-- The units of pieces are served, and meet their armed errors. -/
def State.servePieces (s : State) (ps : List (Nat × Nat × Bool)) : State :=
  (piecesUnits ps).foldl (fun s u => s.touch (8 * u)) (s.serve (piecesUnits ps))

/-- A unit of pieces is poisoned, or their page is. -/
def State.piecesPoison (s : State) (ps : List (Nat × Nat × Bool)) : Bool := ps.any (·.2.2) || (piecesUnits ps).any s.poisoned

/-- Bytes read by an engine in one access (R366): a poisoned unit ends the request (R383). -/
def State.engRead (s : State) (stack dom : Nat) (acc : Acc) (want : Option Nat) (va : Word) (n : Nat) :
    Sum (List Byte) EFault × State :=
  match s.engPieces stack dom (acc == .gat || acc == .sca) acc want va n (n / granuleBytes + 2) with
  | (.inr e, s) => (.inr e, s)
  | (.inl ps, s) =>
    let s := s.servePieces ps
    if s.piecesPoison ps then (.inr (0x15, va), s)
    else (.inl (ps.flatMap (fun p => s.readBytes p.1 p.2.1)), s)

end Sys2Proof.Machine
end

