-- ==== Sys2Proof/Machine/Image.lean ====
section
/-! DEFINITION. URK images (R50 to R54) and the loader (R274 to R277, R288): the parts of a file, the load checks 1 to 16
(R42, Table 2-15) with the offset of the field that fails, the loader's tests, and what an accepted load writes. -/

namespace Sys2Proof.Machine

/-! ## The file -/

/-- A section: type, first byte, end. -/
structure Sect where
  type : Nat
  off : Nat
  fin : Nat
  deriving DecidableEq, Repr

/-- What a file declares: the header, and the records of each section by their offsets. Sites are named by the element address
they have in a group whose origin is tile (0,0). -/
structure Img where
  kid : Word
  w : Nat
  h : Nat
  size : Nat
  secs : List Sect
  elems : List Nat
  routes : List Nat
  datas : List Nat
  shapes : List Nat
  bufs : List Nat
  bars : List Nat
  pools : List Nat
  deriving DecidableEq, Repr

/-- The header holds the values of Table 2-18, and SIZE does not exceed the file (R275, test 1). -/
def headerOk (b : List Byte) : Bool :=
  64 ≤ b.length && fld b 0 4 == 0x494B5255 && fld b 4 2 == 1 && fld b 6 2 == 64 && fld b 0x18 8 % 8 == 0 &&
    192 ≤ fld b 0x18 8 && fld b 0x18 8 ≤ b.length

/-- The offset of the first field of the header, beyond test 1, that breaks Table 2-18. -/
def headerBad (b : List Byte) : Option Nat :=
  let tableEnd := fld b 0x20 8 + 24 * fld b 0x12 2
  if fld b 0x10 1 == 0 || fld b 0x10 1 > 32 then some 0x10
  else if fld b 0x11 1 == 0 || fld b 0x11 1 > 8 then some 0x11
  else if fld b 0x12 2 == 0 || fld b 0x12 2 > 64 then some 0x12
  else if fld b 0x14 4 != 0 then some 0x14
  else if fld b 0x20 8 % 8 != 0 || fld b 0x20 8 < 64 || tableEnd > fld b 0x18 8 - 128 then some 0x20
  else if fld b 0x28 24 != 0 then some 0x28
  else none

/-- The sections of the table from entry `i`, and the offset of the first field that breaks R51. -/
def sections (b : List Byte) (table lim : Nat) (seen : List Sect) (i : Nat) : Nat → List Sect × Option Nat
  | 0 => (seen, none)
  | n + 1 =>
    let e := table + 24 * i
    let t := fld b e 4
    let o := fld b (e + 8) 8
    let z := fld b (e + 16) 8
    let tableEnd := table + 24 * fld b 0x12 2
    if t == 0 || t > 8 || (t ≤ 2 && seen.any (fun x => x.type == t)) then (seen, some e)
    else if fld b (e + 4) 4 != 0 then (seen, some (e + 4))
    else if o % 8 != 0 || o < 64 || o > lim then (seen, some (e + 8))
    else if o + z > lim then (seen, some (e + 16))
    else if overlap o z table (tableEnd - table) || seen.any (fun x => overlap o z x.off (x.fin - x.off)) then (seen, some (e + 8))
    else sections b table lim (seen ++ [⟨t, o, o + z⟩]) (i + 1) n

/-- The offset of the first of a list of fields whose condition fails. -/
def firstBad (l : List (Bool × Nat)) : Option Nat := l.findSome? (fun x => if x.1 then some x.2 else none)

/-- A record's length, or the offset of the first field of its layout that breaks check 1. -/
abbrev Layout := Sum Nat Nat

/-- The offset of the first slot of an element record whose reserved bytes are not 0. -/
def slotRsv (b : List Byte) (off n : Nat) : Option Nat :=
  ((List.range n).map (fun i => off + 32 + 24 * i + 20)).find? (fun o => fld b o 4 != 0)

/-- The layout of a record of a section type at an offset (R52, R53, R180, R203, R238, R330, R96). -/
def layout (b : List Byte) (t fin o : Nat) : Layout :=
  let left := fin - o
  match t with
  | 1 =>
    let n := 32 + 24 * fld b (o + 4) 1 + 8 * fld b (o + 5) 1
    if left < 32 then .inl o
    else if fld b (o + 6) 2 != 0 then .inl (o + 6)
    else if fld b (o + 16) 4 != n || n > left then .inl (o + 16)
    else if fld b (o + 20) 12 != 0 then .inl (o + 20)
    else match slotRsv b o (fld b (o + 4) 1) with
    | some x => .inl x
    | none => .inr n
  | 2 =>
    let n := fld b (o + 5) 1
    if left < 8 then .inl o
    else if fld b (o + 4) 1 > 31 then .inl (o + 4)
    else if n == 0 || n > 8 || 8 + 8 * n > left then .inl (o + 5)
    else if fld b (o + 6) 2 != 0 then .inl (o + 6)
    else .inr (8 + 8 * n)
  | 3 =>
    let n := 24 + (fld b (o + 16) 8 + 7) / 8 * 8
    if left < 24 then .inl o
    else if fld b (o + 4) 1 > 1 then .inl (o + 4)
    else if fld b (o + 5) 3 != 0 then .inl (o + 5)
    else if n > left then .inl (o + 16)
    else .inr n
  | 4 => if left < 168 then .inl o else .inr 168
  | 5 =>
    let t := fld b o 1
    if left < 16 || t == 0 || t > 3 then .inl o
    else if t == 1 && fld b (o + 7) 1 ≥ 32 then .inl (o + 7)
    else if t == 1 && fld b (o + 14) 2 != 0 then .inl (o + 14)
    else if t == 2 && fld b (o + 4) 1 != 0 then .inl (o + 4)
    else if t == 2 && fld b (o + 7) 1 != 0 then .inl (o + 7)
    else if t == 3 && fld b (o + 6) 1 ≥ 16 then .inl (o + 6)
    else if t == 3 && fld b (o + 9) 1 ≥ 64 then .inl (o + 9)
    else if t == 3 && fld b (o + 10) 1 ≥ 16 then .inl (o + 10)
    else if t != 1 && fld b (o + 11) 5 != 0 then .inl (o + 11)
    else .inr 16
  | 6 =>
    let n := fld b (o + 3) 1
    if left < 8 then .inl o
    else if fld b (o + 2) 1 > 31 then .inl (o + 2)
    else if n > 16 || 8 + 8 * n > left then .inl (o + 3)
    else if fld b (o + 6) 2 != 0 then .inl (o + 6)
    else .inr (8 + 8 * n)
  | 7 =>
    if left < 8 then .inl o else if fld b (o + 4) 4 != 0 then .inl (o + 4) else .inr 8
  | _ => .inr (max left 1)

/-- The records of a section, by offset, and the field at which its layout breaks. -/
def records (b : List Byte) (t fin : Nat) : Nat → Nat → List Nat × Option Nat
  | 0, _ => ([], none)
  | n + 1, o =>
    if o ≥ fin then ([], none)
    else match layout b t fin o with
    | .inl x => ([], some x)
    | .inr k => let (l, x) := records b t fin n (o + k); (o :: l, x)

/-- The records of a section and where its layout breaks. -/
def Sect.records (x : Sect) (b : List Byte) : List Nat × Option Nat := Machine.records b x.type x.fin (x.fin - x.off) x.off

/-- Every record of a type, in file order. -/
def recordsOf (b : List Byte) (secs : List Sect) (t : Nat) : List Nat :=
  (secs.filter (fun x => x.type == t)).flatMap (fun x => (x.records b).1)

/-! ## Records -/

/-- The position of a record: tile x, tile y, sx, sy in 4 bytes. -/
def posOk (i : Img) (b : List Byte) (o : Nat) : Bool :=
  fld b o 1 < i.w && fld b (o + 1) 1 < i.h && fld b (o + 2) 1 < 8 && fld b (o + 3) 1 < 8
def posEa (b : List Byte) (o : Nat) : Nat := eaOf (fld b o 1) (fld b (o + 1) 1) (fld b (o + 2) 1) (fld b (o + 3) 1)

/-- The slots and channel entries of an element record. -/
def recSlots (b : List Byte) (o : Nat) : Map SlotW :=
  (List.range (fld b (o + 4) 1)).foldl (fun m k =>
    let p := o + 32 + 24 * k
    let x : SlotW := ⟨BitVec.ofNat 64 (fld b p 8), BitVec.ofNat 32 (fld b (p + 16) 4), BitVec.ofNat 64 (fld b (p + 8) 8)⟩
    tput .zero k x m) []
def recChans (b : List Byte) (o : Nat) : List (Nat × Word) :=
  (List.range (fld b (o + 5) 1)).map (fun k =>
    let p := o + 32 + 24 * fld b (o + 4) 1 + 8 * k
    (p, BitVec.ofNat 64 (fld b p 8)))
def recEcw (b : List Byte) (o : Nat) : Word := BitVec.ofNat 64 (fld b (o + 8) 8)

/-- The targets of a route or barrier record. -/
def recTargets (b : List Byte) (o n : Nat) : List Word := (List.range n).map (fun k => BitVec.ofNat 64 (fld b (o + 8 + 8 * k) 8))

/-- The first element record of a site. -/
def Img.elemAt (i : Img) (b : List Byte) (ea : Nat) : Option Nat := i.elems.find? (fun o => posOk i b o && posEa b o == ea)

/-- The record is of a type and names the site `ea` at byte 1. -/
def bufAt (i : Img) (b : List Byte) (ea t o : Nat) : Bool := fld b o 1 == t && posOk i b (o + 1) && posEa b (o + 1) == ea

/-- The plane of a site as its records give it (R52, R53, R180, R203); a site without a record is empty. -/
def Img.plane (i : Img) (b : List Byte) (ea : Nat) : Plane :=
  match i.elemAt b ea with
  | none => .zero
  | some o =>
    let word (p n : Nat) : Word := BitVec.ofNat 64 (fld b p n)
    { ecw := recEcw b o
      slots := recSlots b o
      chans := (recChans b o).foldl (fun m c => if (tfind (c.2.toNat % 256) m).isSome then m else tput 0 (c.2.toNat % 256) c.2 m) []
      routes := (i.routes.filter (fun r => posOk i b r && posEa b r == ea)).foldl (fun m r =>
        if (tfind (fld b (r + 4) 1) m).isSome then m
        else
          let n := fld b (r + 5) 1
          let x : Route := ⟨n, ((List.range n).zip (recTargets b r n)).foldl (fun m t => tput 0 t.1 t.2 m) []⟩
          tput .zero (fld b (r + 4) 1) x m) []
      handles := (i.bufs.filter (bufAt i b ea 1)).foldl (fun m r => tput (0, 0) (fld b (r + 5) 1) (word r 8, word (r + 8) 8) m) []
      meb := match i.bufs.find? (bufAt i b ea 3) with
        | some r => (word r 8, word (r + 8) 8)
        | none => (0, 0) }

/-- Partition records. -/
def partAt (b : List Byte) (o : Nat) : Part := ⟨fld b (o + 5) 2, fld b (o + 8) 2, fld b (o + 10) 1⟩
/-- The partitions that a file declares for a tile. -/
def Img.parts (i : Img) (b : List Byte) (tile : Nat) : Map Part :=
  (i.bufs.filter (fun o => fld b o 1 == 2 && eaOf (fld b (o + 1) 1) (fld b (o + 2) 1) 0 0 == tile)).foldl
    (fun m o => tput .zero (fld b (o + 3) 1) (partAt b o) m) []

/-- The group of the image's shape at tile (0,0). -/
def Img.group (i : Img) : Group := { Group.zero with w := i.w, h := i.h }

/-- What the plane rules look at in a file (R286 at a load). -/
def Img.env (i : Img) (b : List Byte) : PlaneEnv where
  g := i.group
  plane := i.plane b
  part := fun tile p => tget .zero p (i.parts b tile)
  pools := BitVec.ofNat 8 (i.pools.foldl (fun m o => m ||| 2 ^ (fld b o 1 % 8)) 0)

/-! ## Check 1 on records -/

/-- A byte range of memory that a DATA or SHAPE record fills: the SE, or the tile and 2^14; first byte, length. -/
def memRange (i : Img) (b : List Byte) (o : Nat) : Nat × Nat × Nat :=
  if i.shapes.contains o then (posEa b o, fld b (o + 4) 4, 160)
  else if fld b (o + 4) 1 == 0 then (posEa b o, fld b (o + 8) 8, fld b (o + 16) 8)
  else (2 ^ 14 + tileOf (posEa b o), fld b (o + 8) 8, fld b (o + 16) 8)

/-- The first byte of a record's position that lies outside the group or its tile (R42). -/
def posBad (i : Img) (b : List Byte) (o : Nat) : List (Bool × Nat) :=
  [(fld b o 1 ≥ i.w, o), (fld b (o + 1) 1 ≥ i.h, o + 1), (fld b (o + 2) 1 ≥ 8, o + 2), (fld b (o + 3) 1 ≥ 8, o + 3)]

/-- The site of a record is not empty. -/
def siteLive (i : Img) (b : List Byte) (v : PlaneEnv) (o : Nat) : Bool := posOk i b o && !(v.plane (posEa b o)).isEmpty

/-- A DATA or SHAPE record whose bytes overlap those of an earlier one. DESIGN CHOICE (log 68): of two that overlap, the later in the
file is the one that fails; R53 does not say which. -/
def memOverlap (i : Img) (b : List Byte) (o : Nat) : Bool :=
  let m := memRange i b o
  (i.datas ++ i.shapes).any (fun q => q < o && posOk i b q && (memRange i b q).1 == m.1 &&
    overlap m.2.1 m.2.2 (memRange i b q).2.1 (memRange i b q).2.2)

/-- A DATA record (R53): the offset of the field that fails. -/
def dataBad (i : Img) (b : List Byte) (v : PlaneEnv) (o : Nat) : Option Nat :=
  let m := memRange i b o
  let p := v.plane (posEa b o)
  let se := fld b (o + 4) 1 == 0
  let limit := if se then 0x80000 - 4096 * ecwSpill p.ecw else 384 * 65536
  firstBad (posBad i b o ++ [
    (!siteLive i b v o || (se && p.kind != .se), o),
    (m.2.1 > limit, o + 8),
    (m.2.1 + m.2.2 > limit, o + 16),
    (memOverlap i b o, o + 8)])

/-- The fields of a shape record that break R237, in their order, each with its offset. -/
def shapeBad (b : List Byte) (p : Plane) (r : Nat) : List (Bool × Nat) :=
  let ndim := fld b (r + 0x10) 1
  let esz := fld b (r + 0x11) 1
  let mode := fld b (r + 0x12) 1
  let idx := fld b (r + 0x13) 1
  [(ndim == 0 || ndim > 5 || (mode == 2 && ndim != 1), r + 0x10),
   (esz > 3 || (mode == 2 && esz != 3), r + 0x11),
   (mode > 2, r + 0x12),
   (idx ≥ 64 || (mode == 1 && p.chanWord (idx % 32) == 0), r + 0x13),
   (fld b (r + 0x14) 4 != 0, r + 0x14)] ++
  (List.range 5).flatMap (fun k =>
    let d := r + 0x20 + 24 * k
    if k < ndim then [(fld b (d + 8) 4 == 0, d + 8)]
    else [(fld b d 8 != 0, d), (fld b (d + 8) 4 != 0, d + 8), (fld b (d + 12) 4 != 0, d + 12), (fld b (d + 16) 8 != 0, d + 16)]) ++
  [(fld b (r + 0x98) 8 != 0, r + 0x98)]

/-- A SHAPE entry (R238): the offset of the field that fails. -/
def shapeEntryBad (i : Img) (b : List Byte) (v : PlaneEnv) (o : Nat) : Option Nat :=
  let p := v.plane (posEa b o)
  let off := fld b (o + 4) 4
  firstBad (posBad i b o ++ [
    (!siteLive i b v o || p.kind != .se, o),
    (off % 8 != 0 || off + 160 > 0x80000 - 4096 * ecwSpill p.ecw || memOverlap i b o, o + 4)] ++ shapeBad b p (o + 8))

/-- A partition record (R180): the offset of the field that fails. -/
def partRecBad (i : Img) (b : List Byte) (o : Nat) : Option Nat :=
  let p := partAt b o
  let earlier (f : Nat → Bool) : Bool := i.bufs.any (fun q => q < o && fld b q 1 == 2 && fld b (q + 1) 2 == fld b (o + 1) 2 && f q)
  firstBad [
    (fld b (o + 1) 1 ≥ i.w, o + 1),
    (fld b (o + 2) 1 ≥ i.h, o + 2),
    (fld b (o + 3) 1 > 7 || earlier (fun q => fld b (q + 3) 1 == fld b (o + 3) 1), o + 3),
    (p.first > 383 || earlier (fun q => overlap p.first p.count (partAt b q).first (partAt b q).count), o + 5),
    (p.count == 0 || p.first + p.count > 384, o + 8),
    (p.gran > 3, o + 10)]

/-- A handle record (R180): the offset of the field that fails. -/
def handleRecBad (i : Img) (b : List Byte) (v : PlaneEnv) (o : Nat) : Option Nat :=
  let word (p : Nat) : Word := BitVec.ofNat 64 (fld b p 8)
  let h := (word o, word (o + 8))
  let p := v.plane (posEa b (o + 1))
  let same (q : Nat) : Bool := q < o && fld b q 1 == 1 && fld b (q + 1) 4 == fld b (o + 1) 4
  let loc := hrLoc h
  let size := if loc == 0 then 0x80000 - 4096 * ecwSpill p.ecw else (v.part (tileOf (posEa b (o + 1))) (loc - 1)).count * 65536
  let other (q : Nat) : Word × Word := (word q, word (q + 8))
  firstBad (posBad i b (o + 1) ++ [
    (p.kind != .se, o + 1),
    (fld b (o + 5) 1 > 63 || i.bufs.any (fun q => same q && fld b (q + 5) 1 == fld b (o + 5) 1), o + 5),
    (fld b (o + 6) 1 > 15, o + 6),
    (loc > 8 || size == 0, o + 7),
    ((hrSpan h).1 ≥ size || i.bufs.any (fun q => same q && hrLoc (other q) == loc &&
      overlap (hrSpan h).1 (hrSpan h).2 (hrSpan (other q)).1 (hrSpan (other q)).2), o + 8),
    ((hrSpan h).1 + (hrSpan h).2 > size, o + 12)])

/-- An ME binding (R203): the offset of the field that fails. -/
def bindRecBad (i : Img) (b : List Byte) (v : PlaneEnv) (o : Nat) : Option Nat :=
  let ea := posEa b (o + 1)
  let p := v.plane ea
  let m := p.meb
  firstBad (posBad i b (o + 1) ++ [
    (p.kind != .me || i.bufs.any (fun q => q < o && fld b q 1 == 3 && fld b (q + 1) 4 == fld b (o + 1) 4), o + 1),
    (!v.bindTerm ea m 0 5 true, o + 5),
    (!v.bindTerm ea m 1 6 false, o + 6),
    (!v.bindTerm ea m 2 7 true || bindSame m 2 7 0 5, o + 7),
    (!v.bindTerm ea m 3 8 true || bindSame m 3 8 0 5 || bindSame m 3 8 2 7, o + 8),
    (bindNoten m && (p.route (bindNote m)).n == 0, o + 9)])

/-- The first byte of a target's position that lies outside the group, or of its tile. -/
def targetPos (v : PlaneEnv) (t : Word) : List (Bool × Nat) :=
  [(tgtTx t ≥ v.g.w, 0), (tgtTy t ≥ v.g.h, 1), (tgtSx t ≥ 8, 2), (tgtSy t ≥ 8, 3)]

/-- The byte of a channel target that breaks R53 or R154, `twice` a channel that is a target already. DESIGN CHOICE (log 68): an empty
site is named by its first byte. -/
def chanTargetBad (v : PlaneEnv) (twice : Bool) (t : Word) : Option Nat :=
  let p := v.plane (v.g.targetEa t)
  firstBad (targetPos v t ++ [
    (p.isEmpty, 0),
    ((tgtCh t).toNat ≥ 32 || p.chanWord (tgtCh t).toNat == 0 || twice, 4),
    (t.extractLsb' 40 8 != 0, 5), (t.extractLsb' 48 8 != 0, 6), (t.extractLsb' 56 8 != 0, 7)])

/-- The byte of an endpoint target that breaks R225, in the route of the element `ea`; `twice`: its reply channel is the target of
another route. -/
def endTargetBad (v : PlaneEnv) (ea : Nat) (twice : Bool) (t : Word) : Option Nat :=
  let k := (tgtCh t).toNat
  let p := v.plane ea
  let tile := v.g.ea (tgtTx t) (tgtTy t) 0 0
  firstBad (targetPos v t ++ [
    (k == 0x80 && (physKind (v.g.targetEa t) != 1 || (v.plane (v.g.targetEa t)).kind != .se), 0),
    (k == 0x82 && v.g.inside (tgtTx t) (tgtTy t) && tile != tileOf ea, 0),
    (k != 0x80 && tgtSx t != 0, 2), (k != 0x80 && tgtSy t != 0, 3),
    (k > 0x82, 4),
    (tgtRen t && (p.chanWord (tgtRch t) == 0 || twice), 5), (t.getLsbD 47, 5),
    (tgtFen t && !((p.route (tgtOfwd t)).isReq && tgtOrd ((p.route (tgtOfwd t)).target 0)), 6),
    (if k == 0x81 then (v.part tile (tgtPart t)).count == 0 else tgtPart t != 0, 7), (t.extractLsb' 60 4 != 0, 7)])

/-- The channel that a target names: element and channel. -/
def targetChan (t : Word) : Nat × Nat := (eaOf (tgtTx t) (tgtTy t) (tgtSx t) (tgtSy t), (tgtCh t).toNat)

/-- A barrier record (R330): the offset of the field that fails. -/
def barRecBad (i : Img) (b : List Byte) (v : PlaneEnv) (all : List (Nat × Nat)) (o : Nat) : Option Nat :=
  let mine := recTargets b o (fld b (o + 3) 1)
  let others := (i.bars.filter (fun q => q < o)).flatMap (fun q => recTargets b q (fld b (q + 3) 1))
  if fld b o 1 ≥ i.w then some o
  else if fld b (o + 1) 1 ≥ i.h then some (o + 1)
  else if i.bars.any (fun q => q < o && fld b q 3 == fld b o 3) then some (o + 2)
  else ((List.range mine.length).zip mine).findSome? (fun t =>
    let twice := all.contains (targetChan t.2) || ((mine.take t.1) ++ others).any (fun u => targetChan u == targetChan t.2)
    (chanTargetBad v twice t.2).map (fun k => o + 8 + 8 * t.1 + k))

/-- A tag-pool record (R96): the offset of the field that fails. -/
def poolRecBad (i : Img) (b : List Byte) (o : Nat) : Option Nat :=
  let first := fld b (o + 1) 1
  let count := fld b (o + 2) 1
  let earlier (f : Nat → Bool) : Bool := i.pools.any (fun q => q < o && f q)
  firstBad [
    (fld b o 1 > 7 || earlier (fun q => fld b q 1 == fld b o 1), o),
    (earlier (fun q => overlap first count (fld b (q + 1) 1) (fld b (q + 2) 1)), o + 1),
    (count == 0 || count > 64 || first + count > 256, o + 2),
    (fld b (o + 3) 1 ≥ count, o + 3)]

/-- The first field of a record that breaks check 1 beyond its layout. -/
def recordBad (i : Img) (b : List Byte) (v : PlaneEnv) (all : List (Nat × Nat)) (t o : Nat) : Option Nat :=
  match t with
  | 3 => dataBad i b v o
  | 4 => shapeEntryBad i b v o
  | 5 =>
    match fld b o 1 with
    | 1 => handleRecBad i b v o
    | 2 => partRecBad i b o
    | _ => bindRecBad i b v o
  | 6 => barRecBad i b v all o
  | 7 => poolRecBad i b o
  | _ => none

/-- The channels that the routes of a file target. -/
def Img.targets (i : Img) (v : PlaneEnv) : List (Nat × Nat) := i.group.sites.flatMap v.targets

/-- The parts of a file whose header holds. -/
def imgOf (b : List Byte) (secs : List Sect) : Img :=
  let r := recordsOf b secs
  ⟨BitVec.ofNat 64 (fld b 8 8), fld b 0x10 1, fld b 0x11 1, fld b 0x18 8, secs, r 1, r 2, r 3, r 4, r 5, r 6, r 7⟩

/-- Check 1 over the whole file (R42): the offset that fails, or its parts. -/
def check1 (b : List Byte) : Sum Nat Img :=
  let size := fld b 0x18 8
  match headerBad b with
  | some o => .inl o
  | none =>
    match sections b (fld b 0x20 8) (size - 128) [] 0 (fld b 0x12 2) with
    | (_, some o) => .inl o
    | (secs, none) =>
      let i := imgOf b secs
      let v := i.env b
      let all := i.targets v
      match secs.findSome? (fun x => ((x.records b).1.findSome? (recordBad i b v all x.type)).orElse (fun _ => (x.records b).2)) with
      | some o => .inl o
      | none => if fld b (size - 32) 32 != 0 then .inl (size - 32) else .inr i

/-! ## Checks 2 to 16 -/

/-- The field of a slot that a check names: guard, literal or action word; a FRESH slot that breaks R37 by its pool, or by LIT[63:3],
names its literal. DESIGN CHOICE (log 68): a field inside one of these words is named by the offset of the word, and a check 12 that
is not about a route names the action word. -/
def slotField (env : SlotEnv) (f : SlotF) (check : Nat) : Nat :=
  let pool := f.ta == 6 && (f.lit >>> 3 != 0 || !env.pools.getLsbD (f.lit.toNat % 8))
  if check ≤ 10 then 0 else if check == 15 || (check == 14 && pool) then 8 else 16

/-- Checks 6 to 16 on the slots of a record: the check and the field. -/
def slotsBad (b : List Byte) (p : Plane) (env : SlotEnv) (o : Nat) : Option (Nat × Nat) :=
  (List.range (fld b (o + 4) 1)).findSome? (fun k =>
    let x := p.slot k
    let at_ := o + 32 + 24 * k
    if !x.valid then (firstBad [(x.guard != 0, at_), (x.lit != 0, at_ + 8), (x.action != 0, at_ + 16)]).map (fun a => (6, a)) else (x.check env).map (fun c => (c, at_ + slotField env x.fields c)))

/-- Check 9 on the routes whose source is an element: the field. -/
def routesBad (i : Img) (b : List Byte) (v : PlaneEnv) (all : List (Nat × Nat)) (ea : Nat) : Option (Nat × Nat) :=
  (i.routes.filter (fun r => posOk i b r && posEa b r == ea)).findSome? (fun r =>
    let ts := recTargets b r (fld b (r + 5) 1)
    let req := ts.any tgtIsReq
    if (v.plane ea).isEmpty then some (9, r)
    else if i.routes.any (fun q => q < r && fld b q 5 == fld b r 5) then some (9, r + 4)
    else if req && ts.length != 1 then some (9, r + 5)
    else ((List.range ts.length).zip ts).findSome? (fun t =>
      let bad := if tgtIsReq t.2 then endTargetBad v ea (all.count (ea, tgtRch t.2) > 1) t.2
        else chanTargetBad v (all.count (targetChan t.2) > 1) t.2
      bad.map (fun k => (9, r + 8 + 8 * t.1 + k))))

/-- The byte of a channel entry that breaks R151: the channel number, the depth, the format, the scale or the reserved bytes. -/
def chanField (w : Word) : Nat :=
  if w.toNat % 256 ≥ 32 then 0
  else if chanDepth w == 0 || chanDepth w > 4 then 1
  else if chanFmt w > 13 || w.extractLsb' 21 2 != 0 then 2
  else if chanScale w > 15 then 3
  else if w.extractLsb' 32 32 != 0 then 4
  else 0

/-- Checks 2 to 16 on an element record and its routes: the check and the field (R42). DESIGN CHOICE (log 68): which of
two records fails, and a KIND 3 record with channels. -/
def elemRecBad (i : Img) (b : List Byte) (v : PlaneEnv) (all : List (Nat × Nat)) (o : Nat) : Option (Nat × Nat) :=
  let ea := posEa b o
  let w := recEcw b o
  let chans := recChans b o
  let nslot := fld b (o + 4) 1
  let p := v.plane ea
  let chanBad := ((List.range chans.length).zip chans).find? (fun c =>
    !chanOk (c.2.2.toNat % 256) c.2.2 || (chans.take c.1).any (fun d => d.2.toNat % 256 == c.2.2.toNat % 256))
  match firstBad (posBad i b o ++ [(i.elemAt b ea != some o, o)]) with
  | some x => some (2, x)
  | none => match ecwCheck ea w with
  | some k => some (k, o + 8)
  | none =>
    if ecwKind w != .empty && (ecwDepths w != chans.foldl (fun n c => n + chanDepth c.2) 0 || ecwKid w != i.kid.setWidth 16) then
      some (4, o + 8)
    else if nslot > slotsOf (ecwKind w) then some (5, o + 4)
    else if ecwKind w == .empty && !chans.isEmpty then some (5, o + 5)
    else match chanBad with
    | some c => some (9, c.2.1 + chanField c.2.2)
    | none => (slotsBad b p (p.env v.pools) o).orElse (fun _ => routesBad i b v all ea)

/-- Checks 2 to 16 over a file (R42): the check that fails and its offset. -/
def checkElems (i : Img) (b : List Byte) : Option (Nat × Nat) :=
  let v := i.env b
  let all := i.targets v
  (i.elems.findSome? (elemRecBad i b v all)).orElse (fun _ =>
    (i.routes.find? (fun r => !posOk i b r || (i.elemAt b (posEa b r)).isNone)).map (fun r => (9, (firstBad (posBad i b r)).getD r)))

/-! ## The loader's tests (R275) -/

/-- The measurement of an image (R54). -/
def measurement (b : List Byte) : List Byte := sha512 (b.take (fld b 0x18 8 - 128))

/-- The enabled key entry that a public key matches for a domain (R421). -/
def State.keyIndex (s : State) (pub : List Byte) (dom : Nat) : Option Nat :=
  (s.summit.keys.find? (fun k => k.2.en && k.2.key == pub && (k.2.dom == dom || k.2.dom == 0xFFFF))).map (·.1)

/-- The bytes of every section of a type. -/
def Img.section_ (i : Img) (b : List Byte) (t : Nat) : List Byte :=
  (i.secs.filter (fun x => x.type == t)).flatMap (fun x => sliceAt b x.off (x.fin - x.off))

/-- The element address of an image's site in a group. -/
def Group.place (g : Group) (ea : Nat) : Nat := eaOf (g.x + eaTx ea) (g.y + eaTy ea) (eaSx ea) (eaSy ea)
/-- The image's element address of a site of a group. -/
def Group.unplace (g : Group) (ea : Nat) : Nat := eaOf (eaTx ea - g.x) (eaTy ea - g.y) (eaSx ea) (eaSy ea)

/-- The splice checks, in their order (R288). -/
def State.spliceCheck (s : State) (g : Group) (i : Img) (b : List Byte) : Option Nat :=
  if g.kern.st != .running || g.armed then some 1
  else if g.tiles.any (fun t => (s.hub t).parts != i.parts b (g.unplace t)) then some 2
  else if i.datas.any (fun o => fld b (o + 4) 1 == 1) then some 3
  else if i.section_ b 7 != g.kern.poolSec || i.section_ b 6 != g.kern.barSec then some 4
  else if g.tiles.any (fun t => spillKey (fun ea => (s.elem ea).active) t != spillKey (fun ea => i.plane b (g.unplace ea)) t) then
    some 5
  else if i.kid.setWidth 16 == g.kern.kid.setWidth 16 then some 6
  else none

/-- The tests of R275 in their order: code, detail and offset of a refusal, or the image and its key index. -/
def State.loadTests (s : State) (l : LoadReq) (kid : Option Word) : Sum (Nat × Nat × Nat) (Img × Nat) :=
  let g := s.group l.grp
  let b := l.bytes
  let size := fld b 0x18 8
  if g.st == .free || (!l.splice && g.st != .reserved) then .inl (codeIllegal, 0x26, 0)
  else if l.splice && g.st != .live then .inl (codeSplice, 1, 0)
  else if !headerOk b then .inl (codeIllegal, 0x20, 0)
  else match s.keyIndex (sliceAt b (size - 128) 32) g.dom with
  | none => .inl (codeIllegal, 0x21, 0)
  | some k =>
    if !edVerify (sliceAt b (size - 128) 32) (measurement b) (sliceAt b (size - 96) 64) then .inl (codeIllegal, 0x22, 0)
    else match check1 b with
    | .inl o => .inl (codeIllegal, 1, o)
    | .inr i =>
      match checkElems i b with
      | some (c, o) => .inl (codeIllegal, c, o)
      | none =>
        if i.w != g.w || i.h != g.h then .inl (codeIllegal, 0x23, 0)
        else match (if l.splice then s.spliceCheck g i b else none) with
        | some d => .inl (codeSplice, d, 0)
        | none => if kid.any (fun k => k != i.kid) then .inl (codeIllegal, 0x25, 0) else .inr (i, k)

/-! ## What a load writes (R277, R288) -/

/-- The kernel that an image stages (R275). -/
def Img.kern (i : Img) (b : List Byte) (key : Nat) : Kern :=
  { Kern.zero with
    st := .staged, kid := i.kid, meas := measurement b, key := key, barSec := i.section_ b 6, poolSec := i.section_ b 7
    live := (i.datas.filter (fun o => fld b (o + 4) 1 == 0) ++ i.shapes).map (fun o =>
      let m := memRange i b o
      (64 * (eaTy m.1 * i.w + eaTx m.1) + m.1 % 64, m.2.1, m.2.2)) }

/-- The bytes of a DATA or SHAPE record. -/
def memBytes (i : Img) (b : List Byte) (o : Nat) : List Byte :=
  if i.shapes.contains o then sliceAt b (o + 8) 160 else sliceAt b (o + 24) (fld b (o + 16) 8)

/-- The planes of an image go into the shadows of a group's elements. -/
def State.stagePlanes (s : State) (g : Group) (i : Img) (b : List Byte) : State :=
  g.sites.foldl (fun s ea => s.modElem ea (fun e => e.setPlane (!e.act) (i.plane b (g.unplace ea)))) s

/-- A DATA or SHAPE record is written to SE memory or the tile store. -/
def State.writeRecord (s : State) (g : Group) (i : Img) (b : List Byte) (o : Nat) : State :=
  let m := memRange i b o
  if m.1 ≥ 2 ^ 14 then s.windowBytes (windowBase (g.place (m.1 - 2 ^ 14)) + m.2.1) (memBytes i b o)
  else s.windowBytes (seAddr (g.place m.1) m.2.1) (memBytes i b o)

/-- The tile-level records of an install: partitions, barriers, each in the state that the image gives it (R329, R330), pools (R277,
R283). -/
def State.writeHubs (s : State) (gn : Nat) (g : Group) (i : Img) (b : List Byte) : State :=
  let s := g.tiles.foldl (fun s t => (i.parts b (g.unplace t)).foldl (fun s p => s.setPart t p.1 p.2) s) s
  let s := g.tiles.foldl (fun s t => (s.hub t).bars.foldl (fun s x => s.initBar t x.1 0 []) s) s
  let s := i.bars.foldl (fun s o =>
    s.initBar (g.place (eaOf (fld b o 1) (fld b (o + 1) 1) 0 0)) (fld b (o + 2) 1) (fld b (o + 4) 2)
      (recTargets b o (fld b (o + 3) 1))) s
  i.pools.foldl (fun s o => s.setPool gn (fld b o 1) (fld b (o + 1) 1) (fld b (o + 2) 1) (fld b (o + 3) 1)) s

/-- The write of a partition of the image is refused with CFG_BUSY: a bank that it moves has a request waiting (R177, R277). -/
def State.partsBusy (s : State) (g : Group) (i : Img) (b : List Byte) : Bool :=
  g.tiles.any (fun t => (i.parts b (g.unplace t)).any (fun p =>
    let old := (s.hub t).part p.1
    p.2 != old && (s.partQueued t old || s.partQueued t p.2)))

/-- INSTALL (R277): everything is written, and the group swaps; tag credits of an earlier kernel are void. A write refused with CFG_BUSY
is retried 16 fc later, the group LOADING meanwhile. -/
def State.installImage (s : State) (gn : Nat) (i : Img) (b : List Byte) (key : Nat) : (Nat × Nat × Nat) × State :=
  let s := s.modGroup gn (fun g => { g with st := .loading, kern := i.kern b key, install := none })
  let g := s.group gn
  let s := s.stagePlanes g i b
  if s.partsBusy g i b then ((0, 0, 0), s.modGroup gn (fun g => { g with install := some (b, key, s.now + 16) })) else
  let s := { s with elems := tmap .zero (fun ea e => if g.covers ea then { e with tagCreds := [] } else e) s.elems }
  let s := s.writeHubs gn g i b
  let s := (i.datas ++ i.shapes).foldl (fun s o => s.writeRecord g i b o) s
  match s.swap (some gn) (s.group gn) g.sites true (i.kid.setWidth 16) with
  | .inl (code, d, _) => ((code, d, 0), s)
  | .inr s' => ((0, 0, 0), s')

/-- An INSTALL whose writes were refused is tried again (R277). -/
def State.retryInstall (s : State) (gn : Nat) : State :=
  match (s.group gn).install with
  | none => s
  | some (b, key, t) =>
    if s.now < t || (s.group gn).st != .loading then s
    else match check1 b with
    | .inl _ => s
    | .inr i => (s.installImage gn i b key).2

/-- SPLICE (R288, R443): the planes are staged, records for SE memory are held, and the loader arms the group. A refusal answers with
the command's status, its element above its detail (Table 11-3). -/
def State.spliceImage (s : State) (gn : Nat) (i : Img) (b : List Byte) (key : Nat) : (Nat × Nat × Nat) × State :=
  let s := s.modGroup gn (fun g => { g with
    succ := i.kern b key
    heldData := (i.datas ++ i.shapes).map (fun o => (g.place (memRange i b o).1, (memRange i b o).2.1, memBytes i b o)) })
  let s := s.stagePlanes (s.group gn) i b
  match s.splice gn (i.kid.setWidth 16) with
  | .inl (code, d, ea) => ((code, d + 256 * (ea % 2 ^ 14), 0), s)
  | .inr s' => ((0, 0, 0), s')

/-- A load request (R274 to R277): its status as code, detail and offset, and the state after. A refused one writes nothing. -/
def State.loadImage (s : State) (l : LoadReq) (kid : Option Word) : (Nat × Nat × Nat) × State :=
  match s.loadTests l kid with
  | .inl st => (st, s)
  | .inr (i, key) => if l.splice then s.spliceImage l.grp i l.bytes key else s.installImage l.grp i l.bytes key

end Sys2Proof.Machine
end

