-- ==== Sys2Proof/Machine/Link.lean ====
section
/-! DEFINITION. Links (chapter 17): their states and training (R393, R394), NAKs and replay (R392), requests to and from other
modules (R395 to R398), and what a crest core sends to the control node (R14, R400, R401). -/

namespace Sys2Proof.Machine

/-! ## States of a link -/

/-- The die whose log a link's fences go to (R10): that of the port, F0 for Sniqua. -/
def linkDie (l : Nat) : Nat := if l == sniqua then 0 else l / 4

/-- A link becomes DOWN: with ENABLE set it trains again after 1 ms (R393). -/
def State.linkDown (s : State) (l : Nat) : State :=
  let s := s.modXlink l (fun x => { x with st := .down, lanes := 0, since := s.now })
  if (s.xlink l).enable then s.after Config.msFc .linkDownRetry else s

/-- RESET and ENABLE 0 empty the replay buffers and what waits for them; both ends count from 0 again, and a request that has not left
is held (Table 17-2). -/
def State.emptyLink (s : State) (l : Nat) : State :=
  let back (q : Remote) : Remote := if q.st == .atPort && q.link == some l then { q with st := .held, link := none } else q
  ({ s with remotes := s.remotes.map back }.modXlink l (fun x => { x with
    txSeq := 0, replay := [], pending := [], rxSeq := 0, discard := false, naks := 0, nakSeq := 0, nakTx := 0 })).at_ s.now
    .remoteTimeout

/-- A DOWN link trains, for 1 ms at most (R393). -/
def State.trainFromDown (s : State) (l : Nat) : State :=
  if (s.xlink l).st == .down && (s.xlink l).enable then
    (s.modXlink l (fun x => { x with st := .training, since := s.now, fromUp := false })).after Config.msFc .linkDownRetry
  else s

/-- ENABLE written 1 (R393). -/
def execLinkEnable (l : Nat) (s : State) : Out1 :=
  .next ((s.modXlink l (fun x => { x with enable := true })).trainFromDown l)

/-- ENABLE written 0 (R393). -/
def execLinkDisable (l : Nat) (s : State) : Out1 :=
  .next (((s.modXlink l (fun x => { x with enable := false, cause := 0 })).emptyLink l).linkDown l)

/-- RESET written 1 in FENCED (R393). -/
def execLinkReset (l : Nat) (s : State) : Out1 :=
  .next (if (s.xlink l).st == .fenced then (s.emptyLink l).linkDown l else s)

/-- A fence is logged in the die that has the port (R412). -/
def State.logLink (s : State) (l : Nat) : State :=
  let x : LogEnt := ⟨12, 4, false, 0, BitVec.ofNat 64 l, s.dieCycle (linkDie l)⟩
  s.modDie (linkDie l) (fun d => { d with log := d.log.add x })

/-- A request to another module ends with a fault: the credit that it keeps returns (R398, R226). -/
def State.endRemote (s : State) (q : Remote) (code detail : Nat) : State :=
  let s := if q.cred then s.at_ s.now (.requestCreditReturn q.r.ea q.r.out q.r.epoch) else s
  s.failReq q.r q.r.ea code detail

/-- R398: a request that left by the link ends with LINK_FENCED. -/
def State.endRemotes (s : State) (l : Nat) : State :=
  let mine := s.remotes.filter (fun q => q.link == some l && q.st != .answered)
  mine.foldl (fun s q => s.endRemote q 0x60 l) { s with remotes := s.remotes.filter (fun q => q.link != some l) }

/-- R398. -/
def execLinkFenced (l : Nat) (s : State) : Out1 :=
  .next (if (s.xlink l).st == .fenced then s.endRemotes l else s)

/-- A link is FENCED (R393, R398). -/
def State.fenceLink (s : State) (l cause : Nat) : State :=
  ((s.modXlink l (fun x => { x with st := .fenced, lanes := 0, cause := cause, since := s.now })).logLink l).endRemotes l

/-- States in which a link may be fenced by its peer or by software. -/
def Link.active (x : Link) : Bool := x.carries || x.st == .training

/-- FENCE written 1 (R393). -/
def execLinkFenceWrite (l : Nat) (s : State) : Out1 :=
  .next (if (s.xlink l).active then (s.fenceLink l 3).sendControl l 4 else s)

/-- A FENCE flit from the peer (R393). -/
def execFenceFlitReceive (l : Nat) (s : State) : Out1 :=
  .next (if (s.xlink l).active then s.fenceLink l 2 else s)

/-- An UP or DEGRADED link trains again, for 1 ms at most; requests that wait on it keep their credits (R393, R394). -/
def State.retrain (s : State) (l : Nat) : State :=
  if (s.xlink l).carries then
    ((s.modXlink l (fun x => { x with
      st := .training, since := s.now, fromUp := true, retrains := min 65535 (x.retrains + 1), naks := 0, nakTx := 0 })).after
      Config.msFc .linkDownRetry).at_ s.now .remoteTimeout
  else s

/-- R393: eight NAKs for one SEQ, or a lane lost. -/
def execLinkRetrain (l : Nat) (s : State) : Out1 := .next (s.retrain l)

/-- The flits that are not acknowledged leave again, in order (R392). -/
def Link.resend (x : Link) : Link :=
  (x.replay.map (fun f => { f with ack := x.rxSeq })).foldl Link.put x

/-- A link that has been TRAINING for 1 ms is DOWN, or FENCED where it was UP or DEGRADED before (R393). -/
def State.trainingOver (s : State) (l : Nat) : State :=
  let x := s.xlink l
  if x.st != .training || s.now < x.since + Config.msFc then s
  else if x.fromUp then s.fenceLink l 1
  else s.linkDown l

/-- Training ends with `lanes` lanes: the link is UP or DEGRADED, or, 1 ms after it began, DOWN or FENCED (R393). -/
def execTrainingEnd (l lanes : Nat) (s : State) : Out1 := .next <|
  let x := s.xlink l
  let n := linkLanes l
  if x.st != .training then s
  else if n / 2 ≤ lanes then
    (s.modXlink l (fun x =>
      { x with st := if lanes ≥ n then .up else .degraded, lanes := min lanes n, since := s.now, discard := false }.resend)).flushLink l
  else s.trainingOver l

/-- After 1 ms in DOWN with ENABLE set a link trains again, and after 1 ms in TRAINING too few lanes have passed (R393). -/
def execLinkDownRetry (s : State) : Out1 :=
  .next ((List.range 33).foldl (fun s l =>
    let x := s.xlink l
    if x.st == .down && x.enable && x.since + Config.msFc ≤ s.now then s.trainFromDown l else s.trainingOver l) s)

/-! ## Acknowledgements and NAKs (R392) -/

/-- SEQ `a` is covered by an ACK: it is one of the flits of the replay buffer up to the one acknowledged. -/
def Link.acked (x : Link) (ack : Nat) : Link :=
  if x.replay.any (fun f => f.seq == ack) then
    { x with replay := (x.replay.dropWhile (fun f => f.seq != ack)).drop 1 }
  else x

/-- An ACK arrives: acknowledged flits leave the replay buffer, and waiting words take their room. -/
def State.linkAck (s : State) (l ack : Nat) : State := (s.modXlink l (fun x => x.acked ack)).flushLink l

/-- A NAK (R392): the sender replays from the next SEQ; the eighth in a row for one SEQ retrains the link. -/
def execNakReceive (l : Nat) (ack : BitVec 12) (s : State) : Out1 := .next <|
  if !(s.xlink l).carries then s
  else
    let s := s.modXlink l (fun x => x.acked ack.toNat)
    let x := s.xlink l
    let n := if x.nakSeq == ack.toNat then x.naks + 1 else 1
    let s := s.modXlink l (fun x => { x with naks := n, nakSeq := ack.toNat }.resend)
    if n ≥ 8 then s.retrain l else s.flushLink l

/-- A flit is discarded: one NAK is sent, and the eighth for one SEQ retrains the link (R392). -/
def State.sendNak (s : State) (l : Nat) : State :=
  let s := (s.modXlink l (fun x => { x with discard := true, nakTx := x.nakTx + 1 })).sendControl l 2
  if (s.xlink l).nakTx ≥ 8 then s.retrain l else s

/-! ## Requests to other modules (R397, R398) -/

/-- The address by which the port of a request is chosen: its own, or for a copy's granule that of its destination (R397). -/
def State.portAddr (s : State) (r : MReq) : Nat :=
  (match r.who with
   | .flow tile n => (((s.flow tile n).gran r.id).bind (fun x => s.granAddr (s.flow tile n) x true)).getD r.pa
   | _ => r.pa) % 2 ^ 44

/-- The port whose RTO bounds a request, and that RTO in fc: its own, or the lowest port of its route-table entry (R398). -/
def State.rtoOf (s : State) (q : Remote) : Nat × Nat :=
  let p := (q.link.orElse (fun _ => (maskPorts (tget 0 (q.r.pa / 2 ^ 44 % 1024) s.routeTab)).head?)).getD 0
  (p, s.rtoTime p)

/-- A die held in reset on the way from one die to another (R435). -/
def State.heldDie (s : State) (a b : Nat) : Option Nat := (diePath a b 4).find? (fun d => (s.die d).released.isNone)

/-- A request that has reached its port leaves by it, or waits there for room in its link. -/
def State.leavePort (s : State) (q : Remote) (p : Nat) : State :=
  let s := { s with remotes := s.remotes.map (fun x => if x == q then { q with st := .atPort } else x) }
  s.linkSend p (if isFlow q.r.who then vcCopy else vcRequest) (.request q.r.id)

/-- A held request sets out to its port, over the dies on the way, and leaves by it (R397, R11); where one of these is held in
reset it is not sent (R435). -/
def State.sendRemote (s : State) (q : Remote) : State :=
  let m := q.r.pa / 2 ^ 44
  let set := s.portSet m
  match pickPort set m (s.portAddr q.r) with
  | none => s
  | some p =>
    if !s.portsSettled m set then s
    else match s.heldDie (eaDie q.r.ea) (portDie p) with
    | some d => { s with remotes := s.remotes.erase q }.endRemote q 0x03 (64 + d)
    | none =>
      let t := s.now + 24 * dieDist (eaDie q.r.ea) (portDie p)
      let q' : Remote := ⟨{ q.r with dst := portDie p * 2048 }, s.now, some p, set, .toPort t, q.cred⟩
      let s := { s with remotes := s.remotes.map (fun x => if x == q then q' else x) }
      if t == s.now then s.leavePort q' p else s.at_ t .remoteTimeout

/-- A request that waits for a port or for its link keeps a credit of its route: it takes back the one that returned when it left the
tile hub (R393, R226; log 83). -/
def State.keepCredit (s : State) (q : Remote) : State :=
  let waits := q.st == .held || (q.st == .atPort && !(s.xlink (q.link.getD 0)).carries)
  let routed := q.r.out < localOut && (match q.r.who with | .firing | .gen _ => true | _ => false)
  if waits && routed && !q.r.ord && !q.cred then
    { s with remotes := s.remotes.map (fun x => if x == q then { q with cred := true } else x) }.modOut q.r.ea q.r.out
      (fun o => { o with reqUsed := o.reqUsed + 1 })
  else s

/-- The order token of a request that waits in another module for it leaves by the request's port, once it is here for its half of the
way (R232, R395, R397); the credit returns (R226). -/
def State.sendToken (s : State) (q : Remote) : State :=
  let m := q.r.pa / 2 ^ 44
  match s.tokenFor q.r, s.answerPort m (s.portAddr q.r) with
  | some t, some p =>
    let s := s.modOut q.r.ea q.r.out (fun o => { o with tokens := o.tokens.erase t })
    let s := { s with remotes := s.remotes.map (fun x => if x == q then { q with r := { q.r with ord := false } } else x) }
    (s.linkSend p vcReply (.token q.r.id m)).at_ s.now (.requestCreditReturn q.r.ea q.r.out q.r.epoch)
  | _, _ => s

/-- When requests to other modules are looked at again: in the next cycle while one is held or waits for its token, and at the bound
of the first. -/
def State.nextCheck (s : State) : State :=
  let at1 (s : State) (t : Nat) : State :=
    if s.agenda.any (fun x => x.instr == Instr.remoteTimeout && x.due == t) then s else s.at_ t .remoteTimeout
  let s := if s.remotes.any (fun q => q.st == .held || (q.r.ord && q.st == .sent)) then at1 s (s.now + 1) else s
  match (s.remotes.filter (fun q => q.st != .answered)).map (fun q => q.since + (s.rtoOf q).2) with
  | [] => s
  | t :: ts => at1 s (ts.foldl min t)

/-- R397, R398: held requests leave when their ports allow it, those that have reached their ports leave by them, order tokens leave
for those that wait for them elsewhere, and requests whose bound is reached end with REMOTE_TIMEOUT. -/
def execRemoteTimeout (s : State) : Out1 := .next <|
  let s := (s.remotes.filter (fun q => q.st == .held)).foldl (fun s q => s.sendRemote q) s
  let s := (s.remotes.filter (fun q => match q.st with | .toPort t => t ≤ s.now | _ => false)).foldl
    (fun s q => s.leavePort q (q.link.getD 0)) s
  let s := (s.remotes.filter (fun q => q.r.ord && q.st == .sent)).foldl (fun s q => s.sendToken q) s
  let late := s.remotes.filter (fun q => q.st != .answered && q.since + (s.rtoOf q).2 ≤ s.now)
  let s := late.foldl (fun s q => { s with remotes := s.remotes.erase q }.endRemote q 0x61 (s.rtoOf q).1) s
  (s.remotes.foldl (fun s q => s.keepCredit q) s).nextCheck

/-- What a flow does when one of its remote accesses has ended: a source that is there is written on, and a destination that is
written makes the granule performed (R248, R348). -/
def State.farGranule (s : State) (r : MReq) (data : Option (List Byte × Bool)) : State :=
  match r.who with
  | .flow tile n =>
    match (s.flow tile n).gran r.id with
    | none => s
    | some x =>
      let s := s.progress r.grp tile
      match data with
      | some d => s.granRead tile n x (unitsOf d.1 (d.2 || x.pzn)) (memBack s.module r)
      | none => s.after (memBack s.module r - homeHalf s.module r.ea r.pa) (.copyGranule tile ⟨n, x.id, .writeBack⟩)
  | _ => s

/-- A value from another module for a request other than a copy's: a load of a poisoned page is poisoned too (R348), and a record's
store is followed by the next (R358). -/
def State.remoteValue (s : State) (r : MReq) (v : Word) (p : Bool) : State :=
  if isFlow r.who then s.farGranule r none
  else if r.acc == .record then (s.progress r.grp r.ea).recordStored r
  else s.complete r v (p || (r.pzn && (r.acc == .ld || r.acc == .lde))) (replyDelay s.module r)

/-- The request as the home performs it; a copy's 64 bytes are one access of eight units. -/
def remoteMReq (module : Nat) (q : RemoteReq) (id : Nat) : MReq :=
  let units := unitsOf q.bytes q.poison
  { MReq.zero with
    id := id, grp := 65536, dom := q.dom, ea := portDie q.link * 2048, who := .remote q.link q.srcModule q.id, acc := q.acc,
    out := localOut, endp := 0x82, addr := BitVec.ofNat 64 q.addr, pa := module * 2 ^ 44 + q.addr, sz := if q.copy then 6 else q.sz, sx := q.sx,
    fen := q.fen && !q.copy,
    aop := q.aop, v1 := q.v1, v2 := if q.copy then (if q.poison then 1 else 0) else q.v2,
    vals := if q.copy then units.map (fun u => BitVec.ofNat 64 u.1) else [] }

/-- A request of another module goes over the dies between its port and its home (R11), where it is performed. -/
def State.farGo (s : State) (q : RemoteReq) : State :=
  s.bump.after (24 * dieDist (portDie q.link) (memDie q.addr)) (.requestPerform (remoteMReq s.module q s.serial))

/-- The order token of a request of module `m` is here: the request goes on, or the token waits for it (R232). -/
def State.farToken (s : State) (m id : Nat) : State :=
  match s.farHeld.find? (fun q => q.srcModule == m && q.id == id) with
  | some q => { s with farHeld := s.farHeld.erase q }.farGo q
  | none => { s with farTokens := s.farTokens ++ [(m, id)] }

/-- The request that a reply answers is there: it is over, but for its completion token (R232). -/
def State.replyTaken (s : State) (q : Remote) : State :=
  if q.r.fen && q.r.who == .firing then
    { s with remotes := s.remotes.map (fun x => if x == q then { q with st := .answered } else x) }
  else { s with remotes := s.remotes.erase q }

/-- A refusal of another module raises its fault as a local one does: the poison of a unit is a fault of the group (R396, Table 9-3). -/
def State.remoteRefusal (s : State) (r : MReq) (code detail : Nat) : State :=
  if code == 0x15 && !isFlow r.who then s.refuse r (detail.testBit 7)
  else s.failReq r r.ea code (if code == 0x12 then 0x11 else detail)

/-- A reply, token or refusal from another module reaches the request of its number (R398): one that would be visible after the bound
is discarded. The token of a request that was performed there comes here half of its time after the performance (R232). -/
def State.remoteReply (s : State) (m : Nat) (load : FlitLoad) : State :=
  let find (id : Nat) : Option Remote :=
    s.remotes.find? (fun q => q.r.id == id && q.st == .sent && s.now + memBack s.module q.r ≤ q.since + (s.rtoOf q).2)
  match load with
  | .none => s
  | .reply id v p =>
    match find id with
    | some q => (s.replyTaken q).remoteValue { q.r with fen := false } v p
    | none => s
  | .data id b p =>
    match find id with
    | some q =>
      let s := s.replyTaken q
      if q.r.acc == .packet then s.packetThere q.r b p else s.farGranule q.r (some (b, p))
    | none => s
  | .refusal id code detail =>
    match find id with
    | some q => { s with remotes := s.remotes.erase q }.remoteRefusal q.r code.toNat detail.toNat
    | none => s
  | .completed id =>
    match s.remotes.find? (fun q => q.r.id == id && (q.st == .sent || q.st == .answered) && q.r.fen) with
    | some q =>
      let rest := if q.st == .answered then s.remotes.erase q
        else s.remotes.map (fun x => if x == q then { q with r := { q.r with fen := false } } else x)
      { s with remotes := rest }.at_ s.now (.orderTokenArrival q.r.ea q.r.ofwd q.r.tag (homeCode s.module q.r))
    | none => s
  | .token id => s.farToken m id

/-! ## Requests from other modules (R396) -/

/-- The control node has opened the frame of an address to a module (R396). -/
def State.windowOpen (s : State) (module a n : Nat) : Bool :=
  s.windows.any (fun w =>
    w.2.1.getLsbD 0 && w.2.1.toNat / 2 % 2 ^ 20 == module && w.2.2.1.toNat ≤ a && a + n ≤ w.2.2.1.toNat + w.2.2.2.toNat)

/-- The module that receives a request of another one refuses it (R396). -/
def State.remoteBad (s : State) (q : RemoteReq) (n : Nat) : Bool :=
  let region := regionOf q.addr
  (!q.copy && q.srcModule / 1024 % 1024 != s.module / 1024 % 1024) || (region != .hbm && region != .capacity) ||
    regionOf (q.addr + n - 1) != region || (q.copy && q.acc != .ld && !s.windowOpen q.srcModule q.addr n)

/-- R396: a request from a remote module is checked, or answered PERMISSION with detail 0x11; it waits for its order token where its
route has ORD (R232). -/
def execRemoteRequestArrival (q : RemoteReq) (s : State) : Out1 := .next <|
  if s.remoteBad q (if q.copy then 64 else 2 ^ q.sz) then s.answerRemote q.link q.srcModule q.addr q.id 0x11 0x12 false
  else if q.ord && !q.copy then
    if s.farTokens.contains (q.srcModule, q.id) then { s with farTokens := s.farTokens.erase (q.srcModule, q.id) }.farGo q
    else { s with farHeld := s.farHeld ++ [q] }
  else s.farGo q

/-! ## Crest cores (R14, R400, R401) -/

/-- A crest core is available: its die is released, and it is neither held nor halted (R14). -/
def State.coreUp (s : State) (k : Nat) : Bool := (s.die (k / 4)).released.isSome && !(s.core k).off

/-- The crest core that services a group whose origin tile is `origin` (R14). -/
def State.servicer (s : State) (gn origin : Nat) : Option Nat :=
  let home := eaDie origin
  let dies := home :: (List.range Config.dies).filter (fun d => d != home)
  (dies.flatMap (fun d => (List.range 4).map (fun i => coreId d ((gn + i) % 4)))).find? s.coreUp

/-- The CORE field of a crest core (Table 17-5). -/
def coreField (k : Nat) : Byte := BitVec.ofNat 8 (k / 4 + k % 4 * 8)

/-- The header and payload of a message, padded to a multiple of 8 (R400). -/
def msgBytes (m : Msg) : List Byte :=
  leBytes 2 m.type.toNat ++ [m.core, m.rsv] ++ leBytes 4 m.payload.length ++ leBytes 8 m.tag.toNat ++ leBytes 2 m.dom.toNat ++
    leBytes 2 m.grp.toNat ++ leBytes 4 m.arg0.toNat ++ leBytes 8 m.arg1.toNat ++ m.payload ++
    List.replicate ((8 - m.payload.length % 8) % 8) 0

/-- Bytes cut into payloads of 60, padded with zeros. -/
def flitPayloads (b : List Byte) : Nat → List (List Byte)
  | 0 => []
  | n + 1 => if b.isEmpty then [] else (b.take 60 ++ List.replicate (60 - (b.take 60).length) 0) :: flitPayloads (b.drop 60) n

/-- A message leaves by the Sniqua port (R400). -/
def State.emit (s : State) (m : Msg) : State :=
  (flitPayloads (msgBytes m) (msgBytes m).length).foldl (fun s b => s.linkSend sniqua vcMessage (.bytes b))
    { s with sent := s.sent ++ [m] }

/-- A notice to the control node, no REPLY (Table 17-6). -/
def Msg.notice (m : Msg) : Bool := m.type != 0x80

/-- A message of a crest core leaves by the Sniqua port while that is UP or DEGRADED, and waits at the core otherwise; the oldest
notice beyond 256 is dropped and counted (R401). -/
def State.sendMsg (s : State) (k : Nat) (m : Msg) : State :=
  if (s.xlink sniqua).carries && s.coreUp k then s.emit m
  else s.modCore k (fun c =>
    let l := c.out ++ [m]
    if l.countP Msg.notice ≤ Config.notices then { c with out := l }
    else { c with out := l.eraseP Msg.notice, dropped := c.dropped + 1 })

/-- A notice of a group goes out by the crest core that services it, and waits at the origin hub while none is available (R14). -/
def State.giveNotice (s : State) (gn origin : Nat) (m : Msg) : State :=
  match s.servicer gn origin with
  | some k => s.sendMsg k { m with core := coreField k }
  | none => s.modHub origin (fun h => { h with notices := h.notices ++ [(gn, m)] })

/-- Notices that waited for a crest core go out (R14). -/
def State.flushNotices (s : State) : State :=
  s.hubs.foldl (fun s h =>
    if h.2.notices.isEmpty then s
    else h.2.notices.foldl (fun s n => s.giveNotice n.1 h.1 n.2) (s.modHub h.1 (fun x => { x with notices := [] }))) s

/-- What waits at the crest cores leaves once the port is UP or DEGRADED. -/
def State.flushCores (s : State) : State :=
  if (s.xlink sniqua).carries then
    (s.cores.filter (fun c => s.coreUp c.1)).foldl (fun s c =>
      c.2.out.foldl (fun s m => s.emit m) (s.modCore c.1 (fun x => { x with out := [] }))) s
  else s

end Sys2Proof.Machine
end

