-- ==== Sys2Proof/Machine/Queue.lean ====
section
/-! DEFINITION. Queues and launches (chapter 13): qpush (R322), entries and their tests (R318), the die schedulers (R326,
R327), the load of a launch (R274, R276), its start and its end (R324, R325), signals (R323), push ports (R320). -/

namespace Sys2Proof.Machine

/-! ## The launch packet (Table 13-4) -/

def pktKid (p : List Byte) : Nat := fld p 0x00 8
def pktImage (p : List Byte) : Nat := fld p 0x08 8
def pktArg (p : List Byte) : Nat := fld p 0x10 8
def pktW (p : List Byte) : Nat := fld p 0x18 1
def pktH (p : List Byte) : Nat := fld p 0x19 1
def pktFlag (p : List Byte) (i : Nat) : Bool := (fld p 0x1A 2).testBit i
def pktWaitsig (p : List Byte) : Nat := fld p 0x1C 2
def pktSigout (p : List Byte) : Nat := fld p 0x1E 2
def pktWaitval (p : List Byte) : BitVec 32 := BitVec.ofNat 32 (fld p 0x20 4)
def pktSigadd (p : List Byte) : BitVec 32 := BitVec.ofNat 32 (fld p 0x24 4)
def pktWlim (p : List Byte) : Nat := fld p 0x28 1
def pktPlim (p : List Byte) : Nat := fld p 0x29 1
def pktInlen (p : List Byte) : Nat := fld p 0x2A 1
def pktInloff (p : List Byte) : Nat := fld p 0x2C 4
def pktRecaddr (p : List Byte) : Word := BitVec.ofNat 64 (fld p 0x30 8)
def pktUser (p : List Byte) : Nat := fld p 0x38 8

/-- Bits of FLAGS. -/
abbrev flagWaiten : Nat := 0
abbrev flagSigen : Nat := 1
abbrev flagRecen : Nat := 2
abbrev flagNotify : Nat := 3
abbrev flagPmode : Nat := 4

/-- Test 3 of R318: ranges. -/
def pktRanges (p : List Byte) : Bool :=
  1 ≤ pktW p && pktW p ≤ 32 && 1 ≤ pktH p && pktH p ≤ 8 && pktWaitsig p < 4096 && pktSigout p < 4096 &&
    pktInlen p ≤ 64 && pktInlen p % 8 == 0 && pktInloff p % 8 == 0

/-- Test 4 of R318: reserved bytes and bits are 0. -/
def pktClean (p : List Byte) : Bool :=
  fld p 0x1A 2 / 32 == 0 && fld p 0x2B 1 == 0 && fld p (0x40 + pktInlen p) (64 - pktInlen p) == 0

/-! ## Entries (R318) -/

/-- Test 5 of R318: the queue has room. -/
def Queue.room (q : Queue) : Bool :=
  q.ents.length < Config.queueEntries || (q.szlog != 0 && q.back.length < 2 ^ q.szlog)

/-- The tests of R318 in their order, as a status of Table 13-5. Domain 0 is never given to a group (R18); DESIGN CHOICE (log 64): an
entry of domain 0 fails test 2, with the status of a domain that is not the queue's. -/
def State.entryTest (s : State) (e : EntryReq) : Nat :=
  let q := s.queue e.queue
  if !s.dieUp (e.queue / 32) || !(q.st == .opened || q.st == .blocked) then 1
  else if e.dom != q.dom || e.dom == 0 then 2
  else if !pktRanges e.packet || !pktClean e.packet then 3
  else if !q.room then 4
  else 0

/-- A launch that is not over. -/
def Launch.live (l : Launch) : Bool := l.st != .complete && l.st != .failed

/-- The parent of an entry, while its launch is not over. -/
def State.entryParent (s : State) (e : EntryReq) : Option Launch :=
  (e.parent.bind s.launch).bind (fun l => if l.live then some l else none)

/-- The parent's count of children is full (R322). -/
def State.kidsFull (s : State) (e : EntryReq) : Bool :=
  match s.entryParent e with
  | some l => 65535 ≤ l.kids
  | none => false

/-- The group whose element pushed an entry, while it still runs the launch that pushed it. -/
def State.pusherGroup (s : State) (e : EntryReq) : Option Nat :=
  match e.pusher with
  | none => none
  | some (ea, _, _, _) => (s.groupAt ea).bind (fun gn => if (s.group gn).lid == e.parent then some gn else none)

/-- A qpush is outstanding no more (R322). -/
def State.pushOver (s : State) (e : EntryReq) : State :=
  match e.pusher, s.pusherGroup e with
  | some (ea, ctx, _, _), some _ => s.modCtx ea ctx (fun c => { c with qp := c.qp - 1 })
  | _, _ => s

/-- The status of an entry reaches its push port (R320). -/
def State.portStatus (s : State) (e : EntryReq) (st : Nat) : State :=
  match e.port with
  | some (d, j) =>
    { s with pushes := tput .zero (32 * d + j) { tget .zero (32 * d + j) s.pushes with stat := st, busy := false } s.pushes }
  | none => s

/-- An accepted entry takes the tail and becomes a QUEUED launch with the next LID (R318, R314). -/
def State.acceptEntry (s : State) (e : EntryReq) : State :=
  let lid := s.lids % 2 ^ 32
  let parent := (s.entryParent e).map (·.lid)
  let l : Launch := {
    lid := lid, queue := e.queue, pkt := e.packet, st := .queued, grp := none, parent := parent, kids := 0, fail := false,
    code := 0, enq := (s.dieCycle (e.queue / 32)).toNat, saved := false, dom := e.dom, origin := 0, kidFail := false, rec_ := 0 }
  let s := { s with lids := s.lids + 1, launches := (s.launches.filter (fun (x : Launch) => x.lid != lid)) ++ [l] }
  let s := match parent with
    | some p => s.modLaunch p (fun x => { x with kids := x.kids + 1 })
    | none => s
  let q := s.queue e.queue
  let s := if q.ents.length < Config.queueEntries then s.modQueue e.queue (fun q => { q with ents := q.ents ++ [lid] })
    else
      let s := if regionOf q.base.toNat == .hbm then s.windowBytes (q.base.toNat + 128 * q.slot) e.packet else s
      s.modQueue e.queue (fun q => { q with back := q.back ++ [lid], slot := (q.slot + 1) % 2 ^ q.szlog })
  (s.pushOver e).portStatus e 0

/-- An entry is refused: a status at its port, or a fault of the pushing group (R319, R322). -/
def State.refuseEntry (s : State) (e : EntryReq) (st : Nat) : State :=
  let gn := s.pusherGroup e
  let s := (s.pushOver e).portStatus e st
  match e.pusher, gn with
  | some (ea, ctx, slot, sa), some gn =>
    let code := if st ≤ 2 then 0x12 else 0x02
    s.raiseRec gn ea ea (some ctx) (some slot) code true true (if st ≤ 2 then 1 else 0) sa
  | _, _ => s

/-- An entry at its queue: accepted, refused, or, from a qpush that finds no room, made to wait; the second result tells that
it waits (R318, R322). -/
def State.takeEntry (s : State) (e : EntryReq) : Bool × State :=
  match s.entryTest e with
  | 0 => if s.kidsFull e then (true, s) else (false, s.acceptEntry e)
  | 4 => if e.pusher.isSome then (true, s) else (false, s.refuseEntry e 4)
  | st => (false, s.refuseEntry e st)

/-- Waiting entries are tried again in their order of arrival (R322). -/
def State.retryEntries (s : State) (qn : Nat) : List EntryReq → State
  | [] => s
  | e :: es =>
    let (waits, s) := s.takeEntry e
    (if waits then s.modQueue qn (fun q => { q with waiting := q.waiting ++ [e] }) else s).retryEntries qn es

/-- What waits at a queue takes the room there is. -/
def State.drainWaiting (s : State) (qn : Nat) : State :=
  let w := (s.queue qn).waiting
  (s.modQueue qn (fun q => { q with waiting := [] })).retryEntries qn w

/-- R318. -/
def execEnqueueEntry (e : EntryReq) (s : State) : Out1 := .next <|
  let (waits, s) := s.takeEntry e
  if waits then s.modQueue e.queue (fun q => { q with waiting := q.waiting ++ [e] }) else s

/-! ## qpush (R322) -/

/-- A qpush may fire: fewer than 4 of its context are outstanding. -/
def qpushReady (s : State) (cu : Cursor) : Bool := (s.ctx cu.ea cu.ctx).qp < 4

/-- The checks of a qpush's operands, in their order. -/
def qpushFault (lit a : Word) : Option (Nat × Word) :=
  if lit.toNat / 512 != 0 then some (0x01, lit)
  else if !canonical a then some (0x10, a)
  else if a.toNat % 128 != 0 then some (0x13, a)
  else none

/-- The packet read of a qpush; `v1` is SB, `aop` the literal. -/
def qpushReq (s : State) (cu : Cursor) (lit a b : Word) : MReq :=
  let gn := s.groupNo cu.ea
  { MReq.zero with
    id := s.serial, grp := gn, dom := (s.group gn).dom, ea := cu.ea, ctx := cu.ctx, slot := cu.slot, acc := .packet,
    out := localOut, endp := 0x82, sz := 3, addr := a, aop := lit.toNat % 512, v1 := b, issued := s.now }

/-- R322. -/
def execQpush (f : SlotF) (s : State) : Out1 := .next <|
  match s.cur with
  | none => s
  | some cu =>
    match s.operandFault cu f with
    | some s' => s'
    | none =>
      let x := aluIn s cu f
      match qpushFault f.lit x.a with
      | some (code, aux) => s.raiseSync cu code 0 aux
      | none =>
        s.fireWith f (fun cu x _ s =>
          let r := qpushReq s cu f.lit x.a x.b
          (s.bump.modCtx cu.ea cu.ctx (fun c => { c.setWait waitQpush true with qp := c.qp + 1 })).sendAfterAcks cu r)

/-- R322: the packet is at the tile hub; its entry goes to the scheduler of its queue. -/
def execQpushEntry (r : MReq) (s : State) : Out1 := .next <|
  let b := tget [] r.id s.reads
  let p := if r.aop.testBit 8 then b.take 16 ++ leBytes 8 r.v1.toNat ++ b.drop 24 else b
  let qn := r.aop % 256
  let e : EntryReq := {
    queue := qn, dom := r.dom, packet := p, parent := (s.group r.grp).lid, pusher := some (r.ea, r.ctx, r.slot, r.addr),
    port := none }
  { s with reads := tput [] r.id [] s.reads }.after (8 + 48 * dieDist (eaDie r.ea) (qn / 32)) (.enqueueEntry e)

/-! ## Push ports (R320) -/

/-- A write of PUSH by the crest core with global number `j`, in die block `die`: the packet is an entry of QUEUE, from DOMAIN;
a queue of another die is closed. -/
def execPushWrite (die j : Nat) (v : Word) (s : State) : Out1 := .next <|
  let p := tget .zero (32 * die + j) s.pushes
  if p.busy then s
  else
    let s := { s with pushes := tput .zero (32 * die + j) { p with busy := true } s.pushes }
    let qn := v.toNat % 256
    let e : EntryReq := {
      -- a queue of another die's scheduler is refused as closed: number 256 names none
      queue := if qn / 32 == die then qn else 256
      dom := v.toNat / 2 ^ 16 % 2 ^ 16
      packet := (List.range 16).flatMap (fun i => leBytes 8 (tget 0 i p.pkt).toNat)
      parent := none
      pusher := none
      port := some (die, j) }
    s.after (8 + 48 * dieDist (j / 4) die) (.enqueueEntry e)

/-! ## Queue states (Table 13-3) -/

/-- EN written 1: a DISABLED queue opens, empty. -/
def execQueueEnable (qn : Nat) (_v : Word) (s : State) : Out1 := .next <|
  if (s.queue qn).st != .disabled then s
  else s.modQueue qn (fun q => { q with st := .opened, ents := [], back := [], slot := 0, passes := 0, promos := 0, hold := false })

/-- EN written 0: a queue that holds an entry drains, any other is DISABLED. -/
def execQueueDisable (qn : Nat) (_v : Word) (s : State) : Out1 := .next <|
  let q := s.queue qn
  if q.st == .opened || q.st == .blocked then
    (s.modQueue qn (fun q => { q with st := if q.ents.isEmpty && q.back.isEmpty then .disabled else .draining })).drainWaiting qn
  else s

/-! ## Signals (R323) -/

/-- A completion signal; one that a die in reset holds reads 0 (R435). -/
def State.signal (s : State) (n : Nat) : BitVec 32 := if s.dieUp (n / 512) then tget 0 n s.signals else 0

/-- R323, R435. -/
def execSignalUpdate (n : Nat) (add : BitVec 32) (s : State) : Out1 :=
  .next (if s.dieUp (n / 512) then { s with signals := tput 0 n (tget 0 n s.signals + add) s.signals } else s)

/-! ## Scheduling (R326, R327) -/

/-- The launch at a queue's head. -/
def State.headOf (s : State) (qn : Nat) : Option Launch := (s.queue qn).ents.head?.bind s.launch

/-- The wait of a head holds (R323). -/
def State.waitOk (s : State) (l : Launch) : Bool :=
  !pktFlag l.pkt flagWaiten || BitVec.sle (pktWaitval l.pkt) (s.signal (pktWaitsig l.pkt))

/-- The shape that a launch needs. -/
def Launch.shape (l : Launch) : Nat × Nat := (pktW l.pkt, pktH l.pkt)

/-- The machine as the schedulers of one cycle see it: without the reservations of that cycle (R299). -/
def State.beforeCycle (s : State) : State := { s with groups := s.groups.filter (fun g => (g.2.placed.map (·.1)) != some s.now) }

/-- The effective priority of a queue. -/
def Queue.eff (q : Queue) : Nat := q.pri - q.promos

/-- The queues of a die. -/
def dieQueues (die : Nat) : List Nat := (List.range 32).map (fun i => 32 * die + i)

/-- OPEN and BLOCKED follow the head's wait (Table 13-3). -/
def State.updateWaits (s : State) (die : Nat) : State :=
  (dieQueues die).foldl (fun s qn =>
    match s.headOf qn with
    | none => s
    | some l => s.modQueue qn (fun q =>
      if q.st == .opened && !s.waitOk l then { q with st := .blocked }
      else if q.st == .blocked && s.waitOk l then { q with st := .opened }
      else q)) s

/-- The head of a queue is considered: an OPEN queue's, and a DRAINING one's whose wait holds. -/
def State.considered (s : State) (qn : Nat) : Option Launch :=
  let q := s.queue qn
  (s.headOf qn).bind (fun l => if q.st == .opened || (q.st == .draining && s.waitOk l) then some l else none)

/-- The origin of a RETIRED group that a launch may reuse (Table 12-1). DESIGN CHOICE (log 70): a scheduler reuses one for a launch that
fits no free rectangle; the spec does not say when it does. -/
def State.reuseOrigin (s : State) (l : Launch) : Option (Nat × Nat) :=
  if l.saved then none else (s.reusable l.shape.1 l.shape.2).map (fun gn => ((s.group gn).x, (s.group gn).y))

/-- The origin at which a head fits (R299), or that of a group it may reuse. -/
def State.fitOf (s : State) (qn : Nat) : Option (Nat × Nat) :=
  (s.considered qn).bind (fun l => (s.beforeCycle.firstOrigin l.shape.1 l.shape.2).orElse (fun _ => s.beforeCycle.reuseOrigin l))

/-- The group at an origin that is RETIRED, and so to be reused. -/
def State.retiredAt (s : State) (o : Nat × Nat) : Option Nat :=
  (s.groupAt (tileAt o.1 o.2)).filter (fun gn => (s.group gn).st == .retired)

/-- The tiles at an origin may be taken now, or are those of a group to be reused. -/
def State.stillFits (s : State) (l : Launch) (o : Nat × Nat) : Bool :=
  (rectTiles o.1 o.2 l.shape.1 l.shape.2).all s.tileFree || (s.retiredAt o).isSome

/-- The queues that begin to hold back others: effective priority 0, and a head that does not fit (R327). -/
def State.starved (s : State) (die : Nat) : List Nat :=
  (dieQueues die).filter (fun qn => (s.considered qn).isSome && (s.queue qn).eff == 0 && (s.fitOf qn).isNone)

/-- An enqueue order: older first, then the lower queue number. -/
def olderHead (s : State) (a b : Nat) : Nat :=
  let t (q : Nat) : Nat := ((s.headOf q).map (·.enq)).getD 0
  if t b < t a then b else a

/-- The candidate that is placed (R326): a promoted one, the older first; else the next in turn. -/
def State.pickQueue (s : State) (die : Nat) (cs : List Nat) : Option Nat :=
  match cs with
  | [] => none
  | c :: rest =>
    let e := rest.foldl (fun m q => min m (s.queue q).eff) (s.queue c).eff
    let best := cs.filter (fun q => (s.queue q).eff == e)
    match best.filter (fun q => (s.queue q).promos != 0) with
    | p :: ps => some (ps.foldl (olderHead s) p)
    | [] =>
      let last := tget 0 (8 * die + e) s.lastPlaced
      (best.find? (fun q => last ≤ q)).orElse (fun _ => best.head?)

/-- The group, of a lower urgency than a starved queue, whose tiles would let its head fit (R327). -/
def State.victim (s : State) (qn : Nat) (l : Launch) : Option Nat :=
  (s.groups.find? (fun g =>
    g.2.st == .live &&
      (match g.2.lid.bind s.launch with
       | some x => (s.queue qn).pri < (s.queue x.queue).pri
       | none => false) &&
      ({ s with groups := tdel g.1 s.groups }.firstOrigin l.shape.1 l.shape.2).isSome)).map (·.1)

/-- The request of a queue is in force. -/
def State.askedLive (s : State) (qn : Nat) : Bool :=
  match (s.queue qn).asked with
  | none => false
  | some gn => (s.group gn).preq.isSome || (s.group gn).st == .draining || (s.group gn).st == .quiescent

/-- A starved queue with PEN requests a pre-emption, one at a time (R327). -/
def State.askRoom (s : State) (qn : Nat) : State :=
  let q := s.queue qn
  match q.pen && !s.askedLive qn, s.considered qn with
  | true, some l =>
    (match s.victim qn l with
     | some gn => ((s.preemptGroup gn q.pmode).2).modQueue qn (fun q => { q with asked := some gn })
     | none => s)
  | _, _ => s

/-- The head of a queue is placed: it leaves, and the queue loses its promotions, its count and its hold on others (R326, R327). A
pre-emption that it has requested stays in force. -/
def Queue.popHead (q : Queue) : Queue :=
  { q with passes := 0, promos := 0, hold := false }.leave (q.ents.headD 0)

/-- One pass of a queue with aging (R326). -/
def Queue.age_ (q : Queue) : Queue :=
  if q.passes + 1 ≥ q.age then { q with passes := 0, promos := q.promos + 1 } else { q with passes := q.passes + 1 }

/-! ### Reading the image of a launch -/

/-- One page of module memory for firmware through a domain's table: the physical address, or a fault code. A record may be stored in
another module of the load-store domain (R21). -/
def State.pageFor (s : State) (acc : Acc) (dom : Nat) (ea : Nat) (va : Word) : Sum Nat Nat :=
  if !canonical va then .inr 0x10
  else match s.walkNow ea dom (vbits va) with
  | .missing _ => .inr 0x11
  | .bad => .inr 0x12
  | .offline => .inr 0x03
  | .leaf page size _ e =>
    match leafUse s.module acc false page size e (vbits va) with
    | .inr _ => .inr 0x12
    | .inl pa =>
      if pa / 2 ^ 44 != s.module then (if acc == .packet then .inr 0x12 else .inl pa)
      else if (s.homeFault ea (pa % 2 ^ 44)).isSome then .inr 0x03
      else if ptePzn e && acc == .packet then .inr 0x15
      else .inl pa

/-- `n` units of 8 bytes read from an address, each through the table. -/
def State.readVirt (s : State) (dom ea : Nat) (va : Word) : Nat → Sum (List Byte) Nat
  | 0 => .inl []
  | n + 1 =>
    match s.pageFor .packet dom ea va with
    | .inr c => .inr c
    | .inl pa =>
      if s.poisoned (unitOf (pa % 2 ^ 44)) then .inr 0x15
      else match s.readVirt dom ea (va + 8) n with
      | .inr c => .inr c
      | .inl b => .inl (s.readBytes (pa % 2 ^ 44) 8 ++ b)

/-- The image at a virtual address, as the loader reads it (R274): its header, then SIZE bytes. -/
def State.readImage (s : State) (dom ea : Nat) (va : Word) : List Byte × Option Byte :=
  if va.toNat % 8 != 0 then ([], some 0x13)
  else match s.readVirt dom ea va 8 with
  | .inr c => ([], some (BitVec.ofNat 8 c))
  | .inl h =>
    let size := fld h 0x18 8
    if fld h 0 4 != 0x494B5255 || size < 64 || size % 8 != 0 then (h, none)
    else match s.readVirt dom ea va (size / 8) with
    | .inr c => ([], some (BitVec.ofNat 8 c))
    | .inl b => (b, none)

/-! ### Placement -/

/-- The group control register as a packet sets it at placement (R325, Table 13-4). -/
def Group.limits (g : Group) (p : List Byte) : Group :=
  { g with
    wlim := if pktWlim p == 0 then 128 else pktWlim p
    plim := if pktPlim p == 0 then 255 else pktPlim p
    pmode := pktFlag p flagPmode }

/-- The group of a launch placed anew: its control register from the packet (R325), and its load request (R274). -/
def State.placeNew (s : State) (die : Nat) (l : Launch) (o : Nat × Nat) : State :=
  let d := s.mapDelay die o (pktW l.pkt) (pktH l.pkt)
  let (gn, s) := match s.retiredAt o with
    | some gn => (gn, s.reuseGroup gn l.dom)
    | none => s.placeGroup o.1 o.2 (pktW l.pkt) (pktH l.pkt) l.dom
  let s := s.modGroup gn (fun g =>
    { g.limits l.pkt with
      lid := some l.lid
      launchArg := BitVec.ofNat 64 (pktArg l.pkt)
      placed := some (s.now, State.mapUsed die o.1 o.2 (pktW l.pkt) (pktH l.pkt)) })
  let origin := tileAt o.1 o.2
  let s := s.modLaunch l.lid (fun x => { x with st := .placed, grp := some gn, origin := origin })
  let img := s.readImage l.dom origin (BitVec.ofNat 64 (pktImage l.pkt))
  s.after d (.imageLoadRequest ⟨gn, false, img.1, img.2, some l.lid, none⟩)

/-- The group of a launch placed again after a save (R311), its control register from the packet (R325). A restore that R310 refuses
leaves the group SAVED; DESIGN CHOICE (log 72): the launch then fails with CODE CFG_ILLEGAL, as by a refused load. -/
def State.placeSaved (s : State) (die : Nat) (l : Launch) (gn : Nat) : State :=
  let g := s.group gn
  let d := ((s.firstOrigin g.w g.h).map (fun o => s.mapDelay die o g.w g.h)).getD 0
  match s.restoreGroup gn die true with
  | none =>
    (((s.refuseRestore gn).modGroup gn (fun g => { g with lid := none })).modLaunch l.lid (fun x =>
      { x with st := .placed, fail := true, code := 0x32 })).at_ s.now (.launchComplete l.lid)
  | some s =>
    let origin := (s.group gn).origin
    ((s.modGroup gn (fun g => g.limits l.pkt)).modLaunch l.lid (fun x =>
      { x with st := .placed, origin := origin })).after (1 + d) (.launchStart l.lid)

/-- A head is placed at its origin (R326). -/
def State.placeHead (s : State) (die qn : Nat) (l : Launch) (o : Nat × Nat) : State :=
  let e := (s.queue qn).eff
  let s := { s with lastPlaced := tput 0 (8 * die + e) (qn + 1) s.lastPlaced }
  let s := s.modQueue qn Queue.popHead
  let s := match l.saved, l.grp with
    | true, some gn => s.placeSaved die l gn
    | _, _ => s.placeNew die l o
  s.drainWaiting qn

/-- R326, R327: the decision of a die's scheduler. -/
def execSchedulerDecision (die : Nat) (s : State) : Out1 := .next <|
  if !s.dieUp die then s
  else
    let s := s.updateWaits die
    let now_ := s.starved die
    let s := now_.foldl (fun s qn => s.modQueue qn (fun q => { q with hold := true })) s
    let limit := ((dieQueues die).filter (fun qn => (s.queue qn).hold)).foldl (fun m q => min m (s.queue q).pri) 7
    let cs := (dieQueues die).filter (fun qn => (s.queue qn).pri ≤ limit && (s.fitOf qn).isSome)
    let s' := now_.foldl (fun s qn => s.askRoom qn) s
    match s.pickQueue die cs with
    | none => s'
    | some qn =>
      match s.considered qn, s.fitOf qn with
      | some l, some o =>
        -- an origin lost to another die's reservation of this cycle is retried at the next decision (R326)
        if !s.stillFits l o then s'
        else
          let s' := (dieQueues die).foldl (fun s x =>
            let q := s.queue x
            if x != qn && q.st == .opened && !q.ents.isEmpty && q.age != 0 then s.modQueue x Queue.age_ else s) s'
          s'.placeHead die qn l o
      | _, _ => s'

/-! ## Loads (R274 to R276) -/

/-- The REPLY to a message (Table 17-6): STATUS in ARG0, the request's TAG, from the core it names. -/
def replyMsg (m : Msg) (status : Nat) (payload : List Byte) : Msg :=
  ⟨0x80, m.core, 0, m.tag, m.dom, m.grp, BitVec.ofNat 32 status, 0, payload⟩

/-- The crest core that a message names (Table 17-5). -/
def msgCore (m : Msg) : Nat := coreId (m.core.toNat % 8) (m.core.toNat / 8 % 4)

/-- A REPLY leaves its crest core (R400). -/
def State.replyTo (s : State) (m : Msg) (status : Nat) (payload : List Byte) : State :=
  s.sendMsg (msgCore m) (replyMsg m status payload)

/-- A launch whose load is refused fails; its group is released, unless a crest core has released it already (Table 13-7). -/
def State.failLoad (s : State) (gn lid code : Nat) : State :=
  if (s.group gn).lid == some lid then s.endLaunch gn true code
  else if ((s.launch lid).map (·.st)) == some .placed then
    (s.modLaunch lid (fun l => { l with fail := true, code := code })).at_ s.now (.launchComplete lid)
  else s

/-- R274 to R277, R288, Table 13-7: the loader's answer goes to the launch, or in a REPLY. -/
def execImageLoadRequest (l : LoadReq) (s : State) : Out1 := .next <|
  let kid := (l.launch.bind s.launch).map (fun x => BitVec.ofNat 64 (pktKid x.pkt))
  let ((code, detail, off), s) := match l.readFault with
    | some c => ((c.toNat, 0, 0), s)
    | none => s.loadImage l kid
  let s := if code == 0 && !l.splice then
      (match (s.group l.grp).lid with
       | some lid => s.after 1 (.launchStart lid)
       | none => s)
    else match l.launch with
      | some lid => if code != 0 then s.failLoad l.grp lid code else s
      | none => s
  match l.reply with
  | some m => s.replyTo m (code + 256 * detail) (if code == 0 then [] else leBytes 8 off)
  | none => s

/-! ## Start and end of a launch (R324, R325) -/

/-- The inline bytes have nowhere to go: beyond the program region of the SE at site (0,0) of the origin tile, or no SE there. -/
def State.inlineBad (s : State) (l : Launch) : Bool :=
  let e := s.elem l.origin
  pktInlen l.pkt > 0 && (e.kind != .se || pktInloff l.pkt + pktInlen l.pkt > e.progBytes)

/-- The kernel starts: contexts fire from the next cycle (Table 11-1), and generators that a save had PAUSED run again (R311). -/
def State.startKernel (s : State) (gn : Nat) : State :=
  let g := s.group gn
  let wake (e : Elem) : Elem := if g.st == .live && g.kern.st == .resident then e.unpause else e
  let hold (ea : Nat) (e : Elem) : Elem := if g.covers ea then { wake e with holdUntil := s.now + 1 } else e
  { s.setGroup gn { g with kern := { g.kern with st := if g.kern.st == .resident then .running else g.kern.st } } with
    elems := tmap .zero hold s.elems }

/-- R324, R325: the group of a launch is LIVE; the inline bytes are written and its kernel runs. -/
def execLaunchStart (lid : Nat) (s : State) : Out1 := .next <|
  match s.launch lid with
  | none => s
  | some l =>
    match l.st == .placed, l.grp with
    | true, some gn =>
      if (s.group gn).st == .loading then s.after 1 (.launchStart lid)
      else if l.saved then (s.modLaunch lid (fun x => { x with st := .running, saved := false })).startKernel gn
      else if s.inlineBad l then s.endLaunch gn true 0x12
      else
        let s := s.windowBytes (seAddr l.origin (pktInloff l.pkt)) (sliceAt l.pkt 0x40 (pktInlen l.pkt))
        (s.modLaunch lid (fun x => { x with st := .running })).startKernel gn
    | _, _ => s

/-- The completion record (R325). -/
def recordBytes (l : Launch) : List Byte :=
  leBytes 8 (pktUser l.pkt) ++ leBytes 4 l.lid ++ [if l.fail then 1 else 0, BitVec.ofNat 8 l.code, 0, 0]

/-- The store of the record: none where it faults, or the state after, and whether it is performed. One for another module goes out
through a port, and the launch waits for it (R21, R395). -/
def State.storeRecord (s : State) (l : Launch) : Option (State × Bool) :=
  let va := pktRecaddr l.pkt
  if va.toNat % 16 != 0 then none
  else match s.pageFor .st l.dom l.origin va with
  | .inr _ => none
  | .inl pa =>
    if pa / 2 ^ 44 != s.module then
      let b := recordBytes l
      let r := { MReq.zero with
        id := s.serial, grp := 65536, dom := l.dom, ea := l.origin, who := .launch l.lid, acc := .st, out := localOut, endp := 0x82,
        sz := 4, addr := va, pa := pa, v1 := BitVec.ofNat 64 (fld b 0 8), v2 := BitVec.ofNat 64 (fld b 8 8), issued := s.now }
      some ((s.bump.modLaunch l.lid (fun l => { l with rec_ := 1 })).toHome r, false)
    else if regionOf (pa % 2 ^ 44) == .capacity then none
    else some (s.windowBytes (pa % 2 ^ 44) (recordBytes l), true)

/-- A child has ended: its parent has one less outstanding, keeps that one has failed, and ends if it waited for it (Table 13-7). -/
def State.childEnded (s : State) (p : Nat) (failed : Bool) : State :=
  let s := s.modLaunch p (fun x => { x with kids := x.kids - 1, kidFail := x.kidFail || failed })
  let s : State := match s.launch p with
    | some x => if x.st == .waitingChildren && x.kids == 0 then s.at_ s.now (.launchComplete p) else s
    | none => s
  s.queues.foldl (fun s q => if q.2.waiting.any (fun e => e.parent == some p) then s.drainWaiting q.1 else s) s

/-- The DONE message (Table 17-6); CORE is set when a core sends it. -/
def doneMsg (l : Launch) (code : Nat) : Msg :=
  ⟨0x82, 0, 0, 0, BitVec.ofNat 16 l.dom, BitVec.ofNat 16 (l.grp.getD 0), BitVec.ofNat 32 l.lid,
    BitVec.ofNat 64 (pktUser l.pkt), [if l.fail then 1 else 0, BitVec.ofNat 8 code]⟩

/-- The core whose LOST counts a group's records: the one that services it, or, while none is available, that of its own die
(R14). -/
def State.noticeCore (s : State) (gn origin : Nat) : Nat := (s.servicer gn origin).getD (coreId (eaDie origin) (gn % 4))

/-- Step 4 at the end of a launch (R325): its notice. -/
def State.lastStep (s : State) (l : Launch) (code : Nat) : State :=
  if pktFlag l.pkt flagNotify then s.giveNotice (l.grp.getD 0) l.origin (doneMsg l code) else s

/-- Steps 2 to 4 at the end of a launch (R325): its parent, its signal, and its notice once the signal is updated. -/
def State.endSteps (s : State) (l : Launch) (code : Nat) : State :=
  let s := match l.parent with
    | some p => s.childEnded p l.fail
    | none => s
  if pktFlag l.pkt flagSigen then
    let d := 8 + 48 * dieDist (l.queue / 32) (pktSigout l.pkt / 512)
    let s := s.after d (.signalUpdate (pktSigout l.pkt) (pktSigadd l.pkt))
    (s.modLaunch l.lid (fun l => { l with rec_ := if code == 0xFE then 5 else 4 })).after d (.launchComplete l.lid)
  else s.lastStep l code

/-- A launch that waited for its children takes the failure of any of them (Table 13-7). -/
def Launch.ended (l : Launch) : Launch :=
  let l := if l.st == .waitingChildren && l.kidFail && !l.fail then { l with fail := true, code := 0xFF } else l
  { l with st := if l.fail then .failed else .complete }

/-- R324, R325: the steps at the end of a launch, in their order, once its children have ended; those after a record's store to
another module wait until it is performed or dropped. -/
def execLaunchComplete (lid : Nat) (s : State) : Out1 := .next <|
  match s.launch lid with
  | none => s
  | some l =>
    if l.rec_ ≥ 4 then (s.modLaunch lid (fun l => { l with rec_ := 0 })).lastStep l (if l.rec_ == 5 then 0xFE else l.code)
    else if l.rec_ ≥ 2 then (s.modLaunch lid (fun l => { l with rec_ := 0 })).endSteps l (if l.rec_ == 3 then 0xFE else l.code)
    else if !l.live then s
    else if l.kids > 0 then s.modLaunch lid (fun x => { x with st := .waitingChildren })
    else
      let l := l.ended
      let s := s.modLaunch lid (fun _ => l)
      if !pktFlag l.pkt flagRecen then s.endSteps l l.code
      else match s.storeRecord l with
      | none => s.endSteps l 0xFE
      | some (s, true) => s.endSteps l l.code
      | some (s, false) => s

end Sys2Proof.Machine
end

