-- ==== Sys2Proof/Machine/Query.lean ====
section
/-! DEFINITION. Queries beneath the stacks (chapter 16): the instructions qry, qabort, gat and sca (R368, R369), the request
tables of SEs (R370), and the Cairn engines (R371 to R385). -/

namespace Sys2Proof.Machine

/-! ## Firing (R368, R369) -/

/-- A literal bit that Table 16-4 forbids. -/
def screeLitBad (acc : Acc) (lit : Word) : Bool :=
  match acc with
  | .gat => lit.toNat / 2 != 0
  | .sca => lit.toNat / 4 != 0
  | _ => false

/-- The checks of R369: code, detail, aux. -/
def engineFault (s : State) (r : MReq) (lit : Word) : Option (Nat × Nat × Word) :=
  let n := if r.acc == .qry || r.acc == .qabort then 256 else 64
  if r.endp != 0x80 || !r.ren || r.sz != 3 || screeLitBad r.acc lit then some (0x01, 3, lit)
  else if r.addr.toNat % 64 != 0 then some (0x13, 0, r.addr)
  else if rangeBad s r n then some (0x12, 0, r.addr)
  else none

/-- The firing of qry, qabort, gat and sca. -/
def State.fireEngine (s : State) (f : SlotF) (acc : Acc) : State :=
  match s.cur with
  | none => s
  | some cu =>
    match s.operandFault cu f with
    | some s' => s'
    | none =>
      let x := aluIn s cu f
      let r := routeReq s cu (reqOut f) acc x.a (sentTag s cu f)
      match engineFault s r f.lit with
      | some (code, detail, aux) => s.raiseSync cu code detail aux
      | none =>
        let fl := sourceFlags s cu f
        let r := { r with aop := f.lit.toNat % 4, v2 := f.lit }
        let s := ((s.bump.fireBase cu f).raiseFlags cu 2 fl).reserveReq r (reqLen r)
        let s := if acc == .gat || acc == .sca then s.modCtx cu.ea cu.ctx (fun c => { c with acks := c.acks ++ [r.id] }) else s
        (s.progressAt cu.ea (s.now + 1)).sendReq r

/-- R368, R369. -/
def execQry (f : SlotF) (s : State) : Out1 := .next (s.fireEngine f .qry)
/-- R368, R369, R384. -/
def execQabort (f : SlotF) (s : State) : Out1 := .next (s.fireEngine f .qabort)
/-- R368, R369, R387. -/
def execGat (f : SlotF) (s : State) : Out1 := .next (s.fireEngine f .gat)
/-- R368, R369, R388. -/
def execSca (f : SlotF) (s : State) : Out1 := .next (s.fireEngine f .sca)

/-! ## The query packet (Table 16-2) and the descriptor (Table 16-1) -/

def Query.desc_ (q : Query) : Word := BitVec.ofNat 64 (fld q.pkt 0x00 8)
def Query.k (q : Query) : Nat := fld q.pkt 0x08 2
def Query.beam (q : Query) : Nat := fld q.pkt 0x0A 2
def Query.hoplim (q : Query) : Nat := fld q.pkt 0x0C 2
def Query.nent (q : Query) : Nat := fld q.pkt 0x10 1
def Query.flog (q : Query) : Nat := fld q.pkt 0x11 1
def Query.qrnorm (q : Query) : Nat := fld q.pkt 0x14 4
def Query.filter (q : Query) : Word := BitVec.ofNat 64 (fld q.pkt 0x18 8)
def Query.result (q : Query) : Word := BitVec.ofNat 64 (fld q.pkt 0x20 8)
def Query.user (q : Query) : Nat := fld q.pkt 0x28 8
def Query.entry (q : Query) (i : Nat) : Nat := fld q.pkt (0x30 + 4 * i) 4

def Query.recsz (q : Query) : Nat := fld q.desc 0 4
def Query.nbr (q : Query) : Nat := fld q.desc 4 1
def Query.fmt (q : Query) : Nat := fld q.desc 5 1
def Query.metric (q : Query) : Nat := fld q.desc 6 1
def Query.dim (q : Query) : Nat := fld q.desc 8 2
def Query.base (q : Query) (s : Nat) : Word := BitVec.ofNat 64 (fld q.desc (0x10 + 16 * s) 8)
def Query.cnt (q : Query) (s : Nat) : Nat := fld q.desc (0x18 + 16 * s) 4

/-- Bytes of a lane of a vector format. -/
def vecBytes (fmt : Nat) : Nat := if fmt == 2 || fmt == 3 then 2 else 1

/-- VOFF (R365). -/
def Query.voff (q : Query) : Nat := 8 + 8 * ((q.nbr + 1) / 2)

/-- A node id is valid (R364). -/
def Query.valid (q : Query) (n : Nat) : Bool := n % 2 ^ 28 < q.cnt (n / 2 ^ 28)

/-- The address of a node's record (R365). -/
def Query.recAddr (q : Query) (n : Nat) : Word := q.base (n / 2 ^ 28) + BitVec.ofNat 64 (n % 2 ^ 28 * q.recsz)

/-- A reserved packet field is not 0 (test 1 of R372). -/
def Query.pktReserved (q : Query) : Bool :=
  fld q.pkt 0x0E 1 / 64 != 0 || fld q.pkt 0x0F 1 / 16 != 0 || fld q.pkt 0x12 2 != 0 || fld q.pkt 0x50 112 != 0 ||
    (List.range 8).any (fun i => q.nent ≤ i && q.entry i != 0)

/-- A packet field lies outside Table 16-2 (test 2 of R372). -/
def Query.pktOutside (q : Query) : Bool :=
  q.k < 1 || q.k > 256 || q.beam < q.k || q.beam > 1024 || q.hoplim < 1 || q.hoplim > 8192 || q.nent < 1 || q.nent > 8 ||
    q.flog > 28 || (q.filter == 0 && q.flog != 0)

/-- A reserved descriptor field is not 0 (test 6 of R372). -/
def Query.descReserved (q : Query) : Bool :=
  fld q.desc 7 1 != 0 || fld q.desc 0x0A 6 != 0 || (List.range 16).any (fun s => fld q.desc (0x1C + 16 * s) 4 != 0)

/-- A descriptor field breaks Table 16-1 or R365, or an entry id is not valid (test 7 of R372). -/
def Query.descBad (q : Query) : Bool :=
  q.recsz % 64 != 0 || q.recsz < 64 || q.recsz > 16384 || q.nbr < 1 || q.nbr > 64 ||
    !(q.fmt == 2 || q.fmt == 3 || q.fmt == 4 || q.fmt == 8) || q.metric > 2 || q.dim < 1 || q.dim > 4096 ||
    (List.range 16).any (fun s => (q.base s).toNat % 64 != 0 || q.cnt s > 2 ^ 28 || (q.base s == 0) != (q.cnt s == 0)) ||
    q.voff + q.dim * vecBytes q.fmt > q.recsz || (List.range q.nent).any (fun i => !q.valid (q.entry i))

/-! ## The SE's side (R370, R380) -/

/-- The completion word (Table 16-7). -/
def completionWord (status code count : Nat) (flags : BitVec 6) (off : Nat) : Word :=
  BitVec.ofNat 64 (status + code * 2 ^ 8 + count % 2 ^ 13 * 2 ^ 16 + flags.toNat * 2 ^ 29 + off % 2 ^ 19 * 2 ^ 35)

/-- A request's completion word enters its route's reply channel 4 + h fc later (R230, R390). -/
def State.engineDone (s : State) (r : MReq) (w : Word) : State := s.complete r w false (4 + hops r.ea r.dst)

/-- fc between an SE and the base die of a stack (Table 16-9). -/
def engineHop (ea stack : Nat) : Nat := 40 + 48 * dieDist (eaDie ea) (stack / 2)

/-- Rows of 64 bytes that hold a packet's bytes 0x00 to 0xBF, or a Scree record (R171, R367). -/
def tabRows (r : MReq) : Nat := if r.acc == .qry then 3 else 1

/-- A request takes its place in the table and reads its packet or record through the network port, row by row; a qry at the offset of
one in the table completes at once. -/
def State.tableTake (s : State) (r : MReq) : State :=
  let e := s.elem r.dst
  let s := if r.ord then s else s.creditBack (some (r.ea, r.out, r.epoch))
  if r.acc == .qry && e.table.any (fun t => t.r.acc == .qry && t.off == r.addr.toNat) then
    s.engineDone r (completionWord 3 0x01 0 0 r.addr.toNat)
  else
    (List.range (tabRows r)).foldl (fun s i =>
      s.bankEnter (seAddr r.dst (r.addr.toNat + 64 * i)) 5 (.queryAccept { r with stage := 1, v1 := BitVec.ofNat 64 i }) none)
      (s.modElem r.dst (fun e => { e with table := e.table ++ [⟨r, r.addr.toNat, 16, [], false⟩] }))

/-- Waiting requests take places of the table in their order of arrival, while the network port holds no other (R370, R173). -/
def State.tableNext (s : State) (ea : Nat) : Nat → State
  | 0 => s
  | n + 1 =>
    match (s.elem ea).tabWait with
    | [] => s
    | r :: rest =>
      if (s.elem ea).table.length < Config.requestTable && !s.portHolds 5 (seBank ea) then
        ((s.modElem ea (fun e => { e with tabWait := rest })).tableTake r).tableNext ea n
      else s

/-- What waits at an SE's port. -/
def State.tableFlush (s : State) (ea : Nat) : State := s.tableNext ea (s.elem ea).tabWait.length

/-- A request leaves the table with its completion word. -/
def State.tableLeave (s : State) (r : MReq) (w : Word) : State :=
  ((s.modElem r.dst (fun e => { e with table := e.table.filter (fun t => t.r.id != r.id) })).engineDone r w).tableFlush r.dst

/-- The entry of a request in its table. -/
def State.tabOf (s : State) (r : MReq) : Option Tab := (s.elem r.dst).table.find? (fun t => t.r.id == r.id)
def State.modTab (s : State) (r : MReq) (f : Tab → Tab) : State :=
  s.modElem r.dst (fun e => { e with table := e.table.map (fun t => if t.r.id == r.id then f t else t) })

/-- Bytes of rows put together. -/
def rowBytes (n : Nat) (rows : List (Nat × List Byte)) : List Byte :=
  (List.range n).flatMap (fun i => ((rows.find? (fun r => r.1 == i)).map (·.2)).getD [])

/-- 64 bytes are read in the service of their bank: a row of an SE's memory or of a handle, with the first of its units that is
poisoned. -/
def State.rowRead (s : State) (a : Nat) : (List Byte × Option Nat) × State :=
  let s := (List.range 8).foldl (fun s i => s.touch (a + 8 * i)) s
  ((s.readBytes a 64, (List.range 8).find? (fun i => s.poisoned (unitOf a + i))), s)

/-- The port by which an SE reads and writes a row of one of its handles: its network port, or its port of the tile store (log 84). -/
def handlePort (s : State) (ea h : Nat) : Nat := if hrLoc ((s.elem ea).work.handle h) == 0 then 5 else seIndex ea

/-- Rows of the vector's handle that a query copies; 0 when it is not declared, or neither FULL nor DRAINING (R367). -/
def State.vectorRows (s : State) (ea h : Nat) : Nat :=
  let e := s.elem ea
  let d := e.work.handle h
  let st := (e.hnd h).st
  if hrDeclared d && (st == .full || st == .draining) then min 128 (hrSizeM1 d + 1) else 0

/-- A new query sorts in by the cycle in which it reaches its engine. -/
def insQuery (x : Query) : List Query → List Query
  | [] => [x]
  | y :: ys => if x.ready < y.ready then x :: y :: ys else y :: insQuery x ys

/-- The state of a query whose packet has just been read; `need` rows of its vector are still to come. -/
def Query.fresh (r : MReq) (pkt : List Byte) (need ready : Nat) (fin : Option EFault) : Query :=
  { r := r, off := r.addr.toNat, pkt := pkt, vec := [], desc := [], active := false, seen := [], heap := [], hops := 0, flags := 0,
    batches := [], order := [], back := [], faults := [], ready := ready, fin := fin.map (fun f => (3, f.1, f.2)), count := 0,
    left := 0, sel := [], rows := [], need := need, vbad := none, num := 0 }


/-- A query of an engine. -/
def Engine.query (e : Engine) (id : Nat) : Option Query := e.queries.find? (fun q => q.r.id == id)
def State.modQuery (s : State) (stack id : Nat) (f : Query → Query) : State :=
  s.modEngine stack (fun e => { e with queries := e.queries.map (fun q => if q.r.id == id then f q else q) })

/-- QVH and HOME of a packet (Table 16-2). -/
def pktQvh (pkt : List Byte) : Nat := fld pkt 0x0E 1 % 64
def pktHome (pkt : List Byte) : Nat := fld pkt 0x0F 1 % 16

/-- A unit of the vector that cannot be copied: the first counts. -/
def Query.vectorBad (q : Query) (u code : Nat) (aux : Word) : Query :=
  { q with vbad := match q.vbad with
    | some v => if v.1 ≤ u then some v else some (u, code, aux)
    | none => some (u, code, aux) }

/-- Row `j` of a query's vector is there; with the last one the query may be admitted, once it has reached its engine. -/
def State.rowDone (s : State) (r : MReq) (home j : Nat) (row : List Byte) : State :=
  let s := s.modQuery home r.id (fun q =>
    let rows := (j, row) :: q.rows
    { q with rows := rows, vec := if rows.length == q.need then rowBytes q.need rows else [] })
  match (s.engine home).query r.id with
  | some q => if q.rows.length == q.need then s.at_ (max q.ready (s.now + engineHop r.dst home)) (.queryAdmit home) else s
  | none => s

/-- Row `j` of a query's vector is asked for at its bank; one that its partition does not hold any more is not (R176). -/
def State.rowAsk (s : State) (r : MReq) (home h j : Nat) : State :=
  match s.handleAddr r.dst h (64 * j) with
  | some a => s.bankEnter a (handlePort s r.dst h) (.queryAccept { r with stage := 4, v1 := BitVec.ofNat 64 j }) none
  | none =>
    (s.modQuery home r.id (fun q =>
      q.vectorBad (8 * j) 0x12 (BitVec.ofNat 64 (hrBase ((s.elem r.dst).work.handle h) * 64 + 64 * j)))).rowDone r home j (List.replicate 64 0)

/-- Rows of one vector, or of one scatter's values, that stand at banks together. -/
abbrev rowsAtOnce : Nat := 4

/-- The packet of a query goes to its home engine, and its vector is read (R367, R370). -/
def State.sendQuery (s : State) (r : MReq) (t : Tab) : State :=
  let pkt := rowBytes 3 t.rows
  let home := pktHome pkt
  let h := pktQvh pkt
  let fin : Option EFault :=
    if t.bad then some (0x15, r.addr)
    else if s.stackDown home || s.wayDown (eaDie r.dst) (home / 2) then some (0x03, r.addr)
    else none
  let ready := s.now + 4 + engineHop r.dst home + recordTime
  let need := if fin.isSome then 0 else s.vectorRows r.dst h
  let s := s.modTab r (fun t => { t with stack := home, rows := [] })
  let s := s.modEngine home (fun e => { e with queries := insQuery (Query.fresh r pkt need ready fin) e.queries })
  let s := s.at_ ready (if fin.isSome then .queryComplete home r.id else .queryAdmit home)
  (List.range (min need rowsAtOnce)).foldl (fun s j => s.rowAsk r home h j) s

/-- A row of a query's vector is read in the service of its bank, and the next one asked for. -/
def State.vectorRow (s : State) (r : MReq) : State :=
  let j := r.v1.toNat
  match s.tabOf r with
  | none => s
  | some t =>
    match (s.engine t.stack).query r.id with
    | none => s
    | some q =>
      match s.handleAddr r.dst (pktQvh q.pkt) (64 * j) with
      | none => s.rowAsk r t.stack (pktQvh q.pkt) j
      | some a =>
        let ((row, bad), s) := s.rowRead a
        let s := (s.progress r.grp r.dst).modQuery t.stack r.id (fun q => match bad with
          | some i => q.vectorBad (8 * j + i) 0x15 r.addr
          | none => q)
        let s := s.rowDone r t.stack j row
        if j + rowsAtOnce < q.need then s.rowAsk r t.stack (pktQvh q.pkt) (j + rowsAtOnce) else s

/-- The abort of a query goes to the home engine of the query with its offset (R384), and its credit returns then (R370); with none
it completes with COUNT 0. -/
def State.sendAbort (s : State) (r : MReq) : State :=
  let out := s.creditBack (some (r.ea, r.out, r.epoch))
  match (s.elem r.dst).table.find? (fun t => t.r.acc == .qry && t.off == r.addr.toNat) with
  | none => out.engineDone r (completionWord 0 0 0 0 r.addr.toNat)
  | some t =>
    if t.stack == 16 then s.after 1 (.queryAccept { r with stage := 2 })
    else out.after (4 + engineHop r.dst t.stack) (.qabortArrival t.stack t.r.id r)

/-! ## Admission (R371, R372, R374) -/

/-- A query ends; its engine may admit another, and its results are written next (R371). -/
def State.endQuery (s : State) (stack id : Nat) (status code : Nat) (faddr : Word) : State :=
  ((s.modQuery stack id (fun q => { q with fin := some (status, code, faddr), batches := [], ready := s.now })).after 1
    (.queryComplete stack id)).after 1 (.queryAdmit stack)

/-- The checks of R372 in their order; the descriptor once read, an access of the query's group (R302). Only then are the vector's bytes
known, of which none may be poisoned or out of reach (R367, R383, R176). -/
def State.queryCheck (s : State) (stack : Nat) (q : Query) : Sum (List Byte) EFault × State :=
  let off := BitVec.ofNat 64 q.off
  if q.pktReserved then (.inr (0x02, off), s)
  else if q.pktOutside then (.inr (0x01, off), s)
  else if q.need == 0 then (.inr (0x22, off), s)
  else if !canonical q.desc_ || !canonical q.filter || !canonical q.result then (.inr (0x10, off), s)
  else if q.desc_.toNat % 16 != 0 || q.result.toNat % 8 != 0 then (.inr (0x13, off), s)
  else match s.engRead stack q.r.dom .qry none q.desc_ 272 with
  | (.inr e, s) => (.inr (e.1, q.desc_), s)
  | (.inl d, s) =>
    let s := s.progress q.r.grp q.r.dst
    let q' := { q with desc := d }
    let bytes := q'.dim * vecBytes q'.fmt
    if q'.descReserved then (.inr (0x02, q.desc_), s)
    else if q'.descBad then (.inr (0x50, q.desc_), s)
    else if 64 * q.need < bytes then (.inr (0x22, off), s)
    else match q.vbad with
    | some (u, code, aux) => if 8 * u < bytes then (.inr (code, aux), s) else (.inl d, s)
    | none => (.inl d, s)

/-- Ids that are not in V join it, in their order. -/
def newIds (seen : List Nat) : List Nat → List Nat × List Nat
  | [] => ([], seen)
  | n :: ns => if seen.contains n then newIds seen ns else let (a, b) := newIds (nadd n seen) ns; (n :: a, b)

/-- fc of a distance (Table 16-9). -/
def Query.distTime (q : Query) : Nat := (q.dim * vecBytes q.fmt + 63) / 64

/-- fc from an engine to another stack's, half of the round trip of Table 16-9. -/
def halfTrip (home stack : Nat) : Nat := if home == stack then 0 else 48 + 48 * dieDist (home / 2) (stack / 2)

/-- The ids of a step go to their stacks as batches (R375). -/
def Query.launch (q : Query) (home now : Nat) (ids : List Nat) : Query :=
  let bs := (List.range 16).filterMap (fun k =>
    let mine := ids.filter (fun n => n / 2 ^ 28 == k)
    if mine.isEmpty then none
    else
      let b : Batch := ⟨k, mine, false, if k == home then 1 else 0, now + halfTrip home k, [], none⟩
      some b)
  { q with batches := bs, order := ids, back := [], faults := [] }

/-- The batches of a step set out: that of the home stack waits for its engine, before all others when the query still has its
turn; the others arrive at theirs (R375, R382). -/
def State.sendBatches (s : State) (stack : Nat) (q : Query) (first : Bool) : State :=
  q.batches.foldl (fun s b =>
    if b.stack == stack then
      (s.modEngine stack (fun e =>
        { e with jobs := if first then (stack, q.r.id) :: e.jobs else e.jobs ++ [(stack, q.r.id)] })).at_ s.now (.queryStep stack)
    else s.at_ b.due (.queryStep b.stack)) s

/-- A query is admitted: its entry ids are placed (R374). -/
def State.admitQuery (s : State) (stack : Nat) (q : Query) (d : List Byte) : State :=
  let n := (s.engine stack).admitted + 1
  let (ids, seen) := newIds [] ((List.range q.nent).map q.entry)
  let q := { q with desc := d, active := true, num := n, seen := seen }.launch stack s.now ids
  ((s.modEngine stack (fun e => { e with admitted := n })).modQuery stack q.r.id (fun _ => q)).sendBatches stack q false

/-- Queries active at an engine. -/
def Engine.active (e : Engine) : Nat := e.queries.countP (fun q => q.active && q.fin.isNone)

/-- A query that has passed its checks is admitted, unless 64 are active. -/
def State.admitOne (s : State) (stack : Nat) (q : Query) : State :=
  if (s.engine stack).active < Config.activeQueries then s.admitQuery stack q q.desc else s

/-- Queries that have reached the engine with their vectors are checked and admitted in their order of arrival; one whose descriptor's
home cannot serve it now waits a cycle, and those after it with it. -/
def State.admitAll (s : State) (stack : Nat) : List Query → State
  | [] => s
  | q :: qs =>
    if q.active || q.fin.isSome || q.ready > s.now || q.rows.length < q.need then s.admitAll stack qs
    else if !q.desc.isEmpty then (s.admitOne stack q).admitAll stack qs
    else match s.inService (fun s => s.queryCheck stack q) with
    | none => s.after 1 (.queryAdmit stack)
    | some (.inr e, s) => (s.endQuery stack q.r.id 3 e.1 e.2).admitAll stack qs
    | some (.inl d, s) =>
      let q := { q with desc := d }
      ((s.modQuery stack q.r.id (fun _ => q)).admitOne stack q).admitAll stack qs

/-- R371, R372, R374. -/
def execQueryAdmit (stack : Nat) (s : State) : Out1 := .next (s.admitAll stack (s.engine stack).queries)

/-! ## Distances (R373) -/

/-- Lane `i` of a vector. -/
def vecLane (fmt : Nat) (b : List Byte) (i : Nat) : FV :=
  let v := fld b (vecBytes fmt * i) (vecBytes fmt)
  match fmt with
  | 2 => fp16.value v
  | 3 => bf16.value v
  | 4 => f8e4.value v
  | _ => intValue (sInt 8 v)

/-- The term of lane `i` and its flags; INT8 lanes are exact integers, whose zero has no sign. -/
def distTerm (fmt metric : Nat) (q x : List Byte) (i : Nat) : FV × FlagSet :=
  if fmt == 8 then
    let a := sInt 8 (fld q i 1)
    let b := sInt 8 (fld x i 1)
    (intValue (if metric == 0 then (a - b) * (a - b) else a * b), 0)
  else
    let a := vecLane fmt q i
    let b := vecLane fmt x i
    if metric == 0 then
      let (d, fl) := addFV a (negFV b)
      ((mulFV d d).1, fl)
    else ((mulFV a b).1, 0)

/-- The window sum of a distance and its flags. -/
def distSum (fmt metric dim : Nat) (q x : List Byte) : Nat × FlagSet :=
  let terms := (List.range dim).map (distTerm fmt metric q x)
  let (r, fl) := windowSum (terms.map (·.1)) 64 fp32
  (r, terms.foldl (fun a t => a ||| t.2) fl)

/-- The negation of an FP32 number; a NaN is unchanged. -/
def negF32 (x : Nat) : Nat := if isNaN (fp32.value x) then x else Nat.xor x (2 ^ 31)

/-- An FP32 product under R133. -/
def mulF32 (a b : Nat) : Nat × FlagSet := fpRne fp32 (mulFV (fp32.value a) (fp32.value b))

/-- The distance of a node from its record (R373). -/
def Query.distance (q : Query) (rc : List Byte) : Nat × FlagSet :=
  let (r, fl) := distSum q.fmt q.metric q.dim q.vec (rc.drop q.voff)
  match q.metric with
  | 0 => (r, fl)
  | 1 => (negF32 r, fl)
  | _ =>
    let (a, f1) := mulF32 (negF32 r) q.qrnorm
    let (b, f2) := mulF32 a (fld rc 4 4)
    (b, fl ||| f1 ||| f2)

/-- The rank of a distance: −0 before +0, NaN last (R374). -/
def distRank (d : Nat) : Nat :=
  let m := d % 2 ^ 31
  if m > 0x7F800000 then 2 ^ 33 else if d.testBit 31 then 2 ^ 31 - 1 - m else 2 ^ 31 + m

/-- Heap order: by distance, then by id. -/
def heapBefore (a b : HEnt) : Bool := distRank a.d < distRank b.d || (distRank a.d == distRank b.d && a.id < b.id)

def insHeap (x : HEnt) : List HEnt → List HEnt
  | [] => [x]
  | y :: ys => if heapBefore x y then x :: y :: ys else y :: insHeap x ys

/-- Entries are placed in H, which keeps the first BEAM (R374). -/
def placeHeap (beam : Nat) (h new : List HEnt) : List HEnt := (new.foldl (fun l x => insHeap x l) h).take beam

/-! ## Batches (R375, R363) and turns (R382) -/

/-- A node's record read by the engine of its stack: an access of the query's group (R302, R366). -/
def State.readNode (s : State) (q : Query) (stack n : Nat) : Sum (List Byte) EFault × State :=
  if s.stackDown stack || s.wayDown (pktHome q.pkt / 2) (stack / 2) then (.inr (0x03, q.recAddr n), s)
  else match s.engRead stack q.r.dom .qry (some stack) (q.recAddr n) q.recsz with
  | (.inr e, s) => (.inr e, s)
  | (.inl rc, s) => (.inl rc, s.progress q.r.grp q.r.dst)

/-- A node measured by the engine of its stack from its record. -/
def Query.measured (q : Query) (n : Nat) (rc : Sum (List Byte) EFault) : Query :=
  match rc with
  | .inr e => { q with faults := q.faults ++ [(n, e.1, e.2)] }
  | .inl rc =>
    let (d, fl) := q.distance rc
    { q with back := q.back ++ [⟨d, n, false⟩], flags := q.flags ||| fl }

/-- The neighbours of a candidate in slot order (R375): ids that are new and the visited set; or the end that the record gives the
query, with the visited set as it then is. -/
def Query.slots (q : Query) (rc : List Byte) (seen : List Nat) (j : Nat) : Nat → Sum (List Nat × List Nat) (Nat × List Nat)
  | 0 => .inl ([], seen)
  | k + 1 =>
    let n := fld rc (8 + 4 * j) 4
    if !q.valid n then .inr (3, seen)
    else if seen.contains n then q.slots rc seen (j + 1) k
    else if seen.length ≥ Config.visitedIds then .inr (2, seen)
    else match q.slots rc (nadd n seen) (j + 1) k with
    | .inl (ids, v) => .inl (n :: ids, v)
    | .inr e => .inr e

/-- The steps of a query go on in the turn of its engine. -/
def State.queryTurn (s : State) (stack id : Nat) : State :=
  (s.modQuery stack id (fun q => { q with ready := s.now })).after 1 (.queryStep stack)

/-- The distances of a step are back: they are placed at once, or the first fault in slot order ends the query (R374, R376,
R383). -/
def State.placeStep (s : State) (stack : Nat) (q : Query) : State :=
  match q.order.findSome? (fun n => q.faults.find? (fun f => f.1 == n)) with
  | some f => s.endQuery stack q.r.id 3 f.2.1 f.2.2
  | none =>
    let h := placeHeap q.beam q.heap q.back
    let s := (s.modQuery stack q.r.id (fun x => { x with heap := h, back := [], order := [] })).progress q.r.grp q.r.dst
    if q.hops ≥ q.hoplim && h.any (fun x => !x.done) then s.endQuery stack q.r.id 1 0 0 else s.queryTurn stack q.r.id

/-- The candidate's record is there (R375): `first` when its query still has its turn. -/
def State.expand (s : State) (stack : Nat) (q : Query) (n : Nat) (first : Bool) (rc : Sum (List Byte) EFault) : State :=
  match rc with
  | .inr e => s.endQuery stack q.r.id 3 e.1 e.2
  | .inl rc =>
    let deg := fld rc 0 1
    if deg > q.nbr then s.endQuery stack q.r.id 3 0x50 (q.recAddr n)
    else match q.slots rc q.seen 0 deg with
    | .inr (st, seen) =>
      (s.modQuery stack q.r.id (fun x => { x with seen := seen })).endQuery stack q.r.id st (if st == 3 then 0x50 else 0)
        (if st == 3 then q.recAddr n else 0)
    | .inl (ids, seen) =>
      let q := { q with seen := seen }.launch stack s.now ids
      let s := s.modQuery stack q.r.id (fun _ => q)
      if ids.isEmpty then s.placeStep stack q else s.sendBatches stack q first

/-- The batch of a query at a stack. -/
def Query.batch (q : Query) (stack : Nat) : Option Batch := q.batches.find? (fun b => b.stack == stack)
def Query.setBatch (q : Query) (b : Batch) : Query := { q with batches := q.batches.map (fun x => if x.stack == b.stack then b else x) }
def Query.dropBatch (q : Query) (stack : Nat) : Query := { q with batches := q.batches.filter (fun x => x.stack != stack) }

/-- A query's batch at a stack, with the query, while it is still wanted. -/
def State.batchOf (s : State) (home id stack : Nat) : Option (Query × Batch) :=
  ((s.engine home).query id).bind (fun q => (q.batch stack).map (fun b => (q, b)))

/-- A batch is back at its home: its candidate is expanded, or with the last of them the step is placed (R375). -/
def State.batchBack (s : State) (home id stack : Nat) (first : Bool) : State :=
  match s.batchOf home id stack with
  | none => s
  | some (q, b) =>
    let q := q.dropBatch stack
    let s := s.modQuery home id (fun _ => q)
    if b.cand then
      s.expand home q (b.ids.headD 0) first (match b.bad with | some e => .inr e | none => .inl b.got)
    else if q.batches.isEmpty then s.placeStep home q else s

/-- A batch goes home from the engine that has served it, which is free (R375). -/
def State.served (s : State) (home id stack : Nat) (q : Query) (b : Batch) : State :=
  let b := { b with st := 3, due := s.now + halfTrip home stack }
  let s := (s.modQuery home id (fun _ => q.setBatch b)).modEngine stack (fun e => { e with cur := none })
  if home == stack then s.batchBack home id stack true else s.at_ b.due (.queryStep home)

/-- The record of the next node of a batch is read, each record at one instant (R366); the next read follows once the distance is formed
(Table 16-9). A read whose homes cannot serve it now waits a cycle. -/
def State.readNext (s : State) (home id stack : Nat) (q : Query) (b : Batch) (n : Nat) (rest : List Nat) : State :=
  match s.inService (fun s => s.readNode q stack n) with
  | none => s.after 1 (.queryStep stack)
  | some (rc, s) =>
    if b.cand then
      s.served home id stack q (match rc with | .inr e => { b with bad := some e } | .inl rc => { b with got := rc })
    else
      let due := s.now + q.distTime
      (s.modQuery home id (fun _ => (q.measured n rc).setBatch { b with ids := rest, due := due })).at_ due (.queryStep stack)

/-- The batch that an engine serves goes on when its time has come, and is done when its nodes are measured. -/
def State.endService (s : State) (stack : Nat) : State :=
  match (s.engine stack).cur with
  | none => s
  | some (home, id) =>
    match s.batchOf home id stack with
    | none => s.modEngine stack (fun e => { e with cur := none })
    | some (q, b) =>
      if b.st == 2 && s.now < b.due then s
      else match b.ids with
      | n :: rest => s.readNext home id stack q b n rest
      | [] => s.served home id stack q b

/-- An idle engine takes the oldest batch that waits for it and is still wanted (R382). -/
def State.startService (s : State) (stack : Nat) : List (Nat × Nat) → State
  | [] => s.modEngine stack (fun e => { e with jobs := [] })
  | (home, id) :: js =>
    match s.batchOf home id stack with
    | none => s.startService stack js
    | some (q, b) =>
      let due := s.now + recordTime
      ((s.modQuery home id (fun _ => q.setBatch { b with st := 2, due := due })).modEngine stack (fun e =>
        { e with cur := some (home, id), jobs := js })).at_ due (.queryStep stack)

/-- A batch, or a candidate to read, arrives at another stack's engine, and waits there in its turn (R375, R382). -/
def State.batchArrives (s : State) (home id remote : Nat) : State :=
  match s.batchOf home id remote with
  | none => s
  | some (q, b) =>
    if b.st != 0 then s
    else (s.modQuery home id (fun _ => q.setBatch { b with st := 1 })).modEngine remote (fun e => { e with jobs := e.jobs ++ [(home, id)] })

/-- R375: a batch arrives at another stack's engine. -/
def execRemoteBatch (stack id remote : Nat) (s : State) : Out1 :=
  .next ((s.batchArrives stack id remote).at_ s.now (.queryStep remote))

/-- The batches that have arrived at an engine, as home stack and request. -/
def State.arrivals (s : State) (remote : Nat) : List (Nat × Nat) :=
  s.engines.flatMap (fun (p : Nat × Engine) =>
    (p.2.queries.filter (fun q => q.batches.any (fun b => b.stack == remote && b.st == 0 && b.due ≤ s.now))).map (fun q => (p.1, q.r.id)))

/-- The batches of an engine's queries that are back from other stacks. -/
def backBatches (e : Engine) (now : Nat) : List (Nat × Nat) :=
  e.queries.flatMap (fun q => (q.batches.filter (fun b => b.st == 3 && b.due ≤ now)).map (fun b => (q.r.id, b.stack)))

/-- A query may take a step. -/
def Query.canStep (q : Query) (now : Nat) : Bool := q.active && q.fin.isNone && q.batches.isEmpty && q.ready < now

/-- One step of a query begins: its first unexpanded candidate is read at its stack, or it is complete (R375, R376). The read of
a candidate of the home stack is served at once, in the query's turn. -/
def State.stepQuery (s : State) (stack : Nat) (q : Query) : State :=
  match q.heap.find? (fun x => !x.done) with
  | none => s.endQuery stack q.r.id 0 0 0
  | some c =>
    let b : Batch := ⟨c.id / 2 ^ 28, [c.id], true, if c.id / 2 ^ 28 == stack then 1 else 0, s.now + halfTrip stack (c.id / 2 ^ 28), [], none⟩
    let h := q.heap.map (fun x => if x.id == c.id then { x with done := true } else x)
    let q := { q with heap := h, hops := q.hops + 1, batches := [b], order := [] }
    (s.modQuery stack q.r.id (fun _ => q)).sendBatches stack q true

/-- The query whose turn it is: the next after the last served in the order of admission, among those that may take a step. -/
def Engine.next (e : Engine) (now : Nat) : Option Query :=
  let can := e.queries.filter (fun q => q.canStep now)
  (can.find? (fun q => e.turn < q.num)).orElse (fun _ => can.head?)

/-- An idle engine serves the batches that have arrived, then gives the next query one step (R382). -/
def State.nextTurn (s : State) (stack : Nat) : State :=
  if (s.engine stack).cur.isSome then s
  else
    let s := s.startService stack (s.engine stack).jobs
    if (s.engine stack).cur.isSome then s
    else match (s.engine stack).next s.now with
    | none => s
    | some q =>
      let s := ((s.modEngine stack (fun e => { e with turn := q.num })).stepQuery stack q).after 1 (.queryStep stack)
      s.startService stack (s.engine stack).jobs

/-- R375, R382: what has arrived or come back is taken, a service ends when it is due, and an idle engine goes on. -/
def execQueryStep (stack : Nat) (s : State) : Out1 := .next <|
  let s := (s.arrivals stack).foldl (fun s a => s.batchArrives a.1 a.2 stack) s
  let s := (backBatches (s.engine stack) s.now).foldl (fun s b => s.batchBack stack b.1 b.2 false) s
  (s.endService stack).nextTurn stack

/-! ## Results (R377 to R380) -/

/-- A node passes the filter, or the read of its filter byte ends the query. -/
def State.passes (s : State) (stack : Nat) (q : Query) (n : Nat) : Sum Bool EFault × State :=
  if q.filter == 0 then (.inl true, s)
  else
    let i := n % 2 ^ 28
    if i ≥ 2 ^ q.flog then (.inl false, s)
    else
      let b := n / 2 ^ 28 * 2 ^ q.flog + i
      match s.engRead stack q.r.dom .qry none (q.filter + BitVec.ofNat 64 (b / 8)) 1 with
      | (.inr e, s) => (.inr e, s)
      | (.inl x, s) => (.inl ((leNat x).testBit (b % 8)), s)

/-- The first K entries of H that pass. -/
def State.selectResults (s : State) (stack : Nat) (q : Query) (k : Nat) : List HEnt → Sum (List HEnt) EFault × State
  | [] => (.inl [], s)
  | x :: xs =>
    if k == 0 then (.inl [], s)
    else match s.passes stack q x.id with
    | (.inr e, s) => (.inr e, s)
    | (.inl ok, s) =>
      match s.selectResults stack q (if ok then k - 1 else k) xs with
      | (.inr e, s) => (.inr e, s)
      | (.inl l, s) => (.inl (if ok then x :: l else l), s)

/-- The results of a query that ends with results: the entries chosen in one reading of the filter (R377), an access of its group. -/
def State.chooseResults (s : State) (stack : Nat) (q : Query) : Sum (List HEnt) EFault × State :=
  let (r, s) := s.selectResults stack q q.k q.heap
  (r, if s.units.isEmpty then s else s.progress q.r.grp q.r.dst)

/-- Result entries are written in order, each 8 bytes; a write that faults ends the query with those before it. -/
def State.writeResults (s : State) (stack : Nat) (q : Query) (i : Nat) : List HEnt → (Nat × Option EFault) × State
  | [] => ((i, none), s)
  | x :: xs =>
    let va := q.result + BitVec.ofNat 64 (8 * i)
    match s.engPieces stack q.r.dom false .sca none va 8 2 with
    | (.inr e, s) => ((i, some e), s)
    | (.inl ps, s) =>
      match ps with
      | (pa, _, _) :: _ =>
        if regionOf pa == .capacity then ((i, some (0x16, va)), s)
        else
          (((s.servePieces ps).storeUnit pa (BitVec.ofNat 64 (x.id + x.d * 2 ^ 32))).progress q.r.grp q.r.dst).writeResults stack q (i + 1) xs
      | [] => ((i, none), s)

/-- Entries of a burst of 64 bytes. -/
abbrev burstEntries : Nat := 8

/-- The next burst of results is written (Table 16-9); after the last, or a fault, the record sets out for the SE. -/
def State.resultBurst (s : State) (stack : Nat) (q : Query) : State :=
  let id := q.r.id
  match s.inService (fun s => s.writeResults stack q q.count (q.sel.take burstEntries)) with
  | none => s.after 1 (.queryComplete stack id)
  | some ((n, bad), s) =>
    let q := { q with count := n, sel := if bad.isSome then [] else q.sel.drop burstEntries, fin := match bad with
      | some e => some (3, e.1, e.2)
      | none => q.fin }
    let q := { q with left := if q.sel.isEmpty then 2 else 1 }
    (s.modQuery stack id (fun _ => q)).after (if q.sel.isEmpty then 1 + engineHop q.r.dst stack else 1) (.queryComplete stack id)

/-- The results of a query are chosen, and their first burst written; with none the record sets out at once. -/
def State.results (s : State) (stack : Nat) (q : Query) : State :=
  let id := q.r.id
  let settle (s : State) (q : Query) : State :=
    (s.modQuery stack id (fun _ => { q with left := 2 })).after (engineHop q.r.dst stack) (.queryComplete stack id)
  match s.inService (fun s => s.chooseResults stack q) with
  | none => s.after 1 (.queryComplete stack id)
  | some (.inr e, s) => settle s { q with fin := some (3, e.1, e.2) }
  | some (.inl [], s) => settle s q
  | some (.inl l, s) =>
    let q := { q with sel := l, left := 1 }
    (s.modQuery stack id (fun _ => q)).resultBurst stack q

/-- The query record (Table 16-6). -/
def Query.record (q : Query) (status code : Nat) (faddr : Word) : List Byte :=
  leBytes 1 status ++ leBytes 1 code ++ leBytes 1 q.flags.toNat ++ leBytes 1 0 ++ leBytes 4 q.count ++ leBytes 4 q.hops ++
    leBytes 4 q.seen.length ++ leBytes 8 faddr.toNat ++ leBytes 8 q.user ++ List.replicate 32 0

/-- R378 to R380: a query that has ended writes its results, then, when they have reached the SE, its record, and sends its
completion word. `left` is 0 before its results, 1 while they are written, 2 while its record goes to the SE, 3 at the record's bank. -/
def execQueryComplete (stack id : Nat) (s : State) : Out1 := .next <|
  match (s.engine stack).query id with
  | none => s
  | some q =>
    match q.fin, q.left with
    | none, _ => s
    | some (st, _, _), 0 =>
      if st ≤ 2 then s.results stack q
      else (s.modQuery stack id (fun q => { q with left := 2 })).after (engineHop q.r.dst stack) (.queryComplete stack id)
    | some _, 1 => s.resultBurst stack q
    | some _, 2 =>
      (s.modQuery stack id (fun q => { q with left := 3 })).bankEnter (seAddr q.r.dst (q.off + 0xC0)) 5 (.queryComplete stack id) none
    | some (st, code, fa), _ =>
      let s := s.windowBytes (seAddr q.r.dst (q.off + 0xC0)) (q.record st code fa)
      let s := s.modEngine stack (fun e => { e with queries := e.queries.filter (fun x => x.r.id != id) })
      s.tableLeave q.r (completionWord st code q.count q.flags q.off)

/-- R384: an abort reaches the home engine; its answer goes back to the SE, which emits the completion word. -/
def execQabortArrival (stack id : Nat) (r : MReq) (s : State) : Out1 := .next <|
  let back (s : State) (hit : Bool) : State :=
    s.after (engineHop r.dst stack) (.queryAccept
      { r with stage := 3, v1 := completionWord 0 0 (if hit then 1 else 0) 0 r.addr.toNat })
  match (s.engine stack).query id with
  | none => back s false
  | some q =>
    match q.fin with
    | none => back (s.endQuery stack id 4 0 0) true
    | some (st, _, _) =>
      if st ≤ 2 && q.left == 0 && q.ready == s.now then
        let (c, s) := s.choose
        if c then back (s.modQuery stack id (fun q => { q with fin := some (4, 0, 0) })) true else back s false
      else back s false

end Sys2Proof.Machine
end

