-- ==== Sys2Proof/Machine/Scree.lean ====
section
/-! DEFINITION. The Scree units (R386 to R389): gathers and scatters, their bursts and records, and the ways of packets and records
through the request tables of SEs (R370). -/

namespace Sys2Proof.Machine

/-! ## Records (R386) -/

def ScreeReq.idxVa (q : ScreeReq) : Word := BitVec.ofNat 64 (fld q.rec_ 0 8)
def ScreeReq.base (q : ScreeReq) : Word := BitVec.ofNat 64 (fld q.rec_ 8 8)
def ScreeReq.n (q : ScreeReq) : Nat := fld q.rec_ 0x10 4
def ScreeReq.esz (q : ScreeReq) : Nat := fld q.rec_ 0x14 2
def ScreeReq.handle (q : ScreeReq) : Nat := fld q.rec_ 0x16 1 % 64
/-- IW and ADD (Table 16-4). -/
def ScreeReq.iw (q : ScreeReq) : Nat := if q.r.aop.testBit 0 then 8 else 4
def ScreeReq.add (q : ScreeReq) : Bool := q.r.aop.testBit 1

/-- The end of a Scree request: STATUS, CODE, FADDR, COUNT, FLAGS. -/
abbrev ScreeFin := Nat × Nat × Word × Nat × BitVec 6

/-- Bytes of the elements. -/
def ScreeReq.bytes (q : ScreeReq) : Nat := q.n * q.esz

/-- A handle that is not declared, or of the wrong state (R386 to R388). -/
def State.screeHandleBad (s : State) (q : ScreeReq) : Bool :=
  let e := s.elem q.r.dst
  let d := e.work.handle q.handle
  let x := e.hnd q.handle
  let want := if q.r.acc == .gat then HSt.filling else HSt.draining
  !hrDeclared d || x.st != want || x.own != 1

/-- The handle is smaller than the elements. -/
def State.screeHandleSmall (s : State) (q : ScreeReq) : Bool :=
  (hrSizeM1 ((s.elem q.r.dst).work.handle q.handle) + 1) * 64 < q.bytes

/-- The checks of a record, in the order of R372 (R386). -/
def State.screeCheck (s : State) (q : ScreeReq) : Option EFault :=
  let off := BitVec.ofNat 64 q.off
  if fld q.rec_ 0x16 1 / 64 != 0 || fld q.rec_ 0x17 1 / 16 != 0 || fld q.rec_ 0x18 8 != 0 then some (0x02, off)
  else if q.n < 1 || q.n > 4096 || q.esz < 1 || q.esz > 256 || (q.add && q.esz % 4 != 0) then some (0x01, off)
  else if s.screeHandleBad q then some (0x22, off)
  else if !canonical q.idxVa || !canonical q.base then some (0x10, off)
  else if q.idxVa.toNat % q.iw != 0 || (q.add && q.base.toNat % 4 != 0) then some (0x13, off)
  else if s.screeHandleSmall q then some (0x22, off)
  else none

/-- The address of element `i` with index `x`; none where it overflows. -/
def ScreeReq.elemVa (q : ScreeReq) (x : Int) : Option Word :=
  let a := q.base.toInt + x * q.esz
  if outsideS64 (x * q.esz) || outsideS64 a then none else some (BitVec.ofInt 64 a)

/-- The index of element `i` in the bytes of the list. -/
def ScreeReq.index (q : ScreeReq) (b : List Byte) (i : Nat) : Int := sInt (8 * q.iw) (fld b (q.iw * i) q.iw)

/-- Where an element lies; a fault of ADDR_OVERFLOW names the element. -/
def State.screePieces (s : State) (stack : Nat) (q : ScreeReq) (i : Nat) (x : Int) (write : Bool) :
    Sum (List (Nat × Nat × Bool)) EFault × State :=
  match q.elemVa x with
  | none => (.inr (0x10, BitVec.ofNat 64 i), s)
  | some va =>
    match s.engPieces stack q.r.dom true (if write then .sca else .gat) (some stack) va q.esz 3 with
    | (.inr e, s) => (.inr (e.1, if e.1 == 0x10 then BitVec.ofNat 64 i else e.2), s)
    | (.inl ps, s) => (.inl ps, s)

def State.modScree (s : State) (stack id : Nat) (f : ScreeReq → ScreeReq) : State :=
  s.modEngine stack (fun e => { e with scree := e.scree.map (fun q => if q.r.id == id then f q else q) })

/-- The service of a request ends: its answer sets out to the SE, a gather's bytes in bursts, one per fc, and the next request is taken
after the last of them (R386, R387, Table 16-9). -/
def State.screeEnd (s : State) (stack : Nat) (q : ScreeReq) (fin : ScreeFin) (data : List Byte) : State :=
  let t := s.now + engineHop q.r.dst stack
  let s := (s.progress q.r.grp q.r.dst).modScree stack q.r.id (fun x =>
    { x with fin := some fin, data := data, ready := t, busy := false })
  let s := s.modEngine stack (fun e => { e with sfree := s.now + (data.length + 63) / 64 })
  (s.at_ t (screeEvent q.r stack)).screeWake stack

/-! ## Gathers (R387) -/

/-- Elements are read one after the other, to the first fault (R387): the end, and the bytes read. -/
def State.gatherAll (s : State) (stack : Nat) (q : ScreeReq) (idx : List Byte) (i : Nat) : Nat → (ScreeFin × List Byte) × State
  | 0 => (((0, 0, 0, i, 0), []), s)
  | k + 1 =>
    match s.screePieces stack q i (q.index idx i) false with
    | (.inr e, s) => (((3, e.1, e.2, i, 0), []), s)
    | (.inl ps, s) =>
      let s := s.servePieces ps
      if s.piecesPoison ps then (((3, 0x15, (q.elemVa (q.index idx i)).getD 0, i, 0), []), s)
      else
        let ((f, b), s') := s.gatherAll stack q idx (i + 1) k
        ((f, ps.flatMap (fun p => s.readBytes p.1 p.2.1) ++ b), s')

/-- The elements of a gather are read at one instant, each unit in one service (R256, log 45). -/
def State.gather (s : State) (stack : Nat) (q : ScreeReq) (idx : List Byte) : State :=
  match s.inService (fun s => s.gatherAll stack q idx 0 q.n) with
  | none => s.after 1 (screeEvent q.r stack)
  | some ((f, b), s) => s.screeEnd stack q f b

/-! ## Scatters (R388) -/

/-- A destination that a scatter may not write: a poisoned page, a poisoned unit that it reads or writes in part (R410). -/
def State.scatterPoison (s : State) (q : ScreeReq) (ps : List (Nat × Nat × Bool)) : Bool :=
  ps.any (fun p =>
    (pieceUnits p.1 p.2.1).any (fun u => (s.poisoned u || p.2.2) && (q.add || 8 * u < p.1 || p.1 + p.2.1 < 8 * u + 8)))

/-- Every destination is translated and checked before any is written (R388): its pieces, by element. -/
def State.scatterCheck (s : State) (stack : Nat) (q : ScreeReq) (idx : List Byte) (i : Nat) :
    Nat → Sum (List (List (Nat × Nat × Bool))) EFault × State
  | 0 => (.inl [], s)
  | k + 1 =>
    match s.screePieces stack q i (q.index idx i) true with
    | (.inr e, s) => (.inr e, s)
    | (.inl ps, s) =>
      let rd := if q.add then (s.screePieces stack q i (q.index idx i) false).1 else .inl ps
      match rd with
      | .inr e => (.inr e, s)
      | .inl _ =>
        if s.scatterPoison q ps then (.inr (0x15, (q.elemVa (q.index idx i)).getD 0), s)
        else match s.scatterCheck stack q idx (i + 1) k with
        | (.inr e, s) => (.inr e, s)
        | (.inl l, s) => (.inl (ps :: l), s)

/-- Source value `i` in the rows of its handle. -/
def ScreeReq.value (q : ScreeReq) (b : List Byte) (i : Nat) : List Byte := (b.drop (i * q.esz)).take q.esz

/-- Bytes written over the pieces of an element; a whole unit of clean data clears its mark. -/
def State.writePieces (s : State) (b : List Byte) : List (Nat × Nat × Bool) → State
  | [] => s
  | (pa, n, _) :: ps =>
    let s := s.writeBytes pa (b.take n)
    let whole := (pieceUnits pa n).filter (fun u => pa ≤ 8 * u && 8 * u + 8 ≤ pa + n)
    (whole.foldl (fun s u => s.setPoison u false) s).writePieces (b.drop n) ps

/-- Lane `l` of a scatter-add: the window sum of the values of every duplicate, with the prior value as addend (R388). -/
def addLane (prior : List Byte) (vals : List (List Byte)) (l : Nat) : Nat × FlagSet :=
  windowSum ((vals.map (fun v => fp32.value (fld v (4 * l) 4))) ++ [fp32.value (fld prior (4 * l) 4)]) 64 fp32

/-- The elements of a scatter are written (R388). -/
def State.scatterWrite (s : State) (q : ScreeReq) (ix : List Int) (vals : List (List Byte)) (ps : List (List (Nat × Nat × Bool))) :
    FlagSet × State :=
  (List.range q.n).foldl (fun (acc : FlagSet × State) i =>
    let (fl, s) := acc
    let me := ix.getD i 0
    let dups := (List.range q.n).filter (fun j => ix.getD j 0 == me)
    let p := ps.getD i []
    let s := s.servePieces p
    if q.add then
      if dups.head? != some i then (fl, s)
      else
        let prior := p.flatMap (fun x => s.readBytes x.1 x.2.1)
        let lanes := (List.range (q.esz / 4)).map (addLane prior (dups.map (fun j => vals.getD j [])))
        (lanes.foldl (fun a x => a ||| x.2) fl, s.writePieces (lanes.flatMap (fun x => leBytes 4 x.1)) p)
    else if dups.getLast? != some i then (fl, s)
    else (fl, s.writePieces (vals.getD i []) p)) (0, s)

/-- Every destination is checked, then the elements are written, all at one instant (R388, R256, log 45). -/
def State.scatterAll (s : State) (stack : Nat) (q : ScreeReq) (idx b : List Byte) : ScreeFin × State :=
  match s.scatterCheck stack q idx 0 q.n with
  | (.inr e, s) => ((3, e.1, e.2, 0, 0), s)
  | (.inl ps, s) =>
    let (fl, s) := s.scatterWrite q ((List.range q.n).map (q.index idx)) ((List.range q.n).map (q.value b)) ps
    ((0, 0, 0, q.n, fl), s)

/-- Rows that hold the source values. -/
def ScreeReq.need (q : ScreeReq) : Nat := (q.bytes + 63) / 64

/-- Row `j` of a scatter's source values is asked for at its bank; one that its partition does not hold any more ends the request
(R176). -/
def State.sourceAsk (s : State) (stack : Nat) (q : ScreeReq) (j : Nat) : State :=
  match s.handleAddr q.r.dst q.handle (64 * j) with
  | some a => s.bankEnter a (handlePort s q.r.dst q.handle) (.queryAccept { q.r with stage := 5, v1 := BitVec.ofNat 64 j }) none
  | none =>
    s.screeEnd stack q (3, 0x12, BitVec.ofNat 64 (hrBase ((s.elem q.r.dst).work.handle q.handle) * 64 + 64 * j), 0, 0) []

/-- A scatter whose index list is read: its source values are read, then it is performed. -/
def State.scatter (s : State) (stack : Nat) (q : ScreeReq) (idx : List Byte) : State :=
  if q.rows.length < q.need then
    let s := s.modScree stack q.r.id (fun x => { x with busy := true })
    (List.range (min q.need rowsAtOnce)).foldl (fun s j =>
      if ((s.engine stack).scree.find? (fun x => x.r.id == q.r.id)).any (fun x => x.fin.isNone) then s.sourceAsk stack q j else s) s
  else match s.inService (fun s => s.scatterAll stack q idx (rowBytes q.need q.rows)) with
  | none => s.after 1 (screeEvent q.r stack)
  | some (f, s) => s.screeEnd stack q f []

/-- A Scree request in the table of its SE, with its stack. -/
def State.screeOf (s : State) (r : MReq) : Option (Nat × ScreeReq) :=
  (s.tabOf r).bind (fun t => ((s.engine t.stack).scree.find? (fun q => q.r.id == r.id)).map (fun q => (t.stack, q)))

/-- A row of source values is read in the service of its bank; a poisoned unit of the values ends the request, and with the last row the
scatter goes on. -/
def State.sourceRow (s : State) (r : MReq) : State :=
  let j := r.v1.toNat
  match s.screeOf r with
  | none => s
  | some (stack, q) =>
    if q.fin.isSome then s
    else match s.handleAddr r.dst q.handle (64 * j) with
    | none => s.sourceAsk stack q j
    | some a =>
      let ((row, bad), s) := s.rowRead a
      let s := s.progress r.grp r.dst
      if bad.any (fun i => 64 * j + 8 * i < q.bytes) then s.screeEnd stack q (3, 0x15, BitVec.ofNat 64 q.off, 0, 0) []
      else
        let rows := (j, row) :: q.rows
        let s := s.modScree stack r.id (fun x => { x with rows := rows, busy := rows.length < q.need })
        if rows.length == q.need then s.at_ s.now (screeEvent r stack)
        else if j + rowsAtOnce < q.need then s.sourceAsk stack { q with rows := rows } (j + rowsAtOnce)
        else s

/-! ## Answers (R386, R387, R380) -/

/-- Bytes 0x20 to 0x3F of a Scree record (Table 16-8). -/
def screeRecord (f : ScreeFin) : List Byte :=
  let (st, code, fa, n, fl) := f
  leBytes 1 st ++ leBytes 1 code ++ leBytes 1 fl.toNat ++ leBytes 1 0 ++ leBytes 4 n ++ leBytes 8 fa.toNat ++ List.replicate 16 0

/-- The record of a request goes to the bank of its packet through the network port. -/
def State.recordAsk (s : State) (q : ScreeReq) : State :=
  s.bankEnter (seAddr q.r.dst (q.off + 0x20)) 5 (.queryAccept { q.r with stage := 8 }) none

/-- A gather's answer ends in a fault at the SE: the elements written before it count. -/
def State.burstFault (s : State) (stack : Nat) (q : ScreeReq) (code : Nat) (fa : Word) (done : Nat) : State :=
  (s.modScree stack q.r.id (fun x => { x with fin := some (3, code, fa, done / q.esz, 0), data := x.data.take done })).recordAsk q

/-- Burst `j` of a gather enters the bank of its handle, or with the last one written the record goes (R387); bytes that the partition does
not hold any more end the request (R176). -/
def State.answerStep (s : State) (stack : Nat) (q : ScreeReq) (j : Nat) : State :=
  if q.data.length ≤ 64 * j then s.recordAsk q
  else match s.handleAddr q.r.dst q.handle (64 * j) with
  | some a => s.bankEnter a (handlePort s q.r.dst q.handle) (.queryAccept { q.r with stage := 7, v1 := BitVec.ofNat 64 j }) none
  | none =>
    s.burstFault stack q 0x12 (BitVec.ofNat 64 (hrBase ((s.elem q.r.dst).work.handle q.handle) * 64 + 64 * j)) (64 * j)

/-- Bytes of a burst are written, unit by unit: a whole unit of clean data clears its mark, and a poisoned unit is not written in part
(R410): then the bytes before it have been written. -/
def State.writeBurst (s : State) (a : Nat) (b : List Byte) : Nat → Option Nat × State
  | 0 => (none, s)
  | k + 1 =>
    if b.isEmpty then (none, s)
    else
      let s := s.touch a
      if b.length ≥ 8 then (s.storeUnit a (BitVec.ofNat 64 (leNat (b.take 8)))).writeBurst (a + 8) (b.drop 8) k
      else if s.poisoned (unitOf a) then (some b.length, s)
      else (none, s.writeBytes a b)

/-- A burst of a gather is written in the service of its bank, and the next follows a cycle later (Table 16-9). -/
def State.burstRow (s : State) (r : MReq) : State :=
  let j := r.v1.toNat
  match s.screeOf r with
  | none => s
  | some (stack, q) =>
    match s.handleAddr r.dst q.handle (64 * j) with
    | none => s.answerStep stack q j
    | some a =>
      let b := (q.data.drop (64 * j)).take 64
      let (left, s) := s.writeBurst a b 8
      let s := s.progress r.grp r.dst
      match left with
      | some n => s.burstFault stack q 0x15 (BitVec.ofNat 64 q.off) (64 * j + b.length - n)
      | none => s.after 1 (.queryAccept { r with stage := 6, v1 := BitVec.ofNat 64 (j + 1) })

/-- The record of a request is written, and its completion word leaves (R386, R380). -/
def State.recordRow (s : State) (r : MReq) : State :=
  match s.screeOf r with
  | none => s
  | some (stack, q) =>
    let f := q.fin.getD (0, 0, 0, 0, 0)
    let s := s.windowBytes (seAddr r.dst (q.off + 0x20)) (screeRecord f)
    let s := s.modEngine stack (fun e => { e with scree := e.scree.filter (fun x => x.r.id != r.id) })
    (s.progress r.grp r.dst).tableLeave q.r (completionWord f.1 f.2.1 f.2.2.2.1 f.2.2.2.2 q.off)

/-- Answers that are back at their SE are written. -/
def State.screeAnswers (s : State) (stack : Nat) : List ScreeReq → State
  | [] => s
  | q :: qs =>
    let s := if q.fin.isSome && !q.busy && q.ready ≤ s.now then
        (s.modScree stack q.r.id (fun x => { x with busy := true })).answerStep stack q 0
      else s
    s.screeAnswers stack qs

/-! ## The unit (R386) -/

/-- A request is served: its record is checked, then its index list read in one service of its homes. -/
def State.screeServe (s : State) (stack : Nat) (q : ScreeReq) : State :=
  let go (s : State) (idx : List Byte) : State := if q.r.acc == .gat then s.gather stack q idx else s.scatter stack q idx
  match q.idx, s.screeCheck q with
  | some idx, _ => go s idx
  | none, some e => s.screeEnd stack q (3, e.1, e.2, 0, 0) []
  | none, none =>
    match s.inService (fun s => s.engRead stack q.r.dom .gat none q.idxVa (q.iw * q.n)) with
    | none => s.after 1 (screeEvent q.r stack)
    | some (.inr e, s) => s.screeEnd stack q (3, e.1, e.2, 0, 0) []
    | some (.inl idx, s) => go ((s.progress q.r.grp q.r.dst).modScree stack q.r.id (fun x => { x with idx := some idx })) idx

/-- The Scree unit of a stack: answers that are back are written, and the oldest request is served when it is due, one at a time (R386). -/
def State.screeTurn (s : State) (stack : Nat) : State :=
  let s := s.screeAnswers stack (s.engine stack).scree
  match (s.engine stack).scree.find? (fun q => q.fin.isNone) with
  | none => s
  | some q =>
    let t := (s.engine stack).screeDue q
    if q.busy then s else if s.now < t then s.at_ t (screeEvent q.r stack) else s.screeServe stack q

/-- R386, R387. -/
def execScreeGather (stack : Nat) (s : State) : Out1 := .next (s.screeTurn stack)

/-- R386, R388. -/
def execScreeScatter (stack : Nat) (s : State) : Out1 := .next (s.screeTurn stack)

/-! ## Requests at their SE (R370) -/

/-- A new Scree request sorts in by the cycle in which it reaches its unit. -/
def insScree (x : ScreeReq) : List ScreeReq → List ScreeReq
  | [] => [x]
  | y :: ys => if x.came < y.came then x :: y :: ys else y :: insScree x ys

/-- The record of a Scree request goes to its unit (R386). -/
def State.sendScree (s : State) (r : MReq) (t : Tab) : State :=
  let rc := (rowBytes 1 t.rows).take 32
  let stack := fld rc 0x17 1 % 16
  let fin : Option ScreeFin :=
    if t.bad then some (3, 0x15, r.addr, 0, 0)
    else if s.stackDown stack || s.wayDown (eaDie r.dst) (stack / 2) then some (3, 0x03, r.addr, 0, 0)
    else none
  let came := s.now + 4 + engineHop r.dst stack + recordTime
  let s := s.modTab r (fun t => { t with stack := stack, rows := [] })
  let q : ScreeReq := ⟨r, r.addr.toNat, rc, came, none, [], fin, came, [], false⟩
  (s.modEngine stack (fun e => { e with scree := insScree q e.scree })).at_ came (screeEvent r stack)

/-- An earlier Scree request of the same route has not set out for its unit: those of one route go in the order of their issue
(R389). -/
def State.screeHeld (s : State) (r : MReq) : Bool :=
  ((s.elem r.dst).table.takeWhile (fun t => t.r.id != r.id)).any (fun t =>
    (t.r.acc == .gat || t.r.acc == .sca) && t.r.ea == r.ea && t.r.out == r.out && t.stack == 16)

/-- A request whose packet or record is read sets out for its engine. -/
def State.tabSend (s : State) (r : MReq) : State :=
  match s.tabOf r with
  | none => s
  | some t =>
    if t.rows.length < tabRows r then s
    else if r.acc == .qry then s.sendQuery r t
    else if s.screeHeld r then s.after 1 (.queryAccept { r with stage := 9 })
    else s.sendScree r t

/-- A row of a packet or record is read in the service of its bank (R171, R302). Of a record, bytes 0x00 to 0x1F count, which are 4 units. -/
def State.packetRow (s : State) (r : MReq) : State :=
  let i := r.v1.toNat
  let ((row, bad), s) := s.rowRead (seAddr r.dst (r.addr.toNat + 64 * i))
  let hit := bad.any (fun u => r.acc == .qry || u < 4)
  let s := (s.progress r.grp r.dst).modTab r (fun t => { t with rows := (i, row) :: t.rows, bad := t.bad || hit })
  s.tabSend { r with v1 := 0 }

/-- R370: a request reaches its SE (stage 0) and reads its packet or record there (stage 1); an abort waits for the packet of its query to
be read (stage 2), and emits its completion word when its answer has come back (stage 3). A query's vector (stage 4) and a scatter's
values (stage 5) are read, a gather's bursts enter their banks (stage 6) and are written (stage 7), and the record of a request (stage 8);
a request whose turn had not come sets out (stage 9). -/
def execQueryAccept (r : MReq) (s : State) : Out1 := .next <|
  if r.acc == .qabort then (if r.stage == 3 then s.engineDone r r.v1 else s.sendAbort r)
  else match r.stage with
  | 0 => (s.modElem r.dst (fun e => { e with tabWait := e.tabWait ++ [r] })).tableFlush r.dst
  | 1 => s.packetRow r
  | 4 => s.vectorRow r
  | 5 => s.sourceRow r
  | 6 => match s.screeOf r with
    | some (stack, q) => s.answerStep stack q r.v1.toNat
    | none => s
  | 7 => s.burstRow r
  | 8 => s.recordRow r
  | _ => s.tabSend r

end Sys2Proof.Machine
end

