-- ==== Sys2Proof/Machine/Eligible.lean ====
section
/-! DEFINITION. The eligibility rule (R87) with the op-specific conditions of the owning chapters, arbitration (R88, R89), the
states of a context that follow from it (R82), and the events that look at eligibility: tag requests (R97), the watchdog (R302,
R303) and the bound of pre-emption (R307). -/

namespace Sys2Proof.Machine

/-! ## Item 1 -/

/-- A kernel whose contexts fire: RUNNING or DRAINING, also while a fault has made it FAULTED and the fence is on its way. -/
def Kern.fires (k : Kern) : Bool :=
  let st := if k.st == KSt.faulted then k.prev else k.st
  st == KSt.running || st == KSt.draining

/-- The group lets the elements of a tile fire (R84, R403, R273). -/
def Group.fires (g : Group) (ea : Nat) : Bool :=
  (g.st == .live || g.st == .draining || g.st == .fenced) && !g.fencedAt ea && g.kern.fires

/-- The element may fire in this cycle: not between a swap and the first cycle of its slots, nor in a partial
reconfiguration (R287, R291, R284). -/
def Elem.awake (e : Elem) (now : Nat) : Bool := e.holdUntil ≤ now && e.partials.isEmpty

/-- A record that is never dropped: it fences, or it stops an agent that awaits service (R407). -/
def recEssential (r : FRec) : Bool := r.fence || r.code == 0x11 || r.code == 0

/-- A record that the context raised and that is never dropped waits for a place in the origin hub: the context stays stopped (R407). -/
def State.recordWaits (s : State) (gn ea c : Nat) : Bool :=
  (s.hub (s.group gn).origin).recWait.any (fun r =>
    r.grp.toNat == gn && r.ctxv && r.ea.toNat == ea && r.ctx.toNat == c && recEssential r)

/-- The context may fire: enabled, running, in an element, a group and a die that may fire. -/
def State.mayFire (s : State) (ea c : Nat) : Bool :=
  let e := s.elem ea
  (e.ctx c).st == .running && (ecwCtxen e.work.ecw).getLsbD c && e.awake s.now && s.dieUp (eaDie ea) &&
    (match s.groupAt ea with
     | some gn => (s.group gn).fires ea && !s.recordWaits gn ea c
     | none => false)

/-! ## Items 2 and 3 -/

/-- The predicates that a guard tests: 0 in an ME (chapter 08). -/
def Elem.preds (e : Elem) (c : Nat) : Byte := if e.kind == .me then 0 else (e.ctx c).pred

/-- PRED and PM against PV and PM, and, when marks count, no bit of PM pending. -/
def predsOk (e : Elem) (c : Nat) (f : SlotF) (marks : Bool) : Bool :=
  (e.preds c &&& f.pm) == (f.pv &&& f.pm) && (!marks || (e.ctx c).pendPred &&& f.pm == 0)

/-- The head of a channel is a word of a kind. -/
def headIs (e : Elem) (ch : Nat) (k : WKind) : Bool :=
  match (e.chan ch).head with
  | some q => q.word.kind == k
  | none => false

/-- `a` before `b` in modulo-256 serial order (Table 2-2). -/
def serialLt (a b : Byte) : Bool := let d := (b - a).toNat; 1 ≤ d && d ≤ 127

/-- The tag test (Table 2-2). -/
def tagTest (e : Elem) (c : Nat) (f : SlotF) : Bool :=
  let a := headTag e f.ia.toNat
  let b := headTag e f.ib.toNat
  match f.tm.toNat with
  | 0 => true
  | 1 => a == f.tl
  | 2 => a == b
  | 3 => serialLt a b
  | 4 => a != f.tl
  | 5 => headIs e f.ia.toNat .eos
  | 6 => headIs e f.ib.toNat .eos
  | _ => a == (e.ctx c).tag

/-- Every used input holds a head, and the tag test holds. -/
def inputsOk (e : Elem) (c : Nat) (f : SlotF) : Bool :=
  (!f.ua || (e.chan f.ia.toNat).head.isSome) && (!f.ub || (e.chan f.ib.toNat).head.isSome) && tagTest e c f

/-! ## Item 4 -/

/-- The element's input channels whose heads a slot pops. -/
def poppedChans (f : SlotF) : List Nat :=
  (if f.ua && f.ka then [f.ia.toNat] else []) ++ (if f.ub && f.kb then [f.ib.toNat] else [])

/-- An output has room for one word at each target, or its route for one request (R158, R226). A word that goes to a channel whose head
the same firing pops takes the place of that head. DEDUCED (log 81): R158 counts a pop's credit an hop later, by which a slot that pops
a channel of depth 1 and sends to it would never fire; the programs of R441 and R446 have such slots, which fire (Table 23-3). -/
def State.outOk (s : State) (ea o : Nat) (popped : List Nat) : Bool :=
  let e := s.elem ea
  let r := e.work.route o
  if r.isReq then e.reqRoom o > 0
  else (List.range r.n).all (fun i =>
    s.credit ea o i > 0 ||
      ((s.group (s.groupNo ea)).targetEa (r.target i) == ea && popped.contains (tgtCh (r.target i)).toNat))

/-- The outputs that a slot needs have room; a steer needs the one that SB bit 0 chooses (R104). -/
def State.outsOk (s : State) (cu : Cursor) (op : Nat) (f : SlotF) : Bool :=
  let ok (o : Nat) : Bool := s.outOk cu.ea o (poppedChans f)
  if op == 0x04 then ok (if (readSource s cu f f.sb).val.getLsbD 0 then f.oa.toNat else f.ob.toNat)
  else (!f.xa || ok f.oa.toNat) && (!f.xb || ok f.ob.toNat)

/-! ## Items 5 and 6 -/

/-- A register code is pending. -/
def Ctx.pendCode (c : Ctx) (code : BitVec 5) : Bool := code.toNat < 16 && c.pendReg.getLsbD code.toNat

/-- A source code names something pending. -/
def Ctx.pendSrc (c : Ctx) (code : BitVec 5) : Bool := c.pendCode code || (code == 22 && c.pendPred != 0)

/-- What the slot reads is pending (item 5); ccan's register is exempt (R250). -/
def readsPending (c : Ctx) (op : Nat) (o : OpInfo) (f : SlotF) : Bool :=
  (o.ns ≥ 1 && op != 0x89 && c.pendSrc f.sa) || (o.ns ≥ 2 && !(op == 0x70 && !f.xb) && c.pendSrc f.sb) ||
    (o.da == .star && c.pendCode f.da)

/-- Predicate bits that pset, pclr and pmov write. -/
def litPreds (op : Nat) (f : SlotF) : Byte := if op == 0x08 || op == 0x09 || op == 0x0A then f.lit.setWidth 8 else 0

/-- What the slot writes is pending (item 6), the reply register of an svc with it (R416). -/
def writesPending (c : Ctx) (op : Nat) (f : SlotF) : Bool :=
  c.pendCode f.da || c.pendCode f.db ||
    (destPreds f.da ||| destPreds f.db ||| litPreds op f) &&& c.pendPred != 0 ||
    (op == 0x9C && c.pendReg.getLsbD (f.lit.toNat / 2 ^ 16 % 16))

/-! ## Item 7 -/

/-- The credit that TA = FRESH or a spawn needs (R97). -/
def creditOk (e : Elem) (op : Nat) (f : SlotF) : Bool :=
  f.ta != 6 ||
    match tget .none (f.lit.toNat % 8) e.tagCreds with
    | .held _ spawn => op != 0x70 || spawn
    | _ => false

/-- Opcodes that an sbar of their context holds back (R235). -/
def heldBySbar (op : Nat) : Bool := requestOp op || op == 0x88 || op == 0xAB || op == 0xAC
/-- Opcodes that a qpush of their context holds back (R322). -/
def heldByQpush (op : Nat) : Bool := heldBySbar op || op == 0x94
/-- Opcodes that a tinval of their context holds back (R350). -/
def heldByTinval (op : Nat) : Bool := heldByQpush op || op == 0x9A || op == 0x9B

/-- What the context awaits holds the opcode back. -/
def Ctx.holds (c : Ctx) (op : Nat) : Bool :=
  (heldBySbar op && !(c.sbarReqs.isEmpty && c.sbarGens.isEmpty)) || (heldByQpush op && c.wait.testBit waitQpush) ||
    (heldByTinval op && c.wait.testBit waitTinval)

/-- Input channels that engines of an SE hold (R193, R242). -/
def Elem.claimedIn (e : Elem) : List Nat :=
  (match e.su with
   | some u => [suIn0 u.lit] ++ (if twoInputs u.op then [suIn1 u.lit] else [])
   | none => []) ++
  e.gens.flatMap (fun p =>
    let g := p.2
    if g.st == .idle || g.st == .done then []
    else (if gnSt g.lit then [gnSch g.lit] else []) ++ (if g.mode == 1 then [g.idx % 32] else []) ++
      (if g.genp then [gnPch g.lit] else []))

/-- Outputs that engines of an SE hold. -/
def Elem.claimedOut (e : Elem) : List Nat :=
  (match e.su with
   | some u => [suOut u.lit]
   | none => []) ++
  e.gens.flatMap (fun p =>
    let g := p.2
    if g.st == .idle || g.st == .done then []
    else [gnDst g.lit] ++ (if gnLoc g.lit then [gnRout g.lit] else []))

/-- The guard uses a channel or declares an output that an engine holds. -/
def claimed (e : Elem) (f : SlotF) : Bool :=
  (f.ua && e.claimedIn.contains f.ia.toNat) || (f.ub && e.claimedIn.contains f.ib.toNat) ||
    (f.xa && e.claimedOut.contains f.oa.toNat) || (f.xb && e.claimedOut.contains f.ob.toNat)

/-- The op-specific condition of an opcode (item 7), tag credits apart. -/
def State.opReady (s : State) (cu : Cursor) (op : Nat) (f : SlotF) : Bool :=
  let e := s.elem cu.ea
  match op with
  | 0x19 | 0x1A => e.divFree ≤ s.now
  | 0x76 | 0x77 => !s.portHolds 5 (seBank (seSite (tileOf cu.ea) (sbSe (e.ctx cu.ctx).spillBase)))
  | 0x88 => copyReady s cu f
  | 0x94 => qpushReady s cu
  | 0x9A => migrReady s cu
  | 0x9C => (e.ctx cu.ctx).svc.isNone
  | 0xA0 | 0xA1 | 0xA2 => !s.portHolds 0 (seBank cu.ea)
  | 0xA5 => !s.portHolds 0 (seBank cu.ea) && !s.portHolds (seIndex cu.ea) (storeBank (tileOf cu.ea))
  | 0xA3 => acqReady e f.lit
  | 0xA9 => tinsReady e (readSource s cu f f.sa).val
  | 0xAB | 0xAC => genReady e f.lit
  | 0xAD | 0xAE | 0xAF | 0xB0 | 0xB1 => e.su.isNone
  | 0xC0 => mldReady s cu.ea false f.lit
  | 0xC1 => mldReady s cu.ea true f.lit
  | 0xC2 => mrowReady s cu.ea
  | 0xC3 => mcfgReady s cu.ea
  | 0xC4 => mdrainReady s cu.ea
  | 0xC6 => !e.me.inFlight
  | _ => true

/-! ## The rule -/

/-- Which items of the rule are asked: pending marks, tag credits, the op-specific condition, and items 4 and 6 with it. -/
structure Ask where
  marks : Bool
  credit : Bool
  op : Bool
  room : Bool
  deriving DecidableEq, Repr

/-- The whole rule. -/
abbrev Ask.all : Ask := ⟨true, true, true, true⟩

/-- What the checks 7 to 16 look at for a slot of the element (R43): a pool that was removed still counts as one (R97). -/
def State.slotEnv (s : State) (ea : Nat) : SlotEnv := (s.elem ea).work.env (s.group (s.groupNo ea)).poolsKnown

/-- The first of the checks 7 to 16 that a slot fails at run time (R43). -/
def State.slotFails (s : State) (ea : Nat) (w : SlotW) : Option Nat := w.check (s.slotEnv ea)

/-- Items 3 to 7 for a slot that passes the checks, as far as they are asked. -/
def State.slotReady (s : State) (cu : Cursor) (op : Nat) (f : SlotF) (k : Ask) : Bool :=
  let e := s.elem cu.ea
  let c := e.ctx cu.ctx
  match opInfo op with
  | none => false
  | some o =>
    inputsOk e cu.ctx f && (!k.room || s.outsOk cu op f) && (!k.marks || !readsPending c op o f) &&
      (!k.marks || !k.room || !writesPending c op f) && (!k.credit || creditOk e op f) &&
      (!k.room || (!c.holds op && !claimed e f)) && (!k.op || s.opReady cu op f)

/-- R87, R43: a valid slot is eligible for a context that may fire. DESIGN CHOICE (log 66): a slot judged under R43 is held back by a
pending predicate bit of PM as any other (R87, item 2); R43 names PM and PV and does not say. -/
def State.slotElig (s : State) (cu : Cursor) (w : SlotW) (k : Ask) : Bool :=
  let f := w.fields
  f.cm.getLsbD cu.ctx && predsOk (s.elem cu.ea) cu.ctx f k.marks &&
    match s.slotFails cu.ea w with
    | some _ => true
    | none => s.slotReady cu w.op f k

/-- The valid slots of an element, as they stand in its active plane (R282). -/
def Elem.validSlots (e : Elem) (now : Nat) : List (Nat × SlotW) :=
  (e.planeNow now).slots.filter (fun p => p.1 < slotsOf e.kind && p.2.valid)

/-- The slots of a context that are eligible, as far as `k` asks. -/
def State.eligSlots (s : State) (ea c : Nat) (k : Ask) : List (Nat × SlotW) :=
  if s.mayFire ea c then ((s.elem ea).validSlots s.now).filter (fun p => s.slotElig ⟨ea, c, p.1⟩ p.2 k) else []

/-- The contexts of an element. -/
def Elem.ctxNos (e : Elem) : List Nat := List.range (ctxsOf e.kind)

/-- Some slot of the element is eligible. -/
def State.anyEligible (s : State) (ea : Nat) (k : Ask) : Bool :=
  (s.elem ea).ctxNos.any (fun c => !(s.eligSlots ea c k).isEmpty)

/-! ## Arbitration (R88, R89) -/

/-- The order in which contexts are considered: P + 1, P + 2, …, P. -/
def Elem.ctxOrder (e : Elem) : List Nat :=
  let n := ctxsOf e.kind
  (List.range n).map (fun i => (e.ptr + 1 + i) % n)

/-- The slot that fires: the highest PRI, then the lowest index. -/
def bestSlot : List (Nat × SlotW) → Option Nat
  | [] => none
  | p :: ps =>
    let pri (w : SlotW) : Nat := w.fields.pri.toNat
    some (ps.foldl (fun b q => if pri q.2 > pri b.2 then q else b) p).1

/-- The firing of an element in this cycle (R88, R89). -/
def State.arbitrate (s : State) (ea : Nat) : Option Cursor :=
  (s.elem ea).ctxOrder.findSome? (fun c => (bestSlot (s.eligSlots ea c .all)).map (fun n => ⟨ea, c, n⟩))

/-- The firings of a cycle, decided from one state (R85): SEs and TEs before MEs, which use their SEs' handles. -/
def State.firings (s : State) : List Cursor :=
  let l := s.elems.filterMap (fun p => if p.2.awake s.now then s.arbitrate p.1 else none)
  l.filter (fun c => physKind c.ea != 2) ++ l.filter (fun c => physKind c.ea == 2)

/-! ## States of a context (R82, Table 18-6) -/

/-- STATE of CCTL: 0 DISABLED, 1 IDLE, 2 ELIGIBLE, 3 WAITING, 4 HALTED, 5 EXITED, 6 FAULTED. -/
def State.ctxCode (s : State) (ea c : Nat) : Nat :=
  match (s.ctx ea c).st with
  | .disabled => 0
  | .halted => 4
  | .exited => 5
  | .faulted => 6
  | .running =>
    if !(s.eligSlots ea c .all).isEmpty then 2
    else if !(s.eligSlots ea c { Ask.all with marks := false }).isEmpty then 3
    else 1

/-! ## Tag requests (R97) -/

/-- The slots that name pool `k` and are eligible except for its credit. -/
def State.wantsTag (s : State) (ea k : Nat) : List SlotW :=
  (s.elem ea).ctxNos.flatMap (fun c =>
    ((s.eligSlots ea c { Ask.all with credit := false }).filter (fun p =>
      p.2.fields.ta == 6 && p.2.fields.lit.toNat % 8 == k && (s.slotFails ea p.2).isNone)).map (·.2))

/-- The TE asks for a credit of pool `k`: it has none, nor a request outstanding, and a slot waits for it. -/
def State.tagDue (s : State) (ea k : Nat) : Bool :=
  tget .none k (s.elem ea).tagCreds == .none && !(s.wantsTag ea k).isEmpty

/-- R97. -/
def execTagRequest (ea pool : Nat) (s : State) : Out1 := .next <|
  if s.tagDue ea pool then s.askTag ea pool ((s.wantsTag ea pool).any (fun w => w.op == 0x70)) else s

/-! ## The watchdog (R302, R303) -/

/-- The elements of a group, in ascending order. -/
def State.groupElems (s : State) (g : Group) : Map Elem := s.elems.filter (fun p => g.covers p.1)

/-- Full input channels of a group: since when the head is there, element and channel. -/
def State.fullChans (s : State) (g : Group) : List (Nat × Nat × Nat) :=
  (s.groupElems g).flatMap (fun p => p.2.chans.filterMap (fun c =>
    match c.2.q with
    | [] => none
    | q :: _ => if p.2.depth c.1 ≤ c.2.q.length then some (q.came, p.1, c.1) else none))

/-- The full channel whose head has been present longest; the first of the list among equals (R160). -/
def longestFull : List (Nat × Nat × Nat) → Option (Nat × Nat × Nat)
  | [] => none
  | x :: xs => some (xs.foldl (fun b y => if y.1 < b.1 then y else b) x)

/-- AUX of a GROUP_STALL record (R303). -/
def State.stallAux (s : State) (g : Group) : Word :=
  match longestFull (s.fullChans g) with
  | some (_, ea, ch) => BitVec.ofNat 64 (ea + ch * 2 ^ 16 + 2 ^ 31)
  | none => 0

/-- A request of the group waits at its endpoint for an order token (R232). -/
def State.waitsToken (s : State) (gn : Nat) : Bool :=
  s.agenda.any (fun x => match x.instr with
    | .requestPerform r => r.grp == gn && r.ord && r.stage == 0 && r.who == .firing && (s.tokenFor r).isNone
    | _ => false) || s.remotes.any (fun q => q.r.grp == gn && q.r.ord && (s.tokenFor q.r).isNone)

/-- A slot waits for the op-specific condition of its opcode alone, of those that `p` names. -/
def State.waitsOp (s : State) (ea : Nat) (p : Nat → Bool) : Bool :=
  (s.elem ea).ctxNos.any (fun c =>
    (s.eligSlots ea c { Ask.all with op := false }).any (fun x => p x.2.op && !s.slotElig ⟨ea, c, x.1⟩ x.2 .all))

/-- A redc stands before a word ahead of its window (R200). -/
def redcBlocked (e : Elem) : Bool :=
  match e.su with
  | some u => u.op == 0xB1 && u.phase == .run && redcSeq u.lit &&
      (match suHead e (suIn0 u.lit) with
       | some w => redcIdx u.lit w.tag ≥ u.next + 16 && redcIdx u.lit w.tag < redcN u.lit
       | none => false)
  | none => false

/-- DETAIL of a GROUP_STALL record (R303). -/
def State.stallDetail (s : State) (gn : Nat) : Nat :=
  let g := s.group gn
  let es := s.groupElems g
  let bar := s.hubs.any (fun h => g.covers h.1 && h.2.bars.any (fun b => b.2.st == .armed && (b.2.count > 0 || b.2.held)))
  let bits := [!(s.fullChans g).isEmpty, bar, g.pools.any (fun p => !p.2.waiting.isEmpty), s.waitsToken gn,
    es.any (fun p => s.waitsOp p.1 (fun op => op == 0xA9)), es.any (fun p => redcBlocked p.2),
    es.any (fun p => s.waitsOp p.1 (fun op => op == 0xA3 || op == 0xC0 || op == 0xC1 || op == 0xC2))]
  bits.zipIdx.foldl (fun n b => if b.1 then n + 2 ^ b.2 else n) 0

/-- R302, R303: the counter has reached WLIM; the origin hub raises GROUP_STALL. -/
def execGroupStall (gn : Nat) (s : State) : Out1 := .next <|
  let g := s.group gn
  if g.st != .live then s
  else s.raiseGroup gn g.origin g.origin 0x42 (s.stallDetail gn) (s.stallAux g)

/-! ## The bound of pre-emption (R307) -/

/-- A generator that still has work: it runs, or a request of it is outstanding. -/
def Gen.unfinished (g : Gen) : Bool := g.st == .running || !g.fly.isEmpty

/-- A row of a queue whose read is outstanding. -/
def MeQueue.reading (q : MeQueue) : Bool := q.rows.any (fun r => r.parts.length < r.need)

/-- The ME is quiescent (R223). -/
def Me.quiet (m : Me) : Bool := !m.inFlight && !m.loading && !m.aq.reading && !m.cq.reading && m.note.isNone

/-- The stream unit is idle, or waits on empty inputs with nothing left to send (R194). -/
def Elem.suQuiet (e : Elem) : Bool :=
  match e.su with
  | some u => suWaits e u
  | none => true

/-- An engine of the element has not finished. -/
def State.engineBusy (s : State) (ea : Nat) : Bool :=
  let e := s.elem ea
  e.gens.any (fun g => g.2.unfinished) || !e.suQuiet || !e.me.quiet || !e.table.isEmpty || !e.tabWait.isEmpty ||
    (s.hub (tileOf ea)).flows.any (fun f => f.2.st == .active && f.2.c.ea == ea)

/-- The lowest element of a group that holds an eligible slot or an unfinished engine. -/
def State.lowestBusy (s : State) (g : Group) : Nat :=
  (((s.groupElems g).find? (fun p => s.anyEligible p.1 .all || s.engineBusy p.1)).map (·.1)).getD 0

/-- The bound of a group's pre-emption is reached, also while the request waits for a splice (R307, R295). -/
def Group.preemptDue (g : Group) (now : Nat) : Bool :=
  (g.st == .draining || (g.st == .live && g.armed)) &&
    match g.preq with
    | some q => q.start + g.plim * 65536 ≤ now
    | none => false

/-- PREEMPT_TIMEOUT of one group: hard fences it, soft makes it LIVE again. -/
def State.preemptTimeout (s : State) (gn : Nat) : State :=
  let g := s.group gn
  let hard := (g.preq.map (·.hard)).getD false
  let ea := s.lowestBusy g
  let s := s.raiseRec gn g.origin ea none none 0x43 true hard (if hard then 1 else 0) (BitVec.ofNat 64 ea)
  if hard then s else s.liveAgain gn

/-- R307. -/
def execPreemptTimeout (s : State) : Out1 :=
  .next ((s.groups.filter (fun g => g.2.preemptDue s.now)).foldl (fun s g => s.preemptTimeout g.1) s)

end Sys2Proof.Machine
end

