-- ==== Sys2Proof/Machine/Fault.lean ====
section
/-! DEFINITION. Faults and service (chapter 18): the instructions trap, brk and svc (R414 to R416), the way of a record from its
hub to a crest core (R406, R407), fences (R403), machine checks, scrubs (R410, R411), and which crest cores are available (R14). -/

namespace Sys2Proof

/-- A halt notice (R106, R412). -/
def FRec.isHalt (r : FRec) : Bool := r.code == 0 && r.detail == 1

end Sys2Proof

namespace Sys2Proof.Machine

/-! ## trap, brk, svc -/

/-- R414. -/
def execTrap (f : SlotF) (s : State) : Out1 := .next <|
  match s.cur with
  | none => s
  | some cu => s.raiseSync cu 0x70 0 f.lit

/-- R415: without BRKEN, or with SKIPBRK, the pops alone; else the context halts, a BREAK record is written, and the group is
fenced. -/
def execBrk (f : SlotF) (s : State) : Out1 :=
  .next (s.fireWith f (fun cu _ _ s =>
    if !ecwBrken (s.elem cu.ea).work.ecw || (s.ctx cu.ea cu.ctx).skipbrk then
      s.modCtx cu.ea cu.ctx (fun c => { c with skipbrk := false })
    else
      (s.modCtx cu.ea cu.ctx (fun c => { c with st := .halted })).raiseRec (s.groupNo cu.ea) cu.ea cu.ea (some cu.ctx)
        (some cu.slot) 0x71 false true 0 f.lit))

/-- SERVICE and RREG of an svc literal (R416). -/
def svcNum (lit : Word) : Nat := lit.toNat % 2 ^ 16
def svcReg (lit : Word) : Nat := lit.toNat / 2 ^ 16 % 16

/-- R416: the reply register is marked pending, and a notice is posted. -/
def execSvc (f : SlotF) (s : State) : Out1 := .next <|
  match s.cur with
  | none => s
  | some cu =>
    match s.operandFault cu f with
    | some s' => s'
    | none =>
      if f.lit >>> 20 != 0 then s.raiseSync cu 0x01 0 f.lit
      else s.fireWith f (fun cu x _ s =>
        let s := s.markPending cu (some (svcReg f.lit)) 0
        let s := s.modCtx cu.ea cu.ctx (fun c => { c with svc := some ⟨svcReg f.lit, svcNum f.lit, x.a⟩ })
        s.raiseRec (s.groupNo cu.ea) cu.ea cu.ea (some cu.ctx) (some cu.slot) 0 false false (2 + svcNum f.lit * 2 ^ 16) x.a)

/-- The reply of an svc lands; its mark and SVCP end (R416). -/
def Ctx.answered (c : Ctx) (v : Svc) (x : Word) : Ctx :=
  { c.setReg v.reg x with svc := none, pendReg := c.pendReg &&& ~~~(BitVec.ofNat 16 (2 ^ v.reg)) }

/-- R416. -/
def execSvcReplyDelivery (ea ctx : Nat) (value : Word) (s : State) : Out1 := .next <|
  match (s.ctx ea ctx).svc with
  | none => s
  | some v => s.modCtx ea ctx (fun c => c.answered v value)

/-! ## Fences (R403) -/

/-- R403: from now on no element of the tile fires while the group is FENCED. -/
def execFenceArrival (gn tile : Nat) (s : State) : Out1 :=
  .next (if (s.group gn).st == .fenced && (s.group gn).covers tile then
      s.modGroup gn (fun g => { g with fencedTiles := nadd tile g.fencedTiles })
    else s)

/-! ## Records (R406, R407, R412) -/

/-- The 32 bytes of a record (Table 18-1). -/
def recBytes (r : FRec) : List Byte :=
  let bit (b : Bool) (n : Nat) : Nat := if b then n else 0
  [r.code, BitVec.ofNat 8 (bit r.async 1 + bit r.fence 2 + bit r.ctxv 4 + bit r.slotv 8)] ++ leBytes 2 r.ea.toNat ++
    [r.ctx.setWidth 8, r.slot.setWidth 8] ++ leBytes 2 r.grp.toNat ++ leBytes 2 r.dom.toNat ++ leBytes 2 r.seq.toNat ++
    leBytes 4 r.detail.toNat ++ leBytes 8 r.aux.toNat ++ leBytes 8 r.cycle.toNat

/-- The message that tells the control node of a record, none for an svc (Table 17-6). -/
def recMsg (k : Nat) (r : FRec) : Option Msg :=
  if r.code != 0 then some ⟨0x81, coreField k, 0, 0, r.dom, r.grp, 0, 0, recBytes r⟩
  else if r.isHalt then
    some ⟨0x83, coreField k, 0, 0, r.dom, r.grp, r.ea.setWidth 32, BitVec.ofNat 64 (r.ctx.toNat + 256 * r.slot.toNat), []⟩
  else none

/-- A record enters the event queue of a crest core (R412). -/
def State.queueRec (s : State) (k : Nat) (r : FRec) : State :=
  let s := s.modCore k (fun c => { c with evq := c.evq ++ [{ r with stage := 0 }] })
  match recMsg k r with
  | some m => s.sendMsg k m
  | none => s

/-- A record is held by the origin hub, which decides its SEQ (R406). -/
def State.holdRec (s : State) (r : FRec) : State :=
  let gn := r.grp.toNat
  let g := s.group gn
  let r := { r with seq := BitVec.ofNat 16 g.seq, stage := 1 }
  let pnp := if r.code == 0x11 && r.key != 0 then g.pnp ++ [(g.seq % 65536, r.key)] else g.pnp
  ((s.setGroup gn { g with seq := g.seq + 1, pnp := pnp }).modHub r.hub (fun h => { h with recs := h.recs ++ [r] })).after 16
    (.faultRecordArrival r)

/-- Records of a hub whose 16 fc are over enter the queues of their servicing cores, each group's in their order, as far as a queue
has room; what stays with the hub is the second part of the answer (R406). -/
def State.passRecs (s : State) (tile : Nat) (stay : List FRec) : List FRec → State × List FRec
  | [] => (s, stay)
  | r :: rs =>
    match s.servicer r.grp.toNat tile with
    | some k =>
      if r.stage == 2 && !stay.any (fun x => x.grp == r.grp) && (s.core k).evq.length < Config.logEntries then
        (s.queueRec k r).passRecs tile stay rs
      else s.passRecs tile (stay ++ [r]) rs
    | none => s.passRecs tile (stay ++ [r]) rs

/-- Records that have left make room for those that wait at their agents (R407). -/
def State.flushHub (s : State) (tile : Nat) : State :=
  let (s, stay) := s.passRecs tile [] (s.hub tile).recs
  let n := Config.hubRecords - stay.length
  let wait := (s.hub tile).recWait
  (wait.take n).foldl State.holdRec (s.modHub tile (fun h => { h with recs := stay, recWait := wait.drop n }))

/-- Every hub whose records may now enter a queue. -/
def State.flushHubs (s : State) : State :=
  s.hubs.foldl (fun s h => if h.2.recs.isEmpty then s else s.flushHub h.1) s

/-- A record is counted in LOST of the servicing core's FQSTAT. -/
def State.loseRec (s : State) (r : FRec) : State :=
  s.modCore (s.noticeCore r.grp.toNat r.hub) (fun c => { c with lost := c.lost + 1 })

/-- The CODE of the first fault of the group (R406). -/
def Group.noteFault (g : Group) (r : FRec) : Group :=
  if r.code == 0 || g.st == .free then g else { g with firstFault := g.firstFault.orElse (fun _ => some r.code.toNat) }

/-- Whether a record is the one that fenced its group: the first of the fencing faults to reach the origin hub (R406). -/
def Group.fencedBy (g : Group) (r : FRec) : Bool := r.fenceNo != 0 && !nmem r.fenceNo g.told

/-- R406, R407: a record reaches its origin hub, which decides FENCE, and 16 fc later may enter the queue of the servicing core. -/
def execFaultRecordArrival (r : FRec) (s : State) : Out1 := .next <|
  let gn := r.grp.toNat
  if r.stage == 0 then
    let r := { r with fence := (s.group gn).fencedBy r }
    let s := s.modGroup gn (fun g => { g.noteFault r with told := if r.fence then nadd r.fenceNo g.told else g.told })
    if (s.hub r.hub).recs.length < Config.hubRecords then s.holdRec r
    else if (s.group gn).st == .fenced && !recEssential r then s.loseRec r
    else s.modHub r.hub (fun h => { h with recWait := h.recWait ++ [r] })
  else
    (s.modHub r.hub (fun h => { h with recs := h.recs.map (fun x => if x == r then { x with stage := 2 } else x) })).flushHub r.hub

/-! ## Crest cores (R14, R412, Table 18-4) -/

/-- The head record of a crest core's event queue is removed; records that wait at hubs move up. -/
def execEventQueuePop (die core : Nat) (s : State) : Out1 :=
  .next ((s.modCore (coreId die core) (fun c => { c with evq := c.evq.tail })).flushHubs)

/-- R14: a crest core is held or halted, or is available again; waiting records and notices go on. -/
def execCrestCoreAvailability (die core : Nat) (available : Bool) (s : State) : Out1 :=
  .next (((s.modCore (coreId die core) (fun c => { c with off := !available })).flushHubs).flushNotices.flushCores)

/-! ## Machine checks and scrubs (R410, R411) -/

/-- Every group with a tile on a die is fenced, with its own record (R408, scope Die). -/
def State.dieCheck (s : State) (array entry ea : Nat) : State :=
  (s.groups.filter (fun g => g.2.holdsTiles && g.2.tiles.any (fun t => eaDie t == eaDie ea))).foldl (fun s g =>
    s.raiseRec g.1 ea ea none none 0x7F true true array (BitVec.ofNat 64 entry)) s

/-- A parity error in protected state (R411): a translation cache discards the entry, any other state of a group raises
MACHINE_CHECK, and a die's own state fences every group on it; an error on a link is logged alone. Array 10 names the stack in the low bits of `ea`; its entries are those of
the Cairn engine's cache, then those of the Scree unit's (log 35). -/
def State.parityError (s : State) (array entry ea : Nat) (dieScope inj : Bool) : State :=
  let loc := BitVec.ofNat 64 entry
  if array == 10 && !dieScope then
    s.cacheError (ea % 16) entry inj
  else
    let s := s.logTile ea array 2 inj loc
    if dieScope then s.dieCheck array entry ea
    else if array == 11 then s
    else if array == 7 then
      let x := tget .zero (tileOf ea) s.slices
      { s with slices := tput .zero (tileOf ea) { x with ents := dropAt entry x.ents } s.slices }
    else match s.groupAt ea with
      | some gn => s.raiseGroup gn ea ea 0x7F array loc
      | none => s

/-- R411. -/
def execMachineCheck (array entry ea : Nat) (dieScope : Bool) (s : State) : Out1 :=
  .next (s.parityError array entry ea dieScope false)

/-- R410: one unit is read and rewritten in a service of its home; a correctable error is corrected, an uncorrectable one poisons it.
The service releases what its unit permits (R354). -/
def execScrub (unit : Nat) (correctable uncorrectable : Bool) (s : State) : Out1 := .next <|
  let a := 8 * unit
  let s := s.touch a
  let s := if uncorrectable then (s.setPoison unit true).logUnit a 1 false
    else if correctable then s.logUnit a 0 false
    else s
  s.feSettle a 1

/-- An injection armed for an array of an element or hub takes effect at an access to `entry` as a parity error (R417). -/
def State.injected (s : State) (array ea entry : Nat) : Option State :=
  match s.takeInj array ea with
  | (some _, s) => some (s.parityError array entry ea (array == 5) true)
  | (none, _) => none

end Sys2Proof.Machine
end

