-- ==== Sys2Proof/Machine/Summit.lean ====
section
/-! DEFINITION. Bring-up, management and attestation (chapter 19): the stages of Table 19-1, firmware (R420, R431), the commands
of Table 19-3, telemetry and throttling (R424, R425), Tor mailboxes and parts out of service (R434, R435). -/

namespace Sys2Proof.Machine

def State.modSummit (s : State) (f : Summit → Summit) : State := { s with summit := f s.summit }
def State.mbox (s : State) (k : Nat) : MBox := tget .zero k s.mboxes
def State.modMbox (s : State) (k : Nat) (f : MBox → MBox) : State := { s with mboxes := tput .zero k (f (s.mbox k)) s.mboxes }

/-! ## Firmware images (R420) -/

/-- Fields of the header of a firmware image, whose widths the manual leaves open (log 50). -/
def fwComponent (b : List Byte) : Nat := fld b 0 4
def fwVersion (b : List Byte) : Nat := fld b 4 4
def fwLength (b : List Byte) : Nat := fld b 8 8

/-- An image of a component is accepted: its header is sound, its signature verifies, its VERSION is not below the rollback
counter. -/
def fwAccepted (b : List Byte) (component rollback : Nat) : Bool :=
  let n := b.length - 64
  b.length ≥ 128 && fwComponent b == component && fld b 16 48 == 0 && b.length == 128 + fwLength b &&
    edVerify Config.vendorKey (sha512 (b.take n)) (b.drop n) && rollback ≤ fwVersion b

/-- The image in the active bank of a component: what FW_UPDATE wrote, or the one that `given` says manufacture left. -/
def Summit.image (m : Summit) (c : Nat) (given : List Byte) : List Byte :=
  (tfind (2 * c + tget 0 c m.active % 2) m.banks).getD given

/-- A measurement register extended by an image (R419). -/
def extend (mb b : List Byte) : List Byte := sha512 (mb ++ sha512 b)

/-- An image of a component has booted: its rollback counter follows its VERSION. -/
def Summit.booted (m : Summit) (c : Nat) (b : List Byte) : Summit :=
  { m with rollback := tput 0 c (max (tget 0 c m.rollback) (fwVersion b)) m.rollback }

/-! ## Reset and bring-up (R418, Table 19-1) -/

/-- Banks at a reset: a new image becomes the active one. -/
def activeAfter (v : Nat) : Nat := if v / 2 % 2 == 1 then 1 - v % 2 else v % 2

/-- The summit controller after a reset: its one-time store, its key table, its banks and its counters stay, and the commands of Borelle
that wait; those of mailboxes are discarded (R423). -/
def Summit.afterReset (m : Summit) (now : Nat) : Summit :=
  { Summit.zero with
    since := now, store := m.store, keys := m.keys, owner := m.owner, ownerCnt := m.ownerCnt, keyCnt := m.keyCnt, banks := m.banks
    active := tmap 0 (fun _ v => activeAfter v) m.active, rollback := m.rollback, borelle := m.borelle, inbox := m.inbox
    waiting := m.waiting.filter (fun x => x.cmd.mailbox.isNone), sampled := now }

/-- A byte of HBM or of a capacity stack. -/
def inStacks (a : Nat) : Bool := regionOf a == .hbm || regionOf a == .capacity

/-- The machine after a module reset (R418, log 51): bring-up stage 1; HBM and capacity bytes stay, unless power was lost. -/
def State.moduleReset (s : State) (cold : Bool) : State :=
  { State.reset with
    now := s.now, free := s.free, serial := s.serial, sent := s.sent
    mem := if cold then [] else s.mem.filter (fun c => inStacks c.1)
    poison := if cold then [] else s.poison.filter (fun u => inStacks (8 * u))
    summit := s.summit.afterReset s.now }

/-- R418. -/
def execPowerOn (s : State) : Out1 := .next (s.moduleReset true)

/-- A stage begins. -/
def State.stage (s : State) (n : Nat) : State := s.modSummit (fun m => { m with stage := n, since := s.now })

/-- Verification failed: the module stays in recovery. -/
def State.recover (s : State) : State := s.modSummit (fun m => { m with recovery := true })

/-- The stacks of a die are READY. -/
def State.dieReady (s : State) (d : Nat) : Bool :=
  [2 * d, 2 * d + 1].all (fun k => (s.base k).tstat == 1 && !(s.base k).dead)

/-- The fabric resets of the dies whose stacks are READY are released; their counters start (R24). -/
def State.releaseDies (s : State) : State :=
  (List.range Config.dies).foldl (fun s d => if s.dieReady d then s.modDie d (fun x => { x with released := some s.now }) else s) s

/-- SE and tile-store units read 0 (Table 19-1, stage 5). -/
def State.clearWindows (s : State) : State :=
  { s with mem := s.mem.filter (fun c => regionOf c.1 != .window), poison := s.poison.filter (fun u => regionOf (8 * u) != .window) }

/-- Two seconds in fc (Table 19-1), ten in R431. -/
abbrev twoSeconds : Nat := 2000 * Config.msFc
abbrev tenSeconds : Nat := 10000 * Config.msFc

/-- Every stack has posted READY. -/
def State.stacksReady (s : State) : Bool := (List.range Config.hbmStacks).all (fun k => (s.base k).tstat == 1)

/-- Table 19-1: the stage in progress ends. `image` is the firmware that manufacture left in the bank that the stage verifies. -/
def execBringupStageEnd (image : List Byte) (s : State) : Out1 := .next <|
  let m := s.summit
  let boot (c : Nat) (k : State → List Byte → State) : State :=
    let b := m.image c image
    if fwAccepted b c (tget 0 c m.rollback) then k (s.modSummit (fun m => m.booted c b)) b else s.recover
  if m.recovery || m.hot then s
  else match m.stage with
  | 1 => boot 0 (fun s b => (s.modSummit (fun m => { m with mb0 := extend m.mb0 b })).stage 2)
  | 2 => boot 1 (fun s b =>
      ((s.modSummit (fun m => { m with mb1 := extend m.mb1 b })).stage 3).after twoSeconds .stackReadyTimeout)
  | 3 => if s.stacksReady then s.stage 4 else s
  | 4 => boot 2 (fun s b =>
      (({ s with module := s.summit.store }.modSummit (fun m => { m with mb2 := extend m.mb2 b })).releaseDies).stage 5)
  | 5 =>
    match execLinkEnable sniqua s.clearWindows with
    | .next s => s.stage 6
    | _ => s
  | _ => s

/-- R434: a Tor core posts READY or FAILED at the end of stage 3, with the version of its firmware. -/
def execTorReady (stack : Nat) (ok capok : Bool) (version : BitVec 32) (s : State) : Out1 :=
  .next (if s.summit.stage == 3 && stack < Config.hbmStacks then
      s.modBase stack (fun b => { b with tstat := if ok then 1 else 2, capok := capok, tver := b.tver.extractLsb' 32 32 ++ version })
    else s)

/-- A stack that is not READY is out of service: all its ports are offline (R435). -/
def State.stackDead (s : State) (k : Nat) : State :=
  if (s.base k).tstat == 1 then s else s.modBase k (fun b => { b with dead := true, off := BitVec.allOnes 32 })

/-- Table 19-1: 2 s after stage 3 began. -/
def execStackReadyTimeout (s : State) : Out1 :=
  .next (if s.summit.stage == 3 && s.summit.since + twoSeconds ≤ s.now then
      ((List.range Config.hbmStacks).foldl State.stackDead s).stage 4
    else s)

/-- Deferred requests at a port that goes offline end with PORT_SELECT: they are not performed (R409; DEDUCED, log 85). -/
def State.dropDeferred (s : State) (stack port : Nat) : State :=
  let mine (r : MReq) : Bool := bankOf (r.pa % 2 ^ 44) == 2 ^ 25 + stack * 32 + port
  (s.defers.filter mine).foldl (fun s r => s.failReq r r.ea 0x03 port) { s with defers := s.defers.filter (fun r => !mine r) }

/-- R409, R434: a Tor core takes a port offline and logs it (log 52). -/
def execPortOffline (stack port : Nat) (s : State) : Out1 :=
  .next (if stack < Config.hbmStacks && port < 32 && !(s.base stack).off.getLsbD port then
      ((s.modBase stack (fun b => { b with off := b.off ||| BitVec.ofNat 32 (2 ^ port) })).logBase stack 8 1 false (BitVec.ofNat 64 port)).dropDeferred stack port
    else s)

/-! ## Telemetry and throttling (R424, R425, R430) -/

/-- STATE of LNKCTL (Table 17-3). -/
def lkCode : LkSt → Nat
  | .down => 0
  | .training => 1
  | .up => 2
  | .degraded => 3
  | .fenced => 4

/-- A telemetry byte of a link (Table 19-8). -/
def State.linkByte (s : State) (l : Nat) : Byte := BitVec.ofNat 8 (lkCode (s.xlink l).st + 8 * (s.xlink l).lanes)

/-- A reading, or 0x8000. -/
def reading (l : List (BitVec 16)) (i : Nat) : Nat := ((l[i]?).map (·.toNat)).getD 0x8000

/-- Bits as a number. -/
def bitsNat (n : Nat) (p : Nat → Bool) : Nat := (List.range n).foldl (fun a i => if p i then a + 2 ^ i else a) 0

/-- The effective power cap (R423). -/
def Summit.cap (m : Summit) : Nat := min m.capB m.capM

/-- A telemetry frame (Table 19-8). -/
def State.frameOf (s : State) (x : Sensors) (seq : Nat) : List Byte :=
  let m := s.summit
  leBytes 4 seq ++ leBytes 2 m.fclk ++ leBytes 2 m.cap ++ leBytes 2 x.power.toNat ++ leBytes 2 x.inlet.toNat ++
    leBytes 1 (bitsNat 8 (fun d => !s.dieUp d)) ++ [0] ++ leBytes 2 (bitsNat 16 (fun k => (s.base k).tstat == 1)) ++
    (List.range 8).flatMap (fun d => leBytes 2 (reading x.tdie d)) ++
    (List.range 16).flatMap (fun k => leBytes 2 (if (s.base k).dead then 0x8000 else reading x.tstack k)) ++
    (List.range 8).flatMap (fun i => leBytes 2 (if i ≥ 6 then 0 else reading x.rail i)) ++
    (List.range 32).map s.linkByte ++ [s.linkByte sniqua, 0, 0, 0] ++ leBytes 4 Config.enterprise.toNat ++
    leBytes 4 (min m.throt (2 ^ 32 - 1)) ++ leBytes 4 0

/-- An event that goes on while the fabric is held in reset: a fault record on its way, a bound of the summit controller. -/
def outlivesHold (i : Instr) : Bool :=
  match i with
  | .faultRecordArrival _ | .fwTransferTimeout => true
  | _ => false

/-- Heat: MACHINE_CHECK of scope Die on every die, and the fabric is held in reset until the next RESET (R425, log 53). -/
def State.holdFabric (s : State) : State :=
  let s := (List.range Config.dies).foldl (fun s d => s.dieCheck 0 0 (2048 * d)) s
  { s with
    agenda := s.agenda.filter (fun x => outlivesHold x.instr), chosen := [], cur := none
    dies := tmap .zero (fun _ (d : Die) => { d with released := none }) s.dies
    summit := { s.summit with hot := true } }

end Sys2Proof.Machine

namespace Sys2Proof

/-- A junction above a temperature in 0.1 °C. -/
def Sensors.above (x : Sensors) (t : Int) : Bool := (x.tdie ++ x.tstack).any (fun v => v.toInt > t)

end Sys2Proof

namespace Sys2Proof.Machine

/-- R425: every 10 ms the clock goes down a step while the power exceeds the cap or a junction 105 °C, and up a step otherwise. -/
def execClockThrottle (power : BitVec 16) (hot : Bool) (s : State) : Out1 :=
  .next (s.modSummit (fun m =>
    if power.toNat > m.cap || hot then
      if m.fclk > 1000 then { m with fclk := m.fclk - 100, throt := m.throt + 1 } else m
    else if m.fclk < 1900 then { m with fclk := m.fclk + 100 }
    else m))

/-- What the sensors read at the n-th sample (log 11). -/
def sensorsAt (n : Nat) : Sensors :=
  let many (k m : Nat) : List (BitVec 16) := (List.range m).map (fun i => Config.sensor n (k + i))
  ⟨Config.sensor n 0, Config.sensor n 1, many 2 8, many 10 16, many 26 8⟩

/-- The mean power of a window of samples, rounded up: it exceeds a cap where the sum exceeds that of the caps. -/
def windowPower (l : List Nat) : Nat := (l.foldl (· + ·) 0 + (l.length - 1)) / l.length

/-- R424, R425: every 1 ms a frame; every tenth sample ends a window of 10 ms. -/
def execTelemetrySample (x : Sensors) (s : State) : Out1 :=
  let n := s.summit.seq + 1
  let w := (x.power.toNat :: s.summit.window).take 10
  let s := s.modSummit (fun m => { m with seq := n, frame := s.frameOf x n, sampled := s.now, window := w })
  let s := if x.above 1150 && !s.summit.hot then s.holdFabric else s
  if n % 10 == 0 then execClockThrottle (BitVec.ofNat 16 (windowPower w)) (x.above 1050) s else .next s

/-! ## Commands (R422, R428, R429) -/

abbrev mgOk : Nat := 0
abbrev mgBusy : Nat := 1
abbrev mgBadArg : Nat := 2
abbrev mgAuth : Nat := 3
abbrev mgPriv : Nat := 4
abbrev mgRange : Nat := 5
abbrev mgSequence : Nat := 6
abbrev mgUnknown : Nat := 0xFF

/-- Bytes as words of a buffer, from offset 0. -/
def bufPut (buf : Map Word) (b : List Byte) : Map Word :=
  (List.range ((b.length + 7) / 8)).foldl (fun m i => tput 0 i (BitVec.ofNat 64 (leNat ((b.drop (8 * i)).take 8))) m) buf

/-- How a Borelle message begins: its MCTP type, and the vendor header with the enterprise number (R428, log 82). -/
def borelleHead : List Byte := 0x7F :: (leBytes 4 Config.enterprise.toNat).reverse

/-- The Borelle message that replies to a command (R428). -/
def borelleReply (m : Mgmt) (status : Nat) (data : List Byte) : List Byte :=
  borelleHead ++ [m.code ||| 0x80, BitVec.ofNat 8 status] ++ leBytes 2 m.tag.toNat ++ leBytes 4 data.length ++ data

/-- A reply goes to the source of the command; in a mailbox, BUSY is cleared (R422, R428). -/
def State.mgReply (s : State) (m : Mgmt) (status : Nat) (data : List Byte) : State :=
  match m.mailbox with
  | some k => s.modMbox k (fun b => { b with stat := status, busy := false, len := data.length, buf := bufPut b.buf data })
  | none => s.modSummit (fun x => { x with borelle := x.borelle ++ [borelleReply m status data] })

/-- The outcome of a command: its STATUS, its data, the state after. -/
abbrev MgOut := Nat × List Byte × State

/-- A command is judged by its source, then acts by `f` (Table 19-3, R422, Table 19-1). -/
def State.mgmt (s : State) (m : Mgmt) (borelleOnly inRecovery : Bool) (f : State → MgOut) : State :=
  if m.mailbox.any (fun k => (s.base k).tstat != 1) then s
  else
    let r : MgOut :=
      if s.summit.recovery && !inRecovery then (mgPriv, [], s)
      else if m.mailbox.isSome && borelleOnly then (mgPriv, [], s)
      else if m.rsv != 0 || (m.mailbox.isSome && m.data.length > 512) then (mgBadArg, [], s)
      else f s
    r.2.2.mgReply m r.1 r.2.1

/-- Arguments and data of fixed sizes. -/
def argsOk (m : Mgmt) (n : Nat) : Bool := m.arg0 == 0 && m.arg1 == 0 && m.data.length == n

/-- R424, R430. -/
def execTelem (m : Mgmt) (s : State) : Out1 :=
  .next (s.mgmt m false true (fun s =>
    if argsOk m 0 then (mgOk, if s.summit.frame.isEmpty then List.replicate 128 0 else s.summit.frame, s) else (mgBadArg, [], s)))

/-- R423, Table 19-3. -/
def execPowerCap (m : Mgmt) (s : State) : Out1 :=
  .next (s.mgmt m false false (fun s =>
    let w := m.arg0.toNat
    if w < 1000 || w > 4400 || m.arg1 != 0 || !m.data.isEmpty then (mgBadArg, [], s)
    else (mgOk, [], s.modSummit (fun x => if m.mailbox.isSome then { x with capM := w } else { x with capB := w }))))

/-- The image of a transfer is complete: it is verified and takes the inactive bank (R420, R431). -/
def State.fwFinish (s : State) (b : List Byte) : MgOut :=
  let c := fwComponent b
  let m := s.summit
  if c ≤ 2 && fwAccepted b c (tget 0 c m.rollback) then
    let a := tget 0 c m.active % 2
    (mgOk, [], s.modSummit (fun m => { m with fw := none, banks := tput [] (2 * c + (1 - a)) b m.banks, active := tput 0 c (a + 2) m.active }))
  else (mgAuth, [], s.modSummit (fun m => { m with fw := none }))

/-- A chunk is accepted. -/
def State.fwChunk (s : State) (x : FwXfer) (d : List Byte) : MgOut :=
  let b := x.data ++ d
  if b.length == x.total then s.fwFinish b
  else (mgOk, [], (s.modSummit (fun m => { m with fw := some ⟨b, x.total, s.now⟩ })).after tenSeconds .fwTransferTimeout)

/-- R431. -/
def execFwUpdate (m : Mgmt) (s : State) : Out1 :=
  .next (s.mgmt m true true (fun s =>
    let off := m.arg0.toNat
    let total := m.arg1.toNat
    if m.data.isEmpty || m.data.length > 4096 || off + m.data.length > total then (mgBadArg, [], s)
    else match s.summit.fw with
    | some x =>
      if off == 0 then (mgBusy, [], s)
      else if total != x.total then (mgBadArg, [], s)
      else if off != x.data.length then (mgSequence, [], s.modSummit (fun m => { m with fw := none }))
      else s.fwChunk x m.data
    | none =>
      if off != 0 then (mgSequence, [], s)
      else if m.data.length < 16 || total != 128 + fwLength m.data then (mgBadArg, [], s)
      else s.fwChunk ⟨[], total, s.now⟩ m.data))

/-- R431: a transfer with no chunk for 10 s is abandoned. -/
def execFwTransferTimeout (s : State) : Out1 :=
  .next (s.modSummit (fun m => match m.fw with
    | some x => if x.last + tenSeconds ≤ s.now then { m with fw := none } else m
    | none => m))

/-- The 32 bytes of a log entry (Table 18-3). -/
def logBytes (x : LogEnt) : List Byte :=
  leBytes 8 (x.array + x.type * 2 ^ 8 + (if x.inj then 2 ^ 16 else 0) + x.ea % 2 ^ 14 * 2 ^ 32) ++ leBytes 8 x.loc.toNat ++
    leBytes 8 x.cycle.toNat ++ leBytes 8 0

/-- The log that a LOG_READ names (R433): none where the selector is outside its fields; no log where it is out of service. -/
def State.logOf (s : State) (sel : Nat) : Option (Option ErrLog) :=
  let d := sel / 256 % 256
  let t := sel / 65536 % 256
  if sel / 2 ^ 24 != 0 then none
  else match sel % 256 with
  | 0 =>
    if d > 7 || t > 31 then none
    else some (if s.dieUp d then some (s.hub (tileOfIndex (32 * d + t))).log else none)
  | 1 => if d > 7 || t != 0 then none else some (if s.dieUp d then some (s.die d).log else none)
  | 2 => if d > 15 || t != 0 then none else some (if (s.base d).dead then none else some (s.base d).log)
  | _ => none

/-- R433. -/
def execLogRead (m : Mgmt) (s : State) : Out1 :=
  .next (s.mgmt m false true (fun s =>
    if !m.data.isEmpty then (mgBadArg, [], s)
    else match s.logOf m.arg0.toNat with
    | none => (mgBadArg, [], s)
    | some none => (mgRange, [], s)
    | some (some l) =>
      match l.ents[m.arg1.toNat]? with
      | some x => (mgOk, logBytes x, s)
      | none => (mgRange, [], s)))

/-- The kernel that was RUNNING: the successor of a splice from its first swap on, also in a FENCED group (R426). -/
def Group.running (g : Group) : Kern :=
  if g.succ.st == .running || (g.succ.st == .faulted && g.succ.prev == .running) then g.succ else g.kern

/-- The quote without its signature (Tables 19-4, 19-5). -/
def State.quote (s : State) (nonce : List Byte) (gn : Nat) : List Byte :=
  let g := s.group gn
  let named := gn != 0xFFFF && (g.st == .live || g.st == .draining || g.st == .quiescent || g.st == .fenced)
  let k := g.running
  let img := if named then (k.meas ++ List.replicate 64 0).take 64 else zero64
  let m := s.summit
  nonce ++ leBytes 4 s.module ++ leBytes 2 gn ++ [BitVec.ofNat 8 (if named then k.key else 0)] ++ List.replicate 9 0 ++
    m.mb0 ++ m.mb1 ++ m.mb2 ++ img

/-- R426. -/
def execAttest (m : Mgmt) (s : State) : Out1 :=
  .next (s.mgmt m false false (fun s =>
    if m.arg0.toNat / 65536 != 0 || m.arg1 != 0 || m.data.length != 32 then (mgBadArg, [], s)
    else
      let q := s.quote m.data m.arg0.toNat
      (mgOk, q ++ edSign Config.identitySeed q, s)))

/-- The entry of a KEYSET (Table 19-2, R432); none where a reserved bit is set. -/
def keyEntry (b : List Byte) : Option KeyEnt :=
  if fld b 34 6 / 2 != 0 then none else some ⟨b.take 32, fld b 32 2, fld b 34 1 % 2 == 1⟩

/-- R421, R432. -/
def execKeyset (m : Mgmt) (s : State) : Out1 :=
  .next (s.mgmt m true false (fun s =>
    let d := m.data
    let i := fld d 0 1
    match argsOk m 120 && i ≤ 15 && fld d 1 7 == 0, keyEntry ((d.drop 8).take 40) with
    | true, some k =>
      (match s.summit.owner with
       | none => (mgAuth, [], s)
       | some o =>
         if edVerify o (d.take 56) (d.drop 56) && fld d 48 8 > s.summit.keyCnt then
           (mgOk, [], s.modSummit (fun x => { x with keys := tput .zero i k x.keys, keyCnt := fld d 48 8 }))
         else (mgAuth, [], s))
    | _, _ => (mgBadArg, [], s)))

/-- Table 19-3: effective at the next reset. -/
def execSetModule (m : Mgmt) (s : State) : Out1 :=
  .next (s.mgmt m true false (fun s =>
    if m.arg0.toNat > 786431 || m.arg1 != 0 || !m.data.isEmpty then (mgBadArg, [], s)
    else (mgOk, [], s.modSummit (fun x => { x with store := m.arg0.toNat }))))

/-- Table 19-3, R423: the reply is sent before the reset. -/
def execReset (m : Mgmt) (s : State) : Out1 :=
  .next (s.mgmt m true false (fun s => if argsOk m 0 then (mgOk, [], s.moduleReset false) else (mgBadArg, [], s)))

/-- R432. -/
def execOwnerSet (m : Mgmt) (s : State) : Out1 :=
  .next (s.mgmt m true false (fun s =>
    let d := m.data
    let c := fld d 32 8
    let store (s : State) : State := s.modSummit (fun x => { x with owner := some (d.take 32), ownerCnt := c })
    if !argsOk m 136 || fld d 40 32 != 0 then (mgBadArg, [], s)
    else match s.summit.owner with
    | none => if c ≥ 1 && fld d 72 64 == 0 then (mgOk, [], store s) else (mgAuth, [], s)
    | some o => if edVerify o (d.take 72) (d.drop 72) && c > s.summit.ownerCnt then (mgOk, [], store s) else (mgAuth, [], s)))

end Sys2Proof.Machine
end

