-- ==== Sys2Proof/Machine/Priv.lean ====
section
/-! DEFINITION. The privileged view (R413, Table 18-4): which register stands at an offset, who may reach it, what a read gives
and a write does; commands written to a port (R279); accesses of crest cores; Sniqua messages (R400, R401); flits received
(R391, R392). -/

namespace Sys2Proof.Machine

/-- The state of an outcome that goes on. -/
def outState (o : Out1) (s : State) : State :=
  match o with
  | .next s' => s'
  | _ => s

/-- The bits `[lo + n − 1 : lo]` of a number. -/
def bitsOf (v lo n : Nat) : Nat := v / 2 ^ lo % 2 ^ n

/-! ## Where the registers are (Table 18-4) -/

/-- A register of the privileged view. -/
inductive PReg
  | command (die port word : Nat)
  | queueStat (die core : Nat)
  | queuePop (die core : Nat)
  | queueHead (die core word : Nat)
  | qctl (queue : Nat)
  | qback (queue : Nat)
  | signal (n : Nat)
  | packet (die j word : Nat)
  | push (die j : Nat)
  | pushStat (die j : Nat)
  | tileLog (tile word : Nat)
  | barrier (tile n : Nat)
  | cctl (ea ctx : Nat)
  | svcArg (ea ctx : Nat)
  | svcReply (ea ctx : Nat)
  | chanData (ea ch : Nat)
  | chanTag (ea ch : Nat)
  | dieLog (die word : Nat)
  | groupCtl (grp : Nat)
  | gcmd (grp : Nat)
  | lnkctl (link : Nat)
  | route (n : Nat)
  | window (n word : Nat)
  | domSlot (n word : Nat)
  | resume
  | moduleNo
  | lsd
  | append (n word : Nat)
  | baseLog (stack word : Nat)
  | mailbox (stack word : Nat)
  | mailBuf (stack word : Nat)
  | torBox (stack word : Nat)
  | fullBits (stack word : Nat)
  | none
  deriving DecidableEq, Repr

/-- The registers of an element block. -/
def elemReg (ea o : Nat) : PReg :=
  if o < 0x80 then
    match o % 0x20 with
    | 0 => .cctl ea (o / 0x20)
    | 8 => .svcArg ea (o / 0x20)
    | 0x10 => .svcReply ea (o / 0x20)
    | _ => .none
  else if 0x100 ≤ o && o < 0x300 then
    if o % 16 == 0 then .chanData ea ((o - 0x100) / 16) else .chanTag ea ((o - 0x100) / 16)
  else .none

/-- The registers of a tile block. -/
def tileReg (tile o : Nat) : PReg :=
  if o < 0x1000 then .tileLog tile (o / 8)
  else if o < 0x1100 then .barrier tile ((o - 0x1000) / 8)
  else if 0x10000 ≤ o && o < 0x20000 then elemReg (tile + (o - 0x10000) / 0x400) (o % 0x400)
  else .none

/-- The registers of a die block. -/
def dieReg (d o : Nat) : PReg :=
  if o < 5 * 0x40 then .command d (o / 0x40) (o % 0x40 / 8)
  else if 0x10000 ≤ o && o < 0x14000 then
    let k := (o - 0x10000) / 0x1000
    match o % 0x1000 with
    | 0 => .queueStat d k
    | 8 => .queuePop d k
    | _ => if 0x20 ≤ o % 0x1000 && o % 0x1000 < 0x40 then .queueHead d k ((o % 0x1000 - 0x20) / 8) else .none
  else if 0x100000 ≤ o && o < 0x100200 then
    if o % 16 == 0 then .qctl (32 * d + (o - 0x100000) / 16) else .qback (32 * d + (o - 0x100000) / 16)
  else if 0x110000 ≤ o && o < 0x111000 then .signal (512 * d + (o - 0x110000) / 8)
  else if 0x120000 ≤ o && o < 0x122000 then
    let j := (o - 0x120000) / 0x100
    if o % 0x100 < 0x80 then .packet d j (o % 0x100 / 8)
    else if o % 0x100 == 0x80 then .push d j
    else if o % 0x100 == 0x88 then .pushStat d j
    else .none
  else if 0x1000000 ≤ o && o < 0x3000000 then tileReg (tileOfIndex (32 * d + (o - 0x1000000) / 2 ^ 20)) (o % 2 ^ 20)
  else if 0x3000000 ≤ o && o < 0x3001000 then .dieLog d ((o - 0x3000000) / 8)
  else .none

/-- The registers of the module block. -/
def moduleReg (o : Nat) : PReg :=
  if o < 0x100000 then (if o % 16 == 0 then .groupCtl (o / 16) else .gcmd (o / 16))
  else if o < 0x100100 then .lnkctl ((o - 0x100000) / 8)
  else if o == 0x100100 then .lnkctl sniqua
  else if 0x110000 ≤ o && o < 0x112000 then .route ((o - 0x110000) / 8)
  else if 0x120000 ≤ o && o < 0x122000 then .window ((o - 0x120000) / 32) (o % 32 / 8)
  else if 0x200000 ≤ o && o < 0x201000 then .domSlot ((o - 0x200000) / 64) (o % 64 / 8)
  else if o == 0x300000 then .resume
  else if o == 0x300100 then .moduleNo
  else if o == 0x300108 then .lsd
  else if 0x400000 ≤ o && o < 0x400100 then .append ((o - 0x400000) / 32) (o % 32 / 8)
  else .none

/-- The registers of a base-die block. -/
def baseReg (k o : Nat) : PReg :=
  if o < 0x1000 then .baseLog k (o / 8)
  else if o < 0x1028 then .mailbox k ((o - 0x1000) / 8)
  else if 0x1200 ≤ o && o < 0x1400 then .mailBuf k ((o - 0x1200) / 8)
  else if 0x2000 ≤ o && o < 0x2018 then .torBox k ((o - 0x2000) / 8)
  else if 0x10000000 ≤ o && o < 0x50000000 then .fullBits k ((o - 0x10000000) / 8)
  else .none

/-- The register at an offset from 0xF00_0000_0000 (Table 18-4). -/
def regAt (off : Nat) : PReg :=
  let b := off / 2 ^ 32
  let o := off % 2 ^ 32
  if b < 8 then dieReg b o
  else if b == 8 then moduleReg o
  else if 16 ≤ b && b < 32 then baseReg (b - 16) o
  else .none

/-- The die whose block holds a register, while that matters: a die held in reset reads 0 and ignores writes (R435). -/
def regDie (off : Nat) : Option Nat :=
  match regAt off with
  | .lnkctl l => if l < 32 then some (l / 4) else none
  | _ => if off / 2 ^ 32 < 8 then some (off / 2 ^ 32) else none

/-- The push port's owner: crest core 4·die + core (R320). -/
def pushOwner : PReg → Option Nat
  | .packet _ j _ => some j
  | .push _ j => some j
  | .pushStat _ j => some j
  | _ => none

end Sys2Proof.Machine

namespace Sys2Proof

open Sys2Proof.Machine

/-- The agent may make an 8-byte access at an offset (R413, R320). -/
def Agent.may (a : Agent) (off : Nat) : Bool :=
  off % 8 == 0 && off < 2 ^ 40 &&
    match a with
    | .crest d k => (pushOwner (regAt off)).all (fun j => j == coreId d k)
    | .control => (pushOwner (regAt off)).isNone
    | .tor k => off / 2 ^ 32 == 16 + k
    | .other => false

/-- The Tor core of a stack (R434). -/
def Agent.isTor (a : Agent) (k : Nat) : Bool := a == Agent.tor k

end Sys2Proof

namespace Sys2Proof.Machine

/-! ## Reads -/

/-- FQSTAT and LOGSTAT (Table 18-5). -/
def statWord (count lost : Nat) : Word := BitVec.ofNat 64 (count % 128 + min lost (2 ^ 24 - 1) * 256)

/-- Word `w` of bytes. -/
def wordOf (b : List Byte) (w : Nat) : Word := BitVec.ofNat 64 (fld b (8 * w) 8)

/-- A word of an error log block (Table 18-4): LOGSTAT, and the head entry at +0x20. -/
def logWord (l : ErrLog) (w : Nat) : Word :=
  match w, l.ents with
  | 0, _ => statWord l.ents.length l.lost
  | 4, x :: _ | 5, x :: _ | 6, x :: _ | 7, x :: _ => wordOf (logBytes x) (w - 4)
  | _, _ => 0

/-- STATE of QCTL (Table 13-1). -/
def quCode : QuSt → Nat
  | .disabled => 0
  | .opened => 1
  | .blocked => 2
  | .draining => 3

/-- QCTL (Table 13-1): EN reads 1 while the queue takes entries. -/
def Queue.ctl (q : Queue) : Word :=
  BitVec.ofNat 64 (quCode q.st + (if q.st == .opened || q.st == .blocked then 4 else 0) + q.pri * 2 ^ 3 + q.age * 2 ^ 6 +
    (if q.pen then 2 ^ 14 else 0) + (if q.pmode then 2 ^ 15 else 0) + q.dom * 2 ^ 16 + q.ents.length * 2 ^ 32 +
    q.back.length * 2 ^ 39)

/-- STATE of the group control register (Table 12-2). -/
def gstCode : GSt → Nat
  | .free => 0
  | .reserved => 1
  | .loading => 2
  | .live => 3
  | .draining => 4
  | .quiescent => 5
  | .saved => 6
  | .fenced => 7
  | .retired => 8

/-- The group control register (Table 12-2). -/
def Group.ctl (g : Group) : Word :=
  if g.st == .free then 0
  else BitVec.ofNat 64 (gstCode g.st + g.wlim * 2 ^ 4 + g.plim * 2 ^ 12 + (if g.preq.isSome then 2 ^ 20 else 0) +
    (if g.pmode then 2 ^ 21 else 0) + (if g.armed then 2 ^ 22 else 0))

/-- LNKCTL (Table 17-3). -/
def Link.ctl (x : Link) : Word :=
  BitVec.ofNat 64 (lkCode x.st + x.lanes * 2 ^ 3 + (if x.enable then 2 ^ 7 else 0) + x.cause * 2 ^ 10 + x.retrains * 2 ^ 16 +
    x.rto * 2 ^ 32)

/-- CCTL (Table 18-6). -/
def State.cctlWord (s : State) (ea c : Nat) : Word :=
  let x := s.ctx ea c
  let svc := match x.svc with
    | some v => 2 ^ 5 + v.reg * 2 ^ 6 + v.num * 2 ^ 10
    | none => 0
  BitVec.ofNat 64 (s.ctxCode ea c + (if x.skipbrk then 2 ^ 4 else 0) + svc)

/-- The status words that are at a port (R279). -/
def State.statuses (s : State) (die port : Nat) : List (Nat × Word) :=
  (s.cport die port).replies.filter (fun r => r.1 ≤ s.now)

/-- The status word that a read pops: the one that came first. -/
def State.firstStatus (s : State) (die port : Nat) : Option (Nat × Word) :=
  match s.statuses die port with
  | [] => none
  | r :: rs => some (rs.foldl (fun b x => if x.1 < b.1 then x else b) r)

/-- R279, Table 18-4: a read of the status register pops the next status word. -/
def execCommandStatusPop (die port : Nat) (s : State) : Out1 :=
  .next (match s.firstStatus die port with
    | some r => s.modCport die port (fun p => { p with replies := p.replies.erase r })
    | none => s)

/-- A word of a domain slot (Table 18-4). -/
def Dom.word (d : Dom) (w : Nat) : Word :=
  match w with
  | 0 => BitVec.ofNat 64 (d.dom + (if d.live then 2 ^ 16 else 0))
  | 1 => BitVec.ofNat 64 (match d.root with
    | some r => r + 1
    | none => 0)
  | 2 => d.fast
  | 3 => d.cap
  | 4 => d.fastN
  | 5 => d.capN
  | _ => 0

/-- 64 full bits of a stack (R351). -/
def State.fullWord (s : State) (k w : Nat) : Word :=
  BitVec.ofNat 64 (bitsNat 64 (fun i => s.isFull (k * 2 ^ 33 + 64 * w + i)))

/-- Bits [43:12] of an address register of an append-log port: the others are reserved and read 0 (Tables 15-9, 0-1). -/
def alUnit (v : Word) : Word := BitVec.ofNat 64 (v.toNat % 2 ^ 44 / 4096 * 4096)

/-- The value that a register reads, in an available die. -/
def State.regValue (s : State) (r : PReg) : Word :=
  match r with
  | .command d p w =>
    (match w with
     | 0 => (s.cport d p).action
     | 1 => (s.cport d p).addr
     | 3 => ((s.firstStatus d p).map (·.2)).getD 0
     | 4 => BitVec.ofNat 64 (s.statuses d p).length
     | _ => 0)
  | .queueStat d k => statWord (s.core (coreId d k)).evq.length (s.core (coreId d k)).lost
  | .queueHead d k w => (((s.core (coreId d k)).evq.head?).map (fun x => wordOf (recBytes x) w)).getD 0
  | .qctl q => (s.queue q).ctl
  | .qback q => BitVec.ofNat 64 ((s.queue q).base.toNat + (s.queue q).szlog * 2 ^ 44)
  | .signal n => (s.signal n).setWidth 64
  | .packet d j w => tget 0 w (tget .zero (32 * d + j) s.pushes).pkt
  | .pushStat d j =>
    let p := tget .zero (32 * d + j) s.pushes
    BitVec.ofNat 64 (p.stat + if p.busy then 256 else 0)
  | .tileLog t w => logWord (s.hub t).log w
  | .barrier t n => ((s.hub t).bar n).word
  | .cctl ea c => s.cctlWord ea c
  | .svcArg ea c => (((s.ctx ea c).svc).map (·.arg)).getD 0
  | .chanData ea ch => (((s.chan ea ch).q.head?).map (·.word.data)).getD 0
  | .chanTag ea ch =>
    (((s.chan ea ch).q.head?).map (fun q => BitVec.ofNat 64 (q.word.tag.toNat + 256 * kindCode q.word.kind))).getD 0
  | .dieLog d w => logWord (s.die d).log w
  | .groupCtl g => (s.group g).ctl
  | .lnkctl l => (s.xlink l).ctl
  | .route n => (tget 0 n s.routeTab).setWidth 64
  | .window n w =>
    let x := tget (0, 0, 0) n s.windows
    (match w with
     | 0 => x.1
     | 1 => x.2.1
     | 2 => x.2.2
     | _ => 0)
  | .domSlot n w => (s.dom n).word w
  | .moduleNo => BitVec.ofNat 64 s.module
  | .lsd => BitVec.ofNat 64 (s.module / 1024 % 1024)
  | .append n w =>
    (match w with
     | 0 => alUnit (s.append n).dst
     | 1 => alUnit (s.append n).src
     | 3 => BitVec.ofNat 64 (s.append n).stat
     | _ => 0)
  | .baseLog k w => logWord (s.base k).log w
  | .mailbox k w =>
    (match w with
     | 0 => (s.mbox k).arg0
     | 1 => (s.mbox k).arg1
     | 3 => BitVec.ofNat 64 ((s.mbox k).stat + if (s.mbox k).busy then 256 else 0)
     | 4 => BitVec.ofNat 64 (s.mbox k).len
     | _ => 0)
  | .mailBuf k w => tget 0 w (s.mbox k).buf
  | .torBox k w =>
    (match w with
     | 0 => BitVec.ofNat 64 ((s.base k).tstat.toNat + if (s.base k).capok then 4 else 0)
     | 1 => (s.base k).off.setWidth 64
     | _ => (s.base k).tver)
  | .fullBits k w => s.fullWord k w
  | .queuePop _ _ | .push _ _ | .svcReply _ _ | .gcmd _ | .resume | .none => 0

/-- A register is in service: its die, where it has one, is released (R435). -/
def State.regUp (s : State) (off : Nat) : Bool := (regDie off).all s.dieUp

/-- A read of a register: its value, and the state after; none where R413 allows no such access. -/
def State.regRead (s : State) (a : Agent) (off : Nat) : Option (Word × State) :=
  if !a.may off then none
  else if !s.regUp off then some (0, s)
  else
    let r := regAt off
    some (s.regValue r, match r with
      | .command d p 3 => outState (execCommandStatusPop d p s) s
      | _ => s)

/-! ## Commands (R279) -/

/-- The refusal of a command that names no instruction (R279, R281, R285, Table 18-7), as a detail and an element address. -/
def cmdRefusal (c : Cmd) : Nat × Nat :=
  match c.op with
  | 0xF0 => (if c.clean then itemOf c.addr else 0xFF, c.ea)
  | 0xF1 => (if c.clean then 0xFE else 0xFF, c.swapEa)
  | 0xF3 => (0x51, 0)
  | 0xF5 => (0x40, 0)
  | _ => (0xFD, 0)

/-- A command is issued: it takes effect 6 + 24·c fc later, after the earlier commands of its port (R279). -/
def State.issue (s : State) (die port : Nat) (v : Word) : State :=
  let p := s.cport die port
  let c : Cmd := ⟨die, port, p.action.setWidth 32, p.action.extractLsb' 32 32, p.addr, v⟩
  let d := 6 + 24 * s.cmdCross c
  let t := max (s.now + d) p.last
  let s := s.modCport die port (fun p => { p with last := t })
  match cmdInstr c with
  | some i => s.at_ t i
  | none => s.reply die port (t + d) (statusWord codeIllegal (cmdRefusal c).1 (cmdRefusal c).2 false)

/-! ## Contexts and groups (Table 18-6) -/

/-- RESUME moves a HALTED context on; SKIPBRK is stored (Table 18-6, Table 4-3). -/
def execCctlResume (ea ctx : Nat) (v : Word) (s : State) : Out1 :=
  .next (s.modCtx ea ctx (fun c =>
    { c with st := if v.getLsbD 3 && c.st == .halted then .running else c.st, skipbrk := v.getLsbD 4 }))

/-- A reply to the svc of a context is on its way. -/
def State.svcAnswered (s : State) (ea ctx : Nat) : Bool :=
  s.agenda.any (fun x => match x.instr with
    | .svcReplyDelivery e c _ => e == ea && c == ctx
    | _ => false)

/-- SVCREPLY is written by a crest core of `die`: the value reaches the context 6 + 24·c fc later (R416). -/
def execSvcReplyWrite (ea ctx : Nat) (v : Word) (die : Nat) (s : State) : Out1 :=
  .next (if (s.ctx ea ctx).svc.isNone || s.svcAnswered ea ctx then s
    else s.after (6 + 24 * dieDist die (eaDie ea)) (.svcReplyDelivery ea ctx v))

/-- GCMD (Table 18-6). -/
def State.gcmd (s : State) (g : Nat) (v : Word) : State :=
  match v.toNat % 4 with
  | 1 => outState (execGcmdResume g s) s
  | 2 => outState (execGcmdRetire g s) s
  | _ => s

/-! ## Full bits (Table 18-4) -/

/-- A unit of a stack, as a unit of the module. -/
def stackUnit (stack unit : Nat) : Nat := stack * 2 ^ 33 + unit

/-- A full bit is written 1: where it was 0, the oldest deferred lde is released, as an stf of the unit's value would. -/
def execFullBitSet (stack unit : Nat) (s : State) : Out1 := .next <|
  let u := stackUnit stack unit
  if s.isFull u then s else (s.setFull u true).feRelease u

/-- A full bit is written 0: where it was 1, the oldest deferred stf is released, as an lde would. -/
def execFullBitClear (stack unit : Nat) (s : State) : Out1 := .next <|
  let u := stackUnit stack unit
  if s.isFull u then (s.setFull u false).feRelease u else s

/-- 64 full bits are written. -/
def State.writeFullBits (s : State) (k w : Nat) (v : Word) : State :=
  (List.range 64).foldl (fun s i =>
    let o := if v.getLsbD i then execFullBitSet k (64 * w + i) s else execFullBitClear k (64 * w + i) s
    outState o s) s

/-! ## The other registers that a write changes -/

/-- QCTL (Table 13-1). -/
def State.writeQctl (s : State) (q : Nat) (v : Word) : State :=
  let n := v.toNat
  let s := s.modQueue q (fun x => { x with
    pri := bitsOf n 3 3, age := bitsOf n 6 8, pen := v.getLsbD 14, pmode := v.getLsbD 15
    dom := if x.st == .disabled then bitsOf n 16 16 else x.dom })
  outState (if v.getLsbD 2 then execQueueEnable q v s else execQueueDisable q v s) s

/-- QBACK (Table 13-2). -/
def State.writeQback (s : State) (q : Nat) (v : Word) : State :=
  let n := v.toNat
  s.modQueue q (fun x =>
    if x.st == .disabled then { x with base := BitVec.ofNat 64 (n % 2 ^ 44 / 128 * 128), szlog := min 24 (bitsOf n 44 5) } else x)

/-- A packet word of a push port (R320). -/
def State.writePacket (s : State) (d j w : Nat) (v : Word) : State :=
  let p := tget .zero (32 * d + j) s.pushes
  if p.busy then s else { s with pushes := tput .zero (32 * d + j) { p with pkt := tput 0 w v p.pkt } s.pushes }

/-- LNKCTL (Table 17-3): RTO, then ENABLE, FENCE and RESET. -/
def State.writeLnkctl (s : State) (l : Nat) (v : Word) : State :=
  let rto := bitsOf v.toNat 32 8
  let s := (s.modXlink l (fun x => { x with rto := if rto == 0 then 1 else rto })).at_ s.now .remoteTimeout
  let s := outState (if v.getLsbD 7 then execLinkEnable l s else execLinkDisable l s) s
  let s := if v.getLsbD 8 then outState (execLinkFenceWrite l s) s else s
  if v.getLsbD 9 then outState (execLinkReset l s) s else s

/-- A copy window (Table 18-4). -/
def State.writeWindow (s : State) (n w : Nat) (v : Word) : State :=
  let x := tget (0, 0, 0) n s.windows
  let y := match w with
    | 0 => (BitVec.ofNat 64 (v.toNat % 2 ^ 21), x.2.1, x.2.2)
    | 1 => (x.1, BitVec.ofNat 64 (v.toNat % 2 ^ 44 / 65536 * 65536), x.2.2)
    | 2 => (x.1, x.2.1, v)
    | _ => x
  { s with windows := tput (0, 0, 0) n y s.windows }

/-- A frame list or count of a domain slot (Table 18-4). -/
def State.writeDom (s : State) (n w : Nat) (v : Word) : State :=
  let d := s.dom n
  let e := match w with
    | 2 => { d with fast := v }
    | 3 => { d with cap := v }
    | 4 => { d with fastN := v }
    | 5 => { d with capN := v }
    | _ => d
  { s with doms := tput .zero n e s.doms }

/-- An append-log port (Table 15-9); a reserved bit that is written is kept for the check of GO (R357). -/
def State.writeAppend (s : State) (n w : Nat) (v : Word) : State :=
  if (s.append n).stat == alBusy then s
  else match w with
  | 0 => s.modAppend n (fun x => { x with dst := v })
  | 1 => s.modAppend n (fun x => { x with src := v })
  | 2 => if v.getLsbD 0 then outState (execAppendGo n s) s else s
  | _ => s

/-- A management command runs (Table 19-3). -/
def State.runMgmt (s : State) (m : Mgmt) : State :=
  match m.code.toNat with
  | 1 => outState (execTelem m s) s
  | 2 => outState (execPowerCap m s) s
  | 3 => outState (execFwUpdate m s) s
  | 4 => outState (execLogRead m s) s
  | 5 => outState (execAttest m s) s
  | 6 => outState (execKeyset m s) s
  | 7 => outState (execSetModule m s) s
  | 8 => outState (execReset m s) s
  | 9 => outState (execOwnerSet m s) s
  | _ => s.mgReply m mgUnknown []

/-- The command of a mailbox (R422): its data are the first MBLEN bytes of MBBUF. -/
def MBox.command (b : MBox) (k : Nat) (code : Word) : Mgmt :=
  ⟨some k, code.setWidth 8, 0, 0, b.arg0, b.arg1,
    ((List.range 64).flatMap (fun i => leBytes 8 (tget 0 i b.buf).toNat) ++ List.replicate (b.len - 512) 0).take b.len⟩

/-- The mailbox of a stack takes writes: the stack is READY, and no command of it is BUSY (R422). -/
def State.mboxOpen (s : State) (k : Nat) : Bool := (s.base k).tstat == 1 && !(s.base k).dead && !(s.mbox k).busy

/-- A register of a mailbox is written (R422): MBCMD sets BUSY, and its command waits for the summit controller. -/
def State.writeMailbox (s : State) (k w : Nat) (v : Word) : State :=
  if !s.mboxOpen k then s
  else match w with
  | 0 => s.modMbox k (fun b => { b with arg0 := v })
  | 1 => s.modMbox k (fun b => { b with arg1 := v })
  | 2 => (s.modMbox k (fun b => { b with busy := true })).modSummit (fun m =>
      { m with waiting := m.waiting ++ [⟨s.now, true, (s.mbox k).command k v⟩] })
  | 4 => s.modMbox k (fun b => { b with len := v.toNat % 2 ^ 13 })
  | _ => s

/-- A Borelle message that holds a management command (R428, log 82): what is no such message of this vendor is dropped. LEN must be the
bytes of data that follow. -/
def borelleCommand (now : Nat) (b : List Byte) : Option MgWait :=
  let r := b.drop 5
  if b.take 5 != borelleHead || r.length < 24 then none
  else some ⟨now, fld r 4 4 == r.length - 24,
    ⟨none, r.getD 0 0, r.getD 1 0, BitVec.ofNat 16 (fld r 2 2), BitVec.ofNat 64 (fld r 8 8), BitVec.ofNat 64 (fld r 16 8), r.drop 24⟩⟩

/-- The command taken next: the oldest, of one cycle a Borelle command first (R423). -/
def mgFirst (l : List MgWait) : Option MgWait :=
  match l with
  | [] => none
  | x :: xs => some (xs.foldl (fun b y => if y.came < b.came || (y.came == b.came && y.cmd.mailbox.isNone && b.cmd.mailbox.isSome) then y else b) x)

/-- The summit controller performs the command it has taken, when its time is over, and takes the next; how long a command takes is free
(R423, log 7). -/
def State.mgTurn (s : State) : State :=
  let s := s.modSummit (fun m =>
    { m with inbox := [], waiting := m.waiting ++ m.inbox.filterMap (borelleCommand s.now) })
  let s := match s.summit.serving with
    | some (t, x) =>
      if t ≤ s.now then
        let s := s.modSummit (fun m => { m with serving := none })
        if x.whole then s.runMgmt x.cmd else s.mgReply x.cmd mgBadArg []
      else s
    | none => s
  match s.summit.serving, mgFirst s.summit.waiting with
  | none, some x =>
    { s with free := s.free + 1 }.modSummit (fun m =>
      { m with serving := some (s.now + 1 + Config.mgmtTime s.free, x), waiting := m.waiting.erase x })
  | _, _ => s

/-- What the summit controller does in a cycle: its commands, and a sample of its sensors every 1 ms of the fabric clock (R423, R424). -/
def State.summitTurn (s : State) : State :=
  let s := s.mgTurn
  if s.summit.sampled + 1000 * s.summit.fclk ≤ s.now then outState (execTelemetrySample (sensorsAt s.free) { s with free := s.free + 1 }) s else s

/-- The Tor mailbox, written by its Tor core (R434): STATE and CAPOK; ports taken offline; VERSION and RETRAINS. -/
def State.writeTor (s : State) (k w : Nat) (v : Word) : State :=
  match w with
  | 0 => s.modBase k (fun b => { b with tstat := v.setWidth 2, capok := v.getLsbD 2 })
  | 1 => (List.range 32).foldl (fun s p => if v.getLsbD p then outState (execPortOffline k p s) s else s) s
  | 2 => s.modBase k (fun b => { b with tver := v })
  | _ => s

/-- The die of an agent, from which its crossings count (R416). -/
def agentDie : Agent → Nat
  | .crest d _ => d
  | .tor k => k / 2
  | _ => 0

/-- What a write of a register does, in an available die; registers that are read-only ignore it (Table 0-1). -/
def State.setReg (s : State) (a : Agent) (r : PReg) (v : Word) : State :=
  match r with
  | .command d p w =>
    (match w with
     | 0 => s.modCport d p (fun x => { x with action := v })
     | 1 => s.modCport d p (fun x => { x with addr := v })
     | 2 => s.issue d p v
     | _ => s)
  | .queuePop d k => if v == 1 then outState (execEventQueuePop d k s) s else s
  | .qctl q => s.writeQctl q v
  | .qback q => s.writeQback q v
  | .signal n => { s with signals := tput 0 n (v.setWidth 32) s.signals }
  | .packet d j w => s.writePacket d j w v
  | .push d j => outState (execPushWrite d j v s) s
  | .cctl ea c => outState (execCctlResume ea c v s) s
  | .svcReply ea c => outState (execSvcReplyWrite ea c v (agentDie a) s) s
  | .groupCtl g => outState (execPreqWrite g v s) s
  | .gcmd g => s.gcmd g v
  | .lnkctl l => s.writeLnkctl l v
  | .route n => { s with routeTab := tput 0 n (v.setWidth 32) s.routeTab }
  | .window n w => s.writeWindow n w v
  | .domSlot n w => s.writeDom n w v
  | .resume => outState (execPageResume (v.toNat % 65536) (v.extractLsb' 16 16) s) s
  | .append n w => s.writeAppend n w v
  | .mailbox k w => s.writeMailbox k w v
  | .mailBuf k w =>
    if !s.mboxOpen k then s else s.modMbox k (fun b => { b with buf := tput 0 w v b.buf })
  | .torBox k w => if a.isTor k then s.writeTor k w v else s
  | .fullBits k w => s.writeFullBits k w v
  | .queueStat _ _ | .queueHead _ _ _ | .pushStat _ _ | .tileLog _ _ | .barrier _ _ | .svcArg _ _ | .chanData _ _ | .chanTag _ _
  | .dieLog _ _ | .moduleNo | .lsd | .baseLog _ _ | .none => s

/-- A write of a register; none where R413 allows no such access. -/
def State.regWrite (s : State) (a : Agent) (off : Nat) (v : Word) : Option State :=
  if !a.may off then none else if !s.regUp off then some s else some (s.setReg a (regAt off) v)

/-- R413: a write that is not allowed performs nothing. -/
def execRegisterWrite (a : Agent) (off : Nat) (v : Word) (s : State) : Out1 := .next ((s.regWrite a off v).getD s)

/-! ## Local memory as the crest cores and the control node reach it (R21, R23, R401) -/

/-- Base of the privileged register space (Table 1-3). -/
abbrev regBase : Nat := 0xF0000000000

/-- A place of the local address space is out of reach from a die: an offline port, or a die held in reset (R409, R435). -/
def State.viewFault (s : State) (d a : Nat) : Bool :=
  match regionOf a with
  | .hbm | .capacity => (s.homeFault (2048 * d) a).isSome
  | .window => (diePath d (eaDie (windowEa a)) 4).any (fun e => !s.dieUp e)
  | _ => true

/-- A write through a window is refused: it aims at a busy SE, or at a bank on a live route (R23, R278). DESIGN CHOICE (log 65): R23
does not say which banks these are, and the model takes every bank of a declared partition of a LIVE or DRAINING group. -/
def State.windowBusy (s : State) (a : Nat) : Bool :=
  let ea := windowEa a
  let o := (a - 0xA0000000000) % 0x2000000
  if o ≥ 0x1800000 then s.busyElem ea
  else
    let b := o / 0x10000
    (s.hub ea).parts.any (fun p => p.2.first ≤ b && b < p.2.first + p.2.count) &&
      match s.groupAt ea with
      | some gn => (s.group gn).st == .live || (s.group gn).st == .draining
      | none => false

/-- A crest core's access of a place of the local address space enters the queue of its home, at an SRAM window by the port of the tile
hub's engine (R23, R175, R256): of the core's own program, or piece `piece` of the message it serves. -/
def State.windowAccess (s : State) (k a n : Nat) (acc : Acc) (v : Word) (piece : Option Nat) : State :=
  s.bankEnter a (enginePort a) (.requestPerform { MReq.zero with
    grp := 65536, who := .core k, acc := acc, out := localOut, endp := if regionOf a == .window then 0x81 else 0x82
    addr := BitVec.ofNat 64 a, pa := s.module * 2 ^ 44 + a, sz := n.log2, v1 := v, stage := 1, ctx := piece.getD 0
    slot := if piece.isSome then 1 else 0 }) none

/-- The units of a range are of a region that `p` admits. -/
def unitsIn (p : Region → Bool) (a n : Nat) : Bool := (List.range (n / 8)).all (fun i => p (regionOf (a + 8 * i)))

/-- An access of a crest core's own program to the local address space: a load, or a store of `bytes`. What it may not do
performs nothing (R413). -/
def execCrestCoreAccess (die core : Nat) (write : Bool) (addr : Nat) (bytes : List Byte) (s : State) : Out1 := .next <|
  let n := bytes.length
  let fits := (n == 1 || n == 2 || n == 4 || n == 8) && addr % n == 0
  if !s.coreUp (coreId die core) || !fits then s
  else match regionOf addr with
  | .regs =>
    if n != 8 then s
    else if write then (s.regWrite (.crest die core) (addr - regBase) (BitVec.ofNat 64 (leNat bytes))).getD s
    else (((s.regRead (.crest die core) (addr - regBase)).map (·.2)).getD s)
  | .hole => s
  | r =>
    if s.viewFault die addr || (write && (r == .capacity || (r == .window && s.windowBusy addr))) then s
    else s.windowAccess (coreId die core) addr n (if write then .st else .ld) (BitVec.ofNat 64 (leNat bytes)) none

/-! ## Messages (R400, R401) -/

abbrev stPermission : Nat := 0x12
abbrev stPortSelect : Nat := 0x03
abbrev stMalformed : Nat := 0xFF

end Sys2Proof.Machine

namespace Sys2Proof

/-- LEN and the fields of a message are those that its type requires (R401, Table 17-6). -/
def Msg.wellShaped (m : Msg) : Bool :=
  let n := m.payload.length
  m.rsv == 0 && m.core.extractLsb' 5 3 == 0 && n ≤ 65536 &&
    match m.type.toNat with
    | 1 => m.arg0.toNat ≤ 1 && (m.arg1 == 0 || n == 0)
    | 2 => m.arg1 == 0 && n == 128
    | 3 => n == 0
    | 4 => n == m.arg0.toNat
    | 5 => m.arg0 == 0 && n == 0
    | 6 => m.arg0 == 0 && n == 8
    | 7 => m.arg0.toNat ≤ 1 && m.arg1 == 0 && n == 0
    | 8 => m.arg0.toNat ≤ 1 && m.arg1 == 0 && n == 0
    | _ => false

end Sys2Proof

namespace Sys2Proof.Machine

/-- An image load (R274, Table 17-6): the image is at the address in the group's domain, or in the payload. -/
def State.msgImage (s : State) (m : Msg) : State :=
  let gn := m.grp.toNat
  let g := s.group gn
  let img := if m.arg1 == 0 then (m.payload, none)
    else if g.st != (if m.arg0 == 1 then .live else .reserved) then ([], none)
    else s.readImage g.dom g.origin m.arg1
  outState (execImageLoadRequest ⟨gn, m.arg0 == 1, img.1, img.2, none, some m⟩ s) s

/-- The push port that a crest core uses for a queue: in the block of its die. -/
def msgPort (m : Msg) : Nat := 32 * (m.arg0.toNat / 32) + msgCore m

/-- An ENQUEUE is pushed through the core's port; its REPLY waits for the status (R318, R320). -/
def State.msgEnqueue (s : State) (m : Msg) : State :=
  let q := m.arg0.toNat
  if q > 255 || !s.dieUp (q / 32) then s.replyTo m 1 []
  else
    let j := msgCore m
    let pkt := (List.range 16).foldl (fun (p : Map Word) i => tput 0 i (wordOf m.payload i) p) []
    let s := { s with pushes := tput .zero (msgPort m) { tget .zero (msgPort m) s.pushes with pkt := pkt } s.pushes }
    (outState (execPushWrite (q / 32) j (BitVec.ofNat 64 (q + m.dom.toNat * 65536)) s) s).modCore j (fun c =>
      { c with serving := some m })

/-- The range of a MEMREAD or MEMWRITE: its local address, or a status that refuses it. -/
def State.msgRange (s : State) (m : Msg) (p : Region → Bool) : Sum Nat Nat :=
  let a := m.arg1.toNat % 2 ^ 44
  let n := m.arg0.toNat
  if m.arg1.toNat / 2 ^ 44 != s.module || a % 8 != 0 || n % 8 != 0 || n < 8 || n > 4096 || !unitsIn p a n then .inr stPermission
  else if (List.range (n / 8)).any (fun i => s.viewFault (msgCore m / 4) (a + 8 * i)) then .inr stPortSelect
  else .inl a

/-- A message's range is read or written in services of its homes, 8 bytes each; its REPLY follows (R23, R256). -/
def State.msgWindow (s : State) (m : Msg) (a n : Nat) (acc : Acc) : State :=
  let k := msgCore m
  let s := s.modCore k (fun c => { c with serving := some m, left := n / 8, got := [] })
  (List.range (n / 8)).foldl (fun s i => s.windowAccess k (a + 8 * i) 8 acc (wordOf m.payload i) (some i)) s

/-- MEMREAD (Table 17-6). -/
def State.msgRead (s : State) (m : Msg) : State :=
  match s.msgRange m (fun r => r == .hbm || r == .capacity || r == .window) with
  | .inr c => s.replyTo m c []
  | .inl a => s.msgWindow m a m.arg0.toNat .ld

/-- MEMWRITE (Table 17-6). -/
def State.msgWrite (s : State) (m : Msg) : State :=
  match s.msgRange m (fun r => r == .hbm || r == .window) with
  | .inr c => s.replyTo m c []
  | .inl a =>
    let n := m.arg0.toNat
    if (List.range (n / 8)).any (fun i => regionOf (a + 8 * i) == .window && s.windowBusy (a + 8 * i)) then s.replyTo m codeBusy []
    else s.msgWindow m a n .st

/-- The offset of a privileged register address. -/
def msgOff (m : Msg) : Option Nat :=
  if regBase ≤ m.arg1.toNat && m.arg1.toNat < regBase + 2 ^ 40 then some (m.arg1.toNat - regBase) else none

/-- REGREAD (R413, Table 17-6). -/
def State.msgRegRead (s : State) (m : Msg) : State :=
  match (msgOff m).bind (fun o => s.regRead .control o) with
  | some (v, s') => s'.replyTo m 0 (leBytes 8 v.toNat)
  | none => s.replyTo m stPermission []

/-- REGWRITE (R413, Table 17-6). -/
def State.msgRegWrite (s : State) (m : Msg) : State :=
  match (msgOff m).bind (fun o => s.regWrite .control o (wordOf m.payload 0)) with
  | some s' => s'.replyTo m 0 []
  | none => s.replyTo m stPermission []

/-- PREEMPT (R304, Table 17-6). -/
def State.msgPreempt (s : State) (m : Msg) : State :=
  let r := s.preemptGroup m.grp.toNat (m.arg0 == 1)
  r.2.replyTo m (if r.1 then 0 else 1) []

/-- The lowest free domain slot (R321). -/
def State.freeDom (s : State) : Option Nat := (List.range Config.domains).find? (fun k => !(s.dom k).live)

/-- A domain is created (R321, Table 13-5). -/
def State.msgDomCreate (s : State) (m : Msg) : State :=
  let d := m.dom.toNat
  if d == 0 || (s.domSlot d).isSome then s.replyTo m 6 []
  else match s.freeDom with
  | none => s.replyTo m 5 []
  | some k => { s with doms := tput .zero k { Dom.zero with dom := d, live := true } s.doms }.replyTo m 0 []

/-- A domain still holds a group, a queue or a launch (R321). -/
def State.domInUse (s : State) (d : Nat) : Bool :=
  s.groups.any (fun g => g.2.st != .free && g.2.dom == d) || s.queues.any (fun q => q.2.st != .disabled && q.2.dom == d) ||
    s.launches.any (fun l => l.live && l.dom == d)

/-- A domain is destroyed (R321, Table 13-5). -/
def State.msgDomDestroy (s : State) (m : Msg) : State :=
  let d := m.dom.toNat
  match s.domSlot d with
  | none => s.replyTo m 7 []
  | some k =>
    if s.domInUse d then s.replyTo m 6 []
    else { s.invalidate d none with doms := tput .zero k .zero s.doms }.replyTo m 0 []

/-- The effect of a message, by its type. -/
def State.msgEffect (s : State) (m : Msg) : State :=
  match m.type.toNat with
  | 1 => s.msgImage m
  | 2 => s.msgEnqueue m
  | 3 => s.msgRead m
  | 4 => s.msgWrite m
  | 5 => s.msgRegRead m
  | 6 => s.msgRegWrite m
  | 7 => s.msgPreempt m
  | 8 => if m.arg0 == 1 then s.msgDomDestroy m else s.msgDomCreate m
  | _ => s

/-- The core can serve a message now: it is available and has answered the one before, and an ENQUEUE finds its port free. -/
def State.canServe (s : State) (m : Msg) : Bool :=
  let k := msgCore m
  s.coreUp k && (s.core k).serving.isNone && !(m.type == 2 && (tget .zero (msgPort m) s.pushes).busy)

/-- A message comes to its crest core: it is handled by `f`, after the messages before it; one of the wrong shape gets STATUS
0xFF and has no other effect (R400, R401). -/
def State.receive (s : State) (m : Msg) (f : State → State) : State :=
  let k := msgCore m
  if !(s.core k).inq.isEmpty || !s.canServe m then s.modCore k (fun c => { c with inq := c.inq ++ [m] })
  else if m.wellShaped then f s
  else s.replyTo m stMalformed []

/-- The messages that wait at a core, as far as it can serve them now. -/
def State.drainCore (s : State) (k : Nat) : Nat → State
  | 0 => s
  | n + 1 =>
    match (s.core k).inq with
    | [] => s
    | m :: rest =>
      if !s.canServe m then s
      else
        let s := s.modCore k (fun c => { c with inq := rest })
        (if m.wellShaped then s.msgEffect m else s.replyTo m stMalformed []).drainCore k n

/-- An ENQUEUE whose status is there, and a message whose window accesses are all served, get their REPLY. -/
def State.answerEnqueue (s : State) (k : Nat) : State :=
  match (s.core k).serving with
  | none => s
  | some m =>
    let done (s : State) : State := s.modCore k (fun c => { c with serving := none, got := [] })
    if m.type == 2 then
      let p := tget .zero (msgPort m) s.pushes
      if p.busy then s else (done s).replyTo m p.stat []
    else if (s.core k).left != 0 then s
    else
      let got := (s.core k).got
      (done s).replyTo m 0
        (if m.type == 3 then (List.range (m.arg0.toNat / 8)).flatMap (fun i => leBytes 8 (tget 0 i got).toNat) else [])

/-- Every core serves what it can. -/
def State.serveCores (s : State) : State :=
  s.cores.foldl (fun s c => (s.answerEnqueue c.1).drainCore c.1 c.2.inq.length) s

/-- Table 17-6, 0x01. -/
def execImageLoad (m : Msg) (s : State) : Out1 := .next (s.receive { m with type := 1 } (fun s => s.msgImage { m with type := 1 }))
/-- Table 17-6, 0x02. -/
def execEnqueue (m : Msg) (s : State) : Out1 := .next (s.receive { m with type := 2 } (fun s => s.msgEnqueue { m with type := 2 }))
/-- Table 17-6, 0x03. -/
def execMemread (m : Msg) (s : State) : Out1 := .next (s.receive { m with type := 3 } (fun s => s.msgRead { m with type := 3 }))
/-- Table 17-6, 0x04. -/
def execMemwrite (m : Msg) (s : State) : Out1 := .next (s.receive { m with type := 4 } (fun s => s.msgWrite { m with type := 4 }))
/-- Table 17-6, 0x05. -/
def execRegread (m : Msg) (s : State) : Out1 := .next (s.receive { m with type := 5 } (fun s => s.msgRegRead { m with type := 5 }))
/-- Table 17-6, 0x06. -/
def execRegwrite (m : Msg) (s : State) : Out1 := .next (s.receive { m with type := 6 } (fun s => s.msgRegWrite { m with type := 6 }))
/-- Table 17-6, 0x07. -/
def execPreempt (m : Msg) (s : State) : Out1 := .next (s.receive { m with type := 7 } (fun s => s.msgPreempt { m with type := 7 }))
/-- Table 17-6, 0x08 with ARG0 0 (R321). -/
def execDomainCreate (m : Msg) (s : State) : Out1 := .next <|
  let m : Msg := { m with type := 8, arg0 := if m.arg0 == 1 then 0 else m.arg0 }
  s.receive m (fun s => s.msgDomCreate m)
/-- Table 17-6, 0x08 with ARG0 1 (R321). -/
def execDomainDestroy (m : Msg) (s : State) : Out1 := .next <|
  let m : Msg := { m with type := 8, arg0 := 1 }
  s.receive m (fun s => s.msgDomDestroy m)

/-! ## Flits (R391, R392) -/

/-- Fields of a flit's header (Table 17-1). -/
def flitSeq (b : List Byte) : Nat := fld b 0 4 % 4096
def flitAck (b : List Byte) : Nat := fld b 0 4 / 4096 % 4096
def flitType (b : List Byte) : Nat := fld b 0 4 / 2 ^ 24 % 16
def flitVc (b : List Byte) : Nat := fld b 0 4 / 2 ^ 28 % 16

/-- A flit that is kept: its CRC is right, its TYPE and VC are not reserved. -/
def flitOk (b : List Byte) : Bool :=
  b.length == 68 && crc32 (b.take 64) == fld b 64 4 && flitType b ≤ 4 && flitVc b ≤ 3

/-- Payload of the Sniqua port: a message that is complete goes to its core (R400). -/
def State.takePayload (s : State) (b : List Byte) : State :=
  let bs := s.rxMsg ++ b
  if bs.length < 32 then { s with rxMsg := bs }
  else
    let len := fld bs 4 4
    if bs.length < 32 + (len + 7) / 8 * 8 then { s with rxMsg := bs }
    else match msgOfBytes bs with
    | none => { s with rxMsg := [] }
    | some m => { s with rxMsg := [] }.receive m (fun s => s.msgEffect m)

/-- A DATA flit in its turn is accepted, and acknowledged by an IDLE flit (log 20). -/
def State.takeData (s : State) (l : Nat) (b : List Byte) (srcModule : Nat) (load : FlitLoad) : State :=
  let s := s.modXlink l (fun x => { x with rxSeq := flitSeq b, discard := false, nakTx := 0 })
  let s := (s.linkAck l (flitAck b)).sendControl l 0
  if l == sniqua then (if flitVc b == vcMessage then s.takePayload ((b.drop 4).take 60) else s) else s.remoteReply srcModule load

/-- A flit meets the injection armed for the links of a die: a bit of it flips, which its CRC shows (R417, R391). -/
def State.flitHit (s : State) (l : Nat) : Bool × State :=
  match s.takeInj 12 (linkDie l) with
  | (some _, s) =>
    let x : LogEnt := ⟨12, 2, true, 0, BitVec.ofNat 64 l, s.dieCycle (linkDie l)⟩
    (true, s.modDie (linkDie l) (fun d => { d with log := d.log.add x }))
  | (none, s) => (false, s)

/-- A flit arrives at a link (R391, R392, R393, R397). -/
def execFlitReceive (l : Nat) (b : List Byte) (srcModule : Nat) (load : FlitLoad) (s : State) : Out1 := .next <|
  let (hit, s) := s.flitHit l
  let x := s.xlink l
  if !x.carries then (if !hit && flitOk b && flitType b == 4 then outState (execFenceFlitReceive l s) s else s)
  else if hit || !flitOk b then s.sendNak l
  else match flitType b with
  | 0 => s.linkAck l (flitAck b)
  | 1 =>
    if flitSeq b != (x.rxSeq + 1) % 4096 then (if x.discard then s else s.sendNak l)
    else if l != sniqua && !(tget 0 (srcModule % 1024) s.routeTab).getLsbD l then (s.fenceLink l 4).sendControl l 4
    else s.takeData l b srcModule load
  | 2 => outState (execNakReceive l (BitVec.ofNat 12 (flitAck b)) s) s
  | 4 => outState (execFenceFlitReceive l s) s
  | _ => s

end Sys2Proof.Machine
end

