-- ==== Sys2Proof/Machine/Dispatch.lean ====
section
/-! DEFINITION. The meaning of each instruction: one arm for each constructor. -/

namespace Sys2Proof.Machine

def exec (i : Instr) (s : State) : Host.Outcome State Fault Refusal :=
  match i with
  | .mov f => Sys2Proof.Machine.execMov f s
  | .mov2 f => Sys2Proof.Machine.execMov2 f s
  | .sel f => Sys2Proof.Machine.execSel f s
  | .steer f => Sys2Proof.Machine.execSteer f s
  | .sendeos f => Sys2Proof.Machine.execSendeos f s
  | .halt f => Sys2Proof.Machine.execHalt f s
  | .exit f => Sys2Proof.Machine.execExit f s
  | .pset f => Sys2Proof.Machine.execPset f s
  | .pclr f => Sys2Proof.Machine.execPclr f s
  | .pmov f => Sys2Proof.Machine.execPmov f s
  | .drop f => Sys2Proof.Machine.execDrop f s
  | .ctag f => Sys2Proof.Machine.execCtag f s
  | .add f => Sys2Proof.Machine.execAdd f s
  | .sub f => Sys2Proof.Machine.execSub f s
  | .adds f => Sys2Proof.Machine.execAdds f s
  | .addus f => Sys2Proof.Machine.execAddus f s
  | .subs f => Sys2Proof.Machine.execSubs f s
  | .mul f => Sys2Proof.Machine.execMul f s
  | .mulh f => Sys2Proof.Machine.execMulh f s
  | .mulhu f => Sys2Proof.Machine.execMulhu f s
  | .mac f => Sys2Proof.Machine.execMac f s
  | .divu f => Sys2Proof.Machine.execDivu f s
  | .remu f => Sys2Proof.Machine.execRemu f s
  | .min f => Sys2Proof.Machine.execMin f s
  | .max f => Sys2Proof.Machine.execMax f s
  | .minu f => Sys2Proof.Machine.execMinu f s
  | .maxu f => Sys2Proof.Machine.execMaxu f s
  | .abs f => Sys2Proof.Machine.execAbs f s
  | .and f => Sys2Proof.Machine.execAnd f s
  | .or f => Sys2Proof.Machine.execOr f s
  | .xor f => Sys2Proof.Machine.execXor f s
  | .andn f => Sys2Proof.Machine.execAndn f s
  | .shl f => Sys2Proof.Machine.execShl f s
  | .shr f => Sys2Proof.Machine.execShr f s
  | .sar f => Sys2Proof.Machine.execSar f s
  | .rol f => Sys2Proof.Machine.execRol f s
  | .clz f => Sys2Proof.Machine.execClz f s
  | .ctz f => Sys2Proof.Machine.execCtz f s
  | .popc f => Sys2Proof.Machine.execPopc f s
  | .bext f => Sys2Proof.Machine.execBext f s
  | .bins f => Sys2Proof.Machine.execBins f s
  | .lea f => Sys2Proof.Machine.execLea f s
  | .addW2 f => Sys2Proof.Machine.execAddW2 f s
  | .subW2 f => Sys2Proof.Machine.execSubW2 f s
  | .mulW2 f => Sys2Proof.Machine.execMulW2 f s
  | .minW2 f => Sys2Proof.Machine.execMinW2 f s
  | .maxW2 f => Sys2Proof.Machine.execMaxW2 f s
  | .addsW2 f => Sys2Proof.Machine.execAddsW2 f s
  | .idot8 f => Sys2Proof.Machine.execIdot8 f s
  | .idot8u f => Sys2Proof.Machine.execIdot8u f s
  | .ceq f => Sys2Proof.Machine.execCeq f s
  | .cne f => Sys2Proof.Machine.execCne f s
  | .clt f => Sys2Proof.Machine.execClt f s
  | .cle f => Sys2Proof.Machine.execCle f s
  | .cltu f => Sys2Proof.Machine.execCltu f s
  | .cleu f => Sys2Proof.Machine.execCleu f s
  | .ctst f => Sys2Proof.Machine.execCtst f s
  | .cz f => Sys2Proof.Machine.execCz f s
  | .faddS2 f => Sys2Proof.Machine.execFaddS2 f s
  | .fsubS2 f => Sys2Proof.Machine.execFsubS2 f s
  | .fmulS2 f => Sys2Proof.Machine.execFmulS2 f s
  | .fmaS2 f => Sys2Proof.Machine.execFmaS2 f s
  | .fminS2 f => Sys2Proof.Machine.execFminS2 f s
  | .fmaxS2 f => Sys2Proof.Machine.execFmaxS2 f s
  | .frcpeS2 f => Sys2Proof.Machine.execFrcpeS2 f s
  | .frsqeS2 f => Sys2Proof.Machine.execFrsqeS2 f s
  | .fceqS2 f => Sys2Proof.Machine.execFceqS2 f s
  | .fcltS2 f => Sys2Proof.Machine.execFcltS2 f s
  | .fcleS2 f => Sys2Proof.Machine.execFcleS2 f s
  | .fclassS2 f => Sys2Proof.Machine.execFclassS2 f s
  | .frndS2 f => Sys2Proof.Machine.execFrndS2 f s
  | .faddH4 f => Sys2Proof.Machine.execFaddH4 f s
  | .fsubH4 f => Sys2Proof.Machine.execFsubH4 f s
  | .fmulH4 f => Sys2Proof.Machine.execFmulH4 f s
  | .fmaH4 f => Sys2Proof.Machine.execFmaH4 f s
  | .fminH4 f => Sys2Proof.Machine.execFminH4 f s
  | .fmaxH4 f => Sys2Proof.Machine.execFmaxH4 f s
  | .fdotwH4 f => Sys2Proof.Machine.execFdotwH4 f s
  | .fdotwQ8 f => Sys2Proof.Machine.execFdotwQ8 f s
  | .fsumS2 f => Sys2Proof.Machine.execFsumS2 f s
  | .cvtSI f => Sys2Proof.Machine.execCvtSI f s
  | .cvtIS f => Sys2Proof.Machine.execCvtIS f s
  | .packBf f => Sys2Proof.Machine.execPackBf f s
  | .unpkBfLo f => Sys2Proof.Machine.execUnpkBfLo f s
  | .unpkBfHi f => Sys2Proof.Machine.execUnpkBfHi f s
  | .packE4 f => Sys2Proof.Machine.execPackE4 f s
  | .packE5 f => Sys2Proof.Machine.execPackE5 f s
  | .unpkE4Lo f => Sys2Proof.Machine.execUnpkE4Lo f s
  | .unpkE4Hi f => Sys2Proof.Machine.execUnpkE4Hi f s
  | .unpkE5Lo f => Sys2Proof.Machine.execUnpkE5Lo f s
  | .unpkE5Hi f => Sys2Proof.Machine.execUnpkE5Hi f s
  | .packF16 f => Sys2Proof.Machine.execPackF16 f s
  | .unpkF16Lo f => Sys2Proof.Machine.execUnpkF16Lo f s
  | .unpkF16Hi f => Sys2Proof.Machine.execUnpkF16Hi f s
  | .qntI8 f => Sys2Proof.Machine.execQntI8 f s
  | .deqI8Lo f => Sys2Proof.Machine.execDeqI8Lo f s
  | .spawn f => Sys2Proof.Machine.execSpawn f s
  | .tfree f => Sys2Proof.Machine.execTfree f s
  | .pooln f => Sys2Proof.Machine.execPooln f s
  | .chst f => Sys2Proof.Machine.execChst f s
  | .join f => Sys2Proof.Machine.execJoin f s
  | .rdcnt f => Sys2Proof.Machine.execRdcnt f s
  | .spill f => Sys2Proof.Machine.execSpill f s
  | .fill f => Sys2Proof.Machine.execFill f s
  | .rdsr f => Sys2Proof.Machine.execRdsr f s
  | .wrsr f => Sys2Proof.Machine.execWrsr f s
  | .setsc f => Sys2Proof.Machine.execSetsc f s
  | .rdflg f => Sys2Proof.Machine.execRdflg f s
  | .clrflg f => Sys2Proof.Machine.execClrflg f s
  | .ld f => Sys2Proof.Machine.execLd f s
  | .st f => Sys2Proof.Machine.execSt f s
  | .lde f => Sys2Proof.Machine.execLde f s
  | .stf f => Sys2Proof.Machine.execStf f s
  | .amo f => Sys2Proof.Machine.execAmo f s
  | .cas f => Sys2Proof.Machine.execCas f s
  | .gat f => Sys2Proof.Machine.execGat f s
  | .sca f => Sys2Proof.Machine.execSca f s
  | .copy f => Sys2Proof.Machine.execCopy f s
  | .ccan f => Sys2Proof.Machine.execCcan f s
  | .barArv f => Sys2Proof.Machine.execBarArv f s
  | .barDrop f => Sys2Proof.Machine.execBarDrop f s
  | .barInit f => Sys2Proof.Machine.execBarInit f s
  | .barQ f => Sys2Proof.Machine.execBarQ f s
  | .qpush f => Sys2Proof.Machine.execQpush f s
  | .sbar f => Sys2Proof.Machine.execSbar f s
  | .qry f => Sys2Proof.Machine.execQry f s
  | .qabort f => Sys2Proof.Machine.execQabort f s
  | .trap f => Sys2Proof.Machine.execTrap f s
  | .brk f => Sys2Proof.Machine.execBrk f s
  | .migr f => Sys2Proof.Machine.execMigr f s
  | .tinval f => Sys2Proof.Machine.execTinval f s
  | .svc f => Sys2Proof.Machine.execSvc f s
  | .sld f => Sys2Proof.Machine.execSld f s
  | .sst f => Sys2Proof.Machine.execSst f s
  | .samo f => Sys2Proof.Machine.execSamo f s
  | .hacq f => Sys2Proof.Machine.execHacq f s
  | .hcommit f => Sys2Proof.Machine.execHcommit f s
  | .hread f => Sys2Proof.Machine.execHread f s
  | .hrel f => Sys2Proof.Machine.execHrel f s
  | .hstat f => Sys2Proof.Machine.execHstat f s
  | .tlook f => Sys2Proof.Machine.execTlook f s
  | .tins f => Sys2Proof.Machine.execTins f s
  | .tevict f => Sys2Proof.Machine.execTevict f s
  | .gen f => Sys2Proof.Machine.execGen f s
  | .genp f => Sys2Proof.Machine.execGenp f s
  | .isect f => Sys2Proof.Machine.execIsect f s
  | .merge f => Sys2Proof.Machine.execMerge f s
  | .topk f => Sys2Proof.Machine.execTopk f s
  | .prune f => Sys2Proof.Machine.execPrune f s
  | .redc f => Sys2Proof.Machine.execRedc f s
  | .mldB f => Sys2Proof.Machine.execMldB f s
  | .mldBs f => Sys2Proof.Machine.execMldBs f s
  | .mrow f => Sys2Proof.Machine.execMrow f s
  | .mcfg f => Sys2Proof.Machine.execMcfg f s
  | .mdrain f => Sys2Proof.Machine.execMdrain f s
  | .mls f => Sys2Proof.Machine.execMls f s
  | .mclr f => Sys2Proof.Machine.execMclr f s
  | .cfgwEcw c => Sys2Proof.Machine.execCfgwEcw c s
  | .cfgwGuard c => Sys2Proof.Machine.execCfgwGuard c s
  | .cfgwAction c => Sys2Proof.Machine.execCfgwAction c s
  | .cfgwLiteral c => Sys2Proof.Machine.execCfgwLiteral c s
  | .cfgwChannel c => Sys2Proof.Machine.execCfgwChannel c s
  | .cfgwRouteHeader c => Sys2Proof.Machine.execCfgwRouteHeader c s
  | .cfgwRouteTarget c => Sys2Proof.Machine.execCfgwRouteTarget c s
  | .cfgwMeBinding c => Sys2Proof.Machine.execCfgwMeBinding c s
  | .cfgwHandleRecord c => Sys2Proof.Machine.execCfgwHandleRecord c s
  | .cfgwPartition c => Sys2Proof.Machine.execCfgwPartition c s
  | .cfgwBarrierInit c => Sys2Proof.Machine.execCfgwBarrierInit c s
  | .cfgwWaiterTarget c => Sys2Proof.Machine.execCfgwWaiterTarget c s
  | .cfgwTagPool c => Sys2Proof.Machine.execCfgwTagPool c s
  | .partialReconfigInstall ea => Sys2Proof.Machine.execPartialReconfigInstall ea s
  | .cfgswapSwap c => Sys2Proof.Machine.execCfgswapSwap c s
  | .cfgswapSplice c => Sys2Proof.Machine.execCfgswapSplice c s
  | .cfgswapClear c => Sys2Proof.Machine.execCfgswapClear c s
  | .errinj c => Sys2Proof.Machine.execErrinj c s
  | .errinjDisarm c => Sys2Proof.Machine.execErrinjDisarm c s
  | .errlogRemoveOldest c => Sys2Proof.Machine.execErrlogRemoveOldest c s
  | .errlogClearAll c => Sys2Proof.Machine.execErrlogClearAll c s
  | .ptroot c => Sys2Proof.Machine.execPtroot c s
  | .packCommit c => Sys2Proof.Machine.execPackCommit c s
  | .packCancel c => Sys2Proof.Machine.execPackCancel c s
  | .resultDelivery d => Sys2Proof.Machine.execResultDelivery d s
  | .channelWordArrival a => Sys2Proof.Machine.execChannelWordArrival a s
  | .creditReturn src => Sys2Proof.Machine.execCreditReturn src s
  | .routerArbitration link => Sys2Proof.Machine.execRouterArbitration link s
  | .tagRequest ea pool => Sys2Proof.Machine.execTagRequest ea pool s
  | .tagGrant grp pool => Sys2Proof.Machine.execTagGrant grp pool s
  | .tagCreditArrival ea pool tag spawn => Sys2Proof.Machine.execTagCreditArrival ea pool tag spawn s
  | .tagReleaseArrival grp pool tag ea ctx slot => Sys2Proof.Machine.execTagReleaseArrival grp pool tag ea ctx slot s
  | .bankService bank => Sys2Proof.Machine.execBankService bank s
  | .handleFullAfterCommit ea h => Sys2Proof.Machine.execHandleFullAfterCommit ea h s
  | .operatorInput ea => Sys2Proof.Machine.execOperatorInput ea s
  | .operatorEnd ea => Sys2Proof.Machine.execOperatorEnd ea s
  | .meQueueFill ea => Sys2Proof.Machine.execMeQueueFill ea s
  | .meRowReadServed ea isC id part addr => Sys2Proof.Machine.execMeRowReadServed ea isC id part addr s
  | .mePlaneRead ea read => Sys2Proof.Machine.execMePlaneRead ea read s
  | .mePlaneReady ea => Sys2Proof.Machine.execMePlaneReady ea s
  | .meRowLand l => Sys2Proof.Machine.execMeRowLand l s
  | .meOutputRowWrite ea id part => Sys2Proof.Machine.execMeOutputRowWrite ea id part s
  | .meNotice ea => Sys2Proof.Machine.execMeNotice ea s
  | .requestCreditReturn ea out epoch => Sys2Proof.Machine.execRequestCreditReturn ea out epoch s
  | .tlbLookup r => Sys2Proof.Machine.execTlbLookup r s
  | .tlbWalk w => Sys2Proof.Machine.execTlbWalk w s
  | .requestPerform r => Sys2Proof.Machine.execRequestPerform r s
  | .feService r => Sys2Proof.Machine.execFeService r s
  | .replyArrival r value poison => Sys2Proof.Machine.execReplyArrival r value poison s
  | .ackArrival r => Sys2Proof.Machine.execAckArrival r s
  | .orderTokenArrival ea out tag home => Sys2Proof.Machine.execOrderTokenArrival ea out tag home s
  | .joinWordEntry ea ctx id => Sys2Proof.Machine.execJoinWordEntry ea ctx id s
  | .genElementIssue ea g => Sys2Proof.Machine.execGenElementIssue ea g s
  | .genStreamEnd ea g => Sys2Proof.Machine.execGenStreamEnd ea g s
  | .copyFlowTake c => Sys2Proof.Machine.execCopyFlowTake c s
  | .ringBindArrival tile flow => Sys2Proof.Machine.execRingBindArrival tile flow s
  | .permitArrival tile flow => Sys2Proof.Machine.execPermitArrival tile flow s
  | .copyGranule tile p => Sys2Proof.Machine.execCopyGranule tile p s
  | .copyComplete tile flow status code => Sys2Proof.Machine.execCopyComplete tile flow status code s
  | .ccanAtHub tile ea ctx reg => Sys2Proof.Machine.execCcanAtHub tile ea ctx reg s
  | .barrierMessageArrival m => Sys2Proof.Machine.execBarrierMessageArrival m s
  | .completePhase tile bar => Sys2Proof.Machine.execCompletePhase tile bar s
  | .tinvalAck ea ctx => Sys2Proof.Machine.execTinvalAck ea ctx s
  | .qpushEntry r => Sys2Proof.Machine.execQpushEntry r s
  | .enqueueEntry e => Sys2Proof.Machine.execEnqueueEntry e s
  | .schedulerDecision die => Sys2Proof.Machine.execSchedulerDecision die s
  | .launchStart lid => Sys2Proof.Machine.execLaunchStart lid s
  | .launchComplete lid => Sys2Proof.Machine.execLaunchComplete lid s
  | .signalUpdate signal add => Sys2Proof.Machine.execSignalUpdate signal add s
  | .imageLoadRequest l => Sys2Proof.Machine.execImageLoadRequest l s
  | .spliceSwap ea => Sys2Proof.Machine.execSpliceSwap ea s
  | .spliceSettled ea => Sys2Proof.Machine.execSpliceSettled ea s
  | .kernelComplete grp => Sys2Proof.Machine.execKernelComplete grp s
  | .groupStall grp => Sys2Proof.Machine.execGroupStall grp s
  | .quiescence grp => Sys2Proof.Machine.execQuiescence grp s
  | .fenceArrival grp tile => Sys2Proof.Machine.execFenceArrival grp tile s
  | .faultRecordArrival r => Sys2Proof.Machine.execFaultRecordArrival r s
  | .svcReplyDelivery ea ctx value => Sys2Proof.Machine.execSvcReplyDelivery ea ctx value s
  | .migrationStart m => Sys2Proof.Machine.execMigrationStart m s
  | .migrationCommit id => Sys2Proof.Machine.execMigrationCommit id s
  | .queryAccept r => Sys2Proof.Machine.execQueryAccept r s
  | .queryAdmit stack => Sys2Proof.Machine.execQueryAdmit stack s
  | .queryStep stack => Sys2Proof.Machine.execQueryStep stack s
  | .queryComplete stack id => Sys2Proof.Machine.execQueryComplete stack id s
  | .qabortArrival stack id r => Sys2Proof.Machine.execQabortArrival stack id r s
  | .screeGather stack => Sys2Proof.Machine.execScreeGather stack s
  | .screeScatter stack => Sys2Proof.Machine.execScreeScatter stack s
  | .imageLoad m => Sys2Proof.Machine.execImageLoad m s
  | .enqueue m => Sys2Proof.Machine.execEnqueue m s
  | .memread m => Sys2Proof.Machine.execMemread m s
  | .memwrite m => Sys2Proof.Machine.execMemwrite m s
  | .regread m => Sys2Proof.Machine.execRegread m s
  | .regwrite m => Sys2Proof.Machine.execRegwrite m s
  | .preempt m => Sys2Proof.Machine.execPreempt m s
  | .domainCreate m => Sys2Proof.Machine.execDomainCreate m s
  | .domainDestroy m => Sys2Proof.Machine.execDomainDestroy m s
  | .telem m => Sys2Proof.Machine.execTelem m s
  | .powerCap m => Sys2Proof.Machine.execPowerCap m s
  | .fwUpdate m => Sys2Proof.Machine.execFwUpdate m s
  | .logRead m => Sys2Proof.Machine.execLogRead m s
  | .attest m => Sys2Proof.Machine.execAttest m s
  | .keyset m => Sys2Proof.Machine.execKeyset m s
  | .setModule m => Sys2Proof.Machine.execSetModule m s
  | .reset m => Sys2Proof.Machine.execReset m s
  | .ownerSet m => Sys2Proof.Machine.execOwnerSet m s
  | .pushWrite die port value => Sys2Proof.Machine.execPushWrite die port value s
  | .queueEnable queue value => Sys2Proof.Machine.execQueueEnable queue value s
  | .queueDisable queue value => Sys2Proof.Machine.execQueueDisable queue value s
  | .preqWrite grp value => Sys2Proof.Machine.execPreqWrite grp value s
  | .gcmdResume grp => Sys2Proof.Machine.execGcmdResume grp s
  | .gcmdRetire grp => Sys2Proof.Machine.execGcmdRetire grp s
  | .cctlResume ea ctx value => Sys2Proof.Machine.execCctlResume ea ctx value s
  | .svcReplyWrite ea ctx value die => Sys2Proof.Machine.execSvcReplyWrite ea ctx value die s
  | .pageResume grp seq => Sys2Proof.Machine.execPageResume grp seq s
  | .eventQueuePop die core => Sys2Proof.Machine.execEventQueuePop die core s
  | .commandStatusPop die port => Sys2Proof.Machine.execCommandStatusPop die port s
  | .fullBitSet stack unit => Sys2Proof.Machine.execFullBitSet stack unit s
  | .fullBitClear stack unit => Sys2Proof.Machine.execFullBitClear stack unit s
  | .appendGo port => Sys2Proof.Machine.execAppendGo port s
  | .linkEnable link => Sys2Proof.Machine.execLinkEnable link s
  | .linkDisable link => Sys2Proof.Machine.execLinkDisable link s
  | .linkFenceWrite link => Sys2Proof.Machine.execLinkFenceWrite link s
  | .linkReset link => Sys2Proof.Machine.execLinkReset link s
  | .registerWrite agent off value => Sys2Proof.Machine.execRegisterWrite agent off value s
  | .fwTransferTimeout => Sys2Proof.Machine.execFwTransferTimeout s
  | .preemptTimeout => Sys2Proof.Machine.execPreemptTimeout s
  | .linkDownRetry => Sys2Proof.Machine.execLinkDownRetry s
  | .remoteTimeout => Sys2Proof.Machine.execRemoteTimeout s
  | .stackReadyTimeout => Sys2Proof.Machine.execStackReadyTimeout s
  | .telemetrySample x => Sys2Proof.Machine.execTelemetrySample x s
  | .clockThrottle power hot => Sys2Proof.Machine.execClockThrottle power hot s
  | .powerOn => Sys2Proof.Machine.execPowerOn s
  | .bringupStageEnd image => Sys2Proof.Machine.execBringupStageEnd image s
  | .torReady stack ok capok version => Sys2Proof.Machine.execTorReady stack ok capok version s
  | .crestCoreAccess die core write addr bytes => Sys2Proof.Machine.execCrestCoreAccess die core write addr bytes s
  | .portOffline stack port => Sys2Proof.Machine.execPortOffline stack port s
  | .savedGroupDiscard grp => Sys2Proof.Machine.execSavedGroupDiscard grp s
  | .groupRelease grp => Sys2Proof.Machine.execGroupRelease grp s
  | .crestCoreAvailability die core available => Sys2Proof.Machine.execCrestCoreAvailability die core available s
  | .scrub unit correctable uncorrectable => Sys2Proof.Machine.execScrub unit correctable uncorrectable s
  | .machineCheck array entry ea dieScope => Sys2Proof.Machine.execMachineCheck array entry ea dieScope s
  | .preemptRequest grp hard => Sys2Proof.Machine.execPreemptRequest grp hard s
  | .deferFreeze grp stack freeze discard => Sys2Proof.Machine.execDeferFreeze grp stack freeze discard s
  | .restore grp digestOk => Sys2Proof.Machine.execRestore grp digestOk s
  | .groupRetire grp => Sys2Proof.Machine.execGroupRetire grp s
  | .remoteBatch stack id remote => Sys2Proof.Machine.execRemoteBatch stack id remote s
  | .nakReceive link ack => Sys2Proof.Machine.execNakReceive link ack s
  | .trainingEnd link lanes => Sys2Proof.Machine.execTrainingEnd link lanes s
  | .linkRetrain link => Sys2Proof.Machine.execLinkRetrain link s
  | .fenceFlitReceive link => Sys2Proof.Machine.execFenceFlitReceive link s
  | .linkFenced link => Sys2Proof.Machine.execLinkFenced link s
  | .remoteRequestArrival r => Sys2Proof.Machine.execRemoteRequestArrival r s
  | .flitReceive link flit srcModule load => Sys2Proof.Machine.execFlitReceive link flit srcModule load s
  | .appendCommit port mediaFails => Sys2Proof.Machine.execAppendCommit port mediaFails s

end Sys2Proof.Machine
end

