-- ==== Sys2Proof/Machine/Cycle.lean ====
section
/-! DEFINITION. One cycle of the machine (log 3): events that are due, conditions that hold at its start (quiescence, completion,
splices, tag requests, the watchdog, schedulers), the firings decided from that state (R85), and the next cycle. -/

namespace Sys2Proof.Machine

/-! ## Quiescence (R305) and completion (R296) -/

/-- The event is work in flight for quiescence: a result, a word, a request, a copy, a barrier message (R123, R252, R305). A phase
that is HELD is none: it is saved as it stands (R338). -/
def isWork (i : Instr) : Bool :=
  match i with
  | .resultDelivery _ | .channelWordArrival _ | .joinWordEntry _ _ _ | .tlbLookup _ | .tlbWalk _ | .requestPerform _
  | .feService _ | .replyArrival _ _ _ | .ackArrival _ | .orderTokenArrival _ _ _ _ | .copyFlowTake _ | .ccanAtHub _ _ _ _
  | .barrierMessageArrival _ | .qpushEntry _ | .migrationStart _ | .queryAccept _
  | .qabortArrival _ _ _ | .svcReplyDelivery _ _ _ => true
  | _ => false

/-- Work of a group is on its way: in the agenda, at a bank, at a router link, at a slice. A deferred request is none (R353). -/
def State.workInFlight (s : State) (gn : Nat) (g : Group) : Bool :=
  s.agenda.any (fun x => isWork x.instr && ownedBy gn g x.instr) ||
    s.banks.any (fun b => b.2.q.any (fun q => isWork q.instr && ownedBy gn g q.instr)) ||
    s.links.any (fun l => l.2.q.any (fun t => t.ownedBy gn g)) ||
    s.slices.any (fun p => p.2.walks.any (fun w => w.2.1.grp == gn) || p.2.waiting.any (fun w => w.1.grp == gn)) ||
    s.remotes.any (fun q => q.r.grp == gn) ||
    s.tinvs.any (fun t => g.covers t.ea) ||
    s.engines.any (fun e => e.2.queries.any (fun q => q.r.grp == gn) || e.2.scree.any (fun q => q.r.grp == gn))

/-- Every word reserved has entered its output: that of a join that waits is work in flight, too (R169). -/
def Elem.outsEmpty (e : Elem) : Bool := e.outs.all (fun o => o.2.places.isEmpty)

/-- Requests of a group that are held for a missing page, or wait for a place among them (R347). -/
def State.pageHeld (s : State) (gn : Nat) : List MReq :=
  s.slices.flatMap (fun p => ((p.2.held.map (·.r)) ++ p.2.beyond).filter (fun r => r.grp == gn))

/-- The qpushes of a context that a missing page holds: at their packet, or behind an access that it holds (R322, R349). -/
def State.pushesHeld (s : State) (e : Elem) (ea c : Nat) : Nat :=
  (s.pageHeld (s.groupNo ea)).countP (fun r => r.ea == ea && r.ctx == c && r.acc == .packet) +
    e.sends.countP (fun x => x.2.ctx == c && x.2.acc == .packet)

/-- An element is still: channels empty, no mark, no result to come, no engine at work, no slot eligible (R305). -/
def State.elemStill (s : State) (ea : Nat) (e : Elem) : Bool :=
  e.chans.all (fun c => c.2.q.isEmpty) && !e.marked && e.outsEmpty && e.barWaits.isEmpty && e.suQuiet && e.me.quiet &&
    e.gens.all (fun g => g.2.st != .running && g.2.fly.isEmpty) && e.table.isEmpty && e.tabWait.isEmpty &&
    e.tagCreds.all (fun c => c.2 != .asked) &&
    e.ctxs.all (fun c => c.2.qp ≤ s.pushesHeld e ea c.1 && c.2.svc.isNone && !c.2.wait.testBit waitTinval) && !s.anyEligible ea .all

/-- A hub is still: no flow is ACTIVE, nor one that stops while granules are on their way, and no copy waits for a flow (R269). -/
def Hub.still (h : Hub) : Bool := h.copies.isEmpty && h.flows.all (fun f => f.2.st != .active && f.2.fly.isEmpty)

/-- R305. -/
def State.quiescent (s : State) (gn : Nat) : Bool :=
  let g := s.group gn
  (s.groupElems g).all (fun p => s.elemStill p.1 p.2) && s.hubs.all (fun h => !g.covers h.1 || h.2.still) && !s.workInFlight gn g && g.rowData.isEmpty

/-- Every access of a group is performed (R266): nothing is held for a missing page, nor stopped at one. A deferred request is
withdrawn when its group is retired (R355). -/
def State.accessesDone (s : State) (gn : Nat) : Bool :=
  let g := s.group gn
  (s.pageHeld gn).isEmpty &&
    (s.groupElems g).all (fun p => p.2.gens.all (fun x => x.2.st != .stopped || !x.2.halt) && p.2.joins.isEmpty && p.2.barWaits.isEmpty &&
      p.2.sends.isEmpty) &&
    s.hubs.all (fun h => !g.covers h.1 || h.2.flows.all (fun f => f.2.st == .free))

/-! ## Splices (R290, R293) -/

/-- A copy that an element issued is not over. -/
def State.copiesOf (s : State) (ea : Nat) : Bool :=
  s.hubs.any (fun h => h.2.copies.any (fun c => c.ea == ea) || h.2.flows.any (fun f => f.2.st != .free && f.2.c.ea == ea)) ||
    s.agenda.any (fun x => match x.instr with
      | .copyFlowTake c => c.ea == ea
      | _ => false)

/-- A request of an element for an engine, on its way to its SE or at it. -/
def queryEvent (ea : Nat) (i : Instr) : Bool :=
  match i with
  | .requestPerform r => r.ea == ea && engineAcc r.acc
  | .queryAccept r => r.ea == ea
  | .qabortArrival _ _ r => r.ea == ea
  | _ => false

/-- A query, gather or scatter that an element issued is not over. -/
def State.queriesOf (s : State) (ea : Nat) : Bool :=
  s.engines.any (fun e => e.2.queries.any (fun q => q.r.ea == ea) || e.2.scree.any (fun q => q.r.ea == ea)) ||
    s.elems.any (fun p => p.2.table.any (fun t => t.r.ea == ea) || p.2.tabWait.any (fun r => r.ea == ea)) ||
    s.agenda.any (fun x => queryEvent ea x.instr) || s.links.any (fun l => l.2.q.any (fun t => t.parcel.any (fun p => p.evs.any (fun e => queryEvent ea e.2))))

/-- The ME's part of a splice (R223): quiescent, queues empty, no handle held. -/
def Me.spliceQuiet (m : Me) : Bool :=
  m.quiet && m.aq.rows.isEmpty && m.cq.rows.isEmpty && m.aq.handle.isNone && m.cq.handle.isNone && m.kept.isEmpty

/-- Each output that will carry a CFG word has a credit for each such target (R290, item 6). -/
def State.cfgCredits (s : State) (ea : Nat) : Bool :=
  let g := s.group (s.groupNo ea)
  let p := (s.elem ea).work
  (List.range 32).all (fun o =>
    let r := p.route o
    r.isReq || (List.range r.n).all (fun i =>
      !chanCfgin ((s.elem (g.targetEa (r.target i))).work.chanWord (tgtCh (r.target i)).toNat) || s.credit ea o i > 0))

/-- Items 3 to 6 of R290. An element that R284 holds still counts its slots, and so does one that waits for its first cycle. -/
def State.spliceFree (s : State) (ea : Nat) : Bool :=
  let e := s.elem ea
  !(s.modElem ea (fun e => { e with partials := [], holdUntil := 0 })).anyEligible ea ⟨true, false, false, false⟩ &&
    !e.marked && !s.resultsOut ea && e.ctxs.all (fun c => c.2.acks.isEmpty && c.2.qp == 0 && c.2.wait == 0) && e.joins.isEmpty &&
    e.barWaits.isEmpty && e.sends.isEmpty &&
    e.gens.all (fun g => g.2.st == .idle || (g.2.st == .done && g.2.fly.isEmpty)) && e.su.isNone && !s.copiesOf ea &&
    !s.queriesOf ea && e.me.spliceQuiet && e.ssts.isEmpty &&
    e.outs.all (fun o => o.2.places.isEmpty && o.2.free ≤ s.now && (o.1 < spillOut || o.2.reqs.isEmpty)) && s.cfgCredits ea

/-- Items 1 and 2 of R290. -/
def Elem.cfgOnly (e : Elem) (now : Nat) : Bool :=
  e.work.chans.all (fun c =>
    let q := (e.chan c.1).q
    if chanCfgin c.2 then
      match q with
      | [w] => w.word.kind == .cfg && w.came < now
      | _ => false
    else q.isEmpty)

/-- Items 1 and 2 of R290, but for words other than the CFG words (R293). -/
def Elem.cfgBeside (e : Elem) (now : Nat) : Bool :=
  e.work.chans.all (fun c => !chanCfgin c.2 ||
    match (e.chan c.1).q.filter (fun w => w.word.kind == .cfg) with
    | [w] => w.came < now
    | _ => false)

/-- An element routes into another (R293). -/
def State.routesInto (s : State) (x ea : Nat) : Bool :=
  let g := s.group (s.groupNo x)
  (s.elem x).work.routes.any (fun r => !r.2.isReq && (List.range r.2.n).any (fun i => g.targetEa (r.2.target i) == ea))

/-- A word of the old plane's side of a splice is on its way to an element. -/
def State.wordsToward (s : State) (ea : Nat) : Bool :=
  let mine (a : Arrival) : Bool := a.ea == ea && a.epoch ≤ (s.elem ea).wave
  s.agenda.any (fun x => match x.instr with
    | .channelWordArrival a => mine a
    | _ => false) || s.links.any (fun l => l.2.q.any (fun t => t.arrs.any mine))

/-- What an armed element does now: it is drained, or settled, or neither. -/
def State.triggerSplice (s : State) (g : Group) (ea : Nat) : State :=
  let e := s.elem ea
  if !e.armed || !s.spliceFree ea then s
  else if e.cfgOnly s.now then s.at_ s.now (.spliceSwap ea)
  else if e.offending.isSome && e.cfgBeside s.now && !(g.sites.any (fun x => x != ea && (s.elem x).armed && s.routesInto x ea)) && !s.wordsToward ea then
    s.at_ s.now (.spliceSettled ea)
  else s

/-! ## The watchdog (R302) -/

/-- A halt notice of the group awaits its crest core: it has not left the event queue. -/
def State.haltWaits (s : State) (gn : Nat) : Bool :=
  let mine (r : FRec) : Bool := r.isHalt && r.grp.toNat == gn
  s.hubs.any (fun h => h.2.recs.any mine || h.2.recWait.any mine) || s.cores.any (fun c => c.2.evq.any mine) ||
    s.agenda.any (fun x => match x.instr with
      | .faultRecordArrival r => mine r
      | _ => false)

/-- The counter of the watchdog counts. A RESIDENT kernel's group behaves as if fenced (R273). -/
def State.watchCounts (s : State) (gn : Nat) : Bool :=
  let g := s.group gn
  g.st == .live && g.kern.st != .resident && !s.slices.any (fun p => p.2.held.any (fun h => h.r.grp == gn)) && !s.haltWaits gn &&
    !(s.groupElems g).any (fun p => p.2.ctxs.any (fun c => c.2.svc.isSome))

/-- The counter in this cycle: reset by progress that reaches the origin hub, or counted; at WLIM the group stalls. -/
def State.watch (s : State) (gn : Nat) : State :=
  let g := s.group gn
  let n := if g.progress.contains s.now then 0 else if s.watchCounts gn then g.wdog + 1 else g.wdog
  let s := s.setGroup gn { g with wdog := n, progress := g.progress.filter (fun t => s.now < t) }
  if g.st == .live && g.wlim * 65536 ≤ n && g.wdog < n then s.at_ s.now (.groupStall gn) else s

/-! ## Groups -/

/-- A RUNNING kernel whose contexts have all exited drains (Table 11-1). -/
def State.kernDrains (s : State) (gn : Nat) : State :=
  let g := s.group gn
  if g.st == .live && g.kern.st == .running && !g.armed && s.allExited g then
    s.setGroup gn { g with kern := { g.kern with st := .draining } }
  else s

/-- What happens to a group in this cycle: its watchdog, whose fence keeps a kernel from completing in the same cycle (R404), then
completion, quiescence, the bound of a pre-emption, its splice. -/
def State.triggerGroup (s : State) (gn : Nat) : State :=
  let s := ((s.retryInstall gn).kernDrains gn).writeHeldRows gn
  let g := s.group gn
  let s := s.watch gn
  let s :=
    if g.st == .live && g.kern.st == .draining && !g.armed && s.allExited g && s.quiescent gn && s.accessesDone gn then
      s.at_ s.now (.kernelComplete gn)
    else if g.st == .draining && s.quiescent gn && (!s.allExited g || s.accessesDone gn) then s.at_ s.now (.quiescence gn)
    else s
  let s := if g.preemptDue s.now then s.at_ s.now .preemptTimeout else s
  if g.st == .live && g.armed then g.sites.foldl (fun s ea => s.triggerSplice g ea) s else s

/-- Tag requests that TEs send in this cycle (R97). -/
def State.triggerTags (s : State) (ea : Nat) : State :=
  (List.range 8).foldl (fun t k => if s.tagDue ea k then t.at_ s.now (.tagRequest ea k) else t) s

/-! ## Schedulers, append ports, crest cores -/

/-- A queue of the die is not DISABLED and holds an entry: its scheduler decides every 16 fc (R326). -/
def State.schedules (s : State) (die : Nat) : Bool :=
  s.dieUp die && (dieQueues die).any (fun q => (s.queue q).st != .disabled && !(s.queue q).ents.isEmpty)

/-- The decisions of this cycle, in ascending order of dies (R299). -/
def State.triggerSchedulers (s : State) : State :=
  if s.now % 16 == 0 then
    (List.range Config.dies).foldl (fun s d => if s.schedules d then s.at_ s.now (.schedulerDecision d) else s) s
  else s

/-- Appends that are due commit (R357). -/
def State.triggerAppends (s : State) : State :=
  (List.range 8).foldl (fun s n =>
    if (s.append n).stat == alBusy && (s.append n).due ≤ s.now then outState (execAppendCommit n false s) s else s) s

/-- The conditions of a cycle, looked at once. -/
def State.triggers (s : State) : State :=
  let s := (s.groups.map (·.1)).foldl State.triggerGroup s
  let s := (s.elems.map (·.1)).foldl State.triggerTags s
  let s := (s.hubs.map (·.1)).foldl State.engineCycle s
  let s := (s.elems.filter (fun p => !p.2.tabWait.isEmpty)).foldl (fun s p => s.tableFlush p.1) s
  (((((((s.triggerSchedulers).triggerAppends).serveCores).retryAnswers).flushHubs).flushNotices).flushCores).summitTurn

/-! ## Injections at other state (R417) -/

/-- The place of a translation in a slice. -/
def State.slicePlace (s : State) (r : MReq) : Nat :=
  ((s.slice ((s.group r.grp).owner r.addr)).ents.findIdx? (fun t => t.maps r.dom (vbits r.addr / 65536))).getD 256

/-- An event that meets an armed injection in a router, a link between dies, a hub table (barriers, pools, partitions, spill map) or a
slice (R417, log 35). -/
def State.beforeEvent (s : State) (i : Instr) : State :=
  if s.injs.isEmpty then s
  else
    let hit (array ea entry : Nat) : State := (s.injected array ea entry).getD s
    match i with
    | .routerArbitration l =>
      let s := hit 5 (l / 4) (l % 4)
      if dieCross (l / 4) (stepSite (l / 4) (l % 4)) == 0 then s else (s.injected 11 (eaDie (l / 4)) (l % 4)).getD s
    | .requestPerform r =>
      if r.stage == 0 && r.endp == 0x81 then hit 6 (tileOf r.dst) r.part
      else if r.stage == 0 && r.who == .spill && r.endp == 0x80 then hit 6 (tileOf r.ea) (seIndex r.dst)
      else s
    | .copyFlowTake c => if c.ssrc then hit 6 c.tile c.spart else s
    | .barrierMessageArrival m => hit 6 m.tile m.bar
    | .tagGrant g k => hit 6 (s.group g).origin k
    | .tagReleaseArrival g k _ _ _ _ => hit 6 (s.group g).origin k
    | .tlbLookup r => hit 7 ((s.group r.grp).owner r.addr) (s.slicePlace r)
    | _ => s

/-! ## Firings -/

/-- A slot that fails one of the checks 7 to 16 fires (R43): PRIV for a command-only opcode or a missing capability, whatever it
fails before, ILLEGAL_OP otherwise, with the number of the first failing check; nothing else happens. -/
def State.illegalSlot (s : State) (cu : Cursor) (w : SlotW) (check : Nat) : State :=
  let uncapped := (opInfo w.op).any (fun o => !check16 (s.slotEnv cu.ea) o)
  s.raiseSync cu (if commandOnly w.op || uncapped then 0x04 else 0x01) check (w.action.setWidth 64)

/-- What a chosen firing does: its slot's words are fetched from the active plane, judged, decoded and executed; a parity error
injected into the slot or the context stops it (R43, R282, R411). -/
def State.fetch (s : State) (cu : Cursor) : Sum State Instr :=
  let w := ((s.elem cu.ea).planeNow s.now).slot cu.slot
  match s.injected 2 cu.ea cu.slot with
  | some s' => .inl s'
  | none =>
    match s.injected 4 cu.ea cu.ctx with
    | some s' => .inl s'
    | none =>
      match s.slotFails cu.ea w, decodeSlot w.guard w.action w.lit with
      | some k, _ => .inl (s.illegalSlot cu w k)
      | none, .ok i => .inr i
      | none, .error _ => .inl (s.illegalSlot cu w 11)

/-- A chosen firing. -/
def State.fire (s : State) (cu : Cursor) : Host.Outcome State Fault Refusal :=
  match s.fetch cu with
  | .inl s' => .next s'
  | .inr i => exec i s

/-! ## The cycle -/

/-- The next event that is due, and the agenda without it; the engines' events wait for the firings of their cycle (R167). -/
def State.popDue (s : State) : Option (Instr × State) :=
  match s.agenda with
  | [] => none
  | x :: rest =>
    if x.due ≤ s.now && (x.key < engineKey || s.phase == .fire || x.due < s.now) then some (x.instr, { s with agenda := rest })
    else none

/-- A due event happens. -/
def State.runEvent (i : Instr) (s : State) : Host.Outcome State Fault Refusal := exec i (s.beforeEvent i)

/-- The handles and rings of the SEs are kept for the MEs that fire in the cycle. -/
def State.remember (s : State) : State :=
  if s.chosen.any (fun c => physKind c.ea == 2) then
    { s with found := (s.elems.filter (fun p => physKind p.1 == 1)).map (fun p => (p.1, p.2.handles, p.2.rings)) }
  else s

/-- The cycle's next part: its conditions, its firings, the next cycle. -/
def State.advance (s : State) : State :=
  match s.phase with
  | .events => { s.triggers with phase := .triggered }
  | .triggered => { s with phase := .fire, chosen := s.firings }.remember
  | .fire => { s with phase := .events, now := s.now + 1, found := [] }

/-- One step: a chosen firing, or else a due event, or else the cycle's next part. -/
def State.stepOnce (s : State) : Host.Outcome State Fault Refusal :=
  match s.chosen with
  | cu :: rest => { s with chosen := rest, cur := some cu }.fire cu
  | [] =>
    match s.popDue with
    | some (i, s') => State.runEvent i s'
    | none => .next s.advance

/-! ## One instruction placed where the next step runs it -/

/-- The element of a kind at the first tile. -/
def kindSite : EKind → Nat
  | .se => 0
  | .me => 3
  | _ => 1

/-- The kind of an element that holds an opcode. -/
def opKind (op : Nat) : EKind :=
  match opInfo op with
  | some o => if o.te then .te else if o.se then .se else .me
  | none => .te

/-- Code of a kind (Table 2-8). -/
def kindEcw : EKind → Nat
  | .te => 0
  | .se => 1
  | .me => 2
  | .empty => 3

/-- A plane with one slot: every context enabled, every capability, every channel bound with depth 1, every output routed to
channel 0 of the element, or to module memory where the opcode sends requests. -/
def oneSlotPlane (ea : Nat) (k : EKind) (w : SlotW) : Plane :=
  let n := 2 ^ ctxsOf k - 1
  let tgt := if requestOp w.op then 0x82 * 2 ^ 32 else ea % 8 * 2 ^ 16 + ea / 8 % 8 * 2 ^ 24
  { ecw := BitVec.ofNat 64 (kindEcw k + n * 4 + 0xF000 + 32 * 65536 + 2 ^ 48)
    slots := [(0, w)]
    chans := (List.range 32).map (fun c => (c, BitVec.ofNat 64 (c + 256)))
    routes := (List.range 32).map (fun o => (o, ⟨1, [(0, BitVec.ofNat 64 tgt)]⟩))
    handles := []
    meb := (0, 0) }

/-- The element that holds it. -/
def oneSlotElem (ea : Nat) (k : EKind) (w : SlotW) : Elem :=
  let p := oneSlotPlane ea k w
  { Elem.zero with
    p0 := p, work := p, ctxs := (List.range (ctxsOf k)).map (fun c => (c, { Ctx.zero with st := .running }))
    chans := (List.range 32).map (fun c => (c, { Chan.zero with st := .opened })) }

/-- A slot placed for the next step: a LIVE group of one tile whose kernel runs, on a released die. -/
def State.placeSlot (s : State) (w : SlotW) : State :=
  let k := opKind w.op
  let ea := kindSite k
  let g : Group := { Group.zero with st := .live, kern := { Kern.zero with st := .running, kid := 1 } }
  { s with
    dies := tput .zero 0 ⟨some s.now, .zero⟩ s.dies
    groups := tput .zero 0 g s.groups
    elems := tput .zero ea (oneSlotElem ea k w) s.elems
    phase := .fire
    chosen := [⟨ea, (w.fields.cm.toNat.log2), 0⟩] }

/-- An instruction whose bits are `w` placed so that the next step runs it (log 12): a slot in an element, a command due now. -/
def State.placeWord (s : State) (nbits w : Nat) : State :=
  let bs := leBytes 24 (w % 2 ^ nbits)
  match decodeTableWord nbits w with
  | none => s
  | some i =>
    if w.testBit 63 then s.placeSlot ⟨wAt 64 bs 0 8, wAt 32 bs 16 4, wAt 64 bs 8 8⟩
    else { s with chosen := [], agenda := ⟨s.now, 0, i⟩ :: s.agenda }

end Sys2Proof.Machine
end

