-- ==== Sys2Proof/Machine/Step.lean ====
section
/-! DEFINITION. One step of the machine. -/

namespace Sys2Proof.Machine

/-- One step: the next chosen firing, the next event that is due, or the next part of the cycle (log 3). -/
def step (s : State) : Host.Outcome State Fault Refusal := s.stepOnce

/-- The state in which the next step runs the instruction of the bits `w` (log 12). -/
def State.withFetchWord (s : State) (nbits w : Nat) : State := s.placeWord nbits w

end Sys2Proof.Machine
end

