-- ==== Sys2Proof/Safety.lean ====
section
/-! DEFINITION. The words that statements about the machine are written in: what a step leaves alone, what it puts on the
agenda, when a firing goes through, and the invariant that every step keeps. -/

namespace Sys2Proof.Machine

/-! ## What is on the way -/

/-- The event `i` is on the agenda for cycle `n`. -/
def State.awaits (s : State) (n : Nat) (i : Instr) : Prop := ∃ x ∈ s.agenda, x.due = n ∧ x.instr = i

/-- Everything that was on the agenda is still on it. -/
def State.keepsAgenda (s t : State) : Prop := ∀ x ∈ s.agenda, x ∈ t.agenda

/-! ## Frames -/

/-- Every byte of memory, every poison mark and every full bit is as before. -/
def sameMemory (s t : State) : Prop :=
  (∀ a, t.readByte a = s.readByte a) ∧ (∀ u, t.poisoned u = s.poisoned u) ∧ ∀ u, t.isFull u = s.isFull u

/-- What a program reads of a context is as before: its state, registers, predicates, flags, context tag, spill registers. -/
def sameCtx (c d : Ctx) : Prop :=
  d.st = c.st ∧ d.regs = c.regs ∧ d.pred = c.pred ∧ d.flags = c.flags ∧ d.tag = c.tag ∧ d.spillBase = c.spillBase ∧
    d.spillOvf = c.spillOvf

/-- An element has changed in nothing but what a firing uses: contexts, the pointer P, firing counters, input channels, outputs, tag
credits. -/
def sameElem (d e : Elem) : Prop :=
  e = { d with
    ctxs := e.ctxs, ptr := e.ptr, slotFires := e.slotFires, chans := e.chans, outs := e.outs, tagCreds := e.tagCreds }

/-- Nothing outside elements, groups, the agenda and the number of the next thing in flight has changed. -/
def sameModule (s t : State) : Prop :=
  t = { s with elems := t.elems, groups := t.groups, agenda := t.agenda, serial := t.serial }

/-- A group has changed in nothing but the progress events on their way to its watchdog (R302). -/
def sameGroup (g h : Group) : Prop := h = { g with progress := h.progress }

/-- The frame of what an element does on its own: memory, the other elements, groups but for progress, and the rest of the module
are as before; nothing leaves the agenda. -/
def elemFrame (s t : State) (ea : Nat) : Prop :=
  sameMemory s t ∧ (∀ x, x ≠ ea → t.elem x = s.elem x) ∧ (∀ gn, sameGroup (s.group gn) (t.group gn)) ∧ sameModule s t ∧
    s.keepsAgenda t

/-- The frame of an element that sends a word through the routers: their links may hold more (R156). -/
def routeFrame (s t : State) (ea : Nat) : Prop := elemFrame s { t with links := s.links } ea

/-- A word sets out in cycle `n` from site `a` to site `b`, where the event `i` follows its arrival by `late`: it joins the end of the
queue of its first link, or has no way to go (R155, R156). No other link changes. -/
def wordGoes (s t : State) (n a b late : Nat) (i : Instr) : Prop :=
  (a = b → t.links = s.links ∧ t.awaits (n + hops a b + late) i) ∧
  (a ≠ b → t.awaits n (.routerArbitration (linkNo a (nextDir a b))) ∧
    (∀ k, k ≠ linkNo a (nextDir a b) → t.rlink k = s.rlink k) ∧
    ∃ w : Transit, t.rlink (linkNo a (nextDir a b)) =
        { s.rlink (linkNo a (nextDir a b)) with q := (s.rlink (linkNo a (nextDir a b))).q ++ [w] } ∧
      w.ready = n ∧ w.port = 4 ∧ w.at_ = a ∧ ∃ p, w.parcel = some p ∧ p.dst = b ∧ (late, i) ∈ p.evs)

/-- A word that stands at site `a` from cycle `n` goes on towards site `b`: it joins the end of the queue of its next link, with the
events `evs` that follow its arrival and the ways `more` that it has after that. No other link changes. -/
def wordJoins (s t : State) (n a b : Nat) (evs : List (Nat × Instr)) (more : List (Nat × List (Nat × Instr))) : Prop :=
  let l := linkNo a (nextDir a b)
  t.awaits n (.routerArbitration l) ∧ (∀ k, k ≠ l → t.rlink k = s.rlink k) ∧
    ∃ w : Transit, t.rlink l = { s.rlink l with q := (s.rlink l).q ++ [w] } ∧ w.ready = n ∧ w.port = 4 ∧ w.at_ = a ∧
      w.parcel = some ⟨b, evs, more⟩

/-- A word sets out in cycle `n` from site `a` to its tile hub `b`, where the events `evs` follow, and from there to the slice `c`, where
the event `i` follows (R155, R156, R301). -/
def wordGoesOn (s t : State) (n a b c : Nat) (evs : List (Nat × Instr)) (i : Instr) : Prop :=
  (a ≠ b → wordJoins s t n a b evs [(c, [(0, i)])]) ∧
  (a = b → (∀ e ∈ evs, t.awaits (n + 1 + e.1) e.2) ∧ (b = c → t.links = s.links ∧ t.awaits (n + 1) i) ∧
    (b ≠ c → wordJoins s t (n + 1) b c [(0, i)] []))

/-- The frame of a firing at `cu` that writes no register at once: beside the frame of its element, the rest of the element and all
that programs read of its contexts are as before. -/
def fireFrame (s t : State) (cu : Cursor) : Prop :=
  elemFrame s t cu.ea ∧ sameElem (s.elem cu.ea) (t.elem cu.ea) ∧ ∀ c, sameCtx (s.ctx cu.ea c) (t.ctx cu.ea c)

/-- Only element `ea` has changed. -/
def onlyElem (s t : State) (ea : Nat) : Prop := (∀ x, x ≠ ea → t.elem x = s.elem x) ∧ t = { s with elems := t.elems }

/-- What programs read of every context, every byte of memory, poison mark and full bit is as before. -/
def sameProgram (s t : State) : Prop := sameMemory s t ∧ ∀ ea c, sameCtx (s.ctx ea c) (t.ctx ea c)

/-- The event answers a next state of which `p` holds. -/
def gives (i : Instr) (s : State) (p : State → Prop) : Prop := ∃ t, exec i s = .next t ∧ p t

/-- The status word of a command that takes effect now is at its port 6 + 24c fc later (R279, Table 11-3). -/
def statusComes (s t : State) (c : Cmd) (code detail ea : Nat) : Prop :=
  (t.cport c.die c.port).replies = (s.cport c.die c.port).replies ++
    [(s.now + 6 + 24 * s.cmdCross c, BitVec.ofNat 64 (code + detail * 2 ^ 8 + ea % 2 ^ 14 * 2 ^ 16))]

/-! ## Firings -/

/-- The firing of `f` at `cu` goes through: neither source is poisoned (R163), and a tag it releases is of a declared pool (R98). -/
def State.goes (s : State) (cu : Cursor) (f : SlotF) : Prop :=
  s.cur = some cu ∧ (readSource s cu f f.sa).poison = false ∧ (readSource s cu f f.sb).poison = false ∧ badRelease s cu f = false

/-- What every firing counts and pops: one firing of the context and of the slot, the pointer P at the context (R81, R88), the head
of each channel that the guard pops (R91). -/
def State.counts (s t : State) (cu : Cursor) (f : SlotF) : Prop :=
  (t.ctx cu.ea cu.ctx).fires = (s.ctx cu.ea cu.ctx).fires + 1 ∧ (t.elem cu.ea).ptr = cu.ctx ∧
    tget 0 cu.slot (t.elem cu.ea).slotFires = tget 0 cu.slot (s.elem cu.ea).slotFires + 1 ∧
    ∀ c, (t.chan cu.ea c).q = (s.chan cu.ea c).q.drop
      ((if f.ka ∧ f.ia.toNat = c then 1 else 0) + (if f.kb ∧ f.ib.toNat = c then 1 else 0))

/-- A result for destination `d` is on its way and lands `lat` cycles from now: register, predicates and the words for the
outputs that `d` names carry `v`, the flags are `fl` (Table 2-5, R119 to R121). -/
def State.delivers (s t : State) (cu : Cursor) (f : SlotF) (d : BitVec 5) (lat : Nat) (v : Word) (kind : WKind) (fl : FlagSet) : Prop :=
  ∃ r : Delivery, t.awaits (s.now + lat) (.resultDelivery r) ∧ r.ea = cu.ea ∧ r.ctx = cu.ctx ∧ r.reg = destReg d ∧
    r.value = v ∧ r.predMask = destPreds d ∧ r.predVal = destPredVal d v ∧ r.word = ⟨v, sentTag s cu f, kind⟩ ∧
    r.places.map (·.1) = destOuts f d ∧ r.flags = fl ∧ r.epoch = (s.elem cu.ea).epoch

/-- The firing answers a next state in which it is counted, the result `v` with flags `fl` is on its way to `d` and lands `lat`
cycles from now, and all else is as the frame of a firing says. -/
def computesTo (i : Instr) (s : State) (cu : Cursor) (f : SlotF) (d : BitVec 5) (lat : Nat) (v : Word) (fl : FlagSet) : Prop :=
  ∃ t, exec i s = .next t ∧ s.delivers t cu f d lat v .data fl ∧ s.counts t cu f ∧ fireFrame s t cu

/-- A firing whose result goes to DA. -/
def computes (i : Instr) (s : State) (cu : Cursor) (f : SlotF) (lat : Nat) (v : Word) (fl : FlagSet) : Prop :=
  computesTo i s cu f f.da lat v fl

/-- The firing answers a next state: the state `u` of a firing that is counted and delivers nothing, with the effect `g` of its own. -/
def firesWith (i : Instr) (s : State) (cu : Cursor) (f : SlotF) (g : State → State) : Prop :=
  ∃ u, exec i s = .next (g u) ∧ s.counts u cu f ∧ fireFrame s u cu

/-! ## The invariant -/

/-- What every step keeps: memory, and the table of elements, stand in their canonical form. -/
def State.Inv (s : State) : Prop := Memory.wf s.mem = true ∧ twf .zero s.elems = true

end Sys2Proof.Machine
end

