-- ==== Sys2Proof/Certificates/Slice0/Obligations.lean ====
section
/-! DEFINITION. The statements about the machine, for the provers: what its instructions and events do, what a step keeps, and
how words decode. A firing is that of a slot at a cursor (element, context, slot). -/

open Sys2Proof Sys2Proof.Machine

/-! ## Arithmetic (chapter 05) -/

/-- R124, Table 5-2: the scalar integer instructions. A firing that goes through completes, its result and flags are those of the
table, on their way with the latency of Table 5-11, and nothing else changes but what every firing changes. The element kinds that
may hold each are those of its table. -/
def Obligations.ScalarIntegerArithmetic : Prop :=
  (∀ op ∈ ([0x10, 0x11, 0x12, 0x13, 0x14, 0x15, 0x16, 0x17, 0x18, 0x1B, 0x1C, 0x1D, 0x1E, 0x1F] : List Nat), ∃ o, opInfo op = some o ∧ o.te = true ∧ o.se = decide (op ∈ [0x10, 0x11, 0x1B, 0x1C, 0x1D, 0x1E]) ∧ o.me = false) ∧
  ∀ (s : State) (cu : Cursor) (f : SlotF), s.goes cu f →
    let a := (readSource s cu f f.sa).val
    let b := (readSource s cu f f.sb).val
    let d := (s.ctx cu.ea cu.ctx).reg f.da.toNat
    let clamp (v : Int) : Word := BitVec.ofInt 64 (max (-2 ^ 63) (min (2 ^ 63 - 1) v))
    let sat (v : Int) : FlagSet := if -2 ^ 63 ≤ v ∧ v ≤ 2 ^ 63 - 1 then 0 else flSAT
    computes (.add f) s cu f 1 (BitVec.ofNat 64 (a.toNat + b.toNat)) 0 ∧
    computes (.sub f) s cu f 1 (BitVec.ofInt 64 ((a.toNat : Int) - b.toNat)) 0 ∧
    computes (.adds f) s cu f 1 (clamp (a.toInt + b.toInt)) (sat (a.toInt + b.toInt)) ∧
    computes (.addus f) s cu f 1 (BitVec.ofNat 64 (min (a.toNat + b.toNat) (2 ^ 64 - 1)))
      (if a.toNat + b.toNat < 2 ^ 64 then 0 else flSAT) ∧
    computes (.subs f) s cu f 1 (clamp (a.toInt - b.toInt)) (sat (a.toInt - b.toInt)) ∧
    computes (.mul f) s cu f 3 (BitVec.ofNat 64 (a.toNat * b.toNat)) 0 ∧
    computes (.mulh f) s cu f 3 ((BitVec.ofInt 128 (a.toInt * b.toInt)).extractLsb' 64 64) 0 ∧
    computes (.mulhu f) s cu f 3 ((BitVec.ofNat 128 (a.toNat * b.toNat)).extractLsb' 64 64) 0 ∧
    computes (.mac f) s cu f 3 (BitVec.ofNat 64 (d.toNat + a.toNat * b.toNat)) 0 ∧
    computes (.min f) s cu f 1 (BitVec.ofInt 64 (min a.toInt b.toInt)) 0 ∧
    computes (.max f) s cu f 1 (BitVec.ofInt 64 (max a.toInt b.toInt)) 0 ∧
    computes (.minu f) s cu f 1 (BitVec.ofNat 64 (min a.toNat b.toNat)) 0 ∧
    computes (.maxu f) s cu f 1 (BitVec.ofNat 64 (max a.toNat b.toNat)) 0 ∧
    computes (.abs f) s cu f 1 (BitVec.ofNat 64 (min a.toInt.natAbs (2 ^ 63 - 1))) (if a = 0x8000000000000000 then flSAT else 0)

/-- R125, R122: quotient and remainder, with the latency that the dividend's significant bits give, and a divider busy until then;
the firing is counted, and beside the divider nothing else changes but what every firing changes; no divu or remu slot is eligible
while it is busy. A division by zero is no fault. R126: lea delivers SA + SB·2^SH, or raises ADDR_OVERFLOW with SH and SA when a
step leaves the signed 64-bit range. -/
def Obligations.DivisionAndLea : Prop :=
  (∀ (s : State) (cu : Cursor) (f : SlotF) (k : Nat), s.goes cu f →
      let a := (readSource s cu f f.sa).val
      let b := (readSource s cu f f.sb).val
      a.toNat < 2 ^ k → (a = 0 ∨ 2 ^ (k - 1) ≤ a.toNat) → (a = 0 → k = 0) →
      let lat := 6 + (k + 1) / 2
      let q : Nat := if b = 0 then 2 ^ 64 - 1 else a.toNat / b.toNat
      let m : Nat := if b = 0 then a.toNat else a.toNat - q * b.toNat
      let idle (x : State) : State := x.modElem cu.ea (fun e => { e with divFree := (s.elem cu.ea).divFree })
      ∃ t u, exec (.divu f) s = .next t ∧ exec (.remu f) s = .next u ∧
        s.delivers t cu f f.da lat (BitVec.ofNat 64 q) .data 0 ∧ s.delivers u cu f f.da lat (BitVec.ofNat 64 m) .data 0 ∧
        s.counts t cu f ∧ s.counts u cu f ∧ (t.elem cu.ea).divFree = s.now + lat ∧ (u.elem cu.ea).divFree = s.now + lat ∧
        fireFrame s (idle t) cu ∧ fireFrame s (idle u) cu ∧
        ∀ w : SlotW, (w.op = 0x19 ∨ w.op = 0x1A) → s.slotFails cu.ea w = none → s.slotElig cu w .all = true → (s.elem cu.ea).divFree ≤ s.now) ∧
  (∀ (s : State) (cu : Cursor) (f : SlotF), s.goes cu f →
      let a := (readSource s cu f f.sa).val
      let b := (readSource s cu f f.sb).val
      let sh := f.lit.toNat % 64
      let p : Int := b.toInt * 2 ^ sh
      let fits (v : Int) : Prop := -2 ^ 63 ≤ v ∧ v ≤ 2 ^ 63 - 1
      (fits p ∧ fits (a.toInt + p) → computes (.lea f) s cu f 1 (BitVec.ofInt 64 (a.toInt + p)) 0) ∧
      (¬ (fits p ∧ fits (a.toInt + p)) → exec (.lea f) s = .next (s.raiseSync cu 0x10 sh a)))

/-- R127, R128, R129: logic, shifts, rotate, bit counts and bit fields, each with latency 1 and no flag. The element kinds that may
hold each are those of its table. -/
def Obligations.LogicShiftsAndBitFields : Prop :=
  (∀ op ∈ ([0x20, 0x21, 0x22, 0x23, 0x24, 0x25, 0x26, 0x27, 0x28, 0x29, 0x2A, 0x2B, 0x2C] : List Nat), ∃ o, opInfo op = some o ∧ o.te = true ∧ o.se = decide (op ∈ [0x20, 0x21, 0x22, 0x23, 0x24, 0x25, 0x26]) ∧ o.me = false) ∧
  ∀ (s : State) (cu : Cursor) (f : SlotF), s.goes cu f →
    let a := (readSource s cu f f.sa).val
    let b := (readSource s cu f f.sb).val
    let d := (s.ctx cu.ea cu.ctx).reg f.da.toNat
    let n := b.toNat % 64
    let pos := f.lit.toNat % 64
    let hi := min (pos + f.lit.toNat / 256 % 64) 63
    computes (.and f) s cu f 1 (a &&& b) 0 ∧ computes (.or f) s cu f 1 (a ||| b) 0 ∧
    computes (.xor f) s cu f 1 (a ^^^ b) 0 ∧ computes (.andn f) s cu f 1 (a &&& ~~~b) 0 ∧
    computes (.shl f) s cu f 1 (BitVec.ofNat 64 (a.toNat * 2 ^ n)) 0 ∧
    computes (.shr f) s cu f 1 (BitVec.ofNat 64 (a.toNat / 2 ^ n)) 0 ∧
    computes (.sar f) s cu f 1 (BitVec.ofInt 64 (a.toInt / 2 ^ n)) 0 ∧
    computes (.rol f) s cu f 1 (a.rotateLeft n) 0 ∧
    (∃ k, computes (.clz f) s cu f 1 (BitVec.ofNat 64 k) 0 ∧ k ≤ 64 ∧ (∀ i, 64 - k ≤ i → a.getLsbD i = false) ∧
      (k < 64 → a.getLsbD (63 - k) = true)) ∧
    (∃ k, computes (.ctz f) s cu f 1 (BitVec.ofNat 64 k) 0 ∧ k ≤ 64 ∧ (∀ i, i < k → a.getLsbD i = false) ∧
      (k < 64 → a.getLsbD k = true)) ∧
    computes (.popc f) s cu f 1 (BitVec.ofNat 64 ((Finset.range 64).filter (fun i => a.getLsbD i = true)).card) 0 ∧
    (∃ v : Word, computes (.bext f) s cu f 1 v 0 ∧ ∀ i < 64,
      v.getLsbD i = if i ≤ hi - pos then a.getLsbD (pos + i) else (f.lit.getLsbD 16 && a.getLsbD hi)) ∧
    (∃ v : Word, computes (.bins f) s cu f 1 v 0 ∧ ∀ i < 64,
      v.getLsbD i = if pos ≤ i ∧ i ≤ hi then a.getLsbD (i - pos) else d.getLsbD i)

/-- R130, R131: two lanes of 32 bits computed on their own, and one step of the saturating integer window sum. The element kinds
that may hold each are those of its table. -/
def Obligations.PackedIntegerLanes : Prop :=
  (∀ op ∈ ([0x30, 0x31, 0x32, 0x33, 0x34, 0x35, 0x36, 0x37] : List Nat), ∃ o, opInfo op = some o ∧ o.te = true ∧ o.se = decide (op ∈ ([] : List Nat)) ∧ o.me = false) ∧
  ∀ (s : State) (cu : Cursor) (f : SlotF), s.goes cu f →
    let a := (readSource s cu f f.sa).val
    let b := (readSource s cu f f.sb).val
    let d := (s.ctx cu.ea cu.ctx).reg f.da.toNat
    let l (x : Word) (i : Nat) : BitVec 32 := x.extractLsb' (32 * i) 32
    let pair (x1 x0 : BitVec 32) : Word := x1 ++ x0
    let each (g : BitVec 32 → BitVec 32 → BitVec 32) : Word := pair (g (l a 1) (l b 1)) (g (l a 0) (l b 0))
    let clamp (v : Int) : Int := max (-2 ^ 31) (min (2 ^ 31 - 1) v)
    let byte (x : Word) (i : Nat) : BitVec 8 := x.extractLsb' (8 * i) 8
    let c : Int := (l d 0).toInt
    let dot (g : BitVec 8 → Int) : Int := c + (g (byte a 0) * g (byte b 0) + g (byte a 1) * g (byte b 1) +
      g (byte a 2) * g (byte b 2) + g (byte a 3) * g (byte b 3) + g (byte a 4) * g (byte b 4) + g (byte a 5) * g (byte b 5) +
      g (byte a 6) * g (byte b 6) + g (byte a 7) * g (byte b 7))
    let sum (i : Nat) : Int := (l a i).toInt + (l b i).toInt
    computes (.addW2 f) s cu f 1 (each (· + ·)) 0 ∧ computes (.subW2 f) s cu f 1 (each (· - ·)) 0 ∧
    computes (.mulW2 f) s cu f 3 (each (· * ·)) 0 ∧
    computes (.minW2 f) s cu f 1 (each (fun x y => BitVec.ofInt 32 (min x.toInt y.toInt))) 0 ∧
    computes (.maxW2 f) s cu f 1 (each (fun x y => BitVec.ofInt 32 (max x.toInt y.toInt))) 0 ∧
    computes (.addsW2 f) s cu f 1 (each (fun x y => BitVec.ofInt 32 (clamp (x.toInt + y.toInt))))
      (if clamp (sum 0) = sum 0 ∧ clamp (sum 1) = sum 1 then 0 else flSAT) ∧
    computes (.idot8 f) s cu f 3 (BitVec.ofInt 64 (clamp (dot BitVec.toInt)))
      (if clamp (dot BitVec.toInt) = dot BitVec.toInt then 0 else flSAT) ∧
    computes (.idot8u f) s cu f 3 (BitVec.ofInt 64 (clamp (dot (fun x => (x.toNat : Int)))))
      (if clamp (dot (fun x => (x.toNat : Int))) = dot (fun x => (x.toNat : Int)) then 0 else flSAT)

/-- R132, Table 5-6: the integer compares deliver 1 when their condition holds and 0 otherwise. The element kinds that may hold each
are those of its table. -/
def Obligations.IntegerCompares : Prop :=
  (∀ op ∈ ([0x38, 0x39, 0x3A, 0x3B, 0x3C, 0x3D, 0x3E, 0x3F] : List Nat), ∃ o, opInfo op = some o ∧ o.te = true ∧ o.se = decide (op ∈ [0x38, 0x39, 0x3A, 0x3B, 0x3C, 0x3D, 0x3E, 0x3F]) ∧ o.me = false) ∧
  ∀ (s : State) (cu : Cursor) (f : SlotF), s.goes cu f →
    let a := (readSource s cu f f.sa).val
    let b := (readSource s cu f f.sb).val
    computes (.ceq f) s cu f 1 (if a = b then 1 else 0) 0 ∧ computes (.cne f) s cu f 1 (if a = b then 0 else 1) 0 ∧
    computes (.clt f) s cu f 1 (if a.toInt < b.toInt then 1 else 0) 0 ∧
    computes (.cle f) s cu f 1 (if a.toInt ≤ b.toInt then 1 else 0) 0 ∧
    computes (.cltu f) s cu f 1 (if a.toNat < b.toNat then 1 else 0) 0 ∧
    computes (.cleu f) s cu f 1 (if a.toNat ≤ b.toNat then 1 else 0) 0 ∧
    computes (.ctst f) s cu f 1 (if a &&& b = 0 then 0 else 1) 0 ∧ computes (.cz f) s cu f 1 (if a = 0 then 1 else 0) 0

/-- R134, R135, R136, R137: the lane results of the FP instructions, each lane formed exactly and rounded once to nearest even
(R133), with the latencies of Table 5-11. -/
def Obligations.FloatingPointLanes : Prop :=
  ∀ (s : State) (cu : Cursor) (f : SlotF), s.goes cu f →
    let a := (readSource s cu f f.sa).val
    let b := (readSource s cu f f.sb).val
    let d := (s.ctx cu.ea cu.ctx).reg f.da.toNat
    let lanes (m : Fmt) (g : FV → FV → FV → FV × FlagSet) : Res :=
      fpLanes m (fun i => fpRne m (g (fpVal m a i) (fpVal m b i) (fpVal m d i)))
    let sum (x y _ : FV) := addFV x y
    let diff (x y _ : FV) := addFV x (negFV y)
    let prod (x y _ : FV) := mulFV x y
    let fused (x y c : FV) := ((addFV (mulFV x y).1 c).1, (addFV (mulFV x y).1 c).2 ||| (mulFV x y).2)
    let gives (i : Instr) (lat : Nat) (r : Res) : Prop := computes i s cu f lat r.1 r.2
    gives (.faddS2 f) 4 (lanes fp32 sum) ∧ gives (.fsubS2 f) 4 (lanes fp32 diff) ∧ gives (.fmulS2 f) 4 (lanes fp32 prod) ∧
    gives (.fmaS2 f) 4 (lanes fp32 fused) ∧ gives (.faddH4 f) 4 (lanes bf16 sum) ∧ gives (.fsubH4 f) 4 (lanes bf16 diff) ∧
    gives (.fmulH4 f) 4 (lanes bf16 prod) ∧ gives (.fmaH4 f) 4 (lanes bf16 fused) ∧
    gives (.fminS2 f) 2 (aluFminmax false fp32 a b) ∧ gives (.fmaxS2 f) 2 (aluFminmax true fp32 a b) ∧
    gives (.fminH4 f) 2 (aluFminmax false bf16 a b) ∧ gives (.fmaxH4 f) 2 (aluFminmax true bf16 a b) ∧
    gives (.fceqS2 f) 2 (aluFceq a b) ∧ gives (.fcltS2 f) 2 (aluFclt a b) ∧ gives (.fcleS2 f) 2 (aluFcle a b) ∧
    gives (.fclassS2 f) 2 (aluFclass a, 0) ∧ gives (.frndS2 f) 2 (aluFrnd a) ∧ gives (.frcpeS2 f) 5 (aluFrcpe a) ∧
    gives (.frsqeS2 f) 5 (aluFrsqe a)

/-- R133 (items 2 to 4): the special cases of sums and products of lane values, for every format and every rounding: a NaN operand
gives a NaN, signalling ones raise NV, ∞ − ∞ and 0 × ∞ are invalid, a sum of opposite zeros is +0, and the sign of a zero product is
the exclusive or of the signs. R135: each lane of fmin and fmax is the pattern of one operand, chosen by order with −0 below +0 (of
opposite zeros the least is −0 and the greatest +0); a NaN lane gives the other operand, two NaN lanes the canonical NaN. R137: each
lane of fclass has exactly one bit set, and none above bit 9. -/
def Obligations.FloatingPointValues : Prop :=
  ((∀ (x : FV) (q : Bool), (addFV x (.nan q)).1 = .nan false ∧ (addFV (.nan q) x).1 = .nan false ∧
        (mulFV x (.nan q)).1 = .nan false ∧ (mulFV (.nan q) x).1 = .nan false ∧
        (addFV x (.nan true)).2 = flNV ∧ (addFV (.nan true) x).2 = flNV ∧
        (mulFV x (.nan true)).2 = flNV ∧ (mulFV (.nan true) x).2 = flNV) ∧
    (∀ n : Bool, addFV (.inf n) (.inf (!n)) = (.nan false, flNV) ∧ addFV (.inf n) (.inf n) = (.inf n, 0)) ∧
    (∀ (n z : Bool) (e : Int), mulFV (.inf n) (.fin z 0 e) = (.nan false, flNV) ∧ mulFV (.fin z 0 e) (.inf n) = (.nan false, flNV)) ∧
    (∀ (m n : Bool) (k : Fmt), k = fp32 ∨ k = bf16 →
        let zero (w : Bool) : Nat := k.signBit w
        fpRne k (addFV (k.value (zero m)) (k.value (zero n))) = (zero (m && n), 0) ∧
        fpRne k (mulFV (k.value (zero m)) (k.value (zero n))) = (zero (m != n), 0) ∧
        (fpRne k (.nan m, 0)).1 = k.nanBits)) ∧
  (∀ (k : Fmt) (a b : Word) (i : Nat), k = fp32 ∨ k = bf16 → i < 64 / k.width →
      let x := lane k.width a i
      let y := lane k.width b i
      let lo := lane k.width (aluFminmax false k a b).1 i
      let hi := lane k.width (aluFminmax true k a b).1 i
      (isNaN (k.value x) ∧ isNaN (k.value y) → lo = k.nanBits ∧ hi = k.nanBits) ∧
      (isNaN (k.value x) ∧ ¬ isNaN (k.value y) → lo = y ∧ hi = y) ∧
      (¬ isNaN (k.value x) ∧ isNaN (k.value y) → lo = x ∧ hi = x) ∧
      (¬ isNaN (k.value x) ∧ ¬ isNaN (k.value y) →
        (lo = x ∧ hi = y ∨ lo = y ∧ hi = x) ∧ ltFV (k.value hi) (k.value lo) = false) ∧
      (∀ n : Bool, x = k.signBit n → y = k.signBit (!n) → lo = k.signBit true ∧ hi = k.signBit false)) ∧
  (∀ (a : Word) (i : Nat), i < 2 → ∃ c < 10, lane 32 (aluFclass a) i = 2 ^ c
)

/-- R142, R143, R144, R145: window dots and sums, and conversions: what each takes from its operands, ECW.RND and ECW.WW, with the
latencies of Table 5-11. -/
def Obligations.WindowDotsAndConversions : Prop :=
  ∀ (s : State) (cu : Cursor) (f : SlotF), s.goes cu f →
    let e := s.elem cu.ea
    let a := (readSource s cu f f.sa).val
    let b := (readSource s cu f f.sb).val
    let oa := (readSource s cu f f.sa).src
    let ob := (readSource s cu f f.sb).src
    let d := (s.ctx cu.ea cu.ctx).reg f.da.toNat
    let w := windowWidth (ecwWw (e.ecwNow s.now))
    let m := rndOf (ecwRnd (e.ecwNow s.now))
    let gives (i : Instr) (lat : Nat) (r : Res) : Prop := computes i s cu f lat r.1 r.2
    gives (.fdotwH4 f) 6 (aluFdotwH4 w d a b oa ob) ∧ gives (.fdotwQ8 f) 6 (aluFdotwQ8 w d a b oa ob) ∧
    gives (.fsumS2 f) 6 (aluFsum w a) ∧ gives (.cvtSI f) 2 (aluCvtSI m a) ∧ gives (.cvtIS f) 2 (aluCvtIS m a) ∧
    gives (.packBf f) 2 (aluPack bf16 m a b) ∧ gives (.unpkBfLo f) 2 (aluUnpk16 bf16 0 a) ∧
    gives (.unpkBfHi f) 2 (aluUnpk16 bf16 2 a) ∧ gives (.packE4 f) 2 (aluPack8 f8e4 m a b) ∧
    gives (.packE5 f) 2 (aluPack8 f8e5 m a b) ∧ gives (.unpkE4Lo f) 2 (aluUnpk8 f8e4 0 a) ∧
    gives (.unpkE4Hi f) 2 (aluUnpk8 f8e4 4 a) ∧ gives (.unpkE5Lo f) 2 (aluUnpk8 f8e5 0 a) ∧
    gives (.unpkE5Hi f) 2 (aluUnpk8 f8e5 4 a) ∧ gives (.packF16 f) 2 (aluPack fp16 m a b) ∧
    gives (.unpkF16Lo f) 2 (aluUnpk16 fp16 0 a) ∧ gives (.unpkF16Hi f) 2 (aluUnpk16 fp16 2 a) ∧
    gives (.qntI8 f) 2 (aluQntI8 m a b) ∧ gives (.deqI8Lo f) 2 (aluDeqI8 m a b)

/-! ## Moves, predicates, counters and special registers (chapters 04 and 06) -/

/-- R102, R103, R104, R105, R163: moves and selections. A poisoned source passes on as POISON where outputs alone take it, and is a
fault elsewhere; steer sends on the one output that SB chooses; sendeos sends an EOS word. -/
def Obligations.MovesAndSelection : Prop :=
  ∀ (s : State) (cu : Cursor) (f : SlotF), s.cur = some cu → badRelease s cu f = false →
    let a := readSource s cu f f.sa
    let b := readSource s cu f f.sb
    let kind (x : Opnd) : WKind := if x.poison then .poison else .data
    let mayPass (x : Opnd) (d : BitVec 5) : Prop := x.poison = true → destOuts f d ≠ []
    (mayPass a f.da → ∃ t, exec (.mov f) s = .next t ∧ s.delivers t cu f f.da 1 a.val (kind a) 0 ∧ s.counts t cu f ∧
      fireFrame s t cu) ∧
    (mayPass a f.da → mayPass b f.db → ∃ t, exec (.mov2 f) s = .next t ∧ s.delivers t cu f f.da 1 a.val (kind a) 0 ∧
      s.delivers t cu f f.db 1 b.val (kind b) 0 ∧ s.counts t cu f ∧ fireFrame s t cu) ∧
    (b.poison = false → ∃ t, exec (.steer f) s = .next t ∧
      s.delivers t cu f (if b.val.getLsbD 0 then 16 else 17) 1 a.val (kind a) 0 ∧ s.counts t cu f ∧ fireFrame s t cu) ∧
    (a.poison = false → b.poison = false →
      computes (.sel f) s cu f 1 (if b.val.getLsbD 0 then a.val else f.lit) 0 ∧
      ∃ t, exec (.sendeos f) s = .next t ∧ s.delivers t cu f f.da 1 0 .eos 0 ∧ s.counts t cu f ∧ fireFrame s t cu) ∧
    (a.poison = true → destOuts f f.da = [] → exec (.mov f) s = .next (s.raisePoison cu a) ∧
      exec (.mov2 f) s = .next (s.raisePoison cu a)) ∧
    (b.poison = true → exec (.steer f) s = .next (s.raisePoison cu b))

/-- R106, R107, R109, R414, R415: the firings that end a context or do nothing but pop. A halt posts its notice (CODE 0, DETAIL 1);
a trap is the fault SW_TRAP with the literal; a brk does nothing without BRKEN or with SKIPBRK, else it halts the context and raises
BREAK. -/
def Obligations.EndingAContext : Prop :=
  ∀ (s : State) (cu : Cursor) (f : SlotF), s.goes cu f →
    let enabled := ecwBrken (s.elem cu.ea).work.ecw = true ∧ (s.ctx cu.ea cu.ctx).skipbrk = false
    firesWith (.drop f) s cu f id ∧
    firesWith (.exit f) s cu f (fun u => u.modCtx cu.ea cu.ctx (fun c => { c with st := .exited })) ∧
    firesWith (.halt f) s cu f (fun u => (u.modCtx cu.ea cu.ctx (fun c => { c with st := .halted })).raiseRec (u.groupNo cu.ea) cu.ea
      cu.ea (some cu.ctx) (some cu.slot) 0 false false 1 0) ∧
    exec (.trap f) s = .next (s.raiseSync cu 0x70 0 f.lit) ∧
    (¬ enabled → firesWith (.brk f) s cu f (fun u => u.modCtx cu.ea cu.ctx (fun c => { c with skipbrk := false }))) ∧
    (enabled → firesWith (.brk f) s cu f (fun u =>
      (u.modCtx cu.ea cu.ctx (fun c => { c with st := .halted })).raiseRec (u.groupNo cu.ea) cu.ea cu.ea (some cu.ctx) (some cu.slot)
        0x71 false true 0 f.lit))

/-- R108, R110, R116, R117, R170: predicates are written one cycle later, under the literal's mask; the context tag, SPILLOVF (its
low three bits 0), scale registers and cleared flags change with the firing; a write to another special register changes nothing. -/
def Obligations.WritesOfPredicatesAndRegisters : Prop :=
  ∀ (s : State) (cu : Cursor) (f : SlotF), s.goes cu f →
    let a := (readSource s cu f f.sa).val
    let mask : Byte := f.lit.setWidth 8
    let i := f.lit.toNat % 16
    let sends (j : Instr) (v : Byte) : Prop := ∃ t, exec j s = .next t ∧ s.counts t cu f ∧ fireFrame s t cu ∧
      (mask ≠ 0 → ∃ r : Delivery, t.awaits (s.now + 1) (.resultDelivery r) ∧ r.ea = cu.ea ∧ r.ctx = cu.ctx ∧ r.reg = none ∧
        r.predMask = mask ∧ r.predVal = v &&& mask ∧ r.places = [] ∧ r.flags = 0 ∧ r.epoch = (s.elem cu.ea).epoch)
    let sets (j : Instr) (g : Ctx → Ctx) : Prop := firesWith j s cu f (fun u => u.modCtx cu.ea cu.ctx g)
    sends (.pset f) 0xFF ∧ sends (.pclr f) 0 ∧ sends (.pmov f) (a.setWidth 8) ∧
    sets (.ctag f) (fun c => { c with tag := a.setWidth 8 }) ∧
    sets (.clrflg f) (fun c => { c with flags := c.flags &&& ~~~(f.lit.setWidth 6) }) ∧
    firesWith (.setsc f) s cu f (fun u => u.modElem cu.ea (fun e =>
      { e with scales := tput 0x7F i (a.setWidth 8) e.scales })) ∧
    (srAbsent (s.elem cu.ea).kind i = false →
      sets (.wrsr f) (fun c => if i = 5 then { c with tag := a.setWidth 8 } else if i = 7 then { c with spillOvf := a &&& ~~~7 } else c)) ∧
    (srAbsent (s.elem cu.ea).kind i = true → exec (.wrsr f) s = .next (s.raiseSync cu 0x01 0 f.lit))

/-- R113, R114, R115, R117, R167, R187, R189, R220: what the reading instructions deliver: the state before the firing. -/
def Obligations.ReadsOfState : Prop :=
  ∀ (s : State) (cu : Cursor) (f : SlotF), s.goes cu f →
    let a := (readSource s cu f f.sa).val
    let e := s.elem cu.ea
    let n := f.lit.toNat % 32
    let i := f.lit.toNat % 16
    computes (.rdcnt f) s cu f 1 (counterOf s cu f.lit) 0 ∧
    computes (.rdflg f) s cu f 1 ((s.ctx cu.ea cu.ctx).flags.setWidth 64) 0 ∧
    computes (.pooln f) s cu f 1 (BitVec.ofNat 64 (poolSample s cu.ea (f.lit.toNat % 8))) 0 ∧
    computes (.chst f) s cu f 1 (if f.lit.getLsbD 5 then chstOut s cu.ea n else chstIn e n) 0 ∧
    computes (.hstat f) s cu f 1 (e.handleWord (a.toNat % 64)) 0 ∧
    computes (.tlook f) s cu f 2 (e.lookup (keyOf a)) 0 ∧
    computes (.mls f) s cu f 1 e.me.mls 0 ∧
    (srAbsent e.kind i = false → computes (.rdsr f) s cu f 1 (specialReg s cu i) 0) ∧
    (srAbsent e.kind i = true → exec (.rdsr f) s = .next (s.raiseSync cu 0x01 0 f.lit))

/-- R111, R112: spawn sends both words under the one tag of its credit; tfree returns a tag to its pool, or is a TAG_FAULT where the
pool is not declared or does not own the tag. R169, R235: a join reserves its places and waits for the accesses that its context
fired before; with none of them out its word enters in the next cycle. An sbar holds back later accesses until those accesses, and
the context's generators, are done. -/
def Obligations.TagsJoinsAndSbar : Prop :=
  (∀ (s : State) (cu : Cursor) (f : SlotF), s.goes cu f →
      let a := (readSource s cu f f.sa).val
      let b := (readSource s cu f f.sb).val
      let gn := s.groupNo cu.ea
      let k := f.lit.toNat % 8
      let p := tget Pool.zero k (s.group gn).pools
      let tag := a.toNat % 256
      let owns := p.declared = true ∧ p.first ≤ tag ∧ tag < p.first + p.count
      (∃ t, exec (.spawn f) s = .next t ∧ s.delivers t cu f 16 1 a .data 0 ∧ (f.xb = true → s.delivers t cu f 17 1 b .data 0) ∧
        s.counts t cu f ∧ fireFrame s t cu) ∧
      (owns → ∃ t, exec (.tfree f) s = .next t ∧ s.counts t cu f ∧ fireFrame s t cu ∧
        t.awaits (s.now + hubDelay cu.ea (s.group gn).origin) (.tagReleaseArrival gn k (BitVec.ofNat 8 tag) cu.ea cu.ctx cu.slot)) ∧
      (¬ owns → exec (.tfree f) s = .next (s.raiseSync cu 0x05 0 (BitVec.ofNat 64 (256 * k + tag))))) ∧
  (∀ (s : State) (cu : Cursor) (f : SlotF), s.goes cu f →
      let acks := (s.ctx cu.ea cu.ctx).acks
      (∃ t j, exec (.join f) s = .next t ∧ s.counts t cu f ∧ elemFrame s t cu.ea ∧ (∀ c, sameCtx (s.ctx cu.ea c) (t.ctx cu.ea c)) ∧
        (t.elem cu.ea).joins = (s.elem cu.ea).joins ++ [j] ∧ j.ctx = cu.ctx ∧ j.waits = acks ∧ j.tag = sentTag s cu f ∧
        j.places.map (·.1) = destOuts f f.da ∧ (acks = [] → t.awaits (s.now + 1) (.joinWordEntry cu.ea cu.ctx j.id))) ∧
      firesWith (.sbar f) s cu f (fun u => u.modCtx cu.ea cu.ctx (fun c => { c with
        sbarReqs := c.acks
        sbarGens := ((u.elem cu.ea).gens.filter (fun p => p.2.ctx == cu.ctx && p.2.awaited)).map (·.1) })))

/-! ## Memory accesses (chapters 07, 09, 15, 16) -/

/-- R228, R229, R234, R301, R352: a request goes out, that of module memory by way of its tile hub to its owning slice, with its
address, data, size and tag as its operands and route give them; it joins the accesses that its context awaits; nothing is stored by
the firing. Where the address overflows, or a check fails, the firing is that fault and nothing else. R368, R369: qry, qabort, gat
and sca send their packet or record address to an SE. -/
def Obligations.MemoryAndEngineFirings : Prop :=
  (∀ (s : State) (cu : Cursor) (f : SlotF) (i : Instr) (acc : Acc),
      (i, acc) ∈ [(.ld f, .ld), (.st f, .st), (.amo f, .amo), (.cas f, .cas), (.lde f, .lde), (.stf f, .stf)] → s.goes cu f →
      let a := (readSource s cu f f.sa).val
      let b := (readSource s cu f f.sb).val
      let sum : Int := a.toInt + b.toInt
      let loads := acc = .ld ∨ acc = .lde
      let adr : Word := if loads then BitVec.ofInt 64 sum else a
      let r : MReq := { routeReq s cu (reqOut f) acc adr (sentTag s cu f) with aop := f.lit.toNat % 16, v1 := b, v2 := f.lit }
      let overflow := loads ∧ ¬ (-2 ^ 63 ≤ sum ∧ sum ≤ 2 ^ 63 - 1)
      (overflow → exec i s = .next (s.raiseSync cu 0x10 1 a)) ∧
      (¬ overflow → ∀ code d aux, reqFault s r f.lit = some (code, d, aux) → exec i s = .next (s.raiseSync cu code d aux)) ∧
      (¬ overflow → reqFault s r f.lit = none → ∃ t, exec i s = .next t ∧ s.counts t cu f ∧ routeFrame s t cu.ea ∧
        (∀ c, sameCtx (s.ctx cu.ea c) (t.ctx cu.ea c)) ∧ (t.ctx cu.ea cu.ctx).acks = (s.ctx cu.ea cu.ctx).acks ++ [r.id] ∧
        (r.endp = 0x80 → wordGoes s t (s.now + 1) r.ea r.dst 0 (.requestPerform r)) ∧
        (r.endp = 0x81 → wordGoes s t (s.now + 1) r.ea r.dst 1 (.requestPerform r)) ∧
        (r.endp ≠ 0x80 → r.endp ≠ 0x81 → wordGoesOn s t (s.now + 1) r.ea (tileOf r.ea) ((s.group r.grp).owner r.addr)
          (if r.ord then [] else [(0, .requestCreditReturn r.ea r.out r.epoch)]) (.tlbLookup r)))) ∧
  (∀ (s : State) (cu : Cursor) (f : SlotF) (i : Instr) (acc : Acc),
      (i, acc) ∈ [(.qry f, .qry), (.qabort f, .qabort), (.gat f, .gat), (.sca f, .sca)] → s.goes cu f →
      let r : MReq := { routeReq s cu (reqOut f) acc (readSource s cu f f.sa).val (sentTag s cu f) with
        aop := f.lit.toNat % 4, v2 := f.lit }
      (∀ code d aux, engineFault s r f.lit = some (code, d, aux) → exec i s = .next (s.raiseSync cu code d aux)) ∧
      (engineFault s r f.lit = none → ∃ t, exec i s = .next t ∧ s.counts t cu f ∧ routeFrame s t cu.ea ∧
        (∀ c, sameCtx (s.ctx cu.ea c) (t.ctx cu.ea c)) ∧ wordGoes s t (s.now + 1) r.ea r.dst 0 (.requestPerform r)))

/-- R191: spill and fill name a slot of their context's area; beyond it the overflow area is used, or the access faults. -/
def Obligations.SpillAndFill : Prop :=
  ∀ (s : State) (cu : Cursor) (f : SlotF), s.goes cu f →
    let a := (readSource s cu f f.sa).val
    let b := (readSource s cu f f.sb).val
    let sets (t : State) (r : MReq) : Prop :=
      (r.endp = 0x80 → wordGoes s t s.now r.ea r.dst 0 (.requestPerform r)) ∧
      (r.endp ≠ 0x80 → wordGoesOn s t (s.now + 1) r.ea (tileOf r.ea) ((s.group r.grp).owner r.addr) [] (.tlbLookup r))
    (∀ r, spillReq s cu b.toNat .st = .inr r → ∃ t, exec (.spill f) s = .next t ∧ s.counts t cu f ∧ routeFrame s t cu.ea ∧
      (∀ c, sameCtx (s.ctx cu.ea c) (t.ctx cu.ea c)) ∧ sets t { r with v1 := a }) ∧
    (∀ r, spillReq s cu a.toNat .ld = .inr r → ∃ t d, exec (.fill f) s = .next t ∧ s.counts t cu f ∧ routeFrame s t cu.ea ∧
      (∀ c, sameCtx (s.ctx cu.ea c) (t.ctx cu.ea c)) ∧ sets t { r with dlv := some d } ∧ d.ea = cu.ea ∧ d.ctx = cu.ctx ∧
      d.reg = destReg f.da ∧ d.predMask = destPreds f.da ∧ d.places.map (·.1) = destOuts f f.da) ∧
    (∀ code d aux, spillReq s cu b.toNat .st = .inl (code, d, aux) → exec (.spill f) s = .next (s.raiseSync cu code d aux)) ∧
    (∀ code d aux, spillReq s cu a.toNat .ld = .inl (code, d, aux) → exec (.fill f) s = .next (s.raiseSync cu code d aux))

/-- R184, R187, R201: local accesses of an SE reach their bank from t + 4 on (hread from t + 10 in the tile store), with the address
SA + OFF; a failed check is that fault and nothing else. -/
def Obligations.LocalAccesses : Prop :=
  ∀ (s : State) (cu : Cursor) (f : SlotF), s.goes cu f →
    let e := s.elem cu.ea
    let a := (readSource s cu f f.sa).val
    let b := (readSource s cu f f.sb).val
    let h := a.toNat % 64
    let hr := e.work.handle h
    let req (acc : Acc) : MReq := { localReq s cu acc (a.toNat + locOff f.lit) (locSz f.lit) with
      sx := locSx f.lit, aop := locAop f.lit, v1 := b }
    let goesOut (t : State) (n : Nat) (r : MReq) : Prop := s.counts t cu f ∧ elemFrame s t cu.ea ∧
      (∀ c, sameCtx (s.ctx cu.ea c) (t.ctx cu.ea c)) ∧ t.awaits (s.now + n) (.requestPerform r)
    let promised (d : Delivery) : Prop := d.ea = cu.ea ∧ d.ctx = cu.ctx ∧ d.reg = destReg f.da ∧ d.predMask = destPreds f.da ∧
      d.places.map (·.1) = destOuts f f.da
    (locFault e .ld f.lit a = none → ∃ t d, exec (.sld f) s = .next t ∧ goesOut t 4 { req .ld with dlv := some d } ∧ promised d) ∧
    (locFault e .amo f.lit a = none → ∃ t d, exec (.samo f) s = .next t ∧ goesOut t 4 { req .amo with dlv := some d } ∧ promised d) ∧
    (locFault e .st f.lit a = none → ∃ t, exec (.sst f) s = .next t ∧ goesOut t 4 (req .st) ∧
      (t.elem cu.ea).ssts = e.ssts ++ [(req .st).id]) ∧
    (∀ code aux, locFault e .ld f.lit a = some (code, aux) → exec (.sld f) s = .next (s.raiseSync cu code 0 aux)) ∧
    (∀ code aux, locFault e .amo f.lit a = some (code, aux) → exec (.samo f) s = .next (s.raiseSync cu code 0 aux)) ∧
    (∀ code aux, locFault e .st f.lit a = some (code, aux) → exec (.sst f) s = .next (s.raiseSync cu code 0 aux)) ∧
    (handleHeld e h [.filling, .draining] true = false → exec (.hread f) s = .next (s.raiseSync cu 0x22 0 (e.handleWord h))) ∧
    (handleHeld e h [.filling, .draining] true = true → b.toNat % 8 = 0 → b.toNat + 8 ≤ (hrSizeM1 hr + 1) * 64 →
      (∀ pa, s.handleAddr cu.ea h b.toNat = some pa →
        ∃ t d r, exec (.hread f) s = .next t ∧ goesOut t (if hrLoc hr = 0 then 4 else 10) r ∧ r.dlv = some d ∧ promised d ∧
          r.acc = .ld ∧ r.sz = 3 ∧ r.pa = pa) ∧
      (s.handleAddr cu.ea h b.toNat = none →
        exec (.hread f) s = .next (s.raiseSync cu 0x12 0 (BitVec.ofNat 64 (hrBase hr * 64 + b.toNat)))))

/-- R181, R185, R186, R189: handles change hands, and tag table entries come and go, with the firing; hacq delivers the handle word,
tevict what the entry held. -/
def Obligations.HandlesAndTagTable : Prop :=
  ∀ (s : State) (cu : Cursor) (f : SlotF), s.goes cu f →
    let e := s.elem cu.ea
    let a := (readSource s cu f f.sa).val
    let b := (readSource s cu f f.sb).val
    let h := a.toNat % 64
    let rg := acqRing f.lit
    let dr := acqDrain f.lit
    (acqFaults e f.lit = true → exec (.hacq f) s = .next (s.raiseSync cu 0x22 0 (BitVec.ofNat 64 rg))) ∧
    (∀ k, acqFaults e f.lit = false → e.ringAt rg dr = some k → ∃ t, exec (.hacq f) s = .next t ∧ s.counts t cu f ∧
      elemFrame s t cu.ea ∧ (t.elem cu.ea).hnd k = ⟨if dr then .draining else .filling, 1, none, s.now⟩ ∧
      (∀ j, j ≠ k → (t.elem cu.ea).hnd j = e.hnd j) ∧ s.delivers t cu f f.da 1 ((t.elem cu.ea).handleWord k) .data 0) ∧
    (handleHeld e h [.filling] false = true →
      (e.ssts ≠ [] ∨ e.sstLast < s.now → firesWith (.hcommit f) s cu f (fun u => u.modElem cu.ea (fun x => x.setHnd h
        (if e.ssts = [] then ⟨.full, 0, none, s.now⟩ else ⟨.filling, 1, some e.ssts, 0⟩)))) ∧
      (e.ssts = [] → s.now ≤ e.sstLast → firesWith (.hcommit f) s cu f (fun u => (u.modElem cu.ea (fun x => x.setHnd h
        ⟨.filling, 1, some [], 0⟩)).after 2 (.handleFullAfterCommit cu.ea h)))) ∧
    (handleHeld e h [.filling] false = false → exec (.hcommit f) s = .next (s.raiseSync cu 0x22 0 (e.handleWord h))) ∧
    (handleHeld e h [.draining] true = true → ∃ t, exec (.hrel f) s = .next t ∧ s.counts t cu f ∧ elemFrame s t cu.ea ∧
      (t.elem cu.ea).hnd h = .zero ∧ (∀ j, j ≠ h → (t.elem cu.ea).hnd j = e.hnd j)) ∧
    (handleHeld e h [.draining] true = false → exec (.hrel f) s = .next (s.raiseSync cu 0x22 0 (e.handleWord h))) ∧
    (∀ w, (e.keyWay (keyOf a)).orElse (fun _ => e.freeWay (keyOf a)) = some w → firesWith (.tins f) s cu f (fun u =>
      u.modElem cu.ea (fun x => { x with ttab := tput none w (some (keyOf a, b.toNat % 2 ^ 63)) x.ttab }))) ∧
    (∃ t, exec (.tevict f) s = .next t ∧ s.counts t cu f ∧ elemFrame s t cu.ea ∧
      s.delivers t cu f f.da 2 (e.lookup (keyOf a)) .data 0 ∧ (∀ w, e.keyWay (keyOf a) = some w → (t.elem cu.ea).way w = none) ∧
      (e.keyWay (keyOf a) = none → (t.elem cu.ea).ttab = e.ttab))

/-- R245, R246, R250: a copy goes to its tile hub, and its register is pending until it ends; ccan follows it there. -/
def Obligations.CopyFirings : Prop :=
  ∀ (s : State) (cu : Cursor) (f : SlotF), s.goes cu f →
    let a := (readSource s cu f f.sa).val
    let b := (readSource s cu f f.sb).val
    let c := copyReq s cu f a b
    (copyFault s f.lit c = none → ∃ t, exec (.copy f) s = .next t ∧ s.counts t cu f ∧ fireFrame s t cu ∧
      t.awaits (s.now + hops cu.ea (tileOf cu.ea) + 1) (.copyFlowTake c) ∧
      (f.da.toNat < 16 → (t.ctx cu.ea cu.ctx).pendReg.getLsbD f.da.toNat = true)) ∧
    (∀ code aux, copyFault s f.lit c = some (code, aux) → exec (.copy f) s = .next (s.raiseSync cu code 0 aux)) ∧
    ∃ t, exec (.ccan f) s = .next t ∧ s.counts t cu f ∧ fireFrame s t cu ∧
      t.awaits (s.now + hops cu.ea (tileOf cu.ea) + 1) (.ccanAtHub (tileOf cu.ea) cu.ea cu.ctx f.sa.toNat)

/-- R331, R332, R336: arrivals, drops and initialisations go to the barrier's hub, 2 + 2m + 24c later, arrivals only once the
accesses that their context fired before are acknowledged; bar.q delivers the word as it stood at the hub that long ago. A literal
that breaks R332 is an ILLEGAL_OP. -/
def Obligations.BarrierFirings : Prop :=
  ∀ (s : State) (cu : Cursor) (f : SlotF), s.goes cu f →
    let g := s.group (s.groupNo cu.ea)
    let a := (readSource s cu f f.sa).val
    let tile := barTile g f.lit
    let arrives (i : Instr) (k : BarKind) : Prop := ∃ t, exec i s = .next t ∧ s.counts t cu f ∧ elemFrame s t cu.ea ∧
      (∀ c, sameCtx (s.ctx cu.ea c) (t.ctx cu.ea c)) ∧
      ((s.ctx cu.ea cu.ctx).acks = [] → t.awaits (s.now + hubDelay cu.ea tile) (.barrierMessageArrival (barMsg s cu f.lit k 0))) ∧
      ((s.ctx cu.ea cu.ctx).acks ≠ [] → (t.elem cu.ea).barWaits =
        (s.elem cu.ea).barWaits ++ [((s.ctx cu.ea cu.ctx).acks, barMsg s cu f.lit k 0)])
    let illegal (i : Instr) : Prop := exec i s = .next (s.raiseSync cu 0x01 0 f.lit)
    (barBad g f.lit true = false → arrives (.barArv f) .arv ∧ arrives (.barDrop f) .drop) ∧
    (barBad g f.lit false = false →
      computes (.barQ f) s cu f 1 (((s.hub tile).bar (barNo f.lit)).wordAt ((s.now : Int) - hubDelay cu.ea tile)) 0 ∧
      (1 ≤ a.toNat → a.toNat < 2 ^ 16 → ∃ t, exec (.barInit f) s = .next t ∧ s.counts t cu f ∧ fireFrame s t cu ∧
        t.awaits (s.now + hubDelay cu.ea tile) (.barrierMessageArrival (barMsg s cu f.lit .init a))) ∧
      ((a = 0 ∨ 2 ^ 16 ≤ a.toNat) → exec (.barInit f) s = .next (s.raiseSync cu 0x01 1 a))) ∧
    (barBad g f.lit true = true → illegal (.barArv f) ∧ illegal (.barDrop f)) ∧
    (barBad g f.lit false = true → illegal (.barQ f) ∧ illegal (.barInit f))

/-- R322, R350, R358, R416: qpush and migr send their request once earlier accesses are acknowledged, and their context waits;
tinval removes the page from every slice with its firing (the model's reading of R350, log 29) and waits for its acknowledgement;
svc posts its notice, and its reply register is pending. -/
def Obligations.SystemFirings : Prop :=
  ∀ (s : State) (cu : Cursor) (f : SlotF), s.goes cu f →
    let a := (readSource s cu f f.sa).val
    let b := (readSource s cu f f.sb).val
    let dom := (s.group (s.groupNo cu.ea)).dom
    let page := if a.getLsbD 0 then none else some (vbits a / 65536)
    let sends (i : Instr) (bit : Nat) (r : MReq) : Prop := ∃ t, exec i s = .next t ∧ s.counts t cu f ∧ routeFrame s t cu.ea ∧
      (∀ c, sameCtx (s.ctx cu.ea c) (t.ctx cu.ea c)) ∧ (t.ctx cu.ea cu.ctx).wait.testBit bit = true ∧
      ((s.ctx cu.ea cu.ctx).acks = [] →
        wordGoesOn s t (s.now + 1) r.ea (tileOf r.ea) ((s.group r.grp).owner r.addr) [] (.tlbLookup r)) ∧
      ((s.ctx cu.ea cu.ctx).acks ≠ [] → t.links = s.links ∧ (t.elem cu.ea).sends = (s.elem cu.ea).sends ++ [((s.ctx cu.ea cu.ctx).acks, r)])
    (qpushFault f.lit a = none → sends (.qpush f) waitQpush (qpushReq s cu f.lit a b)) ∧
    (∀ code aux, qpushFault f.lit a = some (code, aux) → exec (.qpush f) s = .next (s.raiseSync cu code 0 aux)) ∧
    (migrFault a b = none → sends (.migr f) waitMigr (migrReq s cu a b)) ∧
    (∀ code aux, migrFault a b = some (code, aux) → exec (.migr f) s = .next (s.raiseSync cu code 0 aux)) ∧
    ((a.getLsbD 0 = true ∨ canonical a = true) → ∃ t, exec (.tinval f) s = .next t ∧ s.counts t cu f ∧ sameMemory s t ∧
      (∀ c, sameCtx (s.ctx cu.ea c) (t.ctx cu.ea c)) ∧ (t.ctx cu.ea cu.ctx).wait.testBit waitTinval = true ∧
      t.awaits (s.now + 64 + 48 * maxCross (eaDie cu.ea)) (.tinvalAck cu.ea cu.ctx) ∧
      ∀ tile, ∀ x ∈ (t.slice tile).ents, removes dom page x.dom x.page x.size = false) ∧
    (a.getLsbD 0 = false → canonical a = false → exec (.tinval f) s = .next (s.raiseSync cu 0x10 0 a)) ∧
    (f.lit.toNat < 2 ^ 20 → firesWith (.svc f) s cu f (fun u =>
      ((u.markPending cu (some (f.lit.toNat / 2 ^ 16)) 0).modCtx cu.ea cu.ctx (fun c => { c with
        svc := some ⟨f.lit.toNat / 2 ^ 16, f.lit.toNat % 2 ^ 16, a⟩ })).raiseRec (u.groupNo cu.ea) cu.ea cu.ea (some cu.ctx)
          (some cu.slot) 0 false false (2 + f.lit.toNat % 2 ^ 16 * 2 ^ 16) a)) ∧
    (2 ^ 20 ≤ f.lit.toNat → exec (.svc f) s = .next (s.raiseSync cu 0x01 0 f.lit))

/-- R193, R236, R237, R242: a stream operator or a generator starts in the next cycle, as its literal and record give it, unless a
field is refused (ILLEGAL_OP), a channel or output is unbound, or the record is misaligned or out of range. -/
def Obligations.StreamFirings : Prop :=
  ∀ (s : State) (cu : Cursor) (f : SlotF), s.goes cu f →
    let e := s.elem cu.ea
    let a := (readSource s cu f f.sa).val
    let b := (readSource s cu f f.sb).val
    let g := gnG f.lit
    let mode := s.readNat (seAddr cu.ea a.toNat + 0x12) 1
    let starts (i : Instr) (op : Nat) : Prop :=
      (suBad op f.lit = true → exec i s = .next (s.raiseSync cu 0x01 0 f.lit)) ∧
      (suBad op f.lit = false → ∀ n, suUnbound e op f.lit = some n → exec i s = .next (s.raiseSync cu 0x06 0 (BitVec.ofNat 64 n))) ∧
      (suBad op f.lit = false → suUnbound e op f.lit = none → a.toNat % 8 ≠ 0 → exec i s = .next (s.raiseSync cu 0x13 0 a)) ∧
      (suBad op f.lit = false → suUnbound e op f.lit = none → a.toNat % 8 = 0 → a.toNat + 8 ≤ e.progBytes →
        ∃ t, exec i s = .next t ∧ s.counts t cu f ∧ elemFrame s t cu.ea ∧ (∀ c, sameCtx (s.ctx cu.ea c) (t.ctx cu.ea c)) ∧
          (t.elem cu.ea).su = some (Su.start op f.lit a.toNat cu.ctx cu.slot s.now) ∧ t.awaits (s.now + 1) (.operatorInput cu.ea))
    let runs (i : Instr) (p : Bool) (rounds : Word) : Prop :=
      genBad e f.lit p mode = false → genUnbound e f.lit p = none → a.toNat % 8 = 0 → a.toNat + 160 ≤ e.progBytes →
      let x := genStart s cu f.lit p a.toNat rounds
      ∃ t, exec i s = .next t ∧ s.counts t cu f ∧ elemFrame s t cu.ea ∧ (∀ c, sameCtx (s.ctx cu.ea c) (t.ctx cu.ea c)) ∧
        (t.elem cu.ea).gen g = { x with fault := (recordFault s e x (seAddr cu.ea a.toNat)).map (fun c => (c.1, a, c.2)) } ∧
        t.awaits (s.now + 1) (.genElementIssue cu.ea g)
    starts (.isect f) 0xAD ∧ starts (.merge f) 0xAE ∧ starts (.topk f) 0xAF ∧ starts (.prune f) 0xB0 ∧ starts (.redc f) 0xB1 ∧
    runs (.gen f) false 1 ∧ runs (.genp f) true b

/-- R207, R210 to R212, R215, R219, R220: the instructions of an ME. Its SEs' handles and rings are those that the firings of the
cycle found (R7, R85); an mld whose handle another firing of the cycle took is HANDLE_STATE with the handle's word as they found it
(the model's readings, logs 78 and 80). -/
def Obligations.MatrixFirings : Prop :=
  ∀ (s : State) (cu : Cursor) (f : SlotF), s.goes cu f →
    let e := s.elem cu.ea
    let m := e.me
    let se := bindSe cu.ea e.work.meb 6
    let ring := f.lit.toNat % 16
    let land := 14 + (if mRed m.mode then baseInterval m.mode else 0)
    let loads (i : Instr) (sparse : Bool) : Prop :=
      (∀ code aux d, mldFault s.asFound cu.ea sparse f.lit = some (code, aux, d) → exec i s = .next (s.raiseSync cu code d aux)) ∧
      (∀ h one, mldFault s.asFound cu.ea sparse f.lit = none → (s.asFound.elem se).ringAt ring true = some h →
        m.emptyPlane = some one → ((s.elem se).hnd h).st ≠ .full →
        exec i s = .next (s.raiseSync cu 0x22 2 ((s.elem se).fullWord h))) ∧
      (∀ h one, mldFault s.asFound cu.ea sparse f.lit = none → (s.asFound.elem se).ringAt ring true = some h →
        m.emptyPlane = some one → ((s.elem se).hnd h).st = .full → se ≠ cu.ea →
        ∃ t, exec i s = .next t ∧ s.counts t cu f ∧ sameMemory s t ∧ (∀ c, sameCtx (s.ctx cu.ea c) (t.ctx cu.ea c)) ∧
          ((t.elem se).hnd h) = ⟨.draining, 3, none, 0⟩ ∧ ((t.me cu.ea).plane one).st = .loading ∧
          ((t.me cu.ea).plane one).handle = h ∧
          t.awaits (s.now + 1) (.mePlaneRead cu.ea (((t.me cu.ea).plane one).load, none)))
    loads (.mldB f) false ∧ loads (.mldBs f) true ∧
    (m.mode = 0 → exec (.mrow f) s = .next (s.raiseSync cu 0x01 0 0)) ∧
    (m.mode ≠ 0 → ∃ t, exec (.mrow f) s = .next t ∧ s.counts t cu f ∧ elemFrame s t cu.ea ∧
      (∀ c, sameCtx (s.ctx cu.ea c) (t.ctx cu.ea c)) ∧ (∃ n, t.me cu.ea = { m.step (ecwRnd (e.ecwNow s.now)) s.now with note := n }) ∧
      t.awaits (s.now + land) (.meRowLand ⟨cu.ea, 0⟩)) ∧
    (mcfgBad e.work.meb f.lit = true → exec (.mcfg f) s = .next (s.raiseSync cu 0x01 0 f.lit)) ∧
    (mcfgBad e.work.meb f.lit = false → ∃ t, exec (.mcfg f) s = .next t ∧ s.counts t cu f ∧ elemFrame s t cu.ea ∧
      (∀ c, sameCtx (s.ctx cu.ea c) (t.ctx cu.ea c)) ∧ (t.me cu.ea).mode = f.lit ∧ (t.me cu.ea).rc = 0 ∧ (t.me cu.ea).pc = 0 ∧
      (f.lit = 0 → (t.me cu.ea).p0 = .zero ∧ (t.me cu.ea).p1 = .zero)) ∧
    firesWith (.mclr f) s cu f (fun u => u.modMe cu.ea (fun m => { m with mls := 0, acc := [], accls := [], accf := [] })) ∧
    (drainDue s.asFound cu.ea = false → firesWith (.mdrain f) s cu f id) ∧
    (drainDue s.asFound cu.ea = true → ∃ t, exec (.mdrain f) s = .next t ∧ s.counts t cu f ∧ elemFrame s t cu.ea ∧
      (∀ c, sameCtx (s.ctx cu.ea c) (t.ctx cu.ea c)) ∧ (t.me cu.ea).owr = 0 ∧ (t.me cu.ea).oflags = 0)

/-- R7, R402, R403, R404, R406: taking a synchronous fault. The context is FAULTED, and nothing else of the element changes; the
record is on its way to the origin hub, with the number of the fence that its fault is a cause of; a LIVE or DRAINING group is
FENCED, and the fence is on its way to each of its tiles, that of a further fault too; a group that is FREE, SAVED or RETIRED takes
none. Memory is as it was. -/
def Obligations.TakingASynchronousFault : Prop :=
  ∀ (s : State) (cu : Cursor) (code detail : Nat) (aux : Word),
    let gn := s.groupNo cu.ea
    let g := s.group gn
    let t := s.raiseSync cu code detail aux
    let takes := g.st ≠ .free ∧ g.st ≠ .saved ∧ g.st ≠ .retired
    let fences := g.st = .live ∨ g.st = .draining
    t.elem cu.ea = { s.elem cu.ea with ctxs := (t.elem cu.ea).ctxs } ∧
    (t.ctx cu.ea cu.ctx) = { s.ctx cu.ea cu.ctx with st := .faulted } ∧ (∀ c, c ≠ cu.ctx → t.ctx cu.ea c = s.ctx cu.ea c) ∧
    (∀ x, x ≠ cu.ea → t.elem x = s.elem x) ∧ sameMemory s t ∧ sameModule s t ∧ s.keepsAgenda t ∧
    (∀ n, n ≠ gn → t.group n = s.group n) ∧ (¬ takes → t.group gn = g) ∧ (takes → ¬ fences → t.group gn = g) ∧
    (fences → (t.group gn).st = .fenced ∧ (t.group gn).preq = none ∧ (t.group gn).fenceNo = g.fenceNo + 1) ∧
    (fences ∨ g.st = .fenced → ∀ x ∈ g.tiles, t.awaits (s.now + hubDelay cu.ea x) (.fenceArrival gn x)) ∧
    (takes → ∃ r : FRec, t.awaits (s.now + hubDelay cu.ea g.origin) (.faultRecordArrival r) ∧ r.code = BitVec.ofNat 8 code ∧
      r.async = false ∧ r.fenceNo = (if fences then g.fenceNo + 1 else if g.st = .fenced then g.fenceNo else 0) ∧ r.hub = g.origin ∧ r.ctxv = true ∧ r.slotv = true ∧ r.ea = BitVec.ofNat 14 cu.ea ∧
      r.ctx = BitVec.ofNat 2 cu.ctx ∧ r.slot = BitVec.ofNat 5 cu.slot ∧ r.grp = BitVec.ofNat 16 gn ∧ r.dom = BitVec.ofNat 16 g.dom ∧
      r.detail = BitVec.ofNat 32 detail ∧ r.aux = aux ∧ r.cycle = s.dieCycle (eaDie cu.ea))

/-! ## Words, results, tags, barriers (chapters 04, 06, 14) -/

/-- R119, R121, R123: a result lands in its context, its marks end, its flags are added; a result of an earlier configuration
changes no context. A result without output words changes nothing else. -/
def Obligations.ResultsLand : Prop :=
  ∀ (s : State) (d : Delivery),
    let c := s.ctx d.ea d.ctx
    (d.epoch = (s.elem d.ea).epoch → gives (.resultDelivery d) s (fun t =>
      (∀ r, (t.ctx d.ea d.ctx).reg r = if d.reg = some r then d.value else c.reg r) ∧
      (∀ i, (t.ctx d.ea d.ctx).pred.getLsbD i =
        if d.predMask.getLsbD i then d.predVal.getLsbD i else (c.pred.getLsbD i || d.predVal.getLsbD i)) ∧
      (∀ i, (t.ctx d.ea d.ctx).pendPred.getLsbD i = (c.pendPred.getLsbD i && !d.predMask.getLsbD i)) ∧
      (∀ i < 16, (t.ctx d.ea d.ctx).pendReg.getLsbD i = (c.pendReg.getLsbD i && d.reg != some i)) ∧
      (t.ctx d.ea d.ctx).flags = c.flags ||| d.flags ∧ (t.ctx d.ea d.ctx).fires = c.fires ∧ (t.ctx d.ea d.ctx).tag = c.tag ∧
      (∀ x, x ≠ d.ctx → t.ctx d.ea x = s.ctx d.ea x) ∧ (∀ x, x ≠ d.ea → t.elem x = s.elem x) ∧ sameMemory s t ∧
      (d.places = [] → onlyElem s t d.ea))) ∧
    (d.epoch ≠ (s.elem d.ea).epoch → gives (.resultDelivery d) s (fun t => sameProgram s t ∧ (d.places = [] → t = s)))

/-- R148, R161, R162, R164: a word joins the tail of its channel, as POISON where its parity does not fit; the channel is OPEN, or
ENDED after an EOS. A word for an unbound channel, or a CFG word where none is taken, is STRAY_WORD. -/
def Obligations.WordsReachTheirChannels : Prop :=
  ∀ (s : State) (a : Arrival), s.injs = [] → a.epoch = (s.elem a.ea).wave →
    let e := s.elem a.ea
    let c := s.chan a.ea a.ch
    let sound : Bool := a.dpar == dparOf a.word.data && a.tpar == tparOf a.word
    let kind : WKind := if sound then a.word.kind else .poison
    let q : QWord := ⟨{ a.word with kind := kind }, a.src, s.now⟩
    let taken := kind = .cfg → chanCfgin (e.work.chanWord a.ch) = true
    let bound := c.st = .opened ∨ c.st = .ended ∨ c.st = .drained
    (bound → taken → gives (.channelWordArrival a) s (fun t =>
      (t.chan a.ea a.ch).q = c.q ++ [q] ∧ (t.chan a.ea a.ch).reserved = c.reserved ∧
      (t.chan a.ea a.ch).st = (if kind = .eos then .ended else if kind = .cfg then c.st else .opened) ∧
      (∀ n, n ≠ a.ch → t.chan a.ea n = s.chan a.ea n) ∧ (∀ n, t.ctx a.ea n = s.ctx a.ea n) ∧
      (∀ x, x ≠ a.ea → t.elem x = s.elem x) ∧ (sound = true → onlyElem s t a.ea) ∧
      (sound = false → t = { s with elems := t.elems, hubs := t.hubs }))) ∧
    (sound = true → (c.st = .unbound ∨ bound ∧ ¬ taken) → exec (.channelWordArrival a) s = .next
      ((s.modChan a.ea a.ch (fun c => { c with st := .stray, q := c.q ++ [q] })).raiseGroup (s.groupNo a.ea) a.ea a.ea 0x30 a.ch
        a.word.data))

/-- R158, R226, R232, R334: a credit that is back frees one place of its target or of its request route; that of a barrier is back
with its event, since the barrier's hub counts the words that take credits of a channel, until their credits are back; a completion
token joins the order queue. -/
def Obligations.CreditsAndTokensReturn : Prop :=
  ∀ (s : State) (ea o i tile bar w home : Nat) (tag : Byte),
    let e := s.elem ea
    gives (.creditReturn (.output ea o i e.epoch)) s (fun t =>
      tget 0 i ((t.elem ea).out o).used = tget 0 i (e.out o).used - 1 ∧
      (∀ j, j ≠ i → tget 0 j ((t.elem ea).out o).used = tget 0 j (e.out o).used) ∧
      (∀ n, n ≠ o → (t.elem ea).out n = e.out n) ∧ (∀ c, t.ctx ea c = s.ctx ea c) ∧ onlyElem s t ea) ∧
    (gives (.creditReturn (.barrier tile bar w)) s (fun t => t = s) ∧ ∀ ch n, w = chanNo ea ch →
      ({ s with agenda := ⟨n, 0, .creditReturn (.barrier tile bar w)⟩ :: s.agenda } : State).tokensOut tile bar ea ch =
        s.tokensOut tile bar ea ch + 1) ∧
    gives (.requestCreditReturn ea o e.epoch) s (fun t => (t.elem ea).out o = { e.out o with reqUsed := (e.out o).reqUsed - 1 } ∧
      (∀ n, n ≠ o → (t.elem ea).out n = e.out n) ∧ (∀ c, t.ctx ea c = s.ctx ea c) ∧ onlyElem s t ea) ∧
    gives (.orderTokenArrival ea o tag home) s (fun t =>
      (t.elem ea).out o = { e.out o with tokens := (e.out o).tokens ++ [(tag, s.now, home)], tokRes := (e.out o).tokRes - 1 } ∧
      (∀ n, n ≠ o → (t.elem ea).out n = e.out n) ∧ (∀ c, t.ctx ea c = s.ctx ea c) ∧ onlyElem s t ea)

/-- R155, R156: a router link that is free passes one word in a cycle; a word that waits alone passes, is free of this link, and
goes on to the next site of its route or into its channel there; a request word, reply or spill word goes on likewise, at its target
its events follow, and it goes on to the site that follows that. R173: a bank serves one request in a cycle; one that waits alone is
served. R169: the word of a join enters the outputs of its places. -/
def Obligations.LinksAndBanksServeOneAtATime : Prop :=
  ∀ (s : State),
    (∀ (l : Nat) (x : Transit) (a : Arrival), (s.rlink l).free ≤ s.now → (s.rlink l).q = [x] → x.ready ≤ s.now → x.port < 5 → x.vc < 4 →
      x.arrs = [a] → x.parcel = none →
      let nxt := stepSite x.at_ (l % 4)
      gives (.routerArbitration l) s (fun t =>
        (a.ea = nxt → t.awaits (s.now + linkCost x.at_ nxt) (.channelWordArrival a)) ∧
        (a.ea ≠ nxt → nextDir nxt a.ea < 4 → linkNo nxt (nextDir nxt a.ea) ≠ l →
          (t.rlink l).q = [] ∧ (t.rlink l).free = s.now + 1 ∧ ∃ y ∈ (t.rlink (linkNo nxt (nextDir nxt a.ea))).q,
            y.arrs = [a] ∧ y.at_ = nxt ∧ y.ready = s.now + linkCost x.at_ nxt ∧ y.vc = x.vc) ∧
        t = { s with links := t.links, agenda := t.agenda } ∧ s.keepsAgenda t)) ∧
    (∀ (l : Nat) (x : Transit) (p : Parcel), (s.rlink l).free ≤ s.now → (s.rlink l).q = [x] → x.ready ≤ s.now → x.port < 5 → x.vc < 4 →
      x.parcel = some p →
      let nxt := stepSite x.at_ (l % 4)
      gives (.routerArbitration l) s (fun t =>
        (p.dst = nxt → ∀ e ∈ p.evs, t.awaits (s.now + linkCost x.at_ nxt + e.1) e.2) ∧
        (p.dst ≠ nxt → linkNo nxt (nextDir nxt p.dst) ≠ l →
          (t.rlink l).q = [] ∧ (t.rlink l).free = s.now + 1 ∧ ∃ y ∈ (t.rlink (linkNo nxt (nextDir nxt p.dst))).q,
            y.parcel = some p ∧ y.at_ = nxt ∧ y.ready = s.now + linkCost x.at_ nxt ∧ y.vc = x.vc) ∧
        (∀ d evs more, p.dst = nxt → p.more = (d, evs) :: more → d ≠ nxt → linkNo nxt (nextDir nxt d) ≠ l →
          ∃ y ∈ (t.rlink (linkNo nxt (nextDir nxt d))).q, y.parcel = some ⟨d, evs, more⟩ ∧ y.at_ = nxt ∧
            y.ready = s.now + linkCost x.at_ nxt ∧ y.vc = x.vc) ∧
        t = { s with links := t.links, agenda := t.agenda } ∧ s.keepsAgenda t)) ∧
    (∀ (n : Nat) (r : BReq), (s.bank n).free ≤ s.now → (s.bank n).q = [r] → r.port < bankPorts n →
      gives (.bankService n) s (fun t => t.awaits s.now r.instr ∧ (t.bank n).q = [] ∧ (t.bank n).free = s.now + 1 ∧
        (∀ k, k ≠ n → t.bank k = s.bank k) ∧ t = { s with banks := t.banks, agenda := t.agenda } ∧ s.keepsAgenda t)) ∧
    (∀ (ea : Nat) (j : Join), (s.elem ea).joins = [j] → gives (.joinWordEntry ea j.ctx j.id) s (fun t =>
      t = (s.modElem ea (fun e => { e with joins := [] })).fillPlaces ea ⟨0, j.tag, .data⟩ j.places))

/-- R97, R98: a TE asks its origin hub, 2 + 2m + 24c away; the hub gives the head of the free list to the request that it can serve,
one in a cycle; the credit is held; a tag that comes back joins the tail, and one that is there already is TAG_FAULT. -/
def Obligations.TagCredits : Prop :=
  ∀ (s : State) (ea gn k ctx slot : Nat) (tag : Byte) (spawn : Bool),
    let g := s.group gn
    let p := tget .zero k g.pools
    (s.tagDue ea k = true → gives (.tagRequest ea k) s (fun t =>
      tget .none k (t.elem ea).tagCreds = .asked ∧ (∃ sp, (s.now + hubDelay ea (s.group (s.groupNo ea)).origin, ea, sp) ∈
        (tget .zero k (t.group (s.groupNo ea)).pools).waiting) ∧
      t.awaits (s.now + hubDelay ea (s.group (s.groupNo ea)).origin) (.tagGrant (s.groupNo ea) k))) ∧
    (∀ at_ rest, p.waiting = [(at_, ea, spawn)] → at_ ≤ s.now → p.declared = true → p.nextGrant ≤ s.now → p.freeTags = tag :: rest →
      (spawn = true → p.reserve < p.freeTags.length) → gives (.tagGrant gn k) s (fun t =>
        (tget .zero k (t.group gn).pools).freeTags = rest ∧ (tget .zero k (t.group gn).pools).waiting = [] ∧
        (tget .zero k (t.group gn).pools).nextGrant = s.now + 1 ∧
        t.awaits (s.now + hubDelay ea g.origin) (.tagCreditArrival ea k tag spawn) ∧ ∀ x, t.elem x = s.elem x)) ∧
    (tget .none k (s.elem ea).tagCreds = .asked → gives (.tagCreditArrival ea k tag spawn) s (fun t =>
      tget .none k (t.elem ea).tagCreds = .held tag spawn ∧ (∀ c, t.ctx ea c = s.ctx ea c) ∧ onlyElem s t ea)) ∧
    (p.declared = true → tag ∉ p.freeTags → s.tagHeld gn k tag = false → gives (.tagReleaseArrival gn k tag ea ctx slot) s (fun t =>
      (tget .zero k (t.group gn).pools).freeTags = p.freeTags ++ [tag] ∧ t.awaits s.now (.tagGrant gn k) ∧
      ∀ x, t.elem x = s.elem x)) ∧
    (p.declared = true → tag ∈ p.freeTags → exec (.tagReleaseArrival gn k tag ea ctx slot) s = .next
      (s.raiseRec gn g.origin ea (some ctx) (some slot) 0x05 true true 0 (BitVec.ofNat 64 (256 * k + tag.toNat))))

/-- R331, R333, R334, R335: what a barrier's hub does with a message: an arrival counts, the last of a phase completes it where
every waiter target has a credit, else the phase is HELD and tried again in the next cycle; the tokens of a completed phase set out,
the next phase expects as many arrivals less the drops, and a barrier that expects none is RETIRED; an arrival of the wrong phase,
for a HELD or a RETIRED barrier is an overrun, for a FREE one BARRIER_UNINIT; bar.init arms a FREE or RETIRED one. -/
def Obligations.BarriersCountArrivals : Prop :=
  ∀ (s : State) (m : BarMsg),
    let b := (s.hub m.tile).bar m.bar
    let after (t : State) : Bar := (t.hub m.tile).bar m.bar
    let others (t : State) : Prop := (∀ n, n ≠ m.bar → (t.hub m.tile).bar n = (s.hub m.tile).bar n) ∧
      (∀ x, x ≠ m.tile → t.hub x = s.hub x) ∧ sameProgram s t
    let name (c : Nat) : Word := BitVec.ofNat 64 (m.name.toNat + c % 2 ^ 16 * 2 ^ 32)
    let dropped : Nat := if m.kind = .drop then 1 else 0
    let stands := b.st = .armed ∧ b.held = false ∧ m.ph = b.phase.getLsbD 0
    (m.kind ≠ .init → stands → b.count + 1 ≠ b.expect → gives (.barrierMessageArrival m) s (fun t =>
      (after t).count = b.count + 1 ∧ (after t).drops = b.drops + dropped ∧ (after t).expect = b.expect ∧
      (after t).phase = b.phase ∧ (after t).st = .armed ∧ (after t).held = false ∧ others t)) ∧
    (m.kind ≠ .init → stands → b.count + 1 = b.expect → s.barRoom (s.group m.grp) m.tile m.bar b = false →
      gives (.barrierMessageArrival m) s (fun t => (after t).held = true ∧ (after t).count = b.expect ∧ (after t).phase = b.phase ∧
        (after t).st = .armed ∧ t.awaits (s.now + 1) (.completePhase m.tile m.bar) ∧ others t)) ∧
    (m.kind ≠ .init → stands → b.count + 1 = b.expect → s.barRoom (s.group m.grp) m.tile m.bar b = true →
      gives (.barrierMessageArrival m) s (fun t =>
      (∀ w, b.waiters = [w] → (s.group m.grp).targetEa w = m.tile → ∃ a : Arrival, t.awaits (s.now + 2) (.channelWordArrival a) ∧
        a.ea = m.tile ∧ a.ch = (tgtCh w).toNat ∧ a.word = ⟨b.phase.setWidth 64, b.phase.setWidth 8, .data⟩) ∧
      (after t).count = 0 ∧ (after t).drops = 0 ∧ (after t).expect = b.expect - (b.drops + dropped) ∧
      (after t).phase = b.phase + 1 ∧ (after t).held = false ∧
      (after t).st = (if b.expect - (b.drops + dropped) = 0 then .retired else .armed) ∧ others t)) ∧
    (m.kind ≠ .init → b.st = .free → exec (.barrierMessageArrival m) s =
      .next (s.raiseRec m.grp m.tile m.ea (some m.ctx) (some m.slot) 0x41 true true 0 (name b.count))) ∧
    (∀ d, m.kind ≠ .init → (b.st = .retired ∧ d = 3 ∨ b.st = .armed ∧ b.held = true ∧ d = 1 ∨
        b.st = .armed ∧ b.held = false ∧ m.ph ≠ b.phase.getLsbD 0 ∧ d = 0) →
      gives (.barrierMessageArrival m) s (fun t => (after t).st = .faulted ∧
        t = (s.modBar m.tile m.bar (fun b => { b with st := .faulted })).raiseRec m.grp m.tile m.ea (some m.ctx) (some m.slot) 0x40
          true true d (name b.count))) ∧
    (m.kind = .init → (b.st = .free ∨ b.st = .retired) → gives (.barrierMessageArrival m) s (fun t =>
      (after t).st = .armed ∧ (after t).expect = m.count.toNat % 2 ^ 16 ∧ (after t).count = 0 ∧ (after t).drops = 0 ∧
      (after t).phase = 0 ∧ (after t).held = false ∧ (after t).waiters = b.waiters ∧ others t)) ∧
    (b.held = true → b.st = .armed → s.barRoom (s.group (s.groupNo m.tile)) m.tile m.bar b = true →
      gives (.completePhase m.tile m.bar) s (fun t => (after t).phase = b.phase + 1 ∧ (after t).count = 0 ∧ (after t).drops = 0 ∧ (after t).held = false ∧ others t))

/-! ## Accesses at their homes, replies, pages (chapters 07, 09, 15) -/

/-- R3, R184, R229, R230, R254, R409, R410: what an access of a firing does at its home: where that is out of service, it is
PORT_SELECT; else a store writes its bytes, little-endian, an atomic and a swap that compares equal write the new value, a load
nothing; the acknowledgement and the reply, or the local result, are on their way, a load's as POISON from a poisoned unit.
Registers, full bits and every other byte are as before. -/
def Obligations.AccessesAtTheirHome : Prop :=
  ∀ (s : State) (r : MReq), r.stage = 1 → r.who = .firing → r.parity = false → r.sz ≤ 3 → s.injs = [] →
    let a := r.pa % 2 ^ 44
    let n := 2 ^ r.sz
    let w := 8 * n
    let old := s.readNat a n
    let x := r.v1.toNat % 2 ^ w
    let signed (v : Nat) : Int := (BitVec.ofNat w v).toInt
    let bad : Bool := r.pzn || s.poisoned (unitOf a)
    (∀ d, s.offHome r = some d → exec (.requestPerform r) s = .next
      ((s.dropReq r).raiseCtx r.grp r.ea ⟨r.ea, r.ctx, r.slot⟩ 0x03 d r.addr)) ∧
    (s.offHome r = none → a % n = 0 → (∀ q ∈ s.defers, unitOf (q.pa % 2 ^ 44) ≠ unitOf a) → (r.endp = 0x82 → regionOf a = .hbm ∨ r.acc = .ld) →
    let writes (t : State) (v : Nat) : Prop := ∀ y, t.readByte y =
      if a ≤ y ∧ y < a + n then BitVec.ofNat 8 (v / 256 ^ (y - a)) else s.readByte y
    let answers (t : State) (v : Word) (p : Bool) : Prop := (∀ ea c, t.ctx ea c = s.ctx ea c) ∧ (∀ u, t.isFull u = s.isFull u) ∧
      (r.out < localOut → t.awaits (s.now + replyDelay s.module r) (.ackArrival r) ∧
        (r.endp = 0x82 → r.ren = true → t.awaits (s.now + replyDelay s.module r) (.replyArrival r v p))) ∧
      (r.out < localOut → r.endp ≠ 0x82 → r.ren = true →
        wordGoes s t (s.now + (replyDelay s.module r - hops r.dst r.ea)) r.dst r.ea 0 (.replyArrival r v p)) ∧
      (localOut ≤ r.out → ∀ d, r.dlv = some d →
        t.awaits (s.now + replyDelay s.module r) (.resultDelivery (Delivery.withValue d v (if p then .poison else .data))))
    let new : Nat := match r.aop with
      | 0 => (old + x) % 2 ^ w
      | 1 => old &&& x
      | 2 => old ||| x
      | 3 => old ^^^ x
      | 4 => if signed old ≤ signed x then old else x
      | 5 => if signed old ≤ signed x then x else old
      | 6 => min old x
      | 7 => max old x
      | _ => x
    (r.acc = .ld → gives (.requestPerform r) s (fun t => (∀ y, t.readByte y = s.readByte y) ∧ (∀ u, t.poisoned u = s.poisoned u) ∧
      answers t (if r.sx then BitVec.ofInt 64 (signed old) else BitVec.ofNat 64 old) bad)) ∧
    (r.acc = .st → r.sz = 3 → gives (.requestPerform r) s (fun t => writes t r.v1.toNat ∧ answers t 0 false ∧
      ∀ u, t.poisoned u = (s.poisoned u && u != unitOf a))) ∧
    (r.acc = .st → r.sz ≠ 3 → bad = false → gives (.requestPerform r) s (fun t => writes t r.v1.toNat ∧ answers t 0 false)) ∧
    (r.acc = .amo → bad = false → gives (.requestPerform r) s (fun t => writes t new ∧ answers t (BitVec.ofNat 64 old) false)) ∧
    (r.acc = .cas → bad = false → gives (.requestPerform r) s (fun t => answers t (BitVec.ofNat 64 old) false ∧
      writes t (if r.sz = 3 then (if old = r.v2.toNat then r.v1.toNat else old)
        else if old = r.v1.toNat % 2 ^ 32 % 2 ^ w then r.v1.toNat / 2 ^ 32 else old))) ∧
    (bad = true → (r.acc = .st ∧ r.sz ≠ 3 ∨ r.acc = .amo ∨ r.acc = .cas) →
      exec (.requestPerform r) s = .next
        ((s.dropReq r).raiseRec r.grp r.ea r.ea (some r.ctx) (some r.slot) 0x15 true true 0 r.addr)))

/-- R351 to R353: an lde empties a full unit and returns its value, an stf fills an empty one with clean data; where the unit does
not permit it, the request is deferred, or FE_OVERFLOW when the port holds 64. R230, R235: the reply to the oldest request of its
route enters RCH; an acknowledgement leaves what its context awaits. -/
def Obligations.FullUnitsAndReplies : Prop :=
  (∀ (s : State) (r : MReq), r.who = .firing → r.out < localOut → r.endp = 0x82 → s.injs = [] → (r.acc = .lde ∨ r.acc = .stf) →
      let a := r.pa % 2 ^ 44
      let u := unitOf a
      (∀ q ∈ s.defers, unitOf (q.pa % 2 ^ 44) ≠ u) →
      let acked (t : State) : Prop := (∀ ea c, t.ctx ea c = s.ctx ea c) ∧ t.defers = s.defers ∧
        t.awaits (s.now + replyDelay s.module r) (.ackArrival r) ∧ ∀ k, k ≠ u → t.isFull k = s.isFull k ∧ t.poisoned k = s.poisoned k
      (r.acc = .lde → s.isFull u = true → gives (.feService r) s (fun t => acked t ∧ t.isFull u = false ∧
        (∀ y, t.readByte y = s.readByte y) ∧ (r.ren = true → t.awaits (s.now + replyDelay s.module r)
          (.replyArrival r (s.read64 a) (r.pzn || s.poisoned u))))) ∧
      (r.acc = .stf → s.isFull u = false → gives (.feService r) s (fun t => acked t ∧ t.isFull u = true ∧ t.poisoned u = false ∧
        ∀ y, t.readByte y = if a ≤ y ∧ y < a + 8 then BitVec.ofNat 8 (r.v1.toNat / 256 ^ (y - a)) else s.readByte y)) ∧
      ((r.acc = .lde ∧ s.isFull u = false ∨ r.acc = .stf ∧ s.isFull u = true) → s.portDefers a < 64 →
        exec (.feService r) s = .next { s with defers := s.defers ++ [r] }) ∧
      ((r.acc = .lde ∧ s.isFull u = false ∨ r.acc = .stf ∧ s.isFull u = true) → 64 ≤ s.portDefers a →
        exec (.feService r) s = .next ((s.dropReq r).raiseCtx r.grp r.ea ⟨r.ea, r.ctx, r.slot⟩ 0x14 0 r.addr))) ∧
  (∀ (s : State) (r : MReq) (v : Word) (p : Bool), r.who = .firing →
      let c := s.chan r.ea r.rch
      (∀ x xs, ((s.elem r.ea).out r.out).reqs = x :: xs → x.id = r.id → x.ren = true → gives (.replyArrival r v p) s (fun t =>
        (t.chan r.ea r.rch).q = c.q ++ [⟨⟨v, r.tag, if p then .poison else .data⟩, .none, s.now⟩] ∧
        (t.chan r.ea r.rch).reserved = c.reserved - 1 ∧ (t.chan r.ea r.rch).st = .opened ∧
        (∀ n, n ≠ r.rch → t.chan r.ea n = s.chan r.ea n) ∧ sameProgram s t ∧ ∀ y, y ≠ r.ea → t.elem y = s.elem y)) ∧
      gives (.ackArrival r) s (fun t => (t.ctx r.ea r.ctx).acks = ndel r.id (s.ctx r.ea r.ctx).acks ∧
        (t.ctx r.ea r.ctx).sbarReqs = ndel r.id (s.ctx r.ea r.ctx).sbarReqs ∧ sameProgram s t ∧
        (∀ y, y ≠ r.ea → t.elem y = s.elem y) ∧ (∀ n, t.chan r.ea n = s.chan r.ea n) ∧ s.keepsAgenda t ∧
        ∀ j ∈ (s.elem r.ea).joins, j.waits = [r.id] → t.awaits (s.now + 1) (.joinWordEntry r.ea j.ctx j.id)))

/-- R340, R343, R345, R347: a walk reads the entry of its level in a service of its home; a link leads to the next level, a leaf is
cached and its request goes on, V = 0 stops the agent with PAGE_NOT_PRESENT and no fence, and a malformed entry is PERMISSION. -/
def Obligations.WalksOfPageTables : Prop :=
  ∀ (s : State) (w : Walk) (e : Word) (rest : List (Nat × MReq × Bool)),
    (s.slice w.tile).walks = (w.id, w.r, false) :: rest → (∀ x ∈ rest, x.1 ≠ w.id) → (s.slice w.tile).waiting = [] →
    w.r.who = .firing → w.r.acc = .ld → (w.again = true → (s.slice w.tile).beyond = []) →
    let far (a : Nat) : Nat := homeHalf s.module w.tile (s.module * 2 ^ 44 + a)
    let next := entryAddr (pteNext e) (w.level - 1) (vbits w.r.addr)
    let page := leafPage w.level (vbits w.r.addr)
    let size := leafSize w.level
    let read : Walk := { w with entry := some e }
    (∀ d, w.entry = none → s.homeFault w.tile w.addr = some d → exec (.tlbWalk w) s = .next ((s.endWalk w).failReq w.r w.tile 0x03 d)) ∧
    (w.entry = none → s.homeFault w.tile w.addr = none → w.served = false →
      exec (.tlbWalk w) s = .next (s.bankEnter w.addr 0 (.tlbWalk { w with served := true }) none)) ∧
    (w.entry = none → s.homeFault w.tile w.addr = none → w.served = true →
      (∀ q ∈ s.defers, unitOf (q.pa % 2 ^ 44) ≠ unitOf w.addr) → gives (.tlbWalk w) s (fun t =>
      t.awaits (s.now + far w.addr) (.tlbWalk { w with entry := some (s.read64 w.addr) }) ∧
      t = { s with agenda := t.agenda } ∧ s.keepsAgenda t)) ∧
    (pteV e = true → pteBad w.level e = false → pteLeaf e = false → gives (.tlbWalk read) s (fun t =>
      t.awaits (s.now + far next) (.tlbWalk { w with level := w.level - 1, addr := next, entry := none, served := false }) ∧
      t = { s with agenda := t.agenda } ∧ s.keepsAgenda t)) ∧
    (pteV e = true → pteBad w.level e = false → pteLeaf e = true → ∀ pa, leafUse s.module .ld false page size e (vbits w.r.addr) = .inl pa →
      gives (.tlbWalk read) s (fun t => (t.slice w.tile).ents.getLast? = some ⟨w.r.dom, page, size, e⟩ ∧
        (t.slice w.tile).walks = rest ∧ sameProgram s t ∧ s.keepsAgenda t ∧
        ∃ n i, s.now + 1 ≤ n ∧ t.awaits n (.requestPerform { w.r with
          pa := pa, tpage := page, tsize := size, pzn := ptePzn e, issued := i }))) ∧
    (pteV e = false → (s.slice w.tile).places < 16 → gives (.tlbWalk read) s (fun t =>
      (t.slice w.tile).held = (s.slice w.tile).held ++ [⟨s.serial + 1, w.r, w.addr⟩] ∧ (t.slice w.tile).walks = rest ∧
      sameProgram s t ∧ ((t.group w.r.grp).st = (s.group w.r.grp).st) ∧
      ((s.group w.r.grp).st = .live → ∃ f : FRec, f.code = 0x11 ∧ f.fence = false ∧ f.aux = w.r.addr ∧ f.ea = BitVec.ofNat 14 w.r.ea ∧
        t.awaits (s.now + hubDelay w.tile (s.group w.r.grp).origin) (.faultRecordArrival f)))) ∧
    (pteV e = true → pteBad w.level e = true → exec (.tlbWalk read) s = .next ((s.endWalk w).failReq w.r w.tile 0x12 0x12))

/-- R301, R340, R345, R346: a request whose page its slice holds, with the rights of Table 15-5, goes on to the address that the
leaf gives, 4 fc later at the earliest, and the entry is the one used latest; one whose page it does not hold starts a walk at the
root of its domain. R347, R350: RESUME of a PAGE_NOT_PRESENT record releases the agents that stopped at that entry, which walk
again; the acknowledgement of a tinval reaches its context once no request that used a removed page is on its way. -/
def Obligations.LookupsAndInvalidation : Prop :=
  (∀ (s : State) (r : MReq), r.who = .firing → (r.acc = .ld ∨ r.acc = .st ∨ r.acc = .amo ∨ r.acc = .cas ∨ r.acc = .lde ∨ r.acc = .stf) →
      let tile := (s.group r.grp).owner r.addr
      let va := vbits r.addr
      (∀ e, (s.slice tile).ents.find? (fun e => e.maps r.dom (va / 65536)) = some e →
        let pa := pteFrame e.leaf * 65536 + (va - e.page * 65536) % (e.size * 65536)
        leafUse s.module r.acc false e.page e.size e.leaf va = .inl pa → gives (.tlbLookup r) s (fun t =>
          t.awaits (max (s.now + 4) (r.issued + homeHalf s.module r.ea pa))
            (.requestPerform { r with pa := pa, tpage := e.page, tsize := e.size, pzn := ptePzn e.leaf }) ∧
          (t.slice tile).ents.getLast? = some e ∧ (∀ x, x ≠ tile → t.slice x = s.slice x) ∧
          (∀ ea c, t.ctx ea c = s.ctx ea c) ∧ t = { s with slices := t.slices, agenda := t.agenda, elems := t.elems } ∧ s.keepsAgenda t)) ∧
      (∀ root, (s.slice tile).ents.find? (fun e => e.maps r.dom (va / 65536)) = none → (s.slice tile).walks.length < 8 →
        s.root r.dom = some root →
        let a := entryAddr root 4 va
        gives (.tlbLookup r) s (fun t => (t.slice tile).walks = (s.slice tile).walks ++ [(s.serial, r, false)] ∧
          t.awaits (s.now + homeHalf s.module tile (s.module * 2 ^ 44 + a)) (.tlbWalk ⟨s.serial, r, tile, 4, a, false, none, false⟩) ∧
          t = { s with slices := t.slices, agenda := t.agenda, serial := t.serial } ∧ s.keepsAgenda t))) ∧
  (∀ (s : State) (gn : Nat) (seq : BitVec 16) (h : Held) (t0 : Tinv),
      (∀ tile key, (s.group gn).tiles = [tile] → (s.group gn).pnp = [(seq.toNat, key)] → (s.slice tile).held = [h] → h.key = key →
        h.r.who = .firing → (s.slice tile).beyond = [] → (s.slice tile).walks = [] → gives (.pageResume gn seq) s (fun t =>
          (t.slice tile).held = [] ∧ (t.slice tile).walks = [(s.serial, h.r, false)] ∧ sameProgram s t ∧ s.keepsAgenda t)) ∧
      (s.tinvs = [t0] → t0.ready ≤ s.now → t0.waits.any s.onWay = false → gives (.tinvalAck t0.ea t0.ctx) s (fun t => t.tinvs = [] ∧
        (t.ctx t0.ea t0.ctx).wait.testBit waitTinval = false ∧ sameProgram s t)) ∧
      (s.tinvs = [t0] → t0.waits.any s.onWay = true → t0.ready ≤ s.now → gives (.tinvalAck t0.ea t0.ctx) s (fun t => t.tinvs = [t0] ∧
        t.awaits (s.now + 1) (.tinvalAck t0.ea t0.ctx))))

/-! ## Engines of an element, copies (chapters 07, 08, 09) -/

/-- R186, R193, R194, R200, R239, R243: a commit without ssts makes its handle FULL; a redc takes an operand a cycle, one that has
sent its words queues its record, the record is written and the EOS follows; a generator issues the load of its next element to the
bank that holds it, and its stream ends with an EOS, after which it is DONE. -/
def Obligations.StreamEnginesAtWork : Prop :=
  ∀ (s : State) (ea g h : Nat) (u : Su),
    let e := s.elem ea
    let x := e.gen g
    let free := (s.group (s.groupNo ea)).stopsAt ea = false
    ((e.hnd h).commit = some [] → gives (.handleFullAfterCommit ea h) s (fun t => (t.elem ea).hnd h = ⟨.full, 0, none, s.now⟩ ∧
      (∀ j, j ≠ h → (t.elem ea).hnd j = e.hnd j) ∧ sameProgram s t ∧ onlyElem s t ea)) ∧
    (∀ w, e.su = some u → free → u.op = 0xB1 → u.phase = .run → u.outq = [] → u.end0 = false → u.end1 = true →
      redcSeq u.lit = false → u.count + 1 < redcN u.lit → suHead e (suIn0 u.lit) = some w → w.kind = .data →
      redcIdx u.lit w.tag < redcN u.lit → u.next = 0 → u.kept.any (fun y => y.tag == w.tag) = false →
      gives (.operatorInput ea) s (fun t =>
        (t.elem ea).su = some { u with kept := u.kept ++ [w], count := u.count + 1, lastPop := s.now } ∧
        (suIn0 u.lit < 32 → (t.chan ea (suIn0 u.lit)).q = (s.chan ea (suIn0 u.lit)).q.drop 1) ∧
        t.awaits (s.now + 1) (.operatorInput ea) ∧ sameProgram s t)) ∧
    (e.su = some u → free → u.phase = .flush → u.outq = [] → gives (.operatorInput ea) s (fun t =>
      (t.elem ea).su = some { u with phase := .record } ∧
      (∃ q ∈ (t.bank (bankOf (seAddr ea u.sa))).q, q.instr = .operatorEnd ea ∧ q.port = 3) ∧ sameProgram s t)) ∧
    (e.su = some u → u.phase = .record → gives (.operatorEnd ea) s (fun t =>
      (∀ y, t.readByte y = if seAddr ea u.sa ≤ y ∧ y < seAddr ea u.sa + 8
        then u.record.extractLsb' (8 * (y - seAddr ea u.sa)) 8 else s.readByte y) ∧
      t.poisoned (unitOf (seAddr ea u.sa)) = false ∧ (u.status < 2 ^ 31 → u.record.getLsbD 63 = true) ∧ u.record.extractLsb' 0 32 = BitVec.ofNat 32 u.count ∧
      (t.elem ea).su = some { u with phase := .eos } ∧ t.awaits (s.now + 1) (.operatorInput ea) ∧ ∀ c, t.ctx ea c = s.ctx ea c)) ∧
    (∀ a, x.st = .running → x.fault = none → x.halt = false → x.wait = false → x.busy ≤ s.now → x.ending = false → x.eosDue = false →
      x.param = false → x.mode = 0 → gnSt x.lit = false → gnLoc x.lit = false → gnDst x.lit < 32 → free → 0 < s.genRoom ea g x →
      s.genPortHolds ea g x = false → x.elt x.k = .at_ a →
      0 ≤ a → a % 2 ^ x.esz = 0 → a + 2 ^ x.esz ≤ (e.progBytes : Int) → x.esz ≤ 3 → gives (.genElementIssue ea g) s (fun t =>
        (∃ q ∈ (t.bank (bankOf (seAddr ea a.toNat))).q, q.port = 1 + g ∧ ∃ r, q.instr = .requestPerform r ∧ r.acc = .ld ∧
          r.who = .gen g ∧ r.pa = seAddr ea a.toNat ∧ r.sz = x.esz ∧ r.ea = ea) ∧
        t.awaits (s.now + 1) (.genElementIssue ea g) ∧ sameProgram s t)) ∧
    (∀ q, x.st = .running → x.ending = true → free → x.last < s.now → x.fly = [] → gnDst x.lit = 32 → tget [] g e.gbuf = q → q.length < 16 →
      gives (.genStreamEnd ea g) s (fun t => ((t.elem ea).gen g).st = .done ∧
        tget [] g (t.elem ea).gbuf = q ++ [⟨0, x.lit.extractLsb' 20 8, .eos⟩] ∧ sameProgram s t ∧ onlyElem s t ea))

/-- R208, R209, R212, R215, R218: the ME reads a row of its queue while MODE is set, a served part joins its row, a plane load reads
its plane from the handle and is READY when all of it is there; a row that is due lands in ACC or sets out to its output handle,
where its bytes are written; the notice of a complete handle is sent and the pointer advances; a mismatch discards rows. That a
plane's handle is FREE only when the plane is READY is the model's reading (log 62), and the differing columns of a mismatch are an
input of the event (logs 47 and 63). -/
def Obligations.MatrixEngineAtWork : Prop :=
  ∀ (s : State) (ea : Nat), s.injs = [] →
    let e := s.elem ea
    let m := e.me
    let se := bindSe ea e.work.meb 5
    let unfenced := (s.group (s.groupNo ea)).stopsAt ea = false
    let rowBytes := aRowBytes m.mode
    (∀ h a, m.mode ≠ 0 → unfenced → bindHas e.work.meb 0 = true → bindHas e.work.meb 3 = false → m.aq.handle = some h →
      m.aq.rows.length < 16 → s.mePortHolds ea se = false → m.aq.next < (s.elem se).handleBytes h / rowBytes → 64 ≤ rowBytes →
      s.handleAddr se h (m.aq.next * rowBytes) = some a → gives (.meQueueFill ea) s (fun t =>
        (t.me ea).aq.next = m.aq.next + 1 ∧ (∃ row, (t.me ea).aq.rows = m.aq.rows ++ [row] ∧ row.need = rowBytes / 64 ∧
          ∃ q ∈ (t.bank (bankOf a)).q, q.instr = .meRowReadServed ea false row.id 0 a) ∧
        t.awaits (s.now + 1) (.meQueueFill ea) ∧ sameProgram s t)) ∧
    (∀ h row a, m.aq.handle = some h → m.aq.rows = [row] → (∀ i < 8, s.poisoned (unitOf a + i) = false) →
      row.parts.length + 1 < row.need → m.aq.served < (s.elem se).handleBytes h / rowBytes →
      gives (.meRowReadServed ea false row.id 0 a) s (fun t =>
        (t.me ea).aq.rows = [{ row with
          parts := tput [] 0 (s.readBytes a 64) row.parts, ready := max row.ready (s.now + s.handleLat se h) }] ∧
        sameProgram s t ∧ (∀ x, x ≠ ea → t.elem x = s.elem x) ∧ s.keepsAgenda t)) ∧
    (∀ one p a, m.loadingPlane = some (one, p) → unfenced → s.mePortHolds ea p.se = false → p.bad = false → p.issued < planeReads p →
      s.handleAddr p.se p.handle (planeOffset p p.issued) = some a → gives (.mePlaneRead ea (p.load, none)) s (fun t =>
        ((t.me ea).plane one).issued = p.issued + 1 ∧ ((t.me ea).plane one).st = .loading ∧
        (∃ q ∈ (t.bank (bankOf a)).q, q.instr = .mePlaneRead ea (p.load, some (planeOffset p p.issued / 64, a))) ∧
        sameProgram s t)) ∧
    (∀ one p k a, m.loadingPlane = some (one, p) → p.bad = false → p.spa = false → p.served + 1 = planeReads p * planeParts p →
      (∀ i < 8, s.poisoned (unitOf a + i) = false) → gives (.mePlaneRead ea (p.load, some (k, a))) s (fun t =>
        (t.me ea).plane one = { p with served := p.served + 1, bytes := tput [] k (s.readBytes a 64) p.bytes } ∧
        t.awaits (s.now + s.handleLat p.se p.handle + 1) (.mePlaneReady ea) ∧ sameProgram s t)) ∧
    (∀ one p, m.loadingPlane = some (one, p) → p.served = planeReads p * planeParts p → p.se ≠ ea → gives (.mePlaneReady ea) s (fun t =>
      ((t.me ea).plane one).st = .ready ∧ ((t.me ea).plane one).cols =
        (List.range 64).map (fun n => (List.range 64).map (fun k => (planeElem p k n).1)) ∧
      (t.elem p.se).hnd p.handle = .zero ∧ sameProgram s t)) ∧
    (∀ y rest, m.fly = y :: rest → y.due ≤ s.now → y.out = false → gives (.meRowLand ⟨ea, 0⟩) s (fun t =>
      (t.me ea).fly = rest ∧ (t.me ea).mls = m.mls ||| y.ls ∧ tget [] y.j (t.me ea).acc = y.r ∧
      (∀ j, j ≠ y.j → tget [] j (t.me ea).acc = tget [] j m.acc) ∧ sameProgram s t)) ∧
    (∀ y rest o h, m.fly = y :: rest → y.due ≤ s.now → y.out = true → s.outOpen ea = true → s.outHandle ea = some (o, h) →
      gives (.meRowLand ⟨ea, 0⟩) s (fun t => (t.me ea).fly = rest ∧ (t.me ea).acc = m.acc ∧
        ∃ w, (t.me ea).outs = m.outs ++ [w] ∧ w.bytes = outBytes m.mode y.r y.cls ∧ w.handle = h ∧
          ∀ k < w.bytes.length / 64, t.awaits (s.now + s.handleLat o h)
            (.meOutputRowWrite ea w.id (w.bytes.length / 64 + k)))) ∧
    (∀ y rest (diff : Word), m.fly = y :: rest → y.due ≤ s.now → y.red = true → diff ≠ 0 → m.note = none →
      exec (.meRowLand ⟨ea, diff⟩) s = .next ((s.modMe ea (fun m => { m with fly := [], note := none, opos := m.opos - m.fly.countP (·.out), drops := true })).raiseGroup
        (s.groupNo ea) ea ea 0x21 (y.j + 256 * y.pc) diff)) ∧
    (∀ o k a, m.outs = [o] → s.rowOpen o = true → k < o.bytes.length / 64 → s.handleAddr o.se o.handle (o.row * o.bytes.length + 64 * k) = some a →
      gives (.meOutputRowWrite ea o.id k) s (fun t =>
        (∀ y, t.readByte y = if a ≤ y ∧ y < a + 64 then (o.bytes[64 * k + (y - a)]?).getD 0 else s.readByte y) ∧
        (∀ i < 8, t.poisoned (unitOf a + i) = false) ∧ (ndel k o.left = [] → (t.me ea).outs = [] ∧ (t.me ea).owr = m.owr + 1) ∧
        ∀ c, t.ctx ea c = s.ctx ea c)) ∧
    (∀ h, s.outHandle ea = some h → m.note = none → gives (.meNotice ea) s (fun t =>
      (t.me ea).owr = 0 ∧ (t.me ea).oflags = 0 ∧ (t.me ea).opos = m.opos - m.owr ∧ sameProgram s t ∧ onlyElem s t ea))

/-- R245, R247, R249, R250, R251: a copy takes the lowest FREE flow, a ring copy's binding sets out and brings a permit for each
FREE handle; a granule whose bank serves it is read, and at its destination written: 64 bytes with their poison, in two bank
services that are the model's choice, the address of the destination going to its slice between them (log 27); a copy that ends
frees its flow and sends its status word, one that is done in a fenced tile stays ACTIVE (R405); ccan removes a copy that waits. -/
def Obligations.CopiesAtWork : Prop :=
  ∀ (s : State) (tile n : Nat),
    let f := s.flow tile n
    let clear (a : Nat) : Prop := ∀ q ∈ s.defers, unitOf (q.pa % 2 ^ 44) < unitOf a ∨ unitOf a + 8 ≤ unitOf (q.pa % 2 ^ 44)
    (∀ c : CopyReq, (s.hub c.tile).copies = [] → (s.hub c.tile).freeFlow = some n → ringBound s c = false →
      gives (.copyFlowTake c) s (fun t => t.flow c.tile n = { Flow.zero with st := .active, c := c } ∧ (t.hub c.tile).copies = [] ∧
        (∀ k, k ≠ n → t.flow c.tile k = s.flow c.tile k) ∧ sameProgram s t ∧
        (c.ring = true → ((t.elem c.dstEa).ring c.dring).bound = some (c.tile, n) ∧
          t.awaits (s.now + hops c.dstEa c.tile) (.ringBindArrival c.tile n)))) ∧
    (((s.elem f.c.dstEa).ring f.c.dring).bound = some (tile, n) → gives (.ringBindArrival tile n) s (fun t =>
      ((t.elem f.c.dstEa).ring f.c.dring).permits = true ∧ sameProgram s t ∧
      (∀ h ∈ (s.elem f.c.dstEa).ringHandles f.c.dring, ((s.elem f.c.dstEa).hnd h).st = .free →
        t.awaits (s.now + hops f.c.dstEa tile) (.permitArrival tile n)) ∧
      t.agenda.length = s.agenda.length + (((s.elem f.c.dstEa).ringHandles f.c.dring).filter (fun h =>
        ((s.elem f.c.dstEa).hnd h).st == .free)).length)) ∧
    (f.st ≠ .free → gives (.permitArrival tile n) s (fun t => t.flow tile n = { f with permits := f.permits + 1 } ∧
      (∀ k, k ≠ n → t.flow tile k = s.flow tile k) ∧ t = { s with hubs := t.hubs })) ∧
    (∀ x : Gran, s.injs = [] → f.c.ring = false → f.c.ssrc = false → f.halt = false → f.fly = [x] →
      (∀ ps, x.src = some ps → let a := ps % 2 ^ 44; a % 64 = 0 → clear a → s.homeRefuses tile ps false = none →
        gives (.copyGranule tile ⟨n, x.id, .readServed a⟩) s (fun t => sameMemory s t ∧ (∀ ea c, t.ctx ea c = s.ctx ea c) ∧
          (t.flow tile n).moved = f.moved ∧
          (t.flow tile n).fly = [{ x with data := some ((List.range 8).map (fun i =>
            (s.readNat (a + 8 * i) 8, x.pzn || s.poisoned (unitOf a + i)))) }] ∧
          ∃ r : MReq, r.who = .flow tile n ∧ r.id = x.id ∧ r.acc = .st ∧ r.addr = f.c.dst + BitVec.ofNat 64 (64 * x.idx) ∧
            wordGoes s t (s.now + homeHalf s.module tile ps + 1) tile ((s.group f.c.grp).owner r.addr) 0 (.tlbLookup r))) ∧
      (∀ r : MReq, r.who = .flow tile n → r.id = x.id → r.acc = .st → gives (.requestPerform r) s (fun t => sameMemory s t ∧
        (t.flow tile n).fly = [{ x with dst := some r.pa, dpage := r.tpage, dsize := r.tsize }] ∧
        t.awaits (s.now + homeHalf s.module tile r.pa) (.copyGranule tile ⟨n, x.id, .writeArrive⟩))) ∧
      (∀ (us : List (Nat × Bool)) (pd : Nat), let b := pd % 2 ^ 44; x.dst = some pd → b % 64 = 0 → clear b →
        s.homeRefuses tile pd true = none → x.data = some us → us.length = 8 → gives (.copyGranule tile ⟨n, x.id, .writeServed b⟩) s (fun t =>
        (∀ y, t.readByte y = if b ≤ y ∧ y < b + 64 then
          BitVec.ofNat 8 (((us[(y - b) / 8]?).getD (0, false)).1 / 256 ^ ((y - b) % 8)) else s.readByte y) ∧
        (∀ i < 8, t.poisoned (unitOf b + i) = ((us[i]?).getD (0, false)).2) ∧
        (∀ u, (u < unitOf b ∨ unitOf b + 8 ≤ u) → t.poisoned u = s.poisoned u) ∧
        (t.flow tile n).moved = f.moved + 1 ∧ (t.flow tile n).fly = [] ∧
        (f.st = .active → f.code = 0 → f.cancel = none → (f.moved + 1) * 64 = f.c.len → (s.group f.c.grp).fencedAt tile = true →
          (t.flow tile n).st = .active ∧ t.agenda = s.agenda) ∧
        (f.st = .active → f.code = 0 → f.cancel = none → (f.moved + 1) * 64 = f.c.len → (s.group f.c.grp).fencedAt tile = false → (∀ y ∈ s.agenda, ∀ st code,
          y.instr ≠ .copyComplete tile n st code) → t.awaits s.now (.copyComplete tile n 0 0)) ∧
        ∀ ea c, t.ctx ea c = s.ctx ea c))) ∧
    (∀ st code : Byte, f.st ≠ .free → f.c.ring = false → (∀ h, (s.hub h).copies = []) → gives (.copyComplete tile n st code) s (fun t =>
      t.flow tile n = .zero ∧ sameProgram s t ∧ ∃ d : Delivery, t.awaits (s.now + hops f.c.ea (tileOf f.c.ea) + 1) (.resultDelivery d) ∧
        d.ea = f.c.ea ∧ d.ctx = f.c.ctx ∧ d.reg = some f.c.reg ∧
        d.value = BitVec.ofNat 64 (st.toNat + code.toNat * 2 ^ 8 + f.moved * 64 % 2 ^ 41 * 2 ^ 16))) ∧
    (∀ c : CopyReq, (s.hub tile).copies = [c] → gives (.ccanAtHub tile c.ea c.ctx c.reg) s (fun t => (t.hub tile).copies = [] ∧
      sameProgram s t ∧ ∃ d : Delivery, t.awaits (s.now + hops c.ea (tileOf c.ea) + 1) (.resultDelivery d) ∧ d.ea = c.ea ∧
        d.ctx = c.ctx ∧ d.reg = some c.reg ∧ d.value = 1))

/-! ## Groups, faults, queues (chapters 12, 13, 18) -/

/-- R296, R305, R309, R405, Tables 12-1, 13-7: what ends a group. A complete kernel, or a drained group whose contexts have all
exited, leaves it RETIRED, or, where a launch runs it, FREE with the launch at its end; a drained group else is QUIESCENT; a FENCED
group is retired, its launch failing with the CODE of its first fault; a released or discarded one is FREE, its elements cleared of
all but what R271 keeps apart from planes, and the launch of a discarded save stays in its queue, to be placed anew (the model's
reading, log 33); a group that is not SAVED has no save to discard. -/
def Obligations.HowGroupsEnd : Prop :=
  ∀ (s : State) (gn : Nat),
    let g := s.group gn
    let ends (i : Instr) : Prop :=
      (g.lid = none → gives i s (fun t => (t.group gn).st = .retired ∧ (t.group gn).kern.st = .retired ∧ sameMemory s t ∧
        ∀ n, n ≠ gn → t.group n = s.group n)) ∧
      (∀ lid, g.lid = some lid → gives i s (fun t => (t.group gn).st = .free ∧ t.awaits s.now (.launchComplete lid) ∧
        sameMemory s t ∧ ∀ n, n ≠ gn → t.group n = s.group n))
    let fails (i : Instr) : Prop := ∀ lid l, g.lid = some lid → s.launch lid = some l → gives i s (fun t =>
      t.launch lid = some { l with fail := true, code := g.firstFault.getD 0 } ∧ t.awaits s.now (.launchComplete lid))
    let frees (i : Instr) : Prop := gives i s (fun t => (t.group gn).st = .free ∧ sameMemory s t ∧
      (∀ ea, t.elem ea = if g.st ≠ .saved ∧ g.covers ea = true then (s.elem ea).cleared else s.elem ea) ∧ ∀ n, n ≠ gn → t.group n = s.group n)
    (g.st = .live → g.kern.st = .draining → ends (.kernelComplete gn)) ∧
    (g.st = .draining → s.allExited g = true → ends (.quiescence gn)) ∧
    (g.st = .draining → s.allExited g = false → gives (.quiescence gn) s (fun t => (t.group gn).st = .quiescent ∧
      (t.group gn).kern.st = .quiescent ∧ (t.group gn).preq = none ∧ sameProgram s t ∧ ∀ n, n ≠ gn → t.group n = s.group n)) ∧
    (g.st = .fenced → ends (.groupRetire gn) ∧ ends (.gcmdRetire gn) ∧ fails (.groupRetire gn) ∧ fails (.gcmdRetire gn)) ∧
    (g.st ≠ .fenced → exec (.groupRetire gn) s = .next s ∧ exec (.gcmdRetire gn) s = .next s) ∧
    (s.Inv → (g.st = .reserved ∨ g.st = .retired) → frees (.groupRelease gn)) ∧
    (g.st = .saved → g.lid = none → frees (.savedGroupDiscard gn)) ∧
    (g.st ≠ .saved → exec (.savedGroupDiscard gn) s = .next s) ∧
    (∀ lid l, g.st = .saved → g.lid = some lid → s.launch lid = some l → gives (.savedGroupDiscard gn) s (fun t =>
      (t.group gn).st = .free ∧ t.launch lid = some { l with saved := false, grp := none } ∧ sameProgram s t))

/-- R304, R307, R308, R310, R354, R403, R405: pre-emption is taken at once by a LIVE group that has no splice armed, waits for
LOADING or a splice, is merged into one in force, and is refused by any other group; a timeout fences the group when it was hard,
else makes it LIVE again; a FENCED group resumes LIVE with its contexts as they are; a restored group stands at its new origin, and
a digest that does not match, or a header that is not Table 12-3's, the group's or the module's, leaves it SAVED with CFG_ILLEGAL,
detail 0x24, as the status of the restore; one whose launch is QUEUED is restored by its scheduler alone. -/
def Obligations.PreemptionAndResume : Prop :=
  ∀ (s : State) (gn : Nat) (hard : Bool) (v : Word),
    let g := s.group gn
    let asks (i : Instr) (h : Bool) : Prop :=
      (g.preq = none → g.st = .live → g.armed = false → gives i s (fun t => (t.group gn).st = .draining ∧
        (t.group gn).preq = some ⟨s.now, h, true⟩ ∧ (t.group gn).frozen = some s.now ∧
        (g.kern.st = .running → (t.group gn).kern.st = .draining) ∧ sameMemory s t)) ∧
      (g.preq = none → (g.st = .live ∧ g.armed = true ∨ g.st = .loading) → gives i s (fun t => (t.group gn).st = g.st ∧
        (t.group gn).preq = some ⟨s.now, h, false⟩ ∧ sameProgram s t)) ∧
      (∀ q, g.preq = some q → gives i s (fun t => (t.group gn).preq = some { q with hard := q.hard || h } ∧
        (t.group gn).st = g.st ∧ sameProgram s t)) ∧
      (g.preq = none → g.st ≠ .live → g.st ≠ .loading → gives i s (fun t => (t.group gn).st = g.st ∧ (t.group gn).preq = none ∧
        sameProgram s t))
    asks (.preemptRequest gn hard) hard ∧
    (g.st ≠ .free → v.getLsbD 20 = true → asks (.preqWrite gn v) (v.getLsbD 21)) ∧
    (g.st ≠ .free → v.getLsbD 20 = false → gives (.preqWrite gn v) s (fun t => (t.group gn).wlim = max 1 (v.toNat / 2 ^ 4 % 256) ∧
      (t.group gn).plim = max 1 (v.toNat / 2 ^ 12 % 256) ∧ (t.group gn).pmode = v.getLsbD 21 ∧ (t.group gn).st = g.st ∧
      sameProgram s t)) ∧
    (∀ q, s.groups = [(gn, g)] → (g.st = .draining ∨ g.st = .live ∧ g.armed = true) → g.preq = some q → q.start + g.plim * 65536 ≤ s.now → gives .preemptTimeout s (fun t =>
      (q.hard = true → (t.group gn).st = .fenced) ∧ (q.hard = false → (t.group gn).st = .live ∧ (t.group gn).preq = none) ∧
      ∃ r : FRec, r.code = 0x43 ∧ r.detail = (if q.hard then 1 else 0) ∧ r.fenceNo = (if q.hard then g.fenceNo + 1 else 0) ∧
        t.awaits (s.now + hubDelay g.origin g.origin) (.faultRecordArrival r))) ∧
    (g.st = .live → gives (.groupStall gn) s (fun t => (t.group gn).st = .fenced ∧ sameProgram s t ∧ ∃ r : FRec, r.code = 0x42 ∧
      r.detail = BitVec.ofNat 32 (s.stallDetail gn) ∧ r.aux = s.stallAux g ∧
        t.awaits (s.now + hubDelay g.origin g.origin) (.faultRecordArrival r))) ∧
    (g.st = .fenced → s.Inv → gives (.gcmdResume gn) s (fun t => (t.group gn).st = .live ∧
      (t.group gn).fencedTiles = [] ∧ (t.group gn).wdog = 0 ∧ (t.group gn).frozen = none ∧ sameProgram s t)) ∧
    (∀ tile, g.st = .fenced → g.covers tile = true → tileOf tile = tile → gives (.fenceArrival gn tile) s (fun t => (t.group gn).fencedAt tile = true ∧
      (t.group gn).st = .fenced ∧ sameProgram s t)) ∧
    (∀ n, g.st ≠ .free → gives (.deferFreeze gn n true false) s (fun t => (t.group gn).frozen.isSome = true ∧ sameProgram s t) ∧
      gives (.deferFreeze gn n false false) s (fun t => (t.group gn).frozen = none ∧ sameProgram s t) ∧
      gives (.deferFreeze gn n false true) s (fun t => t = { s with defers := s.defers.filter (fun r => r.grp != gn) })) ∧
    (∀ sv o, g.st = .saved → g.save = some sv → g.preq = none → s.firstOrigin g.w g.h = some o → s.launchWaits gn = false →
      s.saveHolds gn sv true = true → gives (.restore gn true) s (fun t =>
      (t.group gn).st = .live ∧ (t.group gn).kern.st = .resident ∧ (t.group gn).x = o.1 ∧ (t.group gn).y = o.2 ∧
      (t.group gn).save = none ∧ (t.group gn).restat = 0)) ∧
    (∀ sv o ok, g.st = .saved → g.save = some sv → s.firstOrigin g.w g.h = some o → s.launchWaits gn = false →
      (ok = false ∨ sv.module ≠ s.module ∨ sv.grp ≠ gn ∨ sv.dom ≠ g.dom ∨ sv.w ≠ g.w ∨ sv.h ≠ g.h ∨ sv.kid ≠ g.kern.kid ∨
        sv.magic ≠ 0x534B5255 ∨ sv.version ≠ 1 ∨ sv.rsv ≠ 0 ∨ sv.size ≠ sv.areaSize ∨ sv.nrec ≠ sv.recs.length ∨ sv.digest ≠ g.digest) →
      exec (.restore gn ok) s = .next (s.modGroup gn (fun g => { g with restat := 0x32 + 256 * 0x24 }))) ∧
    (∀ ok, g.st ≠ .saved ∨ s.launchWaits gn = true → exec (.restore gn ok) s = .next s)

/-- R406, R407, R410, R411, R412, R416: a record takes its SEQ, and FENCE if it is the first of its fence's, at the origin hub and
16 fc later enters the event queue of the servicing core, from which its head is removed; the reply to an svc lands in its register;
an uncorrectable error that a scrub finds poisons its unit, a correctable one changes no byte; a parity error in a group's state is
MACHINE_CHECK. -/
def Obligations.RecordsAndMachineChecks : Prop :=
  ∀ (s : State),
    (∀ r : FRec, r.stage = 0 → (s.hub r.hub).recs.length < 16 → gives (.faultRecordArrival r) s (fun t =>
      let first : Bool := r.fenceNo != 0 && !nmem r.fenceNo (s.group r.grp.toNat).told
      let x : FRec := { r with fence := first, seq := BitVec.ofNat 16 (s.group r.grp.toNat).seq, stage := 1 }
      (t.hub r.hub).recs = (s.hub r.hub).recs ++ [x] ∧ (∀ h, h ≠ r.hub → t.hub h = s.hub h) ∧
      (t.group r.grp.toNat).told = (if first then nadd r.fenceNo (s.group r.grp.toNat).told else (s.group r.grp.toNat).told) ∧ (t.group r.grp.toNat).seq = (s.group r.grp.toNat).seq + 1 ∧
      ((s.group r.grp.toNat).firstFault = none → r.code ≠ 0 → (s.group r.grp.toNat).st ≠ .free →
        (t.group r.grp.toNat).firstFault = some r.code.toNat) ∧
      t.awaits (s.now + 16) (.faultRecordArrival x) ∧ sameProgram s t)) ∧
    (∀ r : FRec, r.stage = 0 → 16 ≤ (s.hub r.hub).recs.length → (s.group r.grp.toNat).st ≠ .fenced → gives (.faultRecordArrival r) s (fun t =>
      (t.hub r.hub).recs = (s.hub r.hub).recs ∧ sameProgram s t ∧
      ∃ b, (t.hub r.hub).recWait = (s.hub r.hub).recWait ++ [{ r with fence := b }])) ∧
    (∀ (r : FRec) (k : Nat), r.stage = 1 → (s.hub r.hub).recs = [r] → (s.hub r.hub).recWait = [] →
      s.servicer r.grp.toNat r.hub = some k → (s.core k).evq.length < 64 →
      gives (.faultRecordArrival r) s (fun t => (t.core k).evq = (s.core k).evq ++ [{ r with stage := 0 }] ∧
        (t.hub r.hub).recs = [] ∧ sameProgram s t)) ∧
    (∀ die core, (∀ h ∈ s.hubs, h.2.recs = []) → gives (.eventQueuePop die core) s (fun t =>
      (t.core (coreId die core)).evq = (s.core (coreId die core)).evq.tail ∧
      (∀ k, k ≠ coreId die core → t.core k = s.core k) ∧ t = { s with cores := t.cores })) ∧
    (∀ die core up, gives (.crestCoreAvailability die core up) s (fun t => (t.core (coreId die core)).off = !up ∧
      (∀ k, k ≠ coreId die core → (t.core k).off = (s.core k).off) ∧ sameProgram s t)) ∧
    (∀ ea c v x, (s.ctx ea c).svc = some v → gives (.svcReplyDelivery ea c x) s (fun t => (t.ctx ea c).svc = none ∧
      (∀ r, (t.ctx ea c).reg r = if r = v.reg then x else (s.ctx ea c).reg r) ∧ (t.ctx ea c).pred = (s.ctx ea c).pred ∧
      (t.ctx ea c).flags = (s.ctx ea c).flags ∧ (t.ctx ea c).st = (s.ctx ea c).st ∧ (∀ k, k ≠ c → t.ctx ea k = s.ctx ea k) ∧
      onlyElem s t ea)) ∧
    (∀ unit, s.injs = [] → (∀ q ∈ s.defers, unitOf (q.pa % 2 ^ 44) ≠ unit) → gives (.scrub unit false true) s (fun t => t.poisoned unit = true ∧
        (∀ u, u ≠ unit → t.poisoned u = s.poisoned u) ∧ (∀ a, t.readByte a = s.readByte a) ∧ ∀ ea, t.elem ea = s.elem ea) ∧
      gives (.scrub unit true false) s (fun t => sameProgram s t ∧ ∀ ea, t.elem ea = s.elem ea) ∧
      exec (.scrub unit false false) s = .next s) ∧
    (∀ entry ea, gives (.machineCheck 11 entry ea false) s (fun t => t.groups = s.groups ∧ sameProgram s t)) ∧
    (∀ array entry ea gn, array ≠ 7 → array ≠ 10 → array ≠ 11 → s.groupAt ea = some gn → (s.group gn).st = .live →
      gives (.machineCheck array entry ea false) s (fun t => (t.group gn).st = .fenced ∧ sameProgram s t ∧
        ∃ r : FRec, r.code = 0x7F ∧ r.detail = BitVec.ofNat 32 array ∧ r.aux = BitVec.ofNat 64 entry ∧ r.async = true ∧
          t.awaits (s.now + hubDelay ea (s.group gn).origin) (.faultRecordArrival r)))

/-- R274, R318, R320, R322, R323, R324, R325, R326, Tables 13-3, 13-5, 13-7: the life of a launch: a packet is written to a push
port, an entry that passes the tests of R318 is QUEUED at the tail with the next LID and another is refused with the status of the
first that fails; a decision places the head that fits; a loaded launch starts, its inline bytes written; a launch that ends adds to
its signal, and then its notice may go. That an entry of domain 0 takes status 2 is the model's choice (log 64), and that the load
of a group of several dies waits for its turn in the tile map (log 71). -/
def Obligations.LifeOfALaunch : Prop :=
  ∀ (s : State),
    (∀ die j v, (tget .zero (32 * die + j) s.pushes).busy = false → gives (.pushWrite die j v) s (fun t =>
      (tget .zero (32 * die + j) t.pushes).busy = true ∧ ∃ e : EntryReq, t.awaits (s.now + (8 + 48 * dieDist (j / 4) die)) (.enqueueEntry e) ∧
        e.dom = v.toNat / 2 ^ 16 % 2 ^ 16 ∧ (v.toNat % 256 / 32 = die → e.queue = v.toNat % 256) ∧ e.port = some (die, j) ∧
        e.packet = (List.range 16).flatMap (fun i => leBytes 8 (tget 0 i (tget .zero (32 * die + j) s.pushes).pkt).toNat))) ∧
    (∀ r : MReq, r.aop.testBit 8 = false → gives (.qpushEntry r) s (fun t => ∃ e : EntryReq, e.queue = r.aop % 256 ∧ e.dom = r.dom ∧
      e.packet = tget [] r.id s.reads ∧ e.parent = (s.group r.grp).lid ∧ e.pusher = some (r.ea, r.ctx, r.slot, r.addr) ∧
      t.awaits (s.now + (8 + 48 * dieDist (eaDie r.ea) (r.aop % 256 / 32))) (.enqueueEntry e) ∧ sameProgram s t)) ∧
    (∀ (e : EntryReq) (d j : Nat), e.port = some (d, j) → e.pusher = none → e.parent = none →
      let q := s.queue e.queue
      let closed := (s.die (e.queue / 32)).released = none ∨ (q.st ≠ .opened ∧ q.st ≠ .blocked)
      let status (t : State) : Nat := (tget .zero (32 * d + j) t.pushes).stat
      let refused (n : Nat) : Prop := gives (.enqueueEntry e) s (fun t => status t = n ∧
        (tget .zero (32 * d + j) t.pushes).busy = false ∧ t.queues = s.queues ∧ t.launches = s.launches)
      (closed → refused 1) ∧ (¬ closed → e.dom ≠ q.dom ∨ e.dom = 0 → refused 2) ∧
      (¬ closed → e.dom = q.dom → e.dom ≠ 0 → (pktRanges e.packet && pktClean e.packet) = false → refused 3) ∧
      (¬ closed → e.dom = q.dom → e.dom ≠ 0 → (pktRanges e.packet && pktClean e.packet) = true → q.ents.length < 64 →
        gives (.enqueueEntry e) s (fun t => status t = 0 ∧ (t.queue e.queue).ents = q.ents ++ [s.lids % 2 ^ 32] ∧
          t.lids = s.lids + 1 ∧ ∃ l : Launch, t.launch (s.lids % 2 ^ 32) = some l ∧ l.st = .queued ∧ l.pkt = e.packet ∧
            l.queue = e.queue ∧ l.dom = e.dom ∧ l.kids = 0))) ∧
    (∀ die qn lid l o, qn ∈ dieQueues die → (s.die die).released.isSome = true → (∀ q ∈ dieQueues die, (s.queue q).hold = false ∧ (q ≠ qn → (s.queue q).ents = [])) →
      (s.queue qn).st = .opened → (s.queue qn).pri ≤ 7 → (s.queue qn).ents = [lid] → (s.queue qn).back = [] → (s.queue qn).waiting = [] →
      s.launch lid = some l → l.lid = lid → l.saved = false → s.waitOk l = true →
      1 ≤ l.shape.1 → 1 ≤ l.shape.2 → s.beforeCycle.firstOrigin l.shape.1 l.shape.2 = some o → (rectTiles o.1 o.2 l.shape.1 l.shape.2).all s.tileFree = true →
      gives (.schedulerDecision die) s (fun t => (t.queue qn).ents = [] ∧ (t.group s.freeNumber).st = .reserved ∧
        (t.group s.freeNumber).lid = some lid ∧ (t.group s.freeNumber).x = o.1 ∧ (t.group s.freeNumber).y = o.2 ∧
        (t.group s.freeNumber).w = pktW l.pkt ∧ (t.group s.freeNumber).h = pktH l.pkt ∧
        t.launch lid = some { l with st := .placed, grp := some s.freeNumber, origin := tileAt o.1 o.2 } ∧
        ∃ b c, t.awaits (s.now + s.mapDelay die o l.shape.1 l.shape.2) (.imageLoadRequest ⟨s.freeNumber, false, b, c, some lid, none⟩))) ∧
    (∀ (l : LoadReq) (u : State) (lid : Nat), l.readFault = none → l.splice = false → l.reply = none → l.launch = some lid →
      s.loadImage l ((s.launch lid).map (fun x => BitVec.ofNat 64 (pktKid x.pkt))) = ((0, 0, 0), u) → (u.group l.grp).lid = some lid →
      gives (.imageLoadRequest l) s (fun t => t = u.after 1 (.launchStart lid))) ∧
    (∀ (l : LoadReq) (c : Byte) (lid : Nat), l.readFault = some c → c ≠ 0 → l.reply = none → l.launch = some lid →
      ((s.group l.grp).lid = some lid → exec (.imageLoadRequest l) s = .next (s.endLaunch l.grp true c.toNat)) ∧
      (∀ x, (s.group l.grp).lid ≠ some lid → s.launch lid = some x → x.st = .placed → gives (.imageLoadRequest l) s (fun t =>
        t.launch lid = some { x with fail := true, code := c.toNat } ∧ t.awaits s.now (.launchComplete lid)))) ∧
    (∀ lid l gn, s.launch lid = some l → l.lid = lid → l.st = .placed → l.grp = some gn → l.saved = false → (s.group gn).st ≠ .loading →
      s.inlineBad l = false → gives (.launchStart lid) s (fun t => t.launch lid = some { l with st := .running } ∧
        ((s.group gn).kern.st = .resident → (t.group gn).kern.st = .running) ∧
        (∀ k, k < pktInlen l.pkt → 0x40 + k < l.pkt.length →
          t.readByte (seAddr l.origin (pktInloff l.pkt) + k) = (l.pkt[0x40 + k]?).getD 0) ∧
        ∀ a, (a < seAddr l.origin (pktInloff l.pkt) ∨ seAddr l.origin (pktInloff l.pkt) + pktInlen l.pkt ≤ a) →
          t.readByte a = s.readByte a)) ∧
    (∀ lid l, s.launch lid = some l → l.lid = lid → l.live = true → l.kids = 0 → l.rec_ = 0 → l.parent = none → pktFlag l.pkt flagRecen = false →
      let next (c : Nat) : Nat := if pktFlag l.pkt flagSigen then (if c = 0xFE then 5 else 4) else 0
      gives (.launchComplete lid) s (fun t =>
        (l.kidFail = false ∨ l.st ≠ .waitingChildren →
          t.launch lid = some { l with st := if l.fail then .failed else .complete, rec_ := next l.code }) ∧
        (l.kidFail = true → l.st = .waitingChildren → l.fail = false →
          t.launch lid = some { l with st := .failed, fail := true, code := 0xFF, rec_ := next 0xFF }) ∧
        (pktFlag l.pkt flagSigen = true →
          t.awaits (s.now + (8 + 48 * dieDist (l.queue / 32) (pktSigout l.pkt / 512))) (.launchComplete lid)) ∧
        (pktFlag l.pkt flagSigen = true → t.awaits (s.now + (8 + 48 * dieDist (l.queue / 32) (pktSigout l.pkt / 512)))
          (.signalUpdate (pktSigout l.pkt) (pktSigadd l.pkt))) ∧ sameProgram s t)) ∧
    (∀ lid l, s.launch lid = some l → l.lid = lid → 4 ≤ l.rec_ → gives (.launchComplete lid) s (fun t =>
      t.launch lid = some { l with rec_ := 0 } ∧ sameProgram s t)) ∧
    (∀ n add, s.dieUp (n / 512) = true → gives (.signalUpdate n add) s (fun t => tget 0 n t.signals = tget 0 n s.signals + add ∧
      (∀ k, k ≠ n → tget 0 k t.signals = tget 0 k s.signals) ∧ t = { s with signals := t.signals })) ∧
    (∀ qn v, (s.queue qn).st = .disabled → gives (.queueEnable qn v) s (fun t => (t.queue qn).st = .opened ∧ (t.queue qn).ents = [] ∧
      (∀ k, k ≠ qn → t.queue k = s.queue k) ∧ t = { s with queues := t.queues })) ∧
    (∀ qn v, ((s.queue qn).st = .opened ∨ (s.queue qn).st = .blocked) → (s.queue qn).waiting = [] → gives (.queueDisable qn v) s (fun t =>
      (t.queue qn).st = (if (s.queue qn).ents = [] ∧ (s.queue qn).back = [] then .disabled else .draining) ∧
      (∀ k, k ≠ qn → t.queue k = s.queue k) ∧ t = { s with queues := t.queues }))

/-! ## Commands (chapters 11, 15, 18) -/

/-- R278, R279, R280, R281: a cfgw of an element item writes that item of its plane and nothing else of it, and its status is 0; one
that breaks R281 is ILLEGAL_CONFIG with the item, one to the active plane of a busy element CONFIG_BUSY; neither changes an element.
That a write which is both gets ILLEGAL_CONFIG is the model's reading (log 38). R284: a cfgw that changes RND and WW alone of a busy
active element waits, and is installed once nothing is in flight: the new fields are those written, slots fire again from the next
cycle, and the status of each such cfgw carries PART. -/
def Obligations.WritesToElementsAndPartialOnes : Prop :=
  (∀ (s : State) (c : Cmd), c.clean = true →
      let one := (s.elem c.ea).planeOf c.plane
      let p := (s.elem c.ea).plane one
      let v := c.value
      let i := c.index
      let active := one = (s.elem c.ea).act ∧ s.busyElem c.ea = true
      let writes (ins : Instr) (item : Nat) (q : Plane → Prop) : Prop :=
        (s.itemBad c item = false → ¬ active → gives ins s (fun t => q ((t.elem c.ea).plane one) ∧
          (t.elem c.ea).plane (!one) = (s.elem c.ea).plane (!one) ∧ (t.elem c.ea).ctxs = (s.elem c.ea).ctxs ∧
          (t.elem c.ea).chans = (s.elem c.ea).chans ∧ statusComes s t c 0 0 c.ea ∧ (∀ x, x ≠ c.ea → t.elem x = s.elem x) ∧
          t = { s with elems := t.elems, cports := t.cports })) ∧
        (s.itemBad c item = true → gives ins s (fun t => statusComes s t c 0x32 item c.ea ∧ t = { s with cports := t.cports })) ∧
        (s.itemBad c item = false → active → (item ≠ 0 ∨ rndWwOnly (s.elem c.ea).work.ecw v = false) → gives ins s (fun t =>
          statusComes s t c 0x31 0 c.ea ∧ t = { s with cports := t.cports }))
      let slot (q : Plane) (w : SlotW) : Prop := q.slot i = w ∧ (∀ k, k ≠ i → q.slot k = p.slot k) ∧ q = { p with slots := q.slots }
      let route (q : Plane) (r : Route) : Prop :=
        q.route i = r ∧ (∀ k, k ≠ i → q.route k = p.route k) ∧ q = { p with routes := q.routes }
      let half (r : Word × Word) : Word × Word := if c.sub = 0 then (v, r.2) else (r.1, v)
      writes (.cfgwEcw c) 0 (fun q => q = { p with ecw := v }) ∧
      writes (.cfgwGuard c) 1 (fun q => slot q { p.slot i with guard := v }) ∧
      writes (.cfgwAction c) 2 (fun q => slot q { p.slot i with action := v.setWidth 32 }) ∧
      writes (.cfgwLiteral c) 3 (fun q => slot q { p.slot i with lit := v }) ∧
      writes (.cfgwChannel c) 4 (fun q => q.chanWord i = v ∧ (∀ k, k ≠ i → q.chanWord k = p.chanWord k) ∧ q = { p with chans := q.chans }) ∧
      writes (.cfgwRouteHeader c) 5 (fun q => route q { p.route i with n := v.toNat }) ∧
      writes (.cfgwRouteTarget c) 6 (fun q => (q.route i).target c.sub = v ∧ (∀ k, k ≠ c.sub → (q.route i).target k = (p.route i).target k) ∧
        (q.route i).n = (p.route i).n ∧ (∀ k, k ≠ i → q.route k = p.route k) ∧ q = { p with routes := q.routes }) ∧
      writes (.cfgwMeBinding c) 7 (fun q => q = { p with meb := half p.meb }) ∧
      writes (.cfgwHandleRecord c) 8 (fun q => q.handle i = half (p.handle i) ∧ (∀ k, k ≠ i → q.handle k = p.handle k) ∧
        q = { p with handles := q.handles })) ∧
  (∀ (s : State) (c : Cmd),
      let e := s.elem c.ea
      (c.clean = true → e.planeOf c.plane = e.act → s.busyElem c.ea = true → s.itemBad c 0 = false → rndWwOnly e.work.ecw c.value = true →
        gives (.cfgwEcw c) s (fun t => (t.elem c.ea).partials = e.partials ++ [(c.value, c.die, c.port)] ∧
          t.awaits s.now (.partialReconfigInstall c.ea) ∧ (t.elem c.ea).work = e.work ∧ sameProgram s t)) ∧
      (∀ ea w die port, (s.elem ea).partials = [(w, die, port)] → s.resultsOut ea = false → (s.elem ea).marked = false →
        (s.elem ea).me.loading = false → gives (.partialReconfigInstall ea) s (fun t =>
          ecwRnd (t.elem ea).work.ecw = ecwRnd w ∧ ecwWw (t.elem ea).work.ecw = ecwWw w ∧
          (∀ k, (k < 6 ∨ 12 ≤ k) → (t.elem ea).work.ecw.getLsbD k = (s.elem ea).work.ecw.getLsbD k) ∧
          (t.elem ea).partials = [] ∧ (t.elem ea).holdUntil = s.now + 1 ∧ sameProgram s t ∧
          (t.cport die port).replies = (s.cport die port).replies ++
            [(s.now + 6 + 24 * dieDist die (eaDie ea), BitVec.ofNat 64 (ea % 2 ^ 14 * 2 ^ 16 + 2 ^ 30))])))

/-- R96, R97, R176, R177, R283, R329, R330: a cfgw of a hub item declares a partition, initialises a barrier, writes a waiter target
or declares a tag pool. -/
def Obligations.WritesToHubs : Prop :=
  ∀ (s : State) (c : Cmd), c.clean = true →
    let tile := c.ea
    let v := c.value.toNat
    let b := (s.hub tile).bar c.index
    let busy := s.barBusy tile c.index = true
    (hubAddrOk c 9 = true → partBad (s.hub tile) c.index c.value = false → s.partQueued tile ((s.hub tile).part c.index) = false →
      s.partQueued tile (partOf c.value) = false → gives (.cfgwPartition c) s (fun t => statusComes s t c 0 0 tile ∧
        (t.hub tile).part c.index = (if v / 2 ^ 9 % 512 = 0 then .zero else ⟨v % 512, v / 2 ^ 9 % 512, v / 2 ^ 18 % 4⟩) ∧
        (∀ k, k ≠ c.index → (t.hub tile).part k = (s.hub tile).part k) ∧ t = { s with hubs := t.hubs, cports := t.cports })) ∧
    (hubAddrOk c 10 = true → c.index ≤ 31 → v / 2 ^ 16 % 32 ≤ 16 → v < 2 ^ 21 → ¬ busy → gives (.cfgwBarrierInit c) s (fun t =>
      statusComes s t c 0 0 tile ∧ ((t.hub tile).bar c.index).expect = v % 2 ^ 16 ∧
      ((t.hub tile).bar c.index).st = (if v % 2 ^ 16 = 0 then .free else .armed) ∧ ((t.hub tile).bar c.index).count = 0 ∧
      ((t.hub tile).bar c.index).phase = 0 ∧ ((t.hub tile).bar c.index).drops = 0 ∧ ((t.hub tile).bar c.index).held = false ∧
      ((t.hub tile).bar c.index).waiters.length = v / 2 ^ 16 % 32 ∧
      (∀ k, k ≠ c.index → (t.hub tile).bar k = (s.hub tile).bar k) ∧ t = { s with hubs := t.hubs, cports := t.cports })) ∧
    (hubAddrOk c 10 = true → c.index ≤ 31 → v / 2 ^ 16 % 32 ≤ 16 → v < 2 ^ 21 → busy → gives (.cfgwBarrierInit c) s (fun t =>
      statusComes s t c 0x31 0 tile ∧ t = { s with cports := t.cports })) ∧
    (hubAddrOk c 11 = true → c.index ≤ 31 → c.wt < b.waiters.length → s.waiterBad tile c.index c.wt c.value = false → ¬ busy →
      gives (.cfgwWaiterTarget c) s (fun t => statusComes s t c 0 0 tile ∧
        ((t.hub tile).bar c.index).waiters[c.wt]? = some c.value ∧
        (∀ k, k ≠ c.wt → ((t.hub tile).bar c.index).waiters[k]? = b.waiters[k]?) ∧
        (∀ k, k ≠ c.index → (t.hub tile).bar k = (s.hub tile).bar k) ∧ t = { s with hubs := t.hubs, cports := t.cports })) ∧
    (∀ gn, hubAddrOk c 12 = true → s.groupAt tile = some gn → (s.group gn).origin = tile → v < 2 ^ 24 →
      poolBad (s.group gn) c.index (v % 256) (v / 256 % 256) (v / 65536 % 256) = false →
      ((s.group gn).st = .reserved ∨ (s.group gn).st = .loading ∨ (s.group gn).st = .fenced) → gives (.cfgwTagPool c) s (fun t =>
        let p := tget .zero c.index (t.group gn).pools
        statusComes s t c 0 0 tile ∧ p.declared = decide (v / 256 % 256 ≠ 0) ∧ p.reserve = v / 65536 % 256 ∧
        p.freeTags = (List.range (v / 256 % 256)).map (fun k => BitVec.ofNat 8 (v % 256 + k)) ∧
        p.waiting = (tget .zero c.index (s.group gn).pools).waiting ∧ sameMemory s t))

/-- R285 to R287, R289, R291, R293, R294: SWAP of an element that its checks pass activates its shadow plane; CLEAR empties the
shadow; SPLICE arms a LIVE group whose kernel runs, and is refused for planes that fail their checks, another spill map (detail 5)
or the same KID (detail 6), tests that the model makes in this order (log 69); a drained armed element swaps, unless its shadow was
written since, which is SPLICE_ILLEGAL; one that is settled with a word that is no CFG word is STRAY_WORD. -/
def Obligations.SwapsAndSplices : Prop :=
  ∀ (s : State) (c : Cmd) (gn ea : Nat),
    let a := c.addr.toNat
    let g := s.group gn
    let zeroFields := c.value.extractLsb' 3 13 = 0 ∧ c.value >>> 32 = 0
    let alone : Group := ((s.groupAt a).map s.group).getD { Group.zero with x := eaTx a, y := eaTy a }
    let spills (tile : Nat) : Prop :=
      spillKey (fun x => (s.elem x).active) tile = spillKey (fun x => (s.elem x).shadow) tile
    (c.clean = true → zeroFields → c.scope = false → a < 2 ^ 14 → (s.planeEnv alone [a]).check c.kid16 [a] = none → s.busyElem a = false →
      gives (.cfgswapSwap c) s (fun t => (t.elem a).active = (s.elem a).shadow ∧ (t.elem a).shadow = (s.elem a).active ∧
        (t.elem a).work = (s.elem a).shadow ∧ (t.elem a).epoch = (s.elem a).epoch + 1 ∧ statusComes s t c 0 0 a)) ∧
    (c.clean = true → zeroFields → c.scope = false → a < 2 ^ 14 → (s.planeEnv alone [a]).check c.kid16 [a] = none → s.busyElem a = true →
      gives (.cfgswapSwap c) s (fun t => statusComes s t c 0x31 0 a ∧ t = { s with cports := t.cports })) ∧
    (c.clean = true → zeroFields → c.scope = false → a < 2 ^ 14 → (s.elem a).armed = false → gives (.cfgswapClear c) s (fun t =>
      (t.elem a).shadow = .zero ∧ (t.elem a).active = (s.elem a).active ∧ (t.elem a).ctxs = (s.elem a).ctxs ∧
      statusComes s t c 0 0 a ∧ ∀ x, x ≠ a → t.elem x = s.elem x)) ∧
    (c.clean = true → zeroFields → c.scope = true → a = gn → gn < 65536 → g.st = .live → g.kern.st = .running → g.armed = false →
      (∀ tile ∈ g.tiles, spills tile) → c.kid16 ≠ g.kern.kid.setWidth 16 → (s.planeEnv g g.sites).check c.kid16 g.sites = none → (∃ x ∈ g.sites, (s.elem x).active.isEmpty = false) →
      gives (.cfgswapSplice c) s (fun t => (t.group gn).armed = true ∧ (t.group gn).kern.st = .draining ∧ (t.group gn).st = .live ∧
        statusComes s t c 0 0 0 ∧ ∀ x ∈ g.sites, (s.elem x).active.isEmpty = false → (t.elem x).armed = true)) ∧
    (c.clean = true → zeroFields → c.scope = true → a = gn → gn < 65536 → g.holdsTiles = true →
      (g.st ≠ .live ∨ g.kern.st ≠ .running ∨ g.armed = true) → gives (.cfgswapSplice c) s (fun t =>
        statusComes s t c 0x33 1 0 ∧ t = { s with cports := t.cports })) ∧
    (c.clean = true → zeroFields → c.scope = true → a = gn → gn < 65536 → g.st = .live → g.kern.st = .running → g.armed = false →
      (∀ k x, (s.planeEnv g g.sites).check c.kid16 g.sites = some (k, x) → gives (.cfgswapSplice c) s (fun t =>
        statusComes s t c 0x32 k x ∧ t = { s with cports := t.cports })) ∧
      ((s.planeEnv g g.sites).check c.kid16 g.sites = none → (∃ tile ∈ g.tiles, ¬ spills tile) → gives (.cfgswapSplice c) s (fun t =>
        statusComes s t c 0x33 5 0 ∧ t = { s with cports := t.cports })) ∧
      ((s.planeEnv g g.sites).check c.kid16 g.sites = none → (∀ tile ∈ g.tiles, spills tile) → c.kid16 = g.kern.kid.setWidth 16 → gives (.cfgswapSplice c) s (fun t =>
        statusComes s t c 0x33 6 0 ∧ t = { s with cports := t.cports }))) ∧
    (s.groupNo ea = gn → g.st = .live → (s.elem ea).armed = true → (s.elem ea).armedWrite = none → gives (.spliceSwap ea) s (fun t =>
      (t.elem ea).active = (s.elem ea).shadow ∧ (t.elem ea).work = (s.elem ea).shadow ∧ (t.elem ea).wave = (s.elem ea).wave + 1 ∧
      (t.elem ea).armed = false)) ∧
    (∀ w, s.groupNo ea = gn → g.st = .live → (s.elem ea).armed = true → (s.elem ea).armedWrite = some w →
      exec (.spliceSwap ea) s = .next (s.raiseGroup gn ea ea 0x33 1 w)) ∧
    (∀ ch q, s.groupNo ea = gn → g.st = .live → (s.elem ea).offending = some (ch, q) → exec (.spliceSettled ea) s =
      .next ((s.modChan ea ch (fun x => { x with st := .stray })).raiseGroup gn ea ea 0x30 ch q.word.data))

/-- R309, R340, R412, R417, Table 12-1: errinj arms an injection and disarms it, errlog removes entries, ptroot sets a domain's root
and removes its translations, pack saves a QUIESCENT group or makes it LIVE again. That the status of a ptroot comes with the
acknowledgements of the slices, and counts no crossing of its own, is the model's reading (log 38). -/
def Obligations.ServiceCommands : Prop :=
  ∀ (s : State) (c : Cmd), c.clean = true →
    let a := c.addr.toNat
    let v := c.value.toNat
    (∀ array target, injTarget c = some (array, target) → gives (.errinj c) s (fun t => statusComes s t c 0 0 (injEa c) ∧
        ⟨array, target, v / 16 % 4, v / 64 % 128⟩ ∈ t.injs ∧ t = { s with injs := t.injs, cports := t.cports }) ∧
      gives (.errinjDisarm c) s (fun t => statusComes s t c 0 0 (injEa c) ∧ (∀ j ∈ t.injs, ¬ (j.array = array ∧ j.target = target)) ∧
        (∀ j ∈ s.injs, j.array ≠ array → j ∈ t.injs) ∧ t = { s with injs := t.injs, cports := t.cports })) ∧
    (injTarget c = none → gives (.errinj c) s (fun t => statusComes s t c 0x32 0x50 (injEa c) ∧ t = { s with cports := t.cports })) ∧
    (c.addr.getLsbD 0 = false → a < 512 → v < 4 →
      gives (.errlogRemoveOldest c) s (fun t => statusComes s t c 0 0 0 ∧
        (t.hub (tileOfIndex (a / 2))).log.ents = (s.hub (tileOfIndex (a / 2))).log.ents.tail ∧
        (t.hub (tileOfIndex (a / 2))).log.lost = (s.hub (tileOfIndex (a / 2))).log.lost ∧
        t = { s with hubs := t.hubs, cports := t.cports }) ∧
      gives (.errlogClearAll c) s (fun t => statusComes s t c 0 0 0 ∧ (t.hub (tileOfIndex (a / 2))).log = .zero ∧
        t = { s with hubs := t.hubs, cports := t.cports })) ∧
    (c.addr.getLsbD 0 = true → a < 32 → v < 4 →
      gives (.errlogRemoveOldest c) s (fun t => (t.base (a / 2)).log.ents = (s.base (a / 2)).log.ents.tail) ∧
      gives (.errlogClearAll c) s (fun t => (t.base (a / 2)).log = .zero)) ∧
    (∀ k, s.domSlot (a % 65536) = some k → a < 65536 → v / 2 % 2 ^ 11 = 0 → v < 2 ^ 40 → gives (.ptroot c) s (fun t =>
      (t.dom k).root = (if v % 2 = 1 then some (v / 4096 * 4096) else none) ∧ (∀ j, j ≠ k → t.dom j = s.dom j) ∧
      (∀ tile, ∀ x ∈ (t.slice tile).ents, x.dom ≠ a % 65536) ∧ sameProgram s t ∧ (t.cport c.die c.port).replies =
        (s.cport c.die c.port).replies ++ [(s.now + 6 + 64 + 48 * maxCross c.die, 0)])) ∧
    (a < 65536 → v < 4 → (s.group a).st = .quiescent →
      gives (.packCommit c) s (fun t => (t.group a).st = .saved ∧ (t.group a).save.isSome = true ∧ sameMemory s t ∧
        (s.Inv → ∀ ea, (s.group a).covers ea = true → t.elem ea = (s.elem ea).cleared)) ∧
      gives (.packCancel c) s (fun t => (t.group a).st = .live ∧ (t.group a).preq = none ∧ sameMemory s t)) ∧
    (a < 65536 → v < 4 → (s.group a).st ≠ .quiescent → gives (.packCommit c) s (fun t => statusComes s t c 0x32 0x40 0 ∧
      t = { s with cports := t.cports }) ∧ gives (.packCancel c) s (fun t => statusComes s t c 0x32 0x40 0 ∧ t = { s with cports := t.cports }))

/-! ## Engines beneath the stacks, migrations, append ports (chapters 15, 16) -/

/-- R370 to R376, R378 to R380, R384, R386 to R388: a query or Scree request takes a place in the table of its SE, which reads its
packet row by row; a query goes to its home engine, is admitted when its checks pass and ends with STATUS 3 when its packet is
reserved, reads its first unexpanded candidate, in its own turn or in that of another stack's engine, measures the nodes of a batch
and places them, or is complete, writes its results in bursts and its record; an abort ends it with STATUS 4, and its own completion
word sets out when the answer is back at the SE. A Scree request is served by its unit, and its bytes and record are written at the
SE. The order of an engine's services, results and aborts (log 44), a Scree request's reading and writing at one instant (log 45),
and the ports by which rows are read (log 84) are the model's. -/
def Obligations.QueriesAndScree : Prop :=
  ∀ (s : State) (k : Nat), s.injs = [] →
    let e := s.engine k
    let enters (t : State) (a : Nat) (i : Instr) : Prop := ∃ p ∈ (t.bank (bankOf a)).q, p.instr = i
    let clean (a : Nat) : Prop := ∀ i < 8, s.poisoned (unitOf a + i) = false
    (∀ r : MReq, r.acc ≠ .qabort → r.stage = 0 → (s.elem r.dst).tabWait = [] → (s.elem r.dst).table.length < 16 →
      s.portHolds 5 (seBank r.dst) = false → (r.acc = .qry → ∀ x ∈ (s.elem r.dst).table, x.r.acc = .qry → x.off ≠ r.addr.toNat) →
      gives (.queryAccept r) s (fun t => (t.elem r.dst).table = (s.elem r.dst).table ++ [⟨r, r.addr.toNat, 16, [], false⟩] ∧
        (∀ i < tabRows r, enters t (seAddr r.dst (r.addr.toNat + 64 * i)) (.queryAccept { r with stage := 1, v1 := BitVec.ofNat 64 i })) ∧
        sameProgram s t)) ∧
    (∀ (r : MReq) (x : Tab), r.acc = .qry → r.stage = 1 → s.tabOf r = some x → x.rows.length = 2 → x.bad = false →
      let a := seAddr r.dst (r.addr.toNat + 64 * r.v1.toNat)
      let pkt := rowBytes 3 ((r.v1.toNat, s.readBytes a 64) :: x.rows)
      let home := pktHome pkt
      clean a → s.stackDown home = false → s.wayDown (eaDie r.dst) (home / 2) = false →
      gives (.queryAccept r) s (fun t => (∃ q ∈ (t.engine home).queries, q.r = { r with v1 := 0 } ∧ q.pkt = pkt ∧
        q.need = s.vectorRows r.dst (pktQvh pkt) ∧ q.active = false) ∧
        t.awaits (s.now + 4 + engineHop r.dst home + 228) (.queryAdmit home) ∧ sameProgram s t)) ∧
    (∀ q : Query, e.queries = [q] → q.active = false → q.fin = none → q.ready ≤ s.now → q.need ≤ q.rows.length → q.desc = [] →
      (q.pktReserved = true → gives (.queryAdmit k) s (fun t => (∃ x, (t.engine k).queries = [x] ∧
        x.fin = some (3, 0x02, BitVec.ofNat 64 q.off)) ∧ t.awaits (s.now + 1) (.queryComplete k q.r.id) ∧ sameProgram s t)) ∧
      (∀ er u, s.inService (fun s => s.queryCheck k q) = some (.inr er, u) → (u.engine k).queries = [q] → gives (.queryAdmit k) s (fun t =>
        ∃ x, (t.engine k).queries = [x] ∧ x.fin = some (3, er.1, er.2))) ∧
      (∀ d u, s.inService (fun s => s.queryCheck k q) = some (.inl d, u) → (u.engine k).queries = [q] → gives (.queryAdmit k) s (fun t =>
        ∃ x, (t.engine k).queries = [x] ∧ x.active = true ∧ x.desc = d ∧ x.fin = none ∧ x.r = q.r)) ∧
      (s.inService (fun s => s.queryCheck k q) = none → exec (.queryAdmit k) s = .next (s.after 1 (.queryAdmit k)))) ∧
    (∀ q : Query, s.engines = [(k, e)] → e.queries = [q] → e.cur = none → e.jobs = [] → q.canStep s.now = true →
      (∀ c, q.heap.find? (fun x => !x.done) = some c →
        let home : Bool := c.id / 2 ^ 28 == k
        let due : Nat := if home then s.now + 228 else s.now + halfTrip k (c.id / 2 ^ 28)
        gives (.queryStep k) s (fun t => ∃ x, (t.engine k).queries = [x] ∧ x.hops = q.hops + 1 ∧
          x.batches = [⟨c.id / 2 ^ 28, [c.id], true, if home then 2 else 0, due, [], none⟩] ∧
          x.heap = q.heap.map (fun y => if y.id == c.id then { y with done := true } else y) ∧
          t.awaits due (.queryStep (c.id / 2 ^ 28)) ∧ (t.engine k).cur = (if home then some (k, q.r.id) else none) ∧ sameProgram s t)) ∧
      (q.heap.find? (fun x => !x.done) = none → gives (.queryStep k) s (fun t => ∃ x, (t.engine k).queries = [x] ∧
        x.fin = some (0, 0, 0) ∧ t.awaits (s.now + 1) (.queryComplete k q.r.id) ∧ sameProgram s t))) ∧
    (∀ (q : Query) (b : Batch), e.queries = [q] → q.batches = [b] → b.st = 0 → gives (.remoteBatch k q.r.id b.stack) s (fun t =>
      (∃ x, (t.engine k).queries = [x] ∧ x.batches = [{ b with st := 1 }]) ∧
      (t.engine b.stack).jobs = (s.engine b.stack).jobs ++ [(k, q.r.id)] ∧ t.awaits s.now (.queryStep b.stack) ∧ sameProgram s t)) ∧
    (∀ (q : Query) (b : Batch), s.engines = [(k, e)] → e.queries = [q] → e.cur = some (k, q.r.id) → e.jobs = [] → q.batches = [b] →
      b.stack = k → b.st = 2 → b.due ≤ s.now → b.cand = false →
      (∀ n rest rc u, b.ids = n :: rest → s.inService (fun s => s.readNode q k n) = some (.inl rc, u) → u.engines = s.engines →
        u.now = s.now → gives (.queryStep k) s (fun t => ∃ x, (t.engine k).queries = [x] ∧
          x.batches = [{ b with ids := rest, due := s.now + q.distTime }] ∧ x.back = q.back ++ [⟨(q.distance rc).1, n, false⟩] ∧
          x.flags = q.flags ||| (q.distance rc).2 ∧ t.awaits (s.now + q.distTime) (.queryStep k))) ∧
      (∀ n rest, b.ids = n :: rest → s.inService (fun s => s.readNode q k n) = none →
        exec (.queryStep k) s = .next (s.after 1 (.queryStep k))) ∧
      (b.ids = [] → q.faults = [] → q.hops < q.hoplim → gives (.queryStep k) s (fun t => ∃ x, (t.engine k).queries = [x] ∧
        x.batches = [] ∧ (t.engine k).cur = none ∧ x.heap = placeHeap q.beam q.heap q.back ∧ sameProgram s t))) ∧
    (∀ (q : Query) st code fa, e.queries = [q] → q.fin = some (st, code, fa) →
      (2 < st → q.left = 0 → gives (.queryComplete k q.r.id) s (fun t => (t.engine k).queries = [{ q with left := 2 }] ∧
        t.awaits (s.now + engineHop q.r.dst k) (.queryComplete k q.r.id) ∧ sameProgram s t)) ∧
      (∀ u, st ≤ 2 → q.left = 0 → s.inService (fun s => s.chooseResults k q) = some (.inl [], u) → (u.engine k).queries = [q] →
        u.now = s.now → gives (.queryComplete k q.r.id) s (fun t => (t.engine k).queries = [{ q with left := 2 }] ∧
          t.awaits (s.now + engineHop q.r.dst k) (.queryComplete k q.r.id))) ∧
      (∀ n u, q.left = 1 → s.inService (fun s => s.writeResults k q q.count (q.sel.take 8)) = some ((n, none), u) →
        (u.engine k).queries = [q] → gives (.queryComplete k q.r.id) s (fun t => ∃ x, (t.engine k).queries = [x] ∧ x.count = n ∧
          x.sel = q.sel.drop 8 ∧ x.left = (if q.sel.drop 8 = [] then 2 else 1) ∧ x.fin = q.fin ∧ ∀ a, t.readByte a = u.readByte a)) ∧
      (q.left = 2 → gives (.queryComplete k q.r.id) s (fun t => (t.engine k).queries = [{ q with left := 3 }] ∧
        enters t (seAddr q.r.dst (q.off + 0xC0)) (.queryComplete k q.r.id) ∧ sameProgram s t)) ∧
      (q.left = 3 → gives (.queryComplete k q.r.id) s (fun t => (t.engine k).queries = [] ∧
        (∀ i < 64, t.readByte (seAddr q.r.dst (q.off + 0xC0) + i) = ((q.record st code fa)[i]?).getD 0) ∧
        (∀ a, (a < seAddr q.r.dst (q.off + 0xC0) ∨ seAddr q.r.dst (q.off + 0xC0) + 64 ≤ a) → t.readByte a = s.readByte a) ∧
        (q.record st code fa).length = 64))) ∧
    (∀ (q : Query) (r : MReq), e.queries = [q] → q.fin = none → gives (.qabortArrival k q.r.id r) s (fun t =>
      (∃ x, (t.engine k).queries = [x] ∧ x.fin = some (4, 0, 0)) ∧ t.awaits (s.now + 1) (.queryComplete k q.r.id) ∧
      t.awaits (s.now + engineHop r.dst k)
        (.queryAccept { r with stage := 3, v1 := completionWord 0 0 1 0 r.addr.toNat }) ∧ sameProgram s t)) ∧
    (∀ r : MReq, r.acc = .qabort → r.stage = 3 → r.who = .firing → r.out < localOut → r.endp = 0x80 → r.ren = true →
      gives (.queryAccept r) s (fun t => wordGoes s t (s.now + 4) r.dst r.ea 0 (.replyArrival r r.v1 false) ∧ sameMemory s t ∧
        ∀ ea c, t.ctx ea c = s.ctx ea c)) ∧
    (∀ (q : ScreeReq) (i : Instr), i = .screeGather k ∨ i = .screeScatter k → e.scree = [q] →
      (q.fin = none → q.busy = false → e.screeDue q ≤ s.now →
        let ends (u : State) (f : ScreeFin) (b : List Byte) : Prop := gives i s (fun t => (∃ x, (t.engine k).scree = [x] ∧ x.fin = some f ∧
          x.data = b ∧ x.ready = s.now + engineHop q.r.dst k) ∧ t.awaits (s.now + engineHop q.r.dst k) (screeEvent q.r k) ∧
          ∀ a, t.readByte a = u.readByte a)
        (∀ er, q.idx = none → s.screeCheck q = some er → ends s (3, er.1, er.2, 0, 0) []) ∧
        (∀ idx f b u, q.idx = some idx → q.r.acc = .gat → s.inService (fun s => s.gatherAll k q idx 0 q.n) = some ((f, b), u) →
          (u.engine k).scree = [q] → u.now = s.now → ends u f b) ∧
        (∀ idx f u, q.idx = some idx → q.r.acc = .sca → q.need ≤ q.rows.length →
          s.inService (fun s => s.scatterAll k q idx (rowBytes q.need q.rows)) = some (f, u) → (u.engine k).scree = [q] →
          u.now = s.now → ends u f []) ∧
        (∀ idx, q.idx = some idx → q.r.acc = .gat → s.inService (fun s => s.gatherAll k q idx 0 q.n) = none →
          exec i s = .next (s.after 1 (screeEvent q.r k)))) ∧
      (∀ f, q.fin = some f → q.busy = false → q.ready ≤ s.now →
        (q.data = [] → gives i s (fun t => (t.engine k).scree = [{ q with busy := true }] ∧
          enters t (seAddr q.r.dst (q.off + 0x20)) (.queryAccept { q.r with stage := 8 }) ∧ sameProgram s t)) ∧
        (∀ a, q.data ≠ [] → s.handleAddr q.r.dst q.handle 0 = some a → gives i s (fun t =>
          (t.engine k).scree = [{ q with busy := true }] ∧ enters t a (.queryAccept { q.r with stage := 7, v1 := 0 }) ∧ sameProgram s t)))) ∧
    (∀ (q : ScreeReq) (r : MReq), r.acc ≠ .qabort → s.screeOf r = some (k, q) →
      (∀ a, r.stage = 7 → s.handleAddr r.dst q.handle (64 * r.v1.toNat) = some a → 64 * r.v1.toNat + 64 ≤ q.data.length →
        gives (.queryAccept r) s (fun t => t.awaits (s.now + 1) (.queryAccept { r with stage := 6, v1 := BitVec.ofNat 64 (r.v1.toNat + 1) }) ∧
          ∀ y, t.readByte y = if a ≤ y ∧ y < a + 64 then (q.data[64 * r.v1.toNat + (y - a)]?).getD 0 else s.readByte y)) ∧
      (∀ f, r.stage = 8 → e.scree = [q] → q.fin = some f → gives (.queryAccept r) s (fun t => (t.engine k).scree = [] ∧
        ∀ i < 32, t.readByte (seAddr r.dst (q.off + 0x20) + i) = ((screeRecord f)[i]?).getD 0)))

/-- R357, R358, R359, R360: a migration that is refused stores no page and frees its context or stores its status; one that is
accepted takes a frame and marks the leaf as moving; its page is copied line by line, a line that holds an uncorrectable error ends
it with STATUS 7, lines written since are copied again, in four passes at most, and its commit makes the page's bytes and full bits
those of the old frame, and the leaf that of the new one. An append copies 4 KiB to the capacity tier when it commits, and is RANGE
where its registers are not those of Table 15-9. The 11,400 fc of an append (log 31), the times of a copy's lines and the leaf that
a commit rewrites as its start read it (log 34) are the model's. -/
def Obligations.MigrationsAndAppends : Prop :=
  ∀ (s : State), s.injs = [] →
    (∀ m status, s.migrCheck m = .inl status → m.record = 0 → gives (.migrationStart m) s (fun t =>
      (t.ctx m.ea m.ctx).wait.testBit waitMigr = false ∧ sameProgram s t)) ∧
    (∀ m status, s.migrCheck m = .inl status → m.record ≠ 0 → gives (.migrationStart m) s (fun t => sameProgram s t ∧
      ∃ r : MReq, r.acc = .record ∧ r.addr = m.record ∧ r.v1 = BitVec.ofNat 64 (status + 256 * 0) ∧ r.v2 = m.page ∧
        wordGoesOn s t (s.now + 1) m.ea (tileOf m.ea) ((s.group m.grp).owner m.record) [] (.tlbLookup r))) ∧
    (∀ m a e new u, s.migrCheck m = .inr (a, e) → s.takeFrame m.dom (if m.tgt then 1 else 0) = some (new, u) → u.mem = s.mem →
      u.now = s.now → u.serial = s.serial → u.migs = s.migs → gives (.migrationStart m) s (fun t => t.read64 a = pteSetTier e 2 ∧
        (∀ y, (y < a ∨ a + 8 ≤ y) → t.readByte y = s.readByte y) ∧
        let x : Mig := ⟨m, a, e, pteFrame e * 65536, new, 0, s.now, 0, List.range 1024⟩
        t.migs = s.migs ++ [(s.serial, x)] ∧ t.awaits (x.lineDue 0) (.migrationCommit s.serial))) ∧
    (∀ (id : Nat) (x : Mig) i is, s.Inv → s.migs = [(id, x)] → x.lines = i :: is → x.old % 64 = 0 → x.new % 64 = 0 →
      let o := x.old % 2 ^ 44 + 64 * i
      let n := x.new % 2 ^ 44 + 64 * i
      ((∀ u ∈ s.poison, u / 8 ≠ o / 64) → is ≠ [] → gives (.migrationCommit id) s (fun t =>
        (∀ y, t.readByte y = if n ≤ y ∧ y < n + 64 then s.readByte (o + (y - n)) else s.readByte y) ∧
        let x' : Mig := { x with count := x.count + 1, lines := is }
        t.migs = [(id, x')] ∧ t.awaits (x'.lineDue x'.count) (.migrationCommit id))) ∧
      ((∃ u ∈ s.poison, u / 8 = o / 64) → x.m.record = 0 → gives (.migrationCommit id) s (fun t => t.migs = [] ∧
        (s.domSlot x.m.dom = none → t.read64 x.entry = x.leaf) ∧ (t.ctx x.m.ea x.m.ctx).wait.testBit waitMigr = false))) ∧
    (∀ (id : Nat) (x : Mig), s.migs = [(id, x)] → x.lines = [] → x.pass < 4 → s.changedLines x.old x.new ≠ [] →
      gives (.migrationCommit id) s (fun t =>
        let x' : Mig := { x with pass := x.pass + 1, since := s.now, count := 0, lines := s.changedLines x.old x.new }
        t.migs = [(id, x')] ∧ t.awaits (x'.lineDue 0) (.migrationCommit id) ∧ t = { s with migs := t.migs, agenda := t.agenda })) ∧
    (∀ (id : Nat) (x : Mig), s.Inv → s.migs = [(id, x)] → s.poison = [] → x.m.record = 0 → x.lines = [] →
      (4 ≤ x.pass ∨ s.changedLines x.old x.new = []) →
      let o := x.old % 2 ^ 44
      let n := x.new % 2 ^ 44
      let d (k : Nat) := s.dom k
      let cell (k : Nat) : Nat := if pteTier x.leaf = 0 then (d k).fast.toNat + 8 * (d k).fastN.toNat else (d k).cap.toNat + 8 * (d k).capN.toNat
      let outside (a : Nat) : Prop := a + 8 ≤ n ∨ n + 65536 ≤ a
      o % 65536 = 0 → n % 65536 = 0 → outside x.entry →
      (∀ k, s.domSlot x.m.dom = some k → outside (cell k) ∧ (cell k + 8 ≤ x.entry ∨ x.entry + 8 ≤ cell k)) →
      gives (.migrationCommit id) s (fun t => t.migs = [] ∧ (∀ i < 65536, t.readByte (n + i) = s.readByte (o + i)) ∧
        t.read64 x.entry = pteSetTier (pteSetFrame x.leaf x.new) (if x.m.tgt then 1 else 0) ∧
        (∀ i < 8192, t.isFull (n / 8 + i) = s.isFull (o / 8 + i)) ∧
        (t.ctx x.m.ea x.m.ctx).wait.testBit waitMigr = false)) ∧
    (∀ n, (s.append n).stat ≠ 1 → appendBad n (s.append n) = false → gives (.appendGo n) s (fun t => (t.append n).stat = 1 ∧
      (t.append n).due = s.now + 11400 ∧ (t.append n).src = (s.append n).src ∧ (t.append n).dst = (s.append n).dst ∧
      t = { s with appends := t.appends })) ∧
    (∀ n, (s.append n).stat ≠ 1 → appendBad n (s.append n) = true → gives (.appendGo n) s (fun t => (t.append n).stat = 3 ∧
      t = { s with appends := t.appends })) ∧
    (∀ n, s.Inv → (s.append n).stat = 1 → s.poison = [] → (s.append n).src.toNat % 4096 = 0 → (s.append n).dst.toNat % 4096 = 0 →
      gives (.appendCommit n false) s (fun t => (t.append n).stat = 2 ∧
        (∀ i < 4096, t.readByte ((s.append n).dst.toNat + i) = s.readByte ((s.append n).src.toNat + i)) ∧
        (∀ a, a / 4096 ≠ (s.append n).dst.toNat / 4096 → t.readByte a = s.readByte a) ∧ ∀ ea c, t.ctx ea c = s.ctx ea c)) ∧
    (∀ n, (s.append n).stat = 1 → s.poison = [] → gives (.appendCommit n true) s (fun t => (t.append n).stat = 5 ∧ sameMemory s t))

/-! ## Links and other modules (chapter 17) -/

/-- R392, R393, R394, R398, Table 17-2: the states of a link. ENABLE makes a DOWN link train and its end empties and downs it;
training that finds lanes enough makes it UP or DEGRADED and sends again what is not acknowledged; FENCE, by software or from the
peer, makes it FENCED, until RESET; eight NAKs for one SEQ retrain it; a NAK makes the sender send again. Training lasts 1 ms at
most. Which link states end what waits in a link, and that SEQ starts again after RESET, is the model's choice where R392 and R393
say no more (log 20). -/
def Obligations.StatesOfALink : Prop :=
  ∀ (s : State) (l : Nat),
    let x := s.xlink l
    let again : List (TxFlit × List Byte) := x.replay.map (fun f => ({ f with ack := x.rxSeq }, { f with ack := x.rxSeq : TxFlit }.bytes))
    let only (t : State) : Prop := (∀ k, k ≠ l → t.xlink k = s.xlink k) ∧ sameProgram s t
    (x.st = .down → gives (.linkEnable l) s (fun t => (t.xlink l).enable = true ∧ (t.xlink l).st = .training ∧
      (t.xlink l).since = s.now ∧ t.awaits (s.now + 1900000) .linkDownRetry ∧ only t)) ∧
    gives (.linkDisable l) s (fun t => (t.xlink l).st = .down ∧ (t.xlink l).enable = false ∧ (t.xlink l).cause = 0 ∧
      (t.xlink l).replay = [] ∧ (t.xlink l).pending = [] ∧ (t.xlink l).lanes = 0 ∧
      (∀ q ∈ s.remotes, q.st = .atPort → q.link = some l → { q with st := .held, link := none } ∈ t.remotes) ∧ only t) ∧
    (x.st = .fenced → gives (.linkReset l) s (fun t => (t.xlink l).st = .down ∧ (t.xlink l).replay = [] ∧ (t.xlink l).txSeq = 0 ∧
      (x.enable = true → t.awaits (s.now + 1900000) .linkDownRetry) ∧ only t)) ∧
    (l < 33 → (∀ k, k ≠ l → (s.xlink k).st ≠ .training) → x.since + 1900000 ≤ s.now →
      (x.st = .down → x.enable = true → gives .linkDownRetry s (fun t => (t.xlink l).st = .training ∧ sameProgram s t)) ∧
      (x.st = .training → x.fromUp = false → gives .linkDownRetry s (fun t => (t.xlink l).st = .down ∧ (t.xlink l).lanes = 0 ∧
        sameProgram s t)) ∧
      (x.st = .training → x.fromUp = true → gives .linkDownRetry s (fun t => (t.xlink l).st = .fenced ∧ (t.xlink l).cause = 1))) ∧
    (x.active = true → gives (.linkFenceWrite l) s (fun t => (t.xlink l).st = .fenced ∧ (t.xlink l).cause = 3 ∧ (t.xlink l).lanes = 0 ∧
        (∃ f, (t.xlink l).wire.getLast? = some (f, f.bytes) ∧ f.type = 4) ∧ ∀ q ∈ t.remotes, q.link ≠ some l) ∧
      gives (.fenceFlitReceive l) s (fun t => (t.xlink l).st = .fenced ∧ (t.xlink l).cause = 2 ∧ (t.xlink l).lanes = 0 ∧
        ∀ q ∈ t.remotes, q.link ≠ some l)) ∧
    (x.st = .fenced → gives (.linkFenced l) s (fun t => ∀ q ∈ t.remotes, q.link ≠ some l)) ∧
    (x.carries = true → gives (.linkRetrain l) s (fun t => (t.xlink l).st = .training ∧ (t.xlink l).fromUp = true ∧
      (t.xlink l).retrains = min 65535 (x.retrains + 1) ∧ (t.xlink l).since = s.now ∧
      t.awaits (s.now + 1900000) .linkDownRetry ∧ only t)) ∧
    (∀ lanes, x.st = .training → linkLanes l / 2 ≤ lanes → gives (.trainingEnd l lanes) s (fun t =>
      (t.xlink l).st = (if linkLanes l ≤ lanes then .up else .degraded) ∧ (t.xlink l).lanes = min lanes (linkLanes l) ∧
      (x.pending = [] → (t.xlink l).replay = x.replay ∧
        (t.xlink l).wire = x.wire ++ again) ∧ only t)) ∧
    (∀ lanes, x.st = .training → lanes < linkLanes l / 2 → x.since + 1900000 ≤ s.now → x.fromUp = false →
      gives (.trainingEnd l lanes) s (fun t => (t.xlink l).st = .down ∧ only t)) ∧
    (∀ lanes, x.st = .training → lanes < linkLanes l / 2 → x.since + 1900000 ≤ s.now → x.fromUp = true →
      gives (.trainingEnd l lanes) s (fun t => (t.xlink l).st = .fenced ∧ (t.xlink l).cause = 1)) ∧
    (∀ ack : BitVec 12, x.carries = true → x.pending = [] → x.replay.any (fun f => f.seq == ack.toNat) = false →
      gives (.nakReceive l ack) s (fun t => (t.xlink l).wire = x.wire ++ again ∧
        (t.xlink l).replay = x.replay ∧ (x.nakSeq = ack.toNat → 7 ≤ x.naks → (t.xlink l).st = .training) ∧
        (x.nakSeq ≠ ack.toNat → (t.xlink l).naks = 1 ∧ (t.xlink l).st = x.st) ∧ only t))

/-- R390 to R392, R395 to R398, R410: a flit leaves as 68 bytes; a DATA flit in its turn is accepted and acknowledged, a damaged one
is answered by a NAK and discarded; a request to another module goes over the dies to the port that R397 picks, leaves by it, and
ends with REMOTE_TIMEOUT RTO after it left, or after it began to wait; a request of another module of the pod goes over the dies to
its home, once its order token is there (R232), a copy through an open window writes its 64 bytes with their poison, and any other
is refused with PERMISSION. The acknowledgement by an IDLE flit at once (log 20), what becomes of a request that waits (logs 41, 83)
and the times on the way (log 28) are the model's choices. -/
def Obligations.TrafficBetweenModules : Prop :=
  ∀ (s : State) (l : Nat) (b : List Byte) (src id : Nat) (load : FlitLoad) (q : Remote) (r : RemoteReq),
    let x := s.xlink l
    let calm : Prop := ∀ j ∈ s.injs, j.array ≠ 12
    let taken : Prop := x.carries = true ∧ calm ∧ flitOk b = true ∧ flitType b = 1 ∧ flitSeq b = (x.rxSeq + 1) % 4096 ∧ l ≠ 32 ∧
      (tget 0 (src % 1024) s.routeTab).getLsbD l = true ∧ x.pending = []
    let going (t : State) (y : MReq) : Prop :=
      t.awaits (s.now + 24 * dieDist (portDie r.link) (memDie r.addr)) (.requestPerform y) ∧ y.acc = r.acc ∧ y.pa % 2 ^ 44 = r.addr ∧
        y.pa / 2 ^ 44 = s.module ∧ (r.copy = false → y.sz = r.sz ∧ y.v2 = r.v2 ∧ y.fen = r.fen) ∧ y.v1 = r.v1 ∧ y.aop = r.aop ∧ y.sx = r.sx ∧
        y.stage = 0 ∧ y.who = .remote r.link r.srcModule r.id
    (∀ f : TxFlit, f.bytes.length = 68 ∧ f.bytes.take 4 = leBytes 4 f.header ∧ f.bytes.drop 64 = leBytes 4 (crc32 (f.bytes.take 64))) ∧
    (taken → gives (.flitReceive l b src .none) s (fun t =>
      (t.xlink l).rxSeq = flitSeq b ∧ (t.xlink l).discard = false ∧ (∃ f : TxFlit, (t.xlink l).wire = x.wire ++ [(f, f.bytes)] ∧
        f.type = 0 ∧ f.ack = flitSeq b) ∧ (∀ k, k ≠ l → t.xlink k = s.xlink k) ∧ sameProgram s t)) ∧
    (taken → s.remotes = [q] → q.r.id = id → q.st = .sent → q.r.fen = true → gives (.flitReceive l b src (.completed id)) s (fun t =>
      t.awaits s.now (.orderTokenArrival q.r.ea q.r.ofwd q.r.tag (homeCode s.module q.r)) ∧
        t.remotes = [{ q with r := { q.r with fen := false } }] ∧ sameProgram s t)) ∧
    (taken → s.farHeld = [r] → r.srcModule = src → r.id = id → gives (.flitReceive l b src (.token id)) s (fun t =>
      (∃ y : MReq, going t y) ∧ t.farHeld = [] ∧ sameProgram s t)) ∧
    (x.carries = true → calm → flitOk b = false → x.nakTx < 7 → gives (.flitReceive l b src load) s (fun t =>
      (t.xlink l).rxSeq = x.rxSeq ∧ (t.xlink l).discard = true ∧ (t.xlink l).nakTx = x.nakTx + 1 ∧
      (∃ f : TxFlit, (t.xlink l).wire = x.wire ++ [(f, f.bytes)] ∧ f.type = 2 ∧ f.ack = x.rxSeq) ∧ sameProgram s t)) ∧
    (∀ p, s.remotes = [q] → q.st = .held → q.link = none →
      pickPort (s.portSet (q.r.pa / 2 ^ 44)) (q.r.pa / 2 ^ 44) (s.portAddr q.r) = some p →
      let r' : MReq := { q.r with dst := portDie p * 2048 }
      let far : Nat := 24 * dieDist (eaDie q.r.ea) (portDie p)
      let set := s.portSet (q.r.pa / 2 ^ 44)
      (s.heldDie (eaDie q.r.ea) (portDie p) = none → 0 < far → (s.xlink p).rto ≠ 0 → gives .remoteTimeout s (fun t =>
        t.remotes = [⟨r', s.now, some p, set, .toPort (s.now + far), q.cred⟩] ∧ t.awaits (s.now + far) .remoteTimeout ∧
        sameProgram s t)) ∧
      (∀ d u, s.heldDie (eaDie q.r.ea) (portDie p) = some d → ({ s with remotes := [] }.endRemote q 0x03 (64 + d)) = u → u.remotes = [] →
        exec .remoteTimeout s = .next u) ∧
      (s.heldDie (eaDie q.r.ea) (portDie p) = none → far = 0 → (s.xlink p).rto ≠ 0 → q.r.ord = false →
        (s.xlink p).pending = [] → (s.xlink p).replay.length < 512 → gives .remoteTimeout s (fun t =>
          t.remotes = [⟨r', s.now, some p, set, .sent, false⟩] ∧ t.awaits (s.now + (s.xlink p).rto * 2 ^ 16) .remoteTimeout ∧
          sameProgram s t ∧ ∃ f : TxFlit, (t.xlink p).wire = (s.xlink p).wire ++ [(f, f.bytes)] ∧ f.type = 1 ∧
            f.seq = ((s.xlink p).txSeq + 1) % 4096 ∧ f.load = .request q.r.id))) ∧
    (∀ p u, s.remotes = [q] → q.link = some p → (q.st = .atPort ∨ q.st = .sent ∧ q.r.ord = false) →
      q.since + (s.xlink p).rto * 2 ^ 16 ≤ s.now → ({ s with remotes := [] }.endRemote q 0x61 p) = u → u.remotes = [] →
      exec .remoteTimeout s = .next u) ∧
    (∀ u, s.remotes = [q] → q.link = none → q.st = .held → s.portSet (q.r.pa / 2 ^ 44) = 0 → q.since + (s.rtoOf q).2 ≤ s.now →
      ({ s with remotes := [] }.endRemote q 0x61 (s.rtoOf q).1) = u → u.remotes = [] → exec .remoteTimeout s = .next u) ∧
    (∀ n, n = (if r.copy then 64 else 2 ^ r.sz) → (r.copy = false → r.srcModule / 1024 % 1024 = s.module / 1024 % 1024) →
      (r.copy = true → r.acc = .ld ∨ s.windowOpen r.srcModule r.addr 64 = true) → regionOf r.addr = .hbm → regionOf (r.addr + n - 1) = .hbm →
      (r.ord = false ∨ r.copy = true → gives (.remoteRequestArrival r) s (fun t =>
        (∃ y : MReq, going t y) ∧ t = { s with agenda := t.agenda, serial := t.serial })) ∧
      (r.ord = true → r.copy = false → (r.srcModule, r.id) ∉ s.farTokens → exec (.remoteRequestArrival r) s =
        .next { s with farHeld := s.farHeld ++ [r] })) ∧
    (r.copy = true → r.acc = .st → r.bytes.length = 64 → regionOf r.addr = .hbm → r.addr % 64 = 0 → s.defers = [] →
      s.homeFault (2048 * portDie r.link) r.addr = none →
      gives (.requestPerform { remoteMReq s.module r id with stage := 1 }) s (fun t =>
        (∀ i < 64, t.readByte (r.addr + i) = (r.bytes[i]?).getD 0) ∧ (∀ i < 8, t.poisoned (unitOf r.addr + i) = r.poison) ∧
        (∀ a, (a < r.addr ∨ r.addr + 64 ≤ a) → t.readByte a = s.readByte a) ∧
        ∃ n y, t.awaits n (.requestPerform y) ∧ s.now ≤ n ∧ y.stage = 2 ∧ y.who = .remote r.link r.srcModule r.id)) ∧
    ((r.copy = false ∧ r.srcModule / 1024 % 1024 ≠ s.module / 1024 % 1024 ∨
        r.copy = true ∧ r.acc = .st ∧ s.windowOpen r.srcModule r.addr 64 = false) →
      exec (.remoteRequestArrival r) s = .next (s.answerRemote r.link r.srcModule r.addr r.id 0x11 0x12 false))

/-! ## Crest cores and their messages (chapters 17, 18) -/

/-- R304, R318, R320, R321, R400, R401, R413, Tables 17-5, 17-6: what a crest core does with a message that it can serve: MEMREAD
and MEMWRITE reach their range in services of its homes, 8 bytes each, REGREAD and REGWRITE reach a register or reply PERMISSION,
PREEMPT is as the request, an image in the payload is loaded, ENQUEUE pushes its packet through the core's port, domains are created
and destroyed; each REPLY carries the STATUS. A message of the wrong shape is answered 0xFF; one that cannot be served yet waits its
turn. The model's choices: a MEMREAD of poisoned units returns their bytes (log 46), the addresses of registers and memory in a
message, and the codes of its refusals (logs 7, 48), and which banks of an SRAM window are busy (log 65). -/
def Obligations.MessagesOfTheControlNode : Prop :=
  ∀ (s : State) (m : Msg), s.injs = [] →
    let k := msgCore m
    let gn := m.grp.toNat
    let d := m.dom.toNat
    let ready := (s.core k).inq = [] ∧ s.canServe m = true ∧ m.wellShaped = true
    let one (n : Nat) (i : Instr) (l : BitVec 32) : Prop := m.type.toNat = n → (n = 8 → m.arg0 = l) →
      ((s.core k).inq = [] → s.canServe m = true → m.wellShaped = false → exec i s = .next (s.replyTo m 0xFF [])) ∧
      ((s.core k).serving.isSome = true → gives i s (fun t => (t.core k).inq = (s.core k).inq ++ [m] ∧
        (∀ x, x ≠ k → t.core x = s.core x) ∧ t = { s with cores := t.cores }))
    let range (a n : Nat) (p : Region → Bool) : Prop := m.arg0.toNat = n ∧ m.arg1.toNat = s.module * 2 ^ 44 + a ∧ a < 2 ^ 44 ∧
      a % 8 = 0 ∧ n % 8 = 0 ∧ 8 ≤ n ∧ n ≤ 4096 ∧ ∀ i, i < n / 8 → p (regionOf (a + 8 * i)) = true ∧ s.viewFault (k / 4) (a + 8 * i) = false
    (∀ l, one 1 (.imageLoad m) l ∧ one 2 (.enqueue m) l ∧ one 3 (.memread m) l ∧ one 4 (.memwrite m) l ∧ one 5 (.regread m) l ∧
      one 6 (.regwrite m) l ∧ one 7 (.preempt m) l) ∧
    one 8 (.domainCreate m) 0 ∧ one 8 (.domainDestroy m) 1 ∧
    (ready → ∀ a n,
      let queued (t : State) (acc : Acc) : Prop := (t.core k).serving = some m ∧ (t.core k).left = n / 8 ∧
        (∀ i < n / 8, ∃ q ∈ (t.bank (bankOf (a + 8 * i))).q, q.port = enginePort (a + 8 * i) ∧ ∃ r : MReq,
          q.instr = .requestPerform r ∧ r.acc = acc ∧ r.pa % 2 ^ 44 = a + 8 * i ∧ r.sz = 3 ∧ r.who = .core k ∧ r.slot = 1 ∧ r.ctx = i ∧
          r.v1 = wordOf m.payload i) ∧ sameProgram s t
      (m.type.toNat = 3 → range a n (fun r => r == .hbm || r == .capacity || r == .window) → gives (.memread m) s (fun t => queued t .ld)) ∧
      (m.type.toNat = 4 → range a n (fun r => r == .hbm || r == .window) →
        ((∀ i < n / 8, regionOf (a + 8 * i) = .window → s.windowBusy (a + 8 * i) = false) → gives (.memwrite m) s (fun t => queued t .st)) ∧
        ((∃ i < n / 8, regionOf (a + 8 * i) = .window ∧ s.windowBusy (a + 8 * i) = true) →
          exec (.memwrite m) s = .next (s.replyTo m 0x31 [])))) ∧
    (ready → m.type.toNat = 3 → m.arg1.toNat % 8 ≠ 0 → exec (.memread m) s = .next (s.replyTo m 0x12 [])) ∧
    (ready → m.type.toNat = 4 → m.arg1.toNat % 8 ≠ 0 → exec (.memwrite m) s = .next (s.replyTo m 0x12 [])) ∧
    (∀ o, ready → m.type.toNat = 5 → m.arg1.toNat = 0xF0000000000 + o → o < 2 ^ 40 → Agent.may .control o = true → s.regUp o = true →
      (∀ x y, regAt o ≠ .command x y 3) → exec (.regread m) s = .next (s.replyTo m 0 (leBytes 8 (s.regValue (regAt o)).toNat))) ∧
    (∀ o, ready → m.type.toNat = 6 → m.arg1.toNat = 0xF0000000000 + o → o < 2 ^ 40 → Agent.may .control o = true →
      ∃ u, exec (.registerWrite .control o (BitVec.ofNat 64 (leNat m.payload))) s = .next u ∧
        exec (.regwrite m) s = .next (u.replyTo m 0 [])) ∧
    (∀ o, ready → m.arg1.toNat = 0xF0000000000 + o → o < 2 ^ 40 → Agent.may .control o = false →
      (m.type.toNat = 5 → exec (.regread m) s = .next (s.replyTo m 0x12 [])) ∧
      (m.type.toNat = 6 → exec (.regwrite m) s = .next (s.replyTo m 0x12 []))) ∧
    (ready → m.type.toNat = 7 → ∃ u, exec (.preemptRequest gn (m.arg0 == 1)) s = .next u ∧ exec (.preempt m) s = .next
      (u.replyTo m (if (s.group gn).preq = none ∧ (s.group gn).st ≠ .live ∧ (s.group gn).st ≠ .loading then 1 else 0) [])) ∧
    (∀ u, ready → m.type.toNat = 1 → m.arg1 = 0 → s.loadImage ⟨gn, m.arg0 == 1, m.payload, none, none, some m⟩ none = ((0, 0, 0), u) →
      (m.arg0 = 1 ∨ (u.group gn).lid = none) → exec (.imageLoad m) s = .next (u.replyTo m 0 [])) ∧
    (ready → m.type.toNat = 2 → m.arg0.toNat < 256 → s.dieUp (m.arg0.toNat / 32) = true →
      let q := m.arg0.toNat
      gives (.enqueue m) s (fun t => (tget .zero (32 * (q / 32) + k) t.pushes).busy = true ∧ (t.core k).serving = some m ∧
        t.awaits (s.now + (8 + 48 * dieDist (k / 4) (q / 32))) (.enqueueEntry ⟨q, d, m.payload, none, none, some (q / 32, k)⟩) ∧
        sameProgram s t ∧ s.keepsAgenda t)) ∧
    (∀ n, ready → m.type.toNat = 8 → m.arg0 = 0 → d ≠ 0 → s.domSlot d = none → s.freeDom = some n →
      gives (.domainCreate m) s (fun t => t.dom n = { Dom.zero with dom := d, live := true } ∧ t.domSlot d = some n ∧
        (∀ x, x ≠ n → t.dom x = s.dom x) ∧ sameProgram s t)) ∧
    (∀ n, ready → m.type.toNat = 8 → m.arg0 = 1 → s.domSlot d = some n → s.domInUse d = false →
      gives (.domainDestroy m) s (fun t => t.dom n = .zero ∧ (∀ x, x ≠ n → t.dom x = s.dom x) ∧ sameProgram s t)) ∧
    (ready → m.type.toNat = 8 → m.arg0 = 0 → (d = 0 ∨ (s.domSlot d).isSome = true) → exec (.domainCreate m) s = .next (s.replyTo m 6 [])) ∧
    (ready → m.type.toNat = 8 → m.arg0 = 1 → s.domSlot d = none → exec (.domainDestroy m) s = .next (s.replyTo m 7 []))

/-- R320, R329, R351, R397, R410, R413, R416, Tables 18-4, 18-6: accesses of the privileged view. An access that R413 does not allow
performs nothing; a register keeps what is written to it; RESUME moves a HALTED context on; SVCREPLY answers an svc 6 + 24·c later;
a read of the status register pops one status; full bits are set and cleared; a crest core's access is performed in a service of its
home, and its store of 8 bytes clears the mark. The model's choices: what a crest core finds of a held die and SKIPBRK of a DISABLED
context (log 48), the one partner that a written full bit releases (log 61), which banks are busy (log 65). -/
def Obligations.AccessesOfTheCrestCores : Prop :=
  ∀ (s : State) (a : Agent) (o : Nat) (v : Word),
    let wr (p : State → Prop) : Prop := Agent.may a o = true → s.regUp o = true → gives (.registerWrite a o v) s p
    (Agent.may a o = false → exec (.registerWrite a o v) s = .next s) ∧
    (s.regUp o = false → exec (.registerWrite a o v) s = .next s) ∧
    (∀ n, regAt o = .signal n → wr (fun t => t.signal n = v.setWidth 32 ∧ (∀ x, x ≠ n → t.signal x = s.signal x) ∧
      t = { s with signals := t.signals })) ∧
    (∀ n, regAt o = .route n → wr (fun t => tget 0 n t.routeTab = v.setWidth 32 ∧
      (∀ x, x ≠ n → tget 0 x t.routeTab = tget 0 x s.routeTab) ∧ t = { s with routeTab := t.routeTab })) ∧
    (∀ d p, regAt o = .command d p 0 → wr (fun t => (t.cport d p).action = v ∧ (t.cport d p).addr = (s.cport d p).addr ∧
      t = { s with cports := t.cports })) ∧
    (∀ d p, regAt o = .command d p 1 → wr (fun t => (t.cport d p).addr = v ∧ (t.cport d p).action = (s.cport d p).action ∧
      t = { s with cports := t.cports })) ∧
    (∀ d p i, regAt o = .command d p 2 → wr (fun t => ∀ c : Cmd,
      c = ⟨d, p, (s.cport d p).action.setWidth 32, (s.cport d p).action.extractLsb' 32 32, (s.cport d p).addr, v⟩ → cmdInstr c = some i →
        t.awaits (max (s.now + (6 + 24 * s.cmdCross c)) (s.cport d p).last) i ∧ sameProgram s t ∧ s.keepsAgenda t)) ∧
    (∀ ea c, gives (.cctlResume ea c v) s (fun t =>
      (t.ctx ea c).st = (if v.getLsbD 3 = true ∧ (s.ctx ea c).st = .halted then .running else (s.ctx ea c).st) ∧
      (t.ctx ea c).skipbrk = v.getLsbD 4 ∧ (t.ctx ea c).regs = (s.ctx ea c).regs ∧
      (t.ctx ea c).pred = (s.ctx ea c).pred ∧ (∀ x, x ≠ c → t.ctx ea x = s.ctx ea x) ∧ onlyElem s t ea)) ∧
    (∀ ea c die, (s.ctx ea c).svc.isSome = true → s.svcAnswered ea c = false → gives (.svcReplyWrite ea c v die) s (fun t =>
      t.awaits (s.now + (6 + 24 * dieDist die (eaDie ea))) (.svcReplyDelivery ea c v) ∧ t = { s with agenda := t.agenda } ∧
      s.keepsAgenda t)) ∧
    (∀ ea c die, (s.ctx ea c).svc = none → exec (.svcReplyWrite ea c v die) s = .next s) ∧
    (∀ d p r rest, (s.cport d p).replies = r :: rest → r.1 ≤ s.now → (∀ x ∈ rest, r.1 ≤ x.1) →
      gives (.commandStatusPop d p) s (fun t => (t.cport d p).replies = rest ∧ (t.cport d p).action = (s.cport d p).action ∧
        s.regValue (.command d p 3) = r.2 ∧ t = { s with cports := t.cports })) ∧
    (∀ d p, (∀ x ∈ (s.cport d p).replies, s.now < x.1) → exec (.commandStatusPop d p) s = .next s) ∧
    (∀ k u, (∀ q ∈ s.defers, unitOf (q.pa % 2 ^ 44) ≠ k * 2 ^ 33 + u) →
      gives (.fullBitSet k u) s (fun t => t.isFull (k * 2 ^ 33 + u) = true ∧ (∀ x, x ≠ k * 2 ^ 33 + u → t.isFull x = s.isFull x) ∧
        t = { s with full := t.full }) ∧
      gives (.fullBitClear k u) s (fun t => t.isFull (k * 2 ^ 33 + u) = false ∧ (∀ x, x ≠ k * 2 ^ 33 + u → t.isFull x = s.isFull x) ∧
        t = { s with full := t.full })) ∧
    (∀ k u r, s.deferred (k * 2 ^ 33 + u) false = some r → r.endp = 0x82 → s.isFull (k * 2 ^ 33 + u) = false → unitOf (r.pa % 2 ^ 44) = k * 2 ^ 33 + u →
      r.who = .firing → r.out < localOut → gives (.fullBitSet k u) s (fun t => t.isFull (k * 2 ^ 33 + u) = false ∧
        (∀ y, t.readByte y = s.readByte y) ∧ (r.ren = true → t.awaits (s.now + replyDelay s.module r)
          (.replyArrival r (s.read64 (r.pa % 2 ^ 44)) (r.pzn || s.poisoned (k * 2 ^ 33 + u)))))) ∧
    (∀ k u r, s.deferred (k * 2 ^ 33 + u) true = some r → r.acc = .stf → r.endp = 0x82 → s.isFull (k * 2 ^ 33 + u) = true → unitOf (r.pa % 2 ^ 44) = k * 2 ^ 33 + u →
      r.who = .firing → r.out < localOut → gives (.fullBitClear k u) s (fun t => t.isFull (k * 2 ^ 33 + u) = true ∧
        t.poisoned (k * 2 ^ 33 + u) = false ∧
        (∀ y, t.readByte y = if r.pa % 2 ^ 44 ≤ y ∧ y < r.pa % 2 ^ 44 + 8 then BitVec.ofNat 8 (r.v1.toNat / 256 ^ (y - r.pa % 2 ^ 44))
          else s.readByte y) ∧ t.awaits (s.now + replyDelay s.module r) (.ackArrival r))) ∧
    (∀ die core addr (b : List Byte) (write : Bool), s.coreUp (coreId die core) = true → b.length = 8 → addr % 8 = 0 →
      (regionOf addr = .hbm ∨ regionOf addr = .capacity ∧ write = false ∨
        regionOf addr = .window ∧ (write = true → s.windowBusy addr = false)) → s.viewFault die addr = false →
      gives (.crestCoreAccess die core write addr b) s (fun t => (∃ q ∈ (t.bank (bankOf addr)).q, q.port = enginePort addr ∧ ∃ r : MReq,
        q.instr = .requestPerform r ∧ r.acc = (if write then .st else .ld) ∧ r.pa % 2 ^ 44 = addr ∧ r.sz = 3 ∧
        r.who = .core (coreId die core) ∧ r.slot = 0 ∧ r.v1 = BitVec.ofNat 64 (leNat b)) ∧
        (∀ x, x ≠ bankOf addr → t.bank x = s.bank x) ∧ t = { s with banks := t.banks, agenda := t.agenda })) ∧
    (∀ (r : MReq) k, r.who = .core k → r.stage = 1 → r.sz = 3 → r.endp = 0x82 → r.parity = false → r.pa % 8 = 0 →
      regionOf (r.pa % 2 ^ 44) = .hbm → s.injs = [] → s.defers = [] → s.offHome r = none →
      let addr := r.pa % 2 ^ 44
      let noted (t : State) (w : Word) : Prop := r.slot ≠ 0 → (t.core k).left = (s.core k).left - 1 ∧ tget 0 r.ctx (t.core k).got = w
      (r.acc = .st → gives (.requestPerform r) s (fun t => t.poisoned (unitOf addr) = false ∧
        (∀ u, u ≠ unitOf addr → t.poisoned u = s.poisoned u) ∧
        (∀ y, t.readByte y = if addr ≤ y ∧ y < addr + 8 then BitVec.ofNat 8 (r.v1.toNat / 256 ^ (y - addr)) else s.readByte y) ∧ noted t 0)) ∧
      (r.acc = .ld → r.sx = false → gives (.requestPerform r) s (fun t => noted t (s.read64 addr) ∧ sameProgram s t))) ∧
    (∀ die core addr b write, regionOf addr = .window → write = true → s.windowBusy addr = true →
      exec (.crestCoreAccess die core write addr b) s = .next s) ∧
    (∀ die core addr b, s.coreUp (coreId die core) = true → addr % 8 = 0 → regionOf addr = .regs → b.length = 8 →
      exec (.crestCoreAccess die core true addr b) s =
        exec (.registerWrite (.crest die core) (addr - 0xF0000000000) (BitVec.ofNat 64 (leNat b))) s) ∧
    (∀ die core write addr b, (s.coreUp (coreId die core) = false ∨ regionOf addr = .hole ∨ regionOf addr = .capacity ∧ write = true) →
      exec (.crestCoreAccess die core write addr b) s = .next s)

/-! ## Bring-up and management (chapter 19) -/

/-- R24, R418, R419, R420, R434, R435, Table 19-1: a reset begins stage 1; a stage that verifies firmware extends its measurement
register and begins the next, or stays in recovery; stacks that are not READY in two seconds are out of service; the dies whose
stacks are READY are released; crest cores clear every SRAM unit and enable Sniqua. The model's choices: what power-on and a reset
keep (log 51), the fields of the log entry of an offline port (log 52), recovery where a verification fails at stage 4 (log 55),
what becomes of requests deferred at an offline port (log 85). -/
def Obligations.BringUp : Prop :=
  ∀ (s : State) (image : List Byte),
    let m := s.summit
    let running := m.recovery = false ∧ m.hot = false
    let boots (n c : Nat) (mb : Summit → List Byte) (p : State → Prop) : Prop :=
      let b := m.image c image
      (running → m.stage = n → fwAccepted b c (tget 0 c m.rollback) = true → gives (.bringupStageEnd image) s (fun t =>
        t.summit.stage = n + 1 ∧ t.summit.recovery = false ∧ mb t.summit = sha512 (mb m ++ sha512 b) ∧
        tget 0 c t.summit.rollback = max (tget 0 c m.rollback) (fwVersion b) ∧ t.summit.since = s.now ∧ t.summit.keys = m.keys ∧ p t)) ∧
      (running → m.stage = n → fwAccepted b c (tget 0 c m.rollback) = false → gives (.bringupStageEnd image) s (fun t =>
        t = { s with summit := { m with recovery := true } }))
    gives .powerOn s (fun t => t.summit.stage = 1 ∧ t.summit.recovery = false ∧ t.summit.mb0 = List.replicate 64 0 ∧
      t.summit.mb1 = List.replicate 64 0 ∧ t.summit.mb2 = List.replicate 64 0 ∧ t.summit.capB = 4400 ∧ t.summit.capM = 4400 ∧
      t.summit.store = m.store ∧ t.summit.keys = m.keys ∧ t.summit.owner = m.owner ∧ t.summit.ownerCnt = m.ownerCnt ∧
      t.summit.keyCnt = m.keyCnt ∧ (∀ u, t.isFull u = false) ∧ (∀ d, (t.die d).released = none) ∧
      (∀ gn, (t.group gn).st = .free) ∧ (∀ ea, t.elem ea = .zero) ∧ t.agenda = []) ∧
    boots 1 0 (·.mb0) (fun t => t.summit.mb1 = m.mb1 ∧ t.summit.mb2 = m.mb2 ∧ t = { s with summit := t.summit }) ∧
    boots 2 1 (·.mb1) (fun t => t.summit.mb0 = m.mb0 ∧ t.summit.mb2 = m.mb2 ∧ t.awaits (s.now + 3800000000) .stackReadyTimeout ∧
      t = { s with summit := t.summit, agenda := t.agenda }) ∧
    (running → m.stage = 3 → (∀ k, k < 16 → (s.base k).tstat = 1) → gives (.bringupStageEnd image) s (fun t =>
      t = { s with summit := { m with stage := 4, since := s.now } })) ∧
    (∀ k, running → m.stage = 3 → k < 16 → (s.base k).tstat ≠ 1 → exec (.bringupStageEnd image) s = .next s) ∧
    boots 4 2 (·.mb2) (fun t => t.module = m.store ∧ (∀ d, d < 8 → (t.die d).released =
        if s.dieReady d = true then some s.now else (s.die d).released) ∧
      t = { s with summit := t.summit, module := t.module, dies := t.dies }) ∧
    (running → m.stage = 5 → gives (.bringupStageEnd image) s (fun t => t.summit.stage = 6 ∧ (t.xlink 32).enable = true ∧
      (∀ a, t.readByte a = if regionOf a = .window then 0 else s.readByte a) ∧
      (∀ u, t.poisoned u = (s.poisoned u && regionOf (8 * u) != .window)))) ∧
    (∀ k ok capok v, m.stage = 3 → k < 16 → gives (.torReady k ok capok v) s (fun t =>
      t.base k = { s.base k with tstat := if ok then 1 else 2, capok := capok, tver := (s.base k).tver.extractLsb' 32 32 ++ v } ∧
      (∀ x, x ≠ k → t.base x = s.base x) ∧ t = { s with bases := t.bases })) ∧
    (∀ k ok capok v, m.stage ≠ 3 → exec (.torReady k ok capok v) s = .next s) ∧
    (m.stage = 3 → m.since + 3800000000 ≤ s.now → gives .stackReadyTimeout s (fun t => t.summit = { m with stage := 4, since := s.now } ∧
      (∀ k, k < 16 → t.base k = if (s.base k).tstat = 1 then s.base k else { s.base k with dead := true, off := BitVec.allOnes 32 }) ∧
      t = { s with summit := t.summit, bases := t.bases })) ∧
    (∀ k p, k < 16 → p < 32 → (s.base k).off.getLsbD p = false → (∀ r ∈ s.defers, bankOf (r.pa % 2 ^ 44) ≠ 2 ^ 25 + k * 32 + p) →
      gives (.portOffline k p) s (fun t =>
      (∀ i, (t.base k).off.getLsbD i = ((s.base k).off.getLsbD i || i == p)) ∧
      ((s.base k).log.ents.length < 64 → ∃ x : LogEnt, (t.base k).log.ents = (s.base k).log.ents ++ [x] ∧ x.array = 8 ∧ x.loc = BitVec.ofNat 64 p) ∧
      (∀ x, x ≠ k → t.base x = s.base x) ∧ t = { s with bases := t.bases })) ∧
    (∀ k p r, k < 16 → p < 32 → (s.base k).off.getLsbD p = false → s.defers = [r] → bankOf (r.pa % 2 ^ 44) = 2 ^ 25 + k * 32 + p →
      ∃ u : State, u.defers = [] ∧ sameProgram s u ∧ exec (.portOffline k p) s = .next (u.failReq r r.ea 0x03 p))

/-- R421 to R426, R429 to R433, Tables 19-3, 19-6, 19-7: telemetry, the clock and the effect and STATUS of each management command,
from Borelle and from a mailbox. The model's choices: the layout of a firmware header (log 50), what a RESET keeps (log 51), how the
fabric is held above 115 degrees (log 53), 128 zeros before the first sample and SEQ from 1 (log 54), what recovery refuses (log
55), the bytes of a reply's vendor header (log 82). -/
def Obligations.ManagementCommands : Prop :=
  ∀ (s : State) (m : Mgmt),
    let x := s.summit
    let answers (t : State) (st : Nat) (data : List Byte) : Prop :=
      (m.mailbox = none → t.summit.borelle = x.borelle ++ [borelleReply m st data]) ∧
      (∀ k, m.mailbox = some k → (t.mbox k).stat = st ∧ (t.mbox k).busy = false ∧ (t.mbox k).len = data.length ∧ ∀ i, 8 * i < data.length →
        tget 0 i (t.mbox k).buf = BitVec.ofNat 64 (leNat ((data.drop (8 * i)).take 8)))
    let same (t : State) : Prop := t = { s with summit := { x with borelle := t.summit.borelle }, mboxes := t.mboxes }
    let ready := m.rsv = 0 ∧ (∀ k, m.mailbox = some k → (s.base k).tstat = 1 ∧ m.data.length ≤ 512)
    let ok := ready ∧ x.recovery = false
    let own := ok ∧ m.mailbox = none
    let priv (i : Instr) : Prop := (∀ k, m.mailbox = some k → (s.base k).tstat = 1 → gives i s (fun t => answers t 4 [] ∧ same t))
    let off := m.arg0.toNat
    let total := m.arg1.toNat
    let chunk := ready ∧ m.mailbox = none ∧ 1 ≤ m.data.length ∧ m.data.length ≤ 4096 ∧ off + m.data.length ≤ total
    let d := m.data
    (ready → m.arg0 = 0 → m.arg1 = 0 → d = [] → gives (.telem m) s (fun t => answers t 0
      (if x.frame = [] then List.replicate 128 0 else x.frame) ∧ same t)) ∧
    (ok → 1000 ≤ off → off ≤ 4400 → m.arg1 = 0 → d = [] → gives (.powerCap m) s (fun t => answers t 0 [] ∧
      (m.mailbox = none → t.summit.cap = min off x.capM) ∧ (m.mailbox ≠ none → t.summit.cap = min x.capB off) ∧ sameProgram s t)) ∧
    (ok → (off < 1000 ∨ 4400 < off) → gives (.powerCap m) s (fun t => answers t 2 [] ∧ same t)) ∧
    (chunk → x.fw = none → off = 0 → 16 ≤ d.length → total = 128 + fwLength d → d.length < total → gives (.fwUpdate m) s (fun t =>
      answers t 0 [] ∧ t.summit.fw = some ⟨d, total, s.now⟩ ∧ t.awaits (s.now + 19000000000) .fwTransferTimeout ∧ t.summit.banks = x.banks)) ∧
    (∀ w, chunk → x.fw = some w → off = 0 → gives (.fwUpdate m) s (fun t => answers t 1 [] ∧ same t)) ∧
    (∀ w, chunk → x.fw = some w → off ≠ 0 → total = w.total → off ≠ w.data.length → gives (.fwUpdate m) s (fun t => answers t 6 [] ∧
      t.summit.fw = none ∧ t.summit.banks = x.banks)) ∧
    (∀ w, chunk → x.fw = some w → off ≠ 0 → total = w.total → off = w.data.length → off + d.length = total →
      let b := w.data ++ d
      let c := fwComponent b
      (c ≤ 2 → fwAccepted b c (tget 0 c x.rollback) = true → gives (.fwUpdate m) s (fun t => answers t 0 [] ∧ t.summit.fw = none ∧
        (∃ a, a < 2 ∧ a ≠ tget 0 c x.active % 2 ∧ tget [] (2 * c + a) t.summit.banks = b ∧
          ∀ k, k ≠ 2 * c + a → tget [] k t.summit.banks = tget [] k x.banks) ∧
        tget 0 c t.summit.active % 2 = tget 0 c x.active % 2)) ∧
      (¬ (c ≤ 2 ∧ fwAccepted b c (tget 0 c x.rollback) = true) → gives (.fwUpdate m) s (fun t => answers t 3 [] ∧ t.summit.fw = none ∧
        t.summit.banks = x.banks ∧ t.summit.active = x.active))) ∧
    (∀ w, x.fw = some w → gives .fwTransferTimeout s (fun t =>
      t = { s with summit := { x with fw := if w.last + 19000000000 ≤ s.now then none else some w } })) ∧
    (∀ l, ready → d = [] → s.logOf off = some (some l) → gives (.logRead m) s (fun t => same t ∧
      (∀ e, l.ents[total]? = some e → answers t 0 (logBytes e)) ∧ (l.ents.length ≤ total → answers t 5 []))) ∧
    (ok → off < 65536 → m.arg1 = 0 → d.length = 32 → gives (.attest m) s (fun t => same t ∧
      answers t 0 (s.quote d off ++ edSign Config.identitySeed (s.quote d off)))) ∧
    (∀ o k, own → m.arg0 = 0 → m.arg1 = 0 → d.length = 120 → fld d 0 1 ≤ 15 → fld d 1 7 = 0 → keyEntry ((d.drop 8).take 40) = some k →
      x.owner = some o →
      (edVerify o (d.take 56) (d.drop 56) = true → x.keyCnt < fld d 48 8 → gives (.keyset m) s (fun t => answers t 0 [] ∧
        tget .zero (fld d 0 1) t.summit.keys = k ∧ (∀ j, j ≠ fld d 0 1 → tget .zero j t.summit.keys = tget .zero j x.keys) ∧
        t.summit.keyCnt = fld d 48 8 ∧ sameProgram s t)) ∧
      (¬ (edVerify o (d.take 56) (d.drop 56) = true ∧ x.keyCnt < fld d 48 8) → gives (.keyset m) s (fun t => answers t 3 [] ∧ same t))) ∧
    (own → off ≤ 786431 → m.arg1 = 0 → d = [] → gives (.setModule m) s (fun t => answers t 0 [] ∧ t.summit.store = off ∧
      t.module = s.module ∧ sameProgram s t)) ∧
    (own → m.arg0 = 0 → m.arg1 = 0 → d = [] → gives (.reset m) s (fun t => answers t 0 [] ∧ t.summit.stage = 1 ∧
      t.summit.mb0 = List.replicate 64 0 ∧ t.summit.capB = 4400 ∧ t.summit.capM = 4400 ∧ t.summit.keys = x.keys ∧
      t.summit.store = x.store ∧ (∀ gn, (t.group gn).st = .free) ∧ (∀ k, (t.die k).released = none) ∧ ∀ u, t.isFull u = false)) ∧
    (own → m.arg0 = 0 → m.arg1 = 0 → d.length = 136 → fld d 40 32 = 0 →
      let takes : Prop := gives (.ownerSet m) s (fun t => answers t 0 [] ∧ t.summit.owner = some (d.take 32) ∧
        t.summit.ownerCnt = fld d 32 8 ∧ t.summit.keys = x.keys ∧ sameProgram s t)
      let refuses : Prop := gives (.ownerSet m) s (fun t => answers t 3 [] ∧ same t)
      (x.owner = none → 1 ≤ fld d 32 8 → fld d 72 64 = 0 → takes) ∧
      (x.owner = none → (fld d 32 8 = 0 ∨ fld d 72 64 ≠ 0) → refuses) ∧
      ∀ o, x.owner = some o → (edVerify o (d.take 72) (d.drop 72) = true → x.ownerCnt < fld d 32 8 → takes) ∧
        ((edVerify o (d.take 72) (d.drop 72) = false ∨ fld d 32 8 ≤ x.ownerCnt) → refuses)) ∧
    priv (.fwUpdate m) ∧ priv (.keyset m) ∧ priv (.setModule m) ∧ priv (.reset m) ∧ priv (.ownerSet m) ∧
    (∀ y : Sensors,
      let w := (y.power.toNat :: x.window).take 10
      let told (z : Summit) : Prop := z.frame.take 4 = leBytes 4 (x.seq + 1) ∧ z.frame.length = 128 ∧
        z = { x with seq := x.seq + 1, frame := z.frame, sampled := s.now, window := w }
      (y.above 1150 = false ∨ x.hot = true → (x.seq + 1) % 10 ≠ 0 → gives (.telemetrySample y) s (fun t => told t.summit ∧
        t = { s with summit := t.summit })) ∧
      (y.above 1150 = false ∨ x.hot = true → (x.seq + 1) % 10 = 0 → ∃ u : State, told u.summit ∧ u = { s with summit := u.summit } ∧
        exec (.telemetrySample y) s = exec (.clockThrottle (BitVec.ofNat 16 (windowPower w)) (y.above 1050)) u) ∧
      (y.above 1150 = true → x.hot = false → gives (.telemetrySample y) s (fun t => t.summit.hot = true ∧
        (∀ k, (t.die k).released = none) ∧ t.chosen = [] ∧ t.mem = s.mem ∧ ∀ e ∈ t.agenda, outlivesHold e.instr = true))) ∧
    (∀ (p : BitVec 16) (hot : Bool), gives (.clockThrottle p hot) s (fun t => sameProgram s t ∧
      ((x.cap < p.toNat ∨ hot = true) → 1000 < x.fclk → t.summit.fclk = x.fclk - 100 ∧ t.summit.throt = x.throt + 1) ∧
      ((x.cap < p.toNat ∨ hot = true) → x.fclk ≤ 1000 → t = s) ∧
      (p.toNat ≤ x.cap → hot = false → t.summit.fclk = (if x.fclk < 1900 then x.fclk + 100 else x.fclk) ∧ t.summit.throt = x.throt)))

/-! ## Completion -/

/-- R126, R119, R123, R156, R173, R208: whatever the operands, divu and remu complete with quotient and remainder, and lea with its
address where both of its sums fit. A result delivery writes its register, a free router link passes one of its waiting words, a
free bank serves one of its requests, a running ME looks at its queues again in the next cycle. Every event, register access,
message and input completes in every state (with its effect, or with none where the spec gives it none there); and no form of the
table is without a next state: a fault of the program is an entry that the machine takes. -/
def Obligations.EveryFormCompletes : Prop :=
  (∀ (s : State) (cu : Cursor) (f : SlotF), s.goes cu f →
    let a := (readSource s cu f f.sa).val
    let b := (readSource s cu f f.sb).val
    let sum : Int := a.toInt + b.toInt * 2 ^ (f.lit.toNat % 64)
    let fits (v : Int) : Prop := -2 ^ 63 ≤ v ∧ v ≤ 2 ^ 63 - 1
    let bits := if a.toNat = 0 then 0 else a.toNat.log2 + 1
    let lat := 6 + (bits + 1) / 2
    (∃ t, exec (.divu f) s = .next t ∧ s.counts t cu f ∧
      s.delivers t cu f f.da lat (if b.toNat = 0 then BitVec.ofNat 64 (2 ^ 64 - 1) else BitVec.ofNat 64 (a.toNat / b.toNat)) .data 0) ∧
    (∃ t, exec (.remu f) s = .next t ∧ s.counts t cu f ∧
      s.delivers t cu f f.da lat (if b.toNat = 0 then a else BitVec.ofNat 64 (a.toNat % b.toNat)) .data 0) ∧
    (fits (b.toInt * 2 ^ (f.lit.toNat % 64)) → fits sum →
      ∃ t, exec (.lea f) s = .next t ∧ s.counts t cu f ∧ s.delivers t cu f f.da 1 (BitVec.ofInt 64 sum) .data 0)) ∧
  (∀ (s : State) (d : Delivery), ∃ t, exec (.resultDelivery d) s = .next t ∧
    ∀ r, (t.ctx d.ea d.ctx).reg r =
      if d.epoch = (s.elem d.ea).epoch ∧ d.reg = some r then d.value else (s.ctx d.ea d.ctx).reg r) ∧
  (∀ (s : State) (l : Nat), ∃ t, exec (.routerArbitration l) s = .next t ∧ t = { s with links := t.links, agenda := t.agenda } ∧
    s.keepsAgenda t ∧ ((s.rlink l).free ≤ s.now → (∃ x ∈ (s.rlink l).q, x.ready ≤ s.now ∧ x.port < 5 ∧ x.vc < 4) →
      (t.rlink l).free = s.now + 1)) ∧
  (∀ (s : State) (n : Nat), ∃ t, exec (.bankService n) s = .next t ∧ t = { s with banks := t.banks, agenda := t.agenda } ∧
    s.keepsAgenda t ∧ ((s.bank n).free ≤ s.now → (∃ r ∈ (s.bank n).q, r.port < bankPorts n) →
      (t.bank n).free = s.now + 1 ∧ ∃ r ∈ (s.bank n).q, t.awaits s.now r.instr)) ∧
  (∀ (s : State) (ea : Nat), ∃ t, exec (.meQueueFill ea) s = .next t ∧
    ((s.me ea).mode ≠ 0 → t.awaits (s.now + 1) (.meQueueFill ea)) ∧ ((s.me ea).mode = 0 → t = s.modMe ea (fun m => { m with poll := false }))) ∧
  (∀ s : State,
    let done (i : Instr) : Prop := ∃ t, exec i s = .next t
    (∀ a, done (.channelWordArrival a)) ∧ (∀ src, done (.creditReturn src)) ∧ (∀ ea pool, done (.tagRequest ea pool)) ∧ (∀ grp
      pool, done (.tagGrant grp pool)) ∧ (∀ ea pool tag spawn, done (.tagCreditArrival ea pool tag spawn)) ∧ (∀ grp pool tag ea ctx
      slot, done (.tagReleaseArrival grp pool tag ea ctx slot)) ∧ (∀ ea h, done (.handleFullAfterCommit ea h)) ∧ (∀ ea, done
      (.operatorInput ea)) ∧ (∀ ea, done (.operatorEnd ea)) ∧ (∀ ea isC id part addr, done (.meRowReadServed ea isC id part addr)) ∧
      (∀ ea served, done (.mePlaneRead ea served)) ∧ (∀ ea, done (.mePlaneReady ea)) ∧ (∀ l, done (.meRowLand l)) ∧ (∀
      ea id part, done (.meOutputRowWrite ea id part)) ∧ (∀ ea, done (.meNotice ea)) ∧ (∀ ea out epoch, done (.requestCreditReturn
      ea out epoch)) ∧ (∀ r, done (.tlbLookup r)) ∧ (∀ w, done (.tlbWalk w)) ∧ (∀ r, done (.requestPerform r)) ∧ (∀ r, done
      (.feService r)) ∧ (∀ r value poison, done (.replyArrival r value poison)) ∧ (∀ r, done (.ackArrival r)) ∧ (∀ ea out tag home,
      done (.orderTokenArrival ea out tag home)) ∧ (∀ ea ctx id, done (.joinWordEntry ea ctx id)) ∧ (∀ ea g, done (.genElementIssue
      ea g)) ∧ (∀ ea g, done (.genStreamEnd ea g)) ∧ (∀ c, done (.copyFlowTake c)) ∧ (∀ tile flow, done (.ringBindArrival tile
      flow)) ∧ (∀ tile flow, done (.permitArrival tile flow)) ∧ (∀ tile p, done (.copyGranule tile p)) ∧
      (∀ tile flow status code, done (.copyComplete tile flow status code)) ∧ (∀ tile ea ctx reg, done (.ccanAtHub tile ea ctx reg))
      ∧ (∀ m, done (.barrierMessageArrival m)) ∧ (∀ tile bar, done (.completePhase tile bar)) ∧ (∀ ea ctx, done (.tinvalAck ea ctx))
      ∧ (∀ r, done (.qpushEntry r)) ∧ (∀ e, done (.enqueueEntry e)) ∧ (∀ die, done (.schedulerDecision die)) ∧ (∀ lid, done
      (.launchStart lid)) ∧ (∀ lid, done (.launchComplete lid)) ∧ (∀ signal add, done (.signalUpdate signal add)) ∧ (∀ l, done
      (.imageLoadRequest l)) ∧ (∀ ea, done (.spliceSwap ea)) ∧ (∀ ea, done (.spliceSettled ea)) ∧ (∀ grp, done (.kernelComplete
      grp)) ∧ (∀ grp, done (.groupStall grp)) ∧ (∀ grp, done (.quiescence grp)) ∧ (∀ grp tile, done (.fenceArrival grp tile)) ∧ (∀
      r, done (.faultRecordArrival r)) ∧ (∀ ea ctx value, done (.svcReplyDelivery ea ctx value)) ∧ (∀ m, done (.migrationStart m)) ∧
      (∀ id, done (.migrationCommit id)) ∧ (∀ r, done (.queryAccept r)) ∧ (∀ stack, done (.queryAdmit stack)) ∧ (∀ stack, done
      (.queryStep stack)) ∧ (∀ stack id, done (.queryComplete stack id)) ∧ (∀ stack id r, done (.qabortArrival stack id r)) ∧ (∀
      stack, done (.screeGather stack)) ∧ (∀ stack, done (.screeScatter stack)) ∧ (∀ m, done (.imageLoad m)) ∧ (∀ m, done (.enqueue
      m)) ∧ (∀ m, done (.memread m)) ∧ (∀ m, done (.memwrite m)) ∧ (∀ m, done (.regread m)) ∧ (∀ m, done (.regwrite m)) ∧ (∀ m, done
      (.preempt m)) ∧ (∀ m, done (.domainCreate m)) ∧ (∀ m, done (.domainDestroy m)) ∧ (∀ m, done (.telem m)) ∧ (∀ m, done
      (.powerCap m)) ∧ (∀ m, done (.fwUpdate m)) ∧ (∀ m, done (.logRead m)) ∧ (∀ m, done (.attest m)) ∧ (∀ m, done (.keyset m)) ∧ (∀
      m, done (.setModule m)) ∧ (∀ m, done (.reset m)) ∧ (∀ m, done (.ownerSet m)) ∧ (∀ die port value, done (.pushWrite die port
      value)) ∧ (∀ queue value, done (.queueEnable queue value)) ∧ (∀ queue value, done (.queueDisable queue value)) ∧ (∀ grp value,
      done (.preqWrite grp value)) ∧ (∀ grp, done (.gcmdResume grp)) ∧ (∀ grp, done (.gcmdRetire grp)) ∧ (∀ ea ctx value, done
      (.cctlResume ea ctx value)) ∧ (∀ ea ctx value die, done (.svcReplyWrite ea ctx value die)) ∧ (∀ grp seq, done (.pageResume grp
      seq)) ∧ (∀ die core, done (.eventQueuePop die core)) ∧ (∀ die port, done (.commandStatusPop die port)) ∧ (∀ stack unit, done
      (.fullBitSet stack unit)) ∧ (∀ stack unit, done (.fullBitClear stack unit)) ∧ (∀ port, done (.appendGo port)) ∧ (∀ link, done
      (.linkEnable link)) ∧ (∀ link, done (.linkDisable link)) ∧ (∀ link, done (.linkFenceWrite link)) ∧ (∀ link, done (.linkReset
      link)) ∧ (∀ agent off value, done (.registerWrite agent off value)) ∧ done .fwTransferTimeout ∧ done .preemptTimeout ∧ done
      .linkDownRetry ∧ done .remoteTimeout ∧ done .stackReadyTimeout ∧ (∀ x, done (.telemetrySample x)) ∧ (∀ power hot, done
      (.clockThrottle power hot)) ∧ done .powerOn ∧ (∀ image, done (.bringupStageEnd image)) ∧ (∀ stack ok capok version, done
      (.torReady stack ok capok version)) ∧ (∀ die core write addr bytes, done (.crestCoreAccess die core write addr bytes)) ∧ (∀
      stack port, done (.portOffline stack port)) ∧ (∀ grp, done (.savedGroupDiscard grp)) ∧ (∀ grp, done (.groupRelease grp)) ∧ (∀
      die core available, done (.crestCoreAvailability die core available)) ∧ (∀ unit correctable uncorrectable, done (.scrub unit
      correctable uncorrectable)) ∧ (∀ array entry ea dieScope, done (.machineCheck array entry ea dieScope)) ∧ (∀ grp hard, done
      (.preemptRequest grp hard)) ∧ (∀ grp stack freeze discard, done (.deferFreeze grp stack freeze discard)) ∧ (∀ grp digestOk,
      done (.restore grp digestOk)) ∧ (∀ grp, done (.groupRetire grp)) ∧ (∀ stack id remote, done (.remoteBatch stack id remote)) ∧
      (∀ link ack, done (.nakReceive link ack)) ∧ (∀ link lanes, done (.trainingEnd link lanes)) ∧ (∀ link, done (.linkRetrain
      link)) ∧ (∀ link, done (.fenceFlitReceive link)) ∧ (∀ link, done (.linkFenced link)) ∧ (∀ r, done (.remoteRequestArrival r)) ∧
      (∀ link flit srcModule load, done (.flitReceive link flit srcModule load)) ∧ (∀ port mediaFails, done (.appendCommit port
      mediaFails))) ∧
  ∀ (i : Instr) (s : State), ∃ t, exec i s = .next t

/-! ## Encoding, steps, reset -/

/-- The slots and the command that the spec's chapters 04, 05, 09, 14, 15, 18 and 22 encode by hand decode to what they stand for.
-/
def Obligations.WordsOfTheSpecDecode : Prop :=
  let slot (g : Word) (a : BitVec 32) (l : Word) (mk : SlotF → Instr) (p : SlotF → Prop) : Prop :=
    ∃ f, decodeSlot g a l = .ok (mk f) ∧ f.lit = l ∧ p f
  slot 0x9000009000014518 0x700C3FF6 2 .spawn (fun f => f.cm = 2 ∧ f.ua = true ∧ f.ia = 4 ∧ f.ka = true ∧ f.xa = true ∧ f.oa = 2 ∧
    f.xb = true ∧ f.ob = 3 ∧ f.sa = 1 ∧ f.sb = 16 ∧ f.da = 31 ∧ f.db = 31 ∧ f.ta = 6 ∧ f.ub = false ∧ f.kb = false) ∧
  slot 0xF800008620018000 0x56844DF0 0 .fdotwH4 (fun f => f.cm = 15 ∧ f.ia = 1 ∧ f.ka = true ∧ f.ub = true ∧ f.ib = 2 ∧ f.kb = true ∧
    f.sa = 16 ∧ f.sb = 17 ∧ f.da = 6 ∧ f.db = 31 ∧ f.ta = 0) ∧
  slot 0x8801000000000000 0xABA83FF0 0x500200 .gen (fun f => f.cm = 1 ∧ f.pm = 1 ∧ f.pv = 0 ∧ f.sa = 21 ∧ f.da = 31 ∧ f.db = 31) ∧
  slot 0x8801000000000000 0x90003FF0 0x23 .barArv (fun f => f.cm = 1 ∧ f.pm = 1 ∧ f.da = 31 ∧ f.db = 31) ∧
  slot 0x8800008400014200 0x828561F0 0 .lde (fun f => f.ua = true ∧ f.ia = 1 ∧ f.ka = true ∧ f.xa = true ∧ f.oa = 1 ∧ f.sa = 16 ∧
    f.sb = 21 ∧ f.da = 16) ∧
  slot 0xA000008400010000 0x98003FF0 7 .trap (fun f => f.cm = 4 ∧ f.ia = 1 ∧ f.ka = true ∧ f.sa = 0 ∧ f.sb = 0) ∧
  slot 0x8800008400014000 0x020D6010 0 .mov2 (fun f => f.cm = 1 ∧ f.sa = 1 ∧ f.sb = 21 ∧ f.da = 16 ∧ f.db = 1 ∧ f.ta = 0) ∧
  (∀ v, decodeCmd ⟨0, 4, 0xF0000000, 0, 0x2D91, v⟩ = .ok (.cfgwEcw ⟨0, 4, 0xF0000000, 0, 0x2D91, v⟩)) ∧
  decodeSlot 0x0800008400014000 0x020D6010 0 = .error .invalidSlot ∧
  (∃ op, decodeSlot 0x8800008400014000 0x0F0D6010 0 = .error (.reservedOpcode op)) ∧
  ∃ op, decodeSlot 0x8800008400014000 0xF00D6010 0 = .error (.commandOnlyOpcode op)

/-- R27 to R32, R52: the bytes of a slot, of every instruction that stands in one, with every operand at every value, decode to that
instruction again; so do its bits as the opcode table would number them. -/
def Obligations.SlotsDecodeAsEncoded : Prop :=
  ∀ (i : Instr) (op : Nat) (f : SlotF), slotOf i = some (op, f) →
    decodeSlotBytes (encodeSlot op f) = .ok i ∧ decodeTableWord 192 (leNat (encodeSlot op f)) = some i ∧
    opcodeOf (actionWord op f) = op ∧ slotFields (guardWord f) (actionWord op f) f.lit = f

/-- R279, R400, R428: the bytes of a command, of a message and of a management command, with every field at every value that the
record admits, decode to it again. -/
def Obligations.CommandsAndMessagesDecodeAsEncoded : Prop :=
  (∀ (i : Instr) (c : Cmd), cmdOf i = some c → decodeCmd c = .ok i → decodeCommandBytes c.die c.port (encodeCmd c) = .ok i) ∧
  (∀ (i : Instr) (m : Msg), msgOf i = some m → decodeMsg m = .ok i → m.payload.length ≤ 65536 →
    decodeMessageBytes (encodeMsg m) = .ok i ∧ (encodeMsg m).length = 32 + (m.payload.length + 7) / 8 * 8) ∧
  (∀ (i : Instr) (m : Mgmt), mgmtOf i = some m → decodeMgmt m = .ok i → m.mailbox = none → m.data.length ≤ 4096 →
    decodeMgmtBytes (encodeMgmt m) = .ok i)

/-- R43, R85, log 3: a step runs the instruction that the chosen slot of the active plane decodes to, or the event that is due, or
goes on to the next part of the cycle, the events of an SE's engines after the firings of theirs; a slot that fails a check raises
PRIV, for a command-only opcode or a missing capability, or ILLEGAL_OP, with the number of the first failing check and its action
word. -/
def Obligations.StepRunsTheDecodedInstruction : Prop :=
  ∀ (s : State), s.injs = [] →
    (∀ cu rest i, s.chosen = cu :: rest →
      let u := { s with chosen := rest, cur := some cu }
      let w := ((s.elem cu.ea).planeNow s.now).slot cu.slot
      let uncapped := (opInfo w.op).any (fun o => !check16 (u.slotEnv cu.ea) o)
      (u.slotFails cu.ea w = none → decodeSlot w.guard w.action w.lit = .ok i → step s = exec i u) ∧
      ∀ k, u.slotFails cu.ea w = some k → step s = .next (u.raiseSync cu
        (if 0xF0 ≤ opcodeOf w.action ∧ opcodeOf w.action ≤ 0xF5 ∨ uncapped = true then 0x04 else 0x01) k (w.action.setWidth 64))) ∧
    (∀ x rest, s.chosen = [] → s.agenda = x :: rest → (x.due < s.now ∨ x.due = s.now ∧ (x.key < 0xB00000 ∨ s.phase = .fire)) →
      step s = exec x.instr { s with agenda := rest }) ∧
    (s.chosen = [] → (∀ x rest, s.agenda = x :: rest → s.now < x.due ∨ x.due = s.now ∧ 0xB00000 ≤ x.key ∧ s.phase ≠ .fire) →
      (s.phase = .fire → step s = .next { s with phase := .events, now := s.now + 1 }) ∧
      (s.phase = .triggered → step s = .next { s with phase := .fire, chosen := s.firings }) ∧
      (s.phase = .events → ∃ t, step s = .next t ∧ t.phase = .triggered))

/-- R33, R98, R163, R410: a poisoned source stops every firing that may not pass it on: the context takes POISON_CONSUMED for source
A, else for source B, and nothing else happens; a release of a tag of no pool stops a firing likewise. That poison of A comes before
poison of B, both before the release, and poison before the checks of operand values, is the model's choice (log 18). -/
def Obligations.PoisonStopsFirings : Prop :=
  ∀ (s : State) (cu : Cursor) (i : Instr) (op : Nat) (f : SlotF), slotOf i = some (op, f) → s.cur = some cu →
    let a := readSource s cu f f.sa
    let b := readSource s cu f f.sb
    (op ∉ [0x01, 0x02, 0x04, 0x78, 0x79, 0x90, 0x91, 0x93, 0x98, 0xA3, 0xC0, 0xC1, 0xC2, 0xC3] → a.poison = true → exec i s = .next (s.raisePoison cu a)) ∧
    (op ∉ [0x01, 0x02, 0x04, 0x78, 0x79, 0x90, 0x91, 0x92, 0x93, 0x98, 0xA3, 0xA4, 0xA6, 0xAD, 0xAE, 0xAF, 0xB0, 0xB1, 0xC0, 0xC1, 0xC2, 0xC3] →
      a.poison = false →
      (b.poison = true → exec i s = .next (s.raisePoison cu b)) ∧
      (b.poison = false → badRelease s cu f = true →
        exec i s = .next (s.raiseSync cu 0x05 0 ((headTag (s.elem cu.ea) f.ia.toNat).setWidth 64))))

/-- Memory and the table of elements keep their canonical form in every step. -/
def Obligations.EveryStepKeepsTheInvariant : Prop :=
  ∀ (s t : State), s.Inv → step s = .next t → t.Inv

/-- R298, R328, R351, R393, R419, R423, R432, Tables 12-1, 13-3, 17-2: what module reset leaves, as far as the spec gives it; the
invariant holds there, and the first step goes to the second part of the first cycle (the parts of a cycle are the model's, log 3).
-/
def Obligations.ResetState : Prop :=
  let s := State.reset
  s.Inv ∧ (∀ u, s.isFull u = false) ∧ (∀ gn, (s.group gn).st = .free) ∧ (∀ q, (s.queue q).st = .disabled) ∧
  (∀ l, (s.xlink l).st = .down ∧ (s.xlink l).enable = false) ∧ (∀ tile n, ((s.hub tile).bar n).st = .free) ∧
  (∀ d, (s.die d).released = none) ∧ (∀ n, s.signal n = 0) ∧ (∀ n, (s.dom n).live = false) ∧
  s.summit.stage = 1 ∧ s.summit.mb0 = List.replicate 64 0 ∧ s.summit.mb1 = List.replicate 64 0 ∧ s.summit.mb2 = List.replicate 64 0 ∧
  s.summit.capB = 4400 ∧ s.summit.capM = 4400 ∧ s.summit.owner = none ∧ s.summit.ownerCnt = 0 ∧ s.summit.keyCnt = 0 ∧
  (∀ k, (tget .zero k s.summit.keys).en = false) ∧ step s = .next { s with phase := .triggered }
end

