-- ==== Sys2Proof/Laws/Map.lean ====
section
/-! SUPPORT. The laws of the sparse tables: what a read sees after a write, and that every write keeps the canonical form. -/

namespace Sys2Proof.Machine

variable {α : Type} (d v : α) (k j : Nat) (m : Map α)

@[simp] theorem tget_tins_same : tget d k (tins k v m) = v := by
  induction m with
  | nil => simp [tins, tget]
  | cons p m ih =>
    obtain ⟨k', v'⟩ := p
    by_cases h : k = k'
    · simp [tins, tget, h]
    · by_cases h' : k < k' <;> simp [tins, tget, h, h', ih]

@[simp] theorem tget_tins_ne (h : j ≠ k) : tget d j (tins k v m) = tget d j m := by
  induction m with
  | nil => simp [tins, tget, h]
  | cons p m ih =>
    obtain ⟨k', v'⟩ := p
    by_cases h1 : k = k'
    · subst h1; simp [tins, tget, h]
    · by_cases h2 : k < k' <;> simp [tins, tget, h1, h2, h, ih]

@[simp] theorem tget_tdel_same : tget d k (tdel k m) = d := by
  induction m with
  | nil => simp [tdel, tget]
  | cons p m ih =>
    obtain ⟨k', v'⟩ := p
    by_cases h : k = k' <;> simp [tdel, tget, h, ih]
    subst h; exact ih

@[simp] theorem tget_tdel_ne (h : j ≠ k) : tget d j (tdel k m) = tget d j m := by
  induction m with
  | nil => simp [tdel, tget]
  | cons p m ih =>
    obtain ⟨k', v'⟩ := p
    by_cases h1 : k = k'
    · subst h1; simp [tdel, tget, h, ih]
    · simp [tdel, tget, h1, ih]

variable [DecidableEq α]

/-- A read of the key just written gives the value written. -/
@[simp] theorem tget_tput_same : tget d k (tput d k v m) = v := by
  by_cases h : v = d <;> simp [tput, h]

/-- A write leaves every other key alone. -/
@[simp] theorem tget_tput_ne (h : j ≠ k) : tget d j (tput d k v m) = tget d j m := by
  by_cases hv : v = d <;> simp [tput, hv, h]

theorem tget_tput : tget d j (tput d k v m) = if j = k then v else tget d j m := by
  by_cases h : j = k
  · subst h; simp
  · simp [h]

/-! ## The canonical form -/

omit [DecidableEq α] in
theorem tabove_trans {a b : Nat} {m : Map α} (h : a ≤ b) (hb : tabove b m = true) : tabove a m = true := by
  cases m with
  | nil => rfl
  | cons p m => simp only [tabove, decide_eq_true_eq] at *; omega

theorem twf_cons {d : α} {k : Nat} {v : α} {m : Map α} :
    twf d ((k, v) :: m) = true ↔ v ≠ d ∧ tabove k m = true ∧ twf d m = true := by
  simp [twf, and_assoc]

theorem tabove_tdel {b : Nat} {m : Map α} (h : tabove b m = true) (hw : twf d m = true) : tabove b (tdel k m) = true := by
  induction m generalizing b with
  | nil => rfl
  | cons p m ih =>
    obtain ⟨k', v'⟩ := p
    obtain ⟨_, h2, h3⟩ := twf_cons.mp hw
    simp only [tabove, decide_eq_true_eq] at h
    by_cases hk : k = k'
    · simp only [tdel, hk, beq_self_eq_true, if_true]
      rw [← hk]; exact ih (tabove_trans (by omega) h2) h3
    · simp [tdel, hk, tabove, h]

theorem twf_tdel {m : Map α} (h : twf d m = true) : twf d (tdel k m) = true := by
  induction m with
  | nil => rfl
  | cons p m ih =>
    obtain ⟨k', v'⟩ := p
    obtain ⟨h1, h2, h3⟩ := twf_cons.mp h
    by_cases hk : k = k'
    · simp only [tdel, hk, beq_self_eq_true, if_true]
      rw [← hk]; exact ih h3
    · simp only [tdel, beq_iff_eq, hk, if_false]
      exact twf_cons.mpr ⟨h1, tabove_tdel d k h2 h3, ih h3⟩

omit [DecidableEq α] in
theorem tabove_tins {b : Nat} {m : Map α} (h : tabove b m = true) (hk : b < k) : tabove b (tins k v m) = true := by
  cases m with
  | nil => simp [tins, tabove, hk]
  | cons p m =>
    obtain ⟨k', v'⟩ := p
    simp only [tabove, decide_eq_true_eq] at h
    by_cases h1 : k = k'
    · simp [tins, h1, tabove, h]
    · by_cases h2 : k < k' <;> simp [tins, h1, h2, tabove, h, hk]

theorem twf_tins {m : Map α} (hv : v ≠ d) (h : twf d m = true) : twf d (tins k v m) = true := by
  induction m with
  | nil => simp [tins, twf, tabove, hv]
  | cons p m ih =>
    obtain ⟨k', v'⟩ := p
    obtain ⟨h1, h2, h3⟩ := twf_cons.mp h
    by_cases hk : k = k'
    · subst hk
      simp only [tins, beq_self_eq_true, if_true]
      exact twf_cons.mpr ⟨hv, h2, h3⟩
    · by_cases hlt : k < k'
      · simp only [tins, beq_iff_eq, hk, if_false, hlt, if_true]
        exact twf_cons.mpr ⟨hv, by simp [tabove, hlt], h⟩
      · simp only [tins, beq_iff_eq, hk, if_false, hlt]
        exact twf_cons.mpr ⟨h1, tabove_tins v k h2 (by omega), ih h3⟩

/-- A write keeps the canonical form. -/
theorem twf_tput {m : Map α} (h : twf d m = true) : twf d (tput d k v m) = true := by
  unfold tput
  split
  · exact twf_tdel d k h
  · exact twf_tins d v k ‹_› h

/-! ## Rising lists of numbers -/

theorem nmem_nadd (l : List Nat) : nmem j (nadd k l) = (decide (j = k) || nmem j l) := by
  induction l with
  | nil => simp [nmem, nadd]
  | cons x l ih =>
    simp only [nmem] at ih ⊢
    by_cases h1 : k = x
    · subst h1; by_cases hj : j = k <;> simp [nadd, hj]
    · by_cases h2 : k < x
      · simp [nadd, h1, h2]
      · simp only [nadd, beq_iff_eq, h1, if_false, h2, List.contains_cons, ih]
        cases decide (j = k) <;> simp

theorem nmem_ndel (l : List Nat) : nmem j (ndel k l) = (decide (j ≠ k) && nmem j l) := by
  unfold nmem ndel
  rw [Bool.eq_iff_iff]
  simp only [List.contains_iff_mem, List.mem_filter, bne_iff_ne, ne_eq, Bool.and_eq_true, decide_eq_true_eq]
  exact and_comm

end Sys2Proof.Machine
end

