-- ==== Sys2Proof/Laws/Fire.lean ====
section
/-! SUPPORT. What the operations of a firing do, said once for each: the frame that they keep, what they count and pop, and the
result that they put on its way. -/

namespace Sys2Proof.Machine

/-! ## Reads after writes -/

@[simp] theorem State.elem_setElem_same (s : State) (ea : Nat) (e : Elem) : (s.setElem ea e).elem ea = e := by
  simp [State.elem, State.setElem]

@[simp] theorem State.elem_setElem_ne (s : State) (ea x : Nat) (e : Elem) (h : x ≠ ea) : (s.setElem ea e).elem x = s.elem x := by
  simp [State.elem, State.setElem, h]

@[simp] theorem State.elem_modElem_same (s : State) (ea : Nat) (g : Elem → Elem) : (s.modElem ea g).elem ea = g (s.elem ea) := by
  simp [State.modElem]

@[simp] theorem State.elem_modElem_ne (s : State) (ea x : Nat) (g : Elem → Elem) (h : x ≠ ea) :
    (s.modElem ea g).elem x = s.elem x := by
  simp [State.modElem, h]

@[simp] theorem State.group_setGroup_same (s : State) (n : Nat) (g : Group) : (s.setGroup n g).group n = g := by
  simp [State.group, State.setGroup]

@[simp] theorem State.group_setGroup_ne (s : State) (n x : Nat) (g : Group) (h : x ≠ n) :
    (s.setGroup n g).group x = s.group x := by
  simp [State.group, State.setGroup, h]

@[simp] theorem Elem.ctx_setCtx_same (e : Elem) (c : Nat) (x : Ctx) : (e.setCtx c x).ctx c = x := by
  simp [Elem.ctx, Elem.setCtx]

@[simp] theorem Elem.ctx_setCtx_ne (e : Elem) (c d : Nat) (x : Ctx) (h : d ≠ c) : (e.setCtx c x).ctx d = e.ctx d := by
  simp [Elem.ctx, Elem.setCtx, h]

@[simp] theorem Elem.chan_setChan_same (e : Elem) (c : Nat) (x : Chan) : (e.setChan c x).chan c = x := by
  simp [Elem.chan, Elem.setChan]

@[simp] theorem Elem.chan_setChan_ne (e : Elem) (c d : Nat) (x : Chan) (h : d ≠ c) : (e.setChan c x).chan d = e.chan d := by
  simp [Elem.chan, Elem.setChan, h]

@[simp] theorem State.ctx_modCtx_same (s : State) (ea c : Nat) (g : Ctx → Ctx) : (s.modCtx ea c g).ctx ea c = g (s.ctx ea c) := by
  simp [State.ctx, State.modCtx]

/-! ## The agenda -/

theorem mem_insEntry (x y : Entry) (l : List Entry) : y ∈ insEntry x l ↔ y = x ∨ y ∈ l := by
  induction l with
  | nil => simp [insEntry]
  | cons z l ih =>
    simp only [insEntry]
    split
    · simp
    · simp only [List.mem_cons, ih]
      exact ⟨fun h => h.elim (fun h => .inr (.inl h)) (fun h => h.elim .inl (fun h => .inr (.inr h))),
        fun h => h.elim (fun h => .inr (.inl h)) (fun h => h.elim .inl (fun h => .inr (.inr h)))⟩

/-- An event put on the agenda awaits its cycle. -/
theorem State.awaits_at (s : State) (n : Nat) (i : Instr) : (s.at_ n i).awaits n i :=
  ⟨⟨n, eventKey i, i⟩, (mem_insEntry ..).mpr (.inl rfl), rfl, rfl⟩

theorem State.keepsAgenda_at (s : State) (n : Nat) (i : Instr) : s.keepsAgenda (s.at_ n i) :=
  fun _ hx => (mem_insEntry ..).mpr (.inr hx)

/-! ## Frames -/

theorem sameMemory_of {s t : State} (hm : t.mem = s.mem) (hp : t.poison = s.poison) (hf : t.full = s.full) : sameMemory s t := by
  refine ⟨fun a => ?_, fun u => ?_, fun u => ?_⟩ <;> simp only [State.readByte, State.poisoned, State.isFull, hm, hp, hf]

theorem sameMemory.trans {s t u : State} (h : sameMemory s t) (k : sameMemory t u) : sameMemory s u :=
  ⟨fun a => (k.1 a).trans (h.1 a), fun a => (k.2.1 a).trans (h.2.1 a), fun a => (k.2.2 a).trans (h.2.2 a)⟩

theorem sameModule.trans {s t u : State} (h : sameModule s t) (k : sameModule t u) : sameModule s u := by
  unfold sameModule at *
  rw [k, h]

theorem sameGroup.trans {g h k : Group} (a : sameGroup g h) (b : sameGroup h k) : sameGroup g k := by
  unfold sameGroup at *
  rw [b, a]

theorem sameElem.trans {d e g : Elem} (a : sameElem d e) (b : sameElem e g) : sameElem d g := by
  unfold sameElem at *
  rw [b, a]

theorem sameCtx.refl (c : Ctx) : sameCtx c c := ⟨rfl, rfl, rfl, rfl, rfl, rfl, rfl⟩

theorem sameCtx.trans {c d e : Ctx} (h : sameCtx c d) (k : sameCtx d e) : sameCtx c e :=
  ⟨k.1.trans h.1, k.2.1.trans h.2.1, k.2.2.1.trans h.2.2.1, k.2.2.2.1.trans h.2.2.2.1, k.2.2.2.2.1.trans h.2.2.2.2.1,
    k.2.2.2.2.2.1.trans h.2.2.2.2.2.1, k.2.2.2.2.2.2.trans h.2.2.2.2.2.2⟩

theorem elemFrame.refl (s : State) (ea : Nat) : elemFrame s s ea :=
  ⟨sameMemory_of rfl rfl rfl, fun _ _ => rfl, fun _ => rfl, rfl, fun _ h => h⟩

theorem elemFrame.trans {s t u : State} {ea : Nat} (h : elemFrame s t ea) (k : elemFrame t u ea) : elemFrame s u ea :=
  ⟨h.1.trans k.1, fun x hx => (k.2.1 x hx).trans (h.2.1 x hx), fun n => (h.2.2.1 n).trans (k.2.2.1 n),
    h.2.2.2.1.trans k.2.2.2.1, fun x hx => k.2.2.2.2 x (h.2.2.2.2 x hx)⟩

theorem fireFrame.refl (s : State) (cu : Cursor) : fireFrame s s cu :=
  ⟨.refl s cu.ea, rfl, fun _ => .refl _⟩

theorem fireFrame.trans {s t u : State} {cu : Cursor} (h : fireFrame s t cu) (k : fireFrame t u cu) : fireFrame s u cu :=
  ⟨h.1.trans k.1, h.2.1.trans k.2.1, fun c => (h.2.2 c).trans (k.2.2 c)⟩

theorem elemFrame_at (s : State) (ea n : Nat) (i : Instr) : elemFrame s (s.at_ n i) ea :=
  ⟨sameMemory_of rfl rfl rfl, fun _ _ => rfl, fun _ => rfl, rfl, s.keepsAgenda_at n i⟩

theorem fireFrame_at (s : State) (cu : Cursor) (n : Nat) (i : Instr) : fireFrame s (s.at_ n i) cu :=
  ⟨elemFrame_at s cu.ea n i, rfl, fun _ => .refl _⟩

theorem fireFrame_after (s : State) (cu : Cursor) (n : Nat) (i : Instr) : fireFrame s (s.after n i) cu := fireFrame_at ..

theorem elemFrame_modElem (s : State) (ea : Nat) (g : Elem → Elem) : elemFrame s (s.modElem ea g) ea :=
  ⟨sameMemory_of rfl rfl rfl, fun x hx => by simp [hx], fun _ => rfl, rfl, fun _ h => h⟩

theorem fireFrame_modElem (s : State) (cu : Cursor) (g : Elem → Elem) (h : sameElem (s.elem cu.ea) (g (s.elem cu.ea)))
    (k : ∀ c, sameCtx ((s.elem cu.ea).ctx c) ((g (s.elem cu.ea)).ctx c)) : fireFrame s (s.modElem cu.ea g) cu :=
  ⟨elemFrame_modElem s cu.ea g, by simpa using h, fun c => by simpa [State.ctx] using k c⟩

theorem fireFrame_modCtx (s : State) (cu : Cursor) (g : Ctx → Ctx) (h : sameCtx (s.ctx cu.ea cu.ctx) (g (s.ctx cu.ea cu.ctx))) :
    fireFrame s (s.modCtx cu.ea cu.ctx g) cu := by
  refine fireFrame_modElem s cu _ rfl fun c => ?_
  by_cases hc : c = cu.ctx
  · subst hc; simpa [State.ctx] using h
  · simp [hc, sameCtx.refl]

/-- A group changed in its progress alone. -/
theorem fireFrame_progressGroup (s : State) (cu : Cursor) (n : Nat) (g : Group → Group) (h : sameGroup (s.group n) (g (s.group n))) :
    fireFrame s (s.modGroup n g) cu := by
  refine ⟨⟨sameMemory_of rfl rfl rfl, fun _ _ => rfl, fun m => ?_, rfl, fun _ h => h⟩, rfl, fun _ => .refl _⟩
  by_cases hm : m = n
  · subst hm; simpa [State.modGroup] using h
  · simp [State.modGroup, hm, sameGroup]

theorem fireFrame_progress (s : State) (cu : Cursor) (n ea : Nat) : fireFrame s (s.progress n ea) cu := by
  refine fireFrame_progressGroup s cu n _ ?_
  split <;> rfl

theorem fireFrame_progressAt (s : State) (cu : Cursor) (ea : Nat) : fireFrame s (s.progressAt ea) cu := by
  unfold State.progressAt
  split
  · exact fireFrame_progress ..
  · exact .refl ..

theorem fireFrame_returnCredit (s : State) (cu : Cursor) (ea : Nat) (src : Src) : fireFrame s (s.returnCredit ea src) cu := by
  unfold State.returnCredit
  split
  · exact .refl ..
  · exact fireFrame_after ..
  · exact fireFrame_after ..

theorem fireFrame_pop (s : State) (cu : Cursor) (ch : Nat) : fireFrame s (s.pop cu.ea ch) cu := by
  unfold State.pop
  dsimp only
  split
  · exact .refl ..
  · refine (fireFrame.trans ?_ (fireFrame_returnCredit ..)).trans (fireFrame_progressAt ..)
    exact fireFrame_modElem s cu (fun _ => _) rfl fun _ => .refl _

theorem fireFrame_popIf (s : State) (cu : Cursor) (k : Bool) (ch : Nat) : fireFrame s (s.popIf k cu.ea ch) cu := by
  unfold State.popIf
  split
  · exact fireFrame_pop ..
  · exact .refl ..

theorem fireFrame_countFiring (s : State) (cu : Cursor) : fireFrame s (s.countFiring cu) cu := by
  refine fireFrame_modElem s cu _ rfl fun c => ?_
  by_cases hc : c = cu.ctx
  · subst hc; simp [Elem.ctx, Elem.setCtx, sameCtx]
  · simp [Elem.ctx, Elem.setCtx, hc, sameCtx.refl]

theorem fireFrame_tagEffect (s : State) (cu : Cursor) (f : SlotF) : fireFrame s (s.tagEffect cu f) cu := by
  unfold State.tagEffect
  split
  · exact fireFrame_modElem s cu _ rfl fun _ => .refl _
  · split
    · dsimp only
      split
      · exact fireFrame_after ..
      · exact .refl ..
    · exact .refl ..

theorem fireFrame_raiseFlags (s : State) (cu : Cursor) (n : Nat) (fl : FlagSet) : fireFrame s (s.raiseFlags cu n fl) cu := by
  unfold State.raiseFlags
  split
  · exact .refl ..
  · exact fireFrame_after ..

theorem fireFrame_fireBase (s : State) (cu : Cursor) (f : SlotF) : fireFrame s (s.fireBase cu f) cu :=
  (((fireFrame_countFiring s cu).trans (fireFrame_tagEffect ..)).trans (fireFrame_popIf ..)).trans (fireFrame_popIf ..)

theorem fireFrame_markPending (s : State) (cu : Cursor) (r : Option Nat) (p : Byte) : fireFrame s (s.markPending cu r p) cu :=
  fireFrame_modCtx s cu _ ⟨rfl, rfl, rfl, rfl, rfl, rfl, rfl⟩

theorem fireFrame_reserve (s : State) (cu : Cursor) (o : Nat) : fireFrame s (s.reserve cu.ea o).1 cu :=
  fireFrame_modElem s cu (fun _ => _) rfl fun _ => .refl _

theorem fireFrame_reserveAll (s : State) (cu : Cursor) (os : List Nat) : fireFrame s (s.reserveAll cu.ea os).1 cu := by
  induction os generalizing s with
  | nil => exact .refl ..
  | cons o os ih => exact (fireFrame_reserve s cu o).trans (ih ..)

theorem fireFrame_deliver (s : State) (cu : Cursor) (f : SlotF) (d : BitVec 5) (lat : Nat) (v : Word) (k : WKind) (tag : Byte)
    (fl : FlagSet) : fireFrame s (s.deliver cu f d lat v k tag fl) cu := by
  unfold State.deliver
  refine (fireFrame_reserveAll s cu (destOuts f d)).trans ?_
  dsimp only
  split
  · exact (fireFrame_markPending ..).trans (fireFrame_after ..)
  · exact fireFrame_after ..

/-! ## What is counted -/

/-- Counters, the pointer P and the queues of channels are as before. -/
def stays (s t : State) (cu : Cursor) : Prop :=
  (∀ c, (t.ctx cu.ea c).fires = (s.ctx cu.ea c).fires) ∧ (t.elem cu.ea).ptr = (s.elem cu.ea).ptr ∧
    (t.elem cu.ea).slotFires = (s.elem cu.ea).slotFires ∧ ∀ c, (t.chan cu.ea c).q = (s.chan cu.ea c).q

theorem stays.refl (s : State) (cu : Cursor) : stays s s cu := ⟨fun _ => rfl, rfl, rfl, fun _ => rfl⟩

theorem stays.trans {s t u : State} {cu : Cursor} (h : stays s t cu) (k : stays t u cu) : stays s u cu :=
  ⟨fun c => (k.1 c).trans (h.1 c), k.2.1.trans h.2.1, k.2.2.1.trans h.2.2.1, fun c => (k.2.2.2 c).trans (h.2.2.2 c)⟩

theorem stays_of {s t : State} {cu : Cursor} (h : t.elems = s.elems) : stays s t cu := by
  refine ⟨fun c => ?_, ?_, ?_, fun c => ?_⟩ <;> simp [State.ctx, State.chan, State.elem, h]

theorem stays_reserveAll (s : State) (cu : Cursor) (os : List Nat) : stays s (s.reserveAll cu.ea os).1 cu := by
  induction os generalizing s with
  | nil => exact .refl ..
  | cons o os ih =>
    refine stays.trans (t := (s.reserve cu.ea o).1) ?_ (ih ..)
    refine ⟨fun c => ?_, ?_, ?_, fun c => ?_⟩ <;>
      simp [State.reserve, State.ctx, State.chan, Elem.setOut, Elem.ctx, Elem.chan]

theorem stays_deliver (s : State) (cu : Cursor) (f : SlotF) (d : BitVec 5) (lat : Nat) (v : Word) (k : WKind) (tag : Byte)
    (fl : FlagSet) : stays s (s.deliver cu f d lat v k tag fl) cu := by
  unfold State.deliver
  refine (stays_reserveAll s cu (destOuts f d)).trans ?_
  dsimp only
  split
  · refine ⟨fun c => ?_, ?_, ?_, fun c => ?_⟩
    · by_cases hc : c = cu.ctx
      · subst hc; simp [State.after, State.at_, State.markPending, State.modCtx, State.ctx, State.elem, State.modElem, State.setElem]
      · simp [State.after, State.at_, State.markPending, State.modCtx, State.ctx, State.elem, State.modElem, State.setElem, hc]
    all_goals
      simp [State.after, State.at_, State.markPending, State.modCtx, State.chan, State.elem, State.modElem, State.setElem,
        Elem.setCtx, Elem.chan]
  · exact stays_of rfl

theorem stays_raiseFlags (s : State) (cu : Cursor) (n : Nat) (fl : FlagSet) : stays s (s.raiseFlags cu n fl) cu := by
  unfold State.raiseFlags
  split
  · exact .refl ..
  · exact stays_of rfl

theorem State.counts_stays {s t u : State} {cu : Cursor} {f : SlotF} (h : s.counts t cu f) (k : stays t u cu) : s.counts u cu f :=
  ⟨(k.1 _).trans h.1, k.2.1.trans h.2.1, by rw [k.2.2.1]; exact h.2.2.1, fun c => (k.2.2.2 c).trans (h.2.2.2 c)⟩

/-- What `popIf` does to the channels of its element, and that it counts nothing. -/
theorem popIf_pops (s : State) (cu : Cursor) (k : Bool) (ch : Nat) :
    let t := s.popIf k cu.ea ch
    (∀ c, (t.ctx cu.ea c).fires = (s.ctx cu.ea c).fires) ∧ (t.elem cu.ea).ptr = (s.elem cu.ea).ptr ∧
      (t.elem cu.ea).slotFires = (s.elem cu.ea).slotFires ∧
      ∀ c, (t.chan cu.ea c).q = (s.chan cu.ea c).q.drop (if k ∧ ch = c then 1 else 0) := by
  intro t
  cases k with
  | false => exact ⟨fun _ => rfl, rfl, rfl, fun _ => by simp [t, State.popIf]⟩
  | true =>
    simp only [t, State.popIf, if_true, State.pop]
    split
    · rename_i hq
      refine ⟨fun _ => rfl, rfl, rfl, fun c => ?_⟩
      by_cases hc : ch = c
      · subst hc; simp [hq]
      · simp [hc]
    · rename_i w rest hq
      have he : ∀ (v : State) (src : Src), ((v.returnCredit cu.ea src).progressAt cu.ea).elems = v.elems := by
        intro v src
        unfold State.progressAt State.returnCredit
        cases src <;> dsimp only <;> split <;> rfl
      have hs := stays_of (cu := cu) (he (s.modChan cu.ea ch (fun c => { c with q := rest, st := chanAfterPop c.st rest })) w.src)
      refine ⟨fun c => (hs.1 c).trans ?_, hs.2.1.trans ?_, hs.2.2.1.trans ?_, fun c => (hs.2.2.2 c).trans ?_⟩
      · simp [State.modChan, State.ctx, Elem.setChan, Elem.ctx]
      · simp [State.modChan, Elem.setChan]
      · simp [State.modChan, Elem.setChan]
      · by_cases hc : c = ch
        · subst hc
          rw [State.chan] at hq
          simp [State.modChan, State.chan, hq]
        · simp [State.modChan, State.chan, hc, Ne.symm hc]

/-- A firing's common part: it is counted, and its pops happen. -/
theorem counts_fireBase (s : State) (cu : Cursor) (f : SlotF) : s.counts (s.fireBase cu f) cu f := by
  have h1 := popIf_pops ((s.countFiring cu).tagEffect cu f) cu f.ka f.ia.toNat
  have h2 := popIf_pops (((s.countFiring cu).tagEffect cu f).popIf f.ka cu.ea f.ia.toNat) cu f.kb f.ib.toNat
  have h0 : stays (s.countFiring cu) ((s.countFiring cu).tagEffect cu f) cu := by
    unfold State.tagEffect
    split
    · refine ⟨fun c => ?_, ?_, ?_, fun c => ?_⟩ <;> simp [State.ctx, State.chan, Elem.ctx, Elem.chan]
    · split
      · dsimp only
        split
        · exact stays_of rfl
        · exact .refl ..
      · exact .refl ..
  refine ⟨?_, ?_, ?_, fun c => ?_⟩
  · exact (h2.1 _).trans ((h1.1 _).trans ((h0.1 _).trans (by simp [State.countFiring, State.ctx, Elem.ctx, Elem.setCtx])))
  · exact h2.2.1.trans (h1.2.1.trans (h0.2.1.trans (by simp [State.countFiring])))
  · have : (s.fireBase cu f |>.elem cu.ea).slotFires = ((s.countFiring cu).elem cu.ea).slotFires :=
      h2.2.2.1.trans (h1.2.2.1.trans h0.2.2.1)
    rw [this]; simp [State.countFiring, Elem.setCtx]
  · have h3 : (s.countFiring cu |>.chan cu.ea c).q = (s.chan cu.ea c).q := by
      simp [State.countFiring, State.chan, Elem.chan, Elem.setCtx]
    have := h2.2.2.2 c
    rw [h1.2.2.2 c, h0.2.2.2 c, h3, List.drop_drop] at this
    exact this

/-! ## What is delivered -/

theorem fireFrame.now {s t : State} {cu : Cursor} (h : fireFrame s t cu) : t.now = s.now := by rw [h.1.2.2.2.1]

theorem fireFrame.epoch {s t : State} {cu : Cursor} (h : fireFrame s t cu) : (t.elem cu.ea).epoch = (s.elem cu.ea).epoch := by
  rw [h.2.1]

theorem reserveAll_places (s : State) (ea : Nat) (os : List Nat) : (s.reserveAll ea os).2.map (·.1) = os := by
  induction os generalizing s with
  | nil => rfl
  | cons o os ih => simp [State.reserveAll, State.reserve, ih]

/-- A result sent to a destination is on its way, with its latency, its value and its flags. -/
theorem delivers_deliver {s t : State} {cu : Cursor} (h : fireFrame s t cu) (f : SlotF) (d : BitVec 5) (lat : Nat) (v : Word)
    (k : WKind) (fl : FlagSet) : s.delivers (t.deliver cu f d lat v k (sentTag s cu f) fl) cu f d lat v k fl := by
  unfold State.deliver
  dsimp only
  have hf : ∀ u, fireFrame (t.reserveAll cu.ea (destOuts f d)).1 u cu → fireFrame s u cu := fun u hu =>
    (h.trans (fireFrame_reserveAll t cu _)).trans hu
  have fin : ∀ u, fireFrame s u cu → s.delivers (u.after lat (.resultDelivery { Delivery.none u cu with
      reg := destReg d, value := v, predMask := destPreds d, predVal := destPredVal d v,
      places := (t.reserveAll cu.ea (destOuts f d)).2, word := ⟨v, sentTag s cu f, k⟩, flags := fl })) cu f d lat v k fl := by
    intro u hu
    refine ⟨{ Delivery.none u cu with
      reg := destReg d, value := v, predMask := destPreds d, predVal := destPredVal d v,
      places := (t.reserveAll cu.ea (destOuts f d)).2, word := ⟨v, sentTag s cu f, k⟩, flags := fl }, ?_, rfl, rfl, rfl, rfl, rfl,
      rfl, rfl, reserveAll_places .., rfl, hu.epoch⟩
    rw [← hu.now]
    exact State.awaits_at ..
  split
  · exact fin _ (hf _ (fireFrame_markPending ..))
  · exact fin _ (hf _ (.refl ..))

theorem goes_operands {s : State} {cu : Cursor} {f : SlotF} (h : s.goes cu f) : s.operandFault cu f = none := by
  simp [State.operandFault, h.2.1, h.2.2.1, h.2.2.2]

/-- The firing of an instruction that computes one value: what `fireAlu` does, once and for all. -/
theorem fireAlu_computes {s : State} {cu : Cursor} {f : SlotF} (i : Instr) (lat : AluIn → Nat) (g : AluIn → Res) (h : s.goes cu f)
    (hi : exec i s = .next (s.fireAlu f lat g)) :
    computes i s cu f (lat (aluIn s cu f)) (g (aluIn s cu f)).1 (g (aluIn s cu f)).2 := by
  refine ⟨_, hi, ?_⟩
  have hb := (fireFrame_fireBase s cu f).trans (fireFrame_raiseFlags _ cu 2 (sourceFlags s cu f))
  simp only [State.fireAlu, h.1, goes_operands h]
  exact ⟨delivers_deliver hb .., State.counts_stays (State.counts_stays (counts_fireBase s cu f) (stays_raiseFlags ..)) (stays_deliver ..),
    hb.trans (fireFrame_deliver ..)⟩

/-- The firing of an instruction with an effect of its own: what `fireWith` does, once and for all. -/
theorem fireWith_fires {s : State} {cu : Cursor} {f : SlotF} (i : Instr) (g : Cursor → AluIn → Byte → State → State) (h : s.goes cu f)
    (hi : exec i s = .next (s.fireWith f g)) :
    firesWith i s cu f (g cu (aluIn s cu f) (sentTag s cu f)) := by
  refine ⟨(s.fireBase cu f).raiseFlags cu 2 (sourceFlags s cu f), ?_, State.counts_stays (counts_fireBase s cu f) (stays_raiseFlags ..),
    (fireFrame_fireBase s cu f).trans (fireFrame_raiseFlags ..)⟩
  rw [hi]
  simp only [State.fireWith, h.1, goes_operands h]

/-- An instruction whose only effect beside the common part is to deliver `v` to `d`. -/
theorem fireWith_computes {s : State} {cu : Cursor} {f : SlotF} (i : Instr) (d : BitVec 5) (lat : Nat) (v : Word) (fl : FlagSet)
    (h : s.goes cu f)
    (hi : exec i s = .next (s.fireWith f (fun cu _ tag s => s.deliver cu f d lat v .data tag fl))) :
    computesTo i s cu f d lat v fl := by
  obtain ⟨u, hu, hc, hf⟩ := fireWith_fires i _ h hi
  exact ⟨_, hu, delivers_deliver hf .., State.counts_stays hc (stays_deliver ..), hf.trans (fireFrame_deliver ..)⟩

end Sys2Proof.Machine
end

