-- ==== Sys2Proof/Laws/State.lean ====
section
/-! SUPPORT. What each update of State leaves alone, field by field: every lemma holds by rfl. -/

namespace Sys2Proof.Machine

/-! ## setElem -/

@[simp] theorem State.setElem_now (s : State) (ea : Nat) (e : Elem) : (s.setElem ea e).now = s.now := rfl
@[simp] theorem State.setElem_phase (s : State) (ea : Nat) (e : Elem) : (s.setElem ea e).phase = s.phase := rfl
@[simp] theorem State.setElem_agenda (s : State) (ea : Nat) (e : Elem) : (s.setElem ea e).agenda = s.agenda := rfl
@[simp] theorem State.setElem_chosen (s : State) (ea : Nat) (e : Elem) : (s.setElem ea e).chosen = s.chosen := rfl
@[simp] theorem State.setElem_cur (s : State) (ea : Nat) (e : Elem) : (s.setElem ea e).cur = s.cur := rfl
@[simp] theorem State.setElem_groups (s : State) (ea : Nat) (e : Elem) : (s.setElem ea e).groups = s.groups := rfl
@[simp] theorem State.setElem_hubs (s : State) (ea : Nat) (e : Elem) : (s.setElem ea e).hubs = s.hubs := rfl
@[simp] theorem State.setElem_dies (s : State) (ea : Nat) (e : Elem) : (s.setElem ea e).dies = s.dies := rfl
@[simp] theorem State.setElem_links (s : State) (ea : Nat) (e : Elem) : (s.setElem ea e).links = s.links := rfl
@[simp] theorem State.setElem_banks (s : State) (ea : Nat) (e : Elem) : (s.setElem ea e).banks = s.banks := rfl
@[simp] theorem State.setElem_mem (s : State) (ea : Nat) (e : Elem) : (s.setElem ea e).mem = s.mem := rfl
@[simp] theorem State.setElem_poison (s : State) (ea : Nat) (e : Elem) : (s.setElem ea e).poison = s.poison := rfl
@[simp] theorem State.setElem_full (s : State) (ea : Nat) (e : Elem) : (s.setElem ea e).full = s.full := rfl
@[simp] theorem State.setElem_slices (s : State) (ea : Nat) (e : Elem) : (s.setElem ea e).slices = s.slices := rfl
@[simp] theorem State.setElem_doms (s : State) (ea : Nat) (e : Elem) : (s.setElem ea e).doms = s.doms := rfl
@[simp] theorem State.setElem_tinvs (s : State) (ea : Nat) (e : Elem) : (s.setElem ea e).tinvs = s.tinvs := rfl
@[simp] theorem State.setElem_defers (s : State) (ea : Nat) (e : Elem) : (s.setElem ea e).defers = s.defers := rfl
@[simp] theorem State.setElem_migs (s : State) (ea : Nat) (e : Elem) : (s.setElem ea e).migs = s.migs := rfl
@[simp] theorem State.setElem_remotes (s : State) (ea : Nat) (e : Elem) : (s.setElem ea e).remotes = s.remotes := rfl
@[simp] theorem State.setElem_found (s : State) (ea : Nat) (e : Elem) : (s.setElem ea e).found = s.found := rfl
@[simp] theorem State.setElem_units (s : State) (ea : Nat) (e : Elem) : (s.setElem ea e).units = s.units := rfl
@[simp] theorem State.setElem_farHeld (s : State) (ea : Nat) (e : Elem) : (s.setElem ea e).farHeld = s.farHeld := rfl
@[simp] theorem State.setElem_farTokens (s : State) (ea : Nat) (e : Elem) : (s.setElem ea e).farTokens = s.farTokens := rfl
@[simp] theorem State.setElem_bases (s : State) (ea : Nat) (e : Elem) : (s.setElem ea e).bases = s.bases := rfl
@[simp] theorem State.setElem_injs (s : State) (ea : Nat) (e : Elem) : (s.setElem ea e).injs = s.injs := rfl
@[simp] theorem State.setElem_engines (s : State) (ea : Nat) (e : Elem) : (s.setElem ea e).engines = s.engines := rfl
@[simp] theorem State.setElem_queues (s : State) (ea : Nat) (e : Elem) : (s.setElem ea e).queues = s.queues := rfl
@[simp] theorem State.setElem_signals (s : State) (ea : Nat) (e : Elem) : (s.setElem ea e).signals = s.signals := rfl
@[simp] theorem State.setElem_launches (s : State) (ea : Nat) (e : Elem) : (s.setElem ea e).launches = s.launches := rfl
@[simp] theorem State.setElem_lids (s : State) (ea : Nat) (e : Elem) : (s.setElem ea e).lids = s.lids := rfl
@[simp] theorem State.setElem_pushes (s : State) (ea : Nat) (e : Elem) : (s.setElem ea e).pushes = s.pushes := rfl
@[simp] theorem State.setElem_reads (s : State) (ea : Nat) (e : Elem) : (s.setElem ea e).reads = s.reads := rfl
@[simp] theorem State.setElem_lastPlaced (s : State) (ea : Nat) (e : Elem) : (s.setElem ea e).lastPlaced = s.lastPlaced := rfl
@[simp] theorem State.setElem_cores (s : State) (ea : Nat) (e : Elem) : (s.setElem ea e).cores = s.cores := rfl
@[simp] theorem State.setElem_cports (s : State) (ea : Nat) (e : Elem) : (s.setElem ea e).cports = s.cports := rfl
@[simp] theorem State.setElem_xlinks (s : State) (ea : Nat) (e : Elem) : (s.setElem ea e).xlinks = s.xlinks := rfl
@[simp] theorem State.setElem_routeTab (s : State) (ea : Nat) (e : Elem) : (s.setElem ea e).routeTab = s.routeTab := rfl
@[simp] theorem State.setElem_windows (s : State) (ea : Nat) (e : Elem) : (s.setElem ea e).windows = s.windows := rfl
@[simp] theorem State.setElem_appends (s : State) (ea : Nat) (e : Elem) : (s.setElem ea e).appends = s.appends := rfl
@[simp] theorem State.setElem_rxMsg (s : State) (ea : Nat) (e : Elem) : (s.setElem ea e).rxMsg = s.rxMsg := rfl
@[simp] theorem State.setElem_sent (s : State) (ea : Nat) (e : Elem) : (s.setElem ea e).sent = s.sent := rfl
@[simp] theorem State.setElem_mboxes (s : State) (ea : Nat) (e : Elem) : (s.setElem ea e).mboxes = s.mboxes := rfl
@[simp] theorem State.setElem_summit (s : State) (ea : Nat) (e : Elem) : (s.setElem ea e).summit = s.summit := rfl
@[simp] theorem State.setElem_module (s : State) (ea : Nat) (e : Elem) : (s.setElem ea e).module = s.module := rfl
@[simp] theorem State.setElem_free (s : State) (ea : Nat) (e : Elem) : (s.setElem ea e).free = s.free := rfl
@[simp] theorem State.setElem_serial (s : State) (ea : Nat) (e : Elem) : (s.setElem ea e).serial = s.serial := rfl

/-! ## setGroup -/

@[simp] theorem State.setGroup_now (s : State) (n : Nat) (g : Group) : (s.setGroup n g).now = s.now := rfl
@[simp] theorem State.setGroup_phase (s : State) (n : Nat) (g : Group) : (s.setGroup n g).phase = s.phase := rfl
@[simp] theorem State.setGroup_agenda (s : State) (n : Nat) (g : Group) : (s.setGroup n g).agenda = s.agenda := rfl
@[simp] theorem State.setGroup_chosen (s : State) (n : Nat) (g : Group) : (s.setGroup n g).chosen = s.chosen := rfl
@[simp] theorem State.setGroup_cur (s : State) (n : Nat) (g : Group) : (s.setGroup n g).cur = s.cur := rfl
@[simp] theorem State.setGroup_elems (s : State) (n : Nat) (g : Group) : (s.setGroup n g).elems = s.elems := rfl
@[simp] theorem State.setGroup_hubs (s : State) (n : Nat) (g : Group) : (s.setGroup n g).hubs = s.hubs := rfl
@[simp] theorem State.setGroup_dies (s : State) (n : Nat) (g : Group) : (s.setGroup n g).dies = s.dies := rfl
@[simp] theorem State.setGroup_links (s : State) (n : Nat) (g : Group) : (s.setGroup n g).links = s.links := rfl
@[simp] theorem State.setGroup_banks (s : State) (n : Nat) (g : Group) : (s.setGroup n g).banks = s.banks := rfl
@[simp] theorem State.setGroup_mem (s : State) (n : Nat) (g : Group) : (s.setGroup n g).mem = s.mem := rfl
@[simp] theorem State.setGroup_poison (s : State) (n : Nat) (g : Group) : (s.setGroup n g).poison = s.poison := rfl
@[simp] theorem State.setGroup_full (s : State) (n : Nat) (g : Group) : (s.setGroup n g).full = s.full := rfl
@[simp] theorem State.setGroup_slices (s : State) (n : Nat) (g : Group) : (s.setGroup n g).slices = s.slices := rfl
@[simp] theorem State.setGroup_doms (s : State) (n : Nat) (g : Group) : (s.setGroup n g).doms = s.doms := rfl
@[simp] theorem State.setGroup_tinvs (s : State) (n : Nat) (g : Group) : (s.setGroup n g).tinvs = s.tinvs := rfl
@[simp] theorem State.setGroup_defers (s : State) (n : Nat) (g : Group) : (s.setGroup n g).defers = s.defers := rfl
@[simp] theorem State.setGroup_migs (s : State) (n : Nat) (g : Group) : (s.setGroup n g).migs = s.migs := rfl
@[simp] theorem State.setGroup_remotes (s : State) (n : Nat) (g : Group) : (s.setGroup n g).remotes = s.remotes := rfl
@[simp] theorem State.setGroup_found (s : State) (n : Nat) (g : Group) : (s.setGroup n g).found = s.found := rfl
@[simp] theorem State.setGroup_units (s : State) (n : Nat) (g : Group) : (s.setGroup n g).units = s.units := rfl
@[simp] theorem State.setGroup_farHeld (s : State) (n : Nat) (g : Group) : (s.setGroup n g).farHeld = s.farHeld := rfl
@[simp] theorem State.setGroup_farTokens (s : State) (n : Nat) (g : Group) : (s.setGroup n g).farTokens = s.farTokens := rfl
@[simp] theorem State.setGroup_bases (s : State) (n : Nat) (g : Group) : (s.setGroup n g).bases = s.bases := rfl
@[simp] theorem State.setGroup_injs (s : State) (n : Nat) (g : Group) : (s.setGroup n g).injs = s.injs := rfl
@[simp] theorem State.setGroup_engines (s : State) (n : Nat) (g : Group) : (s.setGroup n g).engines = s.engines := rfl
@[simp] theorem State.setGroup_queues (s : State) (n : Nat) (g : Group) : (s.setGroup n g).queues = s.queues := rfl
@[simp] theorem State.setGroup_signals (s : State) (n : Nat) (g : Group) : (s.setGroup n g).signals = s.signals := rfl
@[simp] theorem State.setGroup_launches (s : State) (n : Nat) (g : Group) : (s.setGroup n g).launches = s.launches := rfl
@[simp] theorem State.setGroup_lids (s : State) (n : Nat) (g : Group) : (s.setGroup n g).lids = s.lids := rfl
@[simp] theorem State.setGroup_pushes (s : State) (n : Nat) (g : Group) : (s.setGroup n g).pushes = s.pushes := rfl
@[simp] theorem State.setGroup_reads (s : State) (n : Nat) (g : Group) : (s.setGroup n g).reads = s.reads := rfl
@[simp] theorem State.setGroup_lastPlaced (s : State) (n : Nat) (g : Group) : (s.setGroup n g).lastPlaced = s.lastPlaced := rfl
@[simp] theorem State.setGroup_cores (s : State) (n : Nat) (g : Group) : (s.setGroup n g).cores = s.cores := rfl
@[simp] theorem State.setGroup_cports (s : State) (n : Nat) (g : Group) : (s.setGroup n g).cports = s.cports := rfl
@[simp] theorem State.setGroup_xlinks (s : State) (n : Nat) (g : Group) : (s.setGroup n g).xlinks = s.xlinks := rfl
@[simp] theorem State.setGroup_routeTab (s : State) (n : Nat) (g : Group) : (s.setGroup n g).routeTab = s.routeTab := rfl
@[simp] theorem State.setGroup_windows (s : State) (n : Nat) (g : Group) : (s.setGroup n g).windows = s.windows := rfl
@[simp] theorem State.setGroup_appends (s : State) (n : Nat) (g : Group) : (s.setGroup n g).appends = s.appends := rfl
@[simp] theorem State.setGroup_rxMsg (s : State) (n : Nat) (g : Group) : (s.setGroup n g).rxMsg = s.rxMsg := rfl
@[simp] theorem State.setGroup_sent (s : State) (n : Nat) (g : Group) : (s.setGroup n g).sent = s.sent := rfl
@[simp] theorem State.setGroup_mboxes (s : State) (n : Nat) (g : Group) : (s.setGroup n g).mboxes = s.mboxes := rfl
@[simp] theorem State.setGroup_summit (s : State) (n : Nat) (g : Group) : (s.setGroup n g).summit = s.summit := rfl
@[simp] theorem State.setGroup_module (s : State) (n : Nat) (g : Group) : (s.setGroup n g).module = s.module := rfl
@[simp] theorem State.setGroup_free (s : State) (n : Nat) (g : Group) : (s.setGroup n g).free = s.free := rfl
@[simp] theorem State.setGroup_serial (s : State) (n : Nat) (g : Group) : (s.setGroup n g).serial = s.serial := rfl

/-! ## modDie -/

@[simp] theorem State.modDie_now (s : State) (d : Nat) (f : Die → Die) : (s.modDie d f).now = s.now := rfl
@[simp] theorem State.modDie_phase (s : State) (d : Nat) (f : Die → Die) : (s.modDie d f).phase = s.phase := rfl
@[simp] theorem State.modDie_agenda (s : State) (d : Nat) (f : Die → Die) : (s.modDie d f).agenda = s.agenda := rfl
@[simp] theorem State.modDie_chosen (s : State) (d : Nat) (f : Die → Die) : (s.modDie d f).chosen = s.chosen := rfl
@[simp] theorem State.modDie_cur (s : State) (d : Nat) (f : Die → Die) : (s.modDie d f).cur = s.cur := rfl
@[simp] theorem State.modDie_elems (s : State) (d : Nat) (f : Die → Die) : (s.modDie d f).elems = s.elems := rfl
@[simp] theorem State.modDie_groups (s : State) (d : Nat) (f : Die → Die) : (s.modDie d f).groups = s.groups := rfl
@[simp] theorem State.modDie_hubs (s : State) (d : Nat) (f : Die → Die) : (s.modDie d f).hubs = s.hubs := rfl
@[simp] theorem State.modDie_links (s : State) (d : Nat) (f : Die → Die) : (s.modDie d f).links = s.links := rfl
@[simp] theorem State.modDie_banks (s : State) (d : Nat) (f : Die → Die) : (s.modDie d f).banks = s.banks := rfl
@[simp] theorem State.modDie_mem (s : State) (d : Nat) (f : Die → Die) : (s.modDie d f).mem = s.mem := rfl
@[simp] theorem State.modDie_poison (s : State) (d : Nat) (f : Die → Die) : (s.modDie d f).poison = s.poison := rfl
@[simp] theorem State.modDie_full (s : State) (d : Nat) (f : Die → Die) : (s.modDie d f).full = s.full := rfl
@[simp] theorem State.modDie_slices (s : State) (d : Nat) (f : Die → Die) : (s.modDie d f).slices = s.slices := rfl
@[simp] theorem State.modDie_doms (s : State) (d : Nat) (f : Die → Die) : (s.modDie d f).doms = s.doms := rfl
@[simp] theorem State.modDie_tinvs (s : State) (d : Nat) (f : Die → Die) : (s.modDie d f).tinvs = s.tinvs := rfl
@[simp] theorem State.modDie_defers (s : State) (d : Nat) (f : Die → Die) : (s.modDie d f).defers = s.defers := rfl
@[simp] theorem State.modDie_migs (s : State) (d : Nat) (f : Die → Die) : (s.modDie d f).migs = s.migs := rfl
@[simp] theorem State.modDie_remotes (s : State) (d : Nat) (f : Die → Die) : (s.modDie d f).remotes = s.remotes := rfl
@[simp] theorem State.modDie_found (s : State) (d : Nat) (f : Die → Die) : (s.modDie d f).found = s.found := rfl
@[simp] theorem State.modDie_units (s : State) (d : Nat) (f : Die → Die) : (s.modDie d f).units = s.units := rfl
@[simp] theorem State.modDie_farHeld (s : State) (d : Nat) (f : Die → Die) : (s.modDie d f).farHeld = s.farHeld := rfl
@[simp] theorem State.modDie_farTokens (s : State) (d : Nat) (f : Die → Die) : (s.modDie d f).farTokens = s.farTokens := rfl
@[simp] theorem State.modDie_bases (s : State) (d : Nat) (f : Die → Die) : (s.modDie d f).bases = s.bases := rfl
@[simp] theorem State.modDie_injs (s : State) (d : Nat) (f : Die → Die) : (s.modDie d f).injs = s.injs := rfl
@[simp] theorem State.modDie_engines (s : State) (d : Nat) (f : Die → Die) : (s.modDie d f).engines = s.engines := rfl
@[simp] theorem State.modDie_queues (s : State) (d : Nat) (f : Die → Die) : (s.modDie d f).queues = s.queues := rfl
@[simp] theorem State.modDie_signals (s : State) (d : Nat) (f : Die → Die) : (s.modDie d f).signals = s.signals := rfl
@[simp] theorem State.modDie_launches (s : State) (d : Nat) (f : Die → Die) : (s.modDie d f).launches = s.launches := rfl
@[simp] theorem State.modDie_lids (s : State) (d : Nat) (f : Die → Die) : (s.modDie d f).lids = s.lids := rfl
@[simp] theorem State.modDie_pushes (s : State) (d : Nat) (f : Die → Die) : (s.modDie d f).pushes = s.pushes := rfl
@[simp] theorem State.modDie_reads (s : State) (d : Nat) (f : Die → Die) : (s.modDie d f).reads = s.reads := rfl
@[simp] theorem State.modDie_lastPlaced (s : State) (d : Nat) (f : Die → Die) : (s.modDie d f).lastPlaced = s.lastPlaced := rfl
@[simp] theorem State.modDie_cores (s : State) (d : Nat) (f : Die → Die) : (s.modDie d f).cores = s.cores := rfl
@[simp] theorem State.modDie_cports (s : State) (d : Nat) (f : Die → Die) : (s.modDie d f).cports = s.cports := rfl
@[simp] theorem State.modDie_xlinks (s : State) (d : Nat) (f : Die → Die) : (s.modDie d f).xlinks = s.xlinks := rfl
@[simp] theorem State.modDie_routeTab (s : State) (d : Nat) (f : Die → Die) : (s.modDie d f).routeTab = s.routeTab := rfl
@[simp] theorem State.modDie_windows (s : State) (d : Nat) (f : Die → Die) : (s.modDie d f).windows = s.windows := rfl
@[simp] theorem State.modDie_appends (s : State) (d : Nat) (f : Die → Die) : (s.modDie d f).appends = s.appends := rfl
@[simp] theorem State.modDie_rxMsg (s : State) (d : Nat) (f : Die → Die) : (s.modDie d f).rxMsg = s.rxMsg := rfl
@[simp] theorem State.modDie_sent (s : State) (d : Nat) (f : Die → Die) : (s.modDie d f).sent = s.sent := rfl
@[simp] theorem State.modDie_mboxes (s : State) (d : Nat) (f : Die → Die) : (s.modDie d f).mboxes = s.mboxes := rfl
@[simp] theorem State.modDie_summit (s : State) (d : Nat) (f : Die → Die) : (s.modDie d f).summit = s.summit := rfl
@[simp] theorem State.modDie_module (s : State) (d : Nat) (f : Die → Die) : (s.modDie d f).module = s.module := rfl
@[simp] theorem State.modDie_free (s : State) (d : Nat) (f : Die → Die) : (s.modDie d f).free = s.free := rfl
@[simp] theorem State.modDie_serial (s : State) (d : Nat) (f : Die → Die) : (s.modDie d f).serial = s.serial := rfl

/-! ## bump -/

@[simp] theorem State.bump_now (s : State) : (s.bump).now = s.now := rfl
@[simp] theorem State.bump_phase (s : State) : (s.bump).phase = s.phase := rfl
@[simp] theorem State.bump_agenda (s : State) : (s.bump).agenda = s.agenda := rfl
@[simp] theorem State.bump_chosen (s : State) : (s.bump).chosen = s.chosen := rfl
@[simp] theorem State.bump_cur (s : State) : (s.bump).cur = s.cur := rfl
@[simp] theorem State.bump_elems (s : State) : (s.bump).elems = s.elems := rfl
@[simp] theorem State.bump_groups (s : State) : (s.bump).groups = s.groups := rfl
@[simp] theorem State.bump_hubs (s : State) : (s.bump).hubs = s.hubs := rfl
@[simp] theorem State.bump_dies (s : State) : (s.bump).dies = s.dies := rfl
@[simp] theorem State.bump_links (s : State) : (s.bump).links = s.links := rfl
@[simp] theorem State.bump_banks (s : State) : (s.bump).banks = s.banks := rfl
@[simp] theorem State.bump_mem (s : State) : (s.bump).mem = s.mem := rfl
@[simp] theorem State.bump_poison (s : State) : (s.bump).poison = s.poison := rfl
@[simp] theorem State.bump_full (s : State) : (s.bump).full = s.full := rfl
@[simp] theorem State.bump_slices (s : State) : (s.bump).slices = s.slices := rfl
@[simp] theorem State.bump_doms (s : State) : (s.bump).doms = s.doms := rfl
@[simp] theorem State.bump_tinvs (s : State) : (s.bump).tinvs = s.tinvs := rfl
@[simp] theorem State.bump_defers (s : State) : (s.bump).defers = s.defers := rfl
@[simp] theorem State.bump_migs (s : State) : (s.bump).migs = s.migs := rfl
@[simp] theorem State.bump_remotes (s : State) : (s.bump).remotes = s.remotes := rfl
@[simp] theorem State.bump_found (s : State) : (s.bump).found = s.found := rfl
@[simp] theorem State.bump_units (s : State) : (s.bump).units = s.units := rfl
@[simp] theorem State.bump_farHeld (s : State) : (s.bump).farHeld = s.farHeld := rfl
@[simp] theorem State.bump_farTokens (s : State) : (s.bump).farTokens = s.farTokens := rfl
@[simp] theorem State.bump_bases (s : State) : (s.bump).bases = s.bases := rfl
@[simp] theorem State.bump_injs (s : State) : (s.bump).injs = s.injs := rfl
@[simp] theorem State.bump_engines (s : State) : (s.bump).engines = s.engines := rfl
@[simp] theorem State.bump_queues (s : State) : (s.bump).queues = s.queues := rfl
@[simp] theorem State.bump_signals (s : State) : (s.bump).signals = s.signals := rfl
@[simp] theorem State.bump_launches (s : State) : (s.bump).launches = s.launches := rfl
@[simp] theorem State.bump_lids (s : State) : (s.bump).lids = s.lids := rfl
@[simp] theorem State.bump_pushes (s : State) : (s.bump).pushes = s.pushes := rfl
@[simp] theorem State.bump_reads (s : State) : (s.bump).reads = s.reads := rfl
@[simp] theorem State.bump_lastPlaced (s : State) : (s.bump).lastPlaced = s.lastPlaced := rfl
@[simp] theorem State.bump_cores (s : State) : (s.bump).cores = s.cores := rfl
@[simp] theorem State.bump_cports (s : State) : (s.bump).cports = s.cports := rfl
@[simp] theorem State.bump_xlinks (s : State) : (s.bump).xlinks = s.xlinks := rfl
@[simp] theorem State.bump_routeTab (s : State) : (s.bump).routeTab = s.routeTab := rfl
@[simp] theorem State.bump_windows (s : State) : (s.bump).windows = s.windows := rfl
@[simp] theorem State.bump_appends (s : State) : (s.bump).appends = s.appends := rfl
@[simp] theorem State.bump_rxMsg (s : State) : (s.bump).rxMsg = s.rxMsg := rfl
@[simp] theorem State.bump_sent (s : State) : (s.bump).sent = s.sent := rfl
@[simp] theorem State.bump_mboxes (s : State) : (s.bump).mboxes = s.mboxes := rfl
@[simp] theorem State.bump_summit (s : State) : (s.bump).summit = s.summit := rfl
@[simp] theorem State.bump_module (s : State) : (s.bump).module = s.module := rfl
@[simp] theorem State.bump_free (s : State) : (s.bump).free = s.free := rfl

/-! ## at_ -/

@[simp] theorem State.at_now (s : State) (n : Nat) (i : Instr) : (s.at_ n i).now = s.now := rfl
@[simp] theorem State.at_phase (s : State) (n : Nat) (i : Instr) : (s.at_ n i).phase = s.phase := rfl
@[simp] theorem State.at_chosen (s : State) (n : Nat) (i : Instr) : (s.at_ n i).chosen = s.chosen := rfl
@[simp] theorem State.at_cur (s : State) (n : Nat) (i : Instr) : (s.at_ n i).cur = s.cur := rfl
@[simp] theorem State.at_elems (s : State) (n : Nat) (i : Instr) : (s.at_ n i).elems = s.elems := rfl
@[simp] theorem State.at_groups (s : State) (n : Nat) (i : Instr) : (s.at_ n i).groups = s.groups := rfl
@[simp] theorem State.at_hubs (s : State) (n : Nat) (i : Instr) : (s.at_ n i).hubs = s.hubs := rfl
@[simp] theorem State.at_dies (s : State) (n : Nat) (i : Instr) : (s.at_ n i).dies = s.dies := rfl
@[simp] theorem State.at_links (s : State) (n : Nat) (i : Instr) : (s.at_ n i).links = s.links := rfl
@[simp] theorem State.at_banks (s : State) (n : Nat) (i : Instr) : (s.at_ n i).banks = s.banks := rfl
@[simp] theorem State.at_mem (s : State) (n : Nat) (i : Instr) : (s.at_ n i).mem = s.mem := rfl
@[simp] theorem State.at_poison (s : State) (n : Nat) (i : Instr) : (s.at_ n i).poison = s.poison := rfl
@[simp] theorem State.at_full (s : State) (n : Nat) (i : Instr) : (s.at_ n i).full = s.full := rfl
@[simp] theorem State.at_slices (s : State) (n : Nat) (i : Instr) : (s.at_ n i).slices = s.slices := rfl
@[simp] theorem State.at_doms (s : State) (n : Nat) (i : Instr) : (s.at_ n i).doms = s.doms := rfl
@[simp] theorem State.at_tinvs (s : State) (n : Nat) (i : Instr) : (s.at_ n i).tinvs = s.tinvs := rfl
@[simp] theorem State.at_defers (s : State) (n : Nat) (i : Instr) : (s.at_ n i).defers = s.defers := rfl
@[simp] theorem State.at_migs (s : State) (n : Nat) (i : Instr) : (s.at_ n i).migs = s.migs := rfl
@[simp] theorem State.at_remotes (s : State) (n : Nat) (i : Instr) : (s.at_ n i).remotes = s.remotes := rfl
@[simp] theorem State.at_found (s : State) (n : Nat) (i : Instr) : (s.at_ n i).found = s.found := rfl
@[simp] theorem State.at_units (s : State) (n : Nat) (i : Instr) : (s.at_ n i).units = s.units := rfl
@[simp] theorem State.at_farHeld (s : State) (n : Nat) (i : Instr) : (s.at_ n i).farHeld = s.farHeld := rfl
@[simp] theorem State.at_farTokens (s : State) (n : Nat) (i : Instr) : (s.at_ n i).farTokens = s.farTokens := rfl
@[simp] theorem State.at_bases (s : State) (n : Nat) (i : Instr) : (s.at_ n i).bases = s.bases := rfl
@[simp] theorem State.at_injs (s : State) (n : Nat) (i : Instr) : (s.at_ n i).injs = s.injs := rfl
@[simp] theorem State.at_engines (s : State) (n : Nat) (i : Instr) : (s.at_ n i).engines = s.engines := rfl
@[simp] theorem State.at_queues (s : State) (n : Nat) (i : Instr) : (s.at_ n i).queues = s.queues := rfl
@[simp] theorem State.at_signals (s : State) (n : Nat) (i : Instr) : (s.at_ n i).signals = s.signals := rfl
@[simp] theorem State.at_launches (s : State) (n : Nat) (i : Instr) : (s.at_ n i).launches = s.launches := rfl
@[simp] theorem State.at_lids (s : State) (n : Nat) (i : Instr) : (s.at_ n i).lids = s.lids := rfl
@[simp] theorem State.at_pushes (s : State) (n : Nat) (i : Instr) : (s.at_ n i).pushes = s.pushes := rfl
@[simp] theorem State.at_reads (s : State) (n : Nat) (i : Instr) : (s.at_ n i).reads = s.reads := rfl
@[simp] theorem State.at_lastPlaced (s : State) (n : Nat) (i : Instr) : (s.at_ n i).lastPlaced = s.lastPlaced := rfl
@[simp] theorem State.at_cores (s : State) (n : Nat) (i : Instr) : (s.at_ n i).cores = s.cores := rfl
@[simp] theorem State.at_cports (s : State) (n : Nat) (i : Instr) : (s.at_ n i).cports = s.cports := rfl
@[simp] theorem State.at_xlinks (s : State) (n : Nat) (i : Instr) : (s.at_ n i).xlinks = s.xlinks := rfl
@[simp] theorem State.at_routeTab (s : State) (n : Nat) (i : Instr) : (s.at_ n i).routeTab = s.routeTab := rfl
@[simp] theorem State.at_windows (s : State) (n : Nat) (i : Instr) : (s.at_ n i).windows = s.windows := rfl
@[simp] theorem State.at_appends (s : State) (n : Nat) (i : Instr) : (s.at_ n i).appends = s.appends := rfl
@[simp] theorem State.at_rxMsg (s : State) (n : Nat) (i : Instr) : (s.at_ n i).rxMsg = s.rxMsg := rfl
@[simp] theorem State.at_sent (s : State) (n : Nat) (i : Instr) : (s.at_ n i).sent = s.sent := rfl
@[simp] theorem State.at_mboxes (s : State) (n : Nat) (i : Instr) : (s.at_ n i).mboxes = s.mboxes := rfl
@[simp] theorem State.at_summit (s : State) (n : Nat) (i : Instr) : (s.at_ n i).summit = s.summit := rfl
@[simp] theorem State.at_module (s : State) (n : Nat) (i : Instr) : (s.at_ n i).module = s.module := rfl
@[simp] theorem State.at_free (s : State) (n : Nat) (i : Instr) : (s.at_ n i).free = s.free := rfl
@[simp] theorem State.at_serial (s : State) (n : Nat) (i : Instr) : (s.at_ n i).serial = s.serial := rfl

/-! ## writeByte -/

@[simp] theorem State.writeByte_now (s : State) (a : Nat) (b : Byte) : (s.writeByte a b).now = s.now := rfl
@[simp] theorem State.writeByte_phase (s : State) (a : Nat) (b : Byte) : (s.writeByte a b).phase = s.phase := rfl
@[simp] theorem State.writeByte_agenda (s : State) (a : Nat) (b : Byte) : (s.writeByte a b).agenda = s.agenda := rfl
@[simp] theorem State.writeByte_chosen (s : State) (a : Nat) (b : Byte) : (s.writeByte a b).chosen = s.chosen := rfl
@[simp] theorem State.writeByte_cur (s : State) (a : Nat) (b : Byte) : (s.writeByte a b).cur = s.cur := rfl
@[simp] theorem State.writeByte_elems (s : State) (a : Nat) (b : Byte) : (s.writeByte a b).elems = s.elems := rfl
@[simp] theorem State.writeByte_groups (s : State) (a : Nat) (b : Byte) : (s.writeByte a b).groups = s.groups := rfl
@[simp] theorem State.writeByte_hubs (s : State) (a : Nat) (b : Byte) : (s.writeByte a b).hubs = s.hubs := rfl
@[simp] theorem State.writeByte_dies (s : State) (a : Nat) (b : Byte) : (s.writeByte a b).dies = s.dies := rfl
@[simp] theorem State.writeByte_links (s : State) (a : Nat) (b : Byte) : (s.writeByte a b).links = s.links := rfl
@[simp] theorem State.writeByte_banks (s : State) (a : Nat) (b : Byte) : (s.writeByte a b).banks = s.banks := rfl
@[simp] theorem State.writeByte_poison (s : State) (a : Nat) (b : Byte) : (s.writeByte a b).poison = s.poison := rfl
@[simp] theorem State.writeByte_full (s : State) (a : Nat) (b : Byte) : (s.writeByte a b).full = s.full := rfl
@[simp] theorem State.writeByte_slices (s : State) (a : Nat) (b : Byte) : (s.writeByte a b).slices = s.slices := rfl
@[simp] theorem State.writeByte_doms (s : State) (a : Nat) (b : Byte) : (s.writeByte a b).doms = s.doms := rfl
@[simp] theorem State.writeByte_tinvs (s : State) (a : Nat) (b : Byte) : (s.writeByte a b).tinvs = s.tinvs := rfl
@[simp] theorem State.writeByte_defers (s : State) (a : Nat) (b : Byte) : (s.writeByte a b).defers = s.defers := rfl
@[simp] theorem State.writeByte_migs (s : State) (a : Nat) (b : Byte) : (s.writeByte a b).migs = s.migs := rfl
@[simp] theorem State.writeByte_remotes (s : State) (a : Nat) (b : Byte) : (s.writeByte a b).remotes = s.remotes := rfl
@[simp] theorem State.writeByte_found (s : State) (a : Nat) (b : Byte) : (s.writeByte a b).found = s.found := rfl
@[simp] theorem State.writeByte_units (s : State) (a : Nat) (b : Byte) : (s.writeByte a b).units = s.units := rfl
@[simp] theorem State.writeByte_farHeld (s : State) (a : Nat) (b : Byte) : (s.writeByte a b).farHeld = s.farHeld := rfl
@[simp] theorem State.writeByte_farTokens (s : State) (a : Nat) (b : Byte) : (s.writeByte a b).farTokens = s.farTokens := rfl
@[simp] theorem State.writeByte_bases (s : State) (a : Nat) (b : Byte) : (s.writeByte a b).bases = s.bases := rfl
@[simp] theorem State.writeByte_injs (s : State) (a : Nat) (b : Byte) : (s.writeByte a b).injs = s.injs := rfl
@[simp] theorem State.writeByte_engines (s : State) (a : Nat) (b : Byte) : (s.writeByte a b).engines = s.engines := rfl
@[simp] theorem State.writeByte_queues (s : State) (a : Nat) (b : Byte) : (s.writeByte a b).queues = s.queues := rfl
@[simp] theorem State.writeByte_signals (s : State) (a : Nat) (b : Byte) : (s.writeByte a b).signals = s.signals := rfl
@[simp] theorem State.writeByte_launches (s : State) (a : Nat) (b : Byte) : (s.writeByte a b).launches = s.launches := rfl
@[simp] theorem State.writeByte_lids (s : State) (a : Nat) (b : Byte) : (s.writeByte a b).lids = s.lids := rfl
@[simp] theorem State.writeByte_pushes (s : State) (a : Nat) (b : Byte) : (s.writeByte a b).pushes = s.pushes := rfl
@[simp] theorem State.writeByte_reads (s : State) (a : Nat) (b : Byte) : (s.writeByte a b).reads = s.reads := rfl
@[simp] theorem State.writeByte_lastPlaced (s : State) (a : Nat) (b : Byte) : (s.writeByte a b).lastPlaced = s.lastPlaced := rfl
@[simp] theorem State.writeByte_cores (s : State) (a : Nat) (b : Byte) : (s.writeByte a b).cores = s.cores := rfl
@[simp] theorem State.writeByte_cports (s : State) (a : Nat) (b : Byte) : (s.writeByte a b).cports = s.cports := rfl
@[simp] theorem State.writeByte_xlinks (s : State) (a : Nat) (b : Byte) : (s.writeByte a b).xlinks = s.xlinks := rfl
@[simp] theorem State.writeByte_routeTab (s : State) (a : Nat) (b : Byte) : (s.writeByte a b).routeTab = s.routeTab := rfl
@[simp] theorem State.writeByte_windows (s : State) (a : Nat) (b : Byte) : (s.writeByte a b).windows = s.windows := rfl
@[simp] theorem State.writeByte_appends (s : State) (a : Nat) (b : Byte) : (s.writeByte a b).appends = s.appends := rfl
@[simp] theorem State.writeByte_rxMsg (s : State) (a : Nat) (b : Byte) : (s.writeByte a b).rxMsg = s.rxMsg := rfl
@[simp] theorem State.writeByte_sent (s : State) (a : Nat) (b : Byte) : (s.writeByte a b).sent = s.sent := rfl
@[simp] theorem State.writeByte_mboxes (s : State) (a : Nat) (b : Byte) : (s.writeByte a b).mboxes = s.mboxes := rfl
@[simp] theorem State.writeByte_summit (s : State) (a : Nat) (b : Byte) : (s.writeByte a b).summit = s.summit := rfl
@[simp] theorem State.writeByte_module (s : State) (a : Nat) (b : Byte) : (s.writeByte a b).module = s.module := rfl
@[simp] theorem State.writeByte_free (s : State) (a : Nat) (b : Byte) : (s.writeByte a b).free = s.free := rfl
@[simp] theorem State.writeByte_serial (s : State) (a : Nat) (b : Byte) : (s.writeByte a b).serial = s.serial := rfl

/-! ## setPoison -/

@[simp] theorem State.setPoison_now (s : State) (u : Nat) (p : Bool) : (s.setPoison u p).now = s.now := rfl
@[simp] theorem State.setPoison_phase (s : State) (u : Nat) (p : Bool) : (s.setPoison u p).phase = s.phase := rfl
@[simp] theorem State.setPoison_agenda (s : State) (u : Nat) (p : Bool) : (s.setPoison u p).agenda = s.agenda := rfl
@[simp] theorem State.setPoison_chosen (s : State) (u : Nat) (p : Bool) : (s.setPoison u p).chosen = s.chosen := rfl
@[simp] theorem State.setPoison_cur (s : State) (u : Nat) (p : Bool) : (s.setPoison u p).cur = s.cur := rfl
@[simp] theorem State.setPoison_elems (s : State) (u : Nat) (p : Bool) : (s.setPoison u p).elems = s.elems := rfl
@[simp] theorem State.setPoison_groups (s : State) (u : Nat) (p : Bool) : (s.setPoison u p).groups = s.groups := rfl
@[simp] theorem State.setPoison_hubs (s : State) (u : Nat) (p : Bool) : (s.setPoison u p).hubs = s.hubs := rfl
@[simp] theorem State.setPoison_dies (s : State) (u : Nat) (p : Bool) : (s.setPoison u p).dies = s.dies := rfl
@[simp] theorem State.setPoison_links (s : State) (u : Nat) (p : Bool) : (s.setPoison u p).links = s.links := rfl
@[simp] theorem State.setPoison_banks (s : State) (u : Nat) (p : Bool) : (s.setPoison u p).banks = s.banks := rfl
@[simp] theorem State.setPoison_mem (s : State) (u : Nat) (p : Bool) : (s.setPoison u p).mem = s.mem := rfl
@[simp] theorem State.setPoison_full (s : State) (u : Nat) (p : Bool) : (s.setPoison u p).full = s.full := rfl
@[simp] theorem State.setPoison_slices (s : State) (u : Nat) (p : Bool) : (s.setPoison u p).slices = s.slices := rfl
@[simp] theorem State.setPoison_doms (s : State) (u : Nat) (p : Bool) : (s.setPoison u p).doms = s.doms := rfl
@[simp] theorem State.setPoison_tinvs (s : State) (u : Nat) (p : Bool) : (s.setPoison u p).tinvs = s.tinvs := rfl
@[simp] theorem State.setPoison_defers (s : State) (u : Nat) (p : Bool) : (s.setPoison u p).defers = s.defers := rfl
@[simp] theorem State.setPoison_migs (s : State) (u : Nat) (p : Bool) : (s.setPoison u p).migs = s.migs := rfl
@[simp] theorem State.setPoison_remotes (s : State) (u : Nat) (p : Bool) : (s.setPoison u p).remotes = s.remotes := rfl
@[simp] theorem State.setPoison_found (s : State) (u : Nat) (p : Bool) : (s.setPoison u p).found = s.found := rfl
@[simp] theorem State.setPoison_units (s : State) (u : Nat) (p : Bool) : (s.setPoison u p).units = s.units := rfl
@[simp] theorem State.setPoison_farHeld (s : State) (u : Nat) (p : Bool) : (s.setPoison u p).farHeld = s.farHeld := rfl
@[simp] theorem State.setPoison_farTokens (s : State) (u : Nat) (p : Bool) : (s.setPoison u p).farTokens = s.farTokens := rfl
@[simp] theorem State.setPoison_bases (s : State) (u : Nat) (p : Bool) : (s.setPoison u p).bases = s.bases := rfl
@[simp] theorem State.setPoison_injs (s : State) (u : Nat) (p : Bool) : (s.setPoison u p).injs = s.injs := rfl
@[simp] theorem State.setPoison_engines (s : State) (u : Nat) (p : Bool) : (s.setPoison u p).engines = s.engines := rfl
@[simp] theorem State.setPoison_queues (s : State) (u : Nat) (p : Bool) : (s.setPoison u p).queues = s.queues := rfl
@[simp] theorem State.setPoison_signals (s : State) (u : Nat) (p : Bool) : (s.setPoison u p).signals = s.signals := rfl
@[simp] theorem State.setPoison_launches (s : State) (u : Nat) (p : Bool) : (s.setPoison u p).launches = s.launches := rfl
@[simp] theorem State.setPoison_lids (s : State) (u : Nat) (p : Bool) : (s.setPoison u p).lids = s.lids := rfl
@[simp] theorem State.setPoison_pushes (s : State) (u : Nat) (p : Bool) : (s.setPoison u p).pushes = s.pushes := rfl
@[simp] theorem State.setPoison_reads (s : State) (u : Nat) (p : Bool) : (s.setPoison u p).reads = s.reads := rfl
@[simp] theorem State.setPoison_lastPlaced (s : State) (u : Nat) (p : Bool) : (s.setPoison u p).lastPlaced = s.lastPlaced := rfl
@[simp] theorem State.setPoison_cores (s : State) (u : Nat) (p : Bool) : (s.setPoison u p).cores = s.cores := rfl
@[simp] theorem State.setPoison_cports (s : State) (u : Nat) (p : Bool) : (s.setPoison u p).cports = s.cports := rfl
@[simp] theorem State.setPoison_xlinks (s : State) (u : Nat) (p : Bool) : (s.setPoison u p).xlinks = s.xlinks := rfl
@[simp] theorem State.setPoison_routeTab (s : State) (u : Nat) (p : Bool) : (s.setPoison u p).routeTab = s.routeTab := rfl
@[simp] theorem State.setPoison_windows (s : State) (u : Nat) (p : Bool) : (s.setPoison u p).windows = s.windows := rfl
@[simp] theorem State.setPoison_appends (s : State) (u : Nat) (p : Bool) : (s.setPoison u p).appends = s.appends := rfl
@[simp] theorem State.setPoison_rxMsg (s : State) (u : Nat) (p : Bool) : (s.setPoison u p).rxMsg = s.rxMsg := rfl
@[simp] theorem State.setPoison_sent (s : State) (u : Nat) (p : Bool) : (s.setPoison u p).sent = s.sent := rfl
@[simp] theorem State.setPoison_mboxes (s : State) (u : Nat) (p : Bool) : (s.setPoison u p).mboxes = s.mboxes := rfl
@[simp] theorem State.setPoison_summit (s : State) (u : Nat) (p : Bool) : (s.setPoison u p).summit = s.summit := rfl
@[simp] theorem State.setPoison_module (s : State) (u : Nat) (p : Bool) : (s.setPoison u p).module = s.module := rfl
@[simp] theorem State.setPoison_free (s : State) (u : Nat) (p : Bool) : (s.setPoison u p).free = s.free := rfl
@[simp] theorem State.setPoison_serial (s : State) (u : Nat) (p : Bool) : (s.setPoison u p).serial = s.serial := rfl

/-! ## setFull -/

@[simp] theorem State.setFull_now (s : State) (u : Nat) (p : Bool) : (s.setFull u p).now = s.now := rfl
@[simp] theorem State.setFull_phase (s : State) (u : Nat) (p : Bool) : (s.setFull u p).phase = s.phase := rfl
@[simp] theorem State.setFull_agenda (s : State) (u : Nat) (p : Bool) : (s.setFull u p).agenda = s.agenda := rfl
@[simp] theorem State.setFull_chosen (s : State) (u : Nat) (p : Bool) : (s.setFull u p).chosen = s.chosen := rfl
@[simp] theorem State.setFull_cur (s : State) (u : Nat) (p : Bool) : (s.setFull u p).cur = s.cur := rfl
@[simp] theorem State.setFull_elems (s : State) (u : Nat) (p : Bool) : (s.setFull u p).elems = s.elems := rfl
@[simp] theorem State.setFull_groups (s : State) (u : Nat) (p : Bool) : (s.setFull u p).groups = s.groups := rfl
@[simp] theorem State.setFull_hubs (s : State) (u : Nat) (p : Bool) : (s.setFull u p).hubs = s.hubs := rfl
@[simp] theorem State.setFull_dies (s : State) (u : Nat) (p : Bool) : (s.setFull u p).dies = s.dies := rfl
@[simp] theorem State.setFull_links (s : State) (u : Nat) (p : Bool) : (s.setFull u p).links = s.links := rfl
@[simp] theorem State.setFull_banks (s : State) (u : Nat) (p : Bool) : (s.setFull u p).banks = s.banks := rfl
@[simp] theorem State.setFull_mem (s : State) (u : Nat) (p : Bool) : (s.setFull u p).mem = s.mem := rfl
@[simp] theorem State.setFull_poison (s : State) (u : Nat) (p : Bool) : (s.setFull u p).poison = s.poison := rfl
@[simp] theorem State.setFull_slices (s : State) (u : Nat) (p : Bool) : (s.setFull u p).slices = s.slices := rfl
@[simp] theorem State.setFull_doms (s : State) (u : Nat) (p : Bool) : (s.setFull u p).doms = s.doms := rfl
@[simp] theorem State.setFull_tinvs (s : State) (u : Nat) (p : Bool) : (s.setFull u p).tinvs = s.tinvs := rfl
@[simp] theorem State.setFull_defers (s : State) (u : Nat) (p : Bool) : (s.setFull u p).defers = s.defers := rfl
@[simp] theorem State.setFull_migs (s : State) (u : Nat) (p : Bool) : (s.setFull u p).migs = s.migs := rfl
@[simp] theorem State.setFull_remotes (s : State) (u : Nat) (p : Bool) : (s.setFull u p).remotes = s.remotes := rfl
@[simp] theorem State.setFull_found (s : State) (u : Nat) (p : Bool) : (s.setFull u p).found = s.found := rfl
@[simp] theorem State.setFull_units (s : State) (u : Nat) (p : Bool) : (s.setFull u p).units = s.units := rfl
@[simp] theorem State.setFull_farHeld (s : State) (u : Nat) (p : Bool) : (s.setFull u p).farHeld = s.farHeld := rfl
@[simp] theorem State.setFull_farTokens (s : State) (u : Nat) (p : Bool) : (s.setFull u p).farTokens = s.farTokens := rfl
@[simp] theorem State.setFull_bases (s : State) (u : Nat) (p : Bool) : (s.setFull u p).bases = s.bases := rfl
@[simp] theorem State.setFull_injs (s : State) (u : Nat) (p : Bool) : (s.setFull u p).injs = s.injs := rfl
@[simp] theorem State.setFull_engines (s : State) (u : Nat) (p : Bool) : (s.setFull u p).engines = s.engines := rfl
@[simp] theorem State.setFull_queues (s : State) (u : Nat) (p : Bool) : (s.setFull u p).queues = s.queues := rfl
@[simp] theorem State.setFull_signals (s : State) (u : Nat) (p : Bool) : (s.setFull u p).signals = s.signals := rfl
@[simp] theorem State.setFull_launches (s : State) (u : Nat) (p : Bool) : (s.setFull u p).launches = s.launches := rfl
@[simp] theorem State.setFull_lids (s : State) (u : Nat) (p : Bool) : (s.setFull u p).lids = s.lids := rfl
@[simp] theorem State.setFull_pushes (s : State) (u : Nat) (p : Bool) : (s.setFull u p).pushes = s.pushes := rfl
@[simp] theorem State.setFull_reads (s : State) (u : Nat) (p : Bool) : (s.setFull u p).reads = s.reads := rfl
@[simp] theorem State.setFull_lastPlaced (s : State) (u : Nat) (p : Bool) : (s.setFull u p).lastPlaced = s.lastPlaced := rfl
@[simp] theorem State.setFull_cores (s : State) (u : Nat) (p : Bool) : (s.setFull u p).cores = s.cores := rfl
@[simp] theorem State.setFull_cports (s : State) (u : Nat) (p : Bool) : (s.setFull u p).cports = s.cports := rfl
@[simp] theorem State.setFull_xlinks (s : State) (u : Nat) (p : Bool) : (s.setFull u p).xlinks = s.xlinks := rfl
@[simp] theorem State.setFull_routeTab (s : State) (u : Nat) (p : Bool) : (s.setFull u p).routeTab = s.routeTab := rfl
@[simp] theorem State.setFull_windows (s : State) (u : Nat) (p : Bool) : (s.setFull u p).windows = s.windows := rfl
@[simp] theorem State.setFull_appends (s : State) (u : Nat) (p : Bool) : (s.setFull u p).appends = s.appends := rfl
@[simp] theorem State.setFull_rxMsg (s : State) (u : Nat) (p : Bool) : (s.setFull u p).rxMsg = s.rxMsg := rfl
@[simp] theorem State.setFull_sent (s : State) (u : Nat) (p : Bool) : (s.setFull u p).sent = s.sent := rfl
@[simp] theorem State.setFull_mboxes (s : State) (u : Nat) (p : Bool) : (s.setFull u p).mboxes = s.mboxes := rfl
@[simp] theorem State.setFull_summit (s : State) (u : Nat) (p : Bool) : (s.setFull u p).summit = s.summit := rfl
@[simp] theorem State.setFull_module (s : State) (u : Nat) (p : Bool) : (s.setFull u p).module = s.module := rfl
@[simp] theorem State.setFull_free (s : State) (u : Nat) (p : Bool) : (s.setFull u p).free = s.free := rfl
@[simp] theorem State.setFull_serial (s : State) (u : Nat) (p : Bool) : (s.setFull u p).serial = s.serial := rfl

/-! ## setRlink -/

@[simp] theorem State.setRlink_now (s : State) (l : Nat) (x : RLink) : (s.setRlink l x).now = s.now := rfl
@[simp] theorem State.setRlink_phase (s : State) (l : Nat) (x : RLink) : (s.setRlink l x).phase = s.phase := rfl
@[simp] theorem State.setRlink_agenda (s : State) (l : Nat) (x : RLink) : (s.setRlink l x).agenda = s.agenda := rfl
@[simp] theorem State.setRlink_chosen (s : State) (l : Nat) (x : RLink) : (s.setRlink l x).chosen = s.chosen := rfl
@[simp] theorem State.setRlink_cur (s : State) (l : Nat) (x : RLink) : (s.setRlink l x).cur = s.cur := rfl
@[simp] theorem State.setRlink_elems (s : State) (l : Nat) (x : RLink) : (s.setRlink l x).elems = s.elems := rfl
@[simp] theorem State.setRlink_groups (s : State) (l : Nat) (x : RLink) : (s.setRlink l x).groups = s.groups := rfl
@[simp] theorem State.setRlink_hubs (s : State) (l : Nat) (x : RLink) : (s.setRlink l x).hubs = s.hubs := rfl
@[simp] theorem State.setRlink_dies (s : State) (l : Nat) (x : RLink) : (s.setRlink l x).dies = s.dies := rfl
@[simp] theorem State.setRlink_banks (s : State) (l : Nat) (x : RLink) : (s.setRlink l x).banks = s.banks := rfl
@[simp] theorem State.setRlink_mem (s : State) (l : Nat) (x : RLink) : (s.setRlink l x).mem = s.mem := rfl
@[simp] theorem State.setRlink_poison (s : State) (l : Nat) (x : RLink) : (s.setRlink l x).poison = s.poison := rfl
@[simp] theorem State.setRlink_full (s : State) (l : Nat) (x : RLink) : (s.setRlink l x).full = s.full := rfl
@[simp] theorem State.setRlink_slices (s : State) (l : Nat) (x : RLink) : (s.setRlink l x).slices = s.slices := rfl
@[simp] theorem State.setRlink_doms (s : State) (l : Nat) (x : RLink) : (s.setRlink l x).doms = s.doms := rfl
@[simp] theorem State.setRlink_tinvs (s : State) (l : Nat) (x : RLink) : (s.setRlink l x).tinvs = s.tinvs := rfl
@[simp] theorem State.setRlink_defers (s : State) (l : Nat) (x : RLink) : (s.setRlink l x).defers = s.defers := rfl
@[simp] theorem State.setRlink_migs (s : State) (l : Nat) (x : RLink) : (s.setRlink l x).migs = s.migs := rfl
@[simp] theorem State.setRlink_remotes (s : State) (l : Nat) (x : RLink) : (s.setRlink l x).remotes = s.remotes := rfl
@[simp] theorem State.setRlink_found (s : State) (l : Nat) (x : RLink) : (s.setRlink l x).found = s.found := rfl
@[simp] theorem State.setRlink_units (s : State) (l : Nat) (x : RLink) : (s.setRlink l x).units = s.units := rfl
@[simp] theorem State.setRlink_farHeld (s : State) (l : Nat) (x : RLink) : (s.setRlink l x).farHeld = s.farHeld := rfl
@[simp] theorem State.setRlink_farTokens (s : State) (l : Nat) (x : RLink) : (s.setRlink l x).farTokens = s.farTokens := rfl
@[simp] theorem State.setRlink_bases (s : State) (l : Nat) (x : RLink) : (s.setRlink l x).bases = s.bases := rfl
@[simp] theorem State.setRlink_injs (s : State) (l : Nat) (x : RLink) : (s.setRlink l x).injs = s.injs := rfl
@[simp] theorem State.setRlink_engines (s : State) (l : Nat) (x : RLink) : (s.setRlink l x).engines = s.engines := rfl
@[simp] theorem State.setRlink_queues (s : State) (l : Nat) (x : RLink) : (s.setRlink l x).queues = s.queues := rfl
@[simp] theorem State.setRlink_signals (s : State) (l : Nat) (x : RLink) : (s.setRlink l x).signals = s.signals := rfl
@[simp] theorem State.setRlink_launches (s : State) (l : Nat) (x : RLink) : (s.setRlink l x).launches = s.launches := rfl
@[simp] theorem State.setRlink_lids (s : State) (l : Nat) (x : RLink) : (s.setRlink l x).lids = s.lids := rfl
@[simp] theorem State.setRlink_pushes (s : State) (l : Nat) (x : RLink) : (s.setRlink l x).pushes = s.pushes := rfl
@[simp] theorem State.setRlink_reads (s : State) (l : Nat) (x : RLink) : (s.setRlink l x).reads = s.reads := rfl
@[simp] theorem State.setRlink_lastPlaced (s : State) (l : Nat) (x : RLink) : (s.setRlink l x).lastPlaced = s.lastPlaced := rfl
@[simp] theorem State.setRlink_cores (s : State) (l : Nat) (x : RLink) : (s.setRlink l x).cores = s.cores := rfl
@[simp] theorem State.setRlink_cports (s : State) (l : Nat) (x : RLink) : (s.setRlink l x).cports = s.cports := rfl
@[simp] theorem State.setRlink_xlinks (s : State) (l : Nat) (x : RLink) : (s.setRlink l x).xlinks = s.xlinks := rfl
@[simp] theorem State.setRlink_routeTab (s : State) (l : Nat) (x : RLink) : (s.setRlink l x).routeTab = s.routeTab := rfl
@[simp] theorem State.setRlink_windows (s : State) (l : Nat) (x : RLink) : (s.setRlink l x).windows = s.windows := rfl
@[simp] theorem State.setRlink_appends (s : State) (l : Nat) (x : RLink) : (s.setRlink l x).appends = s.appends := rfl
@[simp] theorem State.setRlink_rxMsg (s : State) (l : Nat) (x : RLink) : (s.setRlink l x).rxMsg = s.rxMsg := rfl
@[simp] theorem State.setRlink_sent (s : State) (l : Nat) (x : RLink) : (s.setRlink l x).sent = s.sent := rfl
@[simp] theorem State.setRlink_mboxes (s : State) (l : Nat) (x : RLink) : (s.setRlink l x).mboxes = s.mboxes := rfl
@[simp] theorem State.setRlink_summit (s : State) (l : Nat) (x : RLink) : (s.setRlink l x).summit = s.summit := rfl
@[simp] theorem State.setRlink_module (s : State) (l : Nat) (x : RLink) : (s.setRlink l x).module = s.module := rfl
@[simp] theorem State.setRlink_free (s : State) (l : Nat) (x : RLink) : (s.setRlink l x).free = s.free := rfl
@[simp] theorem State.setRlink_serial (s : State) (l : Nat) (x : RLink) : (s.setRlink l x).serial = s.serial := rfl

/-! ## modHub -/

@[simp] theorem State.modHub_now (s : State) (t : Nat) (f : Hub → Hub) : (s.modHub t f).now = s.now := rfl
@[simp] theorem State.modHub_phase (s : State) (t : Nat) (f : Hub → Hub) : (s.modHub t f).phase = s.phase := rfl
@[simp] theorem State.modHub_agenda (s : State) (t : Nat) (f : Hub → Hub) : (s.modHub t f).agenda = s.agenda := rfl
@[simp] theorem State.modHub_chosen (s : State) (t : Nat) (f : Hub → Hub) : (s.modHub t f).chosen = s.chosen := rfl
@[simp] theorem State.modHub_cur (s : State) (t : Nat) (f : Hub → Hub) : (s.modHub t f).cur = s.cur := rfl
@[simp] theorem State.modHub_elems (s : State) (t : Nat) (f : Hub → Hub) : (s.modHub t f).elems = s.elems := rfl
@[simp] theorem State.modHub_groups (s : State) (t : Nat) (f : Hub → Hub) : (s.modHub t f).groups = s.groups := rfl
@[simp] theorem State.modHub_dies (s : State) (t : Nat) (f : Hub → Hub) : (s.modHub t f).dies = s.dies := rfl
@[simp] theorem State.modHub_links (s : State) (t : Nat) (f : Hub → Hub) : (s.modHub t f).links = s.links := rfl
@[simp] theorem State.modHub_banks (s : State) (t : Nat) (f : Hub → Hub) : (s.modHub t f).banks = s.banks := rfl
@[simp] theorem State.modHub_mem (s : State) (t : Nat) (f : Hub → Hub) : (s.modHub t f).mem = s.mem := rfl
@[simp] theorem State.modHub_poison (s : State) (t : Nat) (f : Hub → Hub) : (s.modHub t f).poison = s.poison := rfl
@[simp] theorem State.modHub_full (s : State) (t : Nat) (f : Hub → Hub) : (s.modHub t f).full = s.full := rfl
@[simp] theorem State.modHub_slices (s : State) (t : Nat) (f : Hub → Hub) : (s.modHub t f).slices = s.slices := rfl
@[simp] theorem State.modHub_doms (s : State) (t : Nat) (f : Hub → Hub) : (s.modHub t f).doms = s.doms := rfl
@[simp] theorem State.modHub_tinvs (s : State) (t : Nat) (f : Hub → Hub) : (s.modHub t f).tinvs = s.tinvs := rfl
@[simp] theorem State.modHub_defers (s : State) (t : Nat) (f : Hub → Hub) : (s.modHub t f).defers = s.defers := rfl
@[simp] theorem State.modHub_migs (s : State) (t : Nat) (f : Hub → Hub) : (s.modHub t f).migs = s.migs := rfl
@[simp] theorem State.modHub_remotes (s : State) (t : Nat) (f : Hub → Hub) : (s.modHub t f).remotes = s.remotes := rfl
@[simp] theorem State.modHub_found (s : State) (t : Nat) (f : Hub → Hub) : (s.modHub t f).found = s.found := rfl
@[simp] theorem State.modHub_units (s : State) (t : Nat) (f : Hub → Hub) : (s.modHub t f).units = s.units := rfl
@[simp] theorem State.modHub_farHeld (s : State) (t : Nat) (f : Hub → Hub) : (s.modHub t f).farHeld = s.farHeld := rfl
@[simp] theorem State.modHub_farTokens (s : State) (t : Nat) (f : Hub → Hub) : (s.modHub t f).farTokens = s.farTokens := rfl
@[simp] theorem State.modHub_bases (s : State) (t : Nat) (f : Hub → Hub) : (s.modHub t f).bases = s.bases := rfl
@[simp] theorem State.modHub_injs (s : State) (t : Nat) (f : Hub → Hub) : (s.modHub t f).injs = s.injs := rfl
@[simp] theorem State.modHub_engines (s : State) (t : Nat) (f : Hub → Hub) : (s.modHub t f).engines = s.engines := rfl
@[simp] theorem State.modHub_queues (s : State) (t : Nat) (f : Hub → Hub) : (s.modHub t f).queues = s.queues := rfl
@[simp] theorem State.modHub_signals (s : State) (t : Nat) (f : Hub → Hub) : (s.modHub t f).signals = s.signals := rfl
@[simp] theorem State.modHub_launches (s : State) (t : Nat) (f : Hub → Hub) : (s.modHub t f).launches = s.launches := rfl
@[simp] theorem State.modHub_lids (s : State) (t : Nat) (f : Hub → Hub) : (s.modHub t f).lids = s.lids := rfl
@[simp] theorem State.modHub_pushes (s : State) (t : Nat) (f : Hub → Hub) : (s.modHub t f).pushes = s.pushes := rfl
@[simp] theorem State.modHub_reads (s : State) (t : Nat) (f : Hub → Hub) : (s.modHub t f).reads = s.reads := rfl
@[simp] theorem State.modHub_lastPlaced (s : State) (t : Nat) (f : Hub → Hub) : (s.modHub t f).lastPlaced = s.lastPlaced := rfl
@[simp] theorem State.modHub_cores (s : State) (t : Nat) (f : Hub → Hub) : (s.modHub t f).cores = s.cores := rfl
@[simp] theorem State.modHub_cports (s : State) (t : Nat) (f : Hub → Hub) : (s.modHub t f).cports = s.cports := rfl
@[simp] theorem State.modHub_xlinks (s : State) (t : Nat) (f : Hub → Hub) : (s.modHub t f).xlinks = s.xlinks := rfl
@[simp] theorem State.modHub_routeTab (s : State) (t : Nat) (f : Hub → Hub) : (s.modHub t f).routeTab = s.routeTab := rfl
@[simp] theorem State.modHub_windows (s : State) (t : Nat) (f : Hub → Hub) : (s.modHub t f).windows = s.windows := rfl
@[simp] theorem State.modHub_appends (s : State) (t : Nat) (f : Hub → Hub) : (s.modHub t f).appends = s.appends := rfl
@[simp] theorem State.modHub_rxMsg (s : State) (t : Nat) (f : Hub → Hub) : (s.modHub t f).rxMsg = s.rxMsg := rfl
@[simp] theorem State.modHub_sent (s : State) (t : Nat) (f : Hub → Hub) : (s.modHub t f).sent = s.sent := rfl
@[simp] theorem State.modHub_mboxes (s : State) (t : Nat) (f : Hub → Hub) : (s.modHub t f).mboxes = s.mboxes := rfl
@[simp] theorem State.modHub_summit (s : State) (t : Nat) (f : Hub → Hub) : (s.modHub t f).summit = s.summit := rfl
@[simp] theorem State.modHub_module (s : State) (t : Nat) (f : Hub → Hub) : (s.modHub t f).module = s.module := rfl
@[simp] theorem State.modHub_free (s : State) (t : Nat) (f : Hub → Hub) : (s.modHub t f).free = s.free := rfl
@[simp] theorem State.modHub_serial (s : State) (t : Nat) (f : Hub → Hub) : (s.modHub t f).serial = s.serial := rfl

/-! ## setBank -/

@[simp] theorem State.setBank_now (s : State) (n : Nat) (x : Bank) : (s.setBank n x).now = s.now := rfl
@[simp] theorem State.setBank_phase (s : State) (n : Nat) (x : Bank) : (s.setBank n x).phase = s.phase := rfl
@[simp] theorem State.setBank_agenda (s : State) (n : Nat) (x : Bank) : (s.setBank n x).agenda = s.agenda := rfl
@[simp] theorem State.setBank_chosen (s : State) (n : Nat) (x : Bank) : (s.setBank n x).chosen = s.chosen := rfl
@[simp] theorem State.setBank_cur (s : State) (n : Nat) (x : Bank) : (s.setBank n x).cur = s.cur := rfl
@[simp] theorem State.setBank_elems (s : State) (n : Nat) (x : Bank) : (s.setBank n x).elems = s.elems := rfl
@[simp] theorem State.setBank_groups (s : State) (n : Nat) (x : Bank) : (s.setBank n x).groups = s.groups := rfl
@[simp] theorem State.setBank_hubs (s : State) (n : Nat) (x : Bank) : (s.setBank n x).hubs = s.hubs := rfl
@[simp] theorem State.setBank_dies (s : State) (n : Nat) (x : Bank) : (s.setBank n x).dies = s.dies := rfl
@[simp] theorem State.setBank_links (s : State) (n : Nat) (x : Bank) : (s.setBank n x).links = s.links := rfl
@[simp] theorem State.setBank_mem (s : State) (n : Nat) (x : Bank) : (s.setBank n x).mem = s.mem := rfl
@[simp] theorem State.setBank_poison (s : State) (n : Nat) (x : Bank) : (s.setBank n x).poison = s.poison := rfl
@[simp] theorem State.setBank_full (s : State) (n : Nat) (x : Bank) : (s.setBank n x).full = s.full := rfl
@[simp] theorem State.setBank_slices (s : State) (n : Nat) (x : Bank) : (s.setBank n x).slices = s.slices := rfl
@[simp] theorem State.setBank_doms (s : State) (n : Nat) (x : Bank) : (s.setBank n x).doms = s.doms := rfl
@[simp] theorem State.setBank_tinvs (s : State) (n : Nat) (x : Bank) : (s.setBank n x).tinvs = s.tinvs := rfl
@[simp] theorem State.setBank_defers (s : State) (n : Nat) (x : Bank) : (s.setBank n x).defers = s.defers := rfl
@[simp] theorem State.setBank_migs (s : State) (n : Nat) (x : Bank) : (s.setBank n x).migs = s.migs := rfl
@[simp] theorem State.setBank_remotes (s : State) (n : Nat) (x : Bank) : (s.setBank n x).remotes = s.remotes := rfl
@[simp] theorem State.setBank_found (s : State) (n : Nat) (x : Bank) : (s.setBank n x).found = s.found := rfl
@[simp] theorem State.setBank_units (s : State) (n : Nat) (x : Bank) : (s.setBank n x).units = s.units := rfl
@[simp] theorem State.setBank_farHeld (s : State) (n : Nat) (x : Bank) : (s.setBank n x).farHeld = s.farHeld := rfl
@[simp] theorem State.setBank_farTokens (s : State) (n : Nat) (x : Bank) : (s.setBank n x).farTokens = s.farTokens := rfl
@[simp] theorem State.setBank_bases (s : State) (n : Nat) (x : Bank) : (s.setBank n x).bases = s.bases := rfl
@[simp] theorem State.setBank_injs (s : State) (n : Nat) (x : Bank) : (s.setBank n x).injs = s.injs := rfl
@[simp] theorem State.setBank_engines (s : State) (n : Nat) (x : Bank) : (s.setBank n x).engines = s.engines := rfl
@[simp] theorem State.setBank_queues (s : State) (n : Nat) (x : Bank) : (s.setBank n x).queues = s.queues := rfl
@[simp] theorem State.setBank_signals (s : State) (n : Nat) (x : Bank) : (s.setBank n x).signals = s.signals := rfl
@[simp] theorem State.setBank_launches (s : State) (n : Nat) (x : Bank) : (s.setBank n x).launches = s.launches := rfl
@[simp] theorem State.setBank_lids (s : State) (n : Nat) (x : Bank) : (s.setBank n x).lids = s.lids := rfl
@[simp] theorem State.setBank_pushes (s : State) (n : Nat) (x : Bank) : (s.setBank n x).pushes = s.pushes := rfl
@[simp] theorem State.setBank_reads (s : State) (n : Nat) (x : Bank) : (s.setBank n x).reads = s.reads := rfl
@[simp] theorem State.setBank_lastPlaced (s : State) (n : Nat) (x : Bank) : (s.setBank n x).lastPlaced = s.lastPlaced := rfl
@[simp] theorem State.setBank_cores (s : State) (n : Nat) (x : Bank) : (s.setBank n x).cores = s.cores := rfl
@[simp] theorem State.setBank_cports (s : State) (n : Nat) (x : Bank) : (s.setBank n x).cports = s.cports := rfl
@[simp] theorem State.setBank_xlinks (s : State) (n : Nat) (x : Bank) : (s.setBank n x).xlinks = s.xlinks := rfl
@[simp] theorem State.setBank_routeTab (s : State) (n : Nat) (x : Bank) : (s.setBank n x).routeTab = s.routeTab := rfl
@[simp] theorem State.setBank_windows (s : State) (n : Nat) (x : Bank) : (s.setBank n x).windows = s.windows := rfl
@[simp] theorem State.setBank_appends (s : State) (n : Nat) (x : Bank) : (s.setBank n x).appends = s.appends := rfl
@[simp] theorem State.setBank_rxMsg (s : State) (n : Nat) (x : Bank) : (s.setBank n x).rxMsg = s.rxMsg := rfl
@[simp] theorem State.setBank_sent (s : State) (n : Nat) (x : Bank) : (s.setBank n x).sent = s.sent := rfl
@[simp] theorem State.setBank_mboxes (s : State) (n : Nat) (x : Bank) : (s.setBank n x).mboxes = s.mboxes := rfl
@[simp] theorem State.setBank_summit (s : State) (n : Nat) (x : Bank) : (s.setBank n x).summit = s.summit := rfl
@[simp] theorem State.setBank_module (s : State) (n : Nat) (x : Bank) : (s.setBank n x).module = s.module := rfl
@[simp] theorem State.setBank_free (s : State) (n : Nat) (x : Bank) : (s.setBank n x).free = s.free := rfl
@[simp] theorem State.setBank_serial (s : State) (n : Nat) (x : Bank) : (s.setBank n x).serial = s.serial := rfl

end Sys2Proof.Machine
end

