-- ==== Sys2Proof/Laws/Memory.lean ====
section
/-! SUPPORT. The laws of memory: what a read sees after each write, and that every memory operation keeps the canonical form
(`Memory.wf`) and with it the invariant (`State.Inv`). -/

namespace Sys2Proof.Machine

/-! ## Sparse tables: filters, maps and folds keep the canonical form -/

theorem tabove_filter {α : Type} [DecidableEq α] (d : α) (p : Nat × α → Bool) {b : Nat} {m : Map α} (hb : tabove b m = true)
    (hw : twf d m = true) : tabove b (m.filter p) = true := by
  induction m generalizing b with
  | nil => rfl
  | cons x m ih =>
    obtain ⟨k, v⟩ := x
    obtain ⟨_, h2, h3⟩ := twf_cons.mp hw
    simp only [tabove, decide_eq_true_eq] at hb
    by_cases hp : p (k, v)
    · simp [hp, tabove, hb]
    · simp only [List.filter_cons, hp]
      exact ih (tabove_trans (by omega) h2) h3

theorem twf_filter {α : Type} [DecidableEq α] (d : α) (p : Nat × α → Bool) {m : Map α} (h : twf d m = true) :
    twf d (m.filter p) = true := by
  induction m with
  | nil => rfl
  | cons x m ih =>
    obtain ⟨k, v⟩ := x
    obtain ⟨h1, h2, h3⟩ := twf_cons.mp h
    by_cases hp : p (k, v)
    · simp only [List.filter_cons, hp, if_true]
      exact twf_cons.mpr ⟨h1, tabove_filter d p h2 h3, ih h3⟩
    · simp only [List.filter_cons, hp]
      exact ih h3

theorem tabove_tmap {α : Type} [DecidableEq α] (d : α) (f : Nat → α → α) {b : Nat} {m : Map α} (hb : tabove b m = true)
    (hw : twf d m = true) : tabove b (tmap d f m) = true := by
  induction m generalizing b with
  | nil => rfl
  | cons x m ih =>
    obtain ⟨k, v⟩ := x
    obtain ⟨_, h2, h3⟩ := twf_cons.mp hw
    simp only [tabove, decide_eq_true_eq] at hb
    by_cases hp : f k v = d
    · simp only [tmap, List.filterMap_cons, hp, if_true]
      exact ih (tabove_trans (by omega) h2) h3
    · simp [tmap, hp, tabove, hb]

theorem twf_tmap {α : Type} [DecidableEq α] (d : α) (f : Nat → α → α) {m : Map α} (h : twf d m = true) :
    twf d (tmap d f m) = true := by
  induction m with
  | nil => rfl
  | cons x m ih =>
    obtain ⟨k, v⟩ := x
    obtain ⟨h1, h2, h3⟩ := twf_cons.mp h
    by_cases hp : f k v = d
    · simp only [tmap, List.filterMap_cons, hp, if_true]
      exact ih h3
    · simp only [tmap, List.filterMap_cons, hp, if_false]
      exact twf_cons.mpr ⟨hp, tabove_tmap d f h2 h3, ih h3⟩

theorem twf_foldl {α β : Type} [DecidableEq α] (d : α) (f : Map α → β → Map α) (l : List β) {m : Map α}
    (hf : ∀ m x, twf d m = true → twf d (f m x) = true) (h : twf d m = true) : twf d (l.foldl f m) = true := by
  induction l generalizing m with
  | nil => exact h
  | cons x l ih => exact ih (hf _ _ h)

/-- A property of states that each turn of a fold keeps, the fold keeps. -/
theorem State.foldl_keeps {β : Type} (P : State → Prop) (f : State → β → State) (l : List β) {s : State}
    (hf : ∀ s x, P s → P (f s x)) (h : P s) : P (l.foldl f s) := by
  induction l generalizing s with
  | nil => exact h
  | cons x l ih => exact ih (hf _ _ h)

/-! ## A byte -/

theorem State.readByte_writeByte (s : State) (a x : Nat) (b : Byte) :
    (s.writeByte a b).readByte x = if x = a then b else s.readByte x := tget_tput ..

/-- A read of the byte just written gives it. -/
@[simp] theorem State.readByte_writeByte_same (s : State) (a : Nat) (b : Byte) : (s.writeByte a b).readByte a = b :=
  tget_tput_same ..

/-- A write of a byte leaves every other byte alone. -/
@[simp] theorem State.readByte_writeByte_ne (s : State) {a x : Nat} (b : Byte) (h : x ≠ a) :
    (s.writeByte a b).readByte x = s.readByte x := tget_tput_ne _ _ _ _ _ h

theorem State.wf_writeByte {s : State} (h : Memory.wf s.mem = true) (a : Nat) (b : Byte) :
    Memory.wf (s.writeByte a b).mem = true := twf_tput _ _ _ h

/-! ## Little-endian numbers (R3) -/

/-- A write of `n` bytes leaves every byte outside them alone. -/
theorem State.readByte_writeNat_out (s : State) {a x : Nat} (n v : Nat) (h : x < a ∨ a + n ≤ x) :
    (s.writeNat a n v).readByte x = s.readByte x := by
  induction n generalizing s a v with
  | zero => rfl
  | succ n ih => rw [State.writeNat, ih _ _ (by omega), State.readByte_writeByte_ne _ _ (by omega)]

/-- Byte `i` of the `n` bytes written is byte `i` of the number, the least significant first. -/
theorem State.readByte_writeNat_in (s : State) (a v : Nat) {n i : Nat} (h : i < n) :
    (s.writeNat a n v).readByte (a + i) = BitVec.ofNat 8 (v / 256 ^ i) := by
  induction n generalizing s a v i with
  | zero => omega
  | succ n ih =>
    rw [State.writeNat]
    cases i with
    | zero => rw [State.readByte_writeNat_out _ _ _ (by omega)]; simp
    | succ i =>
      rw [show a + (i + 1) = a + 1 + i by omega, ih _ _ _ (by omega), Nat.div_div_eq_div_mul, pow_succ']

/-- A read of bytes that agree in two states gives one number. -/
theorem State.readNat_congr {s t : State} {a n : Nat} (h : ∀ x, a ≤ x → x < a + n → s.readByte x = t.readByte x) :
    s.readNat a n = t.readNat a n := by
  induction n generalizing a with
  | zero => rfl
  | succ n ih =>
    rw [State.readNat, State.readNat, h a (by omega) (by omega), ih (fun x _ _ => h x (by omega) (by omega))]

/-- A read of the `n` bytes just written gives the number, cut to `n` bytes. -/
@[simp] theorem State.readNat_writeNat_same (s : State) (a n v : Nat) : (s.writeNat a n v).readNat a n = v % 256 ^ n := by
  induction n generalizing s a v with
  | zero => simp [State.readNat, Nat.mod_one]
  | succ n ih =>
    rw [State.writeNat, State.readNat, ih, State.readByte_writeNat_out _ _ _ (by omega), State.readByte_writeByte_same,
      pow_succ', Nat.mod_mul]
    simp

/-- A write of `n` bytes leaves every other number alone. -/
theorem State.readNat_writeNat_out (s : State) {a x m : Nat} (n v : Nat) (h : x + m ≤ a ∨ a + n ≤ x) :
    (s.writeNat a n v).readNat x m = s.readNat x m :=
  State.readNat_congr fun _ _ _ => State.readByte_writeNat_out _ _ _ (by omega)

/-- A read of the word just written gives it. -/
@[simp] theorem State.read64_write64_same (s : State) (a : Nat) (v : Word) : (s.write64 a v).read64 a = v := by
  apply BitVec.eq_of_toNat_eq
  have := v.isLt
  simp only [State.read64, State.write64, State.readNat_writeNat_same, BitVec.toNat_ofNat]
  omega

/-- A write of a word leaves every word outside it alone. -/
theorem State.read64_write64_out (s : State) {a x : Nat} (v : Word) (h : x + 8 ≤ a ∨ a + 8 ≤ x) :
    (s.write64 a v).read64 x = s.read64 x := by
  simp only [State.read64, State.write64, State.readNat_writeNat_out s 8 _ h]

theorem State.wf_writeNat {s : State} (h : Memory.wf s.mem = true) (a n v : Nat) :
    Memory.wf (s.writeNat a n v).mem = true := by
  induction n generalizing s a v with
  | zero => exact h
  | succ n ih => exact ih (State.wf_writeByte h ..) ..

theorem State.wf_write64 {s : State} (h : Memory.wf s.mem = true) (a : Nat) (v : Word) :
    Memory.wf (s.write64 a v).mem = true := by
  unfold State.write64
  exact State.wf_writeNat h ..

theorem State.wf_storeUnit {s : State} (h : Memory.wf s.mem = true) (a : Nat) (v : Word) :
    Memory.wf (s.storeUnit a v).mem = true := by
  have hm : ∀ u p (t : State), (t.setPoison u p).mem = t.mem := fun _ _ _ => rfl
  rw [State.storeUnit, hm]
  exact State.wf_write64 h ..

/-! ## Lists of bytes -/

/-- A write of a list of bytes leaves every byte outside it alone. -/
theorem State.readByte_writeBytes_out (s : State) {a x : Nat} (l : List Byte) (h : x < a ∨ a + l.length ≤ x) :
    (s.writeBytes a l).readByte x = s.readByte x := by
  induction l generalizing s a with
  | nil => rfl
  | cons b l ih =>
    simp only [List.length_cons] at h
    rw [State.writeBytes, ih _ (by omega), State.readByte_writeByte_ne _ _ (by omega)]

/-- A read inside a list of bytes just written gives its byte. -/
theorem State.readByte_writeBytes_in (s : State) (a : Nat) (l : List Byte) {i : Nat} (h : i < l.length) :
    (s.writeBytes a l).readByte (a + i) = l[i] := by
  induction l generalizing s a i with
  | nil => simp at h
  | cons b l ih =>
    rw [State.writeBytes]
    cases i with
    | zero => rw [State.readByte_writeBytes_out _ _ (by omega)]; simp
    | succ i =>
      simp only [List.length_cons] at h
      rw [show a + (i + 1) = a + 1 + i by omega, ih _ _ (by omega)]
      simp

/-- A read of the bytes just written gives them. -/
@[simp] theorem State.readBytes_writeBytes_same (s : State) (a : Nat) (l : List Byte) :
    (s.writeBytes a l).readBytes a l.length = l := by
  apply List.ext_getElem
  · simp [State.readBytes]
  · intro i _ h
    simp [State.readBytes, State.readByte_writeBytes_in s a l h]

theorem State.wf_writeBytes {s : State} (h : Memory.wf s.mem = true) (a : Nat) (l : List Byte) :
    Memory.wf (s.writeBytes a l).mem = true := by
  induction l generalizing s a with
  | nil => exact h
  | cons b l ih => exact ih (State.wf_writeByte h ..) ..

theorem State.wf_writeGranule {s : State} (h : Memory.wf s.mem = true) (a : Nat) (l : List (Nat × Bool)) :
    Memory.wf (s.writeGranule a l).mem = true := by
  induction l generalizing s a with
  | nil => exact h
  | cons x l ih =>
    unfold State.writeGranule
    apply ih
    exact State.wf_writeNat h ..

/-! ## Clearing and copying -/

/-- Bytes cleared read 0; the others read as before (R190). -/
theorem State.readByte_zeroBytes (s : State) (a n x : Nat) :
    (s.zeroBytes a n).readByte x = if a ≤ x ∧ x < a + n then 0 else s.readByte x := by
  have key : ∀ m : Map Byte, tget memDefault x (m.filter (fun c => c.1 < a || a + n ≤ c.1)) =
      if a ≤ x ∧ x < a + n then 0 else tget memDefault x m := by
    intro m
    induction m with
    | nil => simp [tget]
    | cons p m ih =>
      obtain ⟨k, v⟩ := p
      by_cases hp : k < a ∨ a + n ≤ k
      · have hp' : (decide (k < a) || decide (a + n ≤ k)) = true := by simpa using hp
        simp only [List.filter_cons, hp', if_true, tget, beq_iff_eq, ih]
        by_cases hx : x = k
        · subst hx; rw [if_pos rfl, if_neg (by omega), if_pos rfl]
        · simp [hx]
      · have hp' : (decide (k < a) || decide (a + n ≤ k)) = false := by simpa using hp
        simp only [List.filter_cons, hp', tget, beq_iff_eq]
        by_cases hx : x = k
        · subst hx; simp only [Bool.false_eq_true, if_false, ih]; rw [if_pos (by omega), if_pos (by omega)]
        · simp only [Bool.false_eq_true, if_false, hx, ih]
  exact key s.mem

theorem State.wf_zeroBytes {s : State} (h : Memory.wf s.mem = true) (a n : Nat) :
    Memory.wf (s.zeroBytes a n).mem = true := twf_filter _ _ h

theorem State.wf_zeroCarves {s : State} (h : Memory.wf s.mem = true) (tile : Nat) :
    Memory.wf (s.zeroCarves tile).mem = true :=
  State.foldl_keeps (fun s => Memory.wf s.mem = true) _ _ (fun _ _ hs => State.wf_zeroBytes hs ..) h

theorem State.wf_clearWindows {s : State} (h : Memory.wf s.mem = true) : Memory.wf s.clearWindows.mem = true :=
  twf_filter _ _ h

theorem State.wf_moduleReset {s : State} (h : Memory.wf s.mem = true) (cold : Bool) :
    Memory.wf (s.moduleReset cold).mem = true := by
  cases cold
  · exact twf_filter _ _ h
  · rfl

theorem State.logUnit_keeps (s : State) (a type : Nat) (inj : Bool) :
    (s.logUnit a type inj).mem = s.mem ∧ (s.logUnit a type inj).elems = s.elems := by
  unfold State.logUnit State.logBase
  split <;> exact ⟨rfl, rfl⟩

/-- Meeting a unit changes marks, logs and injections alone. -/
theorem State.touch_keeps (s : State) (a : Nat) : (s.touch a).mem = s.mem ∧ (s.touch a).elems = s.elems := by
  unfold State.touch State.takeInj
  dsimp only
  split
  · rename_i h
    split at h
    · cases h
    · cases h; exact ⟨rfl, rfl⟩
  · rename_i h
    split at h
    · cases h
      split
      · exact State.logUnit_keeps ..
      · exact State.logUnit_keeps ..
    · cases h

/-- The cells of an append, as R357 copies them, over those kept. -/
theorem wf_appendCells {m : List Host.Cell} (h : Memory.wf m = true) (src dst : Nat) :
    Memory.wf ((m.filter (fun c => c.1 / 4096 == src / 4096)).foldl
      (fun (m : Map Byte) (c : Host.Cell) => tput memDefault (dst + c.1 % 4096) c.2 m)
      (m.filter (fun c => c.1 / 4096 != dst / 4096))) = true :=
  twf_foldl _ _ _ (fun _ _ hm => twf_tput _ _ _ hm) (twf_filter _ _ h)

/-- The memory of the machine after reset lists nothing. -/
theorem State.wf_reset : Memory.wf State.reset.mem = true := rfl

/-! ## The invariant -/

/-- What changes neither memory nor the table of elements keeps the invariant. -/
theorem State.Inv.of_eq {s t : State} (h : s.Inv) (hm : t.mem = s.mem) (he : t.elems = s.elems) : t.Inv := by
  unfold State.Inv
  rw [hm, he]
  exact h

theorem State.Inv.setElem {s : State} (h : s.Inv) (ea : Nat) (e : Elem) : (s.setElem ea e).Inv :=
  ⟨h.1, twf_tput _ _ _ h.2⟩
theorem State.Inv.modElem {s : State} (h : s.Inv) (ea : Nat) (f : Elem → Elem) : (s.modElem ea f).Inv := h.setElem ..
theorem State.Inv.setGroup {s : State} (h : s.Inv) (n : Nat) (g : Group) : (s.setGroup n g).Inv := h
theorem State.Inv.modGroup {s : State} (h : s.Inv) (n : Nat) (f : Group → Group) : (s.modGroup n f).Inv := h
theorem State.Inv.modDie {s : State} (h : s.Inv) (n : Nat) (f : Die → Die) : (s.modDie n f).Inv := h
theorem State.Inv.bump {s : State} (h : s.Inv) : s.bump.Inv := h
theorem State.Inv.at_ {s : State} (h : s.Inv) (n : Nat) (i : Instr) : (s.at_ n i).Inv := h
theorem State.Inv.after {s : State} (h : s.Inv) (n : Nat) (i : Instr) : (s.after n i).Inv := h
theorem State.Inv.setPoison {s : State} (h : s.Inv) (u : Nat) (p : Bool) : (s.setPoison u p).Inv := h
theorem State.Inv.setFull {s : State} (h : s.Inv) (u : Nat) (p : Bool) : (s.setFull u p).Inv := h
theorem State.Inv.writeByte {s : State} (h : s.Inv) (a : Nat) (b : Byte) : (s.writeByte a b).Inv :=
  ⟨State.wf_writeByte h.1 .., h.2⟩

theorem State.Inv.writeNat {s : State} (h : s.Inv) (a n v : Nat) : (s.writeNat a n v).Inv := by
  induction n generalizing s a v with
  | zero => exact h
  | succ n ih => exact ih (h.writeByte ..) ..

theorem State.Inv.write64 {s : State} (h : s.Inv) (a : Nat) (v : Word) : (s.write64 a v).Inv := by
  unfold State.write64
  exact h.writeNat ..
theorem State.Inv.storeUnit {s : State} (h : s.Inv) (a : Nat) (v : Word) : (s.storeUnit a v).Inv := by
  unfold State.storeUnit
  exact (h.write64 a v).setPoison ..

theorem State.Inv.writeBytes {s : State} (h : s.Inv) (a : Nat) (l : List Byte) : (s.writeBytes a l).Inv := by
  induction l generalizing s a with
  | nil => exact h
  | cons b l ih => exact ih (h.writeByte ..) _

theorem State.Inv.writeGranule {s : State} (h : s.Inv) (a : Nat) (l : List (Nat × Bool)) : (s.writeGranule a l).Inv := by
  induction l generalizing s a with
  | nil => exact h
  | cons x l ih =>
    unfold State.writeGranule
    apply ih
    apply State.Inv.setPoison
    exact h.writeNat ..

theorem State.Inv.zeroBytes {s : State} (h : s.Inv) (a n : Nat) : (s.zeroBytes a n).Inv := ⟨State.wf_zeroBytes h.1 .., h.2⟩
theorem State.Inv.clearWindows {s : State} (h : s.Inv) : s.clearWindows.Inv := ⟨State.wf_clearWindows h.1, h.2⟩

theorem State.Inv.touch {s : State} (h : s.Inv) (a : Nat) : (s.touch a).Inv := h.of_eq (s.touch_keeps a).1 (s.touch_keeps a).2

/-- A fold whose every turn keeps the invariant keeps it. -/
theorem State.Inv.foldl {β : Type} {s : State} (h : s.Inv) (f : State → β → State) (l : List β)
    (hf : ∀ s x, s.Inv → (f s x).Inv) : (l.foldl f s).Inv := State.foldl_keeps State.Inv f l hf h

/-- A line that a migration copies. -/
theorem State.Inv.copyLine {s : State} (h : s.Inv) (o n : Nat) : (s.copyLine o n).2.Inv := by
  unfold State.copyLine
  dsimp only
  have ht : (if s.injs.isEmpty then s else (List.range 8).foldl (fun s i => s.touch (o + 8 * i)) s).Inv := by
    split
    · exact h
    · exact h.foldl _ _ (fun _ _ hs => hs.touch _)
  generalize (if s.injs.isEmpty then s else (List.range 8).foldl (fun s i => s.touch (o + 8 * i)) s) = t at ht ⊢
  split
  · exact ht
  · exact ⟨twf_foldl _ _ _ (fun _ _ hm => twf_tput _ _ _ hm) (twf_filter _ _ ht.1), ht.2⟩

end Sys2Proof.Machine
end

