-- ==== Sys2Proof/Tests/Slice0.lean ====
section
/-! SUPPORT. Tests: words that the spec encodes by hand, its worked examples, ill-formed terms that a check refuses, and, for each
statement with hypotheses, states and operands that meet them. Each test names its source. -/

namespace Sys2Proof.Tests

open Sys2Proof Sys2Proof.Machine

/-! ## Decoding: words written out in the spec -/

/-- What a slot decodes to: its instruction's opcode and fields. -/
def slotIs (g : Word) (a : BitVec 32) (l : Word) (i : SlotF → Instr) : Prop := decodeSlot g a l = .ok (i (slotFields g a l))

/-- 02_encoding, "Take this TE slot": add oa, ia, d3. -/
theorem test_decode_add : slotIs 0x8A02028800014000 0x1080E1F0 0 .add := rfl
theorem test_fields_add : slotFields 0x8A02028800014000 0x1080E1F0 0 =
    { cm := 1, pri := 2, pm := 2, pv := 2, ua := true, ia := 2, ub := false, ib := 0, tm := 0, tl := 0, ka := true, kb := false,
      xa := true, oa := 0, xb := false, ob := 0, sa := 16, sb := 3, da := 16, db := 31, ta := 0, lit := 0 } := by decide
/-- 04_context: spawn d1, ia lit 2. -/
theorem test_decode_spawn : slotIs 0x9000009000014518 0x700C3FF6 2 .spawn := rfl
theorem test_fields_spawn : slotFields 0x9000009000014518 0x700C3FF6 2 =
    { cm := 2, pri := 0, pm := 0, pv := 0, ua := true, ia := 4, ub := false, ib := 0, tm := 0, tl := 0, ka := true, kb := false,
      xa := true, oa := 2, xb := true, ob := 3, sa := 1, sb := 16, da := 31, db := 31, ta := 6, lit := 2 } := by decide
/-- 05_arithmetic: fdotw.h4 d6, ia, ib. -/
theorem test_decode_fdotw : slotIs 0xF800008620018000 0x56844DF0 0 .fdotwH4 := rfl
/-- 06_channel: chst d2 lit 0x23. -/
theorem test_decode_chst : slotIs 0x8800000000000000 0x730005F0 0x23 .chst := rfl
/-- 07_buffer: redc. -/
theorem test_decode_redc : slotIs 0x8800008000010000 0xB1083FF0 0 .redc := rfl
/-- 08_matrix: mcfg. -/
theorem test_decode_mcfg : slotIs 0x8800008000010000 0xC3003FF0 0 .mcfg := rfl
/-- 09_stream: gen. -/
theorem test_decode_gen : slotIs 0x8801000000000000 0xABA83FF0 0x500200 .gen := rfl
/-- 13_queue: qpush ia, d2 lit 0x105. -/
theorem test_decode_qpush : slotIs 0x8800008400010000 0x9480BFF0 0x105 .qpush := rfl
/-- 14_barrier: bar.arv. -/
theorem test_decode_barArv : slotIs 0x8801000000000000 0x90003FF0 0x23 .barArv := rfl
/-- 15_page: lde oa, ia, zero. -/
theorem test_decode_lde : slotIs 0x8800008400014200 0x828561F0 0 .lde := rfl
/-- 16_query: qry oa, ia. -/
theorem test_decode_qry : slotIs 0x8800009400014800 0x968021F0 0 .qry := rfl
/-- 18_faults: trap lit 7. -/
theorem test_decode_trap : slotIs 0xA000008400010000 0x98003FF0 7 .trap := rfl
/-- 20_prog_triangles: amo, and a gen with literal 0x2035. -/
theorem test_decode_amo : slotIs 0x890000800A014400 0x84D5A1F0 0 .amo := rfl
theorem test_fields_amo : (slotFields 0x890000800A014400 0x84D5A1F0 0).tm = 5 ∧
    (slotFields 0x890000800A014400 0x84D5A1F0 0).pri = 1 ∧ (slotFields 0x890000800A014400 0x84D5A1F0 0).sa = 26 ∧
    (slotFields 0x890000800A014400 0x84D5A1F0 0).oa = 2 := by decide
/-- 21_prog_rsqrt: steer ia, ib; sub PRED, lit, pred. -/
theorem test_decode_steer : slotIs 0x890000821001C108 0x04847FF0 0 .steer := rfl
theorem test_decode_sub : slotIs 0x8980808400010000 0x11B527F0 1 .sub := rfl
/-- 22_prog_reconfig: mov2 oa, d1, d1, zero. -/
theorem test_decode_mov2 : slotIs 0x8800008400014000 0x020D6010 0 .mov2 := rfl
/-- 23_prog_sparse: mld.bs and mls. -/
theorem test_decode_mldBs : slotIs 0x8800008002050000 0xC1003FF0 1 .mldBs := rfl
theorem test_decode_mls : slotIs 0x88000080020D4000 0xC50021F0 0 .mls := rfl
/-- 11_kernel, the cfgw of the RTZ example: ACTION 0xF000_0000, ADDR 0x2D91. -/
theorem test_decode_cfgw : decodeCommandBytes 5 0 [0, 0, 0, 0xF0, 0, 0, 0, 0, 0x91, 0x2D, 0, 0, 0, 0, 0, 0, 0x7C, 0, 8, 0, 0, 0, 0x51, 0] =
    .ok (.cfgwEcw ⟨5, 0, 0xF0000000, 0, 0x2D91, 0x005100000008007C⟩) := rfl
/-- 22_prog_reconfig: cfgswap, MODE SPLICE. -/
theorem test_decode_cfgswap : decodeCmd ⟨0, 4, 0xF1000000, 0, 4, 0x0B220005⟩ = .ok (.cfgswapSplice ⟨0, 4, 0xF1000000, 0, 4, 0x0B220005⟩) := rfl
/-- Table 17-5: the header of a MEMREAD of 8 bytes at 0x1000, for crest core 1 of die 2. -/
theorem test_decode_message : decodeMessageBytes ([3, 0, 0x0A, 0, 0, 0, 0, 0] ++ [7, 0, 0, 0, 0, 0, 0, 0] ++ [0, 0, 0, 0, 8, 0, 0, 0] ++
    [0, 0x10, 0, 0, 0, 0, 0, 0]) = .ok (.memread ⟨3, 0x0A, 0, 7, 0, 0, 8, 0x1000, []⟩) := rfl
/-- R428: POWER_CAP 3,600 W with TAG 5. -/
theorem test_decode_mgmt : decodeMgmtBytes ([2, 0, 5, 0, 0, 0, 0, 0] ++ [0x10, 0x0E, 0, 0, 0, 0, 0, 0] ++ [0, 0, 0, 0, 0, 0, 0, 0]) =
    .ok (.powerCap ⟨none, 2, 0, 5, 3600, 0, []⟩) := rfl
/-- R28, R41: a slot without V, a reserved opcode, a command-only one. -/
theorem test_decode_refusals : decodeSlot 0x0800008400014000 0x020D6010 0 = .error .invalidSlot ∧
    decodeSlot 0x8800008400014000 0x2E0D6010 0 = .error (.reservedOpcode 0x2E) ∧
    decodeSlot 0x8800008400014000 0xF10D6010 0 = .error (.commandOnlyOpcode 0xF1) ∧
    decodeSlot 0x8800008400014001 0x020D6010 0 = .error .reservedField := ⟨rfl, rfl, rfl, rfl⟩
/-- The encoder gives the words of 02_encoding back. -/
theorem test_encode_add : guardWord (slotFields 0x8A02028800014000 0x1080E1F0 0) = 0x8A02028800014000 ∧
    actionWord 0x10 (slotFields 0x8A02028800014000 0x1080E1F0 0) = 0x1080E1F0 := by decide

/-! ## Well-formedness: an ill-formed term for each check of Table 2-15 (R42) -/

/-- The slot of 02_encoding. -/
def good : SlotF := slotFields 0x8A02028800014000 0x1080E1F0 0
/-- Its element: a TE with context 0, channel 2 and a word route at output 0. -/
def env : SlotEnv := ⟨.te, 1, 0, 4, [(0, .words)], 0⟩
/-- The first check that the slot fails. -/
def checked (f : SlotF) (op : Nat) : Option Nat := slotCheck env 0 op f

theorem test_wf_good : checked good 0x10 = none ∧ good.wf 0x10 = true := by decide
theorem test_wf_7 : checked { good with cm := 2 } 0x10 = some 7 ∧ slotCheck env 1 0x10 good = some 7 := by decide
theorem test_wf_8 : checked { good with pv := 3 } 0x10 = some 8 := by decide
theorem test_wf_9 : checked { good with ia := 3 } 0x10 = some 9 := by decide
theorem test_wf_10 : checked { good with tm := 2 } 0x10 = some 10 := by decide
theorem test_wf_11 : checked good 0x2E = some 11 ∧ checked good 0xF0 = some 11 := by decide
/-- 02_encoding: the same words with XA cleared fail load check 12. -/
theorem test_wf_12 : checked { good with xa := false } 0x10 = some 12 := by decide
theorem test_wf_13 : checked { good with db := 19, da := 19, xa := false, ta := 0, sb := 16 } 0x02 = some 13 := by decide
theorem test_wf_14 : checked { good with ta := 9 } 0x10 = some 14 := by decide
theorem test_wf_15 : checked { good with lit := 1 } 0x10 = some 15 := by decide
/-- R38: qpush needs its capability bit. -/
theorem test_wf_16 : checked { good with xa := false, da := 31, lit := 5 } 0x94 = some 16 := by decide
theorem test_wf_command : Cmd.wf ⟨0, 0, 0xF0000000, 0, 0, 0⟩ 0xF0 = true ∧ Cmd.wf ⟨0, 0, 0xF0000001, 0, 0, 0⟩ 0xF0 = false ∧
    Cmd.wf ⟨0, 0, 0xF0000000, 1, 0, 0⟩ 0xF0 = false := by decide
theorem test_wf_message : Msg.wf ⟨3, 0x0A, 0, 0, 0, 0, 8, 0, []⟩ 3 = true ∧ Msg.wf ⟨3, 0x2A, 0, 0, 0, 0, 8, 0, []⟩ 3 = false ∧
    Msg.wf ⟨3, 0x0A, 1, 0, 0, 0, 8, 0, []⟩ 3 = false ∧ Msg.wellShaped ⟨3, 0x0A, 0, 0, 0, 0, 8, 0, [1]⟩ = false := by decide
theorem test_wf_mgmt : Mgmt.wf ⟨none, 2, 0, 0, 0, 0, []⟩ 2 = true ∧ Mgmt.wf ⟨none, 2, 1, 0, 0, 0, []⟩ 2 = false := by decide

/-! ## Worked examples of the spec -/

/-- R124. -/
theorem test_mulh : aluMulh 0xFFFFFFFFFFFFFFFF 2 = 0xFFFFFFFFFFFFFFFF ∧ aluMulhu 0xFFFFFFFFFFFFFFFF 2 = 1 := by decide
/-- R125: 100 by 7 takes 10 fc. -/
theorem test_divide : aluDivu 100 7 = 14 ∧ aluRemu 100 7 = 2 ∧ divLatency 100 = 10 := by decide
/-- R126. -/
theorem test_lea : aluLea 0x100000 0xFFFFFFFFFFFFFFFE 3 = some 0xFFFF0 ∧ aluLea 0x100000 0x1000000000000000 3 = none := by decide
/-- R129. -/
theorem test_bext : aluBext 0x9C00 0x10708 = 0xFFFFFFFFFFFFFF9C := by decide
/-- R138: 2.5 and −0.4; 1.5. -/
theorem test_frnd : aluFrnd 0xBECCCCCD40200000 = (0x8000000040000000, flNX) ∧ (aluFrnd 0x3FC00000).1 = 0x40000000 := by decide
/-- R139, R140. -/
theorem test_frcpe : aluFrcpe 0x8000000040400000 = (0xFF8000003EAAA000, 0) := by decide
theorem test_frsqe : (aluFrsqe 0x4080000040800000).1 = 0x3F0000003F000000 := by decide
/-- R144: pack.e4 under RNE and RTZ. -/
theorem test_pack_e4 : aluPack8 f8e4 .rne 0x80003E9A43FA3F80 0 = (0x2A7F38, flOF ||| flNX) ∧
    (aluPack8 f8e4 .rtz 0x80003E9A43FA3F80 0).1 = 0x297F38 := by decide
/-- 03_numbers, "A decoded lane": under RUP. -/
theorem test_decode_lane : (List.range 4).map (fun i => (ocpDecode false .rup (lane 8 0x38837F03 i)).1) = [0x01, 0x80, 0x00, 0x38] := by decide
/-- R60: 0x83 under RDN gives 0x81. -/
theorem test_decode_lane_down : (ocpDecode false .rdn 0x83).1 = 0x81 ∧ (ocpDecode false .rup 0x83).1 = 0 := by decide
/-- 05_arithmetic: the fdotw.h4 of four lanes, with W = 24 and W = 40. -/
theorem test_fdotw : aluFdotwH4 24 0x30000000 0xC0403F0040003F80 0x3F8041003E804080 ⟨some 3, 127⟩ ⟨some 3, 127⟩ = (0x40B00000, flLS) ∧
    aluFdotwH4 40 0x30000000 0xC0403F0040003F80 0x3F8041003E804080 ⟨some 3, 127⟩ ⟨some 3, 127⟩ = (0x40B00000, flNX) := by decide
/-- R15: the element of the ECW example. -/
theorem test_decode_element : eaDie 0x2D91 = 5 := by decide

/-! ## Witnesses: states and operands that meet the hypotheses of the statements -/

/-- The machine after reset with one slot of opcode `op` placed, and its firing chosen. -/
def wOp (op : Nat) : State :=
  let s := State.reset.placeSlot ⟨0x8800000000000000, BitVec.ofNat 32 (op * 2 ^ 24), 0⟩
  { s with chosen := [], cur := some ⟨kindSite (opKind op), 0, 0⟩ }
/-- A TE, an SE and an ME that fire. -/
def wTe : State := wOp 0x10
def wSe : State := wOp 0xA0
def wMe : State := wOp 0xC0
abbrev cTe : Cursor := ⟨1, 0, 0⟩
abbrev cSe : Cursor := ⟨0, 0, 0⟩
abbrev cMe : Cursor := ⟨3, 0, 0⟩
/-- Operands SA = LIT, SB = ZERO, no destination. -/
def wF (l : Word) : SlotF := { slotFields 0 0 l with sa := 20, sb := 21, da := 31, db := 31 }
/-- Operand A is the literal, and B too. -/
def wFF (l : Word) : SlotF := { wF l with sb := 20 }
/-- A state changed at one element. -/
def wE (s : State) (ea : Nat) (g : Elem → Elem) : State := s.modElem ea g
/-- A head word for channel 0 of an element. -/
def wHead (s : State) (ea : Nat) (k : WKind) (tag : Byte) : State :=
  s.modChan ea 0 (fun c => { c with q := [⟨⟨5, tag, k⟩, .none, 0⟩] })
/-- A context changed. -/
def wC (s : State) (ea : Nat) (g : Ctx → Ctx) : State := s.modCtx ea 0 g

/-- ScalarIntegerArithmetic, LogicShiftsAndBitFields, PackedIntegerLanes, IntegerCompares, FloatingPointLanes, WindowDotsAndConversions: a firing
that goes through, at an element of each kind. -/
theorem witness_firings : wTe.goes cTe (wF 0) ∧ wSe.goes cSe (wF 0) ∧ wMe.goes cMe (wF 0) := by unfold State.goes; decide
/-- DivisionAndLea: dividends 0 (k = 0) and 2^63 (k = 64), a step of lea that leaves the range, and a slot of divu that is eligible. -/
theorem witness_DivisionAndLea :
    let v := State.reset.placeSlot ⟨0x8800000000000000, 0x190003F0, 0⟩
    let w := (v.elem 1).active.slot 0
    w.op = 0x19 ∧ v.slotFails 1 w = none ∧ v.slotElig cTe w .all = true ∧ wTe.goes cTe (wFF 0x8000000000000000) ∧ (readSource wTe cTe (wF 0) 20).val = 0 ∧
    2 ^ 63 ≤ (readSource wTe cTe (wF 0x8000000000000000) 20).val.toNat ∧
    2 ^ 63 - 1 < -((readSource wTe cTe (wFF 0x8000000000000000) 20).val.toInt * 2 ^ 0) := by unfold State.goes; decide
/-- FloatingPointValues: NaN and number lanes in both operands. -/
theorem witness_FloatingPointValues : isNaN (fp32.value (lane 32 0x7FC00000 0)) = true ∧ isNaN (fp32.value (lane 32 0x7FC00000 1)) = false ∧
    isNaN (bf16.value (lane 16 0x7FC0 0)) = true ∧ isNaN (bf16.value (lane 16 0x7FC0 3)) = false := by decide
/-- MovesAndSelection: a poisoned head at IA, for an output and for a register; at IB. -/
theorem witness_MovesAndSelection :
    let s := wHead wTe 1 .poison 0
    s.cur = some cTe ∧ badRelease s cTe { wF 0 with sa := 16, da := 16 } = false ∧
    (readSource s cTe { wF 0 with sa := 16 } 16).poison = true ∧ destOuts { wF 0 with sa := 16, da := 16 } 16 ≠ [] ∧
    destOuts (wF 0) 3 = [] ∧ (readSource s cTe (wF 0) 17).poison = true ∧ (readSource wTe cTe (wF 0) 20).poison = false := by decide
/-- EndingAContext: brk disabled, and enabled. -/
theorem witness_EndingAContext :
    let s := wE wTe 1 (fun e => { e with work := { e.work with ecw := e.work.ecw ||| BitVec.allOnes 64 } })
    wTe.goes cTe (wF 7) ∧ ecwBrken (wTe.elem 1).work.ecw = false ∧ s.goes cTe (wF 7) ∧ ecwBrken (s.elem 1).work.ecw = true ∧
    (s.ctx 1 0).skipbrk = false := by unfold State.goes; decide
/-- WritesOfPredicatesAndRegisters, ReadsOfState: registers 5, 7, 10 and absent ones. -/
theorem witness_special_registers : wTe.goes cTe (wF 7) ∧ srAbsent (wTe.elem 1).kind 5 = false ∧ srAbsent (wTe.elem 1).kind 7 = false ∧
    srAbsent (wTe.elem 1).kind 10 = false ∧ srAbsent (wTe.elem 1).kind 11 = true ∧ srAbsent (wSe.elem 0).kind 7 = true := by
  unfold State.goes; decide
/-- TagsJoinsAndSbar: a tag of a declared pool, and one of none. -/
theorem witness_TagsJoinsAndSbar :
    let s := wTe.modGroup 0 (fun g => { g with pools := [(0, { Pool.zero with declared := true, first := 10, count := 4 })] })
    let p := tget Pool.zero 0 (s.group (s.groupNo 1)).pools
    s.goes cTe (wF 0) ∧ p.declared = true ∧ p.first ≤ 13 ∧ 13 < p.first + p.count ∧ ¬ 14 < p.first + p.count ∧
    (s.ctx 1 0).acks = [] := by unfold State.goes; decide
/-- The element's output 0 has one target. -/
def wRoute (s : State) (ea : Nat) (tg : Word) : State :=
  wE s ea (fun e => { e with work := { e.work with routes := tput .zero 0 ⟨1, [(0, tg)]⟩ e.work.routes } })
/-- A request word for module memory, an SE's memory, a partition of the tile store: 8 bytes, with a reply. -/
def wMemReq (endp : Word) : Word := endp <<< 32 ||| 3 <<< 48 ||| 1 <<< 45
/-- The request of a firing on output 0. -/
def wReq (s : State) (acc : Acc) (a : Word) : MReq := routeReq s cTe 0 acc a 0

/-- MemoryAndEngineFirings: a load to each endpoint without a fault; faults; an address that leaves the range. -/
theorem witness_MemoryFirings :
    let m := wRoute wTe 1 (wMemReq 0x82)
    let e := wRoute wTe 1 (wMemReq 0x80)
    let t := (wRoute wTe 1 (wMemReq 0x81)).modHub 0 (fun h => { h with parts := [(0, ⟨0, 1, 0⟩)] })
    m.goes cTe (wF 8) ∧ e.goes cTe (wF 8) ∧ t.goes cTe (wF 8) ∧
    reqFault m (wReq m .ld 8) 8 = none ∧ (wReq m .ld 8).endp = 0x82 ∧ reqFault e (wReq e .ld 8) 8 = none ∧
    (wReq e .ld 8).endp = 0x80 ∧ reqFault t (wReq t .ld 0xFFF8) 8 = none ∧ (wReq t .ld 8).endp = 0x81 ∧
    reqFault m (wReq m .lde 8) 0 = none ∧ reqFault m (wReq m .amo 8) 8 = none ∧ reqFault m (wReq m .cas 8) 0 = none ∧
    reqFault m (wReq m .ld 4) 4 = some (0x13, 0, 4) ∧ reqFault m (wReq m .amo 8) 9 = some (0x01, 0, 9) ∧
    reqFault t (wReq t .ld 0x10000) 0 = some (0x12, 0, 0x10000) ∧
    2 ^ 63 - 1 < (0x7FFFFFFFFFFFFFFF : Word).toInt + (0x7FFFFFFFFFFFFFFF : Word).toInt ∧
    engineFault e (wReq e .qry 64) 0 = none ∧ engineFault e (wReq e .qry 8) 0 = some (0x13, 0, 8) ∧
    engineFault m (wReq m .gat 64) 0 = some (0x01, 3, 0) := by unfold State.goes; decide
/-- SpillAndFill: a slot of the area, one of the overflow area, one beyond both, and one at a bad address. -/
theorem witness_SpillAndFill :
    let a := wC wTe 1 (fun c => { c with spillBase := 64 <<< 24 })
    let o := wC a 1 (fun c => { c with spillOvf := 0x1000 })
    let b := wC a 1 (fun c => { c with spillOvf := 0x8000000000000000 })
    a.goes cTe (wFF 7) ∧ o.goes cTe (wFF 8) ∧ b.goes cTe (wFF 8) ∧
    (∃ r, spillReq a cTe 7 .st = .inr r ∧ r.endp = 0x80) ∧ (∃ r, spillReq o cTe 8 .ld = .inr r ∧ r.endp = 0x82 ∧ r.addr = 0x1000) ∧
    spillReq a cTe 8 .st = .inl (0x12, 1, 8) ∧ ∃ w, spillReq b cTe 8 .st = .inl (0x10, 0, w) := by
  unfold State.goes; exact ⟨by decide, by decide, by decide, ⟨_, rfl, rfl⟩, ⟨_, rfl, rfl, rfl⟩, rfl, ⟨_, rfl⟩⟩
/-- An SE whose handle 0 is declared, in state `x`, on ring 0. -/
def wHnd (x : Hnd) : State :=
  wE wSe 0 (fun e => { e with
    work := { e.work with handles := [(0, (0x0000000000000001, 0x0000000100000000))] }, handles := tput .zero 0 x e.handles })
/-- LocalAccesses: the last bytes of the program region, a misaligned access, one outside; a read of a held handle, of none,
and of one whose partition is gone. -/
theorem witness_LocalAccesses :
    let e := wSe.elem 0
    let h := wHnd ⟨.filling, 1, none, 0⟩
    let p := wE h 0 (fun e => { e with work := { e.work with handles := [(0, (0x0100000000000001, 0x0000000100000000))] } })
    wSe.goes cSe (wF 0x180000) ∧ locFault e .ld 0x180000 (BitVec.ofNat 64 (e.progBytes - 8)) = none ∧
    locFault e .amo 0x180000 8 = none ∧ locFault e .st 0x180000 8 = none ∧ locFault e .ld 0x180000 4 = some (0x13, 4) ∧
    (∃ x, locFault e .amo 0x180000 (BitVec.ofNat 64 e.progBytes) = some (0x12, x)) ∧ (∃ x, locFault e .st 0x200000 0 = some (0x01, x)) ∧
    handleHeld e 0 [.filling, .draining] true = false ∧ h.goes cSe (wF 0) ∧
    handleHeld (h.elem 0) 0 [.filling, .draining] true = true ∧ 120 + 8 ≤ (hrSizeM1 ((h.elem 0).work.handle 0) + 1) * 64 ∧
    h.handleAddr 0 0 120 = some (seAddr 0 120) ∧ handleHeld (p.elem 0) 0 [.filling, .draining] true = true ∧
    hrLoc ((p.elem 0).work.handle 0) = 1 ∧ p.handleAddr 0 0 120 = none := by
  unfold State.goes
  exact ⟨by decide, by decide, by decide, by decide, by decide, ⟨_, rfl⟩, ⟨_, rfl⟩, by decide, by decide, by decide, by decide, by decide,
    by decide, by decide, by decide⟩
/-- HandlesAndTagTable: rings with and without handles; handles filling and draining, with an sst in flight, with its
last one served now, and earlier; a free way and a held key. -/
theorem witness_HandlesAndTagTable :
    let f := wHnd ⟨.filling, 1, none, 0⟩
    let d := wHnd ⟨.draining, 1, none, 0⟩
    let t := wE wSe 0 (fun e => { e with ttab := [(4 * keySet 5, some (5, 9))] })
    acqFaults (wSe.elem 0) 0 = true ∧ acqFaults (f.elem 0) 0 = false ∧ (f.elem 0).ringAt 0 false = some 0 ∧
    acqFaults (f.elem 0) 0x10 = false ∧ (f.elem 0).ringAt 0 true = some 0 ∧
    handleHeld (f.elem 0) 0 [.filling] false = true ∧ handleHeld (d.elem 0) 0 [.filling] false = false ∧
    handleHeld (d.elem 0) 0 [.draining] true = true ∧ handleHeld (f.elem 0) 0 [.draining] true = false ∧
    (wSe.elem 0).freeWay 5 = some (4 * keySet 5) ∧ (t.elem 0).keyWay 5 = some (4 * keySet 5) ∧ (wSe.elem 0).keyWay 5 = none ∧
    (f.elem 0).ssts = [] ∧ f.now ≤ (f.elem 0).sstLast ∧ ({ f with now := 1 }.elem 0).sstLast < 1 ∧
    ((wE f 0 (fun e => { e with ssts := [3] })).elem 0).ssts ≠ [] ∧
    f.goes cSe (wF 0) ∧ d.goes cSe (wF 0x10) ∧ t.goes cSe (wFF 5) := by unfold State.goes; decide
/-- CopyFirings: a copy of 64 bytes between addresses of memory, and a misaligned one. -/
theorem witness_CopyFirings : wTe.goes cTe (wFF 0x40000001) ∧
    copyFault wTe 0x40000001 (copyReq wTe cTe (wF 0x40000001) 0x40 0x80) = none ∧
    copyFault wTe 0x40000001 (copyReq wTe cTe (wF 0x40000001) 0x41 0x80) = some (0x13, 0x41) := by unfold State.goes; decide
/-- BarrierFirings: a literal in the shape, with PH, out of it; counts 1, 2^16 − 1, 0 and 2^16. -/
theorem witness_BarrierFirings :
    let g := wTe.group (wTe.groupNo 1)
    let busy := wC wTe 1 (fun c => { c with acks := [3] })
    wTe.goes cTe (wF 1) ∧ (wTe.ctx 1 0).acks = [] ∧ busy.goes cTe (wF 1) ∧ (busy.ctx 1 0).acks ≠ [] ∧
    barBad g 1 true = false ∧ barBad g 1 false = false ∧ barBad g 0x4000 true = true ∧ barBad g 0x4000 false = true ∧
    1 ≤ (0xFFFF : Word).toNat ∧ (0xFFFF : Word).toNat < 2 ^ 16 ∧ 2 ^ 16 ≤ (0x10000 : Word).toNat := by unfold State.goes; decide
/-- SystemFirings: operands with and without a fault for qpush, migr, tinval and svc; accesses that are awaited, and none. -/
theorem witness_SystemFirings :
    wTe.goes cTe (wF 0) ∧ (wTe.ctx 1 0).acks = [] ∧ (wC wTe 1 (fun c => { c with acks := [3] })).goes cTe (wF 0) ∧
    qpushFault 0x1FF 0x80 = none ∧ qpushFault 0x200 0x80 = some (0x01, 0x200) ∧ qpushFault 0 0x40 = some (0x13, 0x40) ∧
    migrFault 0x10001 16 = none ∧ migrFault 2 0 = some (0x01, 2) ∧ migrFault 0x10000 8 = some (0x13, 8) ∧
    canonical 0x10000 = true ∧ canonical 0x8000000000000000 = false ∧ (0x8000000000000000 : Word).getLsbD 0 = false ∧
    (0xFFFFF : Word).toNat < 2 ^ 20 ∧ 2 ^ 20 ≤ (0x100000 : Word).toNat := by unfold State.goes; decide
/-- StreamFirings: literals refused and taken, channels unbound and bound, records in and out of place. -/
theorem witness_StreamFirings :
    let e := wSe.elem 0
    let u := ({ e with work := { e.work with chans := [] } } : Elem)
    wSe.goes cSe (wF 0) ∧ suBad 0xAD 34 = true ∧ suBad 0xAD 0x41 = false ∧ suBad 0xAE 0x41 = false ∧ suBad 0xAF 0 = false ∧
    suBad 0xB0 0x22000000 = false ∧ suBad 0xB1 0x4000000000 = false ∧ suBad 0xB1 0 = true ∧
    suUnbound u 0xAD 0x41 = some 1 ∧ suUnbound e 0xAD 0x41 = none ∧ 0 % 8 = 0 ∧ 0 + 8 ≤ e.progBytes ∧ 4 % 8 ≠ 0 ∧
    genBad e 0 false 0 = false ∧ genUnbound e 0 false = none ∧ genBad e 0 true 0 = false ∧ genUnbound e 0 true = none ∧
    e.progBytes - 160 + 160 ≤ e.progBytes := by unfold State.goes; decide
/-- An ME with a MODE, bound to the SE of site (0,0) by byte 0 of its rings, and its SE at 0 whose handle 0 is `x`. -/
def wMm (mode : Word) (x : Hnd) : State :=
  let s := wHnd x
  let s := { s with cur := some cMe, elems := tput .zero 3 (wMe.elem 3) s.elems }
  wE s 3 (fun e => { e with work := { e.work with meb := (0, 0x70000) }, me := { Me.zero with mode := mode } })
/-- MatrixFirings: MODE unset and set, literals taken and refused, a full ring and one that has no handle, an output handle with rows. -/
theorem witness_MatrixFirings :
    let z := wMm 0 ⟨.full, 0, none, 0⟩
    let m := wMm 0x44 ⟨.full, 0, none, 0⟩
    let b := wE m 0 (fun e => { e with
      work := { e.work with handles := [(0, (0x0000000000000001, 0x0000003F00000000))] } })
    let d := wE (wE b 0 (fun e => e.setHnd 0 ⟨.filling, 1, none, 0⟩)) 3 (fun e => { e with me := { e.me with owr := 1 } })
    z.goes cMe (wF 0) ∧ m.goes cMe (wF 0) ∧ b.goes cMe (wF 0) ∧ d.goes cMe (wF 0) ∧ (z.elem 3).me.mode = 0 ∧ (m.elem 3).me.mode ≠ 0 ∧
    mldFault z 3 false 0 = some (0x01, 0, 0) ∧ mldFault m 3 true 0 = some (0x01, 0, 0) ∧ mldFault m 3 false 1 = some (0x22, 1, 0) ∧
    mldFault b 3 false 0 = none ∧ (b.elem 0).ringAt 0 true = some 0 ∧ (b.elem 3).me.emptyPlane = some false ∧
    ((b.elem 0).hnd 0).st = .full ∧ bindSe 3 (b.elem 3).work.meb 6 ≠ 3 ∧
    mldFault (wE b 3 (fun e => { e with me := { e.me with mode := 0x10044 } })) 3 true 0 = some (0x22, ((b.elem 0).handleWord 0), 1) ∧
    mcfgBad (m.elem 3).work.meb 0x44 = false ∧ mcfgBad (m.elem 3).work.meb 0 = false ∧ mcfgBad (m.elem 3).work.meb 1 = true ∧
    drainDue m 3 = false ∧ drainDue d 3 = true := by unfold State.goes; decide
/-- MatrixFirings: a handle that a context takes in this cycle. -/
theorem witness_MldTie :
    let b := wE (wMm 0x44 ⟨.full, 0, none, 0⟩) 0 (fun e => { e with
      work := { e.work with handles := [(0, (0x0000000000000001, 0x0000003F00000000))] } })
    let k := { wE b 0 (fun e => e.setHnd 0 ⟨.draining, 1, none, 0⟩) with found := [(0, ((b.elem 0).handles, (b.elem 0).rings))] }
    k.goes cMe (wF 0) ∧ mldFault k.asFound 3 false 0 = none ∧ (k.asFound.elem 0).ringAt 0 true = some 0 ∧ ((k.elem 0).hnd 0).st ≠ .full ∧
    (k.elem 3).me.emptyPlane = some false := by unfold State.goes; decide
/-- TakingASynchronousFault: groups that are LIVE, FENCED, FREE. -/
theorem witness_TakingASynchronousFault : (wTe.group (wTe.groupNo 1)).st = .live ∧
    ((wTe.modGroup 0 (fun g => { g with st := .fenced })).group ((wTe.modGroup 0 (fun g => { g with st := .fenced })).groupNo 1)).st
      = .fenced ∧ (State.reset.group (State.reset.groupNo 1)).st = .free := by decide
/-- ResultsLand: a result of this configuration, and one of an earlier. -/
theorem witness_ResultsLand :
    let d := Delivery.none wTe cTe
    d.epoch = (wTe.elem d.ea).epoch ∧ d.places = [] ∧
    d.epoch ≠ ((wE wTe 1 (fun e => { e with epoch := e.epoch + 1 })).elem d.ea).epoch := by decide
/-- A word for channel 0 of element 1. -/
def wArr (k : WKind) (p : Bool) : Arrival :=
  let w : CWord := ⟨0, 0, k⟩
  ⟨1, 0, w, dparOf 0, if p then tparOf w else !tparOf w, .none, 0⟩
/-- WordsReachTheirChannels: a sound word and a damaged one for an OPEN channel, a CFG word where none is taken, an unbound channel. -/
theorem witness_WordsReachTheirChannels :
    wTe.injs = [] ∧ (wArr .data true).epoch = (wTe.elem 1).wave ∧ (wTe.chan 1 0).st = .opened ∧
    ((wArr .data true).tpar == tparOf (wArr .data true).word) = true ∧ ((wArr .data false).tpar == tparOf (wArr .data false).word) = false ∧
    chanCfgin ((wTe.elem 1).work.chanWord 0) = false ∧ (State.reset.chan 1 0).st = .unbound := by decide
/-- LinksAndBanksServeOneAtATime: a word that arrives at its next site, one that goes on, a request word at its target and one that goes on,
one request at a bank, one join. -/
theorem witness_LinksAndBanksServeOneAtATime :
    let x : Transit := ⟨0, 4, 3, 0, [wArr .data true], none⟩
    let l := linkNo 0 (nextDir 0 1)
    let y : Transit := ⟨0, 4, 3, 0, [{ wArr .data true with ea := 2 }], none⟩
    let z (d : Nat) : Transit := ⟨0, 4, 0, 0, [], some ⟨d, [(1, .scrub 0 false false)], [(2, [])]⟩⟩
    let s := { wTe with links := [(l, { RLink.zero with q := [x] })], banks := [(5, { Bank.zero with q := [⟨0, 0, .scrub 0 false false, none⟩] })] }
    let t := wE s 1 (fun e => { e with joins := [⟨7, 0, [], [], 0⟩] })
    (s.rlink l).free ≤ s.now ∧ (s.rlink l).q = [x] ∧ x.ready ≤ s.now ∧ x.port < 5 ∧ x.vc < 4 ∧ x.parcel = none ∧
    (wArr .data true).ea = stepSite x.at_ (l % 4) ∧ 1 = stepSite (z 1).at_ (l % 4) ∧ (z 2).vc < 4 ∧ (z 2).parcel ≠ none ∧
    2 ≠ stepSite y.at_ (l % 4) ∧ nextDir (stepSite y.at_ (l % 4)) 2 < 4 ∧
    linkNo (stepSite y.at_ (l % 4)) (nextDir (stepSite y.at_ (l % 4)) 2) ≠ l ∧
    (s.bank 5).free ≤ s.now ∧ (s.bank 5).q = [⟨0, 0, .scrub 0 false false, none⟩] ∧ 0 < bankPorts 5 ∧
    (t.elem 1).joins = [⟨7, 0, [], [], 0⟩] := by decide
/-- TagCredits: a slot that wants a tag, a request that its hub can serve, a tag that is out, one that is free, a pool not declared. -/
theorem witness_TagCredits :
    let p : Pool := { Pool.zero with declared := true, known := true, first := 10, count := 4, reserve := 1, freeTags := [10, 11], waiting := [(0, 1, true)] }
    let n := wRoute (State.reset.placeSlot ⟨0x8800000000004000, 0x70003FF6, 0⟩) 1 0
    let n := { n with elems := tput .zero 0 (n.elem 0) n.elems }
    let s := (wE n 0 (fun e => { e with work := { e.work with chans := [(0, 0x101)] } })).modGroup 0 (fun g => { g with pools := [(0, p)] })
    let a := wE s 1 (fun e => { e with tagCreds := [(0, .asked)] })
    s.tagDue 1 0 = true ∧ (tget .zero 0 (s.group 0).pools).waiting = [(0, 1, true)] ∧ 0 ≤ s.now ∧
    (tget .zero 0 (s.group 0).pools).nextGrant ≤ s.now ∧ (tget .zero 0 (s.group 0).pools).freeTags = 10 :: [11] ∧
    (tget .zero 0 (s.group 0).pools).reserve < (tget .zero 0 (s.group 0).pools).freeTags.length ∧
    tget .none 0 (a.elem 1).tagCreds = .asked ∧ 13 ∉ (tget .zero 0 (s.group 0).pools).freeTags ∧ s.tagHeld 0 0 13 = false ∧
    11 ∈ (tget .zero 0 (s.group 0).pools).freeTags := by decide
/-- A barrier 0 at the hub of tile 0. -/
def wBar (b : Bar) : State := wTe.modHub 0 (fun h => { h with bars := [(0, b)] })
/-- BarriersCountArrivals: an arrival that is not the last and one that is; FREE, RETIRED, HELD barriers, a wrong phase; bar.init. -/
theorem witness_BarriersCountArrivals :
    let m : BarMsg := ⟨0, 0, 0, .arv, false, 0, 0, 1, 0, 0⟩
    let i : BarMsg := ⟨0, 0, 0, .init, false, 5, 0, 1, 0, 0⟩
    let b (s : State) : Bar := (s.hub m.tile).bar m.bar
    let a := wBar { Bar.zero with st := .armed, expect := 2 }
    let l := wBar { Bar.zero with st := .armed, expect := 1 }
    let h := wBar { Bar.zero with st := .armed, expect := 1, held := true }
    let o := wBar { Bar.zero with st := .armed, expect := 2, phase := 1 }
    let r := wBar { Bar.zero with st := .retired }
    let w (d : Word) : Bar := { Bar.zero with st := .armed, expect := 1, waiters := [d] }
    let f := wE (wBar (w 0)) 0 (fun e => { e with work := { e.work with chans := [] } })
    m.kind ≠ .init ∧ (b a).st = .armed ∧ (b a).held = false ∧ m.ph = (b a).phase.getLsbD 0 ∧ (b a).count + 1 ≠ (b a).expect ∧
    (b l).count + 1 = (b l).expect ∧ l.barRoom (l.group m.grp) 0 0 (b l) = true ∧
    (b f).count + 1 = (b f).expect ∧ f.barRoom (f.group m.grp) 0 0 (b f) = false ∧ (b wTe).st = .free ∧ (b r).st = .retired ∧ (b h).held = true ∧
    h.barRoom (h.group (h.groupNo m.tile)) 0 0 (b h) = true ∧ m.ph ≠ (b o).phase.getLsbD 0 ∧ i.kind = .init := by decide
/-- A request of a firing at its home, an HBM address, 8 bytes. -/
def wHome (acc : Acc) : MReq :=
  { MReq.zero with who := .firing, acc := acc, endp := 0x82, sz := 3, stage := 1, ea := 1, dst := 0, pa := 8 }
/-- AccessesAtTheirHome: each access at a clean unit of HBM, narrower ones, a poisoned unit, and a stack out of service. -/
theorem witness_AccessesAtTheirHome :
    let r := wHome .ld
    let p := wTe.setPoison 1 true
    wTe.offHome r = none ∧ ({ wTe with bases := [(0, { Base.zero with dead := true })] }.offHome r).isSome = true ∧
    r.stage = 1 ∧ r.who = .firing ∧ r.parity = false ∧ r.sz ≤ 3 ∧ wTe.injs = [] ∧ r.pa % 2 ^ 44 % 2 ^ r.sz = 0 ∧
    (∀ q ∈ wTe.defers, unitOf (q.pa % 2 ^ 44) ≠ unitOf (r.pa % 2 ^ 44)) ∧ regionOf (r.pa % 2 ^ 44) = .hbm ∧
    (wHome .st).sz = 3 ∧ r.out < localOut ∧ r.endp = 0x82 ∧ ({ r with endp := 0x80, ren := true } : MReq).out < localOut ∧ ({ wHome .st with sz := 0 } : MReq).sz ≠ 3 ∧ (r.pzn || wTe.poisoned (unitOf (r.pa % 2 ^ 44))) = false ∧
    (r.pzn || p.poisoned (unitOf (r.pa % 2 ^ 44))) = true := by decide
/-- FullUnitsAndReplies: full and empty units, room and none among the deferred, the oldest request of a route, a join that waits. -/
theorem witness_FullUnitsAndReplies :
    let r := wHome .lde
    let f := wTe.setFull 1 true
    let d := { wTe with defers := List.replicate 64 { r with pa := 16 } }
    let e := wE wTe 1 (fun e => { e with outs := [(0, { Out.zero with reqs := [⟨0, 8, 16, some 8, true, true, none, false⟩] })], joins := [⟨7, 0, [0], [], 0⟩] })
    r.who = .firing ∧ r.out < localOut ∧ r.endp = 0x82 ∧ wTe.injs = [] ∧ f.isFull 1 = true ∧ wTe.isFull 1 = false ∧ wTe.portDefers 8 < 64 ∧
    (∀ q ∈ d.defers, unitOf (q.pa % 2 ^ 44) ≠ unitOf (r.pa % 2 ^ 44)) ∧ 64 ≤ d.portDefers 8 ∧
    (∃ x, ((e.elem 1).out 0).reqs = [x] ∧ x.id = r.id ∧ x.ren = true) ∧ ∃ j ∈ (e.elem 1).joins, j.waits = [r.id] := by
  refine ⟨by decide, by decide, by decide, by decide, by decide, by decide, by decide, by decide, by decide,
    ⟨_, rfl, rfl, rfl⟩, ⟨_, .head _, rfl⟩⟩
/-- The walk of `r` at a level of a table at address 0, and the state whose slice of tile 0 has it. -/
def wWalk (level : Nat) (e : Option Word) : Walk := ⟨7, wHome .ld, 0, level, 0, false, e, false⟩
def wSlice (x : Slice) : State := { wTe with slices := [(0, x)] }
/-- WalksOfPageTables: an entry still to be read; a link, a leaf, V = 0 and a malformed entry. -/
theorem witness_WalksOfPageTables :
    let s := wSlice { Slice.zero with walks := [(7, wHome .ld, false)] }
    (s.slice (wWalk 4 none).tile).walks = ((wWalk 4 none).id, (wWalk 4 none).r, false) :: [] ∧ (s.slice 0).waiting = [] ∧
    s.homeFault 0 0 = none ∧ ({ s with bases := [(0, { Base.zero with dead := true })] }.homeFault 0 0).isSome = true ∧ s.defers = [] ∧ pteV 0x10001 = true ∧ pteBad 4 0x10001 = false ∧ pteLeaf 0x10001 = false ∧
    pteV 0x7F = true ∧ pteBad 0 0x7F = false ∧ pteLeaf 0x7F = true ∧ leafUse s.module .ld false 0 (leafSize 0) 0x7F (vbits 8) = .inl 8 ∧
    pteV 0 = false ∧ (s.slice 0).places < 16 ∧ pteBad 4 0x7F = true := by decide
/-- LookupsAndInvalidation: a page that the slice holds, for each access; a page of a domain that it does not hold; a request stopped
at a missing page; a tinval that waits for nothing, and one for a request on its way. -/
theorem witness_LookupsAndInvalidation :
    let r (a : Acc) : MReq := { wHome a with addr := 8 }
    let s := wSlice { Slice.zero with ents := [⟨0, 0, 1, 0x7F⟩] }
    let d := { wTe with doms := [(0, ⟨0, true, some 0x10000, 0, 0, 0, 0⟩)] }
    let g := { (wSlice { Slice.zero with held := [⟨7, wHome .ld, 0⟩] }) with groups := [(0, { wTe.group 0 with pnp := [(3, 7)] })] }
    let i : Tinv := ⟨1, 0, 0, [5]⟩
    let n := { wTe with tinvs := [i] }
    let w := { n with agenda := [⟨9, 0, .requestPerform { wHome .ld with id := 5 }⟩] }
    (∀ a ∈ [Acc.ld, .st, .amo, .cas, .lde, .stf],
      (s.slice ((s.group (r a).grp).owner (r a).addr)).ents.find? (fun e => e.maps (r a).dom (vbits (r a).addr / 65536)) = some ⟨0, 0, 1, 0x7F⟩ ∧
      leafUse s.module (r a).acc false 0 1 0x7F (vbits (r a).addr) = .inl 8) ∧
    (d.slice 0).ents.find? (fun e => e.maps 0 0) = none ∧ (d.slice 0).walks.length < 8 ∧ d.root 0 = some 0x10000 ∧
    (g.group 0).tiles = [0] ∧ (g.group 0).pnp = [((3 : BitVec 16).toNat, 7)] ∧ (g.slice 0).held = [⟨7, wHome .ld, 0⟩] ∧
    (g.slice 0).beyond = [] ∧ (g.slice 0).walks = [] ∧ n.tinvs = [i] ∧ i.ready ≤ n.now ∧ i.waits.any n.onWay = false ∧
    w.tinvs = [i] ∧ i.waits.any w.onWay = true := by decide
/-- A stream operator redc of two operands from channel 0. -/
def wSu : Su := ⟨0xB1, 0x0000008001000000, 0, 0, 0, .run, [], [], false, true, none, none, none, false, [], 0, 0, [], 0, 0, 0, 0, 0, 0⟩
/-- A generator that stores to output 0, and one for the stream unit. -/
def wGen : Gen := { Gen.zero with st := .running, esz := 3, dims := [⟨0, 4, 4, 8⟩] }
/-- StreamEnginesAtWork: a commit; a redc that takes an operand, has ended its words, writes its record; generators that issue and end. -/
theorem witness_StreamEnginesAtWork :
    let s := wE wSe 0 (fun e => { e with handles := [(0, ⟨.filling, 0, some [], 0⟩)], chans := [(0, ⟨.opened, [⟨⟨5, 1, .data⟩, .none, 0⟩], 0, []⟩)] })
    let x : Gen := { wGen with lit := 0x2000 }
    ((s.elem 0).hnd 0).commit = some [] ∧ (s.group (s.groupNo 0)).stopsAt 0 = false ∧ wSu.op = 0xB1 ∧ wSu.phase = .run ∧
    redcSeq wSu.lit = false ∧ wSu.count + 1 < redcN wSu.lit ∧ suHead (s.elem 0) (suIn0 wSu.lit) = some ⟨5, 1, .data⟩ ∧
    redcIdx wSu.lit 1 < redcN wSu.lit ∧ suIn0 wSu.lit < 32 ∧ wSu.status < 2 ^ 31 ∧
    x.elt x.k = .at_ 0 ∧ (0 : Int) + 2 ^ x.esz ≤ ((s.elem 0).progBytes : Int) ∧ gnDst wGen.lit < 32 ∧
    x.halt = false ∧ x.last < ({ s with now := 1 } : State).now ∧ x.fly = [] ∧
    0 < (wE (wRoute wSe 0 0) 0 (fun e => { e with work := { e.work with chans := [(0, 0x401)] } })).genRoom 0 0 wGen ∧
    s.genPortHolds 0 0 wGen = false ∧ gnLoc wGen.lit = false ∧ gnDst x.lit = 32 ∧ (tget [] 0 (s.elem 0).gbuf).length < 16 := by decide
/-- An ME whose terms all name the SE of site (0,0) by ring 0, which has handle 0 of 64 KiB. -/
def wMx (m : Me) (x : Hnd) : State :=
  let s := wMm 0x44 x
  let s := wE s 3 (fun e => { e with work := { e.work with meb := (0, 0x70000) }, me := m })
  wE s 0 (fun e => { e with work := { e.work with handles := [(0, (0x0000000000000001, 0x000003FF00000000))] } })
/-- MatrixEngineAtWork: a queue with room; a row with a part to come; planes that read, that end, that are complete; a row that
lands in ACC, one for an open handle, one whose halves differ; an output part; a handle to give notice of. -/
theorem witness_MatrixEngineAtWork :
    let m : Me := { Me.zero with mode := 0x44 }
    let p : MePlane := { MePlane.zero with st := .loading, load := 1, fmt := 4 }
    let y : MeFly := ⟨0, 3, false, [], 0, 0, 0, 0, false⟩
    let row : MeRow := ⟨2, [], 2, 0, false⟩
    let q := wMx { m with aq := ⟨some 0, 0, 0, []⟩ } .zero
    let r := wMx { m with aq := ⟨some 0, 0, 0, [row]⟩ } .zero
    let l := wMx { m with p0 := p } .zero
    let e : MePlane := { p with issued := 64, served := planeReads p * planeParts p - 1 }
    let f : MePlane := { p with served := planeReads p * planeParts p }
    let o := wMx { m with fly := [{ y with out := true }] } ⟨.filling, 1, none, 0⟩
    let w := wMx { m with outs := [⟨5, 0, 0, 0, List.replicate 256 0, [0, 1, 2, 3], 0⟩] } ⟨.filling, 1, none, 0⟩
    q.injs = [] ∧ (q.group (q.groupNo 3)).stopsAt 3 = false ∧ q.mePortHolds 3 0 = false ∧ l.mePortHolds 3 p.se = false ∧ bindHas (q.elem 3).work.meb 0 = true ∧ bindHas (q.elem 3).work.meb 3 = false ∧
    0 < (q.elem (bindSe 3 (q.elem 3).work.meb 5)).handleBytes 0 / aRowBytes 0x44 ∧ 64 ≤ aRowBytes 0x44 ∧
    (q.handleAddr (bindSe 3 (q.elem 3).work.meb 5) 0 0).isSome = true ∧ (r.elem 3).me.aq.rows = [row] ∧
    (∀ i < 8, r.poisoned (unitOf 64 + i) = false) ∧ row.parts.length + 1 < row.need ∧
    (l.elem 3).me.loadingPlane = some (false, p) ∧ p.bad = false ∧ p.issued < planeReads p ∧
    (l.handleAddr p.se p.handle (planeOffset p p.issued)).isSome = true ∧
    ({ m with p0 := e } : Me).loadingPlane = some (false, e) ∧ e.spa = false ∧
    e.served + 1 = planeReads e * planeParts e ∧ ({ m with p0 := f } : Me).loadingPlane = some (false, f) ∧ f.se ≠ 3 ∧
    y.due ≤ 0 ∧ y.out = false ∧ o.outOpen 3 = true ∧ o.outHandle 3 = some (0, 0) ∧ (w.elem 3).me.note = none ∧
    (w.handleAddr 0 0 (0 * 256 + 64 * 3)).isSome = true ∧ 3 < 256 / 64 ∧
    ({ y with red := true } : MeFly).red = true ∧ m.note = none ∧ (1 : Word) ≠ 0 ∧
    (∀ k ∈ (w.elem 3).me.outs, w.rowOpen k = true) ∧ ndel 3 [3] = ([] : List Nat) := by decide
/-- A copy of 64 bytes within this module. -/
def wCopy (ring : Bool) : CopyReq := { (default : CopyReq) with ea := 1, grp := 0, ring := ring, len := 64, dst := 64 }
def wFlow (f : Flow) : State := wTe.modHub 0 (fun h => { h with flows := [(0, f)] })
/-- CopiesAtWork: a copy that takes a flow; a bound ring; a flow that is not FREE; a granule to be read, and one read, the last of its
copy; a copy that waits. -/
theorem witness_CopiesAtWork :
    let x : Gran := ⟨3, 0, some 0, some 64, false, none, 0, 0, 0, 0, 0⟩
    let r : MReq := { MReq.zero with who := .flow 0 0, id := 3, acc := .st }
    let us : List (Nat × Bool) := List.replicate 8 (7, false)
    let f : Flow := { Flow.zero with st := .active, c := wCopy false, fly := [x] }
    let s := wFlow f
    let v := wFlow { f with fly := [{ x with data := some us }] }
    let b := wE (wFlow { f with c := wCopy true }) 0 (fun e => { e with rings := [(0, ⟨0, 0, some (0, 0), false⟩)] })
    (wTe.hub (wCopy true).tile).copies = [] ∧ (wTe.hub 0).freeFlow = some 0 ∧ ringBound wTe (wCopy true) = false ∧
    ((b.elem (b.flow 0 0).c.dstEa).ring (b.flow 0 0).c.dring).bound = some (0, 0) ∧ (s.flow 0 0) = f ∧ s.injs = [] ∧
    f.c.ring = false ∧ f.c.ssrc = false ∧ f.halt = false ∧ f.fly = [x] ∧ x.src = some 0 ∧ x.dst = some 64 ∧ s.defers = [] ∧ s.homeRefuses 0 0 false = none ∧ s.homeRefuses 0 64 true = none ∧
    (v.group f.c.grp).fencedAt 0 = false ∧ ((v.modGroup 0 (fun g => { g with fencedTiles := [0] })).group f.c.grp).fencedAt 0 = true ∧
    (v.flow 0 0).fly = [{ x with data := some us }] ∧ us.length = 8 ∧ f.code = 0 ∧ f.cancel = none ∧ (f.moved + 1) * 64 = f.c.len ∧
    v.agenda = [] ∧ (s.hub 0).copies = [] ∧ r.who = .flow 0 0 ∧ r.id = x.id ∧ r.acc = .st ∧ (0 % 2 ^ 44) % 64 = 0 ∧ (64 % 2 ^ 44) % 64 = 0 ∧
    ((wTe.modHub 0 (fun h => { h with copies := [wCopy false] })).hub 0).copies = [wCopy false] := by decide
/-- CopiesAtWork: no hub holds a copy that waits. -/
theorem witness_noCopies : ∀ h, (State.reset.hub h).copies = [] := fun _ => rfl
/-- Group 0 changed. -/
def wG (g : Group → Group) : State := wTe.modGroup 0 g
/-- HowGroupsEnd: each state in which a group ends, with a launch and without; contexts that have all exited, and one that has not; a
save of a launch. -/
theorem witness_HowGroupsEnd :
    let k : Kern := { Kern.zero with st := .draining }
    let l := { (wG (fun g => { g with st := .fenced, lid := some 4 })) with launches := [⟨4, 0, [], .running, some 0, none, 0, false, 0, 0, false, 0, 0, false, 0⟩] }
    let d := wG (fun g => { g with st := .draining })
    let x := wE d 1 (fun e => { e with ctxs := [(0, { e.ctx 0 with st := .exited })] })
    ((wG (fun g => { g with kern := k })).group 0).st = .live ∧ ((wG (fun g => { g with kern := k })).group 0).kern.st = .draining ∧
    (d.group 0).st = .draining ∧ d.allExited (d.group 0) = false ∧ x.allExited (x.group 0) = true ∧ (x.group 0).st = .draining ∧
    (d.group 0).lid = none ∧ (l.group 0).st = .fenced ∧ (l.group 0).lid = some 4 ∧ (l.launch 4).isSome = true ∧
    ((wG (fun g => { g with st := .retired })).group 0).st = .retired ∧ ((wG (fun g => { g with st := .saved })).group 0).st = .saved ∧
    ((wG (fun g => { g with st := .saved })).group 0).lid = none ∧
    (((wG (fun g => { g with st := .saved, lid := some 4 })).group 0).lid = some 4 ∧
      ({ (wG (fun g => { g with st := .saved, lid := some 4 })) with launches := l.launches }.launch 4).isSome = true) := by decide
/-- PreemptionAndResume: a LIVE group, one with a splice armed, one under a request, one that is none of these; a request past its
limit, soft and hard, and one
that waits for a splice; a FENCED group whose memory is in canonical form; a SAVED group with an origin where it fits, and
one whose save is of another module. -/
theorem witness_PreemptionAndResume :
    let q (h : Bool) : State := { wG (fun g => { g with st := .draining, plim := 0, preq := some ⟨0, h, true⟩ }) with now := 9 }
    let sv : Save := ⟨0x534B5255, 1, (wTe.group 0).w, (wTe.group 0).h, (wTe.group 0).kern.kid, 0, (wTe.group 0).dom, wTe.module, 64, 0, 0, [], 0, [], [], [],
      [], [], [], [], []⟩
    let a := { wG (fun g => { g with armed := true, plim := 0, preq := some ⟨0, true, false⟩ }) with now := 9 }
    let v := wG (fun g => { g with st := .saved, save := some sv, digest := sv.digest })
    (wTe.group 0).preq = none ∧ (wTe.group 0).st = .live ∧ (wTe.group 0).armed = false ∧
    ((wG (fun g => { g with armed := true })).group 0).armed = true ∧ (v.group 0).st ≠ .live ∧ (v.group 0).st ≠ .loading ∧
    (0x100000 : Word).getLsbD 20 = true ∧ (0 : Word).getLsbD 20 = false ∧
    (∀ h, (q h).groups = [(0, (q h).group 0)] ∧ ((q h).group 0).st = .draining ∧ ((q h).group 0).preq = some ⟨0, h, true⟩ ∧
      0 + ((q h).group 0).plim * 65536 ≤ (q h).now) ∧
    ((wG (fun g => { g with st := .fenced })).group 0).st = .fenced ∧ (wG (fun g => { g with st := .fenced })).Inv ∧
    (wTe.group 0).covers 0 = true ∧ tileOf 0 = 0 ∧
    a.groups = [(0, a.group 0)] ∧ (a.group 0).st = .live ∧ (a.group 0).armed = true ∧ (a.group 0).preq = some ⟨0, true, false⟩ ∧
    0 + (a.group 0).plim * 65536 ≤ a.now ∧ ({ sv with module := 1 } : Save).module ≠ v.module ∧ v.launchWaits 0 = false ∧
    (v.group 0).save = some sv ∧ (v.group 0).preq = none ∧ v.firstOrigin (v.group 0).w (v.group 0).h = some (0, 0) := by unfold State.Inv; decide
/-- PreemptionAndResume: a save of no records whose digest is the one kept. -/
theorem witness_Restore :
    let g := wTe.group 0
    let sv : Save := ⟨0x534B5255, 1, g.w, g.h, g.kern.kid, 0, g.dom, wTe.module, 64, 0, 0, [], 0, [], [], [], [], [], [], [], []⟩
    (wG (fun g => { g with st := .saved, save := some sv, digest := sv.digest })).saveHolds 0 sv true = true := by decide +kernel
/-- RecordsAndMachineChecks: a record with room at its hub and at the core; a first fault; an svc; a group whose state is hit. -/
theorem witness_RecordsAndMachineChecks :
    let r (n : Nat) : FRec := { (default : FRec) with code := 1, stage := n }
    let h := wTe.modHub 0 (fun x => { x with recs := [r 1] })
    let f := (wG (fun g => { g with st := .free })).modHub 0 (fun x => { x with recs := List.replicate 16 (r 1) })
    let v : Svc := ⟨3, 0, 0⟩
    (wTe.hub (r 0).hub).recs.length < 16 ∧ 16 ≤ (f.hub (r 0).hub).recs.length ∧ (f.group (r 0).grp.toNat).st ≠ .fenced ∧ (wTe.group 0).firstFault = none ∧ (r 0).code ≠ 0 ∧ (wTe.group 0).st ≠ .free ∧
    (h.hub (r 1).hub).recs = [r 1] ∧ (h.hub (r 1).hub).recWait = [] ∧ h.servicer 0 (r 1).hub = some 0 ∧ wTe.defers = [] ∧
    (h.core 0).evq.length < 64 ∧ (∀ h ∈ wTe.hubs, h.2.recs = []) ∧
    ((wC wTe 1 (fun c => { c with svc := some v })).ctx 1 0).svc = some v ∧ wTe.injs = [] ∧ wTe.groupAt 1 = some 0 := by decide

/-- A signed image without elements (Table 2-18): a header, one empty section, a trailer. -/
def wImage : List Byte := ([
  0x400001494b5255, 0x7, 0x10101, 0xd8, 0x40, 0x0, 0x0, 0x0,
  0x8, 0x58, 0x0, 0xfc710db70568968, 0x8bdb61a6f23247f8, 0x5348a6d347d5f69e, 0x1d27b868d69777dc, 0x692f44e9f925b732,
  0x44eb1ca8c511c2e3, 0x5cc835cebe1fcb2, 0xed9e4f20241f3dd1, 0x1a13bc6abaf81c6b, 0xc0609bc5622d9005, 0x99bad5806681abd0, 0x9040efcaa05c9c2, 0x0,
  0x0, 0x0, 0x0] : List Nat).flatMap (leBytes 8)
/-- Group 1, RESERVED for launch 4, and an enabled key for that image. -/
def wLoadS : State :=
  let s := wTe.modGroup 1 (fun g => { g with st := .reserved, lid := some 4, x := 1 })
  { s with summit := { s.summit with keys := [(0, ⟨sliceAt wImage 88 32, 0xFFFF, true⟩)] } }
def wLoad : LoadReq := ⟨1, false, wImage, none, some 4, none⟩
set_option maxRecDepth 10000 in
/-- LifeOfALaunch: an image that is accepted (R275), and its group has a launch. -/
theorem witness_LoadOfAnImage : (wLoadS.loadImage wLoad ((wLoadS.launch 4).map (fun x => BitVec.ofNat 64 (pktKid x.pkt)))).1 = (0, 0, 0) ∧
    ((wLoadS.loadImage wLoad ((wLoadS.launch 4).map (fun x => BitVec.ofNat 64 (pktKid x.pkt)))).2.group wLoad.grp).lid = some 4 ∧
    wLoad.readFault = none ∧ wLoad.splice = false ∧ wLoad.reply = none ∧ wLoad.launch = some 4 := by decide +kernel
/-- A packet of a launch of one tile, with 8 inline bytes, and its launch. -/
def wPkt : List Byte := (List.range 128).map (fun i => if i = 24 ∨ i = 25 then 1 else if i = 42 then 8 else 0)
def wLaunch (st : LSt) : Launch := ⟨4, 0, wPkt, st, some 0, none, 0, false, 0, 0, false, 0, 0, false, 0⟩
def wQueue (q : Queue) : State := { wTe with queues := [(0, q)], launches := [wLaunch .queued] }
/-- LifeOfALaunch: an idle push port; a queue that is DISABLED, one of another domain, one that takes the entry, domain 0, and a packet
out of range; the head of the only queue of a die that has launches, and tiles for it; a placed launch; one that ends; a die that is up. -/
theorem witness_LifeOfALaunch :
    let o := wQueue { Queue.zero with st := .opened, pri := 0, dom := 1, ents := [4] }
    let p := { wTe with launches := [wLaunch .placed] }
    (tget .zero 0 wTe.pushes).busy = false ∧ (wTe.queue 0).st = .disabled ∧ (wTe.die 0).released ≠ none ∧ (o.queue 0).st = .opened ∧
    (2 : Nat) ≠ (o.queue 0).dom ∧ (0 : Nat) ≠ (o.queue 0).dom ∧ (1 : Nat) = (o.queue 0).dom ∧ (1 : Nat) ≠ 0 ∧
    (∀ q ∈ dieQueues 0, (o.queue q).hold = false) ∧ (p.group 0).st ≠ .loading ∧ (wLaunch .running).rec_ = 0 ∧
    (wLaunch .running).kidFail = false ∧ ({ wLaunch .waitingChildren with kidFail := true } : Launch).live = true ∧ (pktRanges wPkt && pktClean wPkt) = true ∧ (pktRanges [] && pktClean []) = false ∧
    (o.queue 0).ents.length < 64 ∧ 0 ∈ dieQueues 0 ∧ (∀ q ∈ dieQueues 0, q ≠ 0 → (o.queue q).ents = []) ∧ (o.queue 0).pri ≤ 7 ∧
    (o.queue 0).ents = [4] ∧ (o.queue 0).back = [] ∧ (o.queue 0).waiting = [] ∧ o.launch 4 = some (wLaunch .queued) ∧
    o.waitOk (wLaunch .queued) = true ∧ o.beforeCycle.firstOrigin 1 1 = some (1, 0) ∧ (wLaunch .queued).shape = (1, 1) ∧
    (rectTiles 1 0 1 1).all o.tileFree = true ∧ p.launch 4 = some (wLaunch .placed) ∧ p.inlineBad (wLaunch .placed) = true ∧
    (wE p 0 (fun e => { e with work := { e.work with ecw := 1 } })).inlineBad (wLaunch .placed) = false ∧
    pktInlen wPkt = 8 ∧ (wLaunch .placed).live = true ∧ pktFlag wPkt flagRecen = false ∧ wTe.dieUp 0 = true := by decide
/-- A command of die 0, port 0. -/
def wCmd (a v : Word) : Cmd := ⟨0, 0, 0xF0000000, 0, a, v⟩
/-- The three elements of tile 0, with a route of one target in both planes of the TE, and their configurations in place. -/
def wCfg : State :=
  let r := tput Route.zero 0 ⟨1, [(0, 0)]⟩ []
  let s := wE wTe 1 (fun e => { e with p0 := { e.p0 with routes := r }, p1 := { e.p0 with routes := r } })
  { s with elems := tput .zero 0 (wSe.elem 0) (tput .zero 3 (wMe.elem 3) s.elems) }
/-- WritesToElementsAndPartialOnes: every item at its element in the shadow plane, one that breaks R281, one to the active plane of a
busy element, one that changes RND alone; a partial reconfiguration with nothing in flight. -/
theorem witness_WritesToElementsAndPartialOnes :
    let w := (wCfg.elem 1).work.ecw
    let c (ea item : Nat) (v : Word) : Bool := wCfg.itemBad (wCmd (BitVec.ofNat 64 (ea + 0x4000)) v) item
    let p := wE wCfg 1 (fun e => { e with partials := [(w ^^^ 0x40, 0, 0)] })
    (wCmd 1 0).clean = true ∧ c 1 0 w = false ∧ c 1 1 0 = false ∧ c 1 2 0 = false ∧ c 1 3 5 = false ∧ c 1 4 0x100 = false ∧ c 1 5 1 = false ∧
    c 1 6 0 = false ∧ c 3 7 0 = false ∧ c 0 8 0 = false ∧ c 1 5 9 = true ∧ (wCfg.elem 1).planeOf (wCmd 0x4001 0).plane ≠ (wCfg.elem 1).act ∧
    (wCfg.elem 1).planeOf (wCmd 1 0).plane = (wCfg.elem 1).act ∧ wCfg.busyElem 1 = true ∧ wCfg.itemBad (wCmd 1 (w ^^^ 0x40)) 0 = false ∧
    rndWwOnly w (w ^^^ 0x40) = true ∧ rndWwOnly w w = false ∧ (p.elem 1).partials = [(w ^^^ 0x40, 0, 0)] ∧ p.resultsOut 1 = false ∧
    (p.elem 1).marked = false ∧ (p.elem 1).me.loading = false := by decide
/-- WritesToHubs: a partition, barriers of a LIVE and of a RESERVED group, a waiter target, a tag pool. -/
theorem witness_WritesToHubs :
    let r := wG (fun g => { g with st := .reserved })
    let b (s : State) : State := s.modHub 0 (fun h => { h with bars := [(0, { Bar.zero with st := .armed, waiters := [0] })] })
    hubAddrOk (wCmd 0 0x201) 9 = true ∧ partBad (r.hub 0) 0 0x201 = false ∧ r.partQueued 0 ((r.hub 0).part 0) = false ∧
    r.partQueued 0 (partOf 0x201) = false ∧ hubAddrOk (wCmd 0 0x10002) 10 = true ∧ (b r).barBusy 0 0 = false ∧ (b wTe).barBusy 0 0 = true ∧
    hubAddrOk (wCmd 0 0) 11 = true ∧ 0 < ((b r).hub 0).bars.length ∧ (wCmd 0 0).wt < (((b r).hub 0).bar 0).waiters.length ∧
    (b r).waiterBad 0 0 0 0x500000000 = false ∧ hubAddrOk (wCmd 0 0x104) 12 = true ∧ r.groupAt 0 = some 0 ∧ (r.group 0).origin = 0 ∧
    poolBad (r.group 0) 0 4 1 0 = false ∧ (r.group 0).st = .reserved := by decide
/-- SwapsAndSplices: an element that is not busy with a sound shadow, one that is; a group that may splice, with equal and
unequal spill maps, its own KID and another, and one that may not; an armed
element, with and without a later write; a settled element with a data word. -/
theorem witness_SwapsAndSplices :
    let k : Word := (wCfg.elem 1).work.ecw >>> 48 <<< 16
    let c : Cmd := wCmd 1 k
    let g : Group := ((wCfg.groupAt 1).map wCfg.group).getD .zero
    let s := wE wTe 1 (fun e => { e with p1 := { Plane.zero with ecw := 0x100000000003C } })
    let i := { s with groups := [] }
    let a := wE wTe 1 (fun e => { e with armed := true })
    let h := wHead a 1 .data 0
    let n (p : Plane) : State := wE (wG (fun g => { g with kern := { g.kern with st := .running, kid := 7 } })) 1 (fun e => { e with p1 := p })
    let u := n (wTe.elem 1).p0
    c.value.extractLsb' 3 13 = 0 ∧ c.value >>> 32 = 0 ∧ c.scope = false ∧ c.kid16 = (wCfg.elem 1).work.ecw.extractLsb' 48 16 ∧
    (s.planeEnv g [1]).check c.kid16 [1] = none ∧ s.busyElem 1 = true ∧
    (i.planeEnv { Group.zero with x := eaTx 1, y := eaTy 1 } [1]).check c.kid16 [1] = none ∧ i.groupAt 1 = none ∧ i.busyElem 1 = false ∧
    (wTe.elem 1).armed = false ∧ (wCmd 0 (k + 4)).scope = true ∧ ((wG (fun g => { g with kern := { g.kern with st := .running } })).group 0).kern.st = .running ∧
    (wTe.group 0).armed = false ∧ (wTe.group 0).holdsTiles = true ∧ ((wG (fun g => { g with armed := true })).group 0).armed = true ∧
    a.groupNo 1 = 0 ∧ (a.elem 1).armed = true ∧ (a.elem 1).armedWrite = none ∧
    ((wE a 1 (fun e => { e with armedWrite := some 9 })).elem 1).armedWrite = some 9 ∧
    (u.group 0).st = .live ∧ (u.group 0).kern.st = .running ∧ (u.group 0).armed = false ∧
    (∀ tile ∈ (u.group 0).tiles, spillKey (fun x => (u.elem x).active) tile = spillKey (fun x => (u.elem x).shadow) tile) ∧
    (wCmd 0 0x70004).kid16 = (u.group 0).kern.kid.setWidth 16 ∧ (wCmd 0 0x40004).kid16 ≠ (u.group 0).kern.kid.setWidth 16 ∧
    ¬ spillKey (fun x => ((n .zero).elem x).active) 0 = spillKey (fun x => ((n .zero).elem x).shadow) 0 ∧
    (h.elem 1).offending = some (0, ⟨⟨5, 0, .data⟩, .none, 0⟩) := by decide
set_option maxRecDepth 4000 in
/-- SwapsAndSplices: the shadow planes of a whole group pass their checks, and one of its elements is not empty; its kernel may have
another KID or theirs; other contexts make another spill map; planes of another KID fail. -/
theorem witness_SpliceOfAGroup :
    let s := wE (wG (fun g => { g with kern := { g.kern with st := .running, kid := 7 } })) 1
      (fun e => { e with p1 := { Plane.zero with ecw := 0x100000000003C } })
    let k : BitVec 16 := (s.elem 1).work.ecw.extractLsb' 48 16
    let f := wE s 1 (fun e => { e with p1 := { Plane.zero with ecw := 0x1000000000004 } })
    let o := s.modGroup 0 (fun g => { g with kern := { g.kern with kid := k.setWidth 64 } })
    (f.planeEnv (f.group 0) (f.group 0).sites).check k (f.group 0).sites = none ∧ 0 ∈ (f.group 0).tiles ∧
    ¬ spillKey (fun x => (f.elem x).active) 0 = spillKey (fun x => (f.elem x).shadow) 0 ∧
    (o.planeEnv (o.group 0) (o.group 0).sites).check k (o.group 0).sites = none ∧ k = (o.group 0).kern.kid.setWidth 16 ∧
    (o.group 0).st = .live ∧ (o.group 0).kern.st = .running ∧ (o.group 0).armed = false ∧
    (∀ tile ∈ (o.group 0).tiles, spillKey (fun x => (o.elem x).active) tile = spillKey (fun x => (o.elem x).shadow) tile) ∧
    ((s.planeEnv (s.group 0) (s.group 0).sites).check (k + 1) (s.group 0).sites).isSome = true ∧
    (s.group 0).st = .live ∧ (s.group 0).kern.st = .running ∧ (s.group 0).armed = false ∧ k ≠ (s.group 0).kern.kid.setWidth 16 ∧
    (∀ tile ∈ (s.group 0).tiles, spillKey (fun x => (s.elem x).active) tile = spillKey (fun x => (s.elem x).shadow) tile) ∧
    (s.planeEnv (s.group 0) (s.group 0).sites).check k (s.group 0).sites = none ∧
    1 ∈ (s.group 0).sites ∧ (s.elem 1).active.isEmpty = false := by decide +kernel
/-- ServiceCommands: injections of a tile's array, and of none; error logs of a tile and a base die; a domain; a QUIESCENT group. -/
theorem witness_ServiceCommands :
    let d := { wTe with doms := [(0, ⟨7, true, none, 0, 0, 0, 0⟩)] }
    injTarget (wCmd 1 6) = some (6, 0) ∧ injTarget (wCmd 1 13) = none ∧ (wCmd 2 0).addr.getLsbD 0 = false ∧ (wCmd 3 0).addr.getLsbD 0 = true ∧
    d.domSlot (7 % 65536) = some 0 ∧ (0x1001 : Word).toNat / 2 % 2 ^ 11 = 0 ∧
    ((wG (fun g => { g with st := .quiescent })).group 0).st = .quiescent ∧ (wTe.group 0).st ≠ .quiescent := by decide
/-- Domain 0 has a table of four levels at 64 KiB and up, whose first page is a leaf of rights RD, WR and AT. -/
def wTable : State :=
  { wTe with
    doms := [(0, ⟨0, true, some 0x10000, 0x60000, 0x70000, 0, 1⟩)]
    mem := [(0x10000, 1), (0x10002, 0x20), (0x20000, 1), (0x20002, 0x30), (0x30000, 1), (0x30002, 0x40), (0x40000, 1), (0x40002, 0x50), (0x50000, 0x1F)] }
/-- A migration of page 0 to the capacity tier. -/
def wMigr : MigReq := ⟨0, 0, 0, 1, 0, 0, 0, true, 0, 0, 0⟩
set_option maxRecDepth 4000 in
/-- MigrationsAndAppends: a migration of a missing page, with a record and without; one that is accepted. -/
theorem witness_MigrationsAndAppends :
    wTe.migrCheck wMigr = .inl 1 ∧ wTe.migrCheck { wMigr with record := 64 } = .inl 1 ∧ wTable.migrCheck wMigr = .inr (0x50000, 0x1F) ∧
    (wTable.takeFrame 0 1).isSome = true ∧ ∀ r, wTable.takeFrame 0 1 = some r → r.2.mem = wTable.mem ∧ r.2.now = wTable.now ∧
      r.2.serial = wTable.serial ∧ r.2.migs = wTable.migs := by
  refine ⟨by decide, by decide, by decide, by decide, ?_⟩
  rintro r h
  obtain rfl := Option.some.inj (h.symm.trans rfl)
  exact ⟨rfl, rfl, rfl, rfl⟩
set_option maxRecDepth 4000 in
/-- MigrationsAndAppends: a line to be copied, sound and with a poisoned unit; lines written since; a migration that commits; append
ports, idle in range and out of it, and busy. -/
theorem witness_Commits :
    let x (lines : List Nat) (pass : Nat) : Mig := ⟨wMigr, 0x50000, 0x1F, 0, 0x100000, pass, 0, 0, lines⟩
    let c := { wTable with migs := [(3, x [] 4)] }
    let l := { wTable with migs := [(3, x [0, 1] 0)] }
    let p (a : Append) : State := { wTe with appends := [(0, a)] }
    l.Inv ∧ l.poison = [] ∧ (x [0, 1] 0).lines = 0 :: [1] ∧ (∃ u ∈ (l.setPoison 3 true).poison, u / 8 = (0 % 2 ^ 44 + 64 * 0) / 64) ∧
    wMigr.record = 0 ∧ (x [] 0).pass < 4 ∧ (4 : Nat) ≤ (x [] 4).pass ∧ c.injs = [] ∧
    c.Inv ∧ c.poison = [] ∧ c.domSlot 0 = some 0 ∧ (c.dom 0).fast.toNat + 8 * (c.dom 0).fastN.toNat = 0x60000 ∧ pteTier 0x1F = 0 ∧
    appendBad 0 ((p ⟨0x10000000000, 0x2000, 0, 0⟩).append 0) = false ∧ appendBad 0 ((p ⟨8, 0x2000, 0, 0⟩).append 0) = true ∧
    ((p ⟨0x10000000000, 0x2000, 1, 9⟩).append 0).stat = 1 ∧ (p ⟨0x10000000000, 0x2000, 1, 9⟩).Inv := by
  unfold State.Inv; decide
/-- MigrationsAndAppends: a line of the page at 0 that its new frame does not hold. -/
theorem witness_ChangedLines : { wTable with mem := (8, 1) :: wTable.mem }.changedLines 0 0x100000 ≠ [] := by decide +kernel
/-- One link. -/
def wLink (x : Link) : State := { wTe with xlinks := [(0, x)] }
/-- StatesOfALink: each state of a link, with training that is over and begun from UP and DOWN, and a NAK for a SEQ not in its buffer. -/
theorem witness_StatesOfALink :
    let l (st : LkSt) : Link := { Link.zero with st := st }
    ((wLink (l .down)).xlink 0).st = .down ∧ ((wLink (l .fenced)).xlink 0).st = .fenced ∧ (l .up).active = true ∧ (l .up).carries = true ∧
    ({ l .down with enable := true } : Link).since + 1900000 ≤ ({ wTe with now := 1900000 } : State).now ∧
    (l .training).st = .training ∧ linkLanes 0 / 2 ≤ 4 ∧ 3 < linkLanes 0 / 2 ∧ (l .training).fromUp = false ∧ ({ l .training with fromUp := true } : Link).st = .training ∧ (l .up).pending = [] ∧
    (l .up).replay.any (fun f => f.seq == 5) = false := by decide
/-- StatesOfALink: no other link trains. -/
theorem witness_oneLink (x : Link) (k : Nat) (h : k ≠ 0) : ((wLink x).xlink k).st ≠ .training := by
  unfold State.xlink wLink
  simp [tget, h]
/-- A DATA flit of SEQ 1 with its CRC, and one that is damaged. -/
def wFlit : List Byte :=
  let b := leBytes 4 0x1000001 ++ List.replicate 60 0
  b ++ leBytes 4 (crc32 b)
/-- TrafficBetweenModules: a flit in its turn and a damaged one; requests that wait for a port on
their die, on another, and beyond a held one, and that have waited too long; requests
from this pod and another, a copy through an open window and one through none. -/
theorem witness_TrafficBetweenModules :
    let s := { wLink { Link.zero with st := .up } with routeTab := [(1, 1)], windows := [(0, (0x3, 0, 64))] }
    let q : Remote := ⟨{ wHome .ld with pa := 2 ^ 44 }, 0, none, 0, .held, false⟩
    let g : Remote := { q with link := some 0, st := .sent, r := { q.r with fen := true } }
    let h := { s with remotes := [q], farHeld := [⟨0, 1, 0, false, .st, 0, 3, false, true, false, 0, 0, 0, [], false, 5⟩] }
    let v := { s with dies := [(0, wTe.die 0), (1, wTe.die 0)] }
    let r (m : Nat) (copy : Bool) : RemoteReq := ⟨0, m, 0, copy, .st, 0, 3, false, false, false, 0, 0, 0, List.replicate 64 0, false, 5⟩
    (s.xlink 0).carries = true ∧ flitOk wFlit = true ∧ flitType wFlit = 1 ∧ flitSeq wFlit = ((s.xlink 0).rxSeq + 1) % 4096 ∧
    (tget 0 (1 % 1024) s.routeTab).getLsbD 0 = true ∧ (s.xlink 0).pending = [] ∧ flitOk (2 :: wFlit.tail) = false ∧ (s.xlink 0).nakTx < 7 ∧
    pickPort (s.portSet (q.r.pa / 2 ^ 44)) (q.r.pa / 2 ^ 44) (s.portAddr q.r) = some 0 ∧ (s.xlink 0).rto ≠ 0 ∧
    s.heldDie (eaDie q.r.ea) (portDie 0) = none ∧ 24 * dieDist (eaDie q.r.ea) (portDie 0) = 0 ∧ h.remotes = [q] ∧ q.st = .held ∧ q.r.ord = false ∧
    g.st = .sent ∧ g.r.ord = false ∧ g.link = some 0 ∧ g.r.fen = true ∧ (h.farHeld.map (fun x => (x.srcModule, x.id, x.ord))) = [(1, 5, true)] ∧ s.injs = [] ∧
    ((1, 5) : Nat × Nat) ∉ s.farTokens ∧ wTe.portSet 1 = 0 ∧ ({ h with remotes := [] }.endRemote q 0x61 0).remotes = [] ∧
    ({ h with remotes := [] }.endRemote q 0x03 65).remotes = [] ∧
    v.heldDie 1 (portDie 0) = none ∧ 0 < 24 * dieDist 1 (portDie 0) ∧ eaDie 2048 = 1 ∧ s.heldDie 1 (portDie 0) = some 1 ∧
    (r 1 true).addr % 64 = 0 ∧ s.defers = [] ∧ (s.xlink 0).replay.length < 512 ∧ q.since + (s.xlink 0).rto * 2 ^ 16 ≤ 2 ^ 20 ∧
    (r 1 false).srcModule / 1024 % 1024 = s.module / 1024 % 1024 ∧ regionOf (r 1 false).addr = .hbm ∧ regionOf 7 = .hbm ∧ regionOf 63 = .hbm ∧
    s.homeFault 0 0 = none ∧ s.windowOpen 1 0 64 = true ∧ (r 1 true).bytes.length = 64 ∧
    (r 1024 false).srcModule / 1024 % 1024 ≠ s.module / 1024 % 1024 ∧ s.windowOpen 2 0 64 = false := by decide +kernel
/-- The page at 0 is in both caches of stack 0's engines; it holds the descriptor of a graph of one node of 64 bytes. -/
def wEng (e : Engine) : State :=
  { wTe with
    bases := [(0, { Base.zero with ents := [⟨0, 0, 1, 0x3F⟩], sents := [⟨0, 0, 1, 0x3F⟩] })]
    mem := [(0, 64), (4, 1), (5, 8), (8, 1), (0x11, 0x10), (0x18, 1)], engines := [(0, e)] }
/-- A query of one entry, its packet changed at one byte, whose vector is one row. -/
def wQry (at_ : Nat) (v : Byte) : Query :=
  let pkt : List Byte := (List.range 192).map (fun i => if i = at_ then v else if i = 8 ∨ i = 10 ∨ i = 12 ∨ i = 16 then 1 else 0)
  { Query.fresh (wHome .qry) pkt 1 0 none with rows := [(0, List.replicate 64 0)], vec := List.replicate 64 0 }
/-- The same, admitted, with one node known. -/
def wRun : Query := { wQry 0 0 with active := true, desc := (wEng .zero).readBytes 0 272, heap := [⟨0, 0, false⟩] }
def wEq (q : Query) : State := wEng { Engine.zero with queries := [q] }
/-- Every bank of HBM serves something else in this cycle. -/
def wBusy (s : State) : State := { s with banks := (List.range 512).map (fun i => (2 ^ 25 + i, { Bank.zero with free := 1 })) }
set_option maxRecDepth 10000 in
/-- QueriesAndScree: a request that takes a place in the table, and the last row of its packet; a batch of another stack; an abort. -/
theorem witness_Tables :
    let r : MReq := wHome .qry
    let t := wE (wEng .zero) 0 (fun e => { e with table := [⟨{ r with stage := 1 }, 0, 16, [(1, []), (2, [])], false⟩] })
    let pkt := rowBytes 3 ((0, t.readBytes (seAddr 0 0) 64) :: [(1, []), (2, [])])
    (wEng .zero).injs = [] ∧ ((wEng .zero).elem r.dst).tabWait = [] ∧ ((wEng .zero).elem r.dst).table = [] ∧
    (wEng .zero).portHolds 5 (seBank r.dst) = false ∧ (t.tabOf { r with stage := 1 }).isSome = true ∧
    (∀ i < 8, t.poisoned (unitOf (seAddr 0 0) + i) = false) ∧ t.stackDown (pktHome pkt) = false ∧ t.wayDown 0 (pktHome pkt / 2) = false ∧
    ({ wRun with batches := [⟨1, [0], false, 0, 0, [], none⟩] } : Query).batches = [⟨1, [0], false, 0, 0, [], none⟩] ∧
    ({ wHome .qabort with stage := 3, endp := 0x80, ren := true } : MReq).out < localOut ∧
    ({ wRun with fin := some (4, 0, 0) } : Query).left = 0 ∧ wRun.fin = none := by decide +kernel
set_option maxRecDepth 10000 in
/-- QueriesAndScree: a packet with a reserved field, one outside Table 16-2, one that passes its checks, and one that must wait for a bank. -/
theorem witness_Admissions :
    let q := wQry 0 0
    let o := wQry 8 0
    q.fin = none ∧ q.ready ≤ 0 ∧ q.need ≤ q.rows.length ∧ q.desc = [] ∧ (wQry 0x12 1).pktReserved = true ∧
    (match (wEq o).inService (fun s => s.queryCheck 0 o) with | some (.inr _, u) => (u.engine 0).queries == [o] | _ => false) = true ∧
    (match (wEq q).inService (fun s => s.queryCheck 0 q) with | some (.inl _, u) => (u.engine 0).queries == [q] | _ => false) = true ∧
    ((wBusy (wEq q)).inService (fun s => s.queryCheck 0 q)).isNone = true := by decide +kernel
set_option maxRecDepth 10000 in
/-- QueriesAndScree: a query with a candidate and one without; a node of a batch that is measured, one that must wait for a bank, and a batch
that is done. -/
theorem witness_Steps :
    let b : Query := { wRun with batches := [⟨0, [0], false, 2, 0, [], none⟩] }
    let e : Engine := { Engine.zero with queries := [b], cur := some (0, b.r.id) }
    (wEq wRun).engines = [(0, (wEq wRun).engine 0)] ∧ ((wEq wRun).engine 0).cur = none ∧ ((wEq wRun).engine 0).jobs = [] ∧
    wRun.canStep 9 = true ∧ wRun.heap.find? (fun x => !x.done) = some ⟨0, 0, false⟩ ∧
    (({ wRun with heap := [] } : Query).heap.find? (fun x => !x.done)).isNone = true ∧ (wEng e).engines = [(0, e)] ∧ e.jobs = [] ∧
    (match (wEng e).inService (fun s => s.readNode b 0 0) with
      | some (.inl _, u) => u.engines == (wEng e).engines && u.now == (wEng e).now | _ => false) = true ∧
    ((wBusy (wEng e)).inService (fun s => s.readNode b 0 0)).isNone = true ∧ b.faults = [] ∧ b.hops < b.hoplim := by decide +kernel
set_option maxRecDepth 10000 in
/-- QueriesAndScree: queries at their end: one without results, one with a result to write, and the places of both. -/
theorem witness_Ends :
    let q : Query := { wRun with fin := some (0, 0, 0), heap := [] }
    let w : Query := { q with left := 1, sel := [⟨0, 0, true⟩] }
    q.left = 0 ∧ (match (wEq q).inService (fun s => s.chooseResults 0 q) with
      | some (.inl [], u) => (u.engine 0).queries == [q] && u.now == (wEq q).now | _ => false) = true ∧
    w.left = 1 ∧ (match (wEq w).inService (fun s => s.writeResults 0 w w.count (w.sel.take 8)) with
      | some ((_, none), u) => (u.engine 0).queries == [w] | _ => false) = true := by decide +kernel
/-- A Scree request for one element of 8 bytes; the indices are at 0. -/
def wScree (a : Acc) (v : Byte) : ScreeReq :=
  ⟨wHome a, 0, (List.range 64).map (fun i => if i = 0x10 then 1 else if i = 0x14 then 8 else if i = 0x16 then v else 0), 0, some (List.replicate 64 0),
    [(0, List.replicate 64 0)], none, 0, [], false⟩
set_option maxRecDepth 10000 in
/-- QueriesAndScree: a request with a reserved field; a gather and a scatter that are due, and a gather that must wait for a bank; answers
with bytes and without; the rows and the record of an answer. -/
theorem witness_Scree :
    let e (q : ScreeReq) : State := wEng { Engine.zero with scree := [q] }
    let g := wScree .gat 0
    let c := wScree .sca 0
    let h := wHnd ⟨.filling, 1, none, 0⟩
    let t := wE (e { g with fin := some (0, 0, 0, 1, 0) }) 0 (fun e => { e with table := [⟨wHome .gat, 0, 0, [], false⟩] })
    ((e { wScree .gat 0xFF with idx := none }).screeCheck { wScree .gat 0xFF with idx := none }).isSome = true ∧
    ((e g).engine 0).screeDue g ≤ (500 : Nat) ∧ g.busy = false ∧ g.n = 1 ∧
    (match (e g).inService (fun s => s.gatherAll 0 g (List.replicate 64 0) 0 g.n) with
      | some ((_, _), u) => (u.engine 0).scree == [g] && u.now == (e g).now | _ => false) = true ∧
    c.need ≤ c.rows.length ∧ (match (e c).inService (fun s => s.scatterAll 0 c (List.replicate 64 0) (rowBytes c.need c.rows)) with
      | some (_, u) => (u.engine 0).scree == [c] && u.now == (e c).now | _ => false) = true ∧
    ((wBusy (e g)).inService (fun s => s.gatherAll 0 g (List.replicate 64 0) 0 g.n)).isNone = true ∧
    (h.handleAddr 0 0 0).isSome = true ∧ t.screeOf { wHome .gat with stage := 8 } = some (0, { g with fin := some (0, 0, 0, 1, 0) }) ∧
    64 * 0 + 64 ≤ (List.replicate 64 (0 : Byte)).length := by decide +kernel
/-- A message for crest core 0. -/
def wMsg (type : BitVec 16) (dom : BitVec 16) (arg0 : BitVec 32) (arg1 : Word) (b : List Byte) : Msg := ⟨type, 0, 0, 5, dom, 1, arg0, arg1, b⟩
set_option maxRecDepth 4000 in
/-- MessagesOfTheControlNode: a core that is ready, one that serves another message, messages of the right shape and of a wrong one; a range
of HBM, of the capacity tier, of a window with and without a route; registers that are there, that are another's; domains to create and to destroy. -/
theorem witness_MessagesOfTheControlNode :
    let b : List Byte := List.replicate 8 1
    let d := { wTe with doms := [(0, ⟨7, true, none, 0, 0, 0, 0⟩)] }
    (wTe.core 0).inq = [] ∧ wTe.canServe (wMsg 3 0 8 0 []) = true ∧ (wMsg 3 0 8 0 []).wellShaped = true ∧ (wMsg 3 0 8 0 b).wellShaped = false ∧
    ((wTe.modCore 0 (fun c => { c with serving := some (wMsg 3 0 8 0 []) })).core 0).serving.isSome = true ∧
    (wMsg 4 0 8 0 b).wellShaped = true ∧ regionOf 0 = .hbm ∧ wTe.viewFault 0 0 = false ∧ regionOf 0x10000000000 = .capacity ∧ wTe.viewFault 0 0x10000000000 = false ∧ (wMsg 5 0 0 0xF0000110000 []).wellShaped = true ∧
    (wMsg 3 0 8 (BitVec.ofNat 64 (wTe.module * 2 ^ 44 + tsAddr 0 0 64)) []).arg1.toNat = wTe.module * 2 ^ 44 + tsAddr 0 0 64 ∧
    tsAddr 0 0 64 < 2 ^ 44 ∧ regionOf (tsAddr 0 0 64) = .window ∧ wTe.windowBusy (tsAddr 0 0 64) = false ∧
    wTe.canServe (wMsg 3 0 8 (BitVec.ofNat 64 (tsAddr 0 0 64)) []) = true ∧ wTe.canServe (wMsg 4 0 8 (BitVec.ofNat 64 (tsAddr 0 0 64)) b) = true ∧
    (wTe.modHub 0 (fun h => { h with parts := [(0, ⟨0, 1, 0⟩)] })).windowBusy (tsAddr 0 0 64) = true ∧
    Agent.may .control 0x110000 = true ∧ wTe.regUp 0x110000 = true ∧ regAt 0x110000 = .signal 0 ∧ (wMsg 6 0 0 0xF0000110000 b).wellShaped = true ∧
    Agent.may .control 0x120080 = false ∧ (wMsg 7 0 1 0 []).wellShaped = true ∧ (wMsg 2 0 3 0 wPkt).wellShaped = true ∧
    wTe.canServe (wMsg 2 0 3 0 wPkt) = true ∧ wTe.dieUp 0 = true ∧ (wMsg 8 7 0 0 []).wellShaped = true ∧ wTe.domSlot 7 = none ∧
    wTe.freeDom = some 0 ∧ d.domSlot 7 = some 0 ∧ d.domInUse 7 = false := by decide +kernel
set_option maxRecDepth 10000 in
/-- MessagesOfTheControlNode: an image that comes in the payload is accepted, and its group has no launch. -/
theorem witness_LoadOfAPayload :
    let m := wMsg 1 0 0 0 wImage
    let s := wLoadS.modGroup 1 (fun g => { g with lid := none })
    let l : LoadReq := ⟨1, m.arg0 == 1, m.payload, none, none, some m⟩
    m.wellShaped = true ∧ s.canServe m = true ∧ (s.loadImage l none).1 = (0, 0, 0) ∧ ((s.loadImage l none).2.group 1).lid = none := by
  decide +kernel
/-- AccessesOfTheCrestCores: a register of each kind; an access not allowed, and one to a die held in reset; an svc without an answer and none;
windows with and without a route; statuses that are there and that are not; deferred accesses of an empty and a full unit; cores that are up and that are off. -/
theorem witness_AccessesOfTheCrestCores :
    let c : Agent := .crest 0 0
    let v := wC wTe 1 (fun x => { x with svc := some ⟨3, 0, 0⟩ })
    let p := wTe.modCport 0 0 (fun x => { x with replies := [(0, 7), (3, 8)] })
    let q : MReq := { wHome .lde with dom := 0 }
    let f : MReq := wHome .stf
    let l := { wTe with defers := [q] }
    let k := ({ wTe with defers := [f] }).setFull 1 true
    let w : MReq := { wHome .st with who := .core 0, slot := 1 }
    c.may 0x110000 = true ∧ Agent.may .other 0x110000 = false ∧ wTe.regUp 0x110000 = true ∧ wTe.regUp 0x700110000 = false ∧
    regAt 0x110000 = .signal 0 ∧ regAt 0x800110000 = .route 0 ∧ regAt 0 = .command 0 0 0 ∧ regAt 8 = .command 0 0 1 ∧
    regAt 16 = .command 0 0 2 ∧ (cmdInstr (wCmd 0 0)).isSome = true ∧ (v.ctx 1 0).svc.isSome = true ∧ v.svcAnswered 1 0 = false ∧
    (wTe.ctx 1 0).svc = none ∧ (p.cport 0 0).replies = (0, 7) :: [(3, 8)] ∧ (0 : Nat) ≤ p.now ∧ (∀ x ∈ (wTe.cport 0 0).replies, wTe.now < x.1) ∧
    wTe.defers = [] ∧ l.deferred 1 false = some q ∧ q.endp = 0x82 ∧ l.isFull 1 = false ∧ unitOf (q.pa % 2 ^ 44) = 1 ∧ q.who = .firing ∧ q.out < localOut ∧
    k.deferred 1 true = some f ∧ f.endp = 0x82 ∧ f.acc = .stf ∧ k.isFull 1 = true ∧ wTe.coreUp (coreId 0 0) = true ∧ regionOf 0x40 = .hbm ∧ wTe.viewFault 0 0x40 = false ∧ w.stage = 1 ∧ w.parity = false ∧ w.pa % 8 = 0 ∧ wTe.offHome w = none ∧ wTe.injs = [] ∧
    regionOf (tsAddr 0 0 64) = .window ∧ wTe.viewFault 0 (tsAddr 0 0 64) = false ∧ wTe.windowBusy (tsAddr 0 0 64) = false ∧
    (wTe.modHub 0 (fun h => { h with parts := [(0, ⟨0, 1, 0⟩)] })).windowBusy (tsAddr 0 0 64) = true ∧ tsAddr 0 0 64 % 8 = 0 ∧
    regionOf 0xF0000110000 = .regs ∧ wTe.coreUp (coreId 7 0) = false := by decide
/-- A public key. -/
def wKey : List Byte := ([
  0xfc710db70568968, 0x8bdb61a6f23247f8, 0x5348a6d347d5f69e, 0x1d27b868d69777dc] : List Nat).flatMap (leBytes 8)
/-- A firmware image of component 0 and version 1, signed by that key: a header and its signature. -/
def wFw : List Byte := ([
  0x100000000, 0x0, 0x0, 0x0, 0x0, 0x0, 0x0, 0x0,
  0x6ca25d28cadc2a95, 0xcdb87c8e644f7a00, 0x92211cb5683c7987, 0xd0ff7a7675284ff5, 0xf367905534accebf, 0x9ab0c0eca5dc151c, 0xc93fd207b76c531e, 0x42102a37a4416c8] : List Nat).flatMap (leBytes 8)
/-- KEYSET data: an entry for index 2 and counter 1, signed by that key (Table 19-3). -/
def wKeyset : List Byte := ([
  0x2, 0xfc710db70568968, 0x8bdb61a6f23247f8, 0x5348a6d347d5f69e, 0x1d27b868d69777dc, 0x1ffff, 0x1, 0x9cd52ac19a5c97a5,
  0x217dea378d4d00db, 0x35bebd282d7d88e2, 0x75628988c1babad, 0x2717e4d8ca0f4549, 0x145beffdcf4ca878, 0xfe464bfe8ee43ff6, 0x9dc763236fa4278] : List Nat).flatMap (leBytes 8)
/-- OWNER_SET data: that key and counter 1, signed by it. -/
def wOwnerSet : List Byte := ([
  0xfc710db70568968, 0x8bdb61a6f23247f8, 0x5348a6d347d5f69e, 0x1d27b868d69777dc, 0x1, 0x0, 0x0, 0x0,
  0x0, 0xf93e5bc367d11fb9, 0xb211be72d638b98c, 0x84fb4d7716433a90, 0xd42c90b122585f47, 0xc7982fa1d2c59f2a, 0xabbce79b9e03d750, 0x4774ff395fcf6638,
  0x85f0f00eaef8097] : List Nat).flatMap (leBytes 8)
set_option maxRecDepth 10000 in
/-- BringUp, ManagementCommands: an image is accepted where the vendor's key is that which signs it (log 10: the key is free), and no
empty image is. -/
theorem witness_Firmware (h : Config.vendorKey = wKey) : fwAccepted wFw 0 0 = true ∧ fwAccepted [] 0 0 = false ∧ fwComponent wFw ≤ 2 := by
  unfold fwAccepted; rw [h]; decide +kernel
/-- BringUp: each stage, and stacks that are READY and that are not, in time and after it; a port that is in service. -/
theorem witness_BringUp :
    let s (n : Nat) : State := { wTe with summit := { Summit.zero with stage := n } }
    let r := { s 3 with bases := (List.range 16).map (fun k => (k, { Base.zero with tstat := 1 })) }
    (s 1).summit.recovery = false ∧ (s 1).summit.hot = false ∧ (s 1).summit.stage = 1 ∧ (∀ k, k < 16 → (r.base k).tstat = 1) ∧
    ((s 3).base 4).tstat ≠ 1 ∧ (s 3).summit.since + 3800000000 ≤ ({ s 3 with now := 3800000000 } : State).now ∧
    ((s 3).base 2).off.getLsbD 5 = false ∧ (s 3).defers = [] ∧ bankOf ({ wHome .lde with pa := 0 }.pa % 2 ^ 44) = 2 ^ 25 + 0 * 32 + 0 := by decide
/-- A management command. -/
def wMgmt (box : Option Nat) (a b : Word) (d : List Byte) : Mgmt := ⟨box, 0, 0, 9, a, b, d⟩
/-- ManagementCommands: a command of Borelle and of the mailbox of a READY stack; values in and out of range; a transfer that begins, goes
on, is out of order and ends; a log; entries and owners. -/
theorem witness_ManagementCommands :
    let s := { wTe with bases := [(3, { Base.zero with tstat := 1 })] }
    let w : FwXfer := ⟨wFw.take 64, 128, 0⟩
    let m := wMgmt none 64 128 (wFw.drop 64)
    let y (t : BitVec 16) : Sensors := ⟨0, 0, [t], [], []⟩
    let z : Summit := { s.summit with seq := 8 }
    (s.base 3).tstat = 1 ∧ (wMgmt (some 3) 0 0 []).data.length ≤ 512 ∧ (wMgmt none 0 0 []).rsv = 0 ∧ s.summit.recovery = false ∧
    (2000 : Word).toNat ≤ 4400 ∧ 1000 ≤ (2000 : Word).toNat ∧ s.summit.fw = none ∧ 16 ≤ (wFw.take 64).length ∧
    128 = 128 + fwLength (wFw.take 64) ∧ (wFw.take 64).length < 128 ∧ m.arg0.toNat + m.data.length ≤ m.arg1.toNat ∧ m.arg1.toNat = w.total ∧
    m.arg0.toNat = w.data.length ∧ m.arg0.toNat + m.data.length = m.arg1.toNat ∧ (32 : Nat) ≠ w.data.length ∧ w.data ++ m.data = wFw ∧
    s.logOf 0 = some (some .zero) ∧ (List.replicate 32 (0 : Byte)).length = 32 ∧ wKeyset.length = 120 ∧ fld wKeyset 0 1 ≤ 15 ∧ fld wKeyset 1 7 = 0 ∧
    (keyEntry ((wKeyset.drop 8).take 40)).isSome = true ∧ wOwnerSet.length = 136 ∧ fld wOwnerSet 40 32 = 0 ∧ s.summit.owner = none ∧
    1 ≤ fld wOwnerSet 32 8 ∧ fld (wOwnerSet.take 72 ++ List.replicate 64 0) 72 64 = 0 ∧ fld wOwnerSet 72 64 ≠ 0 ∧
    (y 1150).above 1150 = false ∧ (y 1151).above 1150 = true ∧ (z.seq + 1) % 10 ≠ 0 ∧ ({ z with seq := 9 }.seq + 1) % 10 = 0 ∧ s.summit.hot = false ∧ s.summit.cap < 5000 ∧ 1000 < s.summit.fclk := by decide +kernel
/-- ManagementCommands: signatures that the owner's key verifies, with counters that exceed those at manufacture, and one it does not. -/
theorem witness_Owners : edVerify wKey (wKeyset.take 56) (wKeyset.drop 56) = true ∧ 0 < fld wKeyset 48 8 ∧
    edVerify wKey (wOwnerSet.take 72) (wOwnerSet.drop 72) = true ∧ 0 < fld wOwnerSet 32 8 ∧
    edVerify wKey (wKeyset.take 56) (wOwnerSet.drop 72) = false := by decide +kernel
/-- SlotsDecodeAsEncoded, CommandsAndMessagesDecodeAsEncoded: an instruction of a slot, a command, a message and a management command. -/
theorem witness_encodings : (slotOf (.add (wF 0))).isSome = true ∧ decodeCmd (wCmd 0 0) = .ok (.cfgwEcw (wCmd 0 0)) ∧
    cmdOf (.cfgwEcw (wCmd 0 0)) = some (wCmd 0 0) := ⟨rfl, rfl, rfl⟩
theorem witness_messages : msgOf (.memread (wMsg 3 0 8 0 [])) = some (wMsg 3 0 8 0 []) ∧
    decodeMsg (wMsg 3 0 8 0 []) = .ok (.memread (wMsg 3 0 8 0 [])) ∧ mgmtOf (.telem { wMgmt none 0 0 [] with code := 1 }) = some { wMgmt none 0 0 [] with code := 1 } ∧
    decodeMgmt { wMgmt none 0 0 [] with code := 1 } = .ok (.telem { wMgmt none 0 0 [] with code := 1 }) := ⟨rfl, rfl, rfl, rfl⟩
/-- StepRunsTheDecodedInstruction: a chosen slot that passes its checks and one that fails; an event that is due; each part of a cycle. -/
theorem witness_StepRunsTheDecodedInstruction :
    let s := { State.reset.placeSlot ⟨0x8800000000000000, 0x98003FF0, 7⟩ with chosen := [cTe], cur := none }
    let w := (s.elem 1).active.slot 0
    let a := { State.reset with agenda := [⟨0, 0, .powerOn⟩] }
    s.injs = [] ∧ ({ s with chosen := [], cur := some cTe } : State).slotFails 1 w = none ∧ (∃ i, decodeSlot w.guard w.action w.lit = .ok i) ∧
    (({ wTe with cur := some cTe } : State).slotFails 1 ((wTe.elem 1).active.slot 0)).isSome = true ∧ a.chosen = [] ∧
    (∃ x, a.agenda = [x] ∧ x.due ≤ a.now) ∧ State.reset.agenda = [] ∧ State.reset.phase = .events ∧
    ({ State.reset with phase := .fire } : State).phase = .fire := by
  refine ⟨by decide, by decide, ⟨_, rfl⟩, by decide, rfl, ⟨_, rfl, by decide⟩, rfl, rfl, rfl⟩
/-- PoisonStopsFirings: a poisoned head as source A, as source B, and a release of a tag of no pool. -/
theorem witness_PoisonStopsFirings :
    let s := wHead wTe 1 .poison 0
    let g := wHead wTe 1 .data 9
    let f : SlotF := { wF 0 with sa := 16, sb := 20 }
    (slotOf (.add f)).isSome = true ∧ s.cur = some cTe ∧ (readSource s cTe f 16).poison = true ∧ (readSource s cTe (wF 0) 20).poison = false ∧
    (readSource s cTe (wF 0) 16).poison = true ∧ badRelease g cTe { wF 0 with ta := 7, ua := true, ka := true } = true := by
  refine ⟨rfl, by decide, by decide, by decide, by decide, by decide⟩
/-- EveryStepKeepsTheInvariant: a state with memory and elements that meets the invariant, and a step of it. -/
theorem witness_EveryStepKeepsTheInvariant : { wTe with mem := [(5, 1)] }.Inv ∧ ∃ t, step { wTe with mem := [(5, 1)] } = .next t :=
  ⟨by unfold State.Inv; decide, _, rfl⟩
/-- EveryFormCompletes: a firing that goes through with sums that fit and a divisor that is not 0; an ME at work and one that is not.
Links and banks with words waiting are those of LinksAndBanksServeOneAtATime. -/
theorem witness_EveryFormCompletes :
    wTe.goes cTe (wFF 8) ∧ (readSource wTe cTe (wFF 8) 20).val = 8 ∧ (8 : Word).toInt * 2 ^ 8 ≤ 2 ^ 63 - 1 ∧
    (Me.zero).mode = 0 ∧ ({ Me.zero with mode := 0x44 } : Me).mode ≠ 0 := by unfold State.goes; decide

end Sys2Proof.Tests
end

section
/-! SUPPORT. Taking a fault (R402 to R406): what becomes of the group, the record and the fence, and what stays as it was.
Settles O23. -/

namespace Sys2Proof.Machine

/-! ## What stays on the agenda -/

theorem State.keepsAgenda.trans {s t u : State} (h : s.keepsAgenda t) (k : t.keepsAgenda u) : s.keepsAgenda u :=
  fun x hx => k x (h x hx)

/-- What awaits its cycle still awaits it where nothing leaves the agenda. -/
theorem State.awaits.kept {s t : State} {n : Nat} {i : Instr} (h : s.awaits n i) (k : s.keepsAgenda t) : t.awaits n i := by
  obtain ⟨x, hx, hdue, hinstr⟩ := h
  exact ⟨x, k x hx, hdue, hinstr⟩

/-! ## The frame of a record -/

/-- Groups and the agenda alone have changed, and nothing has left the agenda. -/
def recordFrame (s t : State) : Prop := t = { s with groups := t.groups, agenda := t.agenda } ∧ s.keepsAgenda t

theorem recordFrame.refl (s : State) : recordFrame s s := ⟨rfl, fun _ h => h⟩

theorem recordFrame.trans {s t u : State} (h : recordFrame s t) (k : recordFrame t u) : recordFrame s u := by
  obtain ⟨hst, hag⟩ := h
  obtain ⟨htu, kag⟩ := k
  refine ⟨?_, hag.trans kag⟩
  rw [htu, hst]

section
variable {s t : State} (h : recordFrame s t)
include h

theorem recordFrame.elems : t.elems = s.elems := by rw [h.1]
theorem recordFrame.elem (x : Nat) : t.elem x = s.elem x := by rw [State.elem, h.elems, State.elem]
theorem recordFrame.mem : t.mem = s.mem := by rw [h.1]
theorem recordFrame.poison : t.poison = s.poison := by rw [h.1]
theorem recordFrame.full : t.full = s.full := by rw [h.1]
theorem recordFrame.defers : t.defers = s.defers := by rw [h.1]
theorem recordFrame.links : t.links = s.links := by rw [h.1]
theorem recordFrame.now : t.now = s.now := by rw [h.1]
theorem recordFrame.module : t.module = s.module := by rw [h.1]

end

theorem recordFrame_at (s : State) (n : Nat) (i : Instr) : recordFrame s (s.at_ n i) := ⟨rfl, s.keepsAgenda_at n i⟩

theorem recordFrame_modGroup (s : State) (n : Nat) (f : Group → Group) : recordFrame s (s.modGroup n f) := ⟨rfl, fun _ h => h⟩

/-! ## Fences (R403) -/

theorem recordFrame_fenceTiles (s : State) (gn ea : Nat) (ts : List Nat) : recordFrame s (s.fenceTiles gn ea ts) := by
  induction ts generalizing s with
  | nil => exact .refl s
  | cons t ts ih => exact (recordFrame_at s _ _).trans (ih _)

@[simp] theorem State.fenceTiles_groups (s : State) (gn ea : Nat) (ts : List Nat) :
    (s.fenceTiles gn ea ts).groups = s.groups := by
  induction ts generalizing s with
  | nil => rfl
  | cons t ts ih => exact ih _

/-- The fence is on its way to each of the tiles. -/
theorem State.awaits_fenceTiles (s : State) (gn ea : Nat) {ts : List Nat} {x : Nat} (hx : x ∈ ts) :
    (s.fenceTiles gn ea ts).awaits (s.now + hubDelay ea x) (.fenceArrival gn x) := by
  induction ts generalizing s with
  | nil => cases hx
  | cons t ts ih =>
    rw [State.fenceTiles]
    rcases List.mem_cons.mp hx with rfl | hx
    · exact (State.awaits_at s _ _).kept (recordFrame_fenceTiles ..).2
    · exact ih _ hx

theorem recordFrame_fenceGroup (s : State) (gn ea : Nat) : recordFrame s (s.fenceGroup gn ea) :=
  (recordFrame_modGroup s gn _).trans (recordFrame_fenceTiles ..)

theorem State.group_fenceGroup_ne (s : State) {gn n : Nat} (ea : Nat) (h : n ≠ gn) :
    (s.fenceGroup gn ea).group n = s.group n := by
  simp [State.fenceGroup, State.group, State.modGroup, State.setGroup, h]

/-- The group is FENCED, with the number of its new fence, and its drain is abandoned. -/
theorem State.group_fenceGroup (s : State) (gn ea : Nat) :
    let g := (s.fenceGroup gn ea).group gn
    g.st = .fenced ∧ g.preq = none ∧ g.fenceNo = (s.group gn).fenceNo + 1 := by
  simp [State.fenceGroup, State.group, State.modGroup, State.setGroup]

/-! ## Records (R402 to R406) -/

section
variable (s : State) (gn src ea : Nat) (ctx slot : Option Nat) (code : Nat) (async : Bool) (detail : Nat) (aux : Word)

/-- The record of a fencing fault, as it leaves the element for the origin hub of its group. -/
def State.fenceRecord : FRec :=
  let g := s.group gn
  { code := BitVec.ofNat 8 code, async := async, fence := false, ctxv := ctx.isSome, slotv := slot.isSome
    ea := BitVec.ofNat 14 ea, ctx := BitVec.ofNat 2 (ctx.getD 0), slot := BitVec.ofNat 5 (slot.getD 0)
    grp := BitVec.ofNat 16 gn, dom := BitVec.ofNat 16 g.dom, seq := 0, detail := BitVec.ofNat 32 detail, aux := aux
    cycle := s.dieCycle (eaDie src), key := 0, hub := g.origin
    fenceNo := if g.st = .live ∨ g.st = .draining then g.fenceNo + 1 else if g.st = .fenced then g.fenceNo else 0
    stage := 0 }

/-- The record is on its way. -/
def State.sendRecord : State :=
  s.after (hubDelay src (s.group gn).origin) (.faultRecordArrival (s.fenceRecord gn src ea ctx slot code async detail aux))

/-- R404: a group that is FREE, SAVED or RETIRED takes no fault. -/
theorem State.raiseRec_refused (h : (s.group gn).st = .free ∨ (s.group gn).st = .saved ∨ (s.group gn).st = .retired) :
    s.raiseRec gn src ea ctx slot code async true detail aux = s := by
  rcases h with h | h | h <;> simp [State.raiseRec, h]

/-- R403: the fault of a LIVE or DRAINING group fences it. -/
theorem State.raiseRec_fences (h : (s.group gn).st = .live ∨ (s.group gn).st = .draining) :
    s.raiseRec gn src ea ctx slot code async true detail aux =
      (s.sendRecord gn src ea ctx slot code async detail aux).fenceGroup gn src := by
  rcases h with h | h <;> simp [State.raiseRec, State.sendRecord, State.fenceRecord, h]

/-- R403: a further fault of a FENCED group sends the fence again. -/
theorem State.raiseRec_fenced (h : (s.group gn).st = .fenced) :
    s.raiseRec gn src ea ctx slot code async true detail aux =
      (s.sendRecord gn src ea ctx slot code async detail aux).fenceTiles gn src (s.group gn).tiles := by
  simp [State.raiseRec, State.sendRecord, State.fenceRecord, h]

/-- The fault of a group in any other state is its record alone. -/
theorem State.raiseRec_recorded (h : ¬ ((s.group gn).st = .free ∨ (s.group gn).st = .saved ∨ (s.group gn).st = .retired))
    (hl : ¬ ((s.group gn).st = .live ∨ (s.group gn).st = .draining)) (hn : (s.group gn).st ≠ .fenced) :
    s.raiseRec gn src ea ctx slot code async true detail aux = s.sendRecord gn src ea ctx slot code async detail aux := by
  simp only [not_or] at h hl
  simp [State.raiseRec, State.sendRecord, State.fenceRecord, h, hl, hn]

/-- Taking a fault of any kind changes groups and the agenda alone. -/
theorem recordFrame_raiseRec (fence : Bool) (key : Nat) :
    recordFrame s (s.raiseRec gn src ea ctx slot code async fence detail aux key) := by
  unfold State.raiseRec
  dsimp only
  split
  · exact .refl s
  · split
    · exact (recordFrame_at s _ _).trans (recordFrame_fenceGroup ..)
    · split
      · exact (recordFrame_at s _ _).trans (recordFrame_fenceTiles ..)
      · exact recordFrame_at ..

theorem State.raiseRec_group_ne (fence : Bool) (key : Nat) {n : Nat} (h : n ≠ gn) :
    (s.raiseRec gn src ea ctx slot code async fence detail aux key).group n = s.group n := by
  unfold State.raiseRec
  dsimp only
  split
  · rfl
  · split
    · exact State.group_fenceGroup_ne _ src h
    · split
      · exact congrArg (tget .zero n) (State.fenceTiles_groups ..)
      · rfl

/-- A LIVE or DRAINING group is FENCED, with the number of its new fence. -/
theorem State.raiseRec_group_fenced (h : (s.group gn).st = .live ∨ (s.group gn).st = .draining) :
    let g := (s.raiseRec gn src ea ctx slot code async true detail aux).group gn
    g.st = .fenced ∧ g.preq = none ∧ g.fenceNo = (s.group gn).fenceNo + 1 := by
  rw [State.raiseRec_fences (h := h)]
  exact State.group_fenceGroup ..

/-- A group that its fault does not fence is as it was. -/
theorem State.raiseRec_group_unfenced (h : ¬ ((s.group gn).st = .live ∨ (s.group gn).st = .draining)) :
    (s.raiseRec gn src ea ctx slot code async true detail aux).group gn = s.group gn := by
  by_cases hrefused : (s.group gn).st = .free ∨ (s.group gn).st = .saved ∨ (s.group gn).st = .retired
  · rw [State.raiseRec_refused (h := hrefused)]
  · by_cases hn : (s.group gn).st = .fenced
    · rw [State.raiseRec_fenced (h := hn)]
      exact congrArg (tget .zero gn) (State.fenceTiles_groups ..)
    · rw [State.raiseRec_recorded (h := hrefused) (hl := h) (hn := hn)]
      rfl

/-- The fence of a fencing fault, and of a further one, is on its way to each tile of the group. -/
theorem State.raiseRec_sends_fence
    (h : ((s.group gn).st = .live ∨ (s.group gn).st = .draining) ∨ (s.group gn).st = .fenced) {x : Nat}
    (hx : x ∈ (s.group gn).tiles) :
    (s.raiseRec gn src ea ctx slot code async true detail aux).awaits (s.now + hubDelay src x) (.fenceArrival gn x) := by
  rcases h with h | h
  · rw [State.raiseRec_fences (h := h)]
    exact State.awaits_fenceTiles _ gn src hx
  · rw [State.raiseRec_fenced (h := h)]
    exact State.awaits_fenceTiles _ gn src hx

/-- The record is on its way to the origin hub. -/
theorem State.raiseRec_sends_record
    (h : ¬ ((s.group gn).st = .free ∨ (s.group gn).st = .saved ∨ (s.group gn).st = .retired)) :
    (s.raiseRec gn src ea ctx slot code async true detail aux).awaits (s.now + hubDelay src (s.group gn).origin)
      (.faultRecordArrival (s.fenceRecord gn src ea ctx slot code async detail aux)) := by
  have hsent : (s.sendRecord gn src ea ctx slot code async detail aux).awaits (s.now + hubDelay src (s.group gn).origin)
      (.faultRecordArrival (s.fenceRecord gn src ea ctx slot code async detail aux)) := State.awaits_at ..
  by_cases hl : (s.group gn).st = .live ∨ (s.group gn).st = .draining
  · rw [State.raiseRec_fences (h := hl)]
    exact hsent.kept (recordFrame_fenceGroup ..).2
  · by_cases hn : (s.group gn).st = .fenced
    · rw [State.raiseRec_fenced (h := hn)]
      exact hsent.kept (recordFrame_fenceTiles ..).2
    · rw [State.raiseRec_recorded (h := h) (hl := hl) (hn := hn)]
      exact hsent

end

/-! ## A synchronous fault -/

theorem State.ctx_modCtx_ne (s : State) (ea : Nat) {c d : Nat} (g : Ctx → Ctx) (h : d ≠ c) :
    (s.modCtx ea c g).ctx ea d = s.ctx ea d := by
  simp [State.ctx, State.modCtx, h]

/-- What becomes of the groups and the agenda at a synchronous fault follows the context's becoming FAULTED (R7, R402). -/
theorem recordFrame_raiseSync (s : State) (cu : Cursor) (code detail : Nat) (aux : Word) :
    recordFrame (s.ctxFaulted cu.ea cu.ctx) (s.raiseSync cu code detail aux) := recordFrame_raiseRec ..

/-- Settles O23: the context becomes FAULTED, and then its group takes the record; each part of the statement is the law of one of
the two. -/
theorem takingASynchronousFault : Obligations.TakingASynchronousFault := by
  unfold Obligations.TakingASynchronousFault
  intro s cu code detail aux gn g t takes fences
  have hframe : recordFrame (s.ctxFaulted cu.ea cu.ctx) t := recordFrame_raiseSync ..
  have hctx : ∀ c, t.ctx cu.ea c = (s.ctxFaulted cu.ea cu.ctx).ctx cu.ea c := fun c => congrArg (Elem.ctx · c) (hframe.elem cu.ea)
  have htakes : takes → ¬ (g.st = .free ∨ g.st = .saved ∨ g.st = .retired) := by simp [takes]
  have hunfenced : ¬ fences → t.group gn = g := fun h => State.raiseRec_group_unfenced (s.ctxFaulted cu.ea cu.ctx) (h := h) ..
  refine ⟨?_, ?_, fun c hc => ?_, fun x hx => ?_, ?_, ?_, hframe.2, fun n hn => ?_, fun hno => ?_, fun _ => hunfenced, fun hf => ?_,
    fun hf x hx => ?_, fun ht => ?_⟩
  · rw [hframe.elem]
    simp [State.ctxFaulted, State.modCtx, Elem.setCtx]
  · rw [hctx]
    exact State.ctx_modCtx_same ..
  · rw [hctx]
    exact State.ctx_modCtx_ne s cu.ea _ hc
  · rw [hframe.elem]
    exact State.elem_modElem_ne s cu.ea x _ hx
  · exact sameMemory_of hframe.mem hframe.poison hframe.full
  · unfold sameModule
    rw [hframe.1]
    rfl
  · exact State.raiseRec_group_ne (s.ctxFaulted cu.ea cu.ctx) (h := hn) ..
  · exact hunfenced (by rintro (h | h) <;> simp [takes, h] at hno)
  · exact State.raiseRec_group_fenced (s.ctxFaulted cu.ea cu.ctx) (h := hf) ..
  · exact State.raiseRec_sends_fence (s.ctxFaulted cu.ea cu.ctx) (h := hf) (hx := hx) ..
  · exact ⟨_, State.raiseRec_sends_record (s.ctxFaulted cu.ea cu.ctx) (h := htakes ht) .., rfl, rfl, rfl, rfl, rfl, rfl, rfl, rfl, rfl,
      rfl, rfl, rfl, rfl, rfl⟩

end Sys2Proof.Machine
end

section
/-! SUPPORT. What follows the performance of a request of a firing (R230, R234): its acknowledgement, its reply or its
local result, and all that their sending leaves alone. -/

namespace Sys2Proof.Machine

/-! ## What serving an access leaves alone -/

/-- What the service of an access leaves alone beside the memory that it writes: memory with its marks, the deferred requests,
contexts, the clock; nothing leaves the agenda. Its request's route, groups, links and handles may change. -/
structure servedFrame (s t : State) : Prop where
  mem : t.mem = s.mem
  poison : t.poison = s.poison
  full : t.full = s.full
  defers : t.defers = s.defers
  now : t.now = s.now
  module : t.module = s.module
  ctx : ∀ ea c, t.ctx ea c = s.ctx ea c
  agenda : s.keepsAgenda t

theorem servedFrame.refl (s : State) : servedFrame s s := ⟨rfl, rfl, rfl, rfl, rfl, rfl, fun _ _ => rfl, fun _ h => h⟩

theorem servedFrame.trans {s t u : State} (h : servedFrame s t) (k : servedFrame t u) : servedFrame s u :=
  ⟨k.mem.trans h.mem, k.poison.trans h.poison, k.full.trans h.full, k.defers.trans h.defers, k.now.trans h.now,
    k.module.trans h.module, fun ea c => (k.ctx ea c).trans (h.ctx ea c), h.agenda.trans k.agenda⟩

theorem servedFrame.readByte {s t : State} (h : servedFrame s t) (y : Nat) : t.readByte y = s.readByte y := by
  rw [State.readByte, h.mem, State.readByte]

theorem servedFrame.poisoned {s t : State} (h : servedFrame s t) (u : Nat) : t.poisoned u = s.poisoned u := by
  rw [State.poisoned, h.poison, State.poisoned]

theorem recordFrame.served {s t : State} (h : recordFrame s t) : servedFrame s t :=
  ⟨h.mem, h.poison, h.full, h.defers, h.now, h.module, fun ea c => congrArg (Elem.ctx · c) (h.elem ea), h.2⟩

theorem servedFrame_at (s : State) (n : Nat) (i : Instr) : servedFrame s (s.at_ n i) := (recordFrame_at s n i).served

theorem servedFrame_modElem (s : State) (ea : Nat) (f : Elem → Elem) (h : (f (s.elem ea)).ctxs = (s.elem ea).ctxs) :
    servedFrame s (s.modElem ea f) := by
  refine ⟨rfl, rfl, rfl, rfl, rfl, rfl, fun x c => ?_, fun _ h => h⟩
  by_cases hx : x = ea
  · subst hx; simp [State.ctx, Elem.ctx, h]
  · simp [State.ctx, hx]

theorem servedFrame_modOut (s : State) (ea n : Nat) (f : Out → Out) : servedFrame s (s.modOut ea n f) :=
  servedFrame_modElem s ea (fun e => e.setOut n (f (e.out n))) rfl

theorem servedFrame_setRlink (s : State) (l : Nat) (x : RLink) : servedFrame s (s.setRlink l x) :=
  ⟨rfl, rfl, rfl, rfl, rfl, rfl, fun _ _ => rfl, fun _ h => h⟩

theorem servedFrame_foldl {β : Type} (f : State → β → State) (hf : ∀ s x, servedFrame s (f s x)) (l : List β) (s : State) :
    servedFrame s (l.foldl f s) :=
  State.foldl_keeps (servedFrame s) f l (fun u x h => h.trans (hf u x)) (.refl s)

/-! ## Words on their way back (R156, R234) -/

theorem wordGoes.of_links {s u t : State} {n a b late : Nat} {i : Instr} (hl : u.links = s.links) (h : wordGoes u t n a b late i) :
    wordGoes s t n a b late i := by
  simpa only [wordGoes, State.rlink, hl] using h

/-- A parcel of one event sets out as a word. -/
theorem wordGoes_sendParcel (s : State) (n a b vc : Nat) (i : Instr) : wordGoes s (s.sendParcel n a b vc [(0, i)]) n a b 0 i := by
  refine ⟨fun h => ?_, fun h => ?_⟩
  · simp only [State.sendParcel, beq_iff_eq, h, if_true]
    exact ⟨rfl, State.awaits_at ..⟩
  · simp only [State.sendParcel, State.passParcel, beq_iff_eq, h, if_false]
    exact ⟨State.awaits_at .., fun k hk => tget_tput_ne _ _ _ _ _ hk, _, tget_tput_same .., rfl, rfl, rfl, _, rfl, rfl, .head _⟩

theorem servedFrame_follow (s : State) (n : Nat) (evs : List (Nat × Instr)) : servedFrame s (s.follow n evs) :=
  servedFrame_foldl _ (fun s _ => servedFrame_at s _ _) ..

theorem servedFrame_sendParcel (s : State) (n a b vc : Nat) (evs : List (Nat × Instr)) :
    servedFrame s (s.sendParcel n a b vc evs) := by
  by_cases h : a = b
  · simp only [State.sendParcel, beq_iff_eq, h, if_true]
    exact servedFrame_follow ..
  · simp only [State.sendParcel, State.passParcel, beq_iff_eq, h, if_false]
    exact (servedFrame_setRlink s _ _).trans (servedFrame_at ..)

theorem servedFrame_sendBack (s : State) (r : MReq) (word : Bool) (back : Nat) (evs : List Instr) :
    servedFrame s (s.sendBack r word back evs) := by
  unfold State.sendBack
  split
  · exact servedFrame_sendParcel ..
  · exact servedFrame_foldl _ (fun s _ => servedFrame_at s _ _) ..

/-! ## What follows the performance of a firing's request (R230, R234) -/

theorem servedFrame_routeDone (s : State) (r : MReq) : servedFrame s (s.routeDone r) := servedFrame_modOut ..

theorem servedFrame_progress (s : State) (gn ea n : Nat) : servedFrame s (s.progress gn ea n) := (recordFrame_modGroup s gn _).served

/-- The state in which the request of a route is done and its acknowledgement is on its way; the reply, if any, is still to be sent. -/
def State.acked (s : State) (r : MReq) (back : Nat) : State :=
  let u := (s.progress r.grp r.ea).routeDone r
  let u := if r.fen then u.at_ u.now (.orderTokenArrival r.ea r.ofwd r.tag (homeCode u.module r)) else u
  u.after back (.ackArrival r)

theorem State.complete_route (s : State) {r : MReq} (hw : r.who = .firing) (ho : r.out < localOut) (v : Word) (p : Bool) (back : Nat) :
    s.complete r v p back =
      if r.ren then (s.acked r back).sendBack r true back [.replyArrival r v p] else s.acked r back := by
  simp only [State.complete, hw, ge_iff_le, Nat.not_le.mpr ho, if_false]
  rfl

theorem State.complete_local (s : State) {r : MReq} (hw : r.who = .firing) (ho : localOut ≤ r.out) {d : Delivery}
    (hd : r.dlv = some d) (v : Word) (p : Bool) (back : Nat) :
    s.complete r v p back =
      (s.progress r.grp r.ea).after back (.resultDelivery (Delivery.withValue d v (if p then .poison else .data))) := by
  simp only [State.complete, hw, ge_iff_le, ho, if_true, hd]

theorem State.complete_undelivered (s : State) {r : MReq} (hw : r.who = .firing) (ho : localOut ≤ r.out) (hd : r.dlv = none)
    (v : Word) (p : Bool) (back : Nat) : s.complete r v p back = s.progress r.grp r.ea := by
  simp only [State.complete, hw, ge_iff_le, ho, if_true, hd]

theorem servedFrame_acked (s : State) (r : MReq) (back : Nat) : servedFrame s (s.acked r back) := by
  have hdone := (servedFrame_progress s r.grp r.ea s.now).trans (servedFrame_routeDone _ r)
  unfold State.acked
  dsimp only
  split
  · exact (hdone.trans (servedFrame_at ..)).trans (servedFrame_at ..)
  · exact hdone.trans (servedFrame_at ..)

theorem State.acked_links (s : State) (r : MReq) (back : Nat) : (s.acked r back).links = s.links := by
  unfold State.acked
  dsimp only
  split <;> rfl

theorem State.awaits_acked (s : State) (r : MReq) (back : Nat) : (s.acked r back).awaits (s.now + back) (.ackArrival r) := by
  unfold State.acked
  dsimp only
  split <;> exact State.awaits_at ..

theorem servedFrame_complete (s : State) {r : MReq} (hw : r.who = .firing) (v : Word) (p : Bool) (back : Nat) :
    servedFrame s (s.complete r v p back) := by
  by_cases ho : r.out < localOut
  · rw [State.complete_route s hw ho]
    split
    · exact (servedFrame_acked ..).trans (servedFrame_sendBack ..)
    · exact servedFrame_acked ..
  · cases hd : r.dlv with
    | some d =>
      rw [State.complete_local s hw (Nat.not_lt.mp ho) hd]
      exact (servedFrame_progress ..).trans (servedFrame_at ..)
    | none =>
      rw [State.complete_undelivered s hw (Nat.not_lt.mp ho) hd]
      exact servedFrame_progress ..

/-- The acknowledgement of a request of a route is on its way. -/
theorem State.complete_acks (s : State) {r : MReq} (hw : r.who = .firing) (ho : r.out < localOut) (v : Word) (p : Bool) (back : Nat) :
    (s.complete r v p back).awaits (s.now + back) (.ackArrival r) := by
  rw [State.complete_route s hw ho]
  split
  · exact (State.awaits_acked s r back).kept (servedFrame_sendBack ..).agenda
  · exact State.awaits_acked s r back

/-- The reply from a memory port comes after its unloaded time. -/
theorem State.complete_replies (s : State) {r : MReq} (hw : r.who = .firing) (ho : r.out < localOut) (he : r.endp = 0x82)
    (hr : r.ren = true) (v : Word) (p : Bool) (back : Nat) :
    (s.complete r v p back).awaits (s.now + back) (.replyArrival r v p) := by
  rw [State.complete_route s hw ho, if_pos hr, ← (servedFrame_acked s r back).now, State.sendBack, if_neg (by simp [he])]
  exact State.awaits_at ..

/-- The reply from an SE or a tile store goes as a word. -/
theorem State.complete_replies_word (s : State) {r : MReq} (hw : r.who = .firing) (ho : r.out < localOut) (he : r.endp ≠ 0x82)
    (hr : r.ren = true) (v : Word) (p : Bool) (back : Nat) :
    wordGoes s (s.complete r v p back) (s.now + (back - hops r.dst r.ea)) r.dst r.ea 0 (.replyArrival r v p) := by
  rw [State.complete_route s hw ho, if_pos hr, ← (servedFrame_acked s r back).now, State.sendBack, if_pos (by simpa [ho] using he)]
  exact (wordGoes_sendParcel ..).of_links (State.acked_links ..)

/-- The result of a local access is on its way. -/
theorem State.complete_delivers (s : State) {r : MReq} (hw : r.who = .firing) (ho : localOut ≤ r.out) {d : Delivery}
    (hd : r.dlv = some d) (v : Word) (p : Bool) (back : Nat) :
    (s.complete r v p back).awaits (s.now + back) (.resultDelivery (Delivery.withValue d v (if p then .poison else .data))) := by
  rw [State.complete_local s hw ho hd]
  exact State.awaits_at ..

theorem servedFrame_sstDone (s : State) (ea id : Nat) : servedFrame s (s.sstDone ea id) :=
  (servedFrame_modElem s ea _ rfl).trans (servedFrame_foldl _ (fun s _ => servedFrame_at s _ _) ..)

theorem recordFrame_localPoison (s : State) (r : MReq) (p : Bool) : recordFrame s (s.localPoison r p) := by
  unfold State.localPoison
  split
  · exact recordFrame_raiseRec ..
  · exact .refl s

end Sys2Proof.Machine
end

section
/-! SUPPORT. What an access of a firing does at its home (R229, R410): each access at its unit, the service around it, and its answer.
Settles O30. -/

namespace Sys2Proof.Machine

/-! ## Signed numbers and bytes -/

theorem sInt_eq_toInt (w v : Nat) : sInt w v = (BitVec.ofNat w v).toInt := by
  simp only [sInt, BitVec.toInt_eq_msb_cond, BitVec.msb_eq_getLsbD_last, BitVec.getLsbD_ofNat, Nat.testBit_mod_two_pow,
    BitVec.toNat_ofNat, Nat.cast_pow, Nat.cast_ofNat]

/-- Byte `i` of the `n` bytes read is byte `i` of the number. -/
theorem State.readNat_byte (s : State) (a : Nat) {n i : Nat} (h : i < n) :
    BitVec.ofNat 8 (s.readNat a n / 256 ^ i) = s.readByte (a + i) := by
  induction n generalizing a i with
  | zero => omega
  | succ n ih =>
    have hb := (s.readByte a).isLt
    rw [State.readNat]
    cases i with
    | zero => apply BitVec.eq_of_toNat_eq; simp; omega
    | succ i =>
      rw [pow_succ', ← Nat.div_div_eq_div_mul, Nat.add_mul_div_left _ _ (by omega), Nat.div_eq_of_lt hb, Nat.zero_add, ih _ (by omega)]
      congr 1; omega

theorem State.touch_of_no_injs {s : State} (h : s.injs = []) (a : Nat) : s.touch a = s := by
  simp [State.touch, State.takeInj, h]

/-! ## Memory before and after (R3, R410) -/

/-- Memory and poison marks alone have changed. -/
def memoryOnly (s t : State) : Prop := t = { s with mem := t.mem, poison := t.poison }

theorem memoryOnly_writeNat (s : State) (a n v : Nat) : memoryOnly s (s.writeNat a n v) := by
  unfold memoryOnly
  induction n generalizing s a v with
  | zero => rfl
  | succ n ih => rw [State.writeNat, ih]; rfl

theorem State.writeNat_poison (s : State) (a n v : Nat) : (s.writeNat a n v).poison = s.poison := by
  induction n generalizing s a v with
  | zero => rfl
  | succ n ih => exact ih ..

theorem memoryOnly_storeUnit (s : State) (a : Nat) (v : Word) : memoryOnly s (s.storeUnit a v) := by
  have h := memoryOnly_writeNat s a 8 v.toNat
  unfold memoryOnly at *
  rw [State.storeUnit, State.write64, State.setPoison, h]

/-- The `n` bytes from `a` are those of `v`, little-endian, and every other byte is as before (R3). -/
def writesBytes (s t : State) (a n v : Nat) : Prop :=
  ∀ y, t.readByte y = if a ≤ y ∧ y < a + n then BitVec.ofNat 8 (v / 256 ^ (y - a)) else s.readByte y

theorem writesBytes_writeNat (s : State) (a n v : Nat) : writesBytes s (s.writeNat a n v) a n v := by
  intro y
  split
  · rename_i h
    obtain ⟨i, rfl⟩ := Nat.exists_eq_add_of_le h.1
    rw [Nat.add_sub_cancel_left, State.readByte_writeNat_in s a v (by omega)]
  · exact State.readByte_writeNat_out s n v (by omega)

/-- Writing back what was read changes no byte. -/
theorem writesBytes_old (s : State) (a n : Nat) : writesBytes s s a n (s.readNat a n) := by
  intro y
  split
  · rename_i h
    obtain ⟨i, rfl⟩ := Nat.exists_eq_add_of_le h.1
    rw [Nat.add_sub_cancel_left, State.readNat_byte s a (by omega)]
  · rfl

theorem State.readByte_setPoison (s : State) (u y : Nat) (p : Bool) : (s.setPoison u p).readByte y = s.readByte y := rfl

theorem writesBytes_storeUnit (s : State) (a : Nat) (v : Word) : writesBytes s (s.storeUnit a v) a 8 v.toNat := by
  intro y
  rw [State.storeUnit, State.readByte_setPoison, State.write64]
  exact writesBytes_writeNat s a 8 v.toNat y

theorem State.poisoned_setPoison_false (s : State) (u k : Nat) :
    (s.setPoison k false).poisoned u = (s.poisoned u && u != k) := by
  simp [State.poisoned, State.setPoison, nmem_ndel, Bool.and_comm, bne, beq_eq_decide]

/-- Clean data clears the mark of its unit alone (R410). -/
theorem State.poisoned_storeUnit (s : State) (a u : Nat) (v : Word) :
    (s.storeUnit a v).poisoned u = (s.poisoned u && u != unitOf a) := by
  rw [State.storeUnit, State.poisoned_setPoison_false, State.poisoned, State.write64, State.writeNat_poison, State.poisoned]

theorem writesBytes.served {s u t : State} {a n v : Nat} (h : writesBytes s u a n v) (ht : servedFrame u t) : writesBytes s t a n v :=
  fun y => (ht.readByte y).trans (h y)

/-! ## The performance of an access (R229, R230, R233) -/

/-- A performed store of a local port is counted for the commits that await it (R186). -/
def State.storeCounted (s : State) (r : MReq) : State :=
  if r.out = localOut ∧ r.acc = .st then s.sstDone r.ea r.id else s

theorem servedFrame_storeCounted (s : State) (r : MReq) : servedFrame s (s.storeCounted r) := by
  unfold State.storeCounted
  split
  · exact servedFrame_sstDone ..
  · exact .refl s

theorem State.storeCounted_route (s : State) {r : MReq} (ho : r.out < localOut) : s.storeCounted r = s :=
  if_neg fun h => Nat.ne_of_lt ho h.1

/-- Where the poison of the unit does not refuse it, an access of a firing is performed: the unit is accessed, a local load's poison is
reported, the answer sets out, and a local store is counted. -/
theorem State.performOne_some {s u : State} {r : MReq} {v : Word} {p : Bool} (hw : r.who = .firing)
    (h : s.access r.acc (r.pa % 2 ^ 44) r.sz r.sx r.aop r.v1 r.v2 r.pzn = some (u, v, p)) :
    s.performOne r =
      ((u.localPoison r p).complete r v p (replyDelay (u.localPoison r p).module r)).storeCounted r := by
  simp only [State.performOne, h]
  simp [State.storeCounted, hw]

/-- R233, R410: an access that the poison of its unit refuses is not performed: its request leaves its route, and its group takes
POISON_CONSUMED. -/
theorem State.performOne_none {s : State} {r : MReq} (hw : r.who = .firing) (hi : s.injs = [])
    (h : s.access r.acc (r.pa % 2 ^ 44) r.sz r.sx r.aop r.v1 r.v2 r.pzn = none) :
    s.performOne r = (s.dropReq r).raiseRec r.grp r.ea r.ea (some r.ctx) (some r.slot) 0x15 true true 0 r.addr := by
  simp only [State.performOne, h, State.touch_of_no_injs hi]
  simp [State.refuse, hw]

/-- What has become of a request of a firing that is performed: its acknowledgement and its reply, or its local result, are on their
way with value `v`, as POISON where `p`. -/
def answered (s t : State) (r : MReq) (v : Word) (p : Bool) : Prop :=
  (∀ ea c, t.ctx ea c = s.ctx ea c) ∧ (∀ u, t.isFull u = s.isFull u) ∧
  (r.out < localOut → t.awaits (s.now + replyDelay s.module r) (.ackArrival r) ∧
    (r.endp = 0x82 → r.ren = true → t.awaits (s.now + replyDelay s.module r) (.replyArrival r v p))) ∧
  (r.out < localOut → r.endp ≠ 0x82 → r.ren = true →
    wordGoes s t (s.now + (replyDelay s.module r - hops r.dst r.ea)) r.dst r.ea 0 (.replyArrival r v p)) ∧
  (localOut ≤ r.out → ∀ d, r.dlv = some d →
    t.awaits (s.now + replyDelay s.module r) (.resultDelivery (Delivery.withValue d v (if p then .poison else .data))))

/-- After the access itself, its performance changes no memory, and answers it. -/
theorem State.performOne_answers {s u : State} {r : MReq} {v : Word} {p : Bool} (hw : r.who = .firing) (hu : memoryOnly s u)
    (h : s.access r.acc (r.pa % 2 ^ 44) r.sz r.sx r.aop r.v1 r.v2 r.pzn = some (u, v, p)) :
    servedFrame u (s.performOne r) ∧ answered s (s.performOne r) r v p := by
  have hx : recordFrame u (u.localPoison r p) := recordFrame_localPoison ..
  have hn : (u.localPoison r p).now = s.now := hx.now.trans (by rw [hu])
  have hm : (u.localPoison r p).module = s.module := hx.module.trans (by rw [hu])
  have hl : (u.localPoison r p).links = s.links := hx.links.trans (by rw [hu])
  rw [State.performOne_some hw h]
  generalize u.localPoison r p = x at *
  have hc : servedFrame x (x.complete r v p (replyDelay x.module r)) := servedFrame_complete x hw ..
  have hend := servedFrame_storeCounted (x.complete r v p (replyDelay x.module r)) r
  have hf := (hx.served.trans hc).trans hend
  refine ⟨hf, fun ea c => ?_, fun k => ?_, fun ho => ⟨?_, fun he hr => ?_⟩, fun ho he hr => ?_, fun ho d hd => ?_⟩
  · exact (hf.ctx ea c).trans (by rw [hu]; rfl)
  · rw [State.isFull, hf.full, hu, State.isFull]
  · rw [State.storeCounted_route _ ho, ← hn, ← hm]
    exact State.complete_acks x hw ho ..
  · rw [State.storeCounted_route _ ho, ← hn, ← hm]
    exact State.complete_replies x hw ho he hr ..
  · rw [State.storeCounted_route _ ho, ← hn, ← hm]
    exact (State.complete_replies_word x hw ho he hr ..).of_links hl
  · rw [← hn, ← hm]
    exact (State.complete_delivers x hw ho hd ..).kept hend.agenda

/-! ## What each access does to its unit (R229, R410) -/

/-- What a compare-and-swap leaves at its unit, by its size. -/
theorem casValue_eq (sz old : Nat) (v1 v2 : Word) :
    (if sz = 3 then (if old = v2.toNat then v1.toNat else old)
      else if old = v1.toNat % 2 ^ 32 % 2 ^ (8 * 2 ^ sz) then v1.toNat / 2 ^ 32 else old) =
    if old = (if sz = 3 then v2.toNat else v1.toNat % 2 ^ 32) % 2 ^ (8 * 2 ^ sz) then
      (if sz = 3 then v1.toNat else v1.toNat / 2 ^ 32) else old := by
  by_cases h3 : sz = 3
  · have hexp : v2.toNat % 2 ^ (8 * 2 ^ sz) = v2.toNat := Nat.mod_eq_of_lt (h3 ▸ v2.isLt)
    rw [if_pos h3, if_pos h3, if_pos h3, hexp]
  · rw [if_neg h3, if_neg h3, if_neg h3]

theorem State.access_ld {s : State} (hi : s.injs = []) (a sz : Nat) (sx : Bool) (aop : Nat) (v1 v2 : Word) (pzn : Bool) :
    s.access .ld a sz sx aop v1 v2 pzn = some (s,
      if sx then BitVec.ofInt 64 (sInt (8 * 2 ^ sz) (s.readNat a (2 ^ sz))) else BitVec.ofNat 64 (s.readNat a (2 ^ sz)),
      pzn || s.poisoned (unitOf a)) := by
  simp only [State.access, State.touch_of_no_injs hi]

theorem State.access_st_unit {s : State} (hi : s.injs = []) (a : Nat) (sx : Bool) (aop : Nat) (v1 v2 : Word) (pzn : Bool) :
    s.access .st a 3 sx aop v1 v2 pzn = some (s.storeUnit a v1, 0, false) := by
  simp only [State.access, State.touch_of_no_injs hi, beq_self_eq_true, if_true]

section
variable {s : State} (hi : s.injs = []) (a sz : Nat) (sx : Bool) (aop : Nat) (v1 v2 : Word) {pzn : Bool}
include hi

/-- R410: a store of less than a unit, an atomic and a compare-and-swap are refused at a poisoned unit. -/
theorem State.access_refused {acc : Acc} (hacc : acc = .st ∧ sz ≠ 3 ∨ acc = .amo ∨ acc = .cas)
    (hb : (pzn || s.poisoned (unitOf a)) = true) : s.access acc a sz sx aop v1 v2 pzn = none := by
  rcases hacc with ⟨rfl, hsz⟩ | rfl | rfl
  · simp only [State.access, State.touch_of_no_injs hi, hb, if_true, beq_iff_eq, hsz, if_false]
  · simp only [State.access, State.touch_of_no_injs hi, hb, if_true]
  · simp only [State.access, State.touch_of_no_injs hi, hb, if_true]

variable (hb : (pzn || s.poisoned (unitOf a)) = false)
include hb

theorem State.access_st {sz : Nat} (hsz : sz ≠ 3) :
    s.access .st a sz sx aop v1 v2 pzn = some (s.writeNat a (2 ^ sz) v1.toNat, 0, false) := by
  simp only [State.access, State.touch_of_no_injs hi, hb, beq_iff_eq, hsz, if_false, Bool.false_eq_true]

theorem State.access_amo :
    s.access .amo a sz sx aop v1 v2 pzn = some (s.writeNat a (2 ^ sz) (amoOp aop (8 * 2 ^ sz) (s.readNat a (2 ^ sz)) v1.toNat),
      BitVec.ofNat 64 (s.readNat a (2 ^ sz)), false) := by
  simp only [State.access, State.touch_of_no_injs hi, hb, if_false, Bool.false_eq_true]

/-- A compare-and-swap writes the new value where it finds the expected one, else what stands there. -/
theorem State.access_cas : ∃ u,
    s.access .cas a sz sx aop v1 v2 pzn = some (u, BitVec.ofNat 64 (s.readNat a (2 ^ sz)), false) ∧ memoryOnly s u ∧
    writesBytes s u a (2 ^ sz)
      (if sz = 3 then (if s.readNat a (2 ^ sz) = v2.toNat then v1.toNat else s.readNat a (2 ^ sz))
        else if s.readNat a (2 ^ sz) = v1.toNat % 2 ^ 32 % 2 ^ (8 * 2 ^ sz) then v1.toNat / 2 ^ 32 else s.readNat a (2 ^ sz)) := by
  rw [casValue_eq]
  by_cases hfound : s.readNat a (2 ^ sz) = (if sz = 3 then v2.toNat else v1.toNat % 2 ^ 32) % 2 ^ (8 * 2 ^ sz)
  · refine ⟨s.writeNat a (2 ^ sz) (if sz = 3 then v1.toNat else v1.toNat / 2 ^ 32), ?_, memoryOnly_writeNat .., ?_⟩
    · simp only [State.access, State.touch_of_no_injs hi, hb, if_false, Bool.false_eq_true, beq_iff_eq]
      rw [if_pos hfound]
    · rw [if_pos hfound]
      exact writesBytes_writeNat _ _ _ _
  · refine ⟨s, ?_, rfl, ?_⟩
    · simp only [State.access, State.touch_of_no_injs hi, hb, if_false, Bool.false_eq_true, beq_iff_eq]
      rw [if_neg hfound]
    · rw [if_neg hfound]
      exact writesBytes_old _ _ _

end

theorem gives.imp {i : Instr} {s : State} {p q : State → Prop} (h : gives i s p) (hpq : ∀ t, p t → q t) : gives i s q := by
  obtain ⟨t, he, hp⟩ := h
  exact ⟨t, he, hpq t hp⟩

/-! ## The service of a firing's access at its home -/

theorem exec_requestPerform (r : MReq) (s : State) : exec (.requestPerform r) s = execRequestPerform r s := by rfl

/-- A service of one unit at which no request is deferred releases none (R354). -/
theorem State.feSettle_of_no_defers {s : State} {a : Nat} (h : ∀ q ∈ s.defers, unitOf (q.pa % 2 ^ 44) ≠ unitOf a) :
    s.feSettle a 1 = s := by
  have hnone : s.defers.filter (fun q => unitOf (q.pa % 2 ^ 44) == unitOf a) = [] := by
    simpa only [List.filter_eq_nil_iff, beq_iff_eq] using h
  simp only [State.feSettle, hnone, List.foldl_nil]

/-- An aligned access of at most 8 bytes touches one unit. -/
theorem unitsAt_aligned {a sz : Nat} (hsz : sz ≤ 3) (ha : a % 2 ^ sz = 0) : unitsAt a (1 * 2 ^ sz) = 1 := by
  unfold unitsAt unitOf
  interval_cases sz <;> omega

theorem State.dropReq_defers (s : State) {r : MReq} (hw : r.who = .firing) : (s.dropReq r).defers = s.defers := by
  simp only [State.dropReq, hw]
  split
  · rfl
  · split <;> split <;> rfl

/-- At a home that is out of service, the request of a firing ends with PORT_SELECT (R409). -/
theorem State.requestPerform_off {s : State} {r : MReq} (hstage : r.stage = 1) (hw : r.who = .firing) {d : Nat}
    (hoff : s.offHome r = some d) :
    exec (.requestPerform r) s = .next ((s.dropReq r).raiseCtx r.grp r.ea ⟨r.ea, r.ctx, r.slot⟩ 0x03 d r.addr) := by
  simp [exec_requestPerform, execRequestPerform, isFlow, hw, hstage, State.performNow, hoff, State.offEnd, State.failReq]

/-- Where its home is in service and it is no write to capacity memory, a load, store, atomic or compare-and-swap of a firing is
performed, and then the service releases what its units permit. -/
theorem State.performNow_eq {s : State} {r : MReq} (hw : r.who = .firing) (hpar : r.parity = false) (hsz : r.sz ≤ 3)
    (hoff : s.offHome r = none) (hacc : r.acc ∈ [.ld, .st, .amo, .cas])
    (hreg : r.endp = 0x82 → regionOf (r.pa % 2 ^ 44) = .hbm ∨ r.acc = .ld) :
    s.performNow r = (s.performOne r).feSettle (r.pa % 2 ^ 44) (unitsAt (r.pa % 2 ^ 44) (1 * 2 ^ r.sz)) := by
  have hcap : (r.endp == 0x82 && (r.acc == .st || r.acc == .amo || r.acc == .cas || r.acc == .stf || r.acc == .record) &&
      regionOf (r.pa % 2 ^ 44) == .capacity) = false := by
    by_cases he : r.endp = 0x82
    · rcases hreg he with h | h
      · rw [h, show (Region.hbm == Region.capacity) = false from rfl, Bool.and_false]
      · simp [h]
    · rw [beq_false_of_ne he, Bool.false_and, Bool.false_and]
  have hcopy : remoteCopyReq r = false := beq_false_of_ne (by omega)
  simp only [List.mem_cons, List.not_mem_nil, or_false] at hacc
  have hfe : (r.acc == .lde || r.acc == .stf || (r.acc == .record && r.sx)) = false := by
    rcases hacc with h | h | h | h <;> simp [h]
  have hplain : (r.acc == .packet) = false ∧ (r.acc == .record) = false := by
    rcases hacc with h | h | h | h <;> simp [h]
  simp only [State.performNow, hoff, hcap, hpar, hfe, Bool.false_and, Bool.false_eq_true, if_false]
  simp only [hcopy, hplain, hw, Bool.false_eq_true, if_false]

/-- At its home, an aligned load, store, atomic or compare-and-swap of a firing is performed, and where no request is deferred its
service is over. -/
theorem State.requestPerform_served {s : State} {r : MReq} (hstage : r.stage = 1) (hw : r.who = .firing) (hpar : r.parity = false)
    (hsz : r.sz ≤ 3) (hoff : s.offHome r = none) (hacc : r.acc ∈ [.ld, .st, .amo, .cas])
    (hreg : r.endp = 0x82 → regionOf (r.pa % 2 ^ 44) = .hbm ∨ r.acc = .ld) (ha : r.pa % 2 ^ 44 % 2 ^ r.sz = 0)
    (hdef : ∀ q ∈ (s.performOne r).defers, unitOf (q.pa % 2 ^ 44) ≠ unitOf (r.pa % 2 ^ 44)) :
    exec (.requestPerform r) s = .next (s.performOne r) := by
  have hevent : exec (.requestPerform r) s = .next (s.performNow r) := by
    simp [exec_requestPerform, execRequestPerform, isFlow, hw, hstage]
  rw [hevent, State.performNow_eq hw hpar hsz hoff hacc hreg, unitsAt_aligned hsz ha, State.feSettle_of_no_defers hdef]

/-- An access that its unit takes gives the state in which it is performed and answered. -/
theorem State.requestPerform_answers {s u : State} {r : MReq} {v : Word} {p : Bool} (hstage : r.stage = 1) (hw : r.who = .firing)
    (hpar : r.parity = false) (hsz : r.sz ≤ 3) (hoff : s.offHome r = none)
    (hacc : r.acc ∈ [.ld, .st, .amo, .cas])
    (hreg : r.endp = 0x82 → regionOf (r.pa % 2 ^ 44) = .hbm ∨ r.acc = .ld) (ha : r.pa % 2 ^ 44 % 2 ^ r.sz = 0)
    (hdef : ∀ q ∈ s.defers, unitOf (q.pa % 2 ^ 44) ≠ unitOf (r.pa % 2 ^ 44)) (hu : memoryOnly s u)
    (h : s.access r.acc (r.pa % 2 ^ 44) r.sz r.sx r.aop r.v1 r.v2 r.pzn = some (u, v, p)) :
    gives (.requestPerform r) s (fun t => servedFrame u t ∧ answered s t r v p) := by
  have hp := State.performOne_answers hw hu h
  have hd : (s.performOne r).defers = s.defers := hp.1.defers.trans (by rw [hu])
  exact ⟨_, State.requestPerform_served hstage hw hpar hsz hoff hacc hreg ha (hd ▸ hdef), hp⟩

/-- Settles O30: an access of each kind does to its unit what `State.access` says, and is answered. -/
theorem accessesAtTheirHome : Obligations.AccessesAtTheirHome := by
  unfold Obligations.AccessesAtTheirHome
  intro s r hstage hw hpar hsz hi a n w old x signed bad
  refine ⟨fun d hoff => State.requestPerform_off hstage hw hoff, ?_⟩
  intro hoff ha hdef hreg writes answers new
  have hnew : new = amoOp r.aop w old r.v1.toNat := by
    simp only [new, signed, ← sInt_eq_toInt]
    rfl
  have performed : ∀ u v p, r.acc ∈ [.ld, .st, .amo, .cas] → memoryOnly s u →
      s.access r.acc a r.sz r.sx r.aop r.v1 r.v2 r.pzn = some (u, v, p) →
      gives (.requestPerform r) s (fun t => servedFrame u t ∧ answers t v p) := fun u v p hacc =>
    State.requestPerform_answers hstage hw hpar hsz hoff hacc hreg ha hdef
  have written : ∀ v y, r.acc ∈ [.ld, .st, .amo, .cas] →
      s.access r.acc a r.sz r.sx r.aop r.v1 r.v2 r.pzn = some (s.writeNat a n v, y, false) →
      gives (.requestPerform r) s (fun t => writes t v ∧ answers t y false) := fun v y hacc h =>
    (performed _ _ _ hacc (memoryOnly_writeNat ..) h).imp fun _ ⟨hf, hans⟩ => ⟨(writesBytes_writeNat s a n v).served hf, hans⟩
  refine ⟨fun hld => ?_, fun hst h3 => ?_, fun hst h3 hclean => ?_, fun hamo hclean => ?_, fun hcas hclean => ?_,
    fun hbad hacc => ?_⟩
  · have hx : s.access r.acc a r.sz r.sx r.aop r.v1 r.v2 r.pzn =
        some (s, if r.sx then BitVec.ofInt 64 (signed old) else BitVec.ofNat 64 old, bad) := by
      rw [hld, State.access_ld hi, sInt_eq_toInt]
    exact (performed s _ _ (by simp [hld]) rfl hx).imp fun _ ⟨hf, hans⟩ => ⟨hf.readByte, hf.poisoned, hans⟩
  · have hx : s.access r.acc a r.sz r.sx r.aop r.v1 r.v2 r.pzn = some (s.storeUnit a r.v1, 0, false) := by
      rw [hst, h3, State.access_st_unit hi]
    have hn : n = 8 := congrArg (2 ^ ·) h3
    refine (performed _ _ _ (by simp [hst]) (memoryOnly_storeUnit ..) hx).imp fun t ⟨hf, hans⟩ => ⟨?_, hans, fun u => ?_⟩
    · have hb := (writesBytes_storeUnit s a r.v1).served hf
      rwa [← hn] at hb
    · rw [hf.poisoned, State.poisoned_storeUnit]
  · exact written _ _ (by simp [hst]) (by rw [hst, State.access_st hi (hb := hclean) (hsz := h3)])
  · exact written _ _ (by simp [hamo]) (by rw [hamo, State.access_amo hi (hb := hclean), hnew])
  · obtain ⟨u, hx, hu, hbytes⟩ := State.access_cas hi a r.sz r.sx r.aop r.v1 r.v2 hclean
    rw [← hcas] at hx
    exact (performed u _ _ (by simp [hcas]) hu hx).imp fun t ⟨hf, hans⟩ => ⟨hans, hbytes.served hf⟩
  · have hnone := State.performOne_none hw hi (State.access_refused hi a r.sz r.sx r.aop r.v1 r.v2 hacc hbad)
    have hd : (s.performOne r).defers = s.defers := by
      rw [hnone, (recordFrame_raiseRec ..).defers, State.dropReq_defers s hw]
    rw [← hnone]
    exact State.requestPerform_served hstage hw hpar hsz hoff (by rcases hacc with ⟨h, _⟩ | h | h <;> simp [h]) hreg ha (hd ▸ hdef)

end Sys2Proof.Machine
end

section
/-! SUPPORT. Reset and the stages of bring-up (R418 to R420, R434, R435, Table 19-1): what each stage leaves of the summit controller,
the base dies, the fabric dies and memory. Settles O51. -/

namespace Sys2Proof.Machine

/-! ## Reads after writes -/

theorem State.base_modBase (s : State) (k x : Nat) (f : Base → Base) :
    (s.modBase k f).base x = if x = k then f (s.base k) else s.base x := tget_tput ..

theorem State.die_modDie (s : State) (d x : Nat) (f : Die → Die) :
    (s.modDie d f).die x = if x = d then f (s.die d) else s.die x := tget_tput ..

theorem State.xlink_modXlink (s : State) (l : Nat) (f : Link → Link) : (s.modXlink l f).xlink l = f (s.xlink l) := tget_tput_same ..

/-- Entries that a table loses by their keys read as unlisted; the others read as before. -/
theorem tget_filter {α : Type} (d : α) (k : Nat) (p : Nat → Bool) (m : Map α) :
    tget d k (m.filter (fun c => p c.1)) = if p k then tget d k m else d := by
  induction m with
  | nil => exact (ite_self d).symm
  | cons x m ih =>
    obtain ⟨j, v⟩ := x
    by_cases hk : k = j
    · subst hk
      cases hp : p k <;> simp [hp, tget, ih]
    · cases hp : p j <;> simp [hp, tget, ih, hk]

/-- A fold that changes at each of its numbers what is read there, and nothing that is read elsewhere, has changed it at those numbers
alone. `P` is what it may change of the state beside. -/
theorem State.read_foldl {β : Type} {P : State → Prop} {f : State → Nat → State} {read : State → Nat → β}
    {upd : Nat → β → β} (hP : ∀ t j, P t → P (f t j))
    (hread : ∀ t j k, P t → read (f t j) k = if k = j then upd k (read t k) else read t k)
    {l : List Nat} (hl : l.Nodup) {s : State} (hs : P s) (k : Nat) :
    read (l.foldl f s) k = if k ∈ l then upd k (read s k) else read s k := by
  induction l generalizing s with
  | nil => rfl
  | cons j l ih =>
    obtain ⟨hj, hl⟩ := List.nodup_cons.mp hl
    rw [List.foldl_cons, ih hl (hP s j hs), hread s j k hs]
    by_cases hk : k = j
    · subst hk; simp [hj]
    · simp [hk]

/-! ## Frames -/

/-- The summit controller alone has changed. -/
def summitOnly (s t : State) : Prop := t = { s with summit := t.summit }

theorem summitOnly_modSummit (s : State) (f : Summit → Summit) : summitOnly s (s.modSummit f) := rfl
theorem summitOnly_stage (s : State) (n : Nat) : summitOnly s (s.stage n) := rfl

theorem summitOnly.trans {s t u : State} (h : summitOnly s t) (k : summitOnly t u) : summitOnly s u := by
  unfold summitOnly at *
  rw [k, h]

theorem summitOnly.now {s t : State} (h : summitOnly s t) : t.now = s.now := by rw [h]

/-- Dies alone have changed. -/
def diesOnly (s t : State) : Prop := t = { s with dies := t.dies }

theorem diesOnly.refl (s : State) : diesOnly s s := rfl
theorem diesOnly_modDie (s : State) (d : Nat) (f : Die → Die) : diesOnly s (s.modDie d f) := rfl

section
variable {s t u : State} (h : diesOnly s t)
include h

theorem diesOnly.trans (k : diesOnly t u) : diesOnly s u := by
  unfold diesOnly at *
  rw [k, h]

theorem diesOnly.summit : t.summit = s.summit := by rw [h]
theorem diesOnly.now : t.now = s.now := by rw [h]
theorem diesOnly.module : t.module = s.module := by rw [h]
theorem diesOnly.dieReady (d : Nat) : t.dieReady d = s.dieReady d := by rw [h]; rfl

end

/-- Base dies alone have changed. -/
def basesOnly (s t : State) : Prop := t = { s with bases := t.bases }

theorem basesOnly.refl (s : State) : basesOnly s s := rfl
theorem basesOnly_modBase (s : State) (k : Nat) (f : Base → Base) : basesOnly s (s.modBase k f) := rfl

theorem basesOnly.trans {s t u : State} (h : basesOnly s t) (k : basesOnly t u) : basesOnly s u := by
  unfold basesOnly at *
  rw [k, h]

/-- Base dies and deferred requests have no part in what programs read. -/
theorem basesOnly.sameProgram_defers {s t : State} (h : basesOnly s t) (q : List MReq) : sameProgram s { t with defers := q } := by
  rw [h]
  exact ⟨sameMemory_of rfl rfl rfl, fun _ _ => .refl _⟩

/-! ## Dies and stacks (R24, R435) -/

/-- A die is released now where its stacks are READY. -/
def State.releaseDie (s : State) (d : Nat) : State :=
  if s.dieReady d then s.modDie d (fun x => { x with released := some s.now }) else s

theorem State.releaseDies_eq (s : State) : s.releaseDies = (List.range 8).foldl State.releaseDie s := rfl

theorem State.releaseDie_ready {s : State} {d : Nat} (h : s.dieReady d = true) :
    s.releaseDie d = s.modDie d (fun x => { x with released := some s.now }) := if_pos h

theorem State.releaseDie_unready {s : State} {d : Nat} (h : ¬ s.dieReady d = true) : s.releaseDie d = s := if_neg h

theorem State.die_releaseDie (s : State) (j k : Nat) : (s.releaseDie j).die k =
    if k = j then (if s.dieReady k = true then { s.die k with released := some s.now } else s.die k) else s.die k := by
  by_cases h : s.dieReady j = true
  · rw [State.releaseDie_ready h, State.die_modDie]
    by_cases hk : k = j
    · subst hk; simp [h]
    · simp [hk]
  · rw [State.releaseDie_unready h]
    by_cases hk : k = j
    · subst hk; simp [h]
    · simp [hk]

theorem diesOnly_releaseDie (s : State) (d : Nat) : diesOnly s (s.releaseDie d) := by
  by_cases h : s.dieReady d = true
  · rw [State.releaseDie_ready h]
    exact diesOnly_modDie ..
  · rw [State.releaseDie_unready h]
    exact .refl s

theorem diesOnly_releaseDies (s : State) : diesOnly s s.releaseDies :=
  State.foldl_keeps (diesOnly s) State.releaseDie _ (fun t d h => h.trans (diesOnly_releaseDie t d)) (.refl s)

/-- R24: the dies whose stacks are READY are released now, and no other. -/
theorem State.released_releaseDies (s : State) {d : Nat} (h : d < 8) :
    (s.releaseDies.die d).released = if s.dieReady d = true then some s.now else (s.die d).released := by
  have hturn : ∀ t j k, diesOnly s t → (t.releaseDie j).die k =
      if k = j then (if s.dieReady k = true then { t.die k with released := some s.now } else t.die k) else t.die k := by
    intro t j k ht
    rw [State.die_releaseDie, ht.dieReady, ht.now]
  rw [State.releaseDies_eq, State.read_foldl (P := diesOnly s) (read := State.die)
    (upd := fun k x => if s.dieReady k = true then { x with released := some s.now } else x)
    (fun t j ht => ht.trans (diesOnly_releaseDie t j)) hturn List.nodup_range (.refl s) d, if_pos (List.mem_range.mpr h)]
  split <;> rfl

/-- The base die of a stack once the time of stage 3 is over: out of service unless it is READY (R435). -/
def Base.outUnlessReady (b : Base) : Base := if b.tstat = 1 then b else { b with dead := true, off := BitVec.allOnes 32 }

theorem State.stackDead_ready {s : State} {k : Nat} (h : (s.base k).tstat = 1) : s.stackDead k = s := if_pos (beq_iff_eq.mpr h)

theorem State.stackDead_unready {s : State} {k : Nat} (h : (s.base k).tstat ≠ 1) :
    s.stackDead k = s.modBase k (fun b => { b with dead := true, off := BitVec.allOnes 32 }) := if_neg (mt beq_iff_eq.mp h)

theorem State.base_stackDead (s : State) (j k : Nat) :
    (s.stackDead j).base k = if k = j then (s.base k).outUnlessReady else s.base k := by
  by_cases h : (s.base j).tstat = 1
  · rw [State.stackDead_ready h]
    by_cases hk : k = j
    · subst hk; rw [if_pos rfl, Base.outUnlessReady, if_pos h]
    · rw [if_neg hk]
  · rw [State.stackDead_unready h, State.base_modBase]
    by_cases hk : k = j
    · subst hk; rw [if_pos rfl, if_pos rfl, Base.outUnlessReady, if_neg h]
    · rw [if_neg hk, if_neg hk]

theorem basesOnly_stackDead (s : State) (k : Nat) : basesOnly s (s.stackDead k) := by
  by_cases h : (s.base k).tstat = 1
  · rw [State.stackDead_ready h]
    exact .refl s
  · rw [State.stackDead_unready h]
    exact basesOnly_modBase ..

/-- Every stack that is not READY is out of service. -/
def State.stacksDead (s : State) : State := (List.range 16).foldl State.stackDead s

theorem basesOnly_stacksDead (s : State) : basesOnly s s.stacksDead :=
  State.foldl_keeps (basesOnly s) State.stackDead _ (fun t k h => h.trans (basesOnly_stackDead t k)) (.refl s)

theorem State.base_stacksDead (s : State) {k : Nat} (h : k < 16) : s.stacksDead.base k = (s.base k).outUnlessReady := by
  rw [State.stacksDead, State.read_foldl (P := fun _ => True) (upd := fun _ => Base.outUnlessReady) (fun _ _ => id)
    (fun t j k _ => t.base_stackDead j k) List.nodup_range trivial k, if_pos (List.mem_range.mpr h)]

/-! ## The tile stores and SEs (Table 19-1, stage 5) -/

theorem State.readByte_clearWindows (s : State) (a : Nat) :
    s.clearWindows.readByte a = if regionOf a = .window then 0 else s.readByte a := by
  have h := tget_filter memDefault a (fun a => regionOf a != .window) s.mem
  by_cases hw : regionOf a = .window <;> simpa [State.clearWindows, State.readByte, hw] using h

theorem State.poisoned_clearWindows (s : State) (u : Nat) :
    s.clearWindows.poisoned u = (s.poisoned u && regionOf (8 * u) != .window) := by
  rw [Bool.eq_iff_iff]
  simp only [State.poisoned, State.clearWindows, nmem, List.contains_iff_mem, List.mem_filter, Bool.and_eq_true]

theorem State.xlink_after (s : State) (n l : Nat) (i : Instr) : (s.after n i).xlink l = s.xlink l := rfl

/-- A link that begins to train stays enabled, and memory is as it was. -/
theorem State.trainFromDown_keeps (s : State) (l : Nat) (hs : (s.xlink l).enable = true) :
    ((s.trainFromDown l).xlink l).enable = true ∧ (s.trainFromDown l).mem = s.mem ∧ (s.trainFromDown l).poison = s.poison := by
  unfold State.trainFromDown
  split
  · rw [State.xlink_after, State.xlink_modXlink, State.after, State.at_mem, State.at_poison]
    exact ⟨hs, rfl, rfl⟩
  · exact ⟨hs, rfl, rfl⟩

/-! ## The stages (Table 19-1) -/

/-- A stage that verifies the firmware of component `c` goes on as `k` where the image is accepted, and into recovery where not. -/
def State.boot (s : State) (image : List Byte) (c : Nat) (k : State → List Byte → State) : State :=
  let b := s.summit.image c image
  if fwAccepted b c (tget 0 c s.summit.rollback) then k (s.modSummit (·.booted c b)) b else s.recover

/-- The ends of the stages 1, 2 and 4 with an image that is accepted. -/
def State.summitBooted (s : State) (b : List Byte) : State := (s.modSummit (fun m => { m with mb0 := extend m.mb0 b })).stage 2
def State.torBooted (s : State) (b : List Byte) : State :=
  ((s.modSummit (fun m => { m with mb1 := extend m.mb1 b })).stage 3).after twoSeconds .stackReadyTimeout
def State.moduleLoaded (s : State) (b : List Byte) : State :=
  { s with module := s.summit.store }.modSummit (fun m => { m with mb2 := extend m.mb2 b })
def State.crestBooted (s : State) (b : List Byte) : State := (s.moduleLoaded b).releaseDies.stage 5

/-- The end of stage 5: SRAM cleared, Sniqua enabled. -/
def State.fabricUp (s : State) : State :=
  ((s.clearWindows.modXlink 32 (fun x => { x with enable := true })).trainFromDown 32).stage 6

/-- What the end of each stage makes of the machine, where it is neither in recovery nor held for heat. -/
def State.stageEnd (s : State) (image : List Byte) : Nat → State
  | 1 => s.boot image 0 State.summitBooted
  | 2 => s.boot image 1 State.torBooted
  | 3 => if s.stacksReady then s.stage 4 else s
  | 4 => s.boot image 2 State.crestBooted
  | 5 => s.fabricUp
  | _ => s

theorem exec_bringupStageEnd {s : State} (hrun : s.summit.recovery = false ∧ s.summit.hot = false) (image : List Byte) {n : Nat}
    (hn : s.summit.stage = n) : exec (.bringupStageEnd image) s = .next (s.stageEnd image n) := by
  change execBringupStageEnd image s = _
  simp only [execBringupStageEnd, hrun, hn, Bool.or_self, Bool.false_eq_true, if_false]
  rcases n with _ | _ | _ | _ | _ | _ | n <;> rfl

theorem State.boot_accepted {s : State} {image : List Byte} {c : Nat} (k : State → List Byte → State)
    (h : fwAccepted (s.summit.image c image) c (tget 0 c s.summit.rollback) = true) :
    s.boot image c k = k (s.modSummit (·.booted c (s.summit.image c image))) (s.summit.image c image) := if_pos h

theorem State.boot_refused {s : State} {image : List Byte} {c : Nat} (k : State → List Byte → State)
    (h : fwAccepted (s.summit.image c image) c (tget 0 c s.summit.rollback) = false) :
    s.boot image c k = s.recover := if_neg (Bool.eq_false_iff.mp h)

/-- A stage that verifies firmware gives what holds of the next stage, or recovery. -/
theorem gives_bringupStageEnd {s : State} {image : List Byte} {n c : Nat} {k : State → List Byte → State} {p : State → Prop}
    (hend : s.stageEnd image n = s.boot image c k)
    (hk : s.summit.recovery = false → ∀ u, summitOnly s u → u.summit = s.summit.booted c (s.summit.image c image) →
      p (k u (s.summit.image c image))) :
    (s.summit.recovery = false ∧ s.summit.hot = false → s.summit.stage = n →
      fwAccepted (s.summit.image c image) c (tget 0 c s.summit.rollback) = true → gives (.bringupStageEnd image) s p) ∧
    (s.summit.recovery = false ∧ s.summit.hot = false → s.summit.stage = n →
      fwAccepted (s.summit.image c image) c (tget 0 c s.summit.rollback) = false →
      gives (.bringupStageEnd image) s (fun t => t = { s with summit := { s.summit with recovery := true } })) :=
  ⟨fun hrun hn h => ⟨_, (exec_bringupStageEnd hrun image hn).trans (congrArg _ (hend.trans (State.boot_accepted k h))),
      hk hrun.1 _ (summitOnly_modSummit ..) rfl⟩,
    fun hrun hn h => ⟨_, (exec_bringupStageEnd hrun image hn).trans (congrArg _ (hend.trans (State.boot_refused k h))), rfl⟩⟩

theorem Summit.rollback_booted (m : Summit) (c : Nat) (b : List Byte) :
    tget 0 c (m.booted c b).rollback = max (tget 0 c m.rollback) (fwVersion b) := tget_tput_same ..

theorem State.stacksReady_iff (s : State) : s.stacksReady = true ↔ ∀ k, k < 16 → (s.base k).tstat = 1 := by
  simp only [State.stacksReady, List.all_eq_true, List.mem_range, beq_iff_eq]

section
variable {s u : State} {m : Summit} (hu : summitOnly s u) (hm : u.summit = m) (b : List Byte)
include hu

theorem State.summitBooted_frame : summitOnly s (u.summitBooted b) :=
  (hu.trans (summitOnly_modSummit ..)).trans (summitOnly_stage ..)

theorem State.torBooted_frame :
    u.torBooted b = { s with summit := (u.torBooted b).summit, agenda := (u.torBooted b).agenda } := by
  have h : summitOnly s ((u.modSummit (fun m => { m with mb1 := extend m.mb1 b })).stage 3) :=
    (hu.trans (summitOnly_modSummit ..)).trans (summitOnly_stage ..)
  unfold State.torBooted
  generalize State.stage _ 3 = t at h ⊢
  rw [State.after, State.at_, h]

/-- R24, Table 19-1: stage 4 changes the summit controller, MODULE and the dies that it releases. -/
theorem State.crestBooted_frame : u.crestBooted b =
    { s with summit := (u.crestBooted b).summit, module := (u.crestBooted b).module, dies := (u.crestBooted b).dies } := by
  have h := diesOnly_releaseDies (u.moduleLoaded b)
  unfold State.crestBooted
  generalize (u.moduleLoaded b).releaseDies = t at h ⊢
  unfold diesOnly at h
  rw [h, State.moduleLoaded, hu]
  rfl

include hm

theorem State.summitBooted_summit :
    (u.summitBooted b).summit = { m with mb0 := extend m.mb0 b, stage := 2, since := s.now } := by
  subst hm
  rw [← hu.now]
  rfl

theorem State.torBooted_summit :
    (u.torBooted b).summit = { m with mb1 := extend m.mb1 b, stage := 3, since := s.now } := by
  subst hm
  rw [← hu.now]
  rfl

theorem State.crestBooted_summit :
    (u.crestBooted b).summit = { m with mb2 := extend m.mb2 b, stage := 5, since := s.now } := by
  have h := diesOnly_releaseDies (u.moduleLoaded b)
  simp only [State.crestBooted, State.stage, State.modSummit, h.summit, h.now]
  subst hm
  rw [← hu.now]
  rfl

end

/-- The bound of stage 3 comes two seconds after its beginning. -/
theorem State.awaits_torBooted (u : State) (b : List Byte) : (u.torBooted b).awaits (u.now + 3800000000) .stackReadyTimeout :=
  State.awaits_at ..

theorem State.stage_summit {s t : State} (h : basesOnly s t) (n : Nat) :
    (t.stage n).summit = { s.summit with stage := n, since := s.now } := by
  rw [State.stage, State.modSummit, h]

theorem State.stage_frame {s t : State} (h : basesOnly s t) (n : Nat) :
    t.stage n = { s with summit := (t.stage n).summit, bases := (t.stage n).bases } := by
  rw [State.stage, State.modSummit, h]

theorem State.stage_base (s : State) (n k : Nat) : (s.stage n).base k = s.base k := rfl
theorem State.stage_xlink (s : State) (n l : Nat) : (s.stage n).xlink l = s.xlink l := rfl
theorem State.stage_mem (s : State) (n : Nat) : (s.stage n).mem = s.mem := rfl
theorem State.stage_poison (s : State) (n : Nat) : (s.stage n).poison = s.poison := rfl
theorem State.stage_module (s : State) (n : Nat) : (s.stage n).module = s.module := rfl
theorem State.stage_die (s : State) (n d : Nat) : (s.stage n).die d = s.die d := rfl

theorem State.crestBooted_module (u : State) (b : List Byte) : (u.crestBooted b).module = u.summit.store := by
  rw [State.crestBooted, State.stage_module, (diesOnly_releaseDies (u.moduleLoaded b)).module]
  rfl

theorem State.released_crestBooted (u : State) (b : List Byte) {d : Nat} (h : d < 8) :
    ((u.crestBooted b).die d).released = if u.dieReady d = true then some u.now else (u.die d).released := by
  rw [State.crestBooted, State.stage_die, State.released_releaseDies _ h]
  rfl

theorem State.fabricUp_keeps (s : State) : (s.fabricUp.xlink 32).enable = true ∧ s.fabricUp.mem = s.clearWindows.mem ∧
    s.fabricUp.poison = s.clearWindows.poison := by
  have henable : ((s.clearWindows.modXlink 32 (fun x => { x with enable := true })).xlink 32).enable = true := by
    rw [State.xlink_modXlink]
  obtain ⟨hlink, hmem, hpoison⟩ := State.trainFromDown_keeps _ 32 henable
  rw [State.fabricUp, State.stage_xlink, State.stage_mem, State.stage_poison]
  exact ⟨hlink, hmem, hpoison⟩

theorem State.readByte_fabricUp (s : State) (a : Nat) :
    s.fabricUp.readByte a = if regionOf a = .window then 0 else s.readByte a := by
  obtain ⟨_, hmem, _⟩ := s.fabricUp_keeps
  rw [← s.readByte_clearWindows, State.readByte, hmem, State.readByte]

theorem State.poisoned_fabricUp (s : State) (u : Nat) :
    s.fabricUp.poisoned u = (s.poisoned u && regionOf (8 * u) != .window) := by
  obtain ⟨_, _, hpoison⟩ := s.fabricUp_keeps
  rw [← s.poisoned_clearWindows, State.poisoned, hpoison, State.poisoned]

/-! ## Ports out of service (R409, R434) -/

/-- A port is offline and logged; what is deferred there is still to be ended. -/
def State.portOff (s : State) (k p : Nat) : State :=
  (s.modBase k (fun b => { b with off := b.off ||| BitVec.ofNat 32 (2 ^ p) })).logBase k 8 1 false (BitVec.ofNat 64 p)

theorem exec_portOffline {s : State} {k p : Nat} (hk : k < 16) (hp : p < 32) (hon : (s.base k).off.getLsbD p = false) :
    exec (.portOffline k p) s = .next ((s.portOff k p).dropDeferred k p) := by
  change execPortOffline k p s = _
  rw [execPortOffline, if_pos (by rw [hon]; simp [hk, hp])]
  rfl

theorem basesOnly_portOff (s : State) (k p : Nat) : basesOnly s (s.portOff k p) := rfl

theorem State.base_portOff_ne (s : State) {k x : Nat} (p : Nat) (h : x ≠ k) : (s.portOff k p).base x = s.base x := by
  simp [State.portOff, State.logBase, State.base_modBase, h]

theorem State.base_portOff (s : State) (k p : Nat) : ∃ x : LogEnt, x.array = 8 ∧ x.loc = BitVec.ofNat 64 p ∧
    (s.portOff k p).base k =
      { s.base k with off := (s.base k).off ||| BitVec.ofNat 32 (2 ^ p), log := (s.base k).log.add x } := by
  let x : LogEnt := ⟨8, 1, false, 0, BitVec.ofNat 64 p, s.dieCycle (k / 2)⟩
  refine ⟨x, rfl, rfl, ?_⟩
  simp only [State.portOff, State.logBase, State.base_modBase, if_true]
  rfl

theorem ErrLog.ents_add {l : ErrLog} (x : LogEnt) (h : l.ents.length < 64) : (l.add x).ents = l.ents ++ [x] := by
  rw [ErrLog.add, if_pos h]

theorem getLsbD_or_twoPow (x : BitVec 32) {p : Nat} (hp : p < 32) (i : Nat) :
    (x ||| BitVec.ofNat 32 (2 ^ p)).getLsbD i = (x.getLsbD i || i == p) := by
  rw [BitVec.getLsbD_or, BitVec.getLsbD_ofNat, Nat.testBit_two_pow]
  by_cases hi : p = i
  · simp [← hi, hp]
  · simp [hi, Ne.symm hi]

/-- Requests that are deferred elsewhere stay. -/
theorem State.dropDeferred_none {s : State} {k p : Nat} (h : ∀ r ∈ s.defers, bankOf (r.pa % 2 ^ 44) ≠ 2 ^ 25 + k * 32 + p) :
    s.dropDeferred k p = s := by
  have hno : s.defers.filter (fun r => bankOf (r.pa % 2 ^ 44) == 2 ^ 25 + k * 32 + p) = [] := by
    simpa only [List.filter_eq_nil_iff, beq_iff_eq] using h
  have hall : s.defers.filter (fun r => !(bankOf (r.pa % 2 ^ 44) == 2 ^ 25 + k * 32 + p)) = s.defers := by
    simpa only [List.filter_eq_self, Bool.not_eq_true', beq_eq_false_iff_ne] using h
  simp only [State.dropDeferred, hno, hall, List.foldl_nil]

/-- The one request that is deferred at the port ends with PORT_SELECT. -/
theorem State.dropDeferred_one {s : State} {k p : Nat} {r : MReq} (hd : s.defers = [r])
    (h : bankOf (r.pa % 2 ^ 44) = 2 ^ 25 + k * 32 + p) :
    s.dropDeferred k p = { s with defers := [] }.failReq r r.ea 0x03 p := by
  simp only [State.dropDeferred, hd, List.filter_cons, List.filter_nil, h, beq_self_eq_true, if_true, Bool.not_true,
    Bool.false_eq_true, if_false, List.foldl_cons, List.foldl_nil]

/-! ## READY (R434) -/

theorem exec_torReady {s : State} {k : Nat} (hn : s.summit.stage = 3) (hk : k < 16) (ok capok : Bool) (v : BitVec 32) :
    exec (.torReady k ok capok v) s = .next (s.modBase k (fun b =>
      { b with tstat := if ok then 1 else 2, capok := capok, tver := b.tver.extractLsb' 32 32 ++ v })) := by
  change execTorReady k ok capok v s = _
  simp [execTorReady, hn, hk]

theorem exec_torReady_late {s : State} (hn : s.summit.stage ≠ 3) (k : Nat) (ok capok : Bool) (v : BitVec 32) :
    exec (.torReady k ok capok v) s = .next s := by
  change execTorReady k ok capok v s = _
  simp [execTorReady, hn]

theorem exec_stackReadyTimeout {s : State} (hn : s.summit.stage = 3) (h : s.summit.since + 3800000000 ≤ s.now) :
    exec .stackReadyTimeout s = .next (s.stacksDead.stage 4) := by
  change execStackReadyTimeout s = _
  have hlate : (s.summit.stage == 3 && decide (s.summit.since + twoSeconds ≤ s.now)) = true :=
    Bool.and_eq_true_iff.mpr ⟨beq_iff_eq.mpr hn, decide_eq_true h⟩
  rw [execStackReadyTimeout, if_pos hlate]
  rfl

/-! ## Reset and bring-up (R418) -/

/-- Settles O51: each part is the law of its event, and the three stages that verify firmware share one. -/
theorem bringUp : Obligations.BringUp := by
  unfold Obligations.BringUp
  intro s image m running boots
  have hready := s.stacksReady_iff
  refine ⟨?_, ?_, ?_, fun hrun hn hall => ?_, fun k hrun hn hk hbad => ?_, ?_, fun hrun hn => ?_, fun k ok capok v hn hk => ?_,
    fun k ok capok v hn => exec_torReady_late hn .., fun hn hlate => ?_, fun k p hk hp hon hother => ?_,
    fun k p r hk hp hon hd hmine => ?_⟩
  · exact ⟨s.moduleReset true, rfl, rfl, rfl, rfl, rfl, rfl, rfl, rfl, rfl, rfl, rfl, rfl, rfl, fun _ => rfl, fun _ => rfl, fun _ => rfl,
      fun _ => rfl, rfl⟩
  · refine gives_bringupStageEnd (n := 1) rfl fun hrec u hu hbooted => ?_
    have hsummit := State.summitBooted_summit hu hbooted (m.image 0 image)
    rw [hsummit]
    exact ⟨rfl, hrec, rfl, m.rollback_booted .., rfl, rfl, (congrArg Summit.mb1 hsummit :), (congrArg Summit.mb2 hsummit :),
      State.summitBooted_frame hu _⟩
  · refine gives_bringupStageEnd (n := 2) rfl fun hrec u hu hbooted => ?_
    have hsummit := State.torBooted_summit hu hbooted (m.image 1 image)
    rw [hsummit]
    exact ⟨rfl, hrec, rfl, m.rollback_booted .., rfl, rfl, (congrArg Summit.mb0 hsummit :), (congrArg Summit.mb2 hsummit :),
      hu.now ▸ State.awaits_torBooted u _, State.torBooted_frame hu _⟩
  · exact ⟨s.stage 4, (exec_bringupStageEnd hrun image hn).trans (congrArg _ (if_pos (hready.mpr hall))), rfl⟩
  · exact (exec_bringupStageEnd hrun image hn).trans (congrArg _ (if_neg fun h => hbad (hready.mp h k hk)))
  · refine gives_bringupStageEnd (n := 4) rfl fun hrec u hu hbooted => ?_
    rw [State.crestBooted_summit hu hbooted]
    refine ⟨rfl, hrec, rfl, m.rollback_booted .., rfl, rfl, ?_, fun d hd => ?_, State.crestBooted_frame hu _⟩
    · exact (State.crestBooted_module ..).trans (congrArg Summit.store hbooted :)
    · rw [State.released_crestBooted u _ hd, hu]; rfl
  · exact ⟨s.fabricUp, exec_bringupStageEnd hrun image hn, rfl, s.fabricUp_keeps.1, s.readByte_fabricUp, s.poisoned_fabricUp⟩
  · exact ⟨_, exec_torReady hn hk .., (State.base_modBase ..).trans (if_pos rfl),
      fun x hx => (State.base_modBase ..).trans (if_neg hx), rfl⟩
  · have hbases := basesOnly_stacksDead s
    refine ⟨_, exec_stackReadyTimeout hn hlate, State.stage_summit hbases 4, fun k hk => ?_, State.stage_frame hbases 4⟩
    rw [State.stage_base, State.base_stacksDead s hk]
    rfl
  · refine ⟨_, (exec_portOffline hk hp hon).trans (congrArg _ (State.dropDeferred_none (s := s.portOff k p) hother)), ?_⟩
    obtain ⟨x, harray, hloc, hbase⟩ := s.base_portOff k p
    refine ⟨fun i => ?_, fun hroom => ⟨x, ?_, harray, hloc⟩, fun y hy => s.base_portOff_ne p hy, basesOnly_portOff ..⟩
    · rw [hbase]; exact getLsbD_or_twoPow _ hp i
    · rw [hbase]; exact ErrLog.ents_add x hroom
  · exact ⟨{ s.portOff k p with defers := [] }, rfl, (basesOnly_portOff s k p).sameProgram_defers [],
      (exec_portOffline hk hp hon).trans (congrArg _ (State.dropDeferred_one (s := s.portOff k p) hd hmine))⟩

end Sys2Proof.Machine
end

section
/-! SUPPORT. Bytes and slots (R3, R27 to R32, R52): little-endian fields come back from their bytes, the fields of a slot from its
words, an instruction from its opcode. Settles O54 and O55. -/

namespace Sys2Proof

/-! ## Little-endian bytes (R3) -/

@[simp] theorem length_leBytes (n v : Nat) : (leBytes n v).length = n := by
  induction n generalizing v with
  | zero => rfl
  | succ n ih => simp [leBytes, ih]

theorem leNat_leBytes (n v : Nat) : leNat (leBytes n v) = v % 256 ^ n := by
  induction n generalizing v with
  | zero => simp [leBytes, leNat, Nat.mod_one]
  | succ n ih =>
    rw [leBytes, leNat, ih, pow_succ', Nat.mod_mul]
    rfl

theorem leNat_append (bs cs : List Byte) : leNat (bs ++ cs) = leNat bs + 256 ^ bs.length * leNat cs := by
  induction bs with
  | nil => simp [leNat]
  | cons b bs ih => rw [List.cons_append, leNat, ih, leNat, List.length_cons, pow_succ']; ring

theorem leNat_lt (bs : List Byte) : leNat bs < 256 ^ bs.length := by
  induction bs with
  | nil => simp [leNat]
  | cons b bs ih =>
    have hb : b.toNat < 256 := b.isLt
    rw [leNat, List.length_cons, pow_succ']
    omega

/-- A string of bytes comes back from its value. -/
theorem leBytes_leNat (bs : List Byte) : leBytes bs.length (leNat bs) = bs := by
  induction bs with
  | nil => rfl
  | cons b bs ih =>
    have hb : b.toNat < 256 := b.isLt
    have hlow : BitVec.ofNat 8 (b.toNat + 256 * leNat bs) = b := by
      apply BitVec.eq_of_toNat_eq
      rw [BitVec.toNat_ofNat]
      omega
    have hhigh : (b.toNat + 256 * leNat bs) / 256 = leNat bs := by omega
    rw [List.length_cons, leNat, leBytes, hlow, hhigh, ih]

/-- A field of `n` bytes reads, behind `o` other bytes, as what was written there. -/
theorem leAt_field {bs : List Byte} {o n v : Nat} (pre post : List Byte) (hbs : bs = pre ++ (leBytes n v ++ post))
    (hpre : pre.length = o) : leAt bs o n = v % 256 ^ n := by
  subst hbs hpre
  rw [leAt, List.drop_left, List.take_left' (length_leBytes n v), leNat_leBytes]

/-- A word of `8 n` bits comes back from its field. -/
theorem wAt_field {w : Nat} {bs : List Byte} {o n : Nat} {x : BitVec w} (pre post : List Byte)
    (hbs : bs = pre ++ (leBytes n x.toNat ++ post)) (hpre : pre.length = o) (hw : 2 ^ w = 256 ^ n) : wAt w bs o n = x := by
  rw [wAt, leAt_field pre post hbs hpre, ← hw, Nat.mod_eq_of_lt x.isLt, BitVec.ofNat_toNat, BitVec.setWidth_eq]

/-! ## The words of a slot (Tables 2-1 and 2-3) -/

/-! A field of a word put together lies in its high or in its low part. `no_index` lets these rewrite in a word whose width is given
as one numeral. -/

theorem extractLsb'_append_high {v w s l : Nat} (x : BitVec v) (y : BitVec w) (h : w ≤ s) :
    BitVec.extractLsb' (n := no_index (v + w)) s l (x ++ y) = x.extractLsb' (s - w) l :=
  BitVec.extractLsb'_append_eq_of_le h

theorem extractLsb'_append_low {v w s l : Nat} (x : BitVec v) (y : BitVec w) (h : s + l ≤ w) :
    BitVec.extractLsb' (n := no_index (v + w)) s l (x ++ y) = y.extractLsb' s l :=
  BitVec.extractLsb'_append_eq_of_add_le h

theorem getLsbD_append_high {v w i : Nat} (x : BitVec v) (y : BitVec w) (h : w ≤ i) :
    BitVec.getLsbD (w := no_index (v + w)) (x ++ y) i = x.getLsbD (i - w) := by
  simp [BitVec.getLsbD_append, Nat.not_lt.mpr h]

theorem getLsbD_append_low {v w i : Nat} (x : BitVec v) (y : BitVec w) (h : i < w) :
    BitVec.getLsbD (w := no_index (v + w)) (x ++ y) i = y.getLsbD i := by
  simp [BitVec.getLsbD_append, h]

theorem slotFields_words (op : Nat) (f : SlotF) : slotFields (guardWord f) (actionWord op f) f.lit = f := by
  simp (disch := decide) only [slotFields, guardWord, actionWord, extractLsb'_append_high, extractLsb'_append_low,
    getLsbD_append_high, getLsbD_append_low, Nat.reduceSub, BitVec.extractLsb'_eq_self, BitVec.getLsbD_ofBool, decide_true,
    Bool.true_and]

theorem opcodeOf_actionWord {op : Nat} (h : op < 256) (f : SlotF) : opcodeOf (actionWord op f) = op := by
  simp (disch := decide) only [opcodeOf, actionWord, extractLsb'_append_high, Nat.reduceSub, BitVec.extractLsb'_eq_self,
    BitVec.toNat_ofNat]
  exact Nat.mod_eq_of_lt h

/-- V is set (R28). -/
theorem guardWord_valid (f : SlotF) : (guardWord f).getLsbD 63 = true := by
  simp (disch := decide) only [guardWord, getLsbD_append_high, Nat.reduceSub]
  rfl

theorem guardWord_reserved (f : SlotF) : (guardWord f).extractLsb' 0 3 = 0 :=
  extractLsb'_append_low _ 0#3 (by decide)

/-! ## Opcodes (Tables 2-9 to 2-14) -/

/-- The instruction of a slot comes back from its opcode and its fields. -/
theorem slotInstr_slotOf {i : Instr} {op : Nat} {f : SlotF} (h : slotOf i = some (op, f)) : slotInstr op f = some i := by
  unfold slotOf at h
  split at h <;> cases h <;> rfl

theorem slotOf_op_lt {i : Instr} {op : Nat} {f : SlotF} (h : slotOf i = some (op, f)) : op < 0xF0 := by
  unfold slotOf at h
  split at h <;> cases h <;> decide

theorem commandOnly_slotOf {i : Instr} {op : Nat} {f : SlotF} (h : slotOf i = some (op, f)) : commandOnly op = false := by
  have hop := slotOf_op_lt h
  simp [commandOnly, hop]

/-! ## Slots (R27 to R32, R52) -/

theorem decodeSlot_words {i : Instr} {op : Nat} {f : SlotF} (h : slotOf i = some (op, f)) :
    decodeSlot (guardWord f) (actionWord op f) f.lit = .ok i := by
  simp [decodeSlot, guardWord_valid, guardWord_reserved, opcodeOf_actionWord ((slotOf_op_lt h).trans (by decide)),
    slotFields_words, commandOnly_slotOf h, slotInstr_slotOf h]

@[simp] theorem length_encodeSlot (op : Nat) (f : SlotF) : (encodeSlot op f).length = 24 := by simp [encodeSlot]

/-- The bytes of a slot hold its three words, each in its place. -/
theorem decodeSlotBytes_encodeSlot (op : Nat) (f : SlotF) :
    decodeSlotBytes (encodeSlot op f) = decodeSlot (guardWord f) (actionWord op f) f.lit := by
  have hguard : wAt 64 (encodeSlot op f) 0 8 = guardWord f :=
    wAt_field [] (leBytes 8 f.lit.toNat ++ leBytes 4 (actionWord op f).toNat ++ leBytes 4 0) (by simp [encodeSlot]) rfl (by decide)
  have hlit : wAt 64 (encodeSlot op f) 8 8 = f.lit :=
    wAt_field (leBytes 8 (guardWord f).toNat) (leBytes 4 (actionWord op f).toNat ++ leBytes 4 0) (by simp [encodeSlot]) (by simp)
      (by decide)
  have haction : wAt 32 (encodeSlot op f) 16 4 = actionWord op f :=
    wAt_field (leBytes 8 (guardWord f).toNat ++ leBytes 8 f.lit.toNat) (leBytes 4 0) (by simp [encodeSlot]) (by simp) (by decide)
  have hzero : leAt (encodeSlot op f) 20 4 = 0 :=
    leAt_field (v := 0) (leBytes 8 (guardWord f).toNat ++ leBytes 8 f.lit.toNat ++ leBytes 4 (actionWord op f).toNat) []
      (by simp [encodeSlot]) (by simp)
  simp [decodeSlotBytes, hguard, hlit, haction, hzero]

/-- The V bit of a slot is bit 63 of its bytes as one number (log 13). -/
theorem testBit_leNat_encodeSlot (op : Nat) (f : SlotF) : (leNat (encodeSlot op f)).testBit 63 = true := by
  have hlow : (guardWord f).toNat < 2 ^ 64 := (guardWord f).isLt
  rw [encodeSlot, List.append_assoc, List.append_assoc, leNat_append, leNat_leBytes, length_leBytes,
    show 256 ^ 8 = 2 ^ 64 from rfl, Nat.mod_eq_of_lt hlow, Nat.add_comm, Nat.testBit_two_pow_mul_add _ hlow, if_pos (by decide)]
  exact guardWord_valid f

theorem decodeTableWord_encodeSlot (op : Nat) (f : SlotF) :
    decodeTableWord 192 (leNat (encodeSlot op f)) = okOpt (decodeSlotBytes (encodeSlot op f)) := by
  have hlt : leNat (encodeSlot op f) < 2 ^ 192 := by
    have h := leNat_lt (encodeSlot op f)
    rwa [length_encodeSlot] at h
  have hbytes : leBytes 24 (leNat (encodeSlot op f)) = encodeSlot op f := by
    have h := leBytes_leNat (encodeSlot op f)
    rwa [length_encodeSlot] at h
  rw [decodeTableWord, testBit_leNat_encodeSlot, Nat.mod_eq_of_lt hlt, hbytes, if_pos rfl]

/-- Settles O54: the decoder evaluated at each word, whose fields are those of Tables 2-1 and 2-3. -/
theorem wordsOfTheSpecDecode : Obligations.WordsOfTheSpecDecode := by
  unfold Obligations.WordsOfTheSpecDecode
  intro slot
  have decodes : ∀ {g : Word} {a : BitVec 32} {l : Word} {mk : SlotF → Instr} {p : SlotF → Prop},
      decodeSlot g a l = .ok (mk (slotFields g a l)) → p (slotFields g a l) → slot g a l mk p := fun h hp => ⟨_, h, rfl, hp⟩
  refine ⟨decodes rfl (by decide), decodes rfl (by decide), decodes rfl (by decide), decodes rfl (by decide),
    decodes rfl (by decide), decodes rfl (by decide), decodes rfl (by decide), fun v => ?_, rfl, ⟨0x0F, rfl⟩, ⟨0xF0, rfl⟩⟩
  simp [decodeCmd, cmdInstr, opcodeOf, itemOf]

/-- Settles O55: the three words come back from the bytes, and the instruction from the words. -/
theorem slotsDecodeAsEncoded : Obligations.SlotsDecodeAsEncoded := by
  unfold Obligations.SlotsDecodeAsEncoded
  intro i op f h
  have hbytes : decodeSlotBytes (encodeSlot op f) = .ok i := (decodeSlotBytes_encodeSlot op f).trans (decodeSlot_words h)
  refine ⟨hbytes, ?_, opcodeOf_actionWord ((slotOf_op_lt h).trans (by decide)) f, slotFields_words op f⟩
  rw [decodeTableWord_encodeSlot, hbytes]
  rfl

end Sys2Proof
end

section
/-! SUPPORT. What a poisoned source and a bad release do to a firing (R33, R98, R163, R410): each operation of a firing judges its
operands before anything else. Settles O58. -/

namespace Sys2Proof.Machine

/-! ## The fault of the operands -/

theorem State.operandFault_poisonA {s : State} {cu : Cursor} {f : SlotF} (ha : (readSource s cu f f.sa).poison = true) :
    s.operandFault cu f = some (s.raisePoison cu (readSource s cu f f.sa)) := by
  simp [State.operandFault, ha]

theorem State.operandFault_poisonB {s : State} {cu : Cursor} {f : SlotF} (ha : (readSource s cu f f.sa).poison = false)
    (hb : (readSource s cu f f.sb).poison = true) :
    s.operandFault cu f = some (s.raisePoison cu (readSource s cu f f.sb)) := by
  simp [State.operandFault, ha, hb]

theorem State.operandFault_badRelease {s : State} {cu : Cursor} {f : SlotF} (ha : (readSource s cu f f.sa).poison = false)
    (hb : (readSource s cu f f.sb).poison = false) (hr : badRelease s cu f = true) :
    s.operandFault cu f = some (s.raiseSync cu 0x05 0 ((headTag (s.elem cu.ea) f.ia.toNat).setWidth 64)) := by
  simp [State.operandFault, ha, hb, hr]

/-! ## The operations of a firing stop at it -/

section
variable {s t : State} {cu : Cursor} {f : SlotF} (hcu : s.cur = some cu) (ht : s.operandFault cu f = some t)
include hcu ht

theorem State.fireAlu_operandFault (lat : AluIn → Nat) (g : AluIn → Res) : s.fireAlu f lat g = t := by
  simp only [State.fireAlu, hcu, ht]

theorem State.fireWith_operandFault (g : Cursor → AluIn → Byte → State → State) : s.fireWith f g = t := by
  simp only [State.fireWith, hcu, ht]

theorem State.fireDiv_operandFault (g : AluIn → Res) : s.fireDiv f g = t := by
  simp only [State.fireDiv, hcu, ht]

theorem State.fireRequest_operandFault (acc : Acc) : s.fireRequest f acc = t := by
  simp only [State.fireRequest, hcu, ht]

theorem State.fireEngine_operandFault (acc : Acc) : s.fireEngine f acc = t := by
  simp only [State.fireEngine, hcu, ht]

theorem State.fireLocal_operandFault (acc : Acc) : s.fireLocal f acc = t := by
  simp only [State.fireLocal, hcu, ht]

theorem State.fireGen_operandFault (genp : Bool) : s.fireGen f genp = t := by
  simp only [State.fireGen, hcu, ht]

end

/-- The stream operators judge source A alone, and first. -/
theorem State.fireStream_poisonA {s : State} {cu : Cursor} {f : SlotF} (hcu : s.cur = some cu)
    (ha : (readSource s cu f f.sa).poison = true) (op : Nat) :
    s.fireStream f op = s.raisePoison cu (readSource s cu f f.sa) := by
  simp only [State.fireStream, hcu, ha, if_true]

/-! ## Instructions -/

/-- Opcodes that judge the poison of source A first, and checks of their own before the rest of their operands: bar.init, hcommit,
hrel, the stream operators. -/
def judgesOnlyA : List Nat := [0x92, 0xA4, 0xA6, 0xAD, 0xAE, 0xAF, 0xB0, 0xB1]

/-- Opcodes whose firing may pass poison on, or raises a fault of its own before those of its operands: mov, mov2, steer, rdsr, wrsr,
bar.arv, bar.drop, bar.q, trap, hacq and four of an ME. -/
def judgesOperandsLate : List Nat := [0x01, 0x02, 0x04, 0x78, 0x79, 0x90, 0x91, 0x93, 0x98, 0xA3, 0xC0, 0xC1, 0xC2, 0xC3]

/-- Every other firing is stopped by the fault of its operands, which is then all that happens. -/
theorem exec_operandFault {i : Instr} {op : Nat} {f : SlotF} (h : slotOf i = some (op, f))
    (hop : op ∉ judgesOperandsLate ++ judgesOnlyA) {s t : State} {cu : Cursor} (hcu : s.cur = some cu)
    (ht : s.operandFault cu f = some t) : exec i s = .next t := by
  cases i with
  | mov _ | mov2 _ | steer _ | rdsr _ | wrsr _ | barArv _ | barDrop _ | barInit _ | barQ _ | trap _ | hacq _ | hcommit _
    | hrel _ | isect _ | merge _ | topk _ | prune _ | redc _ | mldB _ | mldBs _ | mrow _ | mcfg _ =>
    cases h
    exact absurd hop (by decide)
  | sel _ | add _ | sub _ | adds _ | addus _ | subs _ | mul _ | mulh _ | mulhu _ | mac _ | min _ | max _ | minu _ | maxu _
    | abs _ | and _ | or _ | xor _ | andn _ | shl _ | shr _ | sar _ | rol _ | clz _ | ctz _ | popc _ | bext _ | bins _ | addW2 _
    | subW2 _ | mulW2 _ | minW2 _ | maxW2 _ | addsW2 _ | idot8 _ | idot8u _ | ceq _ | cne _ | clt _ | cle _ | cltu _ | cleu _
    | ctst _ | cz _ | faddS2 _ | fsubS2 _ | fmulS2 _ | fmaS2 _ | fminS2 _ | fmaxS2 _ | frcpeS2 _ | frsqeS2 _ | fceqS2 _
    | fcltS2 _ | fcleS2 _ | fclassS2 _ | frndS2 _ | faddH4 _ | fsubH4 _ | fmulH4 _ | fmaH4 _ | fminH4 _ | fmaxH4 _ | fdotwH4 _
    | fdotwQ8 _ | fsumS2 _ | cvtSI _ | cvtIS _ | packBf _ | unpkBfLo _ | unpkBfHi _ | packE4 _ | packE5 _ | unpkE4Lo _
    | unpkE4Hi _ | unpkE5Lo _ | unpkE5Hi _ | packF16 _ | unpkF16Lo _ | unpkF16Hi _ | qntI8 _ | deqI8Lo _ =>
    cases h
    exact congrArg Host.Outcome.next (State.fireAlu_operandFault hcu ht ..)
  | sendeos _ | halt _ | exit _ | pset _ | pclr _ | pmov _ | drop _ | ctag _ | spawn _ | pooln _ | chst _ | join _ | rdcnt _
    | setsc _ | rdflg _ | clrflg _ | ccan _ | sbar _ | brk _ | hstat _ | tlook _ | tins _ | tevict _ | mdrain _ | mls _
    | mclr _ =>
    cases h
    exact congrArg Host.Outcome.next (State.fireWith_operandFault hcu ht ..)
  | divu _ | remu _ =>
    cases h
    exact congrArg Host.Outcome.next (State.fireDiv_operandFault hcu ht ..)
  | ld _ | st _ | lde _ | stf _ | amo _ | cas _ =>
    cases h
    exact congrArg Host.Outcome.next (State.fireRequest_operandFault hcu ht ..)
  | gat _ | sca _ | qry _ | qabort _ =>
    cases h
    exact congrArg Host.Outcome.next (State.fireEngine_operandFault hcu ht ..)
  | sld _ | sst _ | samo _ =>
    cases h
    exact congrArg Host.Outcome.next (State.fireLocal_operandFault hcu ht ..)
  | gen _ | genp _ =>
    cases h
    exact congrArg Host.Outcome.next (State.fireGen_operandFault hcu ht ..)
  | lea _ | tfree _ | spill _ | fill _ | copy _ | qpush _ | migr _ | tinval _ | svc _ | hread _ =>
    cases h
    refine congrArg Host.Outcome.next ?_
    simp only [hcu, ht]
  | _ => cases h

/-- Poison of source A stops the firings that judge it alone as well. -/
theorem exec_poisonA_alone {i : Instr} {op : Nat} {f : SlotF} (h : slotOf i = some (op, f)) (hop : op ∈ judgesOnlyA) {s : State}
    {cu : Cursor} (hcu : s.cur = some cu) (ha : (readSource s cu f f.sa).poison = true) :
    exec i s = .next (s.raisePoison cu (readSource s cu f f.sa)) := by
  cases i with
  | barInit _ | hcommit _ | hrel _ =>
    cases h
    refine congrArg Host.Outcome.next ?_
    simp only [hcu, ha, if_true]
  | isect _ | merge _ | topk _ | prune _ | redc _ =>
    cases h
    exact congrArg Host.Outcome.next (State.fireStream_poisonA hcu ha _)
  | _ => cases h <;> exact absurd hop (by decide)

theorem exec_poisonA {i : Instr} {op : Nat} {f : SlotF} (h : slotOf i = some (op, f)) (hop : op ∉ judgesOperandsLate) {s : State}
    {cu : Cursor} (hcu : s.cur = some cu) (ha : (readSource s cu f f.sa).poison = true) :
    exec i s = .next (s.raisePoison cu (readSource s cu f f.sa)) := by
  by_cases halone : op ∈ judgesOnlyA
  · exact exec_poisonA_alone h halone hcu ha
  · exact exec_operandFault h (by simp [hop, halone]) hcu (State.operandFault_poisonA ha)

/-- Settles O58: each of the three faults is the fault of the firing's operands. -/
theorem poisonStopsFirings : Obligations.PoisonStopsFirings := by
  unfold Obligations.PoisonStopsFirings
  intro s cu i op f h hcu a b
  refine ⟨fun hop ha => exec_poisonA h hop hcu ha, fun hop ha => ?_⟩
  have hall : op ∉ judgesOperandsLate ++ judgesOnlyA := fun hmem => hop ((by decide : judgesOperandsLate ++ judgesOnlyA ⊆ _) hmem)
  exact ⟨fun hb => exec_operandFault h hall hcu (State.operandFault_poisonB ha hb),
    fun hb hr => exec_operandFault h hall hcu (State.operandFault_badRelease ha hb hr)⟩

end Sys2Proof.Machine
end

section
/-! SUPPORT. What a step does at the end of a cycle (R85, log 3). Refutes O57. -/

namespace Sys2Proof.Machine

/-- The cycle ends where nothing is chosen and nothing is due: the clock goes on, and what the SEs held at the firings of the cycle is
forgotten. -/
theorem step_endOfCycle {s : State} (hchosen : s.chosen = []) (hagenda : s.agenda = []) (hphase : s.phase = .fire) :
    step s = .next { s with phase := .events, now := s.now + 1, found := [] } := by
  simp [step, State.stepOnce, State.popDue, State.advance, hchosen, hagenda, hphase]

/-- Refutes O57: after the firings of a cycle in which an ME fired, the step to the next cycle also forgets the handles and rings that
were kept for it (`State.found`), which the statement leaves as they were. -/
theorem not_stepRunsTheDecodedInstruction : ¬ Obligations.StepRunsTheDecodedInstruction := by
  unfold Obligations.StepRunsTheDecodedInstruction
  intro h
  let s : State := { State.reset with phase := .fire, found := [(0, [], [])] }
  obtain ⟨-, -, hnext⟩ := h s rfl
  have hstated : step s = .next { s with phase := .events, now := s.now + 1 } := (hnext rfl (fun _ _ hx => nomatch hx)).1 rfl
  rw [step_endOfCycle rfl rfl rfl] at hstated
  have hfound : ([] : Map (Map Hnd × Map Ring)) = [(0, [], [])] := congrArg State.found (Host.Outcome.next.inj hstated)
  exact absurd hfound (by decide)

end Sys2Proof.Machine
end

section
/-! SUPPORT. A firing up to its own effect (R91): the state in which it is counted, its pops are done and the flags of its sources are
on their way, and what that state leaves as it was. -/

namespace Sys2Proof.Machine

/-! ## The common part -/

/-- The state in which the firing's own effect begins: counted, with its tag action and its pops done, and the flags `fl` of decoding
its sources on their way. -/
def State.fired (s : State) (cu : Cursor) (f : SlotF) (fl : FlagSet) : State := (s.fireBase cu f).raiseFlags cu 2 fl

section
variable (s : State) (cu : Cursor) (f : SlotF) (fl : FlagSet)

theorem counts_fired : s.counts (s.fired cu f fl) cu f := State.counts_stays (counts_fireBase s cu f) (stays_raiseFlags ..)

theorem fireFrame_fired : fireFrame s (s.fired cu f fl) cu := (fireFrame_fireBase s cu f).trans (fireFrame_raiseFlags ..)

theorem State.fired_elem : (s.fired cu f fl).elem cu.ea = (s.fireBase cu f).elem cu.ea := by
  unfold State.fired State.raiseFlags
  split <;> rfl

theorem State.fired_groups : (s.fired cu f fl).groups = (s.fireBase cu f).groups := by
  unfold State.fired State.raiseFlags
  split <;> rfl

end

theorem State.fireWith_eq {s : State} {cu : Cursor} {f : SlotF} (h : s.goes cu f) (g : Cursor → AluIn → Byte → State → State) :
    s.fireWith f g = g cu (aluIn s cu f) (sentTag s cu f) (s.fired cu f (sourceFlags s cu f)) := by
  simp only [State.fireWith, h.1, goes_operands h, State.fired]

/-- A firing that delivers nothing, and has the effect `e` of its own. -/
theorem firesWith_of_fired {i : Instr} {s : State} {cu : Cursor} {f : SlotF} {fl : FlagSet} {e : State → State}
    (hi : exec i s = .next (e (s.fired cu f fl))) : firesWith i s cu f e :=
  ⟨_, hi, counts_fired .., fireFrame_fired ..⟩

/-- What an instruction does that sends one word or result: after the common part, `v` is on its way to `d`. -/
theorem fired_delivers {s : State} {cu : Cursor} {f : SlotF} (fl : FlagSet) (d : BitVec 5) (lat : Nat) (v : Word) (k : WKind)
    (fl' : FlagSet) :
    let t := (s.fired cu f fl).deliver cu f d lat v k (sentTag s cu f) fl'
    s.delivers t cu f d lat v k fl' ∧ s.counts t cu f ∧ fireFrame s t cu :=
  ⟨delivers_deliver (fireFrame_fired ..) .., State.counts_stays (counts_fired ..) (stays_deliver ..),
    (fireFrame_fired ..).trans (fireFrame_deliver ..)⟩

/-- A firing of the common form that sends one word of the kind `k`, whose value `v` gives from the operands. -/
theorem fireWith_delivers {s : State} {cu : Cursor} {f : SlotF} {i : Instr} (h : s.goes cu f) {d : BitVec 5} {lat : Nat}
    (v : Cursor → AluIn → Word) {k : WKind} {fl : FlagSet}
    (hi : exec i s = .next (s.fireWith f (fun cu x tag u => u.deliver cu f d lat (v cu x) k tag fl))) :
    ∃ t, exec i s = .next t ∧ s.delivers t cu f d lat (v cu (aluIn s cu f)) k fl ∧ s.counts t cu f ∧ fireFrame s t cu := by
  rw [State.fireWith_eq h] at hi
  exact ⟨_, hi, fired_delivers ..⟩

theorem fireFrame.keepsAgenda {s t : State} {cu : Cursor} (h : fireFrame s t cu) : s.keepsAgenda t := by
  obtain ⟨⟨-, -, -, -, hagenda⟩, -, -⟩ := h
  exact hagenda

/-- A result on its way stays on its way. -/
theorem State.delivers.kept {s t u : State} {cu : Cursor} {f : SlotF} {d : BitVec 5} {lat : Nat} {v : Word} {k : WKind} {fl : FlagSet}
    (h : s.delivers t cu f d lat v k fl) (hu : t.keepsAgenda u) : s.delivers u cu f d lat v k fl := by
  obtain ⟨r, hr, hrest⟩ := h
  exact ⟨r, hr.kept hu, hrest⟩

/-- Two results sent one after the other. -/
theorem fired_delivers_two {s : State} {cu : Cursor} {f : SlotF} (fl : FlagSet) (d d' : BitVec 5) (lat lat' : Nat) (v v' : Word)
    (k k' : WKind) (fl' fl'' : FlagSet) :
    let t := ((s.fired cu f fl).deliver cu f d lat v k (sentTag s cu f) fl').deliver cu f d' lat' v' k' (sentTag s cu f) fl''
    s.delivers t cu f d lat v k fl' ∧ s.delivers t cu f d' lat' v' k' fl'' ∧ s.counts t cu f ∧ fireFrame s t cu := by
  obtain ⟨hfirst, hcounts, hframe⟩ := fired_delivers (s := s) (cu := cu) (f := f) fl d lat v k fl'
  exact ⟨hfirst.kept (fireFrame_deliver (cu := cu) ..).keepsAgenda, delivers_deliver hframe ..,
    State.counts_stays hcounts (stays_deliver ..), hframe.trans (fireFrame_deliver ..)⟩

/-! ## The context -/

/-- What follows a pop, its credit and its progress, leaves the elements alone. -/
theorem State.elems_returnCredit_progressAt (s : State) (ea : Nat) (src : Src) :
    ((s.returnCredit ea src).progressAt ea).elems = s.elems := by
  unfold State.progressAt State.returnCredit
  cases src <;> dsimp only <;> split <;> rfl

theorem State.pop_ctx (s : State) (ea ch x c : Nat) : (s.pop ea ch).ctx x c = s.ctx x c := by
  unfold State.pop
  dsimp only
  split
  · rfl
  · rename_i w rest _
    have hkept : (s.modChan ea ch (fun c => { c with q := rest, st := chanAfterPop c.st rest })).ctx x c = s.ctx x c := by
      by_cases hx : x = ea
      · subst hx; simp [State.modChan, State.ctx, Elem.setChan, Elem.ctx]
      · simp [State.modChan, State.ctx, hx]
    simpa only [State.ctx, State.elem, State.elems_returnCredit_progressAt] using hkept

theorem State.popIf_ctx (s : State) (k : Bool) (ea ch x c : Nat) : (s.popIf k ea ch).ctx x c = s.ctx x c := by
  unfold State.popIf
  split
  · exact State.pop_ctx ..
  · rfl

theorem State.tagEffect_ctx (s : State) (cu : Cursor) (f : SlotF) (c : Nat) : (s.tagEffect cu f).ctx cu.ea c = s.ctx cu.ea c := by
  unfold State.tagEffect
  split
  · simp [State.ctx, Elem.ctx]
  · split
    · dsimp only
      split <;> rfl
    · rfl

/-- A firing's common part changes the firing counter of its context and nothing else in it. -/
theorem State.fired_ctx (s : State) (cu : Cursor) (f : SlotF) (fl : FlagSet) :
    (s.fired cu f fl).ctx cu.ea cu.ctx = { s.ctx cu.ea cu.ctx with fires := (s.ctx cu.ea cu.ctx).fires + 1 } := by
  have hcount : (s.countFiring cu).ctx cu.ea cu.ctx = { s.ctx cu.ea cu.ctx with fires := (s.ctx cu.ea cu.ctx).fires + 1 } := by
    simp [State.countFiring, State.ctx, Elem.ctx, Elem.setCtx]
  rw [State.ctx, State.fired_elem, ← State.ctx, State.fireBase, State.popIf_ctx, State.popIf_ctx, State.tagEffect_ctx, hcount]

theorem State.fired_work (s : State) (cu : Cursor) (f : SlotF) (fl : FlagSet) :
    ((s.fired cu f fl).elem cu.ea).work = (s.elem cu.ea).work := by
  rw [(fireFrame_fired s cu f fl).2.1]

end Sys2Proof.Machine
end

section
/-! SUPPORT. Moves and selections (R102 to R105, R163). Settles O9. -/

namespace Sys2Proof.Machine

/-- A move takes its source where it is no poison, or where outputs take the poison (R163). -/
theorem mayPass_iff (f : SlotF) (x : Opnd) (d : BitVec 5) :
    (x.poison && !passes f d) = false ↔ (x.poison = true → destOuts f d ≠ []) := by
  simp [passes]

theorem stopped_iff (f : SlotF) (x : Opnd) (d : BitVec 5) :
    (x.poison && !passes f d) = true ↔ x.poison = true ∧ destOuts f d = [] := by
  simp [passes]

section
variable {s : State} {cu : Cursor} {f : SlotF} (hcu : s.cur = some cu)
include hcu

theorem exec_mov (hrel : badRelease s cu f = false)
    (ha : (readSource s cu f f.sa).poison = true → destOuts f f.da ≠ []) :
    let a := readSource s cu f f.sa
    exec (.mov f) s = .next ((s.fired cu f a.fl).deliver cu f f.da 1 a.val (moveKind a) (sentTag s cu f) 0) := by
  change execMov f s = _
  simp [execMov, hcu, (mayPass_iff f _ f.da).mpr ha, hrel, State.fired]

theorem exec_mov2 (hrel : badRelease s cu f = false)
    (ha : (readSource s cu f f.sa).poison = true → destOuts f f.da ≠ [])
    (hb : (readSource s cu f f.sb).poison = true → destOuts f f.db ≠ []) :
    let a := readSource s cu f f.sa
    let b := readSource s cu f f.sb
    exec (.mov2 f) s = .next (((s.fired cu f (a.fl ||| b.fl)).deliver cu f f.da 1 a.val (moveKind a) (sentTag s cu f) 0).deliver
      cu f f.db 1 b.val (moveKind b) (sentTag s cu f) 0) := by
  change execMov2 f s = _
  simp [execMov2, hcu, (mayPass_iff f _ f.da).mpr ha, (mayPass_iff f _ f.db).mpr hb, hrel, State.fired]

theorem exec_mov_poison (ha : (readSource s cu f f.sa).poison = true) (hd : destOuts f f.da = []) :
    exec (.mov f) s = .next (s.raisePoison cu (readSource s cu f f.sa)) := by
  change execMov f s = _
  simp [execMov, hcu, (stopped_iff f _ f.da).mpr ⟨ha, hd⟩]

theorem exec_mov2_poison (ha : (readSource s cu f f.sa).poison = true) (hd : destOuts f f.da = []) :
    exec (.mov2 f) s = .next (s.raisePoison cu (readSource s cu f f.sa)) := by
  change execMov2 f s = _
  simp [execMov2, hcu, (stopped_iff f _ f.da).mpr ⟨ha, hd⟩]

theorem exec_steer (hrel : badRelease s cu f = false) (hb : (readSource s cu f f.sb).poison = false) :
    let a := readSource s cu f f.sa
    let b := readSource s cu f f.sb
    exec (.steer f) s = .next ((s.fired cu f (a.fl ||| b.fl)).deliver cu f (if b.val.getLsbD 0 then 16 else 17) 1 a.val (moveKind a)
      (sentTag s cu f) 0) := by
  change execSteer f s = _
  simp [execSteer, hcu, hb, hrel, State.fired]

theorem exec_steer_poison (hb : (readSource s cu f f.sb).poison = true) :
    exec (.steer f) s = .next (s.raisePoison cu (readSource s cu f f.sb)) := by
  change execSteer f s = _
  simp [execSteer, hcu, hb]

end

/-- Settles O9: each move sends its sources after the common part of its firing, unless a source is a poison that no output takes. -/
theorem movesAndSelection : Obligations.MovesAndSelection := by
  unfold Obligations.MovesAndSelection
  intro s cu f hcu hrel a b kind mayPass
  refine ⟨fun ha => ⟨_, exec_mov hcu hrel ha, fired_delivers ..⟩,
    fun ha hb => ⟨_, exec_mov2 hcu hrel ha hb, fired_delivers_two ..⟩,
    fun hb => ⟨_, exec_steer hcu hrel hb, fired_delivers ..⟩, fun ha hb => ?_,
    fun ha hd => ⟨exec_mov_poison hcu ha hd, exec_mov2_poison hcu ha hd⟩, exec_steer_poison hcu⟩
  have hgoes : s.goes cu f := ⟨hcu, ha, hb, hrel⟩
  exact ⟨fireAlu_computes (.sel f) (fun _ => 1) (fun x => (if x.b.getLsbD 0 then x.a else x.lit, 0)) hgoes rfl,
    fireWith_delivers hgoes (fun _ _ => 0) rfl⟩

end Sys2Proof.Machine
end

section
/-! SUPPORT. Firings that end a context, or do nothing but pop (R106, R107, R109, R414, R415). Settles O10. -/

namespace Sys2Proof.Machine

/-- R414: a trap judges nothing but itself. -/
theorem exec_trap {s : State} {cu : Cursor} (hcu : s.cur = some cu) (f : SlotF) :
    exec (.trap f) s = .next (s.raiseSync cu 0x70 0 f.lit) := by
  change execTrap f s = _
  simp only [execTrap, hcu]

section
variable {s : State} {cu : Cursor} {f : SlotF} (h : s.goes cu f)
include h

/-- R415: what a brk does hangs on BRKEN and SKIPBRK as they were before the firing. -/
theorem exec_brk : exec (.brk f) s = .next (
    let u := s.fired cu f (sourceFlags s cu f)
    if ecwBrken (s.elem cu.ea).work.ecw = true ∧ (s.ctx cu.ea cu.ctx).skipbrk = false then
      (u.modCtx cu.ea cu.ctx (fun c => { c with st := .halted })).raiseRec (u.groupNo cu.ea) cu.ea cu.ea (some cu.ctx) (some cu.slot)
        0x71 false true 0 f.lit
    else u.modCtx cu.ea cu.ctx (fun c => { c with skipbrk := false })) := by
  change execBrk f s = _
  rw [execBrk, State.fireWith_eq h]
  dsimp only
  rw [State.fired_work, State.fired_ctx]
  cases ecwBrken (s.elem cu.ea).work.ecw <;> cases (s.ctx cu.ea cu.ctx).skipbrk <;> rfl

theorem firesWith_brk_disabled (hdis : ¬ (ecwBrken (s.elem cu.ea).work.ecw = true ∧ (s.ctx cu.ea cu.ctx).skipbrk = false)) :
    firesWith (.brk f) s cu f (fun u => u.modCtx cu.ea cu.ctx (fun c => { c with skipbrk := false })) := by
  refine firesWith_of_fired (fl := sourceFlags s cu f) ((exec_brk h).trans ?_)
  dsimp only
  rw [if_neg hdis]

theorem firesWith_brk_enabled (hen : ecwBrken (s.elem cu.ea).work.ecw = true ∧ (s.ctx cu.ea cu.ctx).skipbrk = false) :
    firesWith (.brk f) s cu f (fun u =>
      (u.modCtx cu.ea cu.ctx (fun c => { c with st := .halted })).raiseRec (u.groupNo cu.ea) cu.ea cu.ea (some cu.ctx) (some cu.slot)
        0x71 false true 0 f.lit) := by
  refine firesWith_of_fired (fl := sourceFlags s cu f) ((exec_brk h).trans ?_)
  dsimp only
  rw [if_pos hen]

end

/-- Settles O10: drop, exit and halt are firings with the effect named; brk is one by BRKEN and SKIPBRK, and trap is its fault. -/
theorem endingAContext : Obligations.EndingAContext := by
  unfold Obligations.EndingAContext
  intro s cu f h enabled
  exact ⟨(fireWith_fires (.drop f) _ h rfl :), (fireWith_fires (.exit f) _ h rfl :), (fireWith_fires (.halt f) _ h rfl :),
    exec_trap h.1 f, firesWith_brk_disabled h, firesWith_brk_enabled h⟩

end Sys2Proof.Machine
end

section
/-! SUPPORT. Predicates, the context tag, flags, scale and special registers (R108, R110, R113 to R117, R167, R170, R187, R189,
R220). Settles O11, O12. -/

namespace Sys2Proof.Machine

/-! ## Predicates (R108) -/

theorem State.writePreds_sends (s : State) (cu : Cursor) {mask : Byte} (h : mask ≠ 0) (v : Byte) :
    s.writePreds cu mask v =
      s.after 1 (.resultDelivery { Delivery.none s cu with predMask := mask, predVal := v &&& mask }) := by
  rw [State.writePreds, if_neg (by simpa using h)]

theorem fireFrame_writePreds (s : State) (cu : Cursor) (mask v : Byte) : fireFrame s (s.writePreds cu mask v) cu := by
  unfold State.writePreds
  split
  · exact .refl ..
  · exact fireFrame_after ..

theorem stays_writePreds (s : State) (cu : Cursor) (mask v : Byte) : stays s (s.writePreds cu mask v) cu := by
  unfold State.writePreds
  split
  · exact .refl ..
  · exact stays_of rfl

/-- A firing that writes the predicates of `mask` writes them one cycle later. -/
theorem fireWith_writePreds {s : State} {cu : Cursor} {f : SlotF} {i : Instr} (h : s.goes cu f) {mask : Byte} (v : AluIn → Byte)
    (hi : exec i s = .next (s.fireWith f (fun cu x _ u => u.writePreds cu mask (v x)))) :
    ∃ t, exec i s = .next t ∧ s.counts t cu f ∧ fireFrame s t cu ∧
      (mask ≠ 0 → ∃ r : Delivery, t.awaits (s.now + 1) (.resultDelivery r) ∧ r.ea = cu.ea ∧ r.ctx = cu.ctx ∧ r.reg = none ∧
        r.predMask = mask ∧ r.predVal = v (aluIn s cu f) &&& mask ∧ r.places = [] ∧ r.flags = 0 ∧
        r.epoch = (s.elem cu.ea).epoch) := by
  rw [State.fireWith_eq h] at hi
  have hfired := fireFrame_fired s cu f (sourceFlags s cu f)
  refine ⟨_, hi, State.counts_stays (counts_fired ..) (stays_writePreds ..), hfired.trans (fireFrame_writePreds ..), fun hmask => ?_⟩
  rw [State.writePreds_sends _ _ hmask, ← hfired.now]
  exact ⟨_, State.awaits_at .., rfl, rfl, rfl, rfl, rfl, rfl, rfl, hfired.epoch⟩

/-! ## Special registers (R115, R116) -/

theorem Ctx.writeSr_eq (c : Ctx) (i : Nat) (v : Word) : c.writeSr i v =
    if i = 5 then { c with tag := v.setWidth 8 } else if i = 7 then { c with spillOvf := v &&& ~~~7 } else c := by
  unfold Ctx.writeSr
  split
  · rfl
  · rfl
  · rename_i h5 h7
    rw [if_neg h5, if_neg h7]

section
variable {s : State} {cu : Cursor} {f : SlotF} (hcu : s.cur = some cu)
include hcu

theorem exec_rdsr_absent (h : srAbsent (s.elem cu.ea).kind (f.lit.toNat % 16) = true) :
    exec (.rdsr f) s = .next (s.raiseSync cu 0x01 0 f.lit) := by
  change execRdsr f s = _
  simp [execRdsr, hcu, h]

theorem exec_wrsr_absent (h : srAbsent (s.elem cu.ea).kind (f.lit.toNat % 16) = true) :
    exec (.wrsr f) s = .next (s.raiseSync cu 0x01 0 f.lit) := by
  change execWrsr f s = _
  simp [execWrsr, hcu, h]

theorem exec_rdsr_present (h : srAbsent (s.elem cu.ea).kind (f.lit.toNat % 16) = false) :
    exec (.rdsr f) s = .next (s.fireWith f (fun cu' _ tag u =>
      u.deliver cu' f f.da 1 (specialReg s cu' (f.lit.toNat % 16)) .data tag 0)) := by
  change execRdsr f s = _
  simp [execRdsr, hcu, h]

theorem exec_wrsr_present (h : srAbsent (s.elem cu.ea).kind (f.lit.toNat % 16) = false) :
    exec (.wrsr f) s = .next (s.fireWith f (fun cu' x _ u =>
      u.modCtx cu'.ea cu'.ctx (fun c => c.writeSr (f.lit.toNat % 16) x.a))) := by
  change execWrsr f s = _
  simp [execWrsr, hcu, h]

end

/-- Settles O11: predicates come with a delivery of the next cycle; the other writes are the effect of their firing. -/
theorem writesOfPredicatesAndRegisters : Obligations.WritesOfPredicatesAndRegisters := by
  unfold Obligations.WritesOfPredicatesAndRegisters
  intro s cu f h a mask i sends sets
  refine ⟨fireWith_writePreds h (fun _ => 0xFF) rfl, fireWith_writePreds h (fun _ => 0) rfl,
    fireWith_writePreds h (fun x => x.a.setWidth 8) rfl, (fireWith_fires (.ctag f) _ h rfl :),
    (fireWith_fires (.clrflg f) _ h rfl :), (fireWith_fires (.setsc f) _ h rfl :), fun hpresent => ?_, exec_wrsr_absent h.1⟩
  have hwrites := fireWith_fires (.wrsr f) _ h (exec_wrsr_present h.1 hpresent)
  simp only [Ctx.writeSr_eq] at hwrites
  exact hwrites

/-- Settles O12: each of these firings delivers a value that is read from the state before it. -/
theorem readsOfState : Obligations.ReadsOfState := by
  unfold Obligations.ReadsOfState
  intro s cu f h a e n i
  exact ⟨fireWith_delivers h (fun cu _ => counterOf s cu f.lit) rfl,
    fireWith_delivers h (fun cu _ => (s.ctx cu.ea cu.ctx).flags.setWidth 64) rfl,
    fireWith_delivers h (fun cu _ => BitVec.ofNat 64 (poolSample s cu.ea (f.lit.toNat % 8))) rfl,
    fireWith_delivers h (fun cu _ => if f.lit.getLsbD 5 then chstOut s cu.ea n else chstIn (s.elem cu.ea) n) rfl,
    fireWith_delivers h (fun cu x => (s.elem cu.ea).handleWord (x.a.toNat % 64)) rfl,
    fireWith_delivers h (fun cu x => (s.elem cu.ea).lookup (keyOf x.a)) rfl,
    fireWith_delivers h (fun cu _ => (s.me cu.ea).mls) rfl,
    fun hpresent => fireWith_delivers h (fun cu _ => specialReg s cu i) (exec_rdsr_present h.1 hpresent),
    exec_rdsr_absent h.1⟩

end Sys2Proof.Machine
end

section
/-! SUPPORT. spawn and tfree, join and sbar (R111, R112, R169, R235). Settles O13. -/

namespace Sys2Proof.Machine

/-! ## The group of a firing -/

/-- Rewriting the entry of `k` leaves `k` the first key found, where what is looked for does not tell the two entries apart. -/
theorem find_tins_key {α : Type} {d : α} {p : Nat × α → Bool} {k : Nat} {v : α} {m : Map α} (hp : p (k, v) = p (k, tget d k m))
    (h : (m.find? p).map (·.1) = some k) : ((tins k v m).find? p).map (·.1) = some k := by
  induction m with
  | nil => simp at h
  | cons q m ih =>
    obtain ⟨k', v'⟩ := q
    by_cases hk : k = k'
    · subst hk
      simp only [tget, beq_self_eq_true, if_true] at hp
      simp only [tins, beq_self_eq_true, if_true, List.find?_cons, hp] at h ⊢
      cases hv : p (k, v') with
      | true => rfl
      | false => simpa [hv] using h
    · by_cases hlt : k < k'
      · simp only [tins, beq_iff_eq, hk, if_false, hlt, if_true]
        rw [List.find?_cons]
        cases p (k, v) with
        | true => rfl
        | false => exact h
      · simp only [tget, beq_iff_eq, hk, if_false] at hp
        simp only [tins, beq_iff_eq, hk, if_false, hlt, List.find?_cons] at h ⊢
        cases hv : p (k', v') with
        | true => simpa [hv] using h
        | false => exact ih hp (by simpa [hv] using h)

theorem State.groupAt_of_groups {s t : State} (h : t.groups = s.groups) (ea : Nat) : t.groupAt ea = s.groupAt ea := by
  rw [State.groupAt, h, State.groupAt]

/-- Progress of the group that holds an element leaves it the group that does. That group has pools, so its entry stays listed. -/
theorem State.groupAt_progressAt (s : State) {ea : Nat} (hg : (s.group (s.groupNo ea)).pools ≠ []) :
    (s.progressAt ea).groupAt ea = s.groupAt ea := by
  unfold State.progressAt
  split
  · rename_i gn hgn
    rw [State.groupNo, hgn, Option.getD_some] at hg
    have hput : ∀ g : Group, g.pools = (s.group gn).pools → g.holdsTiles = (s.group gn).holdsTiles →
        g.covers ea = (s.group gn).covers ea → (s.setGroup gn g).groupAt ea = s.groupAt ea := by
      intro g hpools hholds hcovers
      have hlisted : g ≠ Group.zero := fun hz => hg (by rw [← hpools, hz])
      rw [hgn, State.groupAt, State.setGroup, tput, if_neg hlisted]
      exact find_tins_key (d := Group.zero) (congrArg₂ (· && ·) hholds hcovers) hgn
    unfold State.progress State.modGroup
    dsimp only
    split
    · exact hput _ rfl rfl rfl
    · exact hput _ rfl rfl rfl
  · rfl

theorem sameGroup.pools {g h : Group} (a : sameGroup g h) : h.pools = g.pools := by rw [a]

theorem sameGroup.origin {g h : Group} (a : sameGroup g h) : h.origin = g.origin := by rw [a]; rfl

theorem fireFrame.group {s t : State} {cu : Cursor} (h : fireFrame s t cu) (n : Nat) : sameGroup (s.group n) (t.group n) := by
  obtain ⟨⟨-, -, hgroups, -, -⟩, -, -⟩ := h
  exact hgroups n

theorem State.groupAt_returnCredit (s : State) (ea x : Nat) (src : Src) : (s.returnCredit ea src).groupAt x = s.groupAt x := by
  cases src <;> rfl

theorem State.groupAt_popIf (s : State) (cu : Cursor) (k : Bool) (ch : Nat) (hg : (s.group (s.groupNo cu.ea)).pools ≠ []) :
    (s.popIf k cu.ea ch).groupAt cu.ea = s.groupAt cu.ea := by
  unfold State.popIf State.pop
  split
  · dsimp only
    split
    · rfl
    · rename_i w rest _
      have hpopped (f : Chan → Chan) : ((s.modChan cu.ea ch f).returnCredit cu.ea w.src).groupAt cu.ea = s.groupAt cu.ea :=
        State.groupAt_returnCredit ..
      refine (State.groupAt_progressAt _ ?_).trans (hpopped _)
      rw [State.groupNo, hpopped, ← State.groupNo, ((fireFrame_returnCredit _ cu cu.ea w.src).group _).pools]
      exact hg
  · rfl

theorem State.tagEffect_groups (s : State) (cu : Cursor) (f : SlotF) : (s.tagEffect cu f).groups = s.groups := by
  unfold State.tagEffect
  split
  · rfl
  · split
    · dsimp only
      split <;> rfl
    · rfl

/-- A firing's common part leaves the group of its element the same, where that group has a tag pool. -/
theorem State.groupNo_fired (s : State) (cu : Cursor) (f : SlotF) (fl : FlagSet) (hg : (s.group (s.groupNo cu.ea)).pools ≠ []) :
    (s.fired cu f fl).groupNo cu.ea = s.groupNo cu.ea := by
  let u := (s.countFiring cu).tagEffect cu f
  have hu : u.groupAt cu.ea = s.groupAt cu.ea := State.groupAt_of_groups (State.tagEffect_groups (s.countFiring cu) cu f) _
  have hframe : fireFrame s u cu := (fireFrame_countFiring s cu).trans (fireFrame_tagEffect ..)
  have hpools {t : State} (ht : fireFrame s t cu) (hat : t.groupAt cu.ea = s.groupAt cu.ea) :
      (t.group (t.groupNo cu.ea)).pools ≠ [] := by
    rwa [State.groupNo, hat, ← State.groupNo, (ht.group _).pools]
  have hfirst := (State.groupAt_popIf u cu f.ka f.ia.toNat (hpools hframe hu)).trans hu
  have hsecond := (State.groupAt_popIf _ cu f.kb f.ib.toNat (hpools (hframe.trans (fireFrame_popIf ..)) hfirst)).trans hfirst
  exact congrArg (Option.getD · 65536) ((State.groupAt_of_groups (State.fired_groups ..) _).trans hsecond)

/-! ## spawn and tfree (R111, R112) -/

/-- Pool `k` of a group. -/
def State.pool (s : State) (gn k : Nat) : Pool := tget .zero k (s.group gn).pools

theorem State.pool_eq (s : State) (gn k : Nat) : tget .zero k (s.group gn).pools = s.pool gn k := by rw [State.pool]

/-- The tag lies in a pool that is declared and owns it (R96). -/
def Pool.owns (p : Pool) (tag : Nat) : Prop := p.declared = true ∧ p.first ≤ tag ∧ tag < p.first + p.count

/-- A group of which a pool owns a tag has an entry for it. -/
theorem Pool.owns.pools_ne_nil {s : State} {gn k tag : Nat} (h : (s.pool gn k).owns tag) : (s.group gn).pools ≠ [] := by
  intro hnil
  exact absurd h.1 (by simp [State.pool, hnil, tget])

section
variable {s : State} {cu : Cursor} {f : SlotF} (h : s.goes cu f)
include h

theorem exec_spawn : exec (.spawn f) s = .next (
    let t := (s.fired cu f (sourceFlags s cu f)).deliver cu f 16 1 (readSource s cu f f.sa).val .data (sentTag s cu f) 0
    if f.xb then t.deliver cu f 17 1 (readSource s cu f f.sb).val .data (sentTag s cu f) 0 else t) := by
  change execSpawn f s = _
  rw [execSpawn, State.fireWith_eq h]
  rfl

theorem exec_tfree_owned
    (hown : (s.pool (s.groupNo cu.ea) (f.lit.toNat % 8)).owns ((readSource s cu f f.sa).val.toNat % 256)) :
    exec (.tfree f) s = .next ((s.fired cu f (readSource s cu f f.sa).fl).releaseTag cu (f.lit.toNat % 8)
      (BitVec.ofNat 8 ((readSource s cu f f.sa).val.toNat % 256))) := by
  obtain ⟨hdecl, hfirst, hlast⟩ := hown
  change execTfree f s = _
  simp [execTfree, State.pool_eq, h.1, goes_operands h, hdecl, Nat.not_lt.mpr hfirst, Nat.not_le.mpr hlast, State.fired]

theorem exec_tfree_foreign
    (hown : ¬ (s.pool (s.groupNo cu.ea) (f.lit.toNat % 8)).owns ((readSource s cu f f.sa).val.toNat % 256)) :
    exec (.tfree f) s = .next (s.raiseSync cu 0x05 0
      (BitVec.ofNat 64 (256 * (f.lit.toNat % 8) + (readSource s cu f f.sa).val.toNat % 256))) := by
  simp only [Pool.owns, not_and_or, Bool.not_eq_true, Nat.not_le, Nat.not_lt] at hown
  change execTfree f s = _
  simp only [execTfree, State.pool_eq, h.1, goes_operands h]
  rw [if_pos]
  simpa [or_assoc] using hown

theorem spawn_sends : ∃ t, exec (.spawn f) s = .next t ∧ s.delivers t cu f 16 1 (readSource s cu f f.sa).val .data 0 ∧
    (f.xb = true → s.delivers t cu f 17 1 (readSource s cu f f.sb).val .data 0) ∧ s.counts t cu f ∧ fireFrame s t cu := by
  rw [exec_spawn h]
  cases hxb : f.xb with
  | true =>
    obtain ⟨hfirst, hsecond, hrest⟩ := fired_delivers_two (s := s) (cu := cu) (f := f) (sourceFlags s cu f) 16 17 1 1
      (readSource s cu f f.sa).val (readSource s cu f f.sb).val .data .data 0 0
    exact ⟨_, rfl, hfirst, fun _ => hsecond, hrest⟩
  | false =>
    obtain ⟨hfirst, hrest⟩ := fired_delivers (s := s) (cu := cu) (f := f) (sourceFlags s cu f) 16 1 (readSource s cu f f.sa).val .data 0
    exact ⟨_, rfl, hfirst, nofun, hrest⟩

theorem tfree_releases
    (hown : (s.pool (s.groupNo cu.ea) (f.lit.toNat % 8)).owns ((readSource s cu f f.sa).val.toNat % 256)) :
    ∃ t, exec (.tfree f) s = .next t ∧ s.counts t cu f ∧ fireFrame s t cu ∧
      t.awaits (s.now + hubDelay cu.ea (s.group (s.groupNo cu.ea)).origin) (.tagReleaseArrival (s.groupNo cu.ea) (f.lit.toNat % 8)
        (BitVec.ofNat 8 ((readSource s cu f f.sa).val.toNat % 256)) cu.ea cu.ctx cu.slot) := by
  have hframe := fireFrame_fired s cu f (readSource s cu f f.sa).fl
  refine ⟨_, exec_tfree_owned h hown, State.counts_stays (counts_fired ..) (stays_of rfl), hframe.trans (fireFrame_after ..), ?_⟩
  unfold State.releaseTag
  dsimp only
  rw [State.groupNo_fired s cu f _ hown.pools_ne_nil, (hframe.group _).origin, ← hframe.now]
  exact State.awaits_at ..

end

/-! ## join (R169) -/

theorem State.reserveAll_ctx (s : State) (ea : Nat) (os : List Nat) (c : Nat) : (s.reserveAll ea os).1.ctx ea c = s.ctx ea c := by
  induction os generalizing s with
  | nil => rfl
  | cons o os ih => exact (ih _).trans (by simp [State.ctx, Elem.ctx, Elem.setOut])

/-- The join of a firing: its word waits for the accesses that its context has out. -/
def State.joinOf (s : State) (cu : Cursor) (f : SlotF) (u : State) : Join :=
  ⟨(u.reserveAll cu.ea (destOuts f f.da)).1.serial, cu.ctx, (s.ctx cu.ea cu.ctx).acks, (u.reserveAll cu.ea (destOuts f f.da)).2,
    sentTag s cu f⟩

/-- The state in which the join stands, its places reserved. -/
def State.joined (u : State) (cu : Cursor) (f : SlotF) (j : Join) : State :=
  (u.reserveAll cu.ea (destOuts f f.da)).1.bump.modElem cu.ea (fun e => { e with joins := e.joins ++ [j] })

theorem exec_join {s : State} {cu : Cursor} {f : SlotF} (h : s.goes cu f) : exec (.join f) s = .next (
    let u := s.fired cu f (sourceFlags s cu f)
    let j := s.joinOf cu f u
    if (s.ctx cu.ea cu.ctx).acks.isEmpty then (u.joined cu f j).after 1 (.joinWordEntry cu.ea cu.ctx j.id) else u.joined cu f j) := by
  change execJoin f s = _
  rw [execJoin, State.fireWith_eq h]
  dsimp only
  rw [State.reserveAll_ctx, State.fired_ctx]
  rfl

theorem elemFrame_bump (s : State) (ea : Nat) : elemFrame s s.bump ea :=
  ⟨sameMemory_of rfl rfl rfl, fun _ _ => rfl, fun _ => rfl, rfl, fun _ h => h⟩

section
variable {s u : State} {cu : Cursor} {f : SlotF} (h : fireFrame s u cu) (j : Join)
include h

theorem elemFrame_joined : elemFrame s (u.joined cu f j) cu.ea :=
  ((h.trans (fireFrame_reserveAll ..)).1.trans (elemFrame_bump ..)).trans (elemFrame_modElem ..)

theorem sameCtx_joined (c : Nat) : sameCtx (s.ctx cu.ea c) ((u.joined cu f j).ctx cu.ea c) := by
  have hjoined : (u.joined cu f j).ctx cu.ea c = u.ctx cu.ea c :=
    (congrArg (Elem.ctx · c) (State.elem_modElem_same ..)).trans (State.reserveAll_ctx ..)
  rw [hjoined]
  exact h.2.2 c

theorem joins_joined : ((u.joined cu f j).elem cu.ea).joins = (s.elem cu.ea).joins ++ [j] := by
  have hreserved : ((u.reserveAll cu.ea (destOuts f f.da)).1.elem cu.ea).joins = (s.elem cu.ea).joins := by
    rw [(h.trans (fireFrame_reserveAll u cu _)).2.1]
  rw [State.joined, State.elem_modElem_same, ← hreserved]
  rfl

end

theorem stays_joined (u : State) (cu : Cursor) (f : SlotF) (j : Join) : stays u (u.joined cu f j) cu := by
  refine (stays_reserveAll u cu (destOuts f f.da)).trans (stays.trans (stays_of (t := (u.reserveAll cu.ea _).1.bump) rfl) ?_)
  refine ⟨fun c => ?_, ?_, ?_, fun c => ?_⟩ <;> simp [State.joined, State.ctx, State.chan, Elem.ctx, Elem.chan]

theorem join_waits {s : State} {cu : Cursor} {f : SlotF} (h : s.goes cu f) :
    ∃ t j, exec (.join f) s = .next t ∧ s.counts t cu f ∧ elemFrame s t cu.ea ∧ (∀ c, sameCtx (s.ctx cu.ea c) (t.ctx cu.ea c)) ∧
      (t.elem cu.ea).joins = (s.elem cu.ea).joins ++ [j] ∧ j.ctx = cu.ctx ∧ j.waits = (s.ctx cu.ea cu.ctx).acks ∧
      j.tag = sentTag s cu f ∧ j.places.map (·.1) = destOuts f f.da ∧
      ((s.ctx cu.ea cu.ctx).acks = [] → t.awaits (s.now + 1) (.joinWordEntry cu.ea cu.ctx j.id)) := by
  let fl := sourceFlags s cu f
  let u := s.fired cu f fl
  let j := s.joinOf cu f u
  have hframe := fireFrame_fired s cu f fl
  have hcounts := State.counts_stays (counts_fired s cu f fl) (stays_joined u cu f j)
  rw [exec_join h]
  dsimp only
  split
  · refine ⟨_, j, rfl, State.counts_stays hcounts (stays_of rfl), (elemFrame_joined hframe j).trans (elemFrame_at ..),
      sameCtx_joined hframe j, joins_joined hframe j, rfl, rfl, rfl, reserveAll_places .., fun _ => ?_⟩
    rw [← hframe.now, ← (fireFrame_reserveAll u cu (destOuts f f.da)).now]
    exact State.awaits_at ..
  · rename_i hout
    exact ⟨_, j, rfl, hcounts, elemFrame_joined hframe j, sameCtx_joined hframe j, joins_joined hframe j, rfl, rfl, rfl,
      reserveAll_places .., fun hnone => absurd (List.isEmpty_iff.mpr hnone) hout⟩

/-- Settles O13: each instruction by the lemma that says what it does; sbar is a firing with the effect named. -/
theorem tagsJoinsAndSbar : Obligations.TagsJoinsAndSbar := by
  unfold Obligations.TagsJoinsAndSbar
  exact ⟨fun s cu f h => ⟨spawn_sends h, tfree_releases h, exec_tfree_foreign h⟩,
    fun s cu f h => ⟨join_waits h, (fireWith_fires (.sbar f) _ h rfl :)⟩⟩

end Sys2Proof.Machine
end

section
/-! SUPPORT. Tag pools at their origin hub (R97, R98): requests, grants, credits and releases. Settles O28. -/

namespace Sys2Proof.Machine

/-! ## Pools -/

theorem State.pool_modPool (s : State) (gn k : Nat) (f : Pool → Pool) :
    (s.modPool gn k f).pool gn k = (f (s.pool gn k)).note s.now := by
  simp [State.pool, State.modPool, State.modGroup]

theorem State.origin_modPool (s : State) (gn k : Nat) (f : Pool → Pool) (n : Nat) :
    ((s.modPool gn k f).group n).origin = (s.group n).origin := by
  by_cases hn : n = gn
  · subst hn; simp [State.modPool, State.modGroup, Group.origin]
  · simp [State.modPool, State.modGroup, hn]

theorem State.tiles_modPool (s : State) (gn k : Nat) (f : Pool → Pool) (n : Nat) :
    ((s.modPool gn k f).group n).tiles = (s.group n).tiles := by
  by_cases hn : n = gn
  · subst hn; simp [State.modPool, State.modGroup, Group.tiles]
  · simp [State.modPool, State.modGroup, hn]

theorem State.pool_progress (s : State) (gn ea n k : Nat) : (s.progress gn ea).pool n k = s.pool n k := by
  rw [State.pool, State.pool, ((fireFrame_progress s ⟨ea, 0, 0⟩ gn ea).group n).pools]

theorem State.group_at (s : State) (n : Nat) (i : Instr) (gn : Nat) : (s.at_ n i).group gn = s.group gn := rfl

theorem State.pool_at (s : State) (n : Nat) (i : Instr) (gn k : Nat) : (s.at_ n i).pool gn k = s.pool gn k := rfl

/-! ## Requests (R97) -/

theorem mem_insWaiting (x : Nat × Nat × Bool) (l : List (Nat × Nat × Bool)) : x ∈ insWaiting x l := by
  induction l with
  | nil => exact .head _
  | cons y l ih =>
    rw [insWaiting]
    split
    · exact .head _
    · exact .tail _ ih

theorem gives_tagRequest {s : State} {ea k : Nat} (hdue : s.tagDue ea k = true) :
    let gn := s.groupNo ea
    let at_ := s.now + hubDelay ea (s.group gn).origin
    gives (.tagRequest ea k) s (fun t => tget .none k (t.elem ea).tagCreds = .asked ∧
      (∃ sp, (at_, ea, sp) ∈ (t.pool gn k).waiting) ∧ t.awaits at_ (.tagGrant gn k)) := by
  intro gn at_
  let sp : Bool := (s.wantsTag ea k).any (fun w => w.op == 0x70)
  refine ⟨s.askTag ea k sp, ?_, ?_, ⟨sp, ?_⟩, State.awaits_at ..⟩
  · change execTagRequest ea k s = _
    rw [execTagRequest, if_pos hdue]
  · have hasked : (s.askTag ea k sp).elem ea = _ :=
      State.elem_modElem_same s ea (fun e => { e with tagCreds := tput .none k .asked e.tagCreds })
    rw [hasked, tget_tput_same]
  · rw [State.askTag, State.pool_at, State.pool_modPool]
    exact mem_insWaiting ..

/-! ## Grants (R97) -/

/-- A pool whose hub has given the tag at the head of its free list to the request `x`, `rest` being left. -/
def Pool.grant (p : Pool) (now : Nat) (x : Nat × Nat × Bool) (rest : List Byte) : Pool :=
  { p with waiting := p.waiting.erase x, freeTags := rest, nextGrant := now + 1 }

theorem Pool.serves_of {p : Pool} {now at_ ea : Nat} {spawn : Bool} {tag : Byte} {rest : List Byte} (hat : at_ ≤ now)
    (hdecl : p.declared = true) (hfree : p.freeTags = tag :: rest) (hres : spawn = true → p.reserve < p.freeTags.length) :
    p.serves now (at_, ea, spawn) = true := by
  cases spawn with
  | true => simp [Pool.serves, hat, hdecl, hres rfl]
  | false => simp [Pool.serves, hat, hdecl, hfree]

/-- The hub serves the last request that waits. -/
theorem exec_tagGrant {s : State} {gn k : Nat} {x : Nat × Nat × Bool} {tag : Byte} {rest : List Byte}
    (hwait : (s.pool gn k).waiting = [x]) (hnext : (s.pool gn k).nextGrant ≤ s.now)
    (hfree : (s.pool gn k).freeTags = tag :: rest) (hserves : (s.pool gn k).serves s.now x = true) :
    exec (.tagGrant gn k) s = .next (
      let u := s.modPool gn k (fun _ => (s.pool gn k).grant s.now x rest)
      (u.progress gn (u.group gn).origin).after (hubDelay x.2.1 (u.group gn).origin) (.tagCreditArrival x.2.1 k tag x.2.2)) := by
  have hfind : (s.pool gn k).waiting.find? ((s.pool gn k).serves s.now) = some x := by simp [hwait, hserves]
  have hnone : ((s.pool gn k).waiting.erase x).isEmpty = true := by simp [hwait]
  change execTagGrant gn k s = _
  simp only [execTagGrant, State.pool_eq, Nat.not_lt.mpr hnext, if_false]
  rw [hfind, hfree]
  dsimp only
  rw [if_pos hnone]
  rfl

theorem gives_tagGrant {s : State} {gn k at_ ea : Nat} {spawn : Bool} {tag : Byte} {rest : List Byte}
    (hwait : (s.pool gn k).waiting = [(at_, ea, spawn)]) (hat : at_ ≤ s.now) (hdecl : (s.pool gn k).declared = true)
    (hnext : (s.pool gn k).nextGrant ≤ s.now) (hfree : (s.pool gn k).freeTags = tag :: rest)
    (hres : spawn = true → (s.pool gn k).reserve < (s.pool gn k).freeTags.length) :
    gives (.tagGrant gn k) s (fun t => (t.pool gn k).freeTags = rest ∧ (t.pool gn k).waiting = [] ∧
      (t.pool gn k).nextGrant = s.now + 1 ∧
      t.awaits (s.now + hubDelay ea (s.group gn).origin) (.tagCreditArrival ea k tag spawn) ∧ ∀ x, t.elem x = s.elem x) := by
  refine ⟨_, exec_tagGrant hwait hnext hfree (Pool.serves_of hat hdecl hfree hres), ?_⟩
  dsimp only
  rw [State.after, State.pool_at, State.pool_progress, State.pool_modPool, State.origin_modPool]
  exact ⟨rfl, by simp [Pool.note, Pool.grant, hwait], rfl, State.awaits_at .., fun _ => rfl⟩

/-! ## Credits and releases (R97, R98) -/

theorem gives_tagCreditArrival {s : State} {ea k : Nat} (tag : Byte) (spawn : Bool)
    (hasked : tget .none k (s.elem ea).tagCreds = .asked) :
    gives (.tagCreditArrival ea k tag spawn) s (fun t => tget .none k (t.elem ea).tagCreds = .held tag spawn ∧
      (∀ c, t.ctx ea c = s.ctx ea c) ∧ onlyElem s t ea) := by
  refine ⟨_, rfl, ?_, fun c => ?_, fun x hx => State.elem_modElem_ne _ _ _ _ hx, rfl⟩
  · simp [hasked]
  · simp [State.ctx, hasked, Elem.ctx]

theorem exec_tagReleaseArrival_out {s : State} {gn k : Nat} {tag : Byte} (ea ctx slot : Nat) (hdecl : (s.pool gn k).declared = true)
    (hout : tag ∉ (s.pool gn k).freeTags) (hheld : s.tagHeld gn k tag = false) :
    exec (.tagReleaseArrival gn k tag ea ctx slot) s =
      .next ((s.modPool gn k (fun p => { p with freeTags := p.freeTags ++ [tag] })).at_ s.now (.tagGrant gn k)) := by
  change execTagReleaseArrival gn k tag ea ctx slot s = _
  simp only [execTagReleaseArrival, State.pool_eq]
  simp [hdecl, hout, hheld, State.modPool, State.modGroup]

theorem exec_tagReleaseArrival_free {s : State} {gn k : Nat} {tag : Byte} (ea ctx slot : Nat) (hdecl : (s.pool gn k).declared = true)
    (hfree : tag ∈ (s.pool gn k).freeTags) :
    exec (.tagReleaseArrival gn k tag ea ctx slot) s = .next (s.raiseRec gn (s.group gn).origin ea (some ctx) (some slot) 0x05 true true
      0 (BitVec.ofNat 64 (256 * k + tag.toNat))) := by
  change execTagReleaseArrival gn k tag ea ctx slot s = _
  simp only [execTagReleaseArrival, State.pool_eq]
  simp [hdecl, hfree]

/-- Settles O28: one part for each step of a tag's way from its pool to a TE and back. -/
theorem tagCredits : Obligations.TagCredits := by
  unfold Obligations.TagCredits
  intro s ea gn k ctx slot tag spawn g p
  refine ⟨gives_tagRequest, fun _ _ hwait hat hdecl hnext hfree hres => gives_tagGrant hwait hat hdecl hnext hfree hres,
    gives_tagCreditArrival tag spawn, fun hdecl hout hheld => ⟨_, exec_tagReleaseArrival_out ea ctx slot hdecl hout hheld, ?_,
      State.awaits_at .., fun _ => rfl⟩, exec_tagReleaseArrival_free ea ctx slot⟩
  rw [State.pool_eq, State.pool_at, State.pool_modPool]
  rfl

end Sys2Proof.Machine
end

section
/-! SUPPORT. cfgw of hub items (R96, R97, R176, R177, R283, R329, R330): what the write of each item leaves at its hub, and the status
word that answers it. Settles O42. -/

namespace Sys2Proof.Machine

/-! ## Hubs -/

@[simp] theorem State.hub_modHub (s : State) (tile : Nat) (f : Hub → Hub) : (s.modHub tile f).hub tile = f (s.hub tile) := by
  simp [State.hub, State.modHub]

theorem Hub.part_tput (h : Hub) (n : Nat) (p : Part) (w : Option (Nat × Map Part)) :
    ({ h with parts := tput .zero n p h.parts, was := w } : Hub).part n = p := by
  simp [Hub.part]

theorem Hub.part_tput_ne (h : Hub) {n k : Nat} (p : Part) (w : Option (Nat × Map Part)) (hk : k ≠ n) :
    ({ h with parts := tput .zero n p h.parts, was := w } : Hub).part k = h.part k := by
  simp [Hub.part, hk]

theorem State.bar_modBar (s : State) (tile n : Nat) (f : Bar → Bar) :
    ((s.modBar tile n f).hub tile).bar n = (f ((s.hub tile).bar n)).note s.now := by
  simp [State.modBar, Hub.bar]

theorem State.bar_modBar_ne (s : State) (tile : Nat) {n k : Nat} (f : Bar → Bar) (hk : k ≠ n) :
    ((s.modBar tile n f).hub tile).bar k = (s.hub tile).bar k := by
  simp [State.modBar, Hub.bar, hk]

/-! ## Status words (R279, Table 11-3) -/

/-- The crossings of a command hang on the tiles of groups alone. -/
theorem State.cmdCross_congr {s u : State} (h : ∀ n, (u.group n).tiles = (s.group n).tiles) (c : Cmd) : u.cmdCross c = s.cmdCross c := by
  simp only [State.cmdCross, groupCross, h]

theorem statusComes_answer {s u : State} (c : Cmd) (code detail ea : Nat) (hnow : u.now = s.now) (hports : u.cports = s.cports)
    (htiles : ∀ n, (u.group n).tiles = (s.group n).tiles) : statusComes s (u.answer c code detail ea) c code detail ea := by
  have hport : u.cport c.die c.port = s.cport c.die c.port := by rw [State.cport, hports, State.cport]
  unfold statusComes State.answer State.reply State.modCport
  rw [State.cmdCross_congr htiles, hnow, hport]
  simp [State.cport, statusWord]

theorem State.hub_answer (s : State) (c : Cmd) (code detail ea tile : Nat) : (s.answer c code detail ea).hub tile = s.hub tile := rfl

theorem State.pool_answer (s : State) (c : Cmd) (code detail ea gn k : Nat) : (s.answer c code detail ea).pool gn k = s.pool gn k := rfl

theorem State.cfgwHub_of_ok {s : State} {c : Cmd} {item : Nat} (hclean : c.clean = true) (hok : hubAddrOk c item = true)
    (f : State → State) : s.cfgwHub c item f = f s := by
  simp [State.cfgwHub, hclean, hok]

theorem ushiftRight_eq_zero_of_lt {x : Word} {n : Nat} (h : x.toNat < 2 ^ n) : x >>> n = 0 :=
  BitVec.eq_of_toNat_eq (by simp [Nat.shiftRight_eq_div_pow, Nat.div_eq_of_lt h])

/-! ## Pools (R96, R97) -/

theorem State.pool_setPool (s : State) (gn k first count reserve : Nat) :
    (s.setPool gn k first count reserve).pool gn k = Pool.note { s.pool gn k with
      declared := count != 0, known := (s.pool gn k).known || count != 0, first := first, count := count, reserve := reserve
      freeTags := (List.range count).map (fun i => BitVec.ofNat 8 (first + i)) } s.now :=
  (State.pool_at ..).trans (State.pool_modPool ..)

theorem State.tiles_setPool (s : State) (gn k first count reserve n : Nat) :
    ((s.setPool gn k first count reserve).group n).tiles = (s.group n).tiles := by
  rw [State.setPool, State.group_at, State.tiles_modPool]

/-! ## The items -/

section
variable {s : State} {c : Cmd} (hclean : c.clean = true)
include hclean

theorem exec_cfgwPartition (hok : hubAddrOk c 9 = true) (hgood : partBad (s.hub c.ea) c.index c.value = false)
    (hold : s.partQueued c.ea ((s.hub c.ea).part c.index) = false) (hnew : s.partQueued c.ea (partOf c.value) = false) :
    exec (.cfgwPartition c) s = .next ((s.setPart c.ea c.index (partOf c.value)).answer c 0 0 c.ea) := by
  change execCfgwPartition c s = _
  simp [execCfgwPartition, State.cfgwHub_of_ok hclean hok, hgood, hold, hnew]

theorem gives_cfgwPartition (hok : hubAddrOk c 9 = true) (hgood : partBad (s.hub c.ea) c.index c.value = false)
    (hold : s.partQueued c.ea ((s.hub c.ea).part c.index) = false) (hnew : s.partQueued c.ea (partOf c.value) = false) :
    gives (.cfgwPartition c) s (fun t => statusComes s t c 0 0 c.ea ∧
      (t.hub c.ea).part c.index = (if (partOf c.value).count = 0 then .zero else partOf c.value) ∧
      (∀ k, k ≠ c.index → (t.hub c.ea).part k = (s.hub c.ea).part k) ∧ t = { s with hubs := t.hubs, cports := t.cports }) := by
  refine ⟨_, exec_cfgwPartition hclean hok hgood hold hnew, statusComes_answer c 0 0 c.ea rfl rfl fun _ => rfl, ?_, fun k hk => ?_, rfl⟩
  · rw [State.hub_answer, State.setPart, State.hub_modHub, Hub.part_tput]
    simp only [beq_iff_eq]
  · rw [State.hub_answer, State.setPart, State.hub_modHub, Hub.part_tput_ne _ _ _ hk]

theorem exec_cfgwBarrierInit (hok : hubAddrOk c 10 = true) (hindex : c.index ≤ 31) (hwaiters : c.value.toNat / 2 ^ 16 % 32 ≤ 16)
    (hvalue : c.value.toNat < 2 ^ 21) :
    exec (.cfgwBarrierInit c) s = .next (
      if s.barBusy c.ea c.index then s.answer c codeBusy 0 c.ea
      else (s.initBar c.ea c.index (c.value.toNat % 65536) ((((s.hub c.ea).bar c.index).waiters ++ List.replicate 16 0).take
        (c.value.toNat / 2 ^ 16 % 32))).answer c 0 0 c.ea) := by
  have hgood : (c.index > 31 || c.value.toNat / 2 ^ 16 % 32 > 16 || c.value >>> 21 != 0) = false := by
    simpa [ushiftRight_eq_zero_of_lt hvalue, hindex] using hwaiters
  change execCfgwBarrierInit c s = _
  rw [execCfgwBarrierInit, State.cfgwHub_of_ok hclean hok]
  dsimp only
  rw [if_neg (ne_true_of_eq_false hgood)]

theorem gives_cfgwBarrierInit (hok : hubAddrOk c 10 = true) (hindex : c.index ≤ 31) (hwaiters : c.value.toNat / 2 ^ 16 % 32 ≤ 16)
    (hvalue : c.value.toNat < 2 ^ 21) (hidle : ¬ s.barBusy c.ea c.index = true) :
    gives (.cfgwBarrierInit c) s (fun t => statusComes s t c 0 0 c.ea ∧
      ((t.hub c.ea).bar c.index).expect = c.value.toNat % 2 ^ 16 ∧
      ((t.hub c.ea).bar c.index).st = (if c.value.toNat % 2 ^ 16 = 0 then .free else .armed) ∧
      ((t.hub c.ea).bar c.index).count = 0 ∧ ((t.hub c.ea).bar c.index).phase = 0 ∧ ((t.hub c.ea).bar c.index).drops = 0 ∧
      ((t.hub c.ea).bar c.index).held = false ∧ ((t.hub c.ea).bar c.index).waiters.length = c.value.toNat / 2 ^ 16 % 32 ∧
      (∀ k, k ≠ c.index → (t.hub c.ea).bar k = (s.hub c.ea).bar k) ∧ t = { s with hubs := t.hubs, cports := t.cports }) := by
  have hcount : ((((s.hub c.ea).bar c.index).waiters ++ List.replicate 16 0).take (c.value.toNat / 2 ^ 16 % 32)).length =
      c.value.toNat / 2 ^ 16 % 32 := by
    simp only [List.length_take, List.length_append, List.length_replicate]
    omega
  refine ⟨_, (exec_cfgwBarrierInit hclean hok hindex hwaiters hvalue).trans (congrArg _ (if_neg hidle)), ?_⟩
  beta_reduce
  simp only [State.hub_answer, State.initBar, State.bar_modBar]
  exact ⟨statusComes_answer c 0 0 c.ea rfl rfl fun _ => rfl, rfl, by simp [Bar.note], rfl, rfl, rfl, rfl, hcount,
    fun k hk => State.bar_modBar_ne s c.ea _ hk, rfl⟩

theorem gives_cfgwBarrierInit_busy (hok : hubAddrOk c 10 = true) (hindex : c.index ≤ 31)
    (hwaiters : c.value.toNat / 2 ^ 16 % 32 ≤ 16) (hvalue : c.value.toNat < 2 ^ 21) (hbusy : s.barBusy c.ea c.index = true) :
    gives (.cfgwBarrierInit c) s (fun t => statusComes s t c 0x31 0 c.ea ∧ t = { s with cports := t.cports }) :=
  ⟨_, (exec_cfgwBarrierInit hclean hok hindex hwaiters hvalue).trans (congrArg _ (if_pos hbusy)),
    statusComes_answer c codeBusy 0 c.ea rfl rfl fun _ => rfl, rfl⟩

theorem exec_cfgwWaiterTarget (hok : hubAddrOk c 11 = true) (hindex : c.index ≤ 31)
    (hwt : c.wt < ((s.hub c.ea).bar c.index).waiters.length) (hgood : s.waiterBad c.ea c.index c.wt c.value = false)
    (hidle : ¬ s.barBusy c.ea c.index = true) :
    exec (.cfgwWaiterTarget c) s = .next ((s.modBar c.ea c.index (fun b =>
      { b with waiters := b.waiters.mapIdx (fun i w => if i == c.wt then c.value else w) })).answer c 0 0 c.ea) := by
  change execCfgwWaiterTarget c s = _
  simp [execCfgwWaiterTarget, State.cfgwHub_of_ok hclean hok, hindex, hwt, hgood, hidle]

theorem gives_cfgwWaiterTarget (hok : hubAddrOk c 11 = true) (hindex : c.index ≤ 31)
    (hwt : c.wt < ((s.hub c.ea).bar c.index).waiters.length) (hgood : s.waiterBad c.ea c.index c.wt c.value = false)
    (hidle : ¬ s.barBusy c.ea c.index = true) :
    gives (.cfgwWaiterTarget c) s (fun t => statusComes s t c 0 0 c.ea ∧
      ((t.hub c.ea).bar c.index).waiters[c.wt]? = some c.value ∧
      (∀ k, k ≠ c.wt → ((t.hub c.ea).bar c.index).waiters[k]? = ((s.hub c.ea).bar c.index).waiters[k]?) ∧
      (∀ k, k ≠ c.index → (t.hub c.ea).bar k = (s.hub c.ea).bar k) ∧ t = { s with hubs := t.hubs, cports := t.cports }) := by
  refine ⟨_, exec_cfgwWaiterTarget hclean hok hindex hwt hgood hidle, statusComes_answer c 0 0 c.ea rfl rfl fun _ => rfl, ?_,
    fun k hk => ?_, fun k hk => ?_, rfl⟩
  · rw [State.hub_answer, State.bar_modBar]
    simp [Bar.note, hwt]
  · rw [State.hub_answer, State.bar_modBar]
    simp [Bar.note, hk]
  · rw [State.hub_answer, State.bar_modBar_ne _ _ _ hk]

theorem exec_cfgwTagPool {gn : Nat} (hok : hubAddrOk c 12 = true) (hgn : s.groupAt c.ea = some gn)
    (horigin : (s.group gn).origin = c.ea) (hvalue : c.value.toNat < 2 ^ 24)
    (hgood : poolBad (s.group gn) c.index (c.value.toNat % 256) (c.value.toNat / 256 % 256) (c.value.toNat / 65536 % 256) = false)
    (hst : (s.group gn).st = .reserved ∨ (s.group gn).st = .loading ∨ (s.group gn).st = .fenced) :
    exec (.cfgwTagPool c) s = .next (((s.dropCredits gn c.index).setPool gn c.index (c.value.toNat % 256) (c.value.toNat / 256 % 256)
      (c.value.toNat / 65536 % 256)).answer c 0 0 c.ea) := by
  have hopen : ((s.group gn).st != .reserved && (s.group gn).st != .loading && (s.group gn).st != .fenced) = false := by
    rcases hst with h | h | h <;> simp [h]
  change execCfgwTagPool c s = _
  rw [execCfgwTagPool, State.cfgwHub_of_ok hclean hok]
  simp [hgn, horigin, ushiftRight_eq_zero_of_lt hvalue, hgood, hopen]

theorem gives_cfgwTagPool {gn : Nat} (hok : hubAddrOk c 12 = true) (hgn : s.groupAt c.ea = some gn)
    (horigin : (s.group gn).origin = c.ea) (hvalue : c.value.toNat < 2 ^ 24)
    (hgood : poolBad (s.group gn) c.index (c.value.toNat % 256) (c.value.toNat / 256 % 256) (c.value.toNat / 65536 % 256) = false)
    (hst : (s.group gn).st = .reserved ∨ (s.group gn).st = .loading ∨ (s.group gn).st = .fenced) :
    gives (.cfgwTagPool c) s (fun t => statusComes s t c 0 0 c.ea ∧
      (t.pool gn c.index).declared = decide (c.value.toNat / 256 % 256 ≠ 0) ∧
      (t.pool gn c.index).reserve = c.value.toNat / 65536 % 256 ∧
      (t.pool gn c.index).freeTags =
        (List.range (c.value.toNat / 256 % 256)).map (fun k => BitVec.ofNat 8 (c.value.toNat % 256 + k)) ∧
      (t.pool gn c.index).waiting = (s.pool gn c.index).waiting ∧ sameMemory s t) := by
  refine ⟨_, exec_cfgwTagPool hclean hok hgn horigin hvalue hgood hst, statusComes_answer c 0 0 c.ea rfl rfl
    fun n => (State.tiles_setPool ..).trans rfl, ?_⟩
  rw [State.pool_answer, State.pool_setPool]
  exact ⟨Bool.eq_iff_iff.mpr (by simp [Pool.note]), rfl, rfl, rfl, sameMemory_of rfl rfl rfl⟩

end

/-- Settles O42, item by item. -/
theorem writesToHubs : Obligations.WritesToHubs := by
  unfold Obligations.WritesToHubs
  intro s c hclean tile v b busy
  exact ⟨gives_cfgwPartition hclean, gives_cfgwBarrierInit hclean, gives_cfgwBarrierInit_busy hclean, gives_cfgwWaiterTarget hclean,
    fun _ => gives_cfgwTagPool hclean⟩

end Sys2Proof.Machine
end

section
/-! SUPPORT. Instructions that deliver one value (R119, R122): a firing from its value function, the kinds of elements that hold it, and
the integer values of Table 5-2. Settles O1. -/

namespace Sys2Proof.Machine

/-! ## From the value to the firing -/

/-- A firing of one value with a fixed latency, once its value and flags are known. -/
theorem computes_of_fireAlu {s : State} {cu : Cursor} {f : SlotF} {i : Instr} {lat : Nat} {g : AluIn → Res} {v : Word} {fl : FlagSet}
    (h : s.goes cu f) (hi : exec i s = .next (s.fireAlu f (fun _ => lat) g)) (hg : g (aluIn s cu f) = (v, fl)) :
    computes i s cu f lat v fl := by
  simpa only [hg] using fireAlu_computes i (fun _ => lat) g h hi

/-- A firing of one value that raises no flag. -/
theorem computes_flagless {s : State} {cu : Cursor} {f : SlotF} {i : Instr} {lat : Nat} {g : AluIn → Word} {v : Word}
    (h : s.goes cu f) (hi : exec i s = .next (s.fireAlu f (fun _ => lat) (fun x => (g x, 0)))) (hv : g (aluIn s cu f) = v) :
    computes i s cu f lat v 0 := computes_of_fireAlu h hi (by rw [hv])

/-- A firing whose value and flags come as one result. -/
theorem computes_res_of_fireAlu {s : State} {cu : Cursor} {f : SlotF} {i : Instr} {lat : Nat} {g : AluIn → Res} {r : Res}
    (h : s.goes cu f) (hi : exec i s = .next (s.fireAlu f (fun _ => lat) g)) (hg : g (aluIn s cu f) = r) :
    computes i s cu f lat r.1 r.2 := computes_of_fireAlu h hi hg

/-- What an opcode's row says of the kinds of elements, from a test that computes. -/
theorem opInfo_kinds {op : Nat} {se : Bool} (h : (opInfo op).any (fun o => o.te && o.se == se && !o.me) = true) :
    ∃ o, opInfo op = some o ∧ o.te = true ∧ o.se = se ∧ o.me = false := by
  cases ho : opInfo op with
  | none => simp [ho] at h
  | some o =>
    simp only [ho, Option.any_some, Bool.and_eq_true, beq_iff_eq, Bool.not_eq_true'] at h
    obtain ⟨⟨hte, hse⟩, hme⟩ := h
    exact ⟨o, rfl, hte, hse, hme⟩

/-! ## Table 5-2 -/

theorem add_eq_ofNat (a b : Word) : a + b = BitVec.ofNat 64 (a.toNat + b.toNat) := by
  simp [BitVec.ofNat_add]

theorem sub_eq_ofInt (a b : Word) : a - b = BitVec.ofInt 64 ((a.toNat : Int) - b.toNat) := by
  apply BitVec.eq_of_toNat_eq
  rw [BitVec.toNat_sub, BitVec.toNat_ofInt]
  omega

theorem mul_eq_ofNat (a b : Word) : a * b = BitVec.ofNat 64 (a.toNat * b.toNat) := by
  simp [BitVec.ofNat_mul]

theorem mac_eq_ofNat (d a b : Word) : d + a * b = BitVec.ofNat 64 (d.toNat + a.toNat * b.toNat) := by
  simp [BitVec.ofNat_add, BitVec.ofNat_mul]

/-- A clamp to 64 bits, and its flag, by bounds that fit. -/
theorem clampS64_eq (v : Int) : clampS64 v =
    (BitVec.ofInt 64 (max (-2 ^ 63) (min (2 ^ 63 - 1) v)), if -2 ^ 63 ≤ v ∧ v ≤ 2 ^ 63 - 1 then 0 else flSAT) := by
  unfold clampS64
  split
  · rw [if_neg (by omega), show max (-2 ^ 63) (min (2 ^ 63 - 1) v) = (2 ^ 63 - 1 : Int) by omega]; rfl
  · split
    · rw [if_neg (by omega), show max (-2 ^ 63) (min (2 ^ 63 - 1) v) = (-2 ^ 63 : Int) by omega]; rfl
    · rw [if_pos (by omega), show max (-2 ^ 63) (min (2 ^ 63 - 1) v) = v by omega]

theorem aluAddus_eq (a b : Word) : aluAddus a b =
    (BitVec.ofNat 64 (min (a.toNat + b.toNat) (2 ^ 64 - 1)), if a.toNat + b.toNat < 2 ^ 64 then 0 else flSAT) := by
  unfold aluAddus
  split
  · rw [if_neg (by omega), Nat.min_eq_right (by omega)]; rfl
  · rw [if_pos (by omega), Nat.min_eq_left (by omega), add_eq_ofNat]

/-- The upper half of the 128-bit pattern of a number is its floor by 2^64. -/
theorem ofInt_div_eq_extract (p : Int) : BitVec.ofInt 64 (p / (2 ^ 64 : Nat)) = (BitVec.ofInt 128 p).extractLsb' 64 64 := by
  apply BitVec.eq_of_toNat_eq
  simp only [BitVec.toNat_ofInt, BitVec.extractLsb'_toNat, Nat.shiftRight_eq_div_pow]
  omega

theorem ofNat_div_eq_extract (p : Nat) : BitVec.ofNat 64 (p / 2 ^ 64) = (BitVec.ofNat 128 p).extractLsb' 64 64 := by
  apply BitVec.eq_of_toNat_eq
  simp only [BitVec.toNat_ofNat, BitVec.extractLsb'_toNat, Nat.shiftRight_eq_div_pow]
  omega

theorem aluMin_eq (a b : Word) : aluMin a b = BitVec.ofInt 64 (min a.toInt b.toInt) := by
  unfold aluMin
  split
  · rw [min_eq_left ‹_›, BitVec.ofInt_toInt]
  · rw [min_eq_right (by omega), BitVec.ofInt_toInt]

theorem aluMax_eq (a b : Word) : aluMax a b = BitVec.ofInt 64 (max a.toInt b.toInt) := by
  unfold aluMax
  split
  · rw [max_eq_right ‹_›, BitVec.ofInt_toInt]
  · rw [max_eq_left (by omega), BitVec.ofInt_toInt]

theorem aluMinu_eq (a b : Word) : aluMinu a b = BitVec.ofNat 64 (min a.toNat b.toNat) := by
  unfold aluMinu
  split
  · rw [min_eq_left ‹_›, BitVec.ofNat_toNat, BitVec.setWidth_eq]
  · rw [min_eq_right (by omega), BitVec.ofNat_toNat, BitVec.setWidth_eq]

theorem aluMaxu_eq (a b : Word) : aluMaxu a b = BitVec.ofNat 64 (max a.toNat b.toNat) := by
  unfold aluMaxu
  split
  · rw [max_eq_right ‹_›, BitVec.ofNat_toNat, BitVec.setWidth_eq]
  · rw [max_eq_left (by omega), BitVec.ofNat_toNat, BitVec.setWidth_eq]

theorem aluAbs_eq (a : Word) : aluAbs a =
    (BitVec.ofNat 64 (min a.toInt.natAbs (2 ^ 63 - 1)), if a = 0x8000000000000000 then flSAT else 0) := by
  unfold aluAbs
  by_cases hleast : a = 0x8000000000000000
  · subst hleast; decide
  · have hvalue : a.toNat ≠ 2 ^ 63 := fun h => hleast (BitVec.eq_of_toNat_eq h)
    have hlt := a.isLt
    simp only [beq_iff_eq, hleast, if_false]
    refine Prod.ext ?_ rfl
    apply BitVec.eq_of_toNat_eq
    rw [BitVec.toInt_eq_msb_cond]
    cases hm : a.msb
    · have := BitVec.msb_eq_false_iff_two_mul_lt.mp hm
      simp only [Bool.false_eq_true, if_false, BitVec.toNat_ofNat]
      omega
    · have := BitVec.msb_eq_true_iff_two_mul_ge.mp hm
      simp only [if_true, BitVec.toNat_neg, BitVec.toNat_ofNat]
      omega

/-- Settles O1: each instruction by the equation of its value. -/
theorem scalarIntegerArithmetic : Obligations.ScalarIntegerArithmetic := by
  unfold Obligations.ScalarIntegerArithmetic
  constructor
  · intro op hop
    refine opInfo_kinds ?_
    revert op; decide
  · intro s cu f h a b d clamp sat
    exact ⟨computes_flagless h rfl (add_eq_ofNat a b), computes_flagless h rfl (sub_eq_ofInt a b),
      computes_of_fireAlu h rfl (clampS64_eq _), computes_of_fireAlu h rfl (aluAddus_eq a b), computes_of_fireAlu h rfl (clampS64_eq _),
      computes_flagless h rfl (mul_eq_ofNat a b),
      computes_flagless h rfl (ofInt_div_eq_extract _),
      computes_flagless h rfl (ofNat_div_eq_extract _),
      computes_flagless h rfl (mac_eq_ofNat d a b), computes_flagless h rfl (aluMin_eq a b),
      computes_flagless h rfl (aluMax_eq a b), computes_flagless h rfl (aluMinu_eq a b),
      computes_flagless h rfl (aluMaxu_eq a b), computes_of_fireAlu h rfl (aluAbs_eq a)⟩

end Sys2Proof.Machine
end

section
/-! SUPPORT. Compares (R132), floating-point lanes (R134 to R140), window dots and conversions (R141 to R145): each firing delivers what
its value function says. Settles O5, O6 and O8. -/

namespace Sys2Proof.Machine

/-! ## Compares (R132) -/

/-- A truth value as a word, by a test that the compare's condition decides. -/
theorem boolWord_eq {c : Bool} {p : Prop} [Decidable p] (h : c = true ↔ p) : boolWord c = if p then 1 else 0 := by
  simp only [boolWord, h]

/-- A truth value as a word, by the condition under which it is 0. -/
theorem boolWord_eq_not {c : Bool} {p : Prop} [Decidable p] (h : c = true ↔ ¬ p) : boolWord c = if p then 0 else 1 := by
  rw [boolWord_eq h, ite_not]

/-- Settles O5: each compare by the condition that its test decides. -/
theorem integerCompares : Obligations.IntegerCompares := by
  unfold Obligations.IntegerCompares
  constructor
  · intro op hop
    refine opInfo_kinds ?_
    revert op; decide
  · intro s cu f h a b
    exact ⟨computes_flagless h rfl (boolWord_eq beq_iff_eq),
      computes_flagless h rfl (boolWord_eq_not bne_iff_ne),
      computes_flagless h rfl (boolWord_eq decide_eq_true_iff),
      computes_flagless h rfl (boolWord_eq decide_eq_true_iff),
      computes_flagless h rfl (boolWord_eq decide_eq_true_iff),
      computes_flagless h rfl (boolWord_eq decide_eq_true_iff),
      computes_flagless h rfl (boolWord_eq_not bne_iff_ne),
      computes_flagless h rfl (boolWord_eq beq_iff_eq)⟩

/-! ## Lanes, dots and conversions (R134 to R145) -/

/-- Settles O6: every instruction is one delivery of its lanes, with its latency. -/
theorem floatingPointLanes : Obligations.FloatingPointLanes := by
  unfold Obligations.FloatingPointLanes
  intro s cu f h a b d lanes sum diff prod fused gives
  and_intros <;> exact computes_res_of_fireAlu h rfl rfl

/-- Settles O8: every instruction is one delivery, with its latency, of what its function gives for the operands, ECW.RND and ECW.WW. -/
theorem windowDotsAndConversions : Obligations.WindowDotsAndConversions := by
  unfold Obligations.WindowDotsAndConversions
  intro s cu f h e a b oa ob d w m gives
  and_intros <;> exact computes_res_of_fireAlu h rfl rfl

end Sys2Proof.Machine
end

section
/-! SUPPORT. Logic, shifts, bit counts and bit fields (R127 to R129), bit by bit. Settles O3. -/

namespace Sys2Proof.Machine

/-! ## Shifts (R127) -/

theorem aluShl_eq (a b : Word) : aluShl a b = BitVec.ofNat 64 (a.toNat * 2 ^ (b.toNat % 64)) := by
  rw [aluShl, BitVec.shiftLeft_eq_mul_twoPow, mul_eq_ofNat]
  apply BitVec.eq_of_toNat_eq
  simp [BitVec.toNat_twoPow]

theorem aluShr_eq (a b : Word) : aluShr a b = BitVec.ofNat 64 (a.toNat / 2 ^ (b.toNat % 64)) := by
  apply BitVec.eq_of_toNat_eq
  rw [aluShr, BitVec.toNat_ushiftRight, Nat.shiftRight_eq_div_pow, BitVec.toNat_ofNat,
    Nat.mod_eq_of_lt ((Nat.div_le_self ..).trans_lt a.isLt)]

theorem aluSar_eq (a b : Word) : aluSar a b = BitVec.ofInt 64 (a.toInt / 2 ^ (b.toNat % 64)) := by
  rw [aluSar, BitVec.sshiftRight, Int.shiftRight_eq_div_pow]
  push_cast
  rfl

theorem aluRol_eq (a b : Word) : aluRol a b = a.rotateLeft (b.toNat % 64) := by
  rw [aluRol, BitVec.rotateLeft_def, Nat.mod_mod]
  by_cases hn : b.toNat % 64 = 0
  · simp [hn, BitVec.ushiftRight_eq_zero]
  · simp [hn]

/-! ## Counts (R128) -/

theorem toNat_lt_two_pow_sigBits (a : Word) : a.toNat < 2 ^ sigBits a := by
  unfold sigBits
  split
  · simp_all
  · exact Nat.lt_log2_self

theorem sigBits_le (a : Word) : sigBits a ≤ 64 := by
  unfold sigBits
  split
  · omega
  · rename_i ha
    exact (Nat.log2_lt (by simpa [← BitVec.toNat_inj] using ha)).mpr a.isLt

/-- No bit is set above the significant ones. -/
theorem getLsbD_of_sigBits_le {a : Word} {i : Nat} (h : sigBits a ≤ i) : a.getLsbD i = false :=
  Nat.testBit_lt_two_pow ((toNat_lt_two_pow_sigBits a).trans_le (Nat.pow_le_pow_right (by decide) h))

/-- The highest significant bit is set. -/
theorem getLsbD_sigBits_pred {a : Word} (h : 0 < sigBits a) : a.getLsbD (sigBits a - 1) = true := by
  unfold sigBits at h ⊢
  split at h
  · omega
  · rename_i ha
    rw [if_neg ha, Nat.add_sub_cancel]
    exact Nat.testBit_log2 (by simpa [← BitVec.toNat_inj] using ha)

/-- The number that ctz counts. -/
def trailingZeros (a : Word) : Nat := ((List.range 64).find? (fun i => a.getLsbD i)).getD 64

theorem trailingZeros_spec (a : Word) : trailingZeros a ≤ 64 ∧ (∀ i < trailingZeros a, a.getLsbD i = false) ∧
    (trailingZeros a < 64 → a.getLsbD (trailingZeros a) = true) := by
  unfold trailingZeros
  cases hfind : (List.range 64).find? (fun i => a.getLsbD i) with
  | none =>
    refine ⟨le_rfl, fun i hi => ?_, fun h => absurd h (lt_irrefl _)⟩
    simpa using List.find?_eq_none.mp hfind i (List.mem_range.mpr hi)
  | some k =>
    obtain ⟨hset, hlt, hbelow⟩ := List.find?_range_eq_some.mp hfind
    exact ⟨(List.mem_range.mp hlt).le, fun i hi => by simpa using hbelow i hi, fun _ => hset⟩

theorem aluPopc_eq (a : Word) :
    aluPopc a = BitVec.ofNat 64 ((Finset.range 64).filter (fun i => a.getLsbD i = true)).card := by
  have hcard : ((Finset.range 64).filter (fun i => a.getLsbD i = true)).card =
      ((List.range 64).filter (fun i => decide (a.getLsbD i = true))).length := rfl
  simp only [aluPopc, List.countP_eq_length_filter, hcard, Bool.decide_eq_true]

/-! ## Bit fields (R129) -/

/-- The `n` bits of a word from bit `pos`. -/
def bitField (a : Word) (pos n : Nat) : BitVec n := BitVec.ofNat n (a.toNat / 2 ^ pos % 2 ^ n)

theorem getLsbD_bitField (a : Word) (pos n i : Nat) : (bitField a pos n).getLsbD i = (decide (i < n) && a.getLsbD (pos + i)) := by
  rw [bitField, BitVec.getLsbD_ofNat, Nat.testBit_mod_two_pow, Nat.testBit_div_two_pow, ← Bool.and_assoc, Bool.and_self, Nat.add_comm i]
  rfl

section
variable (a lit : Word)

theorem fieldOf_eq : fieldOf lit =
    (lit.toNat % 64, min (lit.toNat % 64 + lit.toNat / 256 % 64) 63 - lit.toNat % 64 + 1) := rfl

/-- A field is extended by its sign or by zeros. -/
theorem aluBext_eq : aluBext a lit =
    if lit.getLsbD 16 then (bitField a (fieldOf lit).1 (fieldOf lit).2).signExtend 64
    else (bitField a (fieldOf lit).1 (fieldOf lit).2).setWidth 64 := by
  simp only [aluBext, sInt_eq_toInt]
  split
  · rfl
  · apply BitVec.eq_of_toNat_eq
    simp [bitField]

/-- The bits of an extended field of `m` + 1 bits. -/
theorem getLsbD_extendedField (pos m : Nat) (signed : Bool) {i : Nat} (hi : i < 64) :
    (if signed then (bitField a pos (m + 1)).signExtend 64 else (bitField a pos (m + 1)).setWidth 64).getLsbD i =
      if i ≤ m then a.getLsbD (pos + i) else signed && a.getLsbD (pos + m) := by
  cases signed
  · simp only [Bool.false_eq_true, if_false, BitVec.getLsbD_setWidth, getLsbD_bitField, hi, Bool.false_and, Nat.lt_succ_iff]
    split <;> simp [*]
  · simp only [if_true, BitVec.getLsbD_signExtend, BitVec.msb_eq_getLsbD_last, getLsbD_bitField, hi, Nat.lt_succ_iff]
    split <;> simp [*]

theorem getLsbD_aluBext {i : Nat} (hi : i < 64) : (aluBext a lit).getLsbD i =
    if i ≤ min (lit.toNat % 64 + lit.toNat / 256 % 64) 63 - lit.toNat % 64 then a.getLsbD (lit.toNat % 64 + i)
    else lit.getLsbD 16 && a.getLsbD (min (lit.toNat % 64 + lit.toNat / 256 % 64) 63) := by
  rw [aluBext_eq, fieldOf_eq, getLsbD_extendedField _ _ _ _ hi, Nat.add_sub_of_le (by omega)]

theorem getLsbD_aluBins (d : Word) {i : Nat} (hi : i < 64) : (aluBins d a lit).getLsbD i =
    if lit.toNat % 64 ≤ i ∧ i ≤ min (lit.toNat % 64 + lit.toNat / 256 % 64) 63 then a.getLsbD (i - lit.toNat % 64)
    else d.getLsbD i := by
  have hpos : lit.toNat % 64 < 64 := Nat.mod_lt _ (by decide)
  simp only [aluBins, fieldOf_eq]
  generalize lit.toNat % 64 = pos at *
  generalize hhi : min (pos + lit.toNat / 256 % 64) 63 = hi' at *
  have hmask : (BitVec.ofNat 64 ((2 ^ (hi' - pos + 1) - 1) * 2 ^ pos)).getLsbD i = decide (pos ≤ i ∧ i ≤ hi') := by
    rw [BitVec.getLsbD_ofNat, Nat.testBit_mul_two_pow, Nat.testBit_two_pow_sub_one]
    simp only [hi, decide_true, Bool.true_and]
    by_cases hle : pos ≤ i <;> simp [hle]
    omega
  simp only [BitVec.getLsbD_or, BitVec.getLsbD_and, BitVec.getLsbD_not, BitVec.getLsbD_shiftLeft, hmask, hi]
  split <;> rename_i hfield
  · have : ¬ i < pos := by omega
    simp [hfield, this]
  · simp [hfield]

end

/-- Settles O3: each instruction by the equation of its value, or by its bits. -/
theorem logicShiftsAndBitFields : Obligations.LogicShiftsAndBitFields := by
  unfold Obligations.LogicShiftsAndBitFields
  constructor
  · intro op hop
    refine opInfo_kinds ?_
    revert op; decide
  · intro s cu f h a b d n pos hi
    obtain ⟨hle, hbelow, hset⟩ := trailingZeros_spec a
    have hsig := sigBits_le a
    refine ⟨computes_of_fireAlu h rfl rfl, computes_of_fireAlu h rfl rfl, computes_of_fireAlu h rfl rfl, computes_of_fireAlu h rfl rfl,
      computes_flagless h rfl (aluShl_eq a b), computes_flagless h rfl (aluShr_eq a b),
      computes_flagless h rfl (aluSar_eq a b), computes_flagless h rfl (aluRol_eq a b),
      ⟨64 - sigBits a, computes_of_fireAlu h rfl rfl, by omega, fun i hi => getLsbD_of_sigBits_le (by omega), fun hk => ?_⟩,
      ⟨trailingZeros a, computes_of_fireAlu h rfl rfl, hle, hbelow, hset⟩,
      computes_flagless h rfl (aluPopc_eq a),
      ⟨_, computes_of_fireAlu h rfl rfl, fun i hi => getLsbD_aluBext a f.lit hi⟩,
      ⟨_, computes_of_fireAlu h rfl rfl, fun i hi => getLsbD_aluBins a f.lit d hi⟩⟩
    have hlast := getLsbD_sigBits_pred (a := a) (by omega)
    rwa [show 63 - (64 - sigBits a) = sigBits a - 1 by omega]

end Sys2Proof.Machine
end

section
/-! SUPPORT. Packed lanes (R130) and the integer dots (R131). Settles O4. -/

namespace Sys2Proof.Machine

/-! ## Lanes of 32 bits (R130) -/

/-- Lane `i` of 32 bits of a word, as its pattern. -/
def lane32 (x : Word) (i : Nat) : BitVec 32 := x.extractLsb' (32 * i) 32

theorem lane_eq_toNat (w : Nat) (x : Word) (i : Nat) : lane w x i = (x.extractLsb' (w * i) w).toNat := by
  rw [lane, BitVec.extractLsb'_toNat, Nat.shiftRight_eq_div_pow]

/-- Two lanes, the lower one first, as one word. -/
theorem ofLanes_pair (m n : Nat) : ofLanes 32 [m, n] = BitVec.ofNat 32 n ++ BitVec.ofNat 32 m := by
  apply BitVec.eq_of_toNat_eq
  rw [BitVec.toNat_append, BitVec.toNat_ofNat, BitVec.toNat_ofNat, ← Nat.shiftLeft_add_eq_or_of_lt (Nat.mod_lt _ (by decide)),
    Nat.shiftLeft_eq]
  simp only [ofLanes, List.foldr, BitVec.toNat_ofNat]
  omega

/-- A function of two patterns, lane by lane. -/
def eachLane (h : BitVec 32 → BitVec 32 → BitVec 32) (a b : Word) : Word :=
  h (lane32 a 1) (lane32 b 1) ++ h (lane32 a 0) (lane32 b 0)

/-- Lanes computed as numbers are lanes computed as patterns. -/
theorem lanes2_eq {g : Nat → Nat → Nat × FlagSet} {h : BitVec 32 → BitVec 32 → BitVec 32}
    (hg : ∀ x y : BitVec 32, BitVec.ofNat 32 (g x.toNat y.toNat).1 = h x y) (a b : Word) :
    (lanes2 g a b).1 = eachLane h a b := by
  simp only [lanes2, ofLanes_pair, lane_eq_toNat, hg]
  rfl

theorem aluAddW2_eq (a b : Word) : aluAddW2 a b = eachLane (· + ·) a b := by
  unfold aluAddW2
  refine lanes2_eq (fun x y => ?_) a b
  rw [BitVec.ofNat_add, BitVec.ofNat_toNat, BitVec.ofNat_toNat, BitVec.setWidth_eq, BitVec.setWidth_eq]

theorem aluSubW2_eq (a b : Word) : aluSubW2 a b = eachLane (· - ·) a b := by
  unfold aluSubW2
  refine lanes2_eq (fun x y => BitVec.eq_of_toNat_eq ?_) a b
  rw [BitVec.toNat_sub, BitVec.toNat_ofNat]
  omega

theorem aluMulW2_eq (a b : Word) : aluMulW2 a b = eachLane (· * ·) a b := by
  unfold aluMulW2
  refine lanes2_eq (fun x y => ?_) a b
  rw [BitVec.ofNat_mul, BitVec.ofNat_toNat, BitVec.ofNat_toNat, BitVec.setWidth_eq, BitVec.setWidth_eq]

theorem sInt_toNat (w : Nat) (x : BitVec w) : sInt w x.toNat = x.toInt := by
  rw [sInt_eq_toInt, BitVec.ofNat_toNat, BitVec.setWidth_eq]

theorem ofNat_toNat_eq_ofInt (x : BitVec 32) : BitVec.ofNat 32 x.toNat = BitVec.ofInt 32 x.toInt := by
  rw [BitVec.ofInt_toInt, BitVec.ofNat_toNat, BitVec.setWidth_eq]

theorem aluMinW2_eq (a b : Word) : aluMinW2 a b = eachLane (fun x y => BitVec.ofInt 32 (min x.toInt y.toInt)) a b := by
  unfold aluMinW2
  refine lanes2_eq (fun x y => ?_) a b
  simp only [sInt_toNat]
  split
  · rw [min_eq_left ‹_›, ofNat_toNat_eq_ofInt]
  · rw [min_eq_right (by omega), ofNat_toNat_eq_ofInt]

theorem aluMaxW2_eq (a b : Word) : aluMaxW2 a b = eachLane (fun x y => BitVec.ofInt 32 (max x.toInt y.toInt)) a b := by
  unfold aluMaxW2
  refine lanes2_eq (fun x y => ?_) a b
  simp only [sInt_toNat]
  split
  · rw [max_eq_right ‹_›, ofNat_toNat_eq_ofInt]
  · rw [max_eq_left (by omega), ofNat_toNat_eq_ofInt]

/-! ## Saturation to 32 bits -/

/-- A value clamped to signed 32 bits. -/
def clamp32 (v : Int) : Int := max (-2 ^ 31) (min (2 ^ 31 - 1) v)

/-- The flag of a value that is clamped. -/
def satFlag (v : Int) : FlagSet := if clamp32 v = v then 0 else flSAT

/-- A clamp by the order of its bounds, in any representation `k` of the clamped value. -/
theorem saturate_eq {α : Type} (k : Int → α) (v : Int) :
    (if v > 2147483647 then (k 2147483647, flSAT) else if v < -2147483648 then (k (-2147483648), flSAT) else (k v, 0)) =
      (k (clamp32 v), satFlag v) := by
  unfold satFlag
  split
  · have hclamp : clamp32 v = 2147483647 := by unfold clamp32; omega
    rw [hclamp, if_neg (by omega)]
  · split
    · have hclamp : clamp32 v = -2147483648 := by unfold clamp32; omega
      rw [hclamp, if_neg (by omega)]
    · have hclamp : clamp32 v = v := by unfold clamp32; omega
      rw [hclamp, if_pos rfl]

/-- Two flags of saturation together are that of either. -/
theorem satFlag_or (u v : Int) : satFlag u ||| satFlag v = if clamp32 u = u ∧ clamp32 v = v then 0 else flSAT := by
  unfold satFlag
  by_cases hu : clamp32 u = u <;> by_cases hv : clamp32 v = v <;> simp [hu, hv]

theorem ofNat_ofInt (v : Int) : BitVec.ofNat 32 (ofInt 32 v) = BitVec.ofInt 32 v := by
  apply BitVec.eq_of_toNat_eq
  rw [BitVec.toNat_ofNat, BitVec.toNat_ofInt, ofInt]
  omega

/-- A lane of adds.w2. -/
def addsLane (x y : Nat) : Nat × FlagSet := (ofInt 32 (clamp32 (sInt 32 x + sInt 32 y)), satFlag (sInt 32 x + sInt 32 y))

theorem aluAddsW2_eq_lanes2 (a b : Word) : aluAddsW2 a b = lanes2 addsLane a b := by
  have hgreatest : ofInt 32 2147483647 = 2147483647 := by decide
  have hleast : ofInt 32 (-2147483648) = 2147483648 := by decide
  unfold addsLane
  simp only [aluAddsW2, ← saturate_eq (ofInt 32), hgreatest, hleast]

theorem addsLane_toNat (x y : BitVec 32) :
    addsLane x.toNat y.toNat = (ofInt 32 (clamp32 (x.toInt + y.toInt)), satFlag (x.toInt + y.toInt)) := by
  rw [addsLane, sInt_toNat, sInt_toNat]

theorem aluAddsW2_eq (a b : Word) : aluAddsW2 a b =
    (eachLane (fun x y => BitVec.ofInt 32 (clamp32 (x.toInt + y.toInt))) a b,
      if clamp32 ((lane32 a 0).toInt + (lane32 b 0).toInt) = (lane32 a 0).toInt + (lane32 b 0).toInt ∧
        clamp32 ((lane32 a 1).toInt + (lane32 b 1).toInt) = (lane32 a 1).toInt + (lane32 b 1).toInt then 0 else flSAT) := by
  have hlanes : (lanes2 addsLane a b).1 = eachLane (fun x y => BitVec.ofInt 32 (clamp32 (x.toInt + y.toInt))) a b :=
    lanes2_eq (fun x y => by rw [addsLane_toNat, ofNat_ofInt]) a b
  have hflags : (lanes2 addsLane a b).2 =
      satFlag ((lane32 a 0).toInt + (lane32 b 0).toInt) ||| satFlag ((lane32 a 1).toInt + (lane32 b 1).toInt) := by
    simp only [lanes2, lane_eq_toNat, addsLane_toNat]
    rfl
  rw [aluAddsW2_eq_lanes2, ← satFlag_or, ← hlanes, ← hflags]

/-- The saturating window sum clamps, and says so. -/
theorem wsInt_sat (t : List Int) (c : Int) : wsInt t c true = (clamp32 (t.foldl (· + ·) c), satFlag (t.foldl (· + ·) c)) :=
  saturate_eq id _

/-! ## Dots (R131) -/

/-- The product of byte `i` of two words, as `g` reads them. -/
def byteProduct (g : BitVec 8 → Int) (a b : Word) (i : Nat) : Int := g (a.extractLsb' (8 * i) 8) * g (b.extractLsb' (8 * i) 8)

/-- The dot of the bytes of two words, with an addend. -/
def dot8 (g : BitVec 8 → Int) (c : Int) (a b : Word) : Int :=
  c + (byteProduct g a b 0 + byteProduct g a b 1 + byteProduct g a b 2 + byteProduct g a b 3 + byteProduct g a b 4 +
    byteProduct g a b 5 + byteProduct g a b 6 + byteProduct g a b 7)

/-- The addend may as well come first. -/
theorem foldl_byteProduct (g : BitVec 8 → Int) (c : Int) (a b : Word) :
    ((List.range 8).map (byteProduct g a b)).foldl (· + ·) c = dot8 g c a b := by
  simp only [List.range_succ, List.range_zero, List.nil_append, List.cons_append, List.map_cons, List.map_nil, List.foldl_cons,
    List.foldl_nil, dot8]
  omega

theorem aluIdot8_eq (d a b : Word) : aluIdot8 true d a b =
    (BitVec.ofInt 64 (clamp32 (dot8 BitVec.toInt (lane32 d 0).toInt a b)), satFlag (dot8 BitVec.toInt (lane32 d 0).toInt a b)) := by
  simp only [← foldl_byteProduct, aluIdot8, wsInt_sat, lane_eq_toNat, sInt_toNat, if_true]
  rfl

theorem aluIdot8u_eq (d a b : Word) : aluIdot8 false d a b =
    (BitVec.ofInt 64 (clamp32 (dot8 (fun x => x.toNat) (lane32 d 0).toInt a b)),
      satFlag (dot8 (fun x => x.toNat) (lane32 d 0).toInt a b)) := by
  simp only [← foldl_byteProduct, aluIdot8, wsInt_sat, lane_eq_toNat, sInt_toNat, Bool.false_eq_true, if_false]
  rfl

/-- Settles O4: lane by lane, and by the sum of the eight products. -/
theorem packedIntegerLanes : Obligations.PackedIntegerLanes := by
  unfold Obligations.PackedIntegerLanes
  constructor
  · intro op hop
    refine opInfo_kinds ?_
    revert op; decide
  · intro s cu f h a b d l pair each clamp byte c dot sum
    exact ⟨computes_flagless h rfl (aluAddW2_eq a b),
      computes_flagless h rfl (aluSubW2_eq a b),
      computes_flagless h rfl (aluMulW2_eq a b),
      computes_flagless h rfl (aluMinW2_eq a b),
      computes_flagless h rfl (aluMaxW2_eq a b),
      computes_of_fireAlu h rfl (aluAddsW2_eq a b), computes_of_fireAlu h rfl (aluIdot8_eq d a b),
      computes_of_fireAlu h rfl (aluIdot8u_eq d a b)⟩

end Sys2Proof.Machine
end

section
/-! SUPPORT. Division (R125) and the forming of an address (R126). Settles O2. -/

namespace Sys2Proof.Machine

/-! ## Division (R125) -/

/-- The firing of an instruction that computes one value: the common part, and the value on its way. -/
theorem State.fireAlu_eq {s : State} {cu : Cursor} {f : SlotF} (h : s.goes cu f) (lat : AluIn → Nat) (g : AluIn → Res) :
    s.fireAlu f lat g = (s.fired cu f (sourceFlags s cu f)).deliver cu f f.da (lat (aluIn s cu f)) (g (aluIn s cu f)).1 .data
      (sentTag s cu f) (g (aluIn s cu f)).2 := by
  simp only [State.fireAlu, h.1, goes_operands h, State.fired]

/-- The divider of an element is busy until cycle `n`. -/
def State.dividerBusy (s : State) (ea n : Nat) : State := s.modElem ea (fun e => { e with divFree := n })

theorem State.fireDiv_eq {s : State} {cu : Cursor} {f : SlotF} (h : s.goes cu f) (g : AluIn → Res) :
    s.fireDiv f g = (s.fireAlu f (fun x => divLatency x.a) g).dividerBusy cu.ea (s.now + divLatency (readSource s cu f f.sa).val) := by
  simp only [State.fireDiv, h.1, goes_operands h, State.dividerBusy]

theorem stays_dividerBusy (s : State) (cu : Cursor) (n : Nat) : stays s (s.dividerBusy cu.ea n) cu := by
  refine ⟨fun c => ?_, ?_, ?_, fun c => ?_⟩ <;> simp [State.dividerBusy, State.ctx, State.chan, Elem.ctx, Elem.chan]

theorem State.divFree_dividerBusy (s : State) (ea n : Nat) : ((s.dividerBusy ea n).elem ea).divFree = n := by
  simp [State.dividerBusy]

/-- With its divider as it was, a state is in the frame that it had. -/
theorem fireFrame.divider {s t : State} {cu : Cursor} (h : fireFrame s t cu) (n : Nat) :
    fireFrame s ((t.dividerBusy cu.ea n).dividerBusy cu.ea (s.elem cu.ea).divFree) cu := by
  have hold : (t.elem cu.ea).divFree = (s.elem cu.ea).divFree := by rw [h.2.1]
  refine h.trans ⟨(elemFrame_modElem ..).trans (elemFrame_modElem ..), ?_, fun c => ?_⟩
  · simp [State.dividerBusy, sameElem, ← hold]
  · simp [State.dividerBusy, State.ctx, Elem.ctx, sameCtx.refl]

/-- A division delivers its result when its latency is over, and its divider is busy until then. -/
theorem fireDiv_divides {s : State} {cu : Cursor} {f : SlotF} {i : Instr} (h : s.goes cu f) {g : AluIn → Word}
    (hi : exec i s = .next (s.fireDiv f (fun x => (g x, 0)))) {lat : Nat} (hlat : divLatency (readSource s cu f f.sa).val = lat)
    {v : Word} (hv : g (aluIn s cu f) = v) :
    ∃ t, exec i s = .next t ∧ s.delivers t cu f f.da lat v .data 0 ∧ s.counts t cu f ∧ (t.elem cu.ea).divFree = s.now + lat ∧
      fireFrame s (t.dividerBusy cu.ea (s.elem cu.ea).divFree) cu := by
  obtain ⟨hdelivers, hcounts, hframe⟩ := fired_delivers (s := s) (cu := cu) (f := f) (sourceFlags s cu f) f.da lat v .data 0
  rw [State.fireDiv_eq h, State.fireAlu_eq h, show divLatency (aluIn s cu f).a = lat from hlat, hlat, hv] at hi
  exact ⟨_, hi, hdelivers.kept fun _ hx => hx, State.counts_stays hcounts (stays_dividerBusy ..), State.divFree_dividerBusy ..,
    hframe.divider _⟩

/-- The significant bits of a word, by the powers of two between which it lies. -/
theorem sigBits_eq {a : Word} {k : Nat} (hlt : a.toNat < 2 ^ k) (hge : a = 0 ∨ 2 ^ (k - 1) ≤ a.toNat) (hzero : a = 0 → k = 0) :
    sigBits a = k := by
  unfold sigBits
  by_cases ha : a = 0
  · simp [ha, hzero ha]
  · have hne : a.toNat ≠ 0 := fun h => ha (BitVec.eq_of_toNat_eq h)
    have hk : k ≠ 0 := by rintro rfl; omega
    rw [if_neg (by simpa using ha), (Nat.log2_eq_iff hne).mpr ⟨hge.resolve_left ha, by rwa [Nat.sub_add_cancel (by omega)]⟩]
    omega

theorem aluDivu_eq (a b : Word) : aluDivu a b = BitVec.ofNat 64 (if b = 0 then 2 ^ 64 - 1 else a.toNat / b.toNat) := by
  by_cases hb : b = 0
  · subst hb; rfl
  · simp only [aluDivu, beq_iff_eq, hb, if_false]

theorem aluRemu_eq (a b : Word) :
    aluRemu a b = BitVec.ofNat 64 (if b = 0 then a.toNat else a.toNat - (if b = 0 then 2 ^ 64 - 1 else a.toNat / b.toNat) * b.toNat) := by
  by_cases hb : b = 0
  · subst hb; simp [aluRemu]
  · simp only [aluRemu, beq_iff_eq, hb, if_false]
    rw [Nat.mod_eq_sub_div_mul]

/-- An eligible slot that passes its checks meets the condition of its opcode (R87, item 7). -/
theorem opReady_of_slotElig {s : State} {cu : Cursor} {w : SlotW} (hchecks : s.slotFails cu.ea w = none)
    (h : s.slotElig cu w .all = true) : s.opReady cu w.op w.fields = true := by
  simp only [State.slotElig, hchecks, State.slotReady, Bool.and_eq_true] at h
  obtain ⟨-, hready⟩ := h
  split at hready
  · exact absurd hready Bool.false_ne_true
  · simpa using (Bool.and_eq_true_iff.mp hready).2

/-- A slot of an opcode that needs the divider is eligible where the divider is free. -/
theorem divFree_of_slotElig {s : State} {cu : Cursor} {w : SlotW} (hop : w.op = 0x19 ∨ w.op = 0x1A)
    (hchecks : s.slotFails cu.ea w = none) (h : s.slotElig cu w .all = true) : (s.elem cu.ea).divFree ≤ s.now := by
  have hready := opReady_of_slotElig hchecks h
  rcases hop with hop | hop <;> rw [hop] at hready <;> exact of_decide_eq_true hready

/-! ## Addresses (R126) -/

/-- A value that a signed word holds. -/
def fitsS64 (v : Int) : Prop := -2 ^ 63 ≤ v ∧ v ≤ 2 ^ 63 - 1

theorem outsideS64_eq_false_iff (v : Int) : outsideS64 v = false ↔ fitsS64 v := by
  simp only [outsideS64, fitsS64, Bool.or_eq_false_iff, decide_eq_false_iff_not]
  omega

section
variable {a b lit : Word}

/-- The address of lea where both of its sums fit. -/
theorem aluLea_fits (hp : fitsS64 (b.toInt * 2 ^ (lit.toNat % 64))) (hsum : fitsS64 (a.toInt + b.toInt * 2 ^ (lit.toNat % 64))) :
    aluLea a b lit = some (BitVec.ofInt 64 (a.toInt + b.toInt * 2 ^ (lit.toNat % 64))) := by
  rw [← outsideS64_eq_false_iff] at hp hsum
  simp only [aluLea, Nat.cast_pow, Nat.cast_ofNat, hp, hsum, Bool.or_false, Bool.false_eq_true, if_false]

/-- lea has no address where a step leaves the range. -/
theorem aluLea_overflows (h : ¬ (fitsS64 (b.toInt * 2 ^ (lit.toNat % 64)) ∧ fitsS64 (a.toInt + b.toInt * 2 ^ (lit.toNat % 64)))) :
    aluLea a b lit = none := by
  rw [← outsideS64_eq_false_iff, ← outsideS64_eq_false_iff, ← Bool.or_eq_false_iff, Bool.not_eq_false] at h
  simp only [aluLea, Nat.cast_pow, Nat.cast_ofNat, h, if_true]

end

/-- lea with an address that fits. -/
theorem exec_lea_some {s : State} {cu : Cursor} {f : SlotF} (h : s.goes cu f) {v : Word}
    (hv : aluLea (readSource s cu f f.sa).val (readSource s cu f f.sb).val f.lit = some v) :
    exec (.lea f) s = .next (s.fireAlu f (fun _ => 1) (fun x => ((aluLea x.a x.b x.lit).getD 0, 0))) := by
  change execLea f s = _
  simp only [execLea, h.1, goes_operands h, hv, Option.isNone_some, Bool.false_eq_true, if_false]

theorem exec_lea_none {s : State} {cu : Cursor} {f : SlotF} (h : s.goes cu f)
    (hv : aluLea (readSource s cu f f.sa).val (readSource s cu f f.sb).val f.lit = none) :
    exec (.lea f) s = .next (s.raiseSync cu 0x10 (f.lit.toNat % 64) (readSource s cu f f.sa).val) := by
  change execLea f s = _
  simp only [execLea, h.1, goes_operands h, hv, Option.isNone_none, if_true]

theorem lea_computes {s : State} {cu : Cursor} {f : SlotF} (h : s.goes cu f) {v : Word}
    (hv : aluLea (readSource s cu f f.sa).val (readSource s cu f f.sb).val f.lit = some v) : computes (.lea f) s cu f 1 v 0 :=
  computes_of_fireAlu h (exec_lea_some h hv) (by
    change ((aluLea (readSource s cu f f.sa).val (readSource s cu f f.sb).val f.lit).getD 0, _) = _
    rw [hv, Option.getD_some])

/-- Settles O2: both divisions by what a division does, lea by whether its sums fit. -/
theorem divisionAndLea : Obligations.DivisionAndLea := by
  unfold Obligations.DivisionAndLea
  constructor
  · intro s cu f k h a b hlt hge hzero lat q m idle
    have hlat : divLatency a = lat := by rw [divLatency, sigBits_eq hlt hge hzero]
    obtain ⟨t, ht, htd, htc, htf, htframe⟩ := fireDiv_divides (i := .divu f) h rfl hlat (aluDivu_eq a b)
    obtain ⟨u, hu, hud, huc, huf, huframe⟩ := fireDiv_divides (i := .remu f) h rfl hlat (aluRemu_eq a b)
    exact ⟨t, u, ht, hu, htd, hud, htc, huc, htf, huf, htframe, huframe, fun _ => divFree_of_slotElig⟩
  · intro s cu f h a b sh p fits
    exact ⟨fun hfits => lea_computes h (aluLea_fits hfits.1 hfits.2), fun hover => exec_lea_none h (aluLea_overflows hover)⟩

end Sys2Proof.Machine
end

section
/-! SUPPORT. Special values of sums, products, minima, maxima and classes (R133, R135, R137). Settles O7. -/

namespace Sys2Proof.Machine

/-! ## Lanes of a word (R55) -/

/-- The number whose digits of `w` bits are the lanes of a list, lane 0 lowest. -/
def lanesNat (w : Nat) (ls : List Nat) : Nat := ls.foldr (fun l acc => l % 2 ^ w + 2 ^ w * acc) 0

theorem lanesNat_lt (w : Nat) (ls : List Nat) : lanesNat w ls < 2 ^ (w * ls.length) := by
  induction ls with
  | nil => simp [lanesNat]
  | cons l ls ih =>
    have hl : l % 2 ^ w < 2 ^ w := Nat.mod_lt _ (Nat.two_pow_pos w)
    calc l % 2 ^ w + 2 ^ w * lanesNat w ls < 2 ^ w * (lanesNat w ls + 1) := by rw [Nat.mul_succ]; omega
      _ ≤ 2 ^ w * 2 ^ (w * ls.length) := Nat.mul_le_mul_left _ ih
      _ = 2 ^ (w * (ls.length + 1)) := by rw [← pow_add, Nat.mul_succ, Nat.add_comm]

theorem lanesNat_digit (w : Nat) (ls : List Nat) {i : Nat} (hi : i < ls.length) :
    lanesNat w ls / 2 ^ (w * i) % 2 ^ w = ls[i] % 2 ^ w := by
  induction ls generalizing i with
  | nil => exact absurd hi (Nat.not_lt_zero i)
  | cons l ls ih =>
    have hcons : lanesNat w (l :: ls) = l % 2 ^ w + 2 ^ w * lanesNat w ls := rfl
    cases i with
    | zero => simp [hcons]
    | succ i =>
      rw [hcons, Nat.mul_succ, Nat.add_comm (w * i), pow_add, ← Nat.div_div_eq_div_mul, Nat.add_mul_div_left _ _ (Nat.two_pow_pos w),
        Nat.div_eq_of_lt (Nat.mod_lt _ (Nat.two_pow_pos w)), Nat.zero_add]
      exact ih (Nat.lt_of_succ_lt_succ hi)

/-- Each lane of a word of lanes is the lane that it was made of. -/
theorem lane_ofLanes {w : Nat} {ls : List Nat} (hfit : w * ls.length ≤ 64) {i : Nat} (hi : i < ls.length) :
    lane w (ofLanes w ls) i = ls[i] % 2 ^ w := by
  have hlt : lanesNat w ls < 2 ^ 64 := (lanesNat_lt w ls).trans_le (Nat.pow_le_pow_right (by decide) hfit)
  rw [lane, ofLanes, BitVec.toNat_ofNat, ← lanesNat, Nat.mod_eq_of_lt hlt, lanesNat_digit w ls hi]

/-- Each lane of a result computed lane by lane. -/
theorem lane_fpLanes (k : Fmt) (g : Nat → Nat × FlagSet) {i : Nat} (hi : i < 64 / k.width) :
    lane k.width (fpLanes k g).1 i = (g i).1 % 2 ^ k.width := by
  have hlen : (((List.range (64 / k.width)).map g).map (·.1)).length = 64 / k.width := by simp
  rw [fpLanes, lane_ofLanes (by rw [hlen]; exact Nat.mul_div_le ..) (by rwa [hlen])]
  simp

theorem lane_lt (w : Nat) (x : Word) (i : Nat) : lane w x i < 2 ^ w := Nat.mod_lt _ (Nat.two_pow_pos w)

/-! ## Order (R135) -/

theorem addFin_swap (na nb : Bool) (ma mb : Nat) (ea eb : Int) :
    (addFin nb mb eb (!na) ma ea).1 = -(addFin na ma ea (!nb) mb eb).1 := by
  simp only [addFin, min_comm eb ea]
  cases na <;> cases nb <;> simp

/-- The order of values is asymmetric. -/
theorem ltFV_asymm {x y : FV} (h : ltFV x y = true) : ltFV y x = false := by
  cases x <;> cases y <;> simp_all [ltFV]
  rename_i na ma ea nb mb eb
  rw [addFin_swap]
  omega

/-- What ranks below is not above. -/
theorem ltFV_of_rankLt {k : Fmt} {x y : Nat} (h : rankLt k x y = true) : ltFV (k.value y) (k.value x) = false := by
  simp only [rankLt, Bool.or_eq_true, Bool.and_eq_true, Bool.not_eq_true'] at h
  rcases h with h | ⟨⟨h, -⟩, -⟩
  · exact ltFV_asymm h
  · exact h

theorem ltFV_of_not_rankLt {k : Fmt} {x y : Nat} (h : rankLt k x y = false) : ltFV (k.value x) (k.value y) = false := by
  simp only [rankLt, Bool.or_eq_false_iff] at h
  exact h.1

/-! ## Minima and maxima (R135) -/

/-- One lane of fmin and fmax. -/
def minmaxLane (mx : Bool) (k : Fmt) (x y : Nat) : Nat :=
  if isNaN (k.value x) && isNaN (k.value y) then k.nanBits
  else if isNaN (k.value x) then y
  else if isNaN (k.value y) then x
  else if rankLt k x y != mx then x else y

theorem lane_aluFminmax {k : Fmt} (hk : k.nanBits < 2 ^ k.width) (mx : Bool) (a b : Word) {i : Nat} (hi : i < 64 / k.width) :
    lane k.width (aluFminmax mx k a b).1 i = minmaxLane mx k (lane k.width a i) (lane k.width b i) := by
  have hx := lane_lt k.width a i
  have hy := lane_lt k.width b i
  rw [aluFminmax, lane_fpLanes k _ hi]
  unfold minmaxLane
  dsimp only
  split
  · exact Nat.mod_eq_of_lt hk
  · split
    · exact Nat.mod_eq_of_lt hy
    · split
      · exact Nat.mod_eq_of_lt hx
      · dsimp only
        split
        · exact Nat.mod_eq_of_lt hx
        · exact Nat.mod_eq_of_lt hy

section
variable {k : Fmt} {x y : Nat}

theorem minmaxLane_both_nan (mx : Bool) (hx : isNaN (k.value x) = true) (hy : isNaN (k.value y) = true) :
    minmaxLane mx k x y = k.nanBits := by simp [minmaxLane, hx, hy]

theorem minmaxLane_left_nan (mx : Bool) (hx : isNaN (k.value x) = true) (hy : ¬ isNaN (k.value y) = true) :
    minmaxLane mx k x y = y := by simp [minmaxLane, hx, hy]

theorem minmaxLane_right_nan (mx : Bool) (hx : ¬ isNaN (k.value x) = true) (hy : isNaN (k.value y) = true) :
    minmaxLane mx k x y = x := by simp [minmaxLane, hx, hy]

/-- Of two numbers the one is the least and the other the greatest, in order. -/
theorem minmaxLane_numbers (hx : ¬ isNaN (k.value x) = true) (hy : ¬ isNaN (k.value y) = true) :
    (minmaxLane false k x y = x ∧ minmaxLane true k x y = y ∨ minmaxLane false k x y = y ∧ minmaxLane true k x y = x) ∧
      ltFV (k.value (minmaxLane true k x y)) (k.value (minmaxLane false k x y)) = false := by
  cases hr : rankLt k x y
  · have hlow : minmaxLane false k x y = y := by simp [minmaxLane, hx, hy, hr]
    have hhigh : minmaxLane true k x y = x := by simp [minmaxLane, hx, hy, hr]
    rw [hlow, hhigh]
    exact ⟨.inr ⟨rfl, rfl⟩, ltFV_of_not_rankLt hr⟩
  · have hlow : minmaxLane false k x y = x := by simp [minmaxLane, hx, hy, hr]
    have hhigh : minmaxLane true k x y = y := by simp [minmaxLane, hx, hy, hr]
    rw [hlow, hhigh]
    exact ⟨.inl ⟨rfl, rfl⟩, ltFV_of_rankLt hr⟩

end

/-- −0 is below +0. -/
theorem minmaxLane_zeros {k : Fmt} (hk : k = fp32 ∨ k = bf16) (n : Bool) :
    minmaxLane false k (k.signBit n) (k.signBit (!n)) = k.signBit true ∧
      minmaxLane true k (k.signBit n) (k.signBit (!n)) = k.signBit false := by
  rcases hk with rfl | rfl <;> revert n <;> decide

/-! ## Sums, products and classes (R133, R137) -/

/-- A NaN operand gives a NaN, and a signalling one raises NV. -/
theorem addFV_mulFV_nan (x : FV) (q : Bool) :
    (addFV x (.nan q)).1 = .nan false ∧ (addFV (.nan q) x).1 = .nan false ∧
      (mulFV x (.nan q)).1 = .nan false ∧ (mulFV (.nan q) x).1 = .nan false ∧
      (addFV x (.nan true)).2 = flNV ∧ (addFV (.nan true) x).2 = flNV ∧
      (mulFV x (.nan true)).2 = flNV ∧ (mulFV (.nan true) x).2 = flNV := by
  cases x <;> simp [addFV, mulFV, flagIf]

theorem addFV_inf (n : Bool) : addFV (.inf n) (.inf (!n)) = (.nan false, flNV) ∧ addFV (.inf n) (.inf n) = (.inf n, 0) := by
  cases n <;> exact ⟨rfl, rfl⟩

theorem fpRne_zeros {k : Fmt} (hk : k = fp32 ∨ k = bf16) (m n : Bool) :
    fpRne k (addFV (k.value (k.signBit m)) (k.value (k.signBit n))) = (k.signBit (m && n), 0) ∧
      fpRne k (mulFV (k.value (k.signBit m)) (k.value (k.signBit n))) = (k.signBit (m != n), 0) ∧
      (fpRne k (.nan m, 0)).1 = k.nanBits := by
  rcases hk with rfl | rfl <;> revert m n <;> decide

theorem classBit_lt (x : Nat) : classBit x < 10 := by
  unfold classBit
  split <;> (repeat' split) <;> decide

/-- Each lane of fclass has one bit set. -/
theorem lane_aluFclass (a : Word) {i : Nat} (hi : i < 2) : lane 32 (aluFclass a) i = 2 ^ classBit (lane 32 a i) := by
  have hlt : ∀ x, 2 ^ classBit x < 2 ^ 32 := fun x => Nat.pow_lt_pow_right (by decide) ((classBit_lt x).trans (by decide))
  rw [aluFclass, lane_ofLanes (Nat.le_refl 64) hi]
  interval_cases i <;> exact Nat.mod_eq_of_lt (hlt _)

/-- Settles O7: the special cases of sums and products by their cases, minima and maxima lane by lane, classes by their bit. -/
theorem floatingPointValues : Obligations.FloatingPointValues := by
  unfold Obligations.FloatingPointValues
  refine ⟨⟨addFV_mulFV_nan, addFV_inf, fun n z e => ⟨rfl, rfl⟩, fun m n k hk => fpRne_zeros hk m n⟩, ?_,
    fun a i hi => ⟨_, classBit_lt _, lane_aluFclass a hi⟩⟩
  intro k a b i hk hi x y low high
  have hnan : k.nanBits < 2 ^ k.width := by rcases hk with rfl | rfl <;> decide
  have hlow : low = minmaxLane false k x y := lane_aluFminmax hnan false a b hi
  have hhigh : high = minmaxLane true k x y := lane_aluFminmax hnan true a b hi
  rw [hlow, hhigh]
  refine ⟨fun h => ⟨minmaxLane_both_nan _ h.1 h.2, minmaxLane_both_nan _ h.1 h.2⟩,
    fun h => ⟨minmaxLane_left_nan _ h.1 h.2, minmaxLane_left_nan _ h.1 h.2⟩,
    fun h => ⟨minmaxLane_right_nan _ h.1 h.2, minmaxLane_right_nan _ h.1 h.2⟩,
    fun h => minmaxLane_numbers h.1 h.2, fun n hx hy => ?_⟩
  rw [hx, hy]
  exact minmaxLane_zeros hk n

end Sys2Proof.Machine
end

section
/-! SUPPORT. Results (R119, R121, R123): what a delivery does to its context, and what the words that it sends leave alone.
Settles O24. -/

namespace Sys2Proof.Machine

/-! ## What words on their way leave alone (R121, R156) -/

/-- What an element's words leave alone on their way: all that the service of an access does, and every other element. -/
def sendFrame (s t : State) (ea : Nat) : Prop := servedFrame s t ∧ ∀ x, x ≠ ea → t.elem x = s.elem x

theorem sendFrame.refl (s : State) (ea : Nat) : sendFrame s s ea := ⟨.refl s, fun _ _ => rfl⟩

theorem sendFrame.trans {s t u : State} {ea : Nat} (h : sendFrame s t ea) (k : sendFrame t u ea) : sendFrame s u ea :=
  ⟨h.1.trans k.1, fun x hx => (k.2 x hx).trans (h.2 x hx)⟩

theorem sendFrame_foldl {β : Type} {ea : Nat} (f : State → β → State) (hf : ∀ s x, sendFrame s (f s x) ea) (l : List β) (s : State) :
    sendFrame s (l.foldl f s) ea :=
  State.foldl_keeps (sendFrame s · ea) f l (fun u x h => h.trans (hf u x)) (.refl s ea)

theorem sendFrame_at (s : State) (ea n : Nat) (i : Instr) : sendFrame s (s.at_ n i) ea := ⟨servedFrame_at .., fun _ _ => rfl⟩

theorem sendFrame_progress (s : State) (ea gn x n : Nat) : sendFrame s (s.progress gn x n) ea :=
  ⟨servedFrame_progress .., fun _ _ => rfl⟩

theorem sendFrame_modOut (s : State) (ea o : Nat) (f : Out → Out) : sendFrame s (s.modOut ea o f) ea :=
  ⟨servedFrame_modOut .., fun _ hx => State.elem_modElem_ne _ _ _ _ hx⟩

theorem sendFrame_joinLink (s : State) (ea t site port vc : Nat) (as : List Arrival) (d : Nat) :
    sendFrame s (s.joinLink t site port vc as d) ea := by
  unfold State.joinLink
  dsimp only
  split
  · exact .refl ..
  · exact ⟨(servedFrame_setRlink ..).trans (servedFrame_at ..), fun _ _ => rfl⟩

theorem sendFrame_forward (s : State) (ea t site port vc : Nat) (as : List Arrival) :
    sendFrame s (s.forward t site port vc as) ea :=
  (sendFrame_foldl _ (fun s _ => sendFrame_at s ..) ..).trans (sendFrame_foldl _ (fun s _ => sendFrame_joinLink s ..) ..)

theorem sendFrame_launchTargets (s : State) (ea : Nat) (g : Group) (t x o epoch : Nat) (r : Route) (w : CWord) :
    sendFrame s (s.launchTargets g t x o epoch r w) ea :=
  (sendFrame_foldl _ (fun s _ => sendFrame_at s ..) ..).trans (sendFrame_forward ..)

theorem sendFrame_enterReady (s : State) (ea o : Nat) (ps : List Place) : sendFrame s (s.enterReady ea o ps) ea := by
  induction ps generalizing s with
  | nil => exact sendFrame_modOut ..
  | cons p ps ih =>
    unfold State.enterReady
    split
    · exact sendFrame_modOut ..
    · exact (((sendFrame_modOut ..).trans (sendFrame_progress ..)).trans (sendFrame_launchTargets ..)).trans (ih _)

theorem sendFrame_fillPlaces (s : State) (ea : Nat) (w : CWord) (ps : List (Nat × Nat)) : sendFrame s (s.fillPlaces ea w ps) ea := by
  induction ps generalizing s with
  | nil => exact .refl ..
  | cons p ps ih => exact (sendFrame_enterReady ..).trans (ih _)

section
variable {s t : State} {ea : Nat} (h : sendFrame s t ea)
include h

theorem sendFrame.sameMemory : sameMemory s t := sameMemory_of h.1.mem h.1.poison h.1.full

theorem sendFrame.sameProgram : sameProgram s t := ⟨h.sameMemory, fun x c => by rw [h.1.ctx]; exact .refl _⟩

end

/-! ## The context of a result (R119, R123) -/

section
variable (c : Ctx) (d : Delivery)

theorem Ctx.land_reg (r : Nat) : (c.land d).reg r = if d.reg = some r then d.value else c.reg r := by
  unfold Ctx.land
  cases d.reg with
  | none => simp [Ctx.reg]
  | some k => simp [Ctx.reg, Ctx.setReg, tget_tput, eq_comm]

theorem Ctx.land_pred : (c.land d).pred = (c.pred &&& ~~~d.predMask) ||| d.predVal := by
  unfold Ctx.land; cases d.reg <;> rfl

theorem Ctx.land_pendPred : (c.land d).pendPred = c.pendPred &&& ~~~d.predMask := by
  unfold Ctx.land; cases d.reg <;> rfl

theorem Ctx.land_flags : (c.land d).flags = c.flags ||| d.flags := by
  unfold Ctx.land; cases d.reg <;> rfl

theorem Ctx.land_fires : (c.land d).fires = c.fires := by
  unfold Ctx.land; cases d.reg <;> rfl

theorem Ctx.land_tag : (c.land d).tag = c.tag := by
  unfold Ctx.land; cases d.reg <;> rfl

/-- The marks of the registers that a result does not write stay. -/
theorem Ctx.land_pendReg {i : Nat} (hi : i < 16) :
    (c.land d).pendReg.getLsbD i = (c.pendReg.getLsbD i && d.reg != some i) := by
  unfold Ctx.land
  cases d.reg with
  | none => simp
  | some k =>
    have hmark : (BitVec.ofNat 16 (2 ^ k)).getLsbD i = decide (k = i) := by
      rw [BitVec.getLsbD_ofNat, Nat.testBit_two_pow, decide_eq_true hi, Bool.true_and]
    rw [BitVec.getLsbD_and, BitVec.getLsbD_not, hmark, decide_eq_true hi, Bool.true_and]
    by_cases hk : k = i <;> simp [hk]

end

/-- A bit of a byte under a mask. -/
theorem getLsbD_and_not (x m : Byte) (i : Nat) : (x &&& ~~~m).getLsbD i = (x.getLsbD i && !m.getLsbD i) := by
  by_cases hi : i < 8
  · rw [BitVec.getLsbD_and, BitVec.getLsbD_not, decide_eq_true hi, Bool.true_and]
  · rw [BitVec.getLsbD_of_ge _ _ (by omega), BitVec.getLsbD_of_ge x _ (by omega), Bool.false_and]

/-- A bit that is written where the mask is set, and added elsewhere. -/
theorem getLsbD_write_masked (x m v : Byte) (i : Nat) :
    ((x &&& ~~~m) ||| v).getLsbD i = if m.getLsbD i then v.getLsbD i else (x.getLsbD i || v.getLsbD i) := by
  rw [BitVec.getLsbD_or, getLsbD_and_not]
  cases m.getLsbD i <;> simp

/-! ## The delivery -/

section
variable {s : State} {d : Delivery}

/-- The state in which a result of this configuration has landed, its words still to be sent. -/
def State.landed (s : State) (d : Delivery) : State := s.modCtx d.ea d.ctx (fun c => c.land d)

theorem exec_resultDelivery (h : d.epoch = (s.elem d.ea).epoch) :
    exec (.resultDelivery d) s = .next ((s.landed d).fillPlaces d.ea d.word d.places) := by
  change execResultDelivery d s = _
  simp only [execResultDelivery, h, beq_self_eq_true, if_true, State.landed]

theorem exec_resultDelivery_stale (h : d.epoch ≠ (s.elem d.ea).epoch) :
    exec (.resultDelivery d) s = .next (s.fillPlaces d.ea d.word d.places) := by
  change execResultDelivery d s = _
  simp only [execResultDelivery, beq_iff_eq, Ne.symm h, if_false]

theorem State.ctx_landed (s : State) (d : Delivery) : (s.landed d).ctx d.ea d.ctx = (s.ctx d.ea d.ctx).land d :=
  State.ctx_modCtx_same ..

theorem State.ctx_landed_ne (s : State) (d : Delivery) {x : Nat} (hx : x ≠ d.ctx) : (s.landed d).ctx d.ea x = s.ctx d.ea x := by
  simp [State.landed, State.modCtx, State.ctx, hx]

theorem State.elem_landed_ne (s : State) (d : Delivery) {x : Nat} (hx : x ≠ d.ea) : (s.landed d).elem x = s.elem x :=
  State.elem_modElem_ne _ _ _ _ hx

end

/-- Settles O24: the result lands, and its words leave everything else alone. -/
theorem resultsLand : Obligations.ResultsLand := by
  unfold Obligations.ResultsLand
  intro s d c
  constructor
  · intro hepoch
    have hsent : sendFrame (s.landed d) ((s.landed d).fillPlaces d.ea d.word d.places) d.ea := sendFrame_fillPlaces ..
    have hctx := (hsent.1.ctx d.ea d.ctx).trans (State.ctx_landed s d)
    refine ⟨_, exec_resultDelivery hepoch, ?_⟩
    dsimp only
    rw [hctx, Ctx.land_pred, Ctx.land_pendPred]
    exact ⟨Ctx.land_reg _ d, getLsbD_write_masked _ _ _, getLsbD_and_not _ _, fun i hi => Ctx.land_pendReg _ d hi, Ctx.land_flags _ d,
      Ctx.land_fires _ d, Ctx.land_tag _ d, fun x hx => (hsent.1.ctx d.ea x).trans (State.ctx_landed_ne s d hx),
      fun x hx => (hsent.2 x hx).trans (State.elem_landed_ne s d hx), (sameMemory_of rfl rfl rfl).trans hsent.sameMemory,
      fun hplaces => by rw [hplaces]; exact ⟨fun x hx => State.elem_landed_ne s d hx, rfl⟩⟩
  · intro hepoch
    exact ⟨_, exec_resultDelivery_stale hepoch, (sendFrame_fillPlaces ..).sameProgram, fun hplaces => by rw [hplaces]; rfl⟩

end Sys2Proof.Machine
end

section
/-! SUPPORT. A link with a word of no virtual channel (R156). Refutes O53. -/

namespace Sys2Proof.Machine

/-- A word at link 0, at input port `port` and of virtual channel `vc`. -/
def waitingWord (port vc : Nat) : Transit := ⟨0, port, vc, 0, [], none⟩

/-- Link 0 is free; a word of port 0 waits there, and at port 1, whose turn it is, a word of the number 4, which no virtual channel has. -/
def linkWithStrayWord : State :=
  { State.reset with links := [(0, { RLink.zero with q := [waitingWord 1 4, waitingWord 0 0], rrPort := 1 })] }

/-- The port whose turn it is has no word of one of its four virtual channels: no word passes, though one waits at port 0. -/
theorem exec_routerArbitration_strayWord :
    exec (.routerArbitration 0) linkWithStrayWord = .next linkWithStrayWord := by
  rfl

/-- Refutes O53: the arbiter of a link takes the next port with a word, whatever the number of the word's virtual channel, and passes none
where that number is above 3; the statement asks for a pass as soon as any port of the link has a word with a number that fits. -/
theorem not_everyFormCompletes : ¬ Obligations.EveryFormCompletes := by
  unfold Obligations.EveryFormCompletes
  intro h
  obtain ⟨-, -, hrouter, -⟩ := h
  obtain ⟨t, ht, -, -, hpasses⟩ := hrouter linkWithStrayWord 0
  obtain rfl : linkWithStrayWord = t := Host.Outcome.next.inj (exec_routerArbitration_strayWord.symm.trans ht)
  have hwaits : ∃ x ∈ (linkWithStrayWord.rlink 0).q, x.ready ≤ linkWithStrayWord.now ∧ x.port < 5 ∧ x.vc < 4 :=
    ⟨waitingWord 0 0, by decide, by decide, by decide, by decide⟩
  exact absurd (hpasses (by decide) hwaits) (by decide)

end Sys2Proof.Machine
end

section
/-! SUPPORT. Words that reach their channels (R148, R161, R162, R164): a word joins the tail of a bound channel, or makes it STRAY.
Settles O25. -/

namespace Sys2Proof.Machine

/-! ## Channels and outputs read after a write -/

theorem Elem.out_setOut_same (e : Elem) (o : Nat) (x : Out) : (e.setOut o x).out o = x := tget_tput_same ..

theorem Elem.out_setOut_ne (e : Elem) {o n : Nat} (x : Out) (h : n ≠ o) : (e.setOut o x).out n = e.out n := tget_tput_ne _ _ _ _ _ h

theorem State.chan_modChan_same (s : State) (ea ch : Nat) (f : Chan → Chan) : (s.modChan ea ch f).chan ea ch = f (s.chan ea ch) := by
  simp [State.chan, State.modChan]

theorem State.chan_modChan_ne (s : State) (ea : Nat) {ch n : Nat} (f : Chan → Chan) (h : n ≠ ch) :
    (s.modChan ea ch f).chan ea n = s.chan ea n := by
  simp [State.chan, State.modChan, h]

theorem State.ctx_modChan (s : State) (ea ch : Nat) (f : Chan → Chan) (x c : Nat) : (s.modChan ea ch f).ctx x c = s.ctx x c :=
  (servedFrame_modElem s ea (fun e => e.setChan ch (f (e.chan ch))) rfl).ctx x c

theorem onlyElem_modElem (s : State) (ea : Nat) (f : Elem → Elem) : onlyElem s (s.modElem ea f) ea :=
  ⟨fun _ hx => State.elem_modElem_ne _ _ _ _ hx, rfl⟩

theorem onlyElem_modChan (s : State) (ea ch : Nat) (f : Chan → Chan) : onlyElem s (s.modChan ea ch f) ea := onlyElem_modElem ..

/-! ## The arrival of a word -/

section
variable {s : State} {a : Arrival}

/-- Both parities of a word fit it (R148). -/
def parityFits (a : Arrival) : Bool := a.dpar == dparOf a.word.data && a.tpar == tparOf a.word

/-- What a channel holds of a word that arrives in cycle `now`: a POISON word where a parity does not fit. -/
def heldWord (a : Arrival) (now : Nat) : QWord :=
  ⟨{ a.word with kind := if parityFits a then a.word.kind else .poison }, a.src, now⟩

/-- The state in which a word whose parity does not fit is logged. -/
def State.parityLogged (s : State) (a : Arrival) : State :=
  if parityFits a then s else s.logTile a.ea 3 2 false (BitVec.ofNat 64 a.ch)

/-- A channel of an element takes words of this kind: it is bound, and a CFG word is one for a channel that takes them (R161, R162). -/
def Elem.takes (e : Elem) (ch : Nat) (k : WKind) : Prop :=
  ((e.chan ch).st = .opened ∨ (e.chan ch).st = .ended ∨ (e.chan ch).st = .drained) ∧
    (k = .cfg → chanCfgin (e.work.chanWord ch) = true)

theorem State.parityLogged_fits (h : parityFits a = true) : s.parityLogged a = s := if_pos h

theorem State.parityLogged_hubs (s : State) (a : Arrival) : s.parityLogged a = { s with hubs := (s.parityLogged a).hubs } := by
  unfold State.parityLogged
  split <;> rfl

theorem State.parityLogged_elems (s : State) (a : Arrival) : (s.parityLogged a).elems = s.elems := by
  rw [State.parityLogged_hubs]

theorem State.parityLogged_elem (s : State) (a : Arrival) (x : Nat) : (s.parityLogged a).elem x = s.elem x := by
  rw [State.elem, State.parityLogged_elems, State.elem]

/-- A word of this side of a splice, where no error is injected: it is queued or stray, by the state of its channel. -/
theorem exec_channelWordArrival (hi : s.injs = []) (he : a.epoch = (s.elem a.ea).wave) :
    exec (.channelWordArrival a) s = .next (
      if (s.chan a.ea a.ch).st == .unbound || (s.chan a.ea a.ch).st == .stray then
        (s.parityLogged a).strayWord a.ea a.ch (heldWord a s.now)
      else if (heldWord a s.now).word.kind == .cfg && !chanCfgin ((s.elem a.ea).work.chanWord a.ch) then
        (s.parityLogged a).strayWord a.ea a.ch (heldWord a s.now)
      else (s.parityLogged a).queueWord a.ea a.ch (heldWord a s.now)) := by
  change execChannelWordArrival a s = _
  have htake : s.takeInj 3 a.ea = (none, s) := by simp [State.takeInj, hi]
  have hbad : (a.dpar != dparOf a.word.data || a.tpar != tparOf a.word || (none : Option Inj).isSome) = !parityFits a := by
    simp [parityFits, bne]
  have hword : (if (!parityFits a) = true then { a.word with kind := .poison } else a.word) = (heldWord a s.now).word := by
    unfold heldWord
    cases parityFits a <;> rfl
  have hlog : (if (!parityFits a) = true then s.logTile a.ea 3 2 (none : Option Inj).isSome (BitVec.ofNat 64 a.ch) else s) =
      s.parityLogged a := by
    unfold State.parityLogged
    cases parityFits a <;> rfl
  simp only [execChannelWordArrival, htake, hbad, hlog, hword, State.parityLogged_elem, he, lt_irrefl, if_false, decide_false,
    Bool.false_or]
  rfl

theorem exec_channelWordArrival_taken (hi : s.injs = []) (he : a.epoch = (s.elem a.ea).wave)
    (h : (s.elem a.ea).takes a.ch (heldWord a s.now).word.kind) :
    exec (.channelWordArrival a) s = .next ((s.parityLogged a).queueWord a.ea a.ch (heldWord a s.now)) := by
  obtain ⟨hbound, htaken⟩ := h
  have hst : ((s.chan a.ea a.ch).st == .unbound || (s.chan a.ea a.ch).st == .stray) = false := by
    rcases hbound with h | h | h <;> rw [State.chan, h] <;> rfl
  have hcfg : ((heldWord a s.now).word.kind == .cfg && !chanCfgin ((s.elem a.ea).work.chanWord a.ch)) = false := by
    simpa using htaken
  rw [exec_channelWordArrival hi he, hst, hcfg]
  rfl

/-- A stray word makes a channel STRAY that was not (R164). -/
theorem State.strayWord_enters (s : State) {ea ch : Nat} (w : QWord) (h : (s.chan ea ch).st ≠ .stray) : s.strayWord ea ch w =
    (s.modChan ea ch (fun c => { c with st := .stray, q := c.q ++ [w] })).raiseGroup (s.groupNo ea) ea ea 0x30 ch w.word.data :=
  if_neg (by simpa using h)

theorem exec_channelWordArrival_stray (hi : s.injs = []) (he : a.epoch = (s.elem a.ea).wave)
    (hst : (s.chan a.ea a.ch).st ≠ .stray) (h : ¬ (s.elem a.ea).takes a.ch (heldWord a s.now).word.kind) :
    exec (.channelWordArrival a) s = .next ((s.parityLogged a).strayWord a.ea a.ch (heldWord a s.now)) := by
  rw [exec_channelWordArrival hi he]
  split
  · rfl
  · rename_i hbound
    split
    · rfl
    · rename_i hcfg
      refine absurd ⟨?_, ?_⟩ h
      · cases hc : (s.chan a.ea a.ch).st <;> simp_all [State.chan]
      · simpa using hcfg

end

/-- Settles O25: a word that its channel takes is queued there, any other makes the channel STRAY. -/
theorem wordsReachTheirChannels : Obligations.WordsReachTheirChannels := by
  unfold Obligations.WordsReachTheirChannels
  intro s a hi he e c sound kind q taken bound
  refine ⟨fun hbound htaken => ⟨_, exec_channelWordArrival_taken hi he ⟨hbound, htaken⟩, ?_⟩, fun hsound hstray => ?_⟩
  · let u := s.parityLogged a
    have hchan (n : Nat) : u.chan a.ea n = s.chan a.ea n := congrArg (Elem.chan · n) (s.parityLogged_elem a a.ea)
    have hctx (n : Nat) : u.ctx a.ea n = s.ctx a.ea n := congrArg (Elem.ctx · n) (s.parityLogged_elem a a.ea)
    have htail : (u.queueWord a.ea a.ch (heldWord a s.now)).chan a.ea a.ch =
        { c with q := c.q ++ [q], st := chanAfterArrival c.st kind } :=
      (State.chan_modChan_same ..).trans (by rw [hchan]; rfl)
    refine ⟨by rw [htail], by rw [htail], ?_, fun n hn => (State.chan_modChan_ne _ _ _ hn).trans (hchan n),
      fun n => (State.ctx_modChan ..).trans (hctx n), fun x hx => ?_, fun hsound => ?_, fun _ => ?_⟩
    · rw [htail]
      cases kind <;> rfl
    · exact ((onlyElem_modChan ..).1 x hx).trans (State.parityLogged_elem ..)
    · rw [State.parityLogged_fits hsound]
      exact onlyElem_modChan ..
    · rw [State.parityLogged_hubs]
      rfl
  · have hst : (s.chan a.ea a.ch).st ≠ .stray := by
      rcases hstray with h | ⟨h | h | h, -⟩ <;> rw [h] <;> decide
    have hnot : ¬ (s.elem a.ea).takes a.ch (heldWord a s.now).word.kind := by
      rintro ⟨hbound, htaken⟩
      rcases hstray with h | ⟨-, h⟩
      · rcases hbound with hb | hb | hb <;> exact absurd (h.symm.trans hb) (by decide)
      · exact h htaken
    rw [exec_channelWordArrival_stray hi he hst hnot, State.parityLogged_fits hsound, State.strayWord_enters _ _ hst]
    rfl

end Sys2Proof.Machine
end

section
/-! SUPPORT. Credits and completion tokens that come back (R158, R226, R232, R334): each changes one output of its element. Settles O26. -/

namespace Sys2Proof.Machine

/-! ## A change of one output -/

/-- Output `o` of element `ea` is now `x`, and nothing else has changed. -/
def onlyOut (s t : State) (ea o : Nat) (x : Out) : Prop :=
  (t.elem ea).out o = x ∧ (∀ n, n ≠ o → (t.elem ea).out n = (s.elem ea).out n) ∧ (∀ c, t.ctx ea c = s.ctx ea c) ∧ onlyElem s t ea

theorem onlyOut_modOut (s : State) (ea o : Nat) (f : Out → Out) : onlyOut s (s.modOut ea o f) ea o (f ((s.elem ea).out o)) := by
  have helem : (s.modOut ea o f).elem ea = (s.elem ea).setOut o (f ((s.elem ea).out o)) := State.elem_modElem_same ..
  refine ⟨?_, fun n hn => ?_, fun c => (servedFrame_modOut ..).ctx ea c, onlyElem_modElem ..⟩ <;> rw [helem]
  · exact Elem.out_setOut_same ..
  · exact Elem.out_setOut_ne _ _ hn

/-! ## The events -/

theorem exec_creditReturn_output (s : State) (ea o i : Nat) :
    exec (.creditReturn (.output ea o i (s.elem ea).epoch)) s =
      .next (s.modOut ea o (fun x => { x with used := tput 0 i (tget 0 i x.used - 1) x.used })) := by
  change Host.Outcome.next (s.creditHome _) = _
  simp only [State.creditHome, beq_self_eq_true, if_true]

theorem exec_creditReturn_barrier (s : State) (tile bar w : Nat) : exec (.creditReturn (.barrier tile bar w)) s = .next s := by
  rfl

theorem exec_requestCreditReturn (s : State) (ea o : Nat) :
    exec (.requestCreditReturn ea o (s.elem ea).epoch) s = .next (s.modOut ea o (fun x => { x with reqUsed := x.reqUsed - 1 })) := by
  change execRequestCreditReturn ea o _ s = _
  simp only [execRequestCreditReturn, beq_self_eq_true, if_true]

theorem exec_orderTokenArrival (s : State) (ea o : Nat) (tag : Byte) (home : Nat) : exec (.orderTokenArrival ea o tag home) s =
    .next (s.modOut ea o (fun x => { x with tokens := x.tokens ++ [(tag, s.now, home)], tokRes := x.tokRes - 1 })) := by
  rfl

/-- The hub of a barrier counts a credit of a waiter's channel that is on its way back (R334). -/
theorem State.tokensOut_creditReturn (s : State) (n k tile bar ea ch : Nat) :
    ({ s with agenda := ⟨n, k, .creditReturn (.barrier tile bar (chanNo ea ch))⟩ :: s.agenda } : State).tokensOut tile bar ea ch =
      s.tokensOut tile bar ea ch + 1 := by
  simp only [State.tokensOut, List.countP_cons, beq_self_eq_true, if_true, State.chan, State.elem]
  omega

/-- Settles O26: each of the three that come back to an element changes one of its outputs; that of a barrier changes its hub's count. -/
theorem creditsAndTokensReturn : Obligations.CreditsAndTokensReturn := by
  unfold Obligations.CreditsAndTokensReturn
  intro s ea o i tile bar w home tag e
  refine ⟨⟨_, exec_creditReturn_output s ea o i, ?_⟩, ⟨⟨s, exec_creditReturn_barrier .., rfl⟩, ?_⟩,
    ⟨_, exec_requestCreditReturn s ea o, onlyOut_modOut ..⟩, ⟨_, exec_orderTokenArrival .., onlyOut_modOut ..⟩⟩
  · obtain ⟨hout, hrest⟩ := onlyOut_modOut s ea o (fun x => { x with used := tput 0 i (tget 0 i x.used - 1) x.used })
    rw [hout]
    exact ⟨tget_tput_same .., fun j hj => tget_tput_ne _ _ _ _ _ hj, hrest⟩
  · rintro ch n rfl
    exact State.tokensOut_creditReturn ..

end Sys2Proof.Machine
end

section
/-! SUPPORT. Router links and banks (R155, R156, R173) and the word of a join (R169): what a link or bank passes that one word or request
waits at, and where it goes from there. Settles O27. -/

namespace Sys2Proof.Machine

/-! ## The only one that waits is chosen -/

theorem find_only {α : Type} {p : α → Bool} {l : List α} {a : α} (ha : a ∈ l) (hp : p a = true) (honly : ∀ x ∈ l, p x = true → x = a) :
    l.find? p = some a := by
  cases h : l.find? p with
  | none => exact absurd hp (List.find?_eq_none.mp h a ha)
  | some x => rw [honly x (List.mem_of_find?_eq_some h) (List.find?_some h)]

/-- The number that is admitted alone has its turn, wherever the round begins. -/
theorem roundRobin_only {n q : Nat} (hq : q < n) (p : Nat) {ok : Nat → Bool} (h : ∀ x, ok x = true ↔ x = q) :
    roundRobin n p ok = some q := by
  refine find_only ?_ ((h q).mpr rfl) (fun x _ hx => (h x).mp hx)
  have hp : p % n < n := Nat.mod_lt _ (by omega)
  have hturn : (p + (q + n - p % n) % n) % n = q := by
    rw [Nat.add_mod_mod, ← Nat.mod_add_mod, show p % n + (q + n - p % n) = q + n by omega, Nat.add_mod_right, Nat.mod_eq_of_lt hq]
  exact List.mem_map.mpr ⟨(q + n - p % n) % n, List.mem_range.mpr (Nat.mod_lt _ (by omega)), hturn⟩

theorem oldestHead_mem {l : List BReq} {r : BReq} (h : oldestHead l = some r) : r ∈ l := by
  induction l generalizing r with
  | nil => cases h
  | cons x xs ih =>
    simp only [oldestHead] at h
    split at h
    · exact Option.some.inj h ▸ .head _
    · rename_i y hy
      split at h
      · exact Option.some.inj h ▸ .tail _ (ih hy)
      · exact Option.some.inj h ▸ .head _

/-! ## Links: frame and queues -/

/-- Links and the agenda alone have changed, and nothing has left the agenda. -/
def linkFrame (s t : State) : Prop := t = { s with links := t.links, agenda := t.agenda } ∧ s.keepsAgenda t

theorem linkFrame.refl (s : State) : linkFrame s s := ⟨rfl, fun _ h => h⟩

theorem linkFrame.trans {s t u : State} (h : linkFrame s t) (k : linkFrame t u) : linkFrame s u := by
  obtain ⟨hst, hag⟩ := h
  obtain ⟨htu, kag⟩ := k
  exact ⟨by rw [htu, hst], hag.trans kag⟩

theorem linkFrame_at (s : State) (n : Nat) (i : Instr) : linkFrame s (s.at_ n i) := ⟨rfl, s.keepsAgenda_at n i⟩

theorem linkFrame_setRlink (s : State) (l : Nat) (x : RLink) : linkFrame s (s.setRlink l x) := ⟨rfl, fun _ h => h⟩

theorem linkFrame_follow (s : State) (n : Nat) (evs : List (Nat × Instr)) : linkFrame s (s.follow n evs) :=
  State.foldl_keeps (linkFrame s) _ evs (fun u _ h => h.trans (linkFrame_at u ..)) (.refl s)

/-- The events that follow something in cycle `n` await their cycles. -/
theorem State.awaits_follow (s : State) (n : Nat) {evs : List (Nat × Instr)} {e : Nat × Instr} (he : e ∈ evs) :
    (s.follow n evs).awaits (n + e.1) e.2 := by
  induction evs generalizing s with
  | nil => cases he
  | cons x xs ih =>
    cases he with
    | head => exact (s.awaits_at _ _).kept (linkFrame_follow _ n xs).2
    | tail _ h => exact ih _ h

/-- The word `w` joins the queue of link `l`, where the arbiter is due when it is there. -/
def State.linkTakes (s : State) (l : Nat) (w : Transit) : State :=
  (s.setRlink l { s.rlink l with q := (s.rlink l).q ++ [w] }).at_ w.ready (.routerArbitration l)

/-- Link `l` has passed the word `x` that waited there alone: nothing waits, and the link is free from the next cycle on. -/
def State.linkPassed (s : State) (l : Nat) (x : Transit) : State :=
  s.setRlink l { s.rlink l with
    q := [], rrPort := (x.port + 1) % 5, rrVc := tput 0 x.port ((x.vc + 1) % 4) (s.rlink l).rrVc, free := s.now + 1 }

theorem linkFrame_linkPassed (s : State) (l : Nat) (x : Transit) : linkFrame s (s.linkPassed l x) := linkFrame_setRlink ..

theorem linkFrame_linkTakes (s : State) (l : Nat) (w : Transit) : linkFrame s (s.linkTakes l w) :=
  (linkFrame_setRlink ..).trans (linkFrame_at ..)

theorem State.mem_linkTakes (s : State) (l : Nat) (w : Transit) : w ∈ ((s.linkTakes l w).rlink l).q := by
  have h : (s.linkTakes l w).rlink l = { s.rlink l with q := (s.rlink l).q ++ [w] } := tget_tput_same ..
  rw [h]
  exact List.mem_append_right _ (.head _)

theorem State.rlink_linkTakes_ne (s : State) {l k : Nat} (w : Transit) (h : k ≠ l) : (s.linkTakes l w).rlink k = s.rlink k :=
  tget_tput_ne _ _ _ _ _ h

/-- The word that a link has passed stands in the queue of its next link; nothing waits at the first. -/
theorem State.linkPassed_linkTakes (s : State) {l k : Nat} (x w : Transit) (h : k ≠ l) :
    let t := (s.linkPassed l x).linkTakes k w
    (t.rlink l).q = [] ∧ (t.rlink l).free = s.now + 1 ∧ w ∈ (t.rlink k).q := by
  have hl : (s.linkPassed l x).rlink l = { s.rlink l with
      q := [], rrPort := (x.port + 1) % 5, rrVc := tput 0 x.port ((x.vc + 1) % 4) (s.rlink l).rrVc, free := s.now + 1 } :=
    tget_tput_same ..
  intro t
  have ht : t.rlink l = _ := (State.rlink_linkTakes_ne _ w h.symm).trans hl
  rw [ht]
  exact ⟨rfl, rfl, State.mem_linkTakes ..⟩

/-! ## Where a word goes from a site -/

theorem nextDir_lt (a b : Nat) : nextDir a b < 4 := by
  unfold nextDir
  repeat' split
  all_goals decide

section
variable {s : State} {t site port vc : Nat}

theorem State.joinLink_other {a : Arrival} {d : Nat} (h : a.ea = site ∨ nextDir site a.ea ≠ d) :
    s.joinLink t site port vc [a] d = s := by
  have hnone : [a].filter (fun a => a.ea != site && nextDir site a.ea == d) = [] := by
    rcases h with h | h <;> simp [h]
  simp only [State.joinLink, hnone, List.isEmpty_nil, if_true]

theorem State.joinLink_next {a : Arrival} {d : Nat} (hsite : a.ea ≠ site) (hd : nextDir site a.ea = d) :
    s.joinLink t site port vc [a] d = s.linkTakes (linkNo site d) ⟨t, port, vc, site, [a], none⟩ := by
  have hall : [a].filter (fun a => a.ea != site && nextDir site a.ea == d) = [a] := by simp [hsite, hd]
  simp only [State.joinLink, hall]
  rfl

/-- A word at the site of its channel goes into it. -/
theorem State.forward_here {a : Arrival} (h : a.ea = site) : s.forward t site port vc [a] = s.at_ t (.channelWordArrival a) := by
  have hhere : [a].filter (fun a => a.ea == site) = [a] := by simp [h]
  simp only [State.forward, hhere, List.foldl_cons, List.foldl_nil, State.joinLink_other (.inl h)]

/-- A word for another site joins the queue of the next link of its route. -/
theorem State.forward_next {a : Arrival} (h : a.ea ≠ site) : s.forward t site port vc [a] =
    s.linkTakes (linkNo site (nextDir site a.ea)) ⟨t, port, vc, site, [a], none⟩ := by
  have hnone : [a].filter (fun a => a.ea == site) = [] := by simp [h]
  have hdir := nextDir_lt site a.ea
  simp only [State.forward, hnone, List.foldl_cons, List.foldl_nil]
  generalize hd : nextDir site a.ea = d at hdir
  have hother (u : State) (k : Nat) (hk : d ≠ k) : u.joinLink t site port vc [a] k = u :=
    State.joinLink_other (.inr (hd ▸ hk))
  have hnext (u : State) : u.joinLink t site port vc [a] d = u.linkTakes (linkNo site d) ⟨t, port, vc, site, [a], none⟩ :=
    State.joinLink_next h hd
  interval_cases d <;> simp [hother, hnext]

theorem linkFrame_parcelWaits (p : Parcel) : linkFrame s (s.parcelWaits t site port vc p) := linkFrame_linkTakes ..

theorem linkFrame_parcelOn (more : List (Nat × List (Nat × Instr))) : linkFrame s (s.parcelOn t site vc more) := by
  induction more generalizing s with
  | nil => exact .refl s
  | cons x more ih =>
    unfold State.parcelOn
    split
    · exact (linkFrame_follow ..).trans ih
    · exact linkFrame_parcelWaits ..

/-- A parcel at its target is followed by its events, and goes on. -/
theorem State.passParcel_here {p : Parcel} (h : p.dst = site) :
    s.passParcel t site port vc p = (s.follow t p.evs).parcelOn t site vc p.more :=
  if_pos (beq_iff_eq.mpr h.symm)

/-- A parcel for another site joins the queue of the next link of its way. -/
theorem State.passParcel_next {p : Parcel} (h : p.dst ≠ site) : s.passParcel t site port vc p =
    s.linkTakes (linkNo site (nextDir site p.dst)) ⟨t, port, vc, site, [], some p⟩ :=
  if_neg (by simpa using h.symm)

/-- A parcel that goes on to another site joins the queue of the next link of that way. -/
theorem State.parcelOn_next {d : Nat} {evs : List (Nat × Instr)} {more : List (Nat × List (Nat × Instr))} (h : d ≠ site) :
    s.parcelOn t site vc ((d, evs) :: more) =
      s.linkTakes (linkNo site (nextDir site d)) ⟨t, 4, vc, site, [], some ⟨d, evs, more⟩⟩ :=
  if_neg (by simpa using h.symm)

theorem linkFrame_passParcel (p : Parcel) : linkFrame s (s.passParcel t site port vc p) := by
  by_cases h : p.dst = site
  · rw [State.passParcel_here h]
    exact (linkFrame_follow ..).trans (linkFrame_parcelOn ..)
  · rw [State.passParcel_next h]
    exact linkFrame_linkTakes ..

theorem linkFrame_forward (a : Arrival) : linkFrame s (s.forward t site port vc [a]) := by
  by_cases h : a.ea = site
  · rw [State.forward_here h]
    exact linkFrame_at ..
  · rw [State.forward_next h]
    exact linkFrame_linkTakes ..

end

/-! ## The arbiter of a link -/

/-- The word `x` that has reached site `site` in cycle `t` by input port `port` goes on. -/
def State.wordOn (s : State) (t site port : Nat) (x : Transit) : State :=
  match x.parcel with
  | none => s.forward t site port x.vc x.arrs
  | some p => s.passParcel t site port x.vc p

theorem State.wordOn_arrivals {s : State} {t site port : Nat} {x : Transit} (h : x.parcel = none) :
    s.wordOn t site port x = s.forward t site port x.vc x.arrs := by
  simp only [State.wordOn, h]

theorem State.wordOn_parcel {s : State} {t site port : Nat} {x : Transit} {p : Parcel} (h : x.parcel = some p) :
    s.wordOn t site port x = s.passParcel t site port x.vc p := by
  simp only [State.wordOn, h]

/-- A word that waits alone passes its link, and goes on from the next site. -/
theorem exec_routerArbitration_only {s : State} {l : Nat} {x : Transit} (hfree : (s.rlink l).free ≤ s.now)
    (hq : (s.rlink l).q = [x]) (hready : x.ready ≤ s.now) (hport : x.port < 5) (hvc : x.vc < 4) :
    exec (.routerArbitration l) s = .next ((s.linkPassed l x).wordOn (s.now + linkCost x.at_ (stepSite x.at_ (l % 4)))
      (stepSite x.at_ (l % 4)) (entryPort (l % 4)) x) := by
  change execRouterArbitration l s = _
  have hhere : [x].filter (fun t => decide (t.ready ≤ s.now)) = [x] := by simp [hready]
  have hp : roundRobin 5 (s.rlink l).rrPort (fun p => [x].any (fun t => t.port == p)) = some x.port :=
    roundRobin_only hport _ (fun p => by simpa using eq_comm)
  have hv : roundRobin 4 (tget 0 x.port (s.rlink l).rrVc) (fun v => [x].any (fun t => t.port == x.port && t.vc == v)) = some x.vc :=
    roundRobin_only hvc _ (fun v => by simpa using eq_comm)
  have hx : [x].find? (fun t => t.port == x.port && t.vc == x.vc) = some x := by simp
  simp only [execRouterArbitration, Nat.not_lt.mpr hfree, if_false, hq, hhere, hp, hv, hx, List.erase_cons_head, List.isEmpty_nil,
    if_true]
  rfl

/-! ## Banks -/

section
variable {s : State} {n : Nat} {r : BReq}

/-- The queues of a bank whose only request is `r` have the one head `r`. -/
theorem Bank.mem_heads_only {b : Bank} {ports : Nat} (hq : b.q = [r]) (hport : r.port < ports) (x : BReq) :
    x ∈ b.heads ports ↔ x = r := by
  simp only [Bank.heads, hq, List.mem_filterMap, List.mem_range, List.find?_singleton]
  constructor
  · rintro ⟨p, -, hx⟩
    split at hx
    · exact (Option.some.inj hx).symm
    · cases hx
  · rintro rfl
    exact ⟨x.port, hport, by simp⟩

/-- A bank serves the request that waits alone. -/
theorem exec_bankService_only (hfree : (s.bank n).free ≤ s.now) (hq : (s.bank n).q = [r]) (hport : r.port < bankPorts n) :
    exec (.bankService n) s =
      .next ((s.setBank n ⟨[], (r.port + 1) % bankPorts n, s.now + 1⟩).at_ s.now r.instr) := by
  change execBankService n s = _
  have hheads := Bank.mem_heads_only hq hport
  have hany (p : Nat) : ((s.bank n).heads (bankPorts n)).any (fun x => x.port == p) = true ↔ p = r.port := by
    simpa [hheads] using eq_comm
  have hturn : execBankService.roundRobin (bankPorts n) (s.bank n).rr
      (fun p => ((s.bank n).heads (bankPorts n)).any (fun x => x.port == p)) = some r.port := roundRobin_only hport _ hany
  have hfind : ((s.bank n).heads (bankPorts n)).find? (fun x => x.port == r.port) = some r :=
    find_only ((hheads r).mpr rfl) (by simp) (fun x hx _ => (hheads x).mp hx)
  have herase : (s.bank n).q.erase r = [] := by rw [hq, List.erase_cons_head]
  simp only [execBankService, Nat.not_lt.mpr hfree, if_false]
  cases hold : oldestHead (((s.bank n).heads (bankPorts n)).filter (fun r => decide (s.now - r.headAt ≥ 32))) with
  | none =>
    simp only [hturn, hfind, herase]
    rfl
  | some x =>
    obtain rfl : x = r := (hheads x).mp (List.mem_of_mem_filter (oldestHead_mem hold))
    simp only [herase]
    rfl

end

/-! ## The word of a join -/

theorem exec_joinWordEntry_only {s : State} {ea : Nat} {j : Join} (h : (s.elem ea).joins = [j]) :
    exec (.joinWordEntry ea j.ctx j.id) s =
      .next ((s.modElem ea (fun e => { e with joins := [] })).fillPlaces ea ⟨0, j.tag, .data⟩ j.places) := by
  change execJoinWordEntry ea j.ctx j.id s = _
  have hfind : [j].find? (fun k => k.id == j.id && k.ctx == j.ctx) = some j := by simp
  have hrest : s.modElem ea (fun e => { e with joins := e.joins.filter (fun k => k.id != j.id) }) =
      s.modElem ea (fun e => { e with joins := [] }) := by simp [State.modElem, h]
  simp only [execJoinWordEntry, h, hfind, hrest]

/-- Settles O27: the word, request or join that waits alone is the one chosen, and goes where its route says. -/
theorem linksAndBanksServeOneAtATime : Obligations.LinksAndBanksServeOneAtATime := by
  unfold Obligations.LinksAndBanksServeOneAtATime
  intro s
  refine ⟨?word, ?parcel, ?bank, fun ea j h => ⟨_, exec_joinWordEntry_only h, rfl⟩⟩
  case word =>
    intro l x a hfree hq hready hport hvc harrs hparcel nxt
    have hexec := exec_routerArbitration_only hfree hq hready hport hvc
    rw [State.wordOn_arrivals hparcel, harrs] at hexec
    refine ⟨_, hexec, fun hhere => ?_, fun haway _ hlink => ?_, (linkFrame_linkPassed s l x).trans (linkFrame_forward ..)⟩
    · rw [State.forward_here hhere]
      exact State.awaits_at ..
    · rw [State.forward_next haway]
      obtain ⟨hempty, hnext, hmem⟩ := s.linkPassed_linkTakes x
        ⟨s.now + linkCost x.at_ nxt, entryPort (l % 4), x.vc, nxt, [a], none⟩ hlink
      exact ⟨hempty, hnext, _, hmem, rfl, rfl, rfl, rfl⟩
  case parcel =>
    intro l x p hfree hq hready hport hvc hparcel nxt
    have hexec := exec_routerArbitration_only hfree hq hready hport hvc
    rw [State.wordOn_parcel hparcel] at hexec
    refine ⟨_, hexec, fun hhere e he => ?_, fun haway hlink => ?_, fun d evs more hhere hmore haway _ => ?_,
      (linkFrame_linkPassed s l x).trans (linkFrame_passParcel ..)⟩
    · rw [State.passParcel_here hhere]
      exact (State.awaits_follow _ _ he).kept (linkFrame_parcelOn ..).2
    · rw [State.passParcel_next haway]
      obtain ⟨hempty, hnext, hmem⟩ := s.linkPassed_linkTakes x
        ⟨s.now + linkCost x.at_ nxt, entryPort (l % 4), x.vc, nxt, [], some p⟩ hlink
      exact ⟨hempty, hnext, _, hmem, rfl, rfl, rfl, rfl⟩
    · rw [State.passParcel_here hhere, hmore, State.parcelOn_next haway]
      exact ⟨_, State.mem_linkTakes .., rfl, rfl, rfl, rfl⟩
  case bank =>
    intro n r hfree hq hport
    let b : Bank := ⟨[], (r.port + 1) % bankPorts n, s.now + 1⟩
    have hbank : ((s.setBank n b).at_ s.now r.instr).bank n = b := tget_tput_same ..
    refine ⟨_, exec_bankService_only hfree hq hport, State.awaits_at .., ?_, ?_, fun k hk => tget_tput_ne _ _ _ _ _ hk, rfl,
      (s.setBank n b).keepsAgenda_at _ _⟩ <;> rw [hbank]

end Sys2Proof.Machine
end

section
/-! SUPPORT. A firing's effect on its own element, beside what every firing does: what it leaves alone, and the results that it
promises or sends (R86, R91, R119). -/

namespace Sys2Proof.Machine

/-! ## Effects on the firing's own element -/

/-- The firing of `f` is counted; the frame of its element holds, and what programs read of the element's contexts is as before. -/
def countedFrame (s t : State) (cu : Cursor) (f : SlotF) : Prop :=
  s.counts t cu f ∧ elemFrame s t cu.ea ∧ ∀ c, sameCtx (s.ctx cu.ea c) (t.ctx cu.ea c)

/-- A change of the firing's own element that counts and pops nothing, and that no program reads in a context. -/
def ownEffect (t u : State) (cu : Cursor) : Prop :=
  elemFrame t u cu.ea ∧ (∀ c, sameCtx (t.ctx cu.ea c) (u.ctx cu.ea c)) ∧ stays t u cu

theorem ownEffect.trans {t u v : State} {cu : Cursor} (h : ownEffect t u cu) (k : ownEffect u v cu) : ownEffect t v cu := by
  obtain ⟨hframe, hctx, hstays⟩ := h
  obtain ⟨kframe, kctx, kstays⟩ := k
  exact ⟨hframe.trans kframe, fun c => (hctx c).trans (kctx c), hstays.trans kstays⟩

theorem fireFrame.ownEffect {t u : State} {cu : Cursor} (h : fireFrame t u cu) (k : stays t u cu) : ownEffect t u cu := by
  obtain ⟨hframe, -, hctx⟩ := h
  exact ⟨hframe, hctx, k⟩

theorem ownEffect_at (t : State) (cu : Cursor) (n : Nat) (i : Instr) : ownEffect t (t.at_ n i) cu :=
  (fireFrame_at ..).ownEffect (stays_of rfl)

theorem ownEffect_after (t : State) (cu : Cursor) (n : Nat) (i : Instr) : ownEffect t (t.after n i) cu := ownEffect_at ..

/-- A change of the element that leaves its contexts, its counters and its channels alone. -/
theorem ownEffect_modElem (t : State) (cu : Cursor) (g : Elem → Elem) (hctxs : (g (t.elem cu.ea)).ctxs = (t.elem cu.ea).ctxs)
    (hptr : (g (t.elem cu.ea)).ptr = (t.elem cu.ea).ptr) (hfires : (g (t.elem cu.ea)).slotFires = (t.elem cu.ea).slotFires)
    (hchans : (g (t.elem cu.ea)).chans = (t.elem cu.ea).chans) : ownEffect t (t.modElem cu.ea g) cu := by
  have hctx : ∀ c, (t.modElem cu.ea g).ctx cu.ea c = t.ctx cu.ea c := fun c => by simp [State.ctx, Elem.ctx, hctxs]
  refine ⟨elemFrame_modElem t cu.ea g, fun c => hctx c ▸ .refl _, fun c => by rw [hctx], ?_, ?_, fun c => ?_⟩
  · simpa using hptr
  · simpa using hfires
  · simp [State.chan, Elem.chan, hchans]

/-- A change of the firing's context in nothing that is counted or that programs read. -/
theorem ownEffect_modCtx (t : State) (cu : Cursor) (g : Ctx → Ctx) (h : sameCtx (t.ctx cu.ea cu.ctx) (g (t.ctx cu.ea cu.ctx)))
    (hfires : (g (t.ctx cu.ea cu.ctx)).fires = (t.ctx cu.ea cu.ctx).fires) : ownEffect t (t.modCtx cu.ea cu.ctx g) cu := by
  refine (fireFrame_modCtx t cu g h).ownEffect ⟨fun c => ?_, ?_, ?_, fun c => ?_⟩
  · by_cases hc : c = cu.ctx
    · rw [hc, State.ctx_modCtx_same, hfires]
    · rw [State.ctx_modCtx_ne t cu.ea g hc]
  · simp [State.modCtx, Elem.setCtx]
  · simp [State.modCtx, Elem.setCtx]
  · simp [State.modCtx, State.chan, Elem.chan, Elem.setCtx]

theorem ownEffect_modOut (t : State) (cu : Cursor) (o : Nat) (g : Out → Out) : ownEffect t (t.modOut cu.ea o g) cu :=
  ownEffect_modElem t cu (fun e => e.setOut o (g (e.out o))) rfl rfl rfl rfl

theorem ownEffect_modGen (t : State) (cu : Cursor) (g : Nat) (h : Gen → Gen) : ownEffect t (t.modGen cu.ea g h) cu :=
  ownEffect_modElem t cu (fun e => { e with gens := tput .zero g (h (e.gen g)) e.gens }) rfl rfl rfl rfl

theorem ownEffect_deliver (t : State) (cu : Cursor) (f : SlotF) (d : BitVec 5) (lat : Nat) (v : Word) (k : WKind) (tag : Byte)
    (fl : FlagSet) : ownEffect t (t.deliver cu f d lat v k tag fl) cu :=
  (fireFrame_deliver ..).ownEffect (stays_deliver ..)

section
variable {s t u : State} {cu : Cursor} {f : SlotF}

theorem countedFrame.own (h : countedFrame s t cu f) (k : ownEffect t u cu) : countedFrame s u cu f := by
  obtain ⟨hcounts, hframe, hctx⟩ := h
  obtain ⟨kframe, kctx, kstays⟩ := k
  exact ⟨State.counts_stays hcounts kstays, hframe.trans kframe, fun c => (hctx c).trans (kctx c)⟩

theorem countedFrame.now (h : countedFrame s t cu f) : t.now = s.now := by rw [h.2.1.2.2.2.1]

theorem countedFrame.links (h : countedFrame s t cu f) : t.links = s.links := by rw [h.2.1.2.2.2.1]

theorem countedFrame.group (h : countedFrame s t cu f) (n : Nat) : sameGroup (s.group n) (t.group n) := h.2.1.2.2.1 n

end

theorem countedFrame_fired (s : State) (cu : Cursor) (f : SlotF) (fl : FlagSet) : countedFrame s (s.fired cu f fl) cu f := by
  obtain ⟨hframe, -, hctx⟩ := fireFrame_fired s cu f fl
  exact ⟨counts_fired .., hframe, hctx⟩

/-- The common part of a firing whose request has taken the next number: it changes of its element what a firing changes. -/
theorem fireFrame_bump_fired (s : State) (cu : Cursor) (f : SlotF) (fl : FlagSet) : fireFrame s (s.bump.fired cu f fl) cu :=
  fireFrame.trans ⟨elemFrame_bump s cu.ea, rfl, fun _ => .refl _⟩ (fireFrame_fired ..)

theorem countedFrame_bump_fired (s : State) (cu : Cursor) (f : SlotF) (fl : FlagSet) : countedFrame s (s.bump.fired cu f fl) cu f := by
  obtain ⟨hframe, -, hctx⟩ := fireFrame_bump_fired s cu f fl
  exact ⟨counts_fired s.bump cu f fl, hframe, hctx⟩

/-! ## What a firing leaves of its element -/

section
variable {s t : State} {cu : Cursor} (h : fireFrame s t cu)
include h

theorem fireFrame.work : (t.elem cu.ea).work = (s.elem cu.ea).work := by rw [h.2.1]
theorem fireFrame.handles : (t.elem cu.ea).handles = (s.elem cu.ea).handles := by rw [h.2.1]
theorem fireFrame.ssts : (t.elem cu.ea).ssts = (s.elem cu.ea).ssts := by rw [h.2.1]
theorem fireFrame.ttab : (t.elem cu.ea).ttab = (s.elem cu.ea).ttab := by rw [h.2.1]

end

/-! ## Results that come later (R86) -/

theorem ownEffect_promise (t : State) (cu : Cursor) (f : SlotF) (tag : Byte) : ownEffect t (t.promise cu f tag).1 cu :=
  ((fireFrame_reserveAll t cu (destOuts f f.da)).ownEffect (stays_reserveAll ..)).trans
    (ownEffect_modCtx _ cu _ ⟨rfl, rfl, rfl, rfl, rfl, rfl, rfl⟩ rfl)

/-- The delivery will fill the register, the predicates and the outputs that DA names, for the firing's context. -/
def promisedTo (d : Delivery) (cu : Cursor) (f : SlotF) : Prop :=
  d.ea = cu.ea ∧ d.ctx = cu.ctx ∧ d.reg = destReg f.da ∧ d.predMask = destPreds f.da ∧ d.places.map (·.1) = destOuts f f.da

theorem promisedTo_promise (t : State) (cu : Cursor) (f : SlotF) (tag : Byte) : promisedTo (t.promise cu f tag).2 cu f :=
  ⟨rfl, rfl, rfl, rfl, reserveAll_places ..⟩

/-- A result is on its way also after the firing has changed more of its element than its outputs. -/
theorem delivers_deliver_of {s t : State} {cu : Cursor} (hnow : t.now = s.now)
    (hepoch : (t.elem cu.ea).epoch = (s.elem cu.ea).epoch) (f : SlotF) (d : BitVec 5) (lat : Nat) (v : Word) (k : WKind)
    (fl : FlagSet) : s.delivers (t.deliver cu f d lat v k (sentTag s cu f) fl) cu f d lat v k fl := by
  have hreserved := fireFrame_reserveAll t cu (destOuts f d)
  have sent : ∀ u, fireFrame t u cu → s.delivers (u.after lat (.resultDelivery { Delivery.none u cu with
      reg := destReg d, value := v, predMask := destPreds d, predVal := destPredVal d v,
      places := (t.reserveAll cu.ea (destOuts f d)).2, word := ⟨v, sentTag s cu f, k⟩, flags := fl })) cu f d lat v k fl := by
    intro u hu
    rw [State.delivers, ← hnow, ← hu.now]
    exact ⟨_, State.awaits_at .., rfl, rfl, rfl, rfl, rfl, rfl, rfl, reserveAll_places .., rfl, hu.epoch.trans hepoch⟩
  unfold State.deliver
  dsimp only
  split
  · exact sent _ (hreserved.trans (fireFrame_markPending ..))
  · exact sent _ hreserved

end Sys2Proof.Machine
end

section
/-! SUPPORT. Local loads, stores and atomics of an SE, and reads of a held handle (R184, R187, R201). Settles O16. -/

namespace Sys2Proof.Machine

/-! ## sld, sst and samo (R184) -/

/-- The request of a local access whose operands are `a` and `b`. -/
def localAccess (s : State) (cu : Cursor) (f : SlotF) (acc : Acc) : MReq :=
  { localReq s cu acc ((readSource s cu f f.sa).val.toNat + locOff f.lit) (locSz f.lit) with
    sx := locSx f.lit, aop := locAop f.lit, v1 := (readSource s cu f f.sb).val }

/-- The sst numbered `id` is one that the commits of its SE await (R186). -/
def State.sstPending (t : State) (ea id : Nat) : State := t.modElem ea (fun e => { e with ssts := e.ssts ++ [id] })

theorem State.ssts_sstPending (t : State) (ea id : Nat) : ((t.sstPending ea id).elem ea).ssts = (t.elem ea).ssts ++ [id] := by
  rw [State.sstPending, State.elem_modElem_same]

theorem ownEffect_sstPending (t : State) (cu : Cursor) (id : Nat) : ownEffect t (t.sstPending cu.ea id) cu :=
  ownEffect_modElem _ _ _ rfl rfl rfl rfl

section
variable {s : State} {cu : Cursor} {f : SlotF} (h : s.goes cu f) {acc : Acc}
include h

theorem State.fireLocal_fault {code : Nat} {aux : Word}
    (hbad : locFault (s.elem cu.ea) acc f.lit (readSource s cu f f.sa).val = some (code, aux)) :
    s.fireLocal f acc = s.raiseSync cu code 0 aux := by
  simp [State.fireLocal, h.1, goes_operands h, aluIn, hbad]

theorem State.fireLocal_store (hok : locFault (s.elem cu.ea) .st f.lit (readSource s cu f f.sa).val = none) :
    s.fireLocal f .st = ((s.bump.fired cu f (sourceFlags s cu f)).sstPending cu.ea (localAccess s cu f .st).id).after 4
      (.requestPerform (localAccess s cu f .st)) := by
  simp [State.fireLocal, h.1, goes_operands h, aluIn, hok, localAccess, State.fired, State.sstPending]

/-- A local access that answers sets out with the delivery of its result. -/
theorem State.fireLocal_load (hacc : acc ≠ .st)
    (hok : locFault (s.elem cu.ea) acc f.lit (readSource s cu f f.sa).val = none) :
    let x := (s.bump.fired cu f (sourceFlags s cu f)).promise cu f (sentTag s cu f)
    s.fireLocal f acc = x.1.after 4 (.requestPerform { localAccess s cu f acc with dlv := some x.2 }) := by
  simp [State.fireLocal, h.1, goes_operands h, aluIn, hok, hacc, localAccess, State.fired]

end

/-- A firing that promises its result and sets out `n` cycles later with a request that takes the delivery along. -/
theorem promised_setsOut {s u : State} {cu : Cursor} {f : SlotF} (h : countedFrame s u cu f) (tag : Byte) (n : Nat) (r : MReq) :
    let x := u.promise cu f tag
    let t := x.1.after n (.requestPerform { r with dlv := some x.2 })
    countedFrame s t cu f ∧ t.awaits (s.now + n) (.requestPerform { r with dlv := some x.2 }) ∧ promisedTo x.2 cu f := by
  intro x t
  have hpromised : countedFrame s x.1 cu f := h.own (ownEffect_promise ..)
  refine ⟨hpromised.own (ownEffect_after ..), ?_, promisedTo_promise ..⟩
  rw [← hpromised.now]
  exact State.awaits_at ..

/-- An access that answers reaches its bank from t + 4 on. -/
theorem State.fireLocal_load_setsOut {s : State} {cu : Cursor} {f : SlotF} (h : s.goes cu f) {acc : Acc} (hacc : acc ≠ .st)
    (hok : locFault (s.elem cu.ea) acc f.lit (readSource s cu f f.sa).val = none) :
    ∃ d, countedFrame s (s.fireLocal f acc) cu f ∧
      (s.fireLocal f acc).awaits (s.now + 4) (.requestPerform { localAccess s cu f acc with dlv := some d }) ∧ promisedTo d cu f := by
  rw [State.fireLocal_load h hacc hok]
  exact ⟨_, promised_setsOut (countedFrame_bump_fired ..) ..⟩

/-- A store reaches its bank from t + 4 on, and is one that commits await. -/
theorem State.fireLocal_store_setsOut {s : State} {cu : Cursor} {f : SlotF} (h : s.goes cu f)
    (hok : locFault (s.elem cu.ea) .st f.lit (readSource s cu f f.sa).val = none) :
    countedFrame s (s.fireLocal f .st) cu f ∧
      (s.fireLocal f .st).awaits (s.now + 4) (.requestPerform (localAccess s cu f .st)) ∧
      ((s.fireLocal f .st).elem cu.ea).ssts = (s.elem cu.ea).ssts ++ [(localAccess s cu f .st).id] := by
  rw [State.fireLocal_store h hok]
  have hpending := (countedFrame_bump_fired s cu f (sourceFlags s cu f)).own (ownEffect_sstPending _ cu (localAccess s cu f .st).id)
  refine ⟨hpending.own (ownEffect_after ..), ?_, ?_⟩
  · rw [← hpending.now]
    exact State.awaits_at ..
  · rw [← (fireFrame_bump_fired s cu f (sourceFlags s cu f)).ssts]
    exact State.ssts_sstPending ..

/-! ## hread (R187) -/

/-- The handle that source A names (R178). -/
def namedHandle (s : State) (cu : Cursor) (f : SlotF) : Nat := (readSource s cu f f.sa).val.toNat % 64

/-- The request of a read of the handle whose buffer holds `o` at the local address `pa`. -/
def handleRead (s : State) (cu : Cursor) (o : Word) (pa : Nat) (inSe : Bool) : MReq :=
  { localReq s cu .ld 0 3 with addr := o, pa := pa, endp := if inSe then 0x80 else 0x81 }

section
variable {s : State} {cu : Cursor} {f : SlotF} (h : s.goes cu f)
include h

theorem exec_hread_notHeld (hheld : handleHeld (s.elem cu.ea) (namedHandle s cu f) [.filling, .draining] true = false) :
    exec (.hread f) s = .next (s.raiseSync cu 0x22 0 ((s.elem cu.ea).handleWord (namedHandle s cu f))) := by
  unfold namedHandle at *
  change execHread f s = _
  simp [execHread, h.1, goes_operands h, aluIn, hheld]

variable (hheld : handleHeld (s.elem cu.ea) (namedHandle s cu f) [.filling, .draining] true = true)
  (halign : (readSource s cu f f.sb).val.toNat % 8 = 0)
  (hin : (readSource s cu f f.sb).val.toNat + 8 ≤ (hrSizeM1 ((s.elem cu.ea).work.handle (namedHandle s cu f)) + 1) * 64)
include hheld halign hin

theorem exec_hread_noPart (hpa : s.handleAddr cu.ea (namedHandle s cu f) (readSource s cu f f.sb).val.toNat = none) :
    exec (.hread f) s = .next (s.raiseSync cu 0x12 0 (BitVec.ofNat 64
      (hrBase ((s.elem cu.ea).work.handle (namedHandle s cu f)) * 64 + (readSource s cu f f.sb).val.toNat))) := by
  unfold namedHandle at *
  change execHread f s = _
  simp [execHread, h.1, goes_operands h, aluIn, hheld, halign, Nat.not_lt.mpr hin, hpa]

theorem exec_hread_reads {pa : Nat}
    (hpa : s.handleAddr cu.ea (namedHandle s cu f) (readSource s cu f f.sb).val.toNat = some pa) :
    let x := (s.bump.fired cu f (sourceFlags s cu f)).promise cu f (sentTag s cu f)
    let loc := hrLoc ((s.elem cu.ea).work.handle (namedHandle s cu f))
    exec (.hread f) s = .next (x.1.after (if loc = 0 then 4 else 10)
      (.requestPerform { handleRead s cu (readSource s cu f f.sb).val pa (loc == 0) with dlv := some x.2 })) := by
  unfold namedHandle at *
  change execHread f s = _
  simp [execHread, h.1, goes_operands h, aluIn, hheld, halign, Nat.not_lt.mpr hin, hpa, handleRead, State.fired]

end

/-- Settles O16: an access without a fault sets out with its request, any other is its fault; so is a read of a handle. -/
theorem localAccesses : Obligations.LocalAccesses := by
  unfold Obligations.LocalAccesses
  intro s cu f h e a b hn hr req goesOut promised
  have answers {i : Instr} {acc : Acc} (hi : exec i s = .next (s.fireLocal f acc)) (hacc : acc ≠ .st)
      (hok : locFault e acc f.lit a = none) :
      ∃ t d, exec i s = .next t ∧ goesOut t 4 { req acc with dlv := some d } ∧ promised d := by
    obtain ⟨d, ⟨hcounts, hframe, hctx⟩, hawaits, hd⟩ := State.fireLocal_load_setsOut h hacc hok
    exact ⟨_, d, hi, ⟨hcounts, hframe, hctx, hawaits⟩, hd⟩
  have faults {i : Instr} {acc : Acc} (hi : exec i s = .next (s.fireLocal f acc)) (code : Nat) (aux : Word)
      (hbad : locFault e acc f.lit a = some (code, aux)) : exec i s = .next (s.raiseSync cu code 0 aux) := by
    rw [hi, State.fireLocal_fault h hbad]
  refine ⟨answers rfl nofun, answers rfl nofun, fun hok => ?_, faults rfl, faults rfl, faults rfl, exec_hread_notHeld h,
    fun hheld halign hin => ⟨fun pa hpa => ?_, exec_hread_noPart h hheld halign hin⟩⟩
  · obtain ⟨⟨hcounts, hframe, hctx⟩, hawaits, hssts⟩ := State.fireLocal_store_setsOut h hok
    exact ⟨_, rfl, ⟨hcounts, hframe, hctx, hawaits⟩, hssts⟩
  · obtain ⟨⟨hcounts, hframe, hctx⟩, hawaits, hd⟩ := promised_setsOut (countedFrame_bump_fired s cu f (sourceFlags s cu f))
      (sentTag s cu f) (if hrLoc hr = 0 then 4 else 10) (handleRead s cu b pa (hrLoc hr == 0))
    exact ⟨_, _, _, exec_hread_reads h hheld halign hin hpa, ⟨hcounts, hframe, hctx, hawaits⟩, rfl, hd, rfl, rfl, rfl⟩

end Sys2Proof.Machine
end

section
/-! SUPPORT. A request that goes by way of its tile hub to its owning slice (R155, R156, R301), and spill and fill (R191). Settles O15. -/

namespace Sys2Proof.Machine

/-! ## Words that go on at their hub (R156, R301) -/

theorem wordJoins_linkTakes (s : State) (n a b vc : Nat) (evs : List (Nat × Instr)) (more : List (Nat × List (Nat × Instr))) :
    wordJoins s (s.linkTakes (linkNo a (nextDir a b)) ⟨n, 4, vc, a, [], some ⟨b, evs, more⟩⟩) n a b evs more :=
  ⟨State.awaits_at .., fun _ hk => State.rlink_linkTakes_ne s _ hk, _, tget_tput_same .., rfl, rfl, rfl, rfl⟩

theorem wordJoins.of_links {s u t : State} {n a b : Nat} {evs : List (Nat × Instr)} {more : List (Nat × List (Nat × Instr))}
    (hl : u.links = s.links) (h : wordJoins u t n a b evs more) : wordJoins s t n a b evs more := by
  simpa only [wordJoins, State.rlink, hl] using h

theorem wordGoesOn.of_links {s u t : State} {n a b c : Nat} {evs : List (Nat × Instr)} {i : Instr} (hl : u.links = s.links)
    (h : wordGoesOn u t n a b c evs i) : wordGoesOn s t n a b c evs i := by
  simpa only [wordGoesOn, wordJoins, State.rlink, hl] using h

theorem State.links_follow (s : State) (n : Nat) (evs : List (Nat × Instr)) : (s.follow n evs).links = s.links := by
  unfold State.follow
  exact State.foldl_keeps (fun u => u.links = s.links) _ evs (fun _ _ h => h) rfl

/-- A word that stands at its hub goes on towards another site. -/
theorem State.sendTwice_here {s : State} {n b c : Nat} {evs evs' : List (Nat × Instr)} :
    s.sendTwice n b b evs c evs' = (s.follow (n + 1) evs).parcelOn (n + 1) b 0 [(c, evs')] := by
  simp [State.sendTwice, hops]

theorem State.sendTwice_next {s : State} {n a b c : Nat} {evs evs' : List (Nat × Instr)} (h : a ≠ b) :
    s.sendTwice n a b evs c evs' =
      s.linkTakes (linkNo a (nextDir a b)) ⟨n, 4, 0, a, [], some ⟨b, evs, [(c, evs')]⟩⟩ := by
  rw [State.sendTwice, if_neg (by simpa using h), State.passParcel_next h.symm]

theorem State.parcelOn_here (s : State) (n b vc : Nat) (evs : List (Nat × Instr)) :
    s.parcelOn n b vc [(b, evs)] = s.follow n evs := by
  simp [State.parcelOn]

/-- A word of two ways sets out. -/
theorem wordGoesOn_sendTwice (s : State) (n a b c : Nat) (evs : List (Nat × Instr)) (i : Instr) :
    wordGoesOn s (s.sendTwice n a b evs c [(0, i)]) n a b c evs i := by
  refine ⟨fun hab => ?_, ?_⟩
  · rw [State.sendTwice_next hab]
    exact wordJoins_linkTakes ..
  · rintro rfl
    rw [State.sendTwice_here]
    refine ⟨fun e he => (State.awaits_follow s (n + 1) he).kept (linkFrame_parcelOn _).2, ?_, fun hac => ?_⟩
    · rintro rfl
      rw [State.parcelOn_here]
      exact ⟨(State.links_follow ..).trans (State.links_follow ..), State.awaits_follow _ (n + 1) (.head _)⟩
    · rw [State.parcelOn_next hac.symm]
      exact (wordJoins_linkTakes ..).of_links (State.links_follow ..)

theorem linkFrame_sendTwice (s : State) (n a b c : Nat) (evs evs' : List (Nat × Instr)) :
    linkFrame s (s.sendTwice n a b evs c evs') := by
  by_cases hab : a = b
  · rw [hab, State.sendTwice_here]
    exact (linkFrame_follow ..).trans (linkFrame_parcelOn _)
  · rw [State.sendTwice_next hab]
    exact linkFrame_linkTakes ..

theorem linkFrame_sendParcel (s : State) (n a b vc : Nat) (evs : List (Nat × Instr)) : linkFrame s (s.sendParcel n a b vc evs) := by
  unfold State.sendParcel
  split
  · exact linkFrame_follow ..
  · exact linkFrame_passParcel _

/-- Which slice owns an address does not hang on the progress of the group (R301). -/
theorem sameGroup.owner {g h : Group} (k : sameGroup g h) (a : Word) : h.owner a = g.owner a := by
  rw [k]
  rfl

/-! ## A firing that sends a word (R155) -/

/-- The frame of a firing that sends a word: it is counted, and its element and the links alone have changed. -/
def routedFrame (s t : State) (cu : Cursor) (f : SlotF) : Prop :=
  s.counts t cu f ∧ routeFrame s t cu.ea ∧ ∀ c, sameCtx (s.ctx cu.ea c) (t.ctx cu.ea c)

theorem linkFrame.elems {s t : State} (h : linkFrame s t) : t.elems = s.elems := by rw [h.1]

/-- Links and the agenda, put where they were, are as they were. -/
theorem linkFrame.elemFrame {u t : State} (h : linkFrame u t) (ea : Nat) : elemFrame u { t with links := u.links } ea := by
  obtain ⟨ht, hagenda⟩ := h
  refine ⟨?_, fun x _ => ?_, fun n => ?_, ?_, hagenda⟩
  · exact sameMemory_of (by rw [ht]) (by rw [ht]) (by rw [ht])
  · rw [ht]; rfl
  · rw [ht]; rfl
  · rw [ht]; rfl

theorem countedFrame.route {s u t : State} {cu : Cursor} {f : SlotF} (h : countedFrame s u cu f) (k : linkFrame u t) :
    routedFrame s t cu f := by
  have hlinks := h.links
  obtain ⟨hcounts, hframe, hctx⟩ := h
  refine ⟨State.counts_stays hcounts (stays_of k.elems), ?_, fun c => ?_⟩
  · rw [routeFrame, ← hlinks]
    exact hframe.trans (k.elemFrame cu.ea)
  · have hsame : t.ctx cu.ea c = u.ctx cu.ea c := by simp only [State.ctx, State.elem, k.elems]
    exact hsame ▸ hctx c

/-! ## Spill and fill (R191) -/

/-- A spill or fill joins those of its context, which are performed in order. -/
def State.spillJoins (u : State) (r : MReq) : State :=
  u.modOut r.ea r.out (fun o =>
    { o with reqs := o.reqs ++ [⟨r.id, r.addr.toNat, r.addr.toNat + 8, none, false, false, none, false⟩] })

theorem State.sendSpill_se (u : State) {r : MReq} (h : r.endp = 0x80) :
    u.sendSpill r = (u.spillJoins r).sendParcel u.now r.ea r.dst 0 [(0, .requestPerform r)] := by
  simp only [State.sendSpill, h]
  rfl

theorem State.sendSpill_memory (u : State) {r : MReq} (h : r.endp ≠ 0x80) :
    u.sendSpill r = (u.spillJoins r).toSlice (u.now + 1) r [] := by
  simp only [State.sendSpill, beq_iff_eq, h, if_false]
  rfl

/-- The request of a spill or fill sets out: to the network port of its SE, or by its tile hub to the slice that owns its address. -/
def spillGoes (s t : State) (r : MReq) : Prop :=
  (r.endp = 0x80 → wordGoes s t s.now r.ea r.dst 0 (.requestPerform r)) ∧
  (r.endp ≠ 0x80 → wordGoesOn s t (s.now + 1) r.ea (tileOf r.ea) ((s.group r.grp).owner r.addr) [] (.tlbLookup r))

theorem sendSpill_goes {s u : State} {cu : Cursor} {f : SlotF} (h : countedFrame s u cu f) {r : MReq} (hea : r.ea = cu.ea) :
    routedFrame s (u.sendSpill r) cu f ∧ spillGoes s (u.sendSpill r) r := by
  have hjoins : countedFrame s (u.spillJoins r) cu f := by
    refine h.own ?_
    rw [State.spillJoins, hea]
    exact ownEffect_modOut ..
  by_cases hse : r.endp = 0x80
  · rw [State.sendSpill_se u hse, h.now]
    exact ⟨hjoins.route (linkFrame_sendParcel ..), fun _ => (wordGoes_sendParcel ..).of_links hjoins.links, absurd hse⟩
  · rw [State.sendSpill_memory u hse, h.now, State.toSlice, (hjoins.group r.grp).owner]
    exact ⟨hjoins.route (linkFrame_sendTwice ..), fun hyes => absurd hyes hse,
      fun _ => (wordGoesOn_sendTwice ..).of_links hjoins.links⟩

theorem spillReq_ea {s : State} {cu : Cursor} {j : Nat} {acc : Acc} {r : MReq} (h : spillReq s cu j acc = .inr r) : r.ea = cu.ea := by
  unfold spillReq at h
  dsimp only at h
  split at h
  · cases h; rfl
  · split at h
    · cases h
    · split at h <;> cases h
      rfl

section
variable {s : State} {cu : Cursor} {f : SlotF} (h : s.goes cu f)
include h

theorem exec_spill {r : MReq} (hr : spillReq s cu (readSource s cu f f.sb).val.toNat .st = .inr r) :
    exec (.spill f) s = .next ((s.bump.fired cu f (sourceFlags s cu f)).sendSpill { r with v1 := (readSource s cu f f.sa).val }) := by
  change execSpill f s = _
  simp [execSpill, h.1, goes_operands h, aluIn, hr, State.fired]

theorem exec_fill {r : MReq} (hr : spillReq s cu (readSource s cu f f.sa).val.toNat .ld = .inr r) :
    let x := (s.bump.fired cu f (sourceFlags s cu f)).promise cu f (sentTag s cu f)
    exec (.fill f) s = .next (x.1.sendSpill { r with dlv := some x.2 }) := by
  change execFill f s = _
  simp [execFill, h.1, goes_operands h, aluIn, hr, State.fired]

theorem exec_spill_fault {code d : Nat} {aux : Word}
    (hr : spillReq s cu (readSource s cu f f.sb).val.toNat .st = .inl (code, d, aux)) :
    exec (.spill f) s = .next (s.raiseSync cu code d aux) := by
  change execSpill f s = _
  simp [execSpill, h.1, goes_operands h, aluIn, hr]

theorem exec_fill_fault {code d : Nat} {aux : Word}
    (hr : spillReq s cu (readSource s cu f f.sa).val.toNat .ld = .inl (code, d, aux)) :
    exec (.fill f) s = .next (s.raiseSync cu code d aux) := by
  change execFill f s = _
  simp [execFill, h.1, goes_operands h, aluIn, hr]

end

/-- Settles O15: where the slot has a request it is sent, a fill's with the delivery of its result; else its fault is raised. -/
theorem spillAndFill : Obligations.SpillAndFill := by
  unfold Obligations.SpillAndFill
  intro s cu f h a b sets
  refine ⟨fun r hr => ?_, fun r hr => ?_, fun _ _ _ => exec_spill_fault h, fun _ _ _ => exec_fill_fault h⟩
  · have hea : r.ea = cu.ea := spillReq_ea hr
    obtain ⟨⟨hcounts, hframe, hctx⟩, hgoes⟩ := sendSpill_goes (r := { r with v1 := a })
      (countedFrame_bump_fired s cu f (sourceFlags s cu f)) hea
    exact ⟨_, exec_spill h hr, hcounts, hframe, hctx, hgoes⟩
  · have hea : r.ea = cu.ea := spillReq_ea hr
    let x := (s.bump.fired cu f (sourceFlags s cu f)).promise cu f (sentTag s cu f)
    have hpromised : countedFrame s x.1 cu f := (countedFrame_bump_fired ..).own (ownEffect_promise ..)
    obtain ⟨⟨hcounts, hframe, hctx⟩, hgoes⟩ := sendSpill_goes (r := { r with dlv := some x.2 }) hpromised hea
    exact ⟨_, x.2, exec_fill h hr, hcounts, hframe, hctx, hgoes, promisedTo_promise ..⟩

end Sys2Proof.Machine
end

section
/-! SUPPORT. Buffer handles (R181, R185, R186) and the tag table (R189): what a firing leaves of the handle or the entry that it names,
and of the others. Settles O17. -/

namespace Sys2Proof.Machine

/-! ## Handles and ways read after a write -/

theorem Elem.hnd_setHnd_same (e : Elem) (h : Nat) (x : Hnd) : (e.setHnd h x).hnd h = x := tget_tput_same ..

theorem Elem.hnd_setHnd_ne (e : Elem) {h j : Nat} (x : Hnd) (hj : j ≠ h) : (e.setHnd h x).hnd j = e.hnd j := tget_tput_ne _ _ _ _ _ hj

theorem Elem.hnd_congr {d e : Elem} (h : d.handles = e.handles) (j : Nat) : d.hnd j = e.hnd j := by
  simp only [Elem.hnd, h]

/-- A handle word is that of the record and the state of its handle. -/
theorem Elem.handleWord_congr {d e : Elem} (hw : d.work = e.work) (h : d.handles = e.handles) (k : Nat) :
    d.handleWord k = e.handleWord k := by
  simp only [Elem.handleWord, hw, Elem.hnd_congr h]

theorem Elem.way_congr {d e : Elem} (h : d.ttab = e.ttab) (w : Nat) : d.way w = e.way w := congrArg (tget none w) h

theorem Elem.keyWay_congr {d e : Elem} (h : d.ttab = e.ttab) (k : Nat) : d.keyWay k = e.keyWay k := by
  simp only [Elem.keyWay, Elem.way_congr h]

theorem Elem.freeWay_congr {d e : Elem} (h : d.ttab = e.ttab) (k : Nat) : d.freeWay k = e.freeWay k := by
  simp only [Elem.freeWay, Elem.way_congr h]

theorem State.modElem_congr {s : State} {ea : Nat} {f g : Elem → Elem} (h : f (s.elem ea) = g (s.elem ea)) :
    s.modElem ea f = s.modElem ea g := congrArg (s.setElem ea) h

/-! ## hacq (R185) -/

/-- The handle `k` at a pointer of the ring `rg` is taken in cycle `now`, and the pointer advances. -/
def Elem.acquires (e : Elem) (k rg : Nat) (dr : Bool) (now : Nat) : Elem :=
  (e.setHnd k ⟨if dr then .draining else .filling, 1, none, now⟩).advanceRing rg dr

theorem Elem.handles_acquires (e : Elem) (k rg : Nat) (dr : Bool) (now : Nat) :
    (e.acquires k rg dr now).handles = (e.setHnd k ⟨if dr then .draining else .filling, 1, none, now⟩).handles := rfl

/-- A firing takes a handle of its SE. -/
def State.acquires (u : State) (ea k rg : Nat) (dr : Bool) (now : Nat) : State := u.modElem ea (·.acquires k rg dr now)

theorem ownEffect_acquires (u : State) (cu : Cursor) (k rg : Nat) (dr : Bool) (now : Nat) :
    ownEffect u (u.acquires cu.ea k rg dr now) cu :=
  ownEffect_modElem _ _ _ rfl rfl rfl rfl

theorem State.elem_acquires (u : State) (ea k rg : Nat) (dr : Bool) (now : Nat) :
    (u.acquires ea k rg dr now).elem ea = (u.elem ea).acquires k rg dr now := State.elem_modElem_same ..

section
variable {s : State} {cu : Cursor} {f : SlotF}

theorem exec_hacq_fault (hcu : s.cur = some cu) (hbad : acqFaults (s.elem cu.ea) f.lit = true) :
    exec (.hacq f) s = .next (s.raiseSync cu 0x22 0 (BitVec.ofNat 64 (acqRing f.lit))) := by
  change execHacq f s = _
  simp only [execHacq, hcu, hbad, if_true]

theorem exec_hacq (h : s.goes cu f) (hok : acqFaults (s.elem cu.ea) f.lit = false) {k : Nat}
    (hk : (s.elem cu.ea).ringAt (acqRing f.lit) (acqDrain f.lit) = some k) :
    let u := (s.fired cu f (sourceFlags s cu f)).acquires cu.ea k (acqRing f.lit) (acqDrain f.lit) s.now
    exec (.hacq f) s = .next (u.deliver cu f f.da 1 ((u.elem cu.ea).handleWord k) .data (sentTag s cu f) 0) := by
  change execHacq f s = _
  simp only [execHacq, h.1, hok, hk, Bool.false_eq_true, if_false]
  rw [State.fireWith_eq h, (fireFrame_fired s cu f (sourceFlags s cu f)).now]
  rfl

/-- hacq takes the handle at the pointer, and delivers its word. -/
theorem hacq_acquires (h : s.goes cu f) (hok : acqFaults (s.elem cu.ea) f.lit = false) {k : Nat}
    (hk : (s.elem cu.ea).ringAt (acqRing f.lit) (acqDrain f.lit) = some k) :
    ∃ t, exec (.hacq f) s = .next t ∧ countedFrame s t cu f ∧
      (t.elem cu.ea).hnd k = ⟨if acqDrain f.lit then .draining else .filling, 1, none, s.now⟩ ∧
      (∀ j, j ≠ k → (t.elem cu.ea).hnd j = (s.elem cu.ea).hnd j) ∧
      s.delivers t cu f f.da 1 ((t.elem cu.ea).handleWord k) .data 0 := by
  let v := s.fired cu f (sourceFlags s cu f)
  let u := v.acquires cu.ea k (acqRing f.lit) (acqDrain f.lit) s.now
  let t := u.deliver cu f f.da 1 ((u.elem cu.ea).handleWord k) .data (sentTag s cu f) 0
  have hfired : fireFrame s v cu := fireFrame_fired ..
  have hu : countedFrame s u cu f := (countedFrame_fired ..).own (ownEffect_acquires ..)
  have hsent : fireFrame u t cu := fireFrame_deliver ..
  have hhandles : (t.elem cu.ea).handles =
      ((v.elem cu.ea).setHnd k ⟨if acqDrain f.lit then .draining else .filling, 1, none, s.now⟩).handles := by
    rw [hsent.handles, State.elem_acquires, Elem.handles_acquires]
  refine ⟨t, exec_hacq h hok hk, hu.own (ownEffect_deliver ..), ?_, fun j hj => ?_, ?_⟩
  · rw [Elem.hnd_congr hhandles, Elem.hnd_setHnd_same]
  · rw [Elem.hnd_congr hhandles, Elem.hnd_setHnd_ne _ _ hj, Elem.hnd_congr hfired.handles]
  · rw [Elem.handleWord_congr hsent.work hsent.handles]
    exact delivers_deliver_of hu.now (by rw [State.elem_acquires]; exact hfired.epoch) ..

end

/-! ## hcommit and hrel (R186) -/

theorem State.elem_handleFree (u : State) (ea h : Nat) : (u.handleFree ea h).elem ea = (u.elem ea).setHnd h .zero := by
  have hset := State.elem_modElem_same u ea (fun e => e.setHnd h .zero)
  unfold State.handleFree
  dsimp only
  split
  · split <;> exact hset
  · exact hset

/-- A handle that becomes FREE changes nothing but itself; the permit for its ring's flow may set out. -/
theorem ownEffect_handleFree (u : State) (cu : Cursor) (h : Nat) : ownEffect u (u.handleFree cu.ea h) cu := by
  have hset : ownEffect u (u.modElem cu.ea (fun e => e.setHnd h .zero)) cu := ownEffect_modElem _ _ _ rfl rfl rfl rfl
  unfold State.handleFree
  dsimp only
  split
  · split
    · exact hset.trans (ownEffect_after ..)
    · exact hset
  · exact hset

section
variable {s : State} {cu : Cursor} {f : SlotF} (h : s.goes cu f)
include h

theorem exec_hcommit_notHeld (hheld : handleHeld (s.elem cu.ea) (namedHandle s cu f) [.filling] false = false) :
    exec (.hcommit f) s = .next (s.raiseSync cu 0x22 0 ((s.elem cu.ea).handleWord (namedHandle s cu f))) := by
  obtain ⟨hcu, ha, -, -⟩ := h
  unfold namedHandle at *
  change execHcommit f s = _
  simp [execHcommit, hcu, ha, hheld]

theorem exec_hrel_notHeld (hheld : handleHeld (s.elem cu.ea) (namedHandle s cu f) [.draining] true = false) :
    exec (.hrel f) s = .next (s.raiseSync cu 0x22 0 ((s.elem cu.ea).handleWord (namedHandle s cu f))) := by
  obtain ⟨hcu, ha, -, -⟩ := h
  unfold namedHandle at *
  change execHrel f s = _
  simp [execHrel, hcu, ha, hheld]

/-- A commit makes its handle FULL, in two cycles where an sst is performed in this one, or awaits the ssts not yet performed. -/
theorem exec_hcommit (hheld : handleHeld (s.elem cu.ea) (namedHandle s cu f) [.filling] false = true) :
    exec (.hcommit f) s = .next (
      let e := s.elem cu.ea
      let h := namedHandle s cu f
      let u := s.fired cu f (sourceFlags s cu f)
      if e.ssts = [] ∧ e.sstLast < s.now then u.modElem cu.ea (fun x => x.setHnd h ⟨.full, 0, none, s.now⟩)
      else if e.ssts = [] then
        (u.modElem cu.ea (fun x => x.setHnd h ⟨.filling, 1, some [], 0⟩)).after 2 (.handleFullAfterCommit cu.ea h)
      else u.modElem cu.ea (fun x => x.setHnd h ⟨.filling, 1, some e.ssts, 0⟩)) := by
  have hgoes := h
  obtain ⟨hcu, ha, -, -⟩ := h
  unfold namedHandle at *
  change execHcommit f s = _
  simp only [execHcommit, hcu, ha, hheld, Bool.not_true, Bool.false_eq_true, if_false]
  rw [State.fireWith_eq hgoes]
  simp only [State.handleFull, (fireFrame_fired s cu f (sourceFlags s cu f)).now, List.isEmpty_iff, Bool.and_eq_true, decide_eq_true_eq]

theorem firesWith_hcommit_settled
    (hheld : handleHeld (s.elem cu.ea) (namedHandle s cu f) [.filling] false = true)
    (hsettled : (s.elem cu.ea).ssts ≠ [] ∨ (s.elem cu.ea).sstLast < s.now) :
    firesWith (.hcommit f) s cu f (fun u => u.modElem cu.ea (fun x => x.setHnd (namedHandle s cu f)
      (if (s.elem cu.ea).ssts = [] then ⟨.full, 0, none, s.now⟩ else ⟨.filling, 1, some (s.elem cu.ea).ssts, 0⟩))) := by
  refine firesWith_of_fired (fl := sourceFlags s cu f) ((exec_hcommit h hheld).trans ?_)
  dsimp only
  by_cases hnone : (s.elem cu.ea).ssts = []
  · have hlast : (s.elem cu.ea).sstLast < s.now := hsettled.resolve_left (absurd hnone)
    rw [if_pos ⟨hnone, hlast⟩, if_pos hnone]
  · rw [if_neg fun hboth => hnone hboth.1, if_neg hnone, if_neg hnone]

theorem firesWith_hcommit_justPerformed
    (hheld : handleHeld (s.elem cu.ea) (namedHandle s cu f) [.filling] false = true)
    (hnone : (s.elem cu.ea).ssts = []) (hlast : s.now ≤ (s.elem cu.ea).sstLast) :
    firesWith (.hcommit f) s cu f (fun u => (u.modElem cu.ea (fun x => x.setHnd (namedHandle s cu f)
      ⟨.filling, 1, some [], 0⟩)).after 2 (.handleFullAfterCommit cu.ea (namedHandle s cu f))) := by
  refine firesWith_of_fired (fl := sourceFlags s cu f) ((exec_hcommit h hheld).trans ?_)
  dsimp only
  rw [if_neg fun hboth => Nat.not_lt.mpr hlast hboth.2, if_pos hnone]

theorem exec_hrel (hheld : handleHeld (s.elem cu.ea) (namedHandle s cu f) [.draining] true = true) :
    exec (.hrel f) s = .next ((s.fired cu f (sourceFlags s cu f)).handleFree cu.ea (namedHandle s cu f)) := by
  have hgoes := h
  obtain ⟨hcu, ha, -, -⟩ := h
  unfold namedHandle at *
  change execHrel f s = _
  simp only [execHrel, hcu, ha, hheld, Bool.not_true, Bool.false_eq_true, if_false]
  rw [State.fireWith_eq hgoes]

theorem hrel_frees (hheld : handleHeld (s.elem cu.ea) (namedHandle s cu f) [.draining] true = true) :
    ∃ t, exec (.hrel f) s = .next t ∧ countedFrame s t cu f ∧
      (t.elem cu.ea).hnd (namedHandle s cu f) = .zero ∧
      ∀ j, j ≠ namedHandle s cu f → (t.elem cu.ea).hnd j = (s.elem cu.ea).hnd j := by
  refine ⟨_, exec_hrel h hheld, (countedFrame_fired ..).own (ownEffect_handleFree ..), ?_, fun j hj => ?_⟩
  · rw [State.elem_handleFree, Elem.hnd_setHnd_same]
  · rw [State.elem_handleFree, Elem.hnd_setHnd_ne _ _ hj, Elem.hnd_congr (fireFrame_fired ..).handles]

end

/-! ## The tag table (R189) -/

/-- The key that source A names (R188). -/
def namedKey (s : State) (cu : Cursor) (f : SlotF) : Nat := keyOf (readSource s cu f f.sa).val

/-- The entry of a key leaves the tag table, if it is there. -/
def Elem.evicts (e : Elem) (k : Nat) : Elem :=
  match e.keyWay k with
  | some i => { e with ttab := tput none i none e.ttab }
  | none => e

theorem Elem.evicts_some {e : Elem} {k w : Nat} (h : e.keyWay k = some w) :
    e.evicts k = { e with ttab := tput none w none e.ttab } := by simp only [Elem.evicts, h]

theorem Elem.evicts_none {e : Elem} {k : Nat} (h : e.keyWay k = none) : e.evicts k = e := by simp only [Elem.evicts, h]

theorem Elem.way_evicts {e : Elem} {k w : Nat} (h : e.keyWay k = some w) : (e.evicts k).way w = none := by
  rw [Elem.evicts_some h]
  simp [Elem.way]

/-- Nothing but the table has changed. -/
theorem Elem.evicts_eq (e : Elem) (k : Nat) : e.evicts k = { e with ttab := (e.evicts k).ttab } := by
  cases h : e.keyWay k with
  | none => rw [Elem.evicts_none h]
  | some w => rw [Elem.evicts_some h]

theorem ownEffect_evicts (u : State) (cu : Cursor) (k : Nat) : ownEffect u (u.modElem cu.ea (·.evicts k)) cu := by
  refine ownEffect_modElem u cu (·.evicts k) ?_ ?_ ?_ ?_ <;> rw [Elem.evicts_eq]

section
variable {s : State} {cu : Cursor} {f : SlotF} (h : s.goes cu f)
include h

/-- tins writes the way of its key, or the lowest free one of the key's set. -/
theorem firesWith_tins {w : Nat} (hw : ((s.elem cu.ea).keyWay (namedKey s cu f)).orElse
      (fun _ => (s.elem cu.ea).freeWay (namedKey s cu f)) = some w) :
    firesWith (.tins f) s cu f (fun u => u.modElem cu.ea (fun x => { x with
      ttab := tput none w (some (namedKey s cu f, (readSource s cu f f.sb).val.toNat % 2 ^ 63)) x.ttab })) := by
  unfold namedKey at *
  have httab := (fireFrame_fired s cu f (sourceFlags s cu f)).ttab
  have hkey := Elem.keyWay_congr httab (keyOf (readSource s cu f f.sa).val)
  have hfree := Elem.freeWay_congr httab (keyOf (readSource s cu f f.sa).val)
  refine firesWith_of_fired (fl := sourceFlags s cu f) ?_
  change execTins f s = _
  rw [execTins, State.fireWith_eq h]
  refine congrArg Host.Outcome.next (State.modElem_congr ?_)
  simp only [aluIn, hkey, hfree, hw]

theorem exec_tevict : exec (.tevict f) s = .next (((s.fired cu f (sourceFlags s cu f)).modElem cu.ea
    (·.evicts (namedKey s cu f))).deliver cu f f.da 2
      ((s.elem cu.ea).lookup (namedKey s cu f)) .data (sentTag s cu f) 0) := by
  change execTevict f s = _
  rw [execTevict, State.fireWith_eq h]
  rfl

/-- tevict delivers what the entry of its key held, and removes the entry. -/
theorem tevict_removes : ∃ t, exec (.tevict f) s = .next t ∧ countedFrame s t cu f ∧
    s.delivers t cu f f.da 2 ((s.elem cu.ea).lookup (namedKey s cu f)) .data 0 ∧
    (∀ w, (s.elem cu.ea).keyWay (namedKey s cu f) = some w → (t.elem cu.ea).way w = none) ∧
    ((s.elem cu.ea).keyWay (namedKey s cu f) = none → (t.elem cu.ea).ttab = (s.elem cu.ea).ttab) := by
  let k := namedKey s cu f
  let v := s.fired cu f (sourceFlags s cu f)
  let u := v.modElem cu.ea (·.evicts k)
  let t := u.deliver cu f f.da 2 ((s.elem cu.ea).lookup k) .data (sentTag s cu f) 0
  have hfired : fireFrame s v cu := fireFrame_fired ..
  have hkey : (v.elem cu.ea).keyWay k = (s.elem cu.ea).keyWay k := Elem.keyWay_congr hfired.ttab k
  have hu : countedFrame s u cu f := (countedFrame_fired ..).own (ownEffect_evicts ..)
  have hue : u.elem cu.ea = (v.elem cu.ea).evicts k := State.elem_modElem_same ..
  have hsent : fireFrame u t cu := fireFrame_deliver ..
  have httab : (t.elem cu.ea).ttab = ((v.elem cu.ea).evicts k).ttab := by rw [hsent.ttab, hue]
  refine ⟨t, exec_tevict h, hu.own (ownEffect_deliver ..), ?_, fun w hw => ?_, fun hnone => ?_⟩
  · exact delivers_deliver_of hu.now (by rw [hue, Elem.evicts_eq]; exact hfired.epoch) ..
  · rw [Elem.way_congr httab, Elem.way_evicts (hkey.trans hw)]
  · rw [httab, Elem.evicts_none (hkey.trans hnone), hfired.ttab]

end

/-- Settles O17: each instruction by what it does to its handle or its entry, and by its fault. -/
theorem handlesAndTagTable : Obligations.HandlesAndTagTable := by
  unfold Obligations.HandlesAndTagTable
  intro s cu f h e a b hn rg dr
  refine ⟨exec_hacq_fault h.1, fun k hok hk => ?_,
    fun hheld => ⟨firesWith_hcommit_settled h hheld, firesWith_hcommit_justPerformed h hheld⟩, exec_hcommit_notHeld h,
    fun hheld => ?_, exec_hrel_notHeld h, fun w => firesWith_tins h, ?_⟩
  · obtain ⟨t, ht, ⟨hcounts, hframe, -⟩, hrest⟩ := hacq_acquires h hok hk
    exact ⟨t, ht, hcounts, hframe, hrest⟩
  · obtain ⟨t, ht, ⟨hcounts, hframe, -⟩, hrest⟩ := hrel_frees h hheld
    exact ⟨t, ht, hcounts, hframe, hrest⟩
  · obtain ⟨t, ht, ⟨hcounts, hframe, -⟩, hrest⟩ := tevict_removes h
    exact ⟨t, ht, hcounts, hframe, hrest⟩

end Sys2Proof.Machine
end

section
/-! SUPPORT. The firings that start stream operators (R193) and generators (R236, R237, R242). Settles O21. -/

namespace Sys2Proof.Machine

/-! ## Stream operators (R193) -/

section
variable {s : State} {cu : Cursor} {f : SlotF} (h : s.goes cu f) {op : Nat}
include h

theorem State.fireStream_illegal (hbad : suBad op f.lit = true) : s.fireStream f op = s.raiseSync cu 0x01 0 f.lit := by
  obtain ⟨hcu, ha, -, -⟩ := h
  simp [State.fireStream, hcu, ha, hbad]

variable (hgood : suBad op f.lit = false)
include hgood

theorem State.fireStream_unbound {n : Nat} (hn : suUnbound (s.elem cu.ea) op f.lit = some n) :
    s.fireStream f op = s.raiseSync cu 0x06 0 (BitVec.ofNat 64 n) := by
  obtain ⟨hcu, ha, -, -⟩ := h
  simp [State.fireStream, hcu, ha, hgood, hn]

variable (hbound : suUnbound (s.elem cu.ea) op f.lit = none)
include hbound

theorem State.fireStream_misaligned (halign : (readSource s cu f f.sa).val.toNat % 8 ≠ 0) :
    s.fireStream f op = s.raiseSync cu 0x13 0 (readSource s cu f f.sa).val := by
  obtain ⟨hcu, ha, -, -⟩ := h
  simp [State.fireStream, hcu, ha, hgood, hbound, halign]

variable (halign : (readSource s cu f f.sa).val.toNat % 8 = 0)
  (hin : (readSource s cu f f.sa).val.toNat + 8 ≤ (s.elem cu.ea).progBytes)
include halign hin

theorem State.fireStream_starts : s.fireStream f op = ((s.fired cu f (readSource s cu f f.sa).fl).setSu cu.ea
    (some (Su.start op f.lit (readSource s cu f f.sa).val.toNat cu.ctx cu.slot s.now))).after 1 (.operatorInput cu.ea) := by
  obtain ⟨hcu, ha, -, -⟩ := h
  simp [State.fireStream, hcu, ha, hgood, hbound, halign, Nat.not_lt.mpr hin, State.fired, State.setSu]

/-- The operator stands in the stream unit, and works from the next cycle on. -/
theorem fireStream_started : countedFrame s (s.fireStream f op) cu f ∧
    ((s.fireStream f op).elem cu.ea).su =
      some (Su.start op f.lit (readSource s cu f f.sa).val.toNat cu.ctx cu.slot s.now) ∧
    (s.fireStream f op).awaits (s.now + 1) (.operatorInput cu.ea) := by
  rw [State.fireStream_starts h hgood hbound halign hin]
  generalize Su.start op f.lit (readSource s cu f f.sa).val.toNat cu.ctx cu.slot s.now = x
  let u := s.fired cu f (readSource s cu f f.sa).fl
  have hset : countedFrame s (u.setSu cu.ea (some x)) cu f :=
    (countedFrame_fired ..).own (ownEffect_modElem _ _ _ rfl rfl rfl rfl)
  refine ⟨hset.own (ownEffect_after ..), congrArg Elem.su (State.elem_modElem_same u cu.ea fun e => { e with su := some x }), ?_⟩
  rw [← hset.now]
  exact State.awaits_at ..

end

/-! ## Generators (R242) -/

/-- The stream that a firing of gen or genp starts: as its literal and record give it, with the fault of the record (R237). -/
def startedGen (s : State) (cu : Cursor) (f : SlotF) (genp : Bool) (rounds : Word) : Gen :=
  let a := (readSource s cu f f.sa).val
  let x := genStart s cu f.lit genp a.toNat rounds
  { x with fault := (recordFault s (s.elem cu.ea) x (seAddr cu.ea a.toNat)).map (fun c => (c.1, a, c.2)) }

/-- A generator of an element starts: an sbar of its context awaits it no more as it was before (R235). -/
def State.genStarted (u : State) (cu : Cursor) (g : Nat) (x : Gen) : State :=
  (u.modCtx cu.ea cu.ctx (fun c => { c with sbarGens := ndel g c.sbarGens })).modGen cu.ea g (fun _ => x)

theorem ownEffect_genStarted (u : State) (cu : Cursor) (g : Nat) (x : Gen) : ownEffect u (u.genStarted cu g x) cu :=
  (ownEffect_modCtx u cu _ ⟨rfl, rfl, rfl, rfl, rfl, rfl, rfl⟩ rfl).trans (ownEffect_modGen ..)

theorem State.gen_modGen_same (u : State) (ea g : Nat) (h : Gen → Gen) :
    ((u.modGen ea g h).elem ea).gen g = h ((u.elem ea).gen g) := by
  simp [State.modGen, Elem.gen]

theorem State.gen_genStarted (u : State) (cu : Cursor) (g : Nat) (x : Gen) : ((u.genStarted cu g x).elem cu.ea).gen g = x :=
  State.gen_modGen_same ..

section
variable {s : State} {cu : Cursor} {f : SlotF} (h : s.goes cu f) {genp : Bool}
  (hgood : genBad (s.elem cu.ea) f.lit genp
    (s.readNat (seAddr cu.ea (readSource s cu f f.sa).val.toNat + 0x12) 1) = false)
  (hbound : genUnbound (s.elem cu.ea) f.lit genp = none) (halign : (readSource s cu f f.sa).val.toNat % 8 = 0)
  (hin : (readSource s cu f f.sa).val.toNat + 160 ≤ (s.elem cu.ea).progBytes)
include h hgood hbound halign hin

theorem State.fireGen_starts : s.fireGen f genp =
    ((s.fired cu f (sourceFlags s cu f)).genStarted cu (gnG f.lit)
      (startedGen s cu f genp (if genp then (readSource s cu f f.sb).val else 1))).after 1 (.genElementIssue cu.ea (gnG f.lit)) := by
  simp [State.fireGen, h.1, goes_operands h, aluIn, halign, hin, hgood, hbound, Nat.not_lt.mpr hin, State.fired, State.genStarted,
    startedGen]

/-- The generator runs with its stream, and may issue from the next cycle on. -/
theorem fireGen_started : countedFrame s (s.fireGen f genp) cu f ∧
    ((s.fireGen f genp).elem cu.ea).gen (gnG f.lit) =
      startedGen s cu f genp (if genp then (readSource s cu f f.sb).val else 1) ∧
    (s.fireGen f genp).awaits (s.now + 1) (.genElementIssue cu.ea (gnG f.lit)) := by
  rw [State.fireGen_starts h hgood hbound halign hin]
  generalize startedGen s cu f genp (if genp then (readSource s cu f f.sb).val else 1) = x
  let u := s.fired cu f (sourceFlags s cu f)
  have hstarted : countedFrame s (u.genStarted cu (gnG f.lit) x) cu f := (countedFrame_fired ..).own (ownEffect_genStarted ..)
  refine ⟨hstarted.own (ownEffect_after ..), State.gen_genStarted u cu (gnG f.lit) x, ?_⟩
  rw [← hstarted.now]
  exact State.awaits_at ..

end

/-- Settles O21: the checks of a firing in their order, and what it starts when it passes them. -/
theorem streamFirings : Obligations.StreamFirings := by
  unfold Obligations.StreamFirings
  intro s cu f h e a b g mode starts runs
  have starting {i : Instr} {op : Nat} (hi : exec i s = .next (s.fireStream f op)) : starts i op := by
    refine ⟨fun hbad => ?_, fun hgood n hn => ?_, fun hgood hbound halign => ?_, fun hgood hbound halign hin => ?_⟩
    · rw [hi, State.fireStream_illegal h hbad]
    · rw [hi, State.fireStream_unbound h hgood hn]
    · rw [hi, State.fireStream_misaligned h hgood hbound halign]
    · obtain ⟨⟨hcounts, hframe, hctx⟩, hsu, hawaits⟩ := fireStream_started h hgood hbound halign hin
      exact ⟨_, hi, hcounts, hframe, hctx, hsu, hawaits⟩
  have running {i : Instr} {p : Bool} (hi : exec i s = .next (s.fireGen f p)) : runs i p (if p then b else 1) := by
    intro hgood hbound halign hin
    obtain ⟨⟨hcounts, hframe, hctx⟩, hgen, hawaits⟩ := fireGen_started h hgood hbound halign hin
    exact ⟨_, hi, hcounts, hframe, hctx, hgen, hawaits⟩
  exact ⟨starting rfl, starting rfl, starting rfl, starting rfl, starting rfl, running rfl, running rfl⟩

end Sys2Proof.Machine
end

section
/-! SUPPORT. The end of a generator's stream (R243), in an element whose table lists a context twice. Refutes O34. -/

namespace Sys2Proof.Machine

/-! ## The EOS of a stream (R243) -/

/-- The EOS of the stream joins the generator's buffer at the stream unit, and the generator is DONE. -/
def State.streamDone (s : State) (ea g : Nat) (x : Gen) : State :=
  (s.modElem ea (fun e => { e with gbuf := tput [] g (tget [] g e.gbuf ++ [x.word 0 .eos]) e.gbuf })).modGen ea g
    (fun y => { y with st := .done })

/-- A stream for the stream unit ends once its elements are there; its generator is settled for the sbars that await it (R235). -/
theorem exec_genStreamEnd {s : State} {ea g : Nat} {x : Gen} (hx : (s.elem ea).gen g = x) (hrun : x.st = .running)
    (hending : x.ending = true) (hfree : (s.group (s.groupNo ea)).stopsAt ea = false) (hlast : x.last < s.now) (hfly : x.fly = [])
    (hdst : gnDst x.lit = 32) (hroom : (tget [] g (s.elem ea).gbuf).length < 16) :
    exec (.genStreamEnd ea g) s = .next ((s.streamDone ea g x).genSettled ea g) := by
  have heos : s.genEos ea g x =
      some (s.modElem ea (fun e => { e with gbuf := tput [] g (tget [] g e.gbuf ++ [x.word 0 .eos]) e.gbuf })) := by
    simp [State.genEos, State.genRoom, hdst, hfly, Nat.sub_eq_zero_iff_le, Nat.not_le.mpr hroom]
  change execGenStreamEnd ea g s = _
  simp [execGenStreamEnd, hx, hrun, hending, hfree, Nat.not_le.mpr hlast, heos, State.streamDone]

/-- A generator that no sbar need await leaves what the contexts of its element await, entry by entry. -/
theorem State.genSettled_settles {s : State} {ea g : Nat} (h : ((s.elem ea).gen g).awaited = false) :
    s.genSettled ea g = s.modElem ea (fun e =>
      { e with ctxs := tmap .zero (fun _ c => { c with sbarGens := ndel g c.sbarGens }) e.ctxs }) := by
  simp only [State.genSettled, h, Bool.false_eq_true, if_false]

/-! ## A context listed twice -/

/-- A stream for the stream unit of which only the EOS is to come. -/
def endingStream : Gen := { Gen.zero with st := .running, lit := 0x2000, ending := true }

/-- An element with such a stream. Its table lists context 0 twice: first the entry that is read, a context that awaits the stream and
holds nothing else, then one with predicate 0 set. -/
def elemWithContextTwice : Elem :=
  { Elem.zero with ctxs := [(0, { Ctx.zero with sbarGens := [0] }), (0, { Ctx.zero with pred := 1 })], gens := [(0, endingStream)] }

/-- The machine at its second cycle, with that element. -/
def stateWithContextTwice : State := { State.reset with now := 1, elems := [(0, elemWithContextTwice)] }

/-- The first entry, that awaits nothing more, is no longer listed: the second is read. -/
theorem pred_streamDone_contextTwice :
    (((stateWithContextTwice.streamDone 0 0 endingStream).genSettled 0 0).ctx 0 0).pred = 1 := by
  rw [State.genSettled_settles (by decide)]
  decide

/-- Refutes O34: the EOS of a stream does to its generator and its buffer what the statement says, but the sbars that awaited the stream
await it no more (R235), and a context that so becomes empty leaves the table. Where the table lists that context twice, which the
statement does not exclude, the context then reads as the second entry. -/
theorem not_streamEnginesAtWork : ¬ Obligations.StreamEnginesAtWork := by
  unfold Obligations.StreamEnginesAtWork
  intro h
  obtain ⟨-, -, -, -, -, hend⟩ := h stateWithContextTwice 0 0 0 default
  obtain ⟨t, ht, -, -, ⟨-, hctx⟩, -⟩ := hend [] rfl rfl (by decide) (by decide) rfl (by decide) rfl (by decide)
  rw [exec_genStreamEnd (x := endingStream) rfl rfl rfl (by decide) (by decide) rfl (by decide) (by decide)] at ht
  obtain ⟨-, -, hpred, -⟩ := hctx 0 0
  rw [← Host.Outcome.next.inj ht, pred_streamDone_contextTwice] at hpred
  exact absurd hpred (by decide)

end Sys2Proof.Machine
end

section
/-! SUPPORT. The instructions of an ME (R207, R210 to R212, R215, R219, R220): each firing by what it leaves of the ME, and by its
fault. Settles O22. -/

namespace Sys2Proof.Machine

/-! ## The ME of an element -/

section
variable (s : State) (ea x : Nat) (g : Me → Me)

@[simp] theorem State.me_modMe_same : (s.modMe ea g).me ea = g (s.me ea) := by
  simp [State.me, State.modMe]

@[simp] theorem State.work_modMe : ((s.modMe ea g).elem x).work = (s.elem x).work := by
  by_cases hx : x = ea
  · subst hx; simp [State.modMe]
  · simp [State.modMe, hx]

theorem State.modMe_congr {g k : Me → Me} (h : g (s.me ea) = k (s.me ea)) : s.modMe ea g = s.modMe ea k :=
  State.modElem_congr (congrArg (fun m => { s.elem ea with me := m }) h)

theorem State.elem_modMe_ne {ea x : Nat} (h : x ≠ ea) : (s.modMe ea g).elem x = s.elem x := State.elem_modElem_ne _ _ _ _ h

theorem State.elem_after (n : Nat) (i : Instr) : (s.after n i).elem x = s.elem x := rfl

theorem State.awaits_after {s t : State} (h : t.now = s.now) (n : Nat) (i : Instr) : (t.after n i).awaits (s.now + n) i := by
  rw [← h]
  exact State.awaits_at ..

theorem ownEffect_modMe (cu : Cursor) : ownEffect s (s.modMe cu.ea g) cu := ownEffect_modElem _ _ _ rfl rfl rfl rfl

theorem State.me_reserve (o : Nat) : (s.reserve ea o).1.me ea = s.me ea := by
  simp [State.me, State.reserve, Elem.setOut]

@[simp] theorem State.me_after (n : Nat) (i : Instr) : (s.after n i).me ea = s.me ea := rfl

theorem ownEffect_reserve (cu : Cursor) (o : Nat) : ownEffect s (s.reserve cu.ea o).1 cu :=
  (fireFrame_reserve s cu o).ownEffect (stays_reserveAll s cu [o])

end

theorem fireFrame.me {s t : State} {cu : Cursor} (h : fireFrame s t cu) : t.me cu.ea = s.me cu.ea := by
  rw [State.me, h.2.1, State.me]

theorem fireFrame.ecwNow {s t : State} {cu : Cursor} (h : fireFrame s t cu) (n : Nat) :
    (t.elem cu.ea).ecwNow n = (s.elem cu.ea).ecwNow n := by
  rw [h.2.1]
  rfl

/-! ## mcfg (R207) -/

/-- The ME with MODE `w`: its counters begin anew, and its planes are EMPTY where they do not fit the new MODE. -/
def Me.configured (m : Me) (w : Word) : Me :=
  let clear := w == 0 || mBfmt w != mBfmt m.mode || mSpa w != mSpa m.mode
  { m with
    mode := w, rc := 0, pc := 0, poll := m.poll || w != 0
    p0 := if clear then .zero else m.p0
    p1 := if clear then .zero else m.p1 }

section
variable {s : State} {cu : Cursor} {f : SlotF} (h : s.goes cu f)
include h

theorem exec_mcfg_refused (hbad : mcfgBad (s.elem cu.ea).work.meb f.lit = true) :
    exec (.mcfg f) s = .next (s.raiseSync cu 0x01 0 f.lit) := by
  change execMcfg f s = _
  simp only [execMcfg, h.1, hbad, if_true]

theorem exec_mcfg (hgood : mcfgBad (s.elem cu.ea).work.meb f.lit = false) :
    exec (.mcfg f) s = .next (
      let u := (s.fired cu f (sourceFlags s cu f)).modMe cu.ea (fun _ => (s.me cu.ea).configured f.lit)
      if (s.me cu.ea).poll || f.lit == 0 then u else u.after 1 (.meQueueFill cu.ea)) := by
  change execMcfg f s = _
  simp only [execMcfg, h.1, hgood, Bool.false_eq_true, if_false]
  rw [State.fireWith_eq h, State.modMe_congr (k := fun _ => (s.me cu.ea).configured f.lit)]
  rw [← (fireFrame_fired s cu f (sourceFlags s cu f)).me]
  rfl

/-- mcfg sets MODE, and the queues fill from the next cycle on. -/
theorem mcfg_configures (hgood : mcfgBad (s.elem cu.ea).work.meb f.lit = false) :
    ∃ t, exec (.mcfg f) s = .next t ∧ countedFrame s t cu f ∧ t.me cu.ea = (s.me cu.ea).configured f.lit := by
  refine ⟨_, exec_mcfg h hgood, ?_⟩
  dsimp only
  have hset := (countedFrame_fired s cu f (sourceFlags s cu f)).own
    (ownEffect_modMe _ (fun _ => (s.me cu.ea).configured f.lit) cu)
  split
  · exact ⟨hset, State.me_modMe_same ..⟩
  · exact ⟨hset.own (ownEffect_after ..), by rw [State.me_after, State.me_modMe_same]⟩

end

/-! ## mrow (R210 to R212) -/

/-- Where the row completes its handle, a place of output `o` is reserved for the notice (R211). -/
def State.noted (u : State) (ea o : Nat) (completes : Bool) : State :=
  if completes then (u.reserve ea o).1.modMe ea (fun m => { m with note := some (u.reserve ea o).2 }) else u

theorem ownEffect_noted (u : State) (cu : Cursor) (o : Nat) (completes : Bool) : ownEffect u (u.noted cu.ea o completes) cu := by
  unfold State.noted
  split
  · exact (ownEffect_reserve ..).trans (ownEffect_modMe ..)
  · exact (fireFrame.refl u cu).ownEffect (.refl ..)

theorem State.me_noted (u : State) (ea o : Nat) (completes : Bool) :
    ∃ n, (u.noted ea o completes).me ea = { u.me ea with note := n } := by
  unfold State.noted
  split
  · exact ⟨_, by rw [State.me_modMe_same, State.me_reserve]⟩
  · exact ⟨(u.me ea).note, rfl⟩

/-- The cycles from the firing of a row to its landing (R212, R218). -/
def landDelay (mode : Word) : Nat := 14 + if mRed mode then baseInterval mode else 0

/-- The ME after the row step that fires in this cycle (R210). -/
def State.steppedMe (s : State) (ea : Nat) : Me := (s.me ea).step (ecwRnd ((s.elem ea).ecwNow s.now)) s.now

section
variable {s : State} {cu : Cursor} {f : SlotF} (h : s.goes cu f)
include h

theorem exec_mrow_noMode (hmode : (s.me cu.ea).mode = 0) : exec (.mrow f) s = .next (s.raiseSync cu 0x01 0 0) := by
  change execMrow f s = _
  simp [execMrow, h.1, hmode]

theorem exec_mrow (hmode : (s.me cu.ea).mode ≠ 0) :
    exec (.mrow f) s = .next (
      let m := s.me cu.ea
      let b := (s.elem cu.ea).work.meb
      let u := (s.fired cu f (sourceFlags s cu f)).modMe cu.ea (fun _ => s.steppedMe cu.ea)
      (u.noted cu.ea (bindNote b) (m.lastPass && s.rowCompletes cu.ea && bindNoten b && !m.drops)).after (landDelay m.mode)
        (.meRowLand ⟨cu.ea, 0⟩)) := by
  change execMrow f s = _
  have hfired := fireFrame_fired s cu f (sourceFlags s cu f)
  simp only [execMrow, h.1, beq_iff_eq, hmode, if_false]
  rw [State.fireWith_eq h]
  simp only [hfired.me, hfired.ecwNow, hfired.now]
  rfl

/-- mrow steps the ME, but for the place of a notice, and its row is on its way. -/
theorem mrow_steps (hmode : (s.me cu.ea).mode ≠ 0) :
    ∃ t n, exec (.mrow f) s = .next t ∧ countedFrame s t cu f ∧ t.me cu.ea = { s.steppedMe cu.ea with note := n } ∧
      t.awaits (s.now + landDelay (s.me cu.ea).mode) (.meRowLand ⟨cu.ea, 0⟩) := by
  let b := (s.elem cu.ea).work.meb
  let u := (s.fired cu f (sourceFlags s cu f)).modMe cu.ea (fun _ => s.steppedMe cu.ea)
  let due := (s.me cu.ea).lastPass && s.rowCompletes cu.ea && bindNoten b && !(s.me cu.ea).drops
  have hnoted : countedFrame s (u.noted cu.ea (bindNote b) due) cu f :=
    ((countedFrame_fired ..).own (ownEffect_modMe ..)).own (ownEffect_noted ..)
  obtain ⟨n, hn⟩ := u.me_noted cu.ea (bindNote b) due
  refine ⟨_, n, exec_mrow h hmode, hnoted.own (ownEffect_after ..), ?_, State.awaits_after hnoted.now ..⟩
  rw [State.me_after, hn, State.me_modMe_same]

end

/-! ## mdrain (R219) -/

/-- The handles and rings of `l`, put back. -/
def State.putBack (s : State) (l : Map (Map Hnd × Map Ring)) : State :=
  l.foldl (fun s p => s.modElem p.1 (fun e => { e with handles := p.2.1, rings := p.2.2 })) s

theorem State.asFound_eq (s : State) : s.asFound = s.putBack s.found := rfl

theorem State.sameElem_putBack {s t : State} (h : ∀ x, sameElem (s.elem x) (t.elem x)) (l : Map (Map Hnd × Map Ring)) (x : Nat) :
    sameElem ((s.putBack l).elem x) ((t.putBack l).elem x) := by
  induction l generalizing s t with
  | nil => exact h x
  | cons p l ih =>
    refine ih (s := s.modElem p.1 _) (t := t.modElem p.1 _) fun y => ?_
    by_cases hy : y = p.1
    · subst hy
      have hsame := h p.1
      unfold sameElem at *
      rw [State.elem_modElem_same, State.elem_modElem_same, hsame]
    · simpa [hy] using h y

theorem State.putBack_keeps (s : State) (l : Map (Map Hnd × Map Ring)) (x : Nat) :
    ((s.putBack l).elem x).work = (s.elem x).work ∧ (s.putBack l).me x = s.me x := by
  induction l generalizing s with
  | nil => exact ⟨rfl, rfl⟩
  | cons p l ih =>
    obtain ⟨hwork, hme⟩ := ih (s.modElem p.1 (fun e => { e with handles := p.2.1, rings := p.2.2 }))
    unfold State.me at hme ⊢
    by_cases hx : x = p.1
    · subst hx
      rw [State.elem_modElem_same] at hwork hme
      exact ⟨hwork, hme⟩
    · rw [State.elem_modElem_ne _ _ _ _ hx] at hwork hme
      exact ⟨hwork, hme⟩

/-- The output handle hangs on the records of the SEs and on the ME's pointer. -/
theorem State.outHandle_congr {s t : State} {ea : Nat} (hwork : ∀ x, (t.elem x).work = (s.elem x).work)
    (hptr : (t.me ea).optr = (s.me ea).optr) : t.outHandle ea = s.outHandle ea := by
  unfold State.me at hptr
  simp only [State.outHandle, Elem.ringHandles, hwork, hptr]

theorem State.outHandle_asFound (s : State) (ea : Nat) : s.asFound.outHandle ea = s.outHandle ea :=
  State.outHandle_congr (fun x => (s.putBack_keeps s.found x).1) (congrArg Me.optr (s.putBack_keeps s.found ea).2)

/-- What mdrain would report hangs on what a firing leaves of its element. -/
theorem drainDue_congr {s t : State} (h : ∀ x, sameElem (s.elem x) (t.elem x)) (ea : Nat) : drainDue t ea = drainDue s ea := by
  have hme : t.me ea = s.me ea := by
    rw [State.me, h ea]
    rfl
  have hhnd (x k : Nat) : (t.elem x).hnd k = (s.elem x).hnd k := Elem.hnd_congr (by rw [h x]) k
  have hout : t.outHandle ea = s.outHandle ea := State.outHandle_congr (fun x => by rw [h x]) (congrArg Me.optr hme)
  have hopen : t.outOpen ea = s.outOpen ea := by
    unfold State.outOpen
    rw [hout]
    cases s.outHandle ea with
    | none => rfl
    | some p => simp only [hhnd]
  rw [drainDue, drainDue, hopen, hme]

theorem fireFrame.found {s t : State} {cu : Cursor} (h : fireFrame s t cu) : t.found = s.found := by
  obtain ⟨⟨-, -, -, hmodule, -⟩, -, -⟩ := h
  rw [hmodule]

theorem fireFrame.sameElem {s t : State} {cu : Cursor} (h : fireFrame s t cu) (x : Nat) : sameElem (s.elem x) (t.elem x) := by
  obtain ⟨⟨-, hother, -⟩, hown, -⟩ := h
  by_cases hx : x = cu.ea
  · exact hx ▸ hown
  · rw [hother x hx]
    rfl

theorem drainDue_fired (s : State) (cu : Cursor) (f : SlotF) (fl : FlagSet) :
    drainDue (s.fired cu f fl).asFound cu.ea = drainDue s.asFound cu.ea := by
  have hfired := fireFrame_fired s cu f fl
  refine drainDue_congr (fun x => ?_) cu.ea
  rw [State.asFound_eq, State.asFound_eq, hfired.found]
  exact State.sameElem_putBack hfired.sameElem s.found x

theorem ownEffect_advanceOut (u : State) (cu : Cursor) : ownEffect u (u.advanceOut cu.ea) cu := ownEffect_modMe ..

theorem State.outHandle_fired (s : State) (cu : Cursor) (f : SlotF) (fl : FlagSet) :
    (s.fired cu f fl).outHandle cu.ea = s.outHandle cu.ea :=
  State.outHandle_congr (fun x => by rw [(fireFrame_fired s cu f fl).sameElem x]) (congrArg Me.optr (fireFrame_fired s cu f fl).me)

/-- A handle that mdrain would report is there. -/
theorem drainDue_outHandle {s : State} {ea : Nat} (hdue : drainDue s.asFound ea = true) : ∃ o h, s.outHandle ea = some (o, h) := by
  cases hout : s.outHandle ea with
  | none => simp [drainDue, State.outOpen, State.outHandle_asFound, hout] at hdue
  | some p => exact ⟨p.1, p.2, rfl⟩

theorem State.me_advanceOut (u : State) (ea : Nat) :
    ((u.advanceOut ea).me ea).owr = 0 ∧ ((u.advanceOut ea).me ea).oflags = 0 ∧
      ((u.advanceOut ea).me ea).opos = (u.me ea).opos - (u.me ea).owr := by
  rw [State.advanceOut, State.me_modMe_same]
  exact ⟨rfl, rfl, rfl⟩

section
variable {s : State} {cu : Cursor} {f : SlotF} (h : s.goes cu f)
include h

theorem exec_mdrain_idle (hidle : drainDue s.asFound cu.ea = false) :
    exec (.mdrain f) s = .next (s.fired cu f (sourceFlags s cu f)) := by
  change execMdrain f s = _
  rw [execMdrain, State.fireWith_eq h]
  simp only [drainDue_fired, hidle, Bool.not_false, if_true]
  split <;> rfl

/-- mdrain sends the notice of the rows written, where the binding asks for it, and the pointer advances. -/
theorem exec_mdrain_due (hdue : drainDue s.asFound cu.ea = true) :
    ∃ u, exec (.mdrain f) s = .next (u.advanceOut cu.ea) ∧ ownEffect (s.fired cu f (sourceFlags s cu f)) u cu := by
  obtain ⟨o, k, hout⟩ := drainDue_outHandle hdue
  change ∃ u, execMdrain f s = _ ∧ _
  rw [execMdrain, State.fireWith_eq h]
  simp only [drainDue_fired, hdue, State.outHandle_fired, hout, Bool.not_true, Bool.false_eq_true, if_false]
  split
  · exact ⟨_, rfl, (ownEffect_reserve ..).trans (ownEffect_after ..)⟩
  · exact ⟨_, rfl, (fireFrame.refl _ cu).ownEffect (.refl ..)⟩

end

/-! ## mld.b and mld.bs (R215) -/

/-- The plane that a firing of mld begins to load, from the handle `k` of its SE. -/
def startedPlane (s : State) (cu : Cursor) (f : SlotF) (sparse : Bool) (k : Nat) : MePlane :=
  let e := s.elem cu.ea
  { MePlane.zero with
    st := .loading, load := s.serial, fmt := mBfmt e.me.mode, spa := sparse, tr := f.lit.getLsbD 4
    rnd := ecwRnd (e.ecwNow s.now), se := bindSe cu.ea e.work.meb 6, handle := k }

/-- An ME takes the handle `k` at the drain pointer of the ring of an SE, and the pointer advances. -/
def State.meTakes (u : State) (se k ring : Nat) : State :=
  u.modElem se (fun x => (x.setHnd k ⟨.draining, 3, none, 0⟩).advanceRing ring true)

theorem Elem.handles_advanceRing (e : Elem) (r : Nat) (drain : Bool) : (e.advanceRing r drain).handles = e.handles := rfl

theorem State.hnd_meTakes (u : State) (se k ring : Nat) : ((u.meTakes se k ring).elem se).hnd k = ⟨.draining, 3, none, 0⟩ := by
  rw [State.meTakes, State.elem_modElem_same, Elem.hnd_congr (Elem.handles_advanceRing ..), Elem.hnd_setHnd_same]

theorem Me.plane_setPlane_same (m : Me) (one : Bool) (p : MePlane) : (m.setPlane one p).plane one = p := by
  cases one <;> rfl

theorem stays_of_elem {s t : State} {cu : Cursor} (h : t.elem cu.ea = s.elem cu.ea) : stays s t cu := by
  refine ⟨fun c => ?_, ?_, ?_, fun c => ?_⟩ <;> simp only [State.ctx, State.chan, h]

/-- A firing that takes a handle of another element for its plane `one`, which is then `p`. -/
theorem meTakes_setPlane {s v : State} {cu : Cursor} {f : SlotF} (hv : countedFrame s v cu f) {se : Nat} (hse : se ≠ cu.ea)
    (k ring : Nat) (one : Bool) (p : MePlane) (i : Instr) :
    let t := ((v.meTakes se k ring).modMe cu.ea (·.setPlane one p)).after 1 i
    s.counts t cu f ∧ sameMemory s t ∧ (∀ c, sameCtx (s.ctx cu.ea c) (t.ctx cu.ea c)) ∧
      (t.elem se).hnd k = ⟨.draining, 3, none, 0⟩ ∧ (t.me cu.ea).plane one = p ∧ t.awaits (s.now + 1) i := by
  intro t
  have hnow : v.now = s.now := hv.now
  have htaken : (v.meTakes se k ring).elem cu.ea = v.elem cu.ea := State.elem_modElem_ne _ _ _ _ hse.symm
  obtain ⟨hcounts, ⟨hmemory, -⟩, hctx⟩ := hv
  obtain ⟨-, kctx, kstays⟩ : ownEffect (v.meTakes se k ring) t cu := (ownEffect_modMe ..).trans (ownEffect_after ..)
  refine ⟨State.counts_stays (State.counts_stays hcounts (stays_of_elem htaken)) kstays, hmemory.trans (sameMemory_of rfl rfl rfl),
    fun c => (hctx c).trans ?_, ?_, ?_, State.awaits_after hnow ..⟩
  · have hsame : (v.meTakes se k ring).ctx cu.ea c = v.ctx cu.ea c := congrArg (Elem.ctx · c) htaken
    rw [← hsame]
    exact kctx c
  · rw [State.elem_after, State.elem_modMe_ne _ _ hse, State.hnd_meTakes]
  · rw [State.me_after, State.me_modMe_same, Me.plane_setPlane_same]

section
variable {s : State} {cu : Cursor} {f : SlotF} (h : s.goes cu f) {sparse : Bool}
include h

theorem State.fireMld_fault {code d : Nat} {aux : Word} (hbad : mldFault s.asFound cu.ea sparse f.lit = some (code, aux, d)) :
    s.fireMld f sparse = s.raiseSync cu code d aux := by
  simp only [State.fireMld, h.1, hbad]

variable (hgood : mldFault s.asFound cu.ea sparse f.lit = none) {k : Nat}
  (hring : (s.asFound.elem (bindSe cu.ea (s.elem cu.ea).work.meb 6)).ringAt (f.lit.toNat % 16) true = some k) {one : Bool}
  (hempty : (s.me cu.ea).emptyPlane = some one)
include hgood hring hempty

theorem State.fireMld_taken (hst : ((s.elem (bindSe cu.ea (s.elem cu.ea).work.meb 6)).hnd k).st ≠ .full) :
    s.fireMld f sparse = s.raiseSync cu 0x22 2 ((s.elem (bindSe cu.ea (s.elem cu.ea).work.meb 6)).fullWord k) := by
  unfold State.me at hempty
  simp [State.fireMld, h.1, hgood, hring, hempty, hst]

theorem State.fireMld_loads (hst : ((s.elem (bindSe cu.ea (s.elem cu.ea).work.meb 6)).hnd k).st = .full) :
    s.fireMld f sparse =
      (((s.bump.fired cu f (sourceFlags s cu f)).meTakes (bindSe cu.ea (s.elem cu.ea).work.meb 6) k (f.lit.toNat % 16)).modMe cu.ea
        (·.setPlane one (startedPlane s cu f sparse k))).after 1 (.mePlaneRead cu.ea (s.serial, none)) := by
  unfold State.me at hempty
  have hbump : s.bump.goes cu f := h
  simp only [State.fireMld, h.1, hgood, hring, hempty, hst, State.fireWith_eq hbump]
  rfl

/-- mld takes the FULL handle, and its plane is LOADING from the next cycle on. -/
theorem fireMld_loading (hst : ((s.elem (bindSe cu.ea (s.elem cu.ea).work.meb 6)).hnd k).st = .full)
    (hse : bindSe cu.ea (s.elem cu.ea).work.meb 6 ≠ cu.ea) :
    let t := s.fireMld f sparse
    s.counts t cu f ∧ sameMemory s t ∧ (∀ c, sameCtx (s.ctx cu.ea c) (t.ctx cu.ea c)) ∧
      (t.elem (bindSe cu.ea (s.elem cu.ea).work.meb 6)).hnd k = ⟨.draining, 3, none, 0⟩ ∧
      (t.me cu.ea).plane one = startedPlane s cu f sparse k ∧ t.awaits (s.now + 1) (.mePlaneRead cu.ea (s.serial, none)) := by
  rw [State.fireMld_loads h hgood hring hempty hst]
  exact meTakes_setPlane (countedFrame_bump_fired ..) hse ..

end

/-- Settles O22: each instruction by its checks in their order, and by what it leaves of the ME when it passes them. -/
theorem matrixFirings : Obligations.MatrixFirings := by
  unfold Obligations.MatrixFirings
  intro s cu f h e m se ring land loads
  have loading {i : Instr} {sparse : Bool} (hi : exec i s = .next (s.fireMld f sparse)) : loads i sparse := by
    refine ⟨fun code aux d hbad => ?_, fun k one hgood hring hempty hst => ?_, fun k one hgood hring hempty hst hse => ?_⟩
    · rw [hi, State.fireMld_fault h hbad]
    · rw [hi, State.fireMld_taken h hgood hring hempty hst]
    · obtain ⟨hcounts, hmemory, hctx, hhnd, hplane, hawaits⟩ := fireMld_loading h hgood hring hempty hst hse
      refine ⟨_, hi, hcounts, hmemory, hctx, hhnd, ?_⟩
      rw [hplane]
      exact ⟨rfl, rfl, hawaits⟩
  refine ⟨loading rfl, loading rfl, exec_mrow_noMode h, fun hmode => ?_, exec_mcfg_refused h, fun hgood => ?_,
    fireWith_fires (.mclr f) _ h rfl, fun hidle => firesWith_of_fired (exec_mdrain_idle h hidle), fun hdue => ?_⟩
  · obtain ⟨t, n, ht, ⟨hcounts, hframe, hctx⟩, hme, hawaits⟩ := mrow_steps h hmode
    exact ⟨t, ht, hcounts, hframe, hctx, ⟨n, hme⟩, hawaits⟩
  · obtain ⟨t, ht, ⟨hcounts, hframe, hctx⟩, hme⟩ := mcfg_configures h hgood
    refine ⟨t, ht, hcounts, hframe, hctx, ?_⟩
    rw [hme]
    exact ⟨rfl, rfl, rfl, fun hzero => by simp [Me.configured, hzero]⟩
  · obtain ⟨u, hu, hown⟩ := exec_mdrain_due h hdue
    obtain ⟨howr, hoflags, -⟩ := u.me_advanceOut cu.ea
    obtain ⟨hcounts, hframe, hctx⟩ := ((countedFrame_fired ..).own hown).own (ownEffect_advanceOut u cu)
    exact ⟨_, hu, hcounts, hframe, hctx, howr, hoflags⟩

end Sys2Proof.Machine
end

section
/-! SUPPORT. The matrix engine at work (R208, R209, R212, R215, R218): its queues and planes are read, its rows land and are written,
and the notice of a complete handle is sent. Settles O35. -/

namespace Sys2Proof.Machine

/-! ## What the engine leaves alone -/

theorem servedFrame.sameProgram {s t : State} (h : servedFrame s t) : sameProgram s t :=
  ⟨sameMemory_of h.mem h.poison h.full, fun ea c => by rw [h.ctx]; exact .refl _⟩

theorem recordFrame_progressAt (s : State) (ea : Nat) : recordFrame s (s.progressAt ea) := by
  unfold State.progressAt
  split
  · exact recordFrame_modGroup ..
  · exact .refl s

theorem servedFrame_modMe (s : State) (ea : Nat) (g : Me → Me) : servedFrame s (s.modMe ea g) := servedFrame_modElem s ea _ rfl

theorem servedFrame_bump (s : State) : servedFrame s s.bump := ⟨rfl, rfl, rfl, rfl, rfl, rfl, fun _ _ => rfl, fun _ h => h⟩

theorem recordFrame.me {s t : State} (h : recordFrame s t) (ea : Nat) : t.me ea = s.me ea := congrArg Elem.me (h.elem ea)

/-! ## Reads of a handle by the engine (R173, R208) -/

/-- Groups, banks and the agenda alone have changed; nothing has left the agenda or the queue of a bank. -/
structure accessFrame (s t : State) : Prop where
  only : t = { s with groups := t.groups, banks := t.banks, agenda := t.agenda }
  agenda : s.keepsAgenda t
  queues : ∀ n, ∀ q ∈ (s.bank n).q, q ∈ (t.bank n).q

theorem accessFrame.trans {s t u : State} (h : accessFrame s t) (k : accessFrame t u) : accessFrame s u :=
  ⟨by rw [k.only, h.only], h.agenda.trans k.agenda, fun n q hq => k.queues n q (h.queues n q hq)⟩

theorem recordFrame.access {s t : State} (h : recordFrame s t) : accessFrame s t := by
  obtain ⟨honly, hagenda⟩ := h
  refine ⟨?_, hagenda, fun n q hq => ?_⟩
  · rw [honly]
  · rw [honly]
    exact hq

section
variable {s t : State} (h : accessFrame s t)
include h

theorem accessFrame.elem (x : Nat) : t.elem x = s.elem x := by rw [h.only]; rfl

theorem accessFrame.me (x : Nat) : t.me x = s.me x := congrArg Elem.me (h.elem x)

theorem accessFrame.now : t.now = s.now := by rw [h.only]

theorem accessFrame.served : servedFrame s t :=
  ⟨by rw [h.only], by rw [h.only], by rw [h.only], by rw [h.only], h.now, by rw [h.only],
    fun ea c => congrArg (Elem.ctx · c) (h.elem ea), h.agenda⟩

end

/-- A request that takes no credit joins the queue of its bank. -/
theorem State.bank_bankEnter (s : State) (a port : Nat) (i : Instr) (n : Nat) : (s.bankEnter a port i none).bank n =
    if n = bankOf a then { s.bank n with q := (s.bank n).q ++ [⟨port, s.now, i, none⟩] } else s.bank n := by
  simp only [State.bankEnter, State.creditBack, ite_self]
  by_cases hn : n = bankOf a
  · rw [if_pos hn, hn]
    exact tget_tput_same ..
  · rw [if_neg hn]
    exact tget_tput_ne _ _ _ _ _ hn

theorem accessFrame_bankEnter (s : State) (a port : Nat) (i : Instr) : accessFrame s (s.bankEnter a port i none) := by
  refine ⟨?_, ?_, fun n q hq => ?_⟩
  · simp only [State.bankEnter, State.creditBack, ite_self]
    rfl
  · simp only [State.bankEnter, State.creditBack, ite_self]
    exact State.keepsAgenda_at (s.setBank _ _) _ _
  · rw [State.bank_bankEnter]
    split
    · exact List.mem_append_left _ hq
    · exact hq

theorem State.mem_bankEnter (s : State) (a port : Nat) (i : Instr) :
    ∃ q ∈ ((s.bankEnter a port i none).bank (bankOf a)).q, q.instr = i := by
  rw [State.bank_bankEnter, if_pos rfl]
  exact ⟨_, List.mem_append_right _ (.head _), rfl⟩

theorem accessFrame_meAccess (s : State) (ea se h o : Nat) (i : Nat → Instr) : accessFrame s (s.meAccess ea se h o i) := by
  unfold State.meAccess
  split
  · exact (recordFrame_raiseRec ..).access
  · exact accessFrame_bankEnter ..

theorem State.mem_meAccess {s : State} {se h o a : Nat} (ha : s.handleAddr se h o = some a) (ea : Nat) (i : Nat → Instr) :
    ∃ q ∈ ((s.meAccess ea se h o i).bank (bankOf a)).q, q.instr = i a := by
  simp only [State.meAccess, ha]
  exact State.mem_bankEnter ..

theorem accessFrame_readParts (s : State) (ea se h o : Nat) (i : Nat → Nat → Instr) (ks : List Nat) :
    accessFrame s (s.readParts ea se h o i ks) := by
  induction ks generalizing s with
  | nil => exact (recordFrame.refl s).access
  | cons k ks ih => exact (accessFrame_meAccess ..).trans (ih _)

/-- The first part of a read waits at the bank of its address. -/
theorem State.mem_readParts {s : State} {se h o a n : Nat} (hn : 0 < n) (ha : s.handleAddr se h o = some a) (ea : Nat)
    (i : Nat → Nat → Instr) :
    ∃ q ∈ ((s.readParts ea se h o i (List.range n)).bank (bankOf a)).q, q.instr = i 0 a := by
  obtain ⟨m, rfl⟩ := Nat.exists_eq_add_of_lt hn
  rw [Nat.zero_add, List.range_succ_eq_map, State.readParts]
  obtain ⟨q, hq, hinstr⟩ := State.mem_meAccess (o := o + 64 * 0) ha ea (i 0)
  exact ⟨q, (accessFrame_readParts ..).queues _ q hq, hinstr⟩

/-- The address of a byte of a handle hangs on the handle's record and on the partitions of the cycle. -/
theorem State.handleAddr_congr {s t : State} {se : Nat} (hwork : (t.elem se).work = (s.elem se).work) (hhubs : t.hubs = s.hubs)
    (hnow : t.now = s.now) (h o : Nat) : t.handleAddr se h o = s.handleAddr se h o := by
  unfold State.handleAddr State.partAddr State.hub
  rw [hwork, hhubs, hnow]

theorem State.handleLat_congr {s t : State} {se : Nat} (hwork : (t.elem se).work = (s.elem se).work) (h : Nat) :
    t.handleLat se h = s.handleLat se h := by
  simp only [State.handleLat, hwork]

/-- A read of clean units gives their bytes, and is progress. -/
theorem State.meRead_clean {s : State} (hinjs : s.injs = []) {a : Nat} (hclean : ∀ i < 8, s.poisoned (unitOf a + i) = false)
    (ea : Nat) : (s.progressAt ea).meRead a = (s.progressAt ea, s.readBytes a 64, false) := by
  have hprogress := recordFrame_progressAt s ea
  have hinjs' : (s.progressAt ea).injs = [] := by rw [hprogress.1]; exact hinjs
  have htouch : (List.range 8).foldl (fun u i => u.touch (a + 8 * i)) (s.progressAt ea) = s.progressAt ea :=
    State.foldl_keeps (fun u => u = s.progressAt ea) _ _ (fun u i hu => by rw [hu, State.touch_of_no_injs hinjs']) rfl
  have hbytes : (s.progressAt ea).readBytes a 64 = s.readBytes a 64 := by
    simp only [State.readBytes, hprogress.served.readByte]
  have hany : (List.range 8).any (fun i => (s.progressAt ea).poisoned (unitOf a + i)) = false := by
    simpa [hprogress.served.poisoned] using hclean
  simp only [State.meRead, htouch, hbytes, hany]

/-! ## Queues (R208) -/

/-- The row of the A queue that the next read is for. -/
def State.nextRow (s : State) (ea : Nat) : MeRow := ⟨s.serial, [], aRowBytes (s.me ea).mode / 64, 0, false⟩

/-- The next row is listed in the A queue, its read still to be sent. -/
def State.rowListed (s : State) (ea : Nat) : State :=
  let q := (s.me ea).aq
  s.bump.modMe ea (fun m => { m with aq := { q with next := q.next + 1, rows := q.rows ++ [s.nextRow ea] } })

theorem servedFrame_rowListed (s : State) (ea : Nat) : servedFrame s (s.rowListed ea) := by
  unfold State.rowListed
  exact (servedFrame_bump s).trans (servedFrame_modMe ..)

theorem State.work_rowListed (s : State) (ea x : Nat) : ((s.rowListed ea).elem x).work = (s.elem x).work :=
  State.work_modMe s.bump ..

/-- The next row is listed, and its read is sent to the banks. -/
def State.nextRowRead (s : State) (ea h : Nat) : State :=
  let n := aRowBytes (s.me ea).mode
  (s.rowListed ea).readParts ea (bindSe ea (s.elem ea).work.meb 5) h ((s.me ea).aq.next * n)
    (fun k a => .meRowReadServed ea false s.serial k a) (List.range (n / 64))

theorem accessFrame_nextRowRead (s : State) (ea h : Nat) : accessFrame (s.rowListed ea) (s.nextRowRead ea h) := accessFrame_readParts ..

theorem servedFrame_nextRowRead (s : State) (ea h : Nat) : servedFrame s (s.nextRowRead ea h) :=
  (servedFrame_rowListed ..).trans (accessFrame_nextRowRead ..).served

section
variable {s : State} {ea h : Nat} (hmode : (s.me ea).mode ≠ 0) (hfree : (s.group (s.groupNo ea)).stopsAt ea = false)
  (ha : bindHas (s.elem ea).work.meb 0 = true) (hc : bindHas (s.elem ea).work.meb 3 = false)
  (hhandle : (s.me ea).aq.handle = some h) (hroom : (s.me ea).aq.rows.length < 16)
  (hport : s.mePortHolds ea (bindSe ea (s.elem ea).work.meb 5) = false)
  (hmore : (s.me ea).aq.next < (s.elem (bindSe ea (s.elem ea).work.meb 5)).handleBytes h / aRowBytes (s.me ea).mode)
include hmode hfree ha hc hhandle hroom hport hmore

theorem exec_meQueueFill : exec (.meQueueFill ea) s = .next ((s.nextRowRead ea h).after 1 (.meQueueFill ea)) := by
  have hread : s.fillQueue ea false = s.nextRowRead ea h := by
    simp [State.fillQueue, State.readRow, State.nextRowRead, State.rowListed, State.nextRow, Me.queue, Me.setQueue, Me.rowBytes, ha,
      hhandle, hroom, hport, hmore]
  have hnone : (s.nextRowRead ea h).fillQueue ea true = s.nextRowRead ea h := by
    rw [State.fillQueue, (accessFrame_nextRowRead ..).elem, State.work_rowListed, if_pos (by simp [hc])]
  change execMeQueueFill ea s = _
  simp only [execMeQueueFill, beq_iff_eq, hmode, hfree, hread, hnone, if_false, Bool.false_eq_true]

/-- The row that the next read is for is listed, and the first part of the read waits at its bank. -/
theorem meQueueFill_reads {a : Nat} (hrow : 64 ≤ aRowBytes (s.me ea).mode)
    (haddr : s.handleAddr (bindSe ea (s.elem ea).work.meb 5) h ((s.me ea).aq.next * aRowBytes (s.me ea).mode) = some a) :
    gives (.meQueueFill ea) s (fun t =>
      (t.me ea).aq = { (s.me ea).aq with next := (s.me ea).aq.next + 1, rows := (s.me ea).aq.rows ++ [s.nextRow ea] } ∧
      (∃ q ∈ (t.bank (bankOf a)).q, q.instr = .meRowReadServed ea false (s.nextRow ea).id 0 a) ∧
      t.awaits (s.now + 1) (.meQueueFill ea) ∧ servedFrame s t) := by
  have hserved := servedFrame_nextRowRead s ea h
  have hparts : 0 < aRowBytes (s.me ea).mode / 64 := by omega
  refine ⟨_, exec_meQueueFill hmode hfree ha hc hhandle hroom hport hmore, ?_, ?_, State.awaits_after hserved.now ..,
    hserved.trans (servedFrame_at ..)⟩
  · rw [State.me_after, (accessFrame_nextRowRead ..).me, State.rowListed, State.me_modMe_same]
  · exact State.mem_readParts hparts ((State.handleAddr_congr (State.work_rowListed ..) rfl rfl ..).trans haddr) ..

end

/-- The part of a row that a read of 64 bytes brings joins the row. -/
theorem MeQueue.serve_only {q : MeQueue} {row : MeRow} (h : q.rows = [row]) (part : Nat) (bytes : List Byte) (ready : Nat) :
    q.serve row.id part bytes false ready =
      { q with rows := [{ row with parts := tput [] part bytes row.parts, ready := max row.ready ready }] } := by
  simp [MeQueue.serve, h]

theorem exec_meRowReadServed_part {s : State} {ea h a : Nat} {row : MeRow} (hinjs : s.injs = [])
    (hhandle : (s.me ea).aq.handle = some h) (hrows : (s.me ea).aq.rows = [row])
    (hclean : ∀ i < 8, s.poisoned (unitOf a + i) = false) (hparts : row.parts.length + 1 < row.need)
    (hmore : (s.me ea).aq.served < (s.elem (bindSe ea (s.elem ea).work.meb 5)).handleBytes h / aRowBytes (s.me ea).mode) :
    exec (.meRowReadServed ea false row.id 0 a) s = .next ((s.progressAt ea).modMe ea (fun m => { m with
      aq := { (s.me ea).aq with rows := [{ row with
        parts := tput [] 0 (s.readBytes a 64) row.parts
        ready := max row.ready (s.now + s.handleLat (bindSe ea (s.elem ea).work.meb 5) h) }] } })) := by
  have hprogress := recordFrame_progressAt s ea
  have hlat := State.handleLat_congr (congrArg Elem.work (hprogress.elem (bindSe ea (s.elem ea).work.meb 5))) h
  have hwhole : (row.parts.length + 1 == row.need) = false := by simp [Nat.ne_of_lt hparts]
  have hfind : [row].find? (fun r => r.id == row.id) = some row := by simp
  change execMeRowReadServed ea false row.id 0 a s = _
  simp only [execMeRowReadServed, Me.queue, Bool.false_eq_true, if_false, hhandle, hrows, hfind, State.meRead_clean hinjs hclean,
    Bool.false_and, MeQueue.serve_only hrows, hwhole, hprogress.elem, hprogress.me, hprogress.now, hlat, Me.rowBytes, beq_iff_eq,
    Nat.ne_of_lt hmore]
  rfl

/-! ## Planes (R215) -/

theorem Me.loadingPlane_st {m : Me} {one : Bool} {p : MePlane} (h : m.loadingPlane = some (one, p)) : p.st = .loading := by
  unfold Me.loadingPlane at h
  split at h
  · rename_i hst
    cases h
    exact beq_iff_eq.mp hst
  · split at h
    · rename_i hst
      cases h
      exact beq_iff_eq.mp hst
    · cases h

theorem planeParts_pos (p : MePlane) : 0 < planeParts p := by
  unfold planeParts readBytesOf
  split <;> decide

/-- The read that a plane issues next: its parts are sent to the banks. -/
def State.nextPlaneRead (s : State) (ea : Nat) (one : Bool) (p : MePlane) : State :=
  let o := planeOffset p p.issued
  (s.modMe ea (·.setPlane one { p with issued := p.issued + 1 })).readParts ea p.se p.handle o
    (fun k a => .mePlaneRead ea (p.load, some (o / 64 + k, a))) (List.range (planeParts p))

/-- The plane with the bytes that a read brings to its place `k`. -/
def MePlane.joined (p : MePlane) (k : Nat) (bytes : List Byte) : MePlane :=
  { p with served := p.served + 1, bytes := tput [] k bytes p.bytes }

section
variable {s : State} {ea : Nat} {one : Bool} {p : MePlane} (hload : (s.me ea).loadingPlane = some (one, p))
include hload

theorem exec_mePlaneRead_issues (hfree : (s.group (s.groupNo ea)).stopsAt ea = false) (hport : s.mePortHolds ea p.se = false)
    (hgood : p.bad = false) (hmore : p.issued < planeReads p) :
    exec (.mePlaneRead ea (p.load, none)) s = .next (
      if p.issued + 1 < planeReads p then (s.nextPlaneRead ea one p).after 1 (.mePlaneRead ea (p.load, none))
      else s.nextPlaneRead ea one p) := by
  change execMePlaneRead ea (p.load, none) s = _
  simp [execMePlaneRead, hload, hfree, State.planeIssue, hgood, Nat.not_le.mpr hmore, hport, State.nextPlaneRead]

/-- A plane that is LOADING issues its next read. -/
theorem mePlaneRead_issues (hfree : (s.group (s.groupNo ea)).stopsAt ea = false) (hport : s.mePortHolds ea p.se = false)
    (hgood : p.bad = false) (hmore : p.issued < planeReads p) {a : Nat}
    (haddr : s.handleAddr p.se p.handle (planeOffset p p.issued) = some a) :
    gives (.mePlaneRead ea (p.load, none)) s (fun t => (t.me ea).plane one = { p with issued := p.issued + 1 } ∧
      (∃ q ∈ (t.bank (bankOf a)).q, q.instr = .mePlaneRead ea (p.load, some (planeOffset p p.issued / 64, a))) ∧
      servedFrame s t) := by
  refine ⟨_, exec_mePlaneRead_issues hload hfree hport hgood hmore, ?_⟩
  have hreads : accessFrame (s.modMe ea (·.setPlane one { p with issued := p.issued + 1 })) (s.nextPlaneRead ea one p) :=
    accessFrame_readParts ..
  have hserved : servedFrame s (s.nextPlaneRead ea one p) := (servedFrame_modMe ..).trans hreads.served
  have hplane : ((s.nextPlaneRead ea one p).me ea).plane one = { p with issued := p.issued + 1 } := by
    rw [hreads.me, State.me_modMe_same, Me.plane_setPlane_same]
  have hread : ∃ q ∈ ((s.nextPlaneRead ea one p).bank (bankOf a)).q,
      q.instr = .mePlaneRead ea (p.load, some (planeOffset p p.issued / 64, a)) :=
    State.mem_readParts (planeParts_pos p) ((State.handleAddr_congr (State.work_modMe ..) rfl rfl ..).trans haddr) ..
  split
  · exact ⟨hplane, hread, hserved.trans (servedFrame_at ..)⟩
  · exact ⟨hplane, hread, hserved⟩

/-- The last read of a plane is served: the plane is READY once the bytes have come back. -/
theorem exec_mePlaneRead_last (hgood : p.bad = false) (hdense : p.spa = false) (hlast : p.served + 1 = planeReads p * planeParts p)
    (hinjs : s.injs = []) {k a : Nat} (hclean : ∀ i < 8, s.poisoned (unitOf a + i) = false) :
    exec (.mePlaneRead ea (p.load, some (k, a))) s = .next (
      ((s.progressAt ea).modMe ea (·.setPlane one (p.joined k (s.readBytes a 64)))).after (s.handleLat p.se p.handle + 1)
        (.mePlaneReady ea)) := by
  have hjoined : ({ p with bytes := tput [] k (s.readBytes a 64) p.bytes, served := p.served + 1, bad := false } : MePlane) =
      p.joined k (s.readBytes a 64) := by rw [← hgood]; rfl
  have hserved : p.served + 1 =
      planeReads (p.joined k (s.readBytes a 64)) * planeParts (p.joined k (s.readBytes a 64)) := hlast
  have hlat (g : Me → Me) : ((s.progressAt ea).modMe ea g).handleLat p.se p.handle = s.handleLat p.se p.handle :=
    State.handleLat_congr ((State.work_modMe ..).trans (congrArg Elem.work ((recordFrame_progressAt s ea).elem p.se))) p.handle
  change execMePlaneRead ea (p.load, some (k, a)) s = _
  simp only [execMePlaneRead, hload, bne_self_eq_false, Bool.false_eq_true, if_false, State.planeServed,
    State.meRead_clean hinjs hclean, hgood, Bool.false_and, Bool.or_false, hjoined, ← hserved, beq_self_eq_true, if_true]
  simp only [hdense, Bool.false_and, Bool.false_eq_true, if_false]
  exact congrArg (fun n => Host.Outcome.next (State.after _ (n + 1) _)) (hlat _)

theorem exec_mePlaneReady (hserved : p.served = planeReads p * planeParts p) :
    exec (.mePlaneReady ea) s = .next ((s.modMe ea (·.setPlane one p.form)).handleFree p.se p.handle) := by
  change execMePlaneReady ea s = _
  simp only [execMePlaneReady, hload, hserved, beq_self_eq_true, if_true]

end

theorem MePlane.form_cols (p : MePlane) :
    p.form.cols = (List.range 64).map (fun n => (List.range 64).map (fun k => (planeElem p k n).1)) := by
  simp only [MePlane.form, List.map_map, Function.comp_def]

/-- Where a handle becomes FREE, the permit for its ring's flow may set out. -/
theorem recordFrame_handleFree (s : State) (ea h : Nat) :
    recordFrame (s.modElem ea (fun e => e.setHnd h .zero)) (s.handleFree ea h) := by
  unfold State.handleFree
  dsimp only
  split
  · split
    · exact recordFrame_at ..
    · exact .refl _
  · exact .refl _

theorem servedFrame_handleFree (s : State) (ea h : Nat) : servedFrame s (s.handleFree ea h) :=
  (servedFrame_modElem s ea _ rfl).trans (recordFrame_handleFree ..).served

theorem State.elem_handleFree_ne (s : State) {ea x : Nat} (h : Nat) (hx : x ≠ ea) : (s.handleFree ea h).elem x = s.elem x :=
  ((recordFrame_handleFree s ea h).elem x).trans (State.elem_modElem_ne _ _ _ _ hx)

/-! ## Rows that land (R209, R212, R218) -/

/-- The ME after the row `y` at the head of those in flight has landed in ACC. -/
def Me.landed (m : Me) (y : MeFly) (rest : List MeFly) : Me :=
  { m with
    fly := rest, mls := m.mls ||| y.ls, acc := tput [] y.j y.r m.acc, accls := tput 0 y.j y.cls m.accls
    accf := tput 0 y.j y.flags m.accf }

/-- The ME after the row `y` at the head of those in flight has left for its output handle. -/
def Me.rowLeft (m : Me) (y : MeFly) (rest : List MeFly) : Me := { m with fly := rest, mls := m.mls ||| y.ls }

/-- The parts `ks` of an output row of `n` parts set out to the handle `h` of the SE `o`. -/
def State.partsSetOut (s : State) (ea o h id n : Nat) (ks : List Nat) : State :=
  ks.foldl (fun s k => s.after (s.handleLat o h) (.meOutputRowWrite ea id (n + k))) s

theorem recordFrame_partsSetOut (s : State) (ea o h id n : Nat) (ks : List Nat) :
    recordFrame s (s.partsSetOut ea o h id n ks) := by
  induction ks generalizing s with
  | nil => exact .refl s
  | cons k ks ih => exact (recordFrame_at ..).trans (ih _)

theorem State.awaits_partsSetOut (s : State) (ea o h id n : Nat) {ks : List Nat} {k : Nat} (hk : k ∈ ks) :
    (s.partsSetOut ea o h id n ks).awaits (s.now + s.handleLat o h) (.meOutputRowWrite ea id (n + k)) := by
  induction ks generalizing s with
  | nil => cases hk
  | cons j ks ih =>
    cases hk with
    | head => exact (s.awaits_at _ _).kept (recordFrame_partsSetOut _ ea o h id n ks).2
    | tail _ hk => exact ih _ hk

/-- The output row that the row `y` becomes, at the handle `h` of the SE `o`. -/
def State.outRow (s : State) (ea o h : Nat) (y : MeFly) : MeOut :=
  let m := s.me ea
  let bytes := outBytes m.mode y.r y.cls
  ⟨s.serial, o, h, m.owr + m.outs.length, bytes, List.range (bytes.length / 64), y.flags⟩

/-- The output row is listed at its ME. -/
def State.rowOut (s : State) (ea o h : Nat) (y : MeFly) : State :=
  s.bump.modMe ea (fun m => { m with outs := m.outs ++ [s.outRow ea o h y] })

theorem State.writeRow_some {s : State} {ea o h : Nat} (hout : s.outHandle ea = some (o, h)) (y : MeFly) :
    let n := (outBytes (s.me ea).mode y.r y.cls).length / 64
    s.writeRow ea y = (s.rowOut ea o h y).partsSetOut ea o h s.serial n (List.range n) := by
  simp only [State.writeRow, hout]
  rfl

/-- A mismatch with no notice to come discards the rows in flight, and is a fault of the group. -/
theorem State.rowsDiscarded_noNote {s : State} {ea : Nat} (hnote : (s.me ea).note = none) (y : MeFly) (diff : Word) :
    s.rowsDiscarded ea y diff = (s.modMe ea (fun m =>
      { m with fly := [], note := none, opos := m.opos - m.fly.countP (·.out), drops := true })).raiseGroup (s.groupNo ea) ea ea 0x21
        (y.j + 256 * y.pc) diff := by
  simp only [State.rowsDiscarded, hnote]
  exact congrArg (fun u => State.raiseGroup u _ _ _ _ _ _) (State.modMe_congr s ea (by simp only [hnote, ite_self]))

section
variable {s : State} {ea : Nat} {y : MeFly} {rest : List MeFly} (hfly : (s.me ea).fly = y :: rest) (hdue : y.due ≤ s.now)
include hfly hdue

theorem exec_meRowLand_acc (hacc : y.out = false) :
    exec (.meRowLand ⟨ea, 0⟩) s = .next ((s.progressAt ea).modMe ea (fun m => m.landed y rest)) := by
  change execMeRowLand ⟨ea, 0⟩ s = _
  simp [execMeRowLand, hfly, Nat.not_lt.mpr hdue, hacc, Me.landed]

theorem exec_meRowLand_out (hout : y.out = true) (hopen : s.outOpen ea = true) :
    exec (.meRowLand ⟨ea, 0⟩) s = .next (((s.progressAt ea).modMe ea (fun m => m.rowLeft y rest)).writeRow ea y) := by
  change execMeRowLand ⟨ea, 0⟩ s = _
  simp [execMeRowLand, hfly, Nat.not_lt.mpr hdue, hout, hopen, Me.rowLeft]

theorem exec_meRowLand_differs (hred : y.red = true) {diff : Word} (hdiff : diff ≠ 0) (hnote : (s.me ea).note = none) :
    exec (.meRowLand ⟨ea, diff⟩) s = .next ((s.modMe ea (fun m =>
      { m with fly := [], note := none, opos := m.opos - m.fly.countP (·.out), drops := true })).raiseGroup (s.groupNo ea) ea ea 0x21
        (y.j + 256 * y.pc) diff) := by
  have hdiffers : (y.red && diff != 0) = true := by
    rw [hred, Bool.true_and, bne_iff_ne]
    exact hdiff
  change execMeRowLand ⟨ea, diff⟩ s = _
  simp only [execMeRowLand, hfly, Nat.not_lt.mpr hdue, if_false, hdiffers, if_true, State.rowsDiscarded_noNote hnote]

/-- A row for the output leaves for its handle, part by part. -/
theorem meRowLand_out (hout : y.out = true) (hopen : s.outOpen ea = true) {o h : Nat} (hhandle : s.outHandle ea = some (o, h)) :
    gives (.meRowLand ⟨ea, 0⟩) s (fun t => (t.me ea).fly = rest ∧ (t.me ea).acc = (s.me ea).acc ∧
      ∃ w, (t.me ea).outs = (s.me ea).outs ++ [w] ∧ w.bytes = outBytes (s.me ea).mode y.r y.cls ∧ w.handle = h ∧
        ∀ k < w.bytes.length / 64, t.awaits (s.now + s.handleLat o h) (.meOutputRowWrite ea w.id (w.bytes.length / 64 + k))) := by
  refine ⟨_, exec_meRowLand_out hfly hdue hout hopen, ?_⟩
  have hprogress := recordFrame_progressAt s ea
  generalize hu : (s.progressAt ea).modMe ea (fun m => m.rowLeft y rest) = u
  have hme : u.me ea = (s.me ea).rowLeft y rest := by rw [← hu, State.me_modMe_same, hprogress.me]
  have hwork (x : Nat) : (u.elem x).work = (s.elem x).work := by rw [← hu, State.work_modMe, hprogress.elem]
  have hnow : u.now = s.now := hu ▸ hprogress.now
  have huout : u.outHandle ea = some (o, h) := (State.outHandle_congr hwork (by rw [hme]; rfl)).trans hhandle
  have hlat : u.handleLat o h = s.handleLat o h := State.handleLat_congr (hwork o) h
  have hrow : (u.outRow ea o h y).bytes = outBytes (s.me ea).mode y.r y.cls := by
    rw [State.outRow, hme]
    rfl
  have hout : (u.rowOut ea o h y).me ea = { u.me ea with outs := (u.me ea).outs ++ [u.outRow ea o h y] } := State.me_modMe_same ..
  dsimp only
  rw [State.writeRow_some huout, (recordFrame_partsSetOut ..).me, hout, hme]
  refine ⟨rfl, rfl, u.outRow ea o h y, rfl, hrow, rfl, fun k hk => ?_⟩
  have hlat' : (u.rowOut ea o h y).handleLat o h = s.handleLat o h :=
    (State.handleLat_congr (State.work_modMe u.bump ..) h).trans hlat
  rw [hrow] at hk ⊢
  rw [← hlat', ← hnow]
  exact State.awaits_partsSetOut (u.rowOut ea o h y) (hk := List.mem_range.mpr hk) ..

end

/-! ## Output rows (R209) -/

theorem memoryOnly.trans {s t u : State} (h : memoryOnly s t) (k : memoryOnly t u) : memoryOnly s u := by
  unfold memoryOnly at *
  rw [k, h]

theorem memoryOnly_writeBytes (s : State) (a : Nat) (l : List Byte) : memoryOnly s (s.writeBytes a l) := by
  induction l generalizing s a with
  | nil => rfl
  | cons b l ih => exact memoryOnly.trans (t := s.writeByte a b) rfl (ih ..)

/-- The units from `u` on, `n` of them, are marked clean. -/
def State.unitsCleaned (s : State) (u n : Nat) : State := (List.range n).foldl (fun s i => s.setPoison (u + i) false) s

theorem memoryOnly_unitsCleaned (s : State) (u n : Nat) : memoryOnly s (s.unitsCleaned u n) :=
  State.foldl_keeps (memoryOnly s) _ _ (fun _ _ h => h.trans rfl) rfl

theorem State.readByte_unitsCleaned (s : State) (u n y : Nat) : (s.unitsCleaned u n).readByte y = s.readByte y :=
  State.foldl_keeps (fun t => t.readByte y = s.readByte y) _ _ (fun _ _ h => h) rfl

theorem State.poisoned_unitsCleaned (s : State) (u : Nat) {n i : Nat} (h : i < n) : (s.unitsCleaned u n).poisoned (u + i) = false := by
  induction n with
  | zero => omega
  | succ n ih =>
    rw [State.unitsCleaned, List.range_succ, List.foldl_append]
    change (State.setPoison (s.unitsCleaned u n) (u + n) false).poisoned (u + i) = false
    rw [State.poisoned_setPoison_false]
    by_cases hi : i = n
    · simp [hi]
    · rw [ih (by omega), Bool.false_and]

/-- Part `k` of the output row `o` is written at `a`, clean. -/
def State.partWritten (s : State) (o : MeOut) (k a : Nat) : State :=
  (s.writeBytes a ((o.bytes.drop (64 * k)).take 64)).unitsCleaned (unitOf a) 8

theorem memoryOnly_partWritten (s : State) (o : MeOut) (k a : Nat) : memoryOnly s (s.partWritten o k a) :=
  (memoryOnly_writeBytes ..).trans (memoryOnly_unitsCleaned ..)

theorem State.readByte_partWritten (s : State) {o : MeOut} {k : Nat} (hk : k < o.bytes.length / 64) (a y : Nat) :
    (s.partWritten o k a).readByte y = if a ≤ y ∧ y < a + 64 then (o.bytes[64 * k + (y - a)]?).getD 0 else s.readByte y := by
  have hlen : ((o.bytes.drop (64 * k)).take 64).length = 64 := by
    rw [List.length_take, List.length_drop]
    omega
  rw [State.partWritten, State.readByte_unitsCleaned]
  split
  · rename_i hy
    obtain ⟨i, rfl⟩ := Nat.exists_eq_add_of_le hy.1
    have hi : i < ((o.bytes.drop (64 * k)).take 64).length := by omega
    rw [State.readByte_writeBytes_in s a _ hi, Nat.add_sub_cancel_left, List.getElem_take, List.getElem_drop,
      List.getElem?_eq_getElem, Option.getD_some]
  · exact State.readByte_writeBytes_out s _ (by omega)

/-- A row that is written changes no more than its ME, and its notice may be due. -/
theorem servedFrame_rowWritten (s : State) (ea : Nat) (o : MeOut) : servedFrame s (s.rowWritten ea o) := by
  unfold State.rowWritten
  dsimp only
  split
  · exact ((servedFrame_modMe ..).trans (servedFrame_modMe ..)).trans (servedFrame_at ..)
  · exact servedFrame_modMe ..

theorem State.me_rowWritten {s : State} {ea : Nat} {o : MeOut} (houts : (s.me ea).outs = [o]) :
    ((s.rowWritten ea o).me ea).outs = [] ∧ ((s.rowWritten ea o).me ea).owr = (s.me ea).owr + 1 := by
  unfold State.rowWritten
  dsimp only
  split <;> simp [houts]

section
variable {s : State} {ea : Nat} {o : MeOut} (houts : (s.me ea).outs = [o]) (hopen : s.rowOpen o = true) {k a : Nat}
  (hk : k < o.bytes.length / 64) (haddr : s.handleAddr o.se o.handle (o.row * o.bytes.length + 64 * k) = some a)
include houts hopen hk haddr

theorem exec_meOutputRowWrite : exec (.meOutputRowWrite ea o.id k) s = .next (
    let u := (s.progressAt ea).partWritten o k a
    if (ndel k o.left).isEmpty then u.rowWritten ea o
    else u.modMe ea (fun m =>
      { m with outs := m.outs.map (fun x => if x.id == o.id then { o with left := ndel k o.left } else x) })) := by
  have hfind : [o].find? (fun x => x.id == o.id) = some o := by simp
  change execMeOutputRowWrite ea o.id k s = _
  simp only [execMeOutputRowWrite, houts, hfind, hopen, Nat.not_le.mpr hk, haddr]
  rfl

/-- A part of an output row is written at its address; with the last of them the row is written. -/
theorem meOutputRowWrite_writes : gives (.meOutputRowWrite ea o.id k) s (fun t =>
    (∀ y, t.readByte y = if a ≤ y ∧ y < a + 64 then (o.bytes[64 * k + (y - a)]?).getD 0 else s.readByte y) ∧
    (∀ i < 8, t.poisoned (unitOf a + i) = false) ∧
    (ndel k o.left = [] → (t.me ea).outs = [] ∧ (t.me ea).owr = (s.me ea).owr + 1) ∧
    ∀ c, t.ctx ea c = s.ctx ea c) := by
  refine ⟨_, exec_meOutputRowWrite houts hopen hk haddr, ?_⟩
  have hprogress := recordFrame_progressAt s ea
  have hbyte := (s.progressAt ea).readByte_partWritten hk a
  have hclean : ∀ i < 8, ((s.progressAt ea).partWritten o k a).poisoned (unitOf a + i) = false :=
    fun i hi => State.poisoned_unitsCleaned _ _ hi
  have helems : ((s.progressAt ea).partWritten o k a).elems = s.elems := by
    rw [memoryOnly_partWritten (s.progressAt ea) o k a]
    exact hprogress.elems
  dsimp only
  generalize (s.progressAt ea).partWritten o k a = u at hbyte hclean helems ⊢
  have hwritten (t : State) (h : servedFrame u t) :
      (∀ y, t.readByte y = if a ≤ y ∧ y < a + 64 then (o.bytes[64 * k + (y - a)]?).getD 0 else s.readByte y) ∧
      (∀ i < 8, t.poisoned (unitOf a + i) = false) ∧ ∀ c, t.ctx ea c = s.ctx ea c := by
    refine ⟨fun y => ?_, fun i hi => (h.poisoned _).trans (hclean i hi), fun c => (h.ctx ea c).trans ?_⟩
    · rw [h.readByte, hbyte, hprogress.served.readByte]
    · simp only [State.ctx, State.elem, helems]
  have hme : u.me ea = s.me ea := by simp only [State.me, State.elem, helems]
  split
  · obtain ⟨hb, hp, hc⟩ := hwritten _ (servedFrame_rowWritten u ea o)
    have hrow := State.me_rowWritten (s := u) (ea := ea) (o := o) (by rw [hme, houts])
    rw [hme] at hrow
    exact ⟨hb, hp, fun _ => hrow, hc⟩
  · rename_i hleft
    obtain ⟨hb, hp, hc⟩ := hwritten _ (servedFrame_modMe u ea _)
    exact ⟨hb, hp, fun hnone => absurd (List.isEmpty_iff.mpr hnone) hleft, hc⟩

end

/-! ## Notices (R209) -/

theorem exec_meNotice {s : State} {ea : Nat} {h : Nat × Nat} (hout : s.outHandle ea = some h) (hnote : (s.me ea).note = none) :
    exec (.meNotice ea) s = .next (s.advanceOut ea) := by
  change execMeNotice ea s = _
  simp only [execMeNotice, hout, hnote]

theorem onlyElem_modMe (s : State) (ea : Nat) (g : Me → Me) : onlyElem s (s.modMe ea g) ea :=
  ⟨fun _ hx => State.elem_modMe_ne s g hx, rfl⟩

/-- Settles O35: each event by what it leaves of the ME, and by the frame of what it puts on its way. -/
theorem matrixEngineAtWork : Obligations.MatrixEngineAtWork := by
  unfold Obligations.MatrixEngineAtWork
  intro s ea hinjs e m se unfenced rowBytes
  have hprogress := recordFrame_progressAt s ea
  refine ⟨?fill, ?rowRead, ?planeIssue, ?planeLast, ?planeReady, ?landAcc, ?landOut, ?differs, ?write, ?notice⟩
  case fill =>
    intro h a hmode hfree ha hc hhandle hroom hport hmore hrow haddr
    obtain ⟨t, ht, haq, hread, hawaits, hserved⟩ := meQueueFill_reads hmode hfree ha hc hhandle hroom hport hmore hrow haddr
    refine ⟨t, ht, ?_⟩
    dsimp only
    rw [haq]
    exact ⟨rfl, ⟨s.nextRow ea, rfl, rfl, hread⟩, hawaits, hserved.sameProgram⟩
  case rowRead =>
    intro h row a hhandle hrows hclean hparts hmore
    refine ⟨_, exec_meRowReadServed_part hinjs hhandle hrows hclean hparts hmore, ?_, ?_, fun x hx => ?_, hprogress.2⟩
    · rw [State.me_modMe_same]
    · exact (hprogress.served.trans (servedFrame_modMe ..)).sameProgram
    · exact (State.elem_modMe_ne _ _ hx).trans (hprogress.elem x)
  case planeIssue =>
    intro one p a hload hfree hport hgood hmore haddr
    obtain ⟨t, ht, hplane, hread, hserved⟩ := mePlaneRead_issues hload hfree hport hgood hmore haddr
    refine ⟨t, ht, ?_⟩
    dsimp only
    rw [hplane]
    have hst : p.st = .loading := Me.loadingPlane_st hload
    exact ⟨rfl, hst, hread, hserved.sameProgram⟩
  case planeLast =>
    intro one p k a hload hgood hdense hlast hclean
    have hserved := hprogress.served.trans
      (servedFrame_modMe (s.progressAt ea) ea (·.setPlane one (p.joined k (s.readBytes a 64))))
    refine ⟨_, exec_mePlaneRead_last hload hgood hdense hlast hinjs hclean, ?_, ?_,
      (hserved.trans (servedFrame_at ..)).sameProgram⟩
    · rw [State.me_after, State.me_modMe_same, Me.plane_setPlane_same]
      rfl
    · rw [Nat.add_assoc]
      exact State.awaits_after hserved.now ..
  case planeReady =>
    intro one p hload hserved hse
    refine ⟨_, exec_mePlaneReady hload hserved, ?_⟩
    have hplane : (((s.modMe ea (·.setPlane one p.form)).handleFree p.se p.handle).me ea).plane one = p.form := by
      rw [State.me, State.elem_handleFree_ne _ _ hse.symm, ← State.me, State.me_modMe_same, Me.plane_setPlane_same]
    dsimp only
    rw [hplane, MePlane.form_cols, State.elem_handleFree, Elem.hnd_setHnd_same]
    exact ⟨rfl, rfl, rfl, ((servedFrame_modMe ..).trans (servedFrame_handleFree ..)).sameProgram⟩
  case landAcc =>
    intro y rest hfly hdue hacc
    refine ⟨_, exec_meRowLand_acc hfly hdue hacc, ?_⟩
    dsimp only
    rw [State.me_modMe_same, hprogress.me]
    exact ⟨rfl, rfl, tget_tput_same .., fun j hj => tget_tput_ne _ _ _ _ _ hj,
      (hprogress.served.trans (servedFrame_modMe ..)).sameProgram⟩
  case landOut =>
    intro y rest o h hfly hdue hout hopen hhandle
    exact meRowLand_out hfly hdue hout hopen hhandle
  case differs =>
    intro y rest diff hfly hdue hred hdiff hnote
    exact exec_meRowLand_differs hfly hdue hred hdiff hnote
  case write =>
    intro o k a houts hopen hk haddr
    exact meOutputRowWrite_writes houts hopen hk haddr
  case notice =>
    intro h hout hnote
    obtain ⟨howr, hoflags, hopos⟩ := s.me_advanceOut ea
    exact ⟨_, exec_meNotice hout hnote, howr, hoflags, hopos, (servedFrame_modMe ..).sameProgram, onlyElem_modMe ..⟩

end Sys2Proof.Machine
end

section
/-! SUPPORT. The firings of copy and ccan (R245, R246, R250): each sends its word to its tile hub. Settles O18. -/

namespace Sys2Proof.Machine

section
variable {s : State} {cu : Cursor} {f : SlotF} (h : s.goes cu f)
include h

theorem exec_copy_fault {code : Nat} {aux : Word}
    (hbad : copyFault s f.lit (copyReq s cu f (readSource s cu f f.sa).val (readSource s cu f f.sb).val) = some (code, aux)) :
    exec (.copy f) s = .next (s.raiseSync cu code 0 aux) := by
  change execCopy f s = _
  simp [execCopy, h.1, goes_operands h, aluIn, hbad]

/-- The copy is on its way to its tile hub, and its register waits for the status word (R249). -/
theorem exec_copy (hok : copyFault s f.lit (copyReq s cu f (readSource s cu f f.sa).val (readSource s cu f f.sb).val) = none) :
    exec (.copy f) s = .next (((s.fired cu f (sourceFlags s cu f)).markPending cu (some f.da.toNat) 0).after (hubHops cu.ea)
      (.copyFlowTake (copyReq s cu f (readSource s cu f f.sa).val (readSource s cu f f.sb).val))) := by
  change execCopy f s = _
  simp only [execCopy, h.1, goes_operands h, aluIn, hok, State.fireWith_eq h]

theorem exec_ccan : exec (.ccan f) s = .next ((s.fired cu f (sourceFlags s cu f)).after (hubHops cu.ea)
    (.ccanAtHub (tileOf cu.ea) cu.ea cu.ctx f.sa.toNat)) := by
  change execCcan f s = _
  rw [execCcan, State.fireWith_eq h]

end

theorem ownEffect_markPending (t : State) (cu : Cursor) (r : Option Nat) (p : Byte) : ownEffect t (t.markPending cu r p) cu :=
  ownEffect_modCtx t cu _ ⟨rfl, rfl, rfl, rfl, rfl, rfl, rfl⟩ rfl

theorem State.pendReg_markPending (t : State) (cu : Cursor) {r : Nat} (hr : r < 16) (p : Byte) :
    (((t.markPending cu (some r) p).ctx cu.ea cu.ctx).pendReg).getLsbD r = true := by
  rw [State.markPending, State.ctx_modCtx_same, BitVec.getLsbD_or, BitVec.getLsbD_ofNat, Nat.testBit_two_pow_self, decide_eq_true hr,
    Bool.true_and, Bool.or_true]

/-- What a firing leaves that puts a word on its way to the tile hub. -/
theorem fired_after {s u : State} {cu : Cursor} {f : SlotF} (hcounts : s.counts u cu f) (hframe : fireFrame s u cu) (n : Nat)
    (i : Instr) : s.counts (u.after n i) cu f ∧ fireFrame s (u.after n i) cu ∧ (u.after n i).awaits (s.now + n) i :=
  ⟨State.counts_stays hcounts (stays_of rfl), hframe.trans (fireFrame_after ..), State.awaits_after hframe.now ..⟩

/-- Settles O18: each firing by the word that it puts on its way; a copy marks its register pending first. -/
theorem copyFirings : Obligations.CopyFirings := by
  unfold Obligations.CopyFirings
  intro s cu f h a b c
  refine ⟨fun hok => ?copies, fun code aux => exec_copy_fault h, ?cancels⟩
  case copies =>
    obtain ⟨hcounts, hframe, hawaits⟩ := fired_after (u := (s.fired cu f (sourceFlags s cu f)).markPending cu (some f.da.toNat) 0)
      (State.counts_stays (counts_fired ..) (ownEffect_markPending ..).2.2)
      ((fireFrame_fired ..).trans (fireFrame_markPending ..)) (hubHops cu.ea) (.copyFlowTake c)
    exact ⟨_, exec_copy h hok, hcounts, hframe, hawaits, fun hda => State.pendReg_markPending _ cu hda 0⟩
  case cancels =>
    obtain ⟨hcounts, hframe, hawaits⟩ := fired_after (counts_fired s cu f (sourceFlags s cu f)) (fireFrame_fired ..) (hubHops cu.ea)
      (.ccanAtHub (tileOf cu.ea) cu.ea cu.ctx f.sa.toNat)
    exact ⟨_, exec_ccan h, hcounts, hframe, hawaits⟩

end Sys2Proof.Machine
end

section
/-! SUPPORT. Requests on a route (R226 to R229, R234, R301, R352) and those for an engine beneath the stacks (R368, R369): a firing
reserves the request's places, and the request sets out as its endpoint says. Settles O14. -/

namespace Sys2Proof.Machine

/-! ## What a request reserves (R226) -/

/-- A change of a channel that leaves its queue alone. -/
theorem ownEffect_modChan (t : State) (cu : Cursor) (n : Nat) (g : Chan → Chan) (hq : (g (t.chan cu.ea n)).q = (t.chan cu.ea n).q) :
    ownEffect t (t.modChan cu.ea n g) cu := by
  have hctx : ∀ c, (t.modChan cu.ea n g).ctx cu.ea c = t.ctx cu.ea c := fun c => by
    simp [State.modChan, State.ctx, Elem.ctx, Elem.setChan]
  refine ⟨elemFrame_modElem .., fun c => hctx c ▸ .refl _, fun c => by rw [hctx], ?_, ?_, fun c => ?_⟩
  · simp [State.modChan, Elem.setChan]
  · simp [State.modChan, Elem.setChan]
  · by_cases hc : c = n
    · subst hc
      simpa [State.modChan, State.chan] using hq
    · simp [State.modChan, State.chan, hc]

theorem ownEffect.refl (t : State) (cu : Cursor) : ownEffect t t cu := (fireFrame.refl t cu).ownEffect (.refl t cu)

theorem ownEffect_progressAt (t : State) (cu : Cursor) (ea n : Nat) : ownEffect t (t.progressAt ea n) cu := by
  have hprogress (gn : Nat) : fireFrame t (t.progress gn ea n) cu := fireFrame_progressGroup t cu gn _ (by split <;> rfl)
  unfold State.progressAt
  split
  · exact (hprogress _).ownEffect (stays_of rfl)
  · exact .refl ..

theorem ownEffect_reserveReq (t : State) (cu : Cursor) {r : MReq} (hea : r.ea = cu.ea) (n : Nat) : ownEffect t (t.reserveReq r n) cu := by
  unfold State.reserveReq
  rw [hea]
  have hroute := ownEffect_modOut t cu r.out (fun o => { o with
    reqUsed := o.reqUsed + 1
    reqs := o.reqs ++ [⟨r.id, r.addr.toNat, r.addr.toNat + n, none, r.ren, false, none, engineAcc r.acc⟩] })
  have hreply (u : State) : ownEffect u
      (if r.ren then u.modChan cu.ea r.rch (fun c => { c with reserved := c.reserved + 1 }) else u) cu := by
    split
    · exact ownEffect_modChan _ _ _ _ rfl
    · exact .refl ..
  have htoken (u : State) : ownEffect u (if r.fen then u.modOut cu.ea r.ofwd (fun o => { o with tokRes := o.tokRes + 1 }) else u) cu := by
    split
    · exact ownEffect_modOut ..
    · exact .refl ..
  exact (hroute.trans (hreply _)).trans (htoken _)

theorem State.ctx_reserveReq (t : State) (r : MReq) (n ea c : Nat) : (t.reserveReq r n).ctx ea c = t.ctx ea c := by
  have hout (u : State) (o : Nat) (g : Out → Out) : (u.modOut r.ea o g).ctx ea c = u.ctx ea c := (servedFrame_modOut u r.ea o g).ctx ea c
  have hchan (u : State) (m : Nat) (g : Chan → Chan) : (u.modChan r.ea m g).ctx ea c = u.ctx ea c :=
    (servedFrame_modElem u r.ea (fun e => e.setChan m (g (e.chan m))) rfl).ctx ea c
  unfold State.reserveReq
  dsimp only
  split <;> split <;> simp only [hout, hchan]

/-! ## Its way (R227, R234, R301) -/

/-- A parcel of one event sets out as a word that is followed by its event `late` fc after its arrival. -/
theorem wordGoes_sendParcel_late (s : State) (n a b vc late : Nat) (i : Instr) :
    wordGoes s (s.sendParcel n a b vc [(late, i)]) n a b late i := by
  constructor
  · intro hab
    simp only [State.sendParcel, beq_iff_eq, hab, if_true]
    exact ⟨State.links_follow .., State.awaits_follow _ _ (.head _)⟩
  · intro hab
    rw [State.sendParcel, if_neg (by simpa using hab), State.passParcel_next (Ne.symm hab)]
    exact ⟨State.awaits_at .., fun k hk => State.rlink_linkTakes_ne s _ hk, _, tget_tput_same .., rfl, rfl, rfl, _, rfl, rfl, .head _⟩

/-- The request sets out in the next cycle: to its SE, to the tile store that holds its partition, or by its tile hub, where the credit of
its route returns unless it waits for a token, to the slice that owns its address. -/
def requestGoes (s t : State) (r : MReq) : Prop :=
  (r.endp = 0x80 → wordGoes s t (s.now + 1) r.ea r.dst 0 (.requestPerform r)) ∧
  (r.endp = 0x81 → wordGoes s t (s.now + 1) r.ea r.dst 1 (.requestPerform r)) ∧
  (r.endp ≠ 0x80 → r.endp ≠ 0x81 → wordGoesOn s t (s.now + 1) r.ea (tileOf r.ea) ((s.group r.grp).owner r.addr)
    (if r.ord then [] else [(0, .requestCreditReturn r.ea r.out r.epoch)]) (.tlbLookup r))

theorem State.sendReq_se (u : State) {r : MReq} (h : r.endp = 0x80) :
    u.sendReq r = u.sendParcel (u.now + 1) r.ea r.dst 0 [(0, .requestPerform r)] := by
  simp [State.sendReq, h]

theorem State.sendReq_store (u : State) {r : MReq} (h : r.endp = 0x81) :
    u.sendReq r = u.sendParcel (u.now + 1) r.ea r.dst 0 [(1, .requestPerform r)] := by
  simp [State.sendReq, h]

theorem State.sendReq_memory (u : State) {r : MReq} (hse : r.endp ≠ 0x80) (hstore : r.endp ≠ 0x81) (hout : r.out < localOut) :
    u.sendReq r = u.toSlice (u.now + 1) r (if r.ord then [] else [(0, .requestCreditReturn r.ea r.out r.epoch)]) := by
  rw [State.sendReq, if_neg (by simpa using hse), if_neg (by simpa using hstore)]
  cases hord : r.ord <;> simp [hout]

theorem linkFrame_sendReq (u : State) (r : MReq) : linkFrame u (u.sendReq r) := by
  unfold State.sendReq
  split
  · exact linkFrame_sendParcel ..
  · split
    · exact linkFrame_sendParcel ..
    · exact linkFrame_sendTwice ..

/-- A request of a firing that has been counted sets out. -/
theorem sendReq_goes {s u : State} {cu : Cursor} {f : SlotF} (h : countedFrame s u cu f) {r : MReq} (hout : r.out < localOut) :
    requestGoes s (u.sendReq r) r := by
  refine ⟨fun hse => ?_, fun hstore => ?_, fun hse hstore => ?_⟩
  · rw [State.sendReq_se u hse, h.now]
    exact (wordGoes_sendParcel_late ..).of_links h.links
  · rw [State.sendReq_store u hstore, h.now]
    exact (wordGoes_sendParcel_late ..).of_links h.links
  · rw [State.sendReq_memory u hse hstore hout, h.now, State.toSlice, (h.group r.grp).owner]
    exact (wordGoesOn_sendTwice ..).of_links h.links

/-! ## The firing of a request (R228, R229, R352) -/

/-- The context awaits the access that has the number `id`. -/
def State.awaitsAck (u : State) (cu : Cursor) (id : Nat) : State := u.modCtx cu.ea cu.ctx (fun c => { c with acks := c.acks ++ [id] })

theorem ownEffect_awaitsAck (u : State) (cu : Cursor) (id : Nat) : ownEffect u (u.awaitsAck cu id) cu :=
  ownEffect_modCtx u cu _ ⟨rfl, rfl, rfl, rfl, rfl, rfl, rfl⟩ rfl

/-- The request enters the router a cycle later, which is progress (R302). -/
def State.issues (u : State) (cu : Cursor) (r : MReq) : State := (u.progressAt cu.ea (u.now + 1)).sendReq r

theorem issues_goes {s u : State} {cu : Cursor} {f : SlotF} (h : countedFrame s u cu f) {r : MReq} (hout : r.out < localOut) :
    routedFrame s (u.issues cu r) cu f ∧ requestGoes s (u.issues cu r) r := by
  have hprogress : countedFrame s (u.progressAt cu.ea (u.now + 1)) cu f := h.own (ownEffect_progressAt ..)
  exact ⟨hprogress.route (linkFrame_sendReq ..), sendReq_goes hprogress hout⟩

theorem State.elems_progressAt (u : State) (ea n : Nat) : (u.progressAt ea n).elems = u.elems := by
  unfold State.progressAt
  split <;> rfl

theorem State.ctx_issues (u : State) (cu : Cursor) (r : MReq) (ea c : Nat) : (u.issues cu r).ctx ea c = u.ctx ea c := by
  simp only [State.issues, State.ctx, State.elem, (linkFrame_sendReq ..).elems, State.elems_progressAt]

/-- The request of a firing to the address `a`, with its operands. -/
def State.requestOf (s : State) (cu : Cursor) (f : SlotF) (acc : Acc) (a : Word) : MReq :=
  { routeReq s cu (reqOut f) acc a (sentTag s cu f) with aop := f.lit.toNat % 16, v1 := (readSource s cu f f.sb).val, v2 := f.lit }

theorem reqOut_lt (f : SlotF) : reqOut f < localOut := by
  unfold reqOut
  split
  · exact f.ob.isLt
  · exact f.oa.isLt

/-- The state in which the request of a firing holds its places, and its context awaits it. -/
def State.requestHeld (s : State) (cu : Cursor) (f : SlotF) (r : MReq) : State :=
  ((s.bump.fired cu f (sourceFlags s cu f)).reserveReq r (2 ^ r.sz)).awaitsAck cu r.id

theorem countedFrame_requestHeld (s : State) (cu : Cursor) (f : SlotF) {r : MReq} (hea : r.ea = cu.ea) :
    countedFrame s (s.requestHeld cu f r) cu f :=
  ((countedFrame_bump_fired ..).own (ownEffect_reserveReq _ cu hea _)).own (ownEffect_awaitsAck ..)

theorem State.acks_requestHeld (s : State) (cu : Cursor) (f : SlotF) (r : MReq) :
    ((s.requestHeld cu f r).ctx cu.ea cu.ctx).acks = (s.ctx cu.ea cu.ctx).acks ++ [r.id] := by
  rw [State.requestHeld, State.awaitsAck, State.ctx_modCtx_same, State.ctx_reserveReq, State.fired_ctx]
  rfl

section
variable {acc : Acc} {a b : Word}

/-- A load whose sum leaves the range has no address. -/
theorem reqAddr_overflow (hload : acc = .ld ∨ acc = .lde) (hout : ¬ fitsS64 (a.toInt + b.toInt)) : reqAddr acc a b = none := by
  rw [← outsideS64_eq_false_iff, Bool.not_eq_false] at hout
  rcases hload with rfl | rfl <;> exact if_pos hout

theorem reqAddr_load (hload : acc = .ld ∨ acc = .lde) (hfits : fitsS64 (a.toInt + b.toInt)) :
    reqAddr acc a b = some (BitVec.ofInt 64 (a.toInt + b.toInt)) := by
  rw [← outsideS64_eq_false_iff] at hfits
  rcases hload with rfl | rfl <;> exact if_neg (Bool.not_eq_true _ ▸ hfits)

theorem reqAddr_other (hother : ¬ (acc = .ld ∨ acc = .lde)) : reqAddr acc a b = some a :=
  if_neg (by simpa using hother)

end

section
variable {s : State} {cu : Cursor} {f : SlotF} (h : s.goes cu f)
include h

theorem State.fireRequest_overflow {acc : Acc} (hnone : reqAddr acc (readSource s cu f f.sa).val (readSource s cu f f.sb).val = none) :
    s.fireRequest f acc = s.raiseSync cu 0x10 1 (readSource s cu f f.sa).val := by
  simp only [State.fireRequest, h.1, goes_operands h, aluIn, hnone]

section
variable {acc : Acc} {a : Word} (haddr : reqAddr acc (readSource s cu f f.sa).val (readSource s cu f f.sb).val = some a)
include haddr

theorem State.fireRequest_fault {code d : Nat} {aux : Word} (hbad : reqFault s (s.requestOf cu f acc a) f.lit = some (code, d, aux)) :
    s.fireRequest f acc = s.raiseSync cu code d aux := by
  have hroute : reqFault s (routeReq s cu (reqOut f) acc a (sentTag s cu f)) f.lit = some (code, d, aux) := hbad
  simp only [State.fireRequest, h.1, goes_operands h, aluIn, haddr, hroute]

theorem State.fireRequest_issues (hok : reqFault s (s.requestOf cu f acc a) f.lit = none) :
    s.fireRequest f acc = (s.requestHeld cu f (s.requestOf cu f acc a)).issues cu (s.requestOf cu f acc a) := by
  have hroute : reqFault s (routeReq s cu (reqOut f) acc a (sentTag s cu f)) f.lit = none := hok
  simp only [State.fireRequest, h.1, goes_operands h, aluIn, haddr, hroute]
  rfl

end

end

/-- The forms of a request, each with its access. -/
theorem exec_request {f : SlotF} {i : Instr} {acc : Acc}
    (h : (i, acc) ∈ [(.ld f, .ld), (.st f, .st), (.amo f, .amo), (.cas f, .cas), (.lde f, .lde), (.stf f, .stf)]) (s : State) :
    exec i s = .next (s.fireRequest f acc) := by
  simp only [List.mem_cons, Prod.mk.injEq, List.not_mem_nil, or_false] at h
  rcases h with ⟨rfl, rfl⟩ | ⟨rfl, rfl⟩ | ⟨rfl, rfl⟩ | ⟨rfl, rfl⟩ | ⟨rfl, rfl⟩ | ⟨rfl, rfl⟩ <;> rfl

/-! ## The firing of a request for an engine (R368, R369) -/

/-- The request of a firing for an engine beneath the stacks. -/
def State.engineRequestOf (s : State) (cu : Cursor) (f : SlotF) (acc : Acc) : MReq :=
  { routeReq s cu (reqOut f) acc (readSource s cu f f.sa).val (sentTag s cu f) with aop := f.lit.toNat % 4, v2 := f.lit }

/-- The state in which the request for an engine holds its places; the context awaits a Scree request. -/
def State.engineRequestHeld (s : State) (cu : Cursor) (f : SlotF) (r : MReq) : State :=
  let u := (s.bump.fired cu f (sourceFlags s cu f)).reserveReq r (reqLen r)
  if r.acc == .gat || r.acc == .sca then u.awaitsAck cu r.id else u

theorem countedFrame_engineRequestHeld (s : State) (cu : Cursor) (f : SlotF) {r : MReq} (hea : r.ea = cu.ea) :
    countedFrame s (s.engineRequestHeld cu f r) cu f := by
  have hreserved := (countedFrame_bump_fired s cu f (sourceFlags s cu f)).own (ownEffect_reserveReq _ cu hea (reqLen r))
  unfold State.engineRequestHeld
  dsimp only
  split
  · exact hreserved.own (ownEffect_awaitsAck ..)
  · exact hreserved

theorem endp_of_engineFault {s : State} {r : MReq} {lit : Word} (h : engineFault s r lit = none) : r.endp = 0x80 := by
  by_contra hne
  simp only [engineFault, bne, beq_false_of_ne hne, Bool.not_false, Bool.true_or, if_true, reduceCtorEq] at h

section
variable {s : State} {cu : Cursor} {f : SlotF} {acc : Acc} (h : s.goes cu f)
include h

theorem State.fireEngine_fault {code d : Nat} {aux : Word} (hbad : engineFault s (s.engineRequestOf cu f acc) f.lit = some (code, d, aux)) :
    s.fireEngine f acc = s.raiseSync cu code d aux := by
  have hroute : engineFault s (routeReq s cu (reqOut f) acc (readSource s cu f f.sa).val (sentTag s cu f)) f.lit =
      some (code, d, aux) := hbad
  simp only [State.fireEngine, h.1, goes_operands h, aluIn, hroute]

theorem State.fireEngine_issues (hok : engineFault s (s.engineRequestOf cu f acc) f.lit = none) :
    s.fireEngine f acc = (s.engineRequestHeld cu f (s.engineRequestOf cu f acc)).issues cu (s.engineRequestOf cu f acc) := by
  have hroute : engineFault s (routeReq s cu (reqOut f) acc (readSource s cu f f.sa).val (sentTag s cu f)) f.lit = none := hok
  simp only [State.fireEngine, h.1, goes_operands h, aluIn, hroute]
  rfl

end

/-- The forms of a request for an engine, each with its access. -/
theorem exec_engineRequest {f : SlotF} {i : Instr} {acc : Acc}
    (h : (i, acc) ∈ [(.qry f, .qry), (.qabort f, .qabort), (.gat f, .gat), (.sca f, .sca)]) (s : State) :
    exec i s = .next (s.fireEngine f acc) := by
  simp only [List.mem_cons, Prod.mk.injEq, List.not_mem_nil, or_false] at h
  rcases h with ⟨rfl, rfl⟩ | ⟨rfl, rfl⟩ | ⟨rfl, rfl⟩ | ⟨rfl, rfl⟩ <;> rfl

/-- Settles O14: the address, then the checks, then the request on its way. -/
theorem memoryAndEngineFirings : Obligations.MemoryAndEngineFirings := by
  unfold Obligations.MemoryAndEngineFirings
  refine ⟨?requests, ?engines⟩
  case requests =>
    intro s cu f i acc hi h a b sum loads adr r overflow
    rw [exec_request hi]
    have haddr (hin : ¬ overflow) : reqAddr acc a b = some adr := by
      by_cases hload : acc = .ld ∨ acc = .lde
      · have hadr : adr = BitVec.ofInt 64 sum := if_pos hload
        rw [hadr]
        exact reqAddr_load hload (not_not.mp fun hout => hin ⟨hload, hout⟩)
      · have hadr : adr = a := if_neg hload
        rw [hadr]
        exact reqAddr_other hload
    refine ⟨fun hover => ?_, fun hin code d aux hbad => ?_, fun hin hok => ?_⟩
    · obtain ⟨hload, hout⟩ := hover
      rw [State.fireRequest_overflow h (reqAddr_overflow hload hout)]
    · rw [State.fireRequest_fault h (haddr hin) hbad]
    · rw [State.fireRequest_issues h (haddr hin) hok]
      have hheld : countedFrame s (s.requestHeld cu f r) cu f := countedFrame_requestHeld s cu f rfl
      obtain ⟨⟨hcounts, hframe, hctx⟩, hgoes⟩ := issues_goes hheld (r := r) (reqOut_lt f)
      refine ⟨_, rfl, hcounts, hframe, hctx, ?_, hgoes⟩
      exact (congrArg Ctx.acks (State.ctx_issues ..)).trans (State.acks_requestHeld ..)
  case engines =>
    intro s cu f i acc hi h r
    rw [exec_engineRequest hi]
    refine ⟨fun code d aux hbad => ?_, fun hok => ?_⟩
    · rw [State.fireEngine_fault h hbad]
    · rw [State.fireEngine_issues h hok]
      have hheld : countedFrame s (s.engineRequestHeld cu f r) cu f := countedFrame_engineRequestHeld s cu f rfl
      obtain ⟨⟨hcounts, hframe, hctx⟩, hse, -, -⟩ := issues_goes hheld (r := r) (reqOut_lt f)
      exact ⟨_, rfl, hcounts, hframe, hctx, hse (endp_of_engineFault hok)⟩

end Sys2Proof.Machine
end

section
/-! SUPPORT. Copy flows at their tile hub (R245, R247, R249, R250): a copy takes a flow, its ring is bound, a flow ends and is FREE
again, a copy that waits is cancelled. -/

namespace Sys2Proof.Machine

/-! ## Flows and hubs -/

@[simp] theorem State.flow_modFlow_same (s : State) (tile n : Nat) (g : Flow → Flow) :
    (s.modFlow tile n g).flow tile n = g (s.flow tile n) := by
  simp [State.flow, State.modFlow, Hub.flow]

theorem State.flow_modFlow_ne (s : State) (tile : Nat) {n k : Nat} (hk : k ≠ n) (g : Flow → Flow) :
    (s.modFlow tile n g).flow tile k = s.flow tile k := by
  simp [State.flow, State.modFlow, Hub.flow, hk]

theorem State.copies_modFlow (s : State) (tile n k : Nat) (g : Flow → Flow) :
    ((s.modFlow tile n g).hub k).copies = (s.hub k).copies := by
  by_cases hk : k = tile
  · subst hk
    simp [State.modFlow]
  · simp [State.modFlow, State.modHub, State.hub, hk]

theorem State.flow_congr {s t : State} (h : t.hubs = s.hubs) (tile n : Nat) : t.flow tile n = s.flow tile n := by
  rw [State.flow, State.hub, h, State.flow, State.hub]

theorem servedFrame_modHub (s : State) (tile : Nat) (g : Hub → Hub) : servedFrame s (s.modHub tile g) :=
  ⟨rfl, rfl, rfl, rfl, rfl, rfl, fun _ _ => rfl, fun _ h => h⟩

theorem servedFrame_modFlow (s : State) (tile n : Nat) (g : Flow → Flow) : servedFrame s (s.modFlow tile n g) := servedFrame_modHub ..

/-! ## A copy takes a flow (R245, R247) -/

/-- The copy `c` passes through the copies that wait at its hub, which were none. -/
def State.copyPasses (s : State) (c : CopyReq) : State :=
  (s.modHub c.tile (fun h => { h with copies := h.copies ++ [c] })).modHub c.tile (fun h => { h with copies := h.copies.erase c })

theorem State.flow_copyPasses (s : State) (c : CopyReq) (k : Nat) : (s.copyPasses c).flow c.tile k = s.flow c.tile k := by
  simp [State.copyPasses, State.flow, Hub.flow]

theorem State.copies_copyPasses {s : State} {c : CopyReq} (hnone : (s.hub c.tile).copies = []) :
    ((s.copyPasses c).hub c.tile).copies = [] := by
  simp [State.copyPasses, hnone]

theorem servedFrame_copyPasses (s : State) (c : CopyReq) : servedFrame s (s.copyPasses c) :=
  (servedFrame_modHub ..).trans (servedFrame_modHub ..)

theorem exec_copyFlowTake {s : State} {c : CopyReq} {n : Nat} (hnone : (s.hub c.tile).copies = [])
    (hfree : (s.hub c.tile).freeFlow = some n) (hunbound : ringBound s c = false) :
    exec (.copyFlowTake c) s = .next ((s.copyPasses c).takeFlow n c) := by
  let u := s.modHub c.tile (fun h => { h with copies := h.copies ++ [c] })
  have hwaits : (u.hub c.tile).copies = [c] := by simp [u, hnone]
  have hfree' : (u.hub c.tile).freeFlow = some n := by simpa [u, Hub.freeFlow, Hub.flow] using hfree
  have hunbound' : ringBound u c = false := hunbound
  change Host.Outcome.next (u.takeCopies c.tile (u.hub c.tile).copies) = _
  simp only [hwaits, State.takeCopies, hfree', hunbound']
  rfl

theorem State.hubs_takeFlow (s : State) (n : Nat) (c : CopyReq) :
    (s.takeFlow n c).hubs = (s.modFlow c.tile n (fun _ => { Flow.zero with st := .active, c := c })).hubs := by
  unfold State.takeFlow
  dsimp only
  split <;> rfl

theorem servedFrame_takeFlow (s : State) (n : Nat) (c : CopyReq) : servedFrame s (s.takeFlow n c) := by
  have htaken := servedFrame_modFlow s c.tile n (fun _ => { Flow.zero with st := .active, c := c })
  unfold State.takeFlow
  dsimp only
  split
  · exact (htaken.trans (servedFrame_modElem _ _ _ rfl)).trans (servedFrame_at ..)
  · exact htaken

@[simp] theorem Elem.ring_setRing_same (e : Elem) (r : Nat) (x : Ring) : (e.setRing r x).ring r = x := by
  simp [Elem.ring, Elem.setRing]

/-- A ring copy makes its ring engine-bound, and the binding sets out to the SE. -/
theorem State.takeFlow_binds (s : State) (n : Nat) {c : CopyReq} (hring : c.ring = true) :
    (((s.takeFlow n c).elem c.dstEa).ring c.dring).bound = some (c.tile, n) ∧
      (s.takeFlow n c).awaits (s.now + hops c.dstEa c.tile) (.ringBindArrival c.tile n) := by
  simp only [State.takeFlow, hring, if_true]
  refine ⟨?_, State.awaits_at ..⟩
  rw [State.elem_after, State.elem_modElem_same, Elem.ring_setRing_same]

/-! ## The binding and its permits (R247) -/

/-- A permit for each of the handles `hs` sets out from the SE `ea` to the flow. -/
def State.permitsSent (s : State) (tile n ea : Nat) (hs : List Nat) : State :=
  hs.foldl (fun s _ => s.after (hops ea tile) (.permitArrival tile n)) s

theorem length_insEntry (x : Entry) (l : List Entry) : (insEntry x l).length = l.length + 1 := by
  induction l with
  | nil => rfl
  | cons y l ih =>
    unfold insEntry
    split
    · rfl
    · simp [ih]

section
variable (s : State) (tile n ea : Nat) (hs : List Nat)

theorem recordFrame_permitsSent : recordFrame s (s.permitsSent tile n ea hs) :=
  State.foldl_keeps (recordFrame s) _ hs (fun u _ h => h.trans (recordFrame_at u ..)) (.refl s)

theorem State.length_agenda_permitsSent : (s.permitsSent tile n ea hs).agenda.length = s.agenda.length + hs.length := by
  unfold State.permitsSent
  induction hs generalizing s with
  | nil => rfl
  | cons h hs ih =>
    rw [List.foldl_cons, ih, State.after, State.at_, length_insEntry, List.length_cons]
    omega

theorem State.awaits_permitsSent {hs : List Nat} (hne : hs ≠ []) :
    (s.permitsSent tile n ea hs).awaits (s.now + hops ea tile) (.permitArrival tile n) := by
  obtain ⟨h, hs, rfl⟩ := List.exists_cons_of_ne_nil hne
  exact (State.awaits_at ..).kept (recordFrame_permitsSent _ tile n ea hs).2

end

/-- The FREE handles of the ring of a flow. -/
def State.freeHandles (s : State) (f : Flow) : List Nat :=
  ((s.elem f.c.dstEa).ringHandles f.c.dring).filter (fun h => ((s.elem f.c.dstEa).hnd h).st == .free)

/-- The ring of a copy brings permits from now on. -/
def State.ringPermits (s : State) (c : CopyReq) : State :=
  s.modElem c.dstEa (fun e => e.setRing c.dring { e.ring c.dring with permits := true })

theorem State.permits_ringPermits (s : State) (c : CopyReq) : (((s.ringPermits c).elem c.dstEa).ring c.dring).permits = true := by
  rw [State.ringPermits, State.elem_modElem_same, Elem.ring_setRing_same]

theorem exec_ringBindArrival {s : State} {tile n : Nat}
    (hbound : ((s.elem (s.flow tile n).c.dstEa).ring (s.flow tile n).c.dring).bound = some (tile, n)) :
    exec (.ringBindArrival tile n) s = .next ((s.ringPermits (s.flow tile n).c).permitsSent tile n (s.flow tile n).c.dstEa
      (s.freeHandles (s.flow tile n))) := by
  change execRingBindArrival tile n s = _
  simp only [execRingBindArrival, hbound, bne_self_eq_false, Bool.false_eq_true, if_false]
  rfl

theorem exec_permitArrival {s : State} {tile n : Nat} (h : (s.flow tile n).st ≠ .free) :
    exec (.permitArrival tile n) s = .next (s.modFlow tile n (fun x => { x with permits := x.permits + 1 })) := by
  change execPermitArrival tile n s = _
  rw [execPermitArrival, if_neg (by simpa using h)]

/-! ## The end of a copy (R249, R250) -/

theorem sameProgram.trans {s t u : State} (h : sameProgram s t) (k : sameProgram t u) : sameProgram s u := by
  obtain ⟨hmemory, hctx⟩ := h
  obtain ⟨kmemory, kctx⟩ := k
  exact ⟨hmemory.trans kmemory, fun ea c => (hctx ea c).trans (kctx ea c)⟩

/-- The status word of a copy is on its way to its register. -/
theorem State.tokenWord_sends (s : State) (c : CopyReq) (v : Word) : ∃ d : Delivery,
    (s.tokenWord c v).awaits (s.now + hops c.ea (tileOf c.ea) + 1) (.resultDelivery d) ∧
      d.ea = c.ea ∧ d.ctx = c.ctx ∧ d.reg = some c.reg ∧ d.value = v :=
  ⟨_, State.awaits_at .., rfl, rfl, rfl, rfl⟩

theorem State.hub_tokenWord (s : State) (c : CopyReq) (v : Word) (tile : Nat) : (s.tokenWord c v).hub tile = s.hub tile := rfl

/-- The flow is FREE: what it had on its way is discarded, and no slice holds it. -/
def State.flowFreed (s : State) (tile n : Nat) : State :=
  let s := { s with agenda := s.agenda.filter (fun x => x.instr != Instr.permitArrival tile n && x.instr != Instr.ringBindArrival tile n) }
  let s := s.modFlow tile n (fun _ => .zero)
  { s with
    slices := tmap .zero (fun _ (x : Slice) => { x with held := x.held.filter (fun h => h.r.who != Who.flow tile n) }) s.slices }

theorem State.hubs_flowFreed (s : State) (tile n : Nat) : (s.flowFreed tile n).hubs = (s.modFlow tile n (fun _ => .zero)).hubs := by rfl

theorem State.takeAllCopies_none {s : State} (h : ∀ k, (s.hub k).copies = []) : s.takeAllCopies = s :=
  State.foldl_keeps (fun u => u = s) _ _ (fun u x hu => by rw [hu, h]; rfl) rfl

theorem exec_copyComplete {s : State} {tile n : Nat} (hbusy : (s.flow tile n).st ≠ .free) (hring : (s.flow tile n).c.ring = false)
    (hnone : ∀ k, (s.hub k).copies = []) (st code : Byte) : exec (.copyComplete tile n st code) s = .next
      ((s.flowFreed tile n).tokenWord (s.flow tile n).c (copyStatus st.toNat code.toNat ((s.flow tile n).moved * 64))) := by
  have hnone' (k : Nat) : ((s.flowFreed tile n).hub k).copies = [] := by
    rw [State.hub, State.hubs_flowFreed, ← State.hub, State.copies_modFlow, hnone k]
  have hfreed : s.freeFlowNow tile n = s.flowFreed tile n := by
    refine Eq.trans ?_ (State.takeAllCopies_none hnone')
    simp only [State.freeFlowNow, State.returnHandles, hring]
    rfl
  change execCopyComplete tile n st code s = _
  simp only [execCopyComplete, beq_false_of_ne hbusy, hfreed, Flow.bytes, hring]
  rfl

theorem sameProgram_flowFreed (s : State) (tile n : Nat) : sameProgram s (s.flowFreed tile n) :=
  ⟨sameMemory_of rfl rfl rfl, fun _ _ => .refl _⟩

theorem sameProgram_tokenWord (s : State) (c : CopyReq) (v : Word) : sameProgram s (s.tokenWord c v) :=
  (servedFrame_at ..).sameProgram

theorem exec_ccanAtHub {s : State} {tile : Nat} {c : CopyReq} (hwaits : (s.hub tile).copies = [c]) :
    exec (.ccanAtHub tile c.ea c.ctx c.reg) s = .next
      ((s.modHub tile (fun h => { h with copies := h.copies.erase c })).tokenWord c (copyStatus 1 0 0)) := by
  change execCcanAtHub tile c.ea c.ctx c.reg s = _
  have hfind : [c].find? (fun x => x.ea == c.ea && x.ctx == c.ctx && x.reg == c.reg) = some c := by simp
  simp only [execCcanAtHub, hwaits, hfind]

end Sys2Proof.Machine
end

section
/-! SUPPORT. The granules of a copy (R245, R249, R251, log 27): one is read where its source is, its destination is asked for, and it is
written there. Settles O36. -/

namespace Sys2Proof.Machine

/-! ## Units read and written (R248, R410) -/

theorem unitOf_add_eight (a : Nat) : unitOf (a + 8) = unitOf a + 1 := by
  unfold unitOf
  omega

/-- The units from `a` on, as they stand; all are marked where their page is. -/
def State.unitsRead (s : State) (a : Nat) (pzn : Bool) (n : Nat) : List (Nat × Bool) :=
  (List.range n).map (fun i => (s.readNat (a + 8 * i) 8, pzn || s.poisoned (unitOf a + i)))

theorem State.unitsRead_succ (s : State) (a : Nat) (pzn : Bool) (n : Nat) :
    s.unitsRead a pzn (n + 1) = (s.readNat a 8, pzn || s.poisoned (unitOf a)) :: s.unitsRead (a + 8) pzn n := by
  simp only [State.unitsRead, List.range_succ_eq_map, List.map_cons, List.map_map, Nat.mul_zero, Nat.add_zero, unitOf_add_eight]
  refine congrArg _ (List.map_congr_left fun i _ => ?_)
  simp only [Function.comp_apply, Nat.succ_eq_add_one, show a + 8 * (i + 1) = a + 8 + 8 * i by omega,
    show unitOf a + (i + 1) = unitOf a + 1 + i by omega]

theorem State.readUnits_of_no_injs {s : State} (h : s.injs = []) (a : Nat) (pzn : Bool) (n : Nat) :
    s.readUnits a pzn n = (s, s.unitsRead a pzn n) := by
  induction n generalizing a with
  | zero => rfl
  | succ n ih => simp only [State.readUnits, State.touch_of_no_injs h, ih, State.unitsRead_succ]

/-- No request is deferred at the `n` units from `a` on. -/
def State.noneDeferred (s : State) (a n : Nat) : Prop :=
  ∀ q ∈ s.defers, unitOf (q.pa % 2 ^ 44) < unitOf a ∨ unitOf a + n ≤ unitOf (q.pa % 2 ^ 44)

/-- A service of units at which no request is deferred releases none (R354). -/
theorem State.feSettle_of_noneDeferred {s : State} {a n : Nat} (h : s.noneDeferred a n) : s.feSettle a n = s := by
  induction n generalizing a with
  | zero => rfl
  | succ n ih =>
    have hnext : unitOf (8 * (unitOf a + 1)) = unitOf a + 1 := Nat.mul_div_cancel_left _ (by decide)
    have hhere : s.defers.filter (fun q => unitOf (q.pa % 2 ^ 44) == unitOf a) = [] := by
      simp only [List.filter_eq_nil_iff, beq_iff_eq]
      intro q hq
      have := h q hq
      omega
    simp only [State.feSettle, hhere, List.foldl_nil]
    refine ih fun q hq => ?_
    have := h q hq
    rw [hnext]
    omega

theorem State.poisoned_setPoison (s : State) (k u : Nat) (p : Bool) :
    (s.setPoison k p).poisoned u = if u = k then p else s.poisoned u := by
  cases p <;> by_cases h : u = k <;> simp [State.poisoned, State.setPoison, nmem_nadd, nmem_ndel, h]

theorem State.poisoned_writeNat (s : State) (a n v u : Nat) : (s.writeNat a n v).poisoned u = s.poisoned u := by
  rw [State.poisoned, State.writeNat_poison, State.poisoned]

/-- A unit is written with its mark. -/
def State.unitWritten (s : State) (a : Nat) (w : Nat × Bool) : State := (s.writeNat a 8 w.1).setPoison (unitOf a) w.2

theorem State.writeGranule_nil (s : State) (a : Nat) : s.writeGranule a [] = s := rfl

theorem State.writeGranule_cons (s : State) (a : Nat) (w : Nat × Bool) (us : List (Nat × Bool)) :
    s.writeGranule a (w :: us) = (s.unitWritten a w).writeGranule (a + 8) us := by
  conv_lhs => unfold State.writeGranule
  rfl

theorem memoryOnly_unitWritten (s : State) (a : Nat) (w : Nat × Bool) : memoryOnly s (s.unitWritten a w) :=
  (memoryOnly_writeNat s a 8 w.1).trans rfl

theorem memoryOnly_writeGranule (s : State) (a : Nat) (us : List (Nat × Bool)) : memoryOnly s (s.writeGranule a us) := by
  induction us generalizing s a with
  | nil => rfl
  | cons w us ih =>
    rw [State.writeGranule_cons]
    exact (memoryOnly_unitWritten ..).trans (ih ..)

theorem State.readByte_writeGranule (s : State) (a : Nat) (us : List (Nat × Bool)) (y : Nat) :
    (s.writeGranule a us).readByte y = if a ≤ y ∧ y < a + 8 * us.length then
      BitVec.ofNat 8 (((us[(y - a) / 8]?).getD (0, false)).1 / 256 ^ ((y - a) % 8)) else s.readByte y := by
  induction us generalizing s a with
  | nil => rw [State.writeGranule_nil, List.length_nil, if_neg (by omega)]
  | cons w us ih =>
    have hunit : (s.unitWritten a w).readByte y = if a ≤ y ∧ y < a + 8 then BitVec.ofNat 8 (w.1 / 256 ^ (y - a)) else s.readByte y := by
      rw [State.unitWritten, State.readByte_setPoison]
      exact writesBytes_writeNat s a 8 w.1 y
    rw [State.writeGranule_cons, ih, hunit, List.length_cons]
    by_cases hrest : a + 8 ≤ y
    · obtain ⟨i, rfl⟩ := Nat.exists_eq_add_of_le hrest
      have hindex : (a + 8 + i - a) / 8 = i / 8 + 1 := by omega
      have hbyte : (a + 8 + i - a) % 8 = i % 8 := by omega
      rw [Nat.add_sub_cancel_left, hindex, hbyte, List.getElem?_cons_succ]
      by_cases hin : i < 8 * us.length
      · rw [if_pos (by omega), if_pos (by omega)]
      · rw [if_neg (by omega), if_neg (by omega), if_neg (by omega)]
    · rw [if_neg (by omega)]
      by_cases hin : a ≤ y
      · have hindex : (y - a) / 8 = 0 := by omega
        have hbyte : (y - a) % 8 = y - a := by omega
        rw [if_pos (by omega), if_pos (by omega), hindex, hbyte, List.getElem?_cons_zero, Option.getD_some]
      · rw [if_neg (by omega), if_neg (by omega)]

/-- The units of a granule carry its marks; every other unit carries its own. -/
theorem State.poisoned_writeGranule (s : State) (a : Nat) (us : List (Nat × Bool)) (u : Nat) :
    (s.writeGranule a us).poisoned u = if unitOf a ≤ u ∧ u < unitOf a + us.length then
      ((us[u - unitOf a]?).getD (0, false)).2 else s.poisoned u := by
  induction us generalizing s a with
  | nil => rw [State.writeGranule_nil, List.length_nil, if_neg (by omega)]
  | cons w us ih =>
    rw [State.writeGranule_cons, ih, State.unitWritten, State.poisoned_setPoison, State.poisoned_writeNat, unitOf_add_eight,
      List.length_cons]
    by_cases hrest : unitOf a + 1 ≤ u
    · obtain ⟨i, rfl⟩ := Nat.exists_eq_add_of_le hrest
      rw [Nat.add_sub_cancel_left, show unitOf a + 1 + i - unitOf a = i + 1 by omega, List.getElem?_cons_succ]
      by_cases hin : i < us.length
      · rw [if_pos (by omega), if_pos (by omega)]
      · rw [if_neg (by omega), if_neg (by omega), if_neg (by omega)]
    · rw [if_neg (by omega)]
      by_cases hu : u = unitOf a
      · rw [if_pos hu, if_pos (by omega), hu, Nat.sub_self, List.getElem?_cons_zero, Option.getD_some]
      · rw [if_neg hu, if_neg (by omega)]

/-! ## The only granule on its way -/

theorem Flow.gran_only {f : Flow} {x : Gran} (h : f.fly = [x]) : f.gran x.id = some x := by simp [Flow.gran, h]

/-- The only granule on its way is replaced. -/
theorem State.flow_setGran {s : State} {tile n : Nat} {x y : Gran} (hfly : (s.flow tile n).fly = [x]) (hid : x.id = y.id) :
    (s.setGran tile n y).flow tile n = { s.flow tile n with fly := [y] } := by
  simp [State.setGran, hfly, hid]

theorem servedFrame_setGran (s : State) (tile n : Nat) (y : Gran) : servedFrame s (s.setGran tile n y) := servedFrame_modFlow ..

/-! ## The read of a granule (R248, R301) -/

/-- An address of a granule is on its way to the slice that owns it. -/
theorem State.flowAsk_goes (s : State) (n' tile n id : Nat) (acc : Acc) (a : Word) : ∃ r : MReq,
    r.who = .flow tile n ∧ r.id = id ∧ r.acc = acc ∧ r.addr = a ∧ wordGoes s (s.flowAsk n' tile n id acc a) n' tile
      ((s.group (s.flow tile n).c.grp).owner a) 0 (.tlbLookup r) :=
  ⟨_, rfl, rfl, rfl, rfl, wordGoes_sendParcel ..⟩

theorem linkFrame_flowAsk (s : State) (n' tile n id : Nat) (acc : Acc) (a : Word) : linkFrame s (s.flowAsk n' tile n id acc a) :=
  linkFrame_sendParcel ..

theorem linkFrame.served {s t : State} (h : linkFrame s t) : servedFrame s t := by
  obtain ⟨ht, hagenda⟩ := h
  exact ⟨by rw [ht], by rw [ht], by rw [ht], by rw [ht], by rw [ht], by rw [ht], fun _ _ => by rw [ht]; rfl, hagenda⟩

/-- The address to which granule `x` of a copy between addresses goes. -/
def Flow.target (f : Flow) (x : Gran) : Word := f.c.dst + BitVec.ofNat 64 (64 * x.idx)

/-- A granule read for a copy between addresses is held by its flow, which asks for the address of its destination. -/
theorem State.granRead_asks {s : State} {tile n : Nat} (hring : (s.flow tile n).c.ring = false) (x : Gran) (us : List (Nat × Bool))
    (back : Nat) : s.granRead tile n x us back =
      (s.setGran tile n { x with data := some us }).flowAsk (s.now + back + 1) tile n x.id .st ((s.flow tile n).target x) := by
  simp only [State.granRead, hring]
  rfl

/-- Progress leaves every group what it is but for its progress. -/
theorem State.group_progress (s : State) (gn ea k : Nat) : sameGroup (s.group k) ((s.progress gn ea).group k) :=
  (fireFrame_progress s ⟨0, 0, 0⟩ gn ea).group k

section
variable {s : State} {tile n : Nat} {x : Gran} (hring : (s.flow tile n).c.ring = false) (hfly : (s.flow tile n).fly = [x])
include hring hfly

section
variable {ps : Nat} (hinjs : s.injs = []) (hssrc : (s.flow tile n).c.ssrc = false) (hsrc : x.src = some ps)
  (hclear : s.noneDeferred (ps % 2 ^ 44) 8) (hopen : s.homeRefuses tile ps false = none)
include hinjs hssrc hsrc hclear hopen

theorem exec_copyGranule_readServed : exec (.copyGranule tile ⟨n, x.id, .readServed (ps % 2 ^ 44)⟩) s = .next
    (((s.progress (s.flow tile n).c.grp tile).setGran tile n { x with data := some (s.unitsRead (ps % 2 ^ 44) x.pzn 8) }).flowAsk
      (s.now + homeHalf s.module tile ps + 1) tile n x.id .st ((s.flow tile n).target x)) := by
  let u := s.progress (s.flow tile n).c.grp tile
  have hread := State.granRead_asks (s := u) (tile := tile) (n := n) hring x (s.unitsRead (ps % 2 ^ 44) x.pzn 8)
    (homeHalf s.module tile ps)
  refine Eq.trans ?_ (congrArg Host.Outcome.next hread)
  change execCopyGranule tile _ s = _
  simp only [execCopyGranule, Flow.gran_only hfly, State.granAddr, hsrc, hopen, hssrc, State.readUnits_of_no_injs hinjs,
    State.feSettle_of_noneDeferred hclear, Option.map_some, Option.getD_some, bne_self_eq_false, Bool.not_false, if_true,
    Bool.false_eq_true, if_false]
  rw [State.readUnits_of_no_injs hinjs]
  dsimp only
  rw [State.feSettle_of_noneDeferred hclear]

/-- A granule is read where its source is, and the address of its destination sets out to the slice that owns it. -/
theorem copyGranule_reads : gives (.copyGranule tile ⟨n, x.id, .readServed (ps % 2 ^ 44)⟩) s (fun t =>
    servedFrame s t ∧
    t.flow tile n = { s.flow tile n with fly := [{ x with data := some (s.unitsRead (ps % 2 ^ 44) x.pzn 8) }] } ∧
    ∃ r : MReq, r.who = .flow tile n ∧ r.id = x.id ∧ r.acc = .st ∧ r.addr = (s.flow tile n).target x ∧
      wordGoes s t (s.now + homeHalf s.module tile ps + 1) tile ((s.group (s.flow tile n).c.grp).owner r.addr) 0 (.tlbLookup r)) := by
  refine ⟨_, exec_copyGranule_readServed hring hfly hinjs hssrc hsrc hclear hopen, ?_⟩
  let y : Gran := { x with data := some (s.unitsRead (ps % 2 ^ 44) x.pzn 8) }
  let u := (s.progress (s.flow tile n).c.grp tile).setGran tile n y
  have hflow : u.flow tile n = { s.flow tile n with fly := [y] } :=
    State.flow_setGran (s := s.progress (s.flow tile n).c.grp tile) (x := x) hfly rfl
  have hserved : servedFrame s u := (servedFrame_progress ..).trans (servedFrame_setGran ..)
  have hasked := linkFrame_flowAsk u (s.now + homeHalf s.module tile ps + 1) tile n x.id .st ((s.flow tile n).target x)
  obtain ⟨r, hwho, hid, hacc, haddr, hgoes⟩ :=
    u.flowAsk_goes (s.now + homeHalf s.module tile ps + 1) tile n x.id .st ((s.flow tile n).target x)
  refine ⟨hserved.trans hasked.served, ?_, r, hwho, hid, hacc, haddr, ?_⟩
  · exact (State.flow_congr (by rw [hasked.1]) ..).trans hflow
  · have howner : (u.group (u.flow tile n).c.grp).owner r.addr = (s.group (s.flow tile n).c.grp).owner r.addr := by
      rw [hflow]
      exact (s.group_progress ..).owner r.addr
    rw [← howner, haddr]
    exact hgoes.of_links rfl

end

/-! ## The way to its destination (R248, R301) -/

/-- The slice has translated the address of a granule's destination: the granule goes on to the home of that. -/
theorem exec_requestPerform_destination {r : MReq} (hwho : r.who = .flow tile n) (hid : r.id = x.id) (hacc : r.acc = .st) :
    exec (.requestPerform r) s = .next
      ((s.setGran tile n { x with dst := some r.pa, dpage := r.tpage, dsize := r.tsize }).after (homeHalf s.module tile r.pa)
        (.copyGranule tile ⟨n, x.id, .writeArrive⟩)) := by
  rw [exec_requestPerform]
  simp only [execRequestPerform, hwho, isFlow, if_true, State.flowTranslated, hid, Flow.gran_only hfly, hacc, State.granWay, hring,
    Option.getD_some]
  rfl

end

/-! ## The end of a flow (R249, R250, R405) -/

theorem servedFrame_flowStops (s : State) (tile n : Nat) : servedFrame s (s.flowStops tile n) := servedFrame_modFlow ..

theorem State.agenda_flowStops (s : State) (tile n : Nat) : (s.flowStops tile n).agenda = s.agenda := rfl

/-- A flow that has met no missing page is not stopped. -/
theorem State.flow_flowStops {s : State} {tile n : Nat} (h : (s.flow tile n).halt = false) :
    (s.flowStops tile n).flow tile n = s.flow tile n := by
  simp [State.flowStops, h]

theorem servedFrame_choose (s : State) : servedFrame s s.choose.2 := ⟨rfl, rfl, rfl, rfl, rfl, rfl, fun _ _ => rfl, fun _ h => h⟩

/-- What the end of a flow can do: nothing more than stop it, or set out its completion, after a choice or without one. -/
theorem State.flowEnd_cases (s : State) (tile n : Nat) :
    s.flowEnd tile n = s.flowStops tile n ∨ ∃ v st code, (v = s.flowStops tile n ∨ v = (s.flowStops tile n).choose.2) ∧
      s.flowEnd tile n = v.at_ v.now (.copyComplete tile n st code) := by
  unfold State.flowEnd
  dsimp only
  split
  · exact .inl rfl
  · split
    · exact .inr ⟨_, _, _, .inl rfl, rfl⟩
    · split
      · split
        · exact .inr ⟨_, _, _, .inl rfl, rfl⟩
        · exact .inl rfl
      · split
        · exact .inr ⟨_, _, _, .inr rfl, rfl⟩
        · exact .inr ⟨_, _, _, .inl rfl, rfl⟩

theorem servedFrame_flowEnd (s : State) (tile n : Nat) : servedFrame s (s.flowEnd tile n) := by
  have hstops := servedFrame_flowStops s tile n
  rcases s.flowEnd_cases tile n with h | ⟨v, st, code, rfl | rfl, h⟩ <;> rw [h]
  · exact hstops
  · exact hstops.trans (servedFrame_at ..)
  · exact (hstops.trans (servedFrame_choose _)).trans (servedFrame_at ..)

theorem State.flow_flowEnd (s : State) (tile n k : Nat) : (s.flowEnd tile n).flow tile k = (s.flowStops tile n).flow tile k := by
  rcases s.flowEnd_cases tile n with h | ⟨v, st, code, rfl | rfl, h⟩ <;> rw [h] <;> rfl

section
variable {s : State} {tile n : Nat} (hhalt : (s.flow tile n).halt = false) (hcode : (s.flow tile n).code = 0)
  (hcancel : (s.flow tile n).cancel = none)
include hhalt hcode hcancel

/-- A copy stays ACTIVE where its group's fence holds. -/
theorem State.flowEnd_fenced (hfence : (s.group (s.flow tile n).c.grp).fencedAt tile = true) :
    s.flowEnd tile n = s.flowStops tile n := by
  have hfence' : ((s.flowStops tile n).group (s.flow tile n).c.grp).fencedAt tile = true := hfence
  simp only [State.flowEnd, State.flow_flowStops hhalt, hcode, hcancel, hfence', bne_self_eq_false, Bool.false_eq_true, if_false,
    Bool.not_true, Bool.and_false, ite_self]

/-- A copy of which every granule is performed ends where no fence holds it. -/
theorem State.flowEnd_done (hbusy : (s.flow tile n).st ≠ .free) (hfly : (s.flow tile n).fly = [])
    (hdone : (s.flow tile n).finished = true) (hfence : (s.group (s.flow tile n).c.grp).fencedAt tile = false)
    (hnone : ∀ y ∈ s.agenda, ∀ st code, y.instr ≠ .copyComplete tile n st code) :
    s.flowEnd tile n = (s.flowStops tile n).at_ s.now (.copyComplete tile n 0 0) := by
  have hfence' : ((s.flowStops tile n).group (s.flow tile n).c.grp).fencedAt tile = false := hfence
  unfold State.flowEnd
  dsimp only
  rw [State.flow_flowStops hhalt, hfly, beq_false_of_ne hbusy]
  split
  · rename_i hended
    simp only [List.isEmpty_nil, Bool.not_true, Bool.or_false, Bool.false_or, List.any_eq_true] at hended
    obtain ⟨y, hy, hmine⟩ := hended
    split at hmine
    · rename_i t m st code hinstr
      simp only [Bool.and_eq_true, beq_iff_eq] at hmine
      obtain ⟨rfl, rfl⟩ := hmine
      exact absurd hinstr (hnone y hy st code)
    · cases hmine
  · simp only [hcode, hcancel, hdone, hfence', bne_self_eq_false, Bool.false_eq_true, if_false, Bool.not_false, Bool.and_true, if_true]
    rfl

end

/-! ## The write of a granule (R249, R251) -/

/-- Granule `x` is written at `a`: one more is performed, and it is no longer on its way. -/
def State.granWritten (s : State) (tile n : Nat) (x : Gran) (a : Nat) (us : List (Nat × Bool)) : State :=
  (((s.writeGranule a us).progress (s.flow tile n).c.grp tile).modFlow tile n (fun f => { f with fly := f.fly.erase x })).modFlow tile n
    (fun f => { f with moved := f.moved + 1 })

theorem State.granDone_memory {s : State} {tile n : Nat} (hring : (s.flow tile n).c.ring = false) (x : Gran) :
    s.granDone tile n x = ((s.modFlow tile n (fun f => { f with fly := f.fly.erase x })).modFlow tile n
      (fun f => { f with moved := f.moved + 1 })).flowEnd tile n := by
  simp only [State.granDone, hring]

section
variable (s : State) (tile n : Nat) (x : Gran) (a : Nat) (us : List (Nat × Bool))

theorem servedFrame_granWritten : servedFrame (s.writeGranule a us) (s.granWritten tile n x a us) :=
  ((servedFrame_progress ..).trans (servedFrame_modFlow ..)).trans (servedFrame_modFlow ..)

theorem State.ctx_writeGranule (ea c : Nat) : (s.writeGranule a us).ctx ea c = s.ctx ea c := by rw [memoryOnly_writeGranule s a us]; rfl

theorem State.flow_writeGranule : (s.writeGranule a us).flow tile n = s.flow tile n :=
  State.flow_congr (by rw [memoryOnly_writeGranule s a us]) ..

theorem State.now_granWritten : (s.granWritten tile n x a us).now = s.now :=
  (servedFrame_granWritten ..).now.trans (by rw [memoryOnly_writeGranule s a us])

theorem State.agenda_granWritten : (s.granWritten tile n x a us).agenda = s.agenda := by
  change (s.writeGranule a us).agenda = s.agenda
  rw [memoryOnly_writeGranule s a us]

theorem State.fencedAt_granWritten (k : Nat) : ((s.granWritten tile n x a us).group k).fencedAt tile = (s.group k).fencedAt tile := by
  have hgroup : (s.writeGranule a us).group k = s.group k := by rw [memoryOnly_writeGranule s a us]; rfl
  have hprogress := (s.writeGranule a us).group_progress (s.flow tile n).c.grp tile k
  rw [hgroup] at hprogress
  change (((s.writeGranule a us).progress (s.flow tile n).c.grp tile).group k).fencedAt tile = _
  rw [hprogress]
  rfl

theorem State.flow_granWritten {x : Gran} (hfly : (s.flow tile n).fly = [x]) : (s.granWritten tile n x a us).flow tile n =
    { s.flow tile n with fly := [], moved := (s.flow tile n).moved + 1 } := by
  have hflow : ((s.writeGranule a us).progress (s.flow tile n).c.grp tile).flow tile n = s.flow tile n := s.flow_writeGranule tile n a us
  rw [State.granWritten, State.flow_modFlow_same, State.flow_modFlow_same, hflow, hfly, List.erase_cons_head]

end

section
variable {s : State} {tile n : Nat} {x : Gran} (hfly : (s.flow tile n).fly = [x])
include hfly

theorem exec_copyGranule_writeServed (hring : (s.flow tile n).c.ring = false) {pd : Nat} {us : List (Nat × Bool)}
    (hdst : x.dst = some pd) (hclear : s.noneDeferred (pd % 2 ^ 44) 8) (hopen : s.homeRefuses tile pd true = none)
    (hdata : x.data = some us) : exec (.copyGranule tile ⟨n, x.id, .writeServed (pd % 2 ^ 44)⟩) s = .next
      ((s.granWritten tile n x (pd % 2 ^ 44) us).flowEnd tile n) := by
  have hclear' : (s.writeGranule (pd % 2 ^ 44) us).noneDeferred (pd % 2 ^ 44) 8 := by
    rw [memoryOnly_writeGranule s (pd % 2 ^ 44) us]
    exact hclear
  have hring' : (((s.writeGranule (pd % 2 ^ 44) us).progress (s.flow tile n).c.grp tile).flow tile n).c.ring = false :=
    (congrArg (·.c.ring) (s.flow_writeGranule tile n (pd % 2 ^ 44) us)).trans hring
  change execCopyGranule tile _ s = _
  simp only [execCopyGranule, Flow.gran_only hfly, State.granAddr, hring, hdst, hdata, hopen, Option.map_some, Option.getD_some,
    bne_self_eq_false, Bool.not_true, Bool.not_false, if_true, Bool.false_eq_true, if_false]
  rw [hdata, Option.getD_some, State.feSettle_of_noneDeferred hclear', State.granDone_memory hring']
  rfl

section
variable (hhalt : (s.flow tile n).halt = false) (a : Nat) (us : List (Nat × Bool))
include hhalt

/-- The flow after a granule has been written: it may end, which changes nothing of it. -/
theorem State.flow_granWritten_flowEnd : ((s.granWritten tile n x a us).flowEnd tile n).flow tile n =
    { s.flow tile n with fly := [], moved := (s.flow tile n).moved + 1 } := by
  have hflow := s.flow_granWritten tile n a us hfly
  rw [State.flow_flowEnd, State.flow_flowStops (by rw [hflow, hhalt]), hflow]

variable (hcode : (s.flow tile n).code = 0) (hcancel : (s.flow tile n).cancel = none)
include hcode hcancel

/-- With its last granule written, a copy whose tile is fenced puts nothing on its way. -/
theorem State.agenda_granWritten_fenced (hfence : (s.group (s.flow tile n).c.grp).fencedAt tile = true) :
    ((s.granWritten tile n x a us).flowEnd tile n).agenda = s.agenda := by
  have hflow := s.flow_granWritten tile n a us hfly
  rw [State.flowEnd_fenced (by rw [hflow, hhalt]) (by rw [hflow, hcode]) (by rw [hflow, hcancel])
    (by rw [State.fencedAt_granWritten, hflow, hfence]), State.agenda_flowStops, State.agenda_granWritten]

/-- With its last granule written, a copy ends. -/
theorem State.awaits_granWritten_done (hbusy : (s.flow tile n).st ≠ .free) (hring : (s.flow tile n).c.ring = false)
    (hlast : ((s.flow tile n).moved + 1) * 64 = (s.flow tile n).c.len)
    (hfence : (s.group (s.flow tile n).c.grp).fencedAt tile = false)
    (hnone : ∀ y ∈ s.agenda, ∀ st code, y.instr ≠ .copyComplete tile n st code) :
    ((s.granWritten tile n x a us).flowEnd tile n).awaits s.now (.copyComplete tile n 0 0) := by
  have hflow := s.flow_granWritten tile n a us hfly
  have hdone : ((s.granWritten tile n x a us).flow tile n).finished = true := by
    rw [hflow]
    simp [Flow.finished, Flow.bytes, hring, hlast]
  rw [State.flowEnd_done (by rw [hflow, hhalt]) (by rw [hflow, hcode]) (by rw [hflow, hcancel]) (by rw [hflow]; exact hbusy)
    (by rw [hflow]) hdone (by rw [State.fencedAt_granWritten, hflow, hfence]) (by rw [State.agenda_granWritten]; exact hnone),
    State.now_granWritten]
  exact State.awaits_at ..

end

end

/-- Settles O36: each event by what it leaves of the flow, and by the frame of what it reads, writes or puts on its way. -/
theorem copiesAtWork : Obligations.CopiesAtWork := by
  unfold Obligations.CopiesAtWork
  intro s tile n f clear
  refine ⟨?take, ?bind, ?permit, ?granule, ?complete, ?cancel⟩
  case take =>
    intro c hnone hfree hunbound
    refine ⟨_, exec_copyFlowTake hnone hfree hunbound, ?_, ?_, fun k hk => ?_, ?_, fun hring => ?_⟩
    · exact (State.flow_congr (State.hubs_takeFlow ..) ..).trans (State.flow_modFlow_same ..)
    · rw [State.hub, State.hubs_takeFlow, ← State.hub, State.copies_modFlow, State.copies_copyPasses hnone]
    · rw [State.flow_congr (State.hubs_takeFlow ..), State.flow_modFlow_ne _ _ hk, State.flow_copyPasses]
    · exact ((servedFrame_copyPasses ..).trans (servedFrame_takeFlow ..)).sameProgram
    · exact State.takeFlow_binds (s.copyPasses c) n hring
  case bind =>
    intro hbound
    let u := s.ringPermits f.c
    have hsent : recordFrame u (u.permitsSent tile n f.c.dstEa (s.freeHandles f)) := recordFrame_permitsSent ..
    have hpermits : servedFrame s u := servedFrame_modElem _ _ _ rfl
    refine ⟨_, exec_ringBindArrival hbound, ?_, (hpermits.trans hsent.served).sameProgram, fun h hh hfree => ?_, ?_⟩
    · rw [hsent.elem]
      exact s.permits_ringPermits f.c
    · have hmem : h ∈ s.freeHandles f := List.mem_filter.mpr ⟨hh, beq_iff_eq.mpr hfree⟩
      exact u.awaits_permitsSent tile n f.c.dstEa (List.ne_nil_of_mem hmem)
    · exact State.length_agenda_permitsSent ..
  case permit =>
    intro hbusy
    exact ⟨_, exec_permitArrival hbusy, State.flow_modFlow_same .., fun k hk => State.flow_modFlow_ne _ _ hk _, rfl⟩
  case granule =>
    intro x hinjs hring hssrc hhalt hfly
    refine ⟨?read, ?onward, ?write⟩
    case read =>
      intro ps hsrc a _ hclear hopen
      refine (copyGranule_reads hring hfly hinjs hssrc hsrc hclear hopen).imp fun t ⟨hserved, hflow, hasked⟩ => ?_
      rw [hflow]
      exact ⟨hserved.sameProgram.1, hserved.ctx, rfl, rfl, hasked⟩
    case onward =>
      intro r hwho hid hacc
      refine ⟨_, exec_requestPerform_destination hring hfly hwho hid hacc, ?_, ?_, State.awaits_at ..⟩
      · exact ((servedFrame_setGran ..).trans (servedFrame_at ..)).sameProgram.1
      · exact congrArg Flow.fly (State.flow_setGran (y := { x with dst := some r.pa, dpage := r.tpage, dsize := r.tsize }) hfly rfl)
    case write =>
      intro us pd b hdst _ hclear hopen hdata hlen
      have hserved := (servedFrame_granWritten s tile n x b us).trans (servedFrame_flowEnd _ tile n)
      have hflow := State.flow_granWritten_flowEnd hfly hhalt b us
      refine ⟨_, exec_copyGranule_writeServed hfly hring hdst hclear hopen hdata, fun y => ?_, fun i hi => ?_, fun u hu => ?_, ?_, ?_,
        fun hactive hcode hcancel _ hfence => ⟨?_, State.agenda_granWritten_fenced hfly hhalt b us hcode hcancel hfence⟩,
        fun hactive hcode hcancel hlast hfence hnone =>
          State.awaits_granWritten_done hfly hhalt b us hcode hcancel (by rw [hactive]; nofun) hring hlast hfence hnone,
        fun ea c => (hserved.ctx ea c).trans (State.ctx_writeGranule ..)⟩
      · rw [hserved.readByte, State.readByte_writeGranule, hlen]
      · rw [hserved.poisoned, State.poisoned_writeGranule, if_pos (by omega), Nat.add_sub_cancel_left]
      · rw [hserved.poisoned, State.poisoned_writeGranule, if_neg (by omega)]
      · rw [hflow]
      · rw [hflow]
      · rw [hflow]
        exact hactive
  case complete =>
    intro st code hbusy hring hnone
    refine ⟨_, exec_copyComplete hbusy hring hnone st code, ?_, ?_, State.tokenWord_sends ..⟩
    · exact (State.flow_congr (State.hubs_flowFreed ..) ..).trans (State.flow_modFlow_same ..)
    · exact (sameProgram_flowFreed ..).trans (sameProgram_tokenWord ..)
  case cancel =>
    intro c hwaits
    refine ⟨_, exec_ccanAtHub hwaits, ?_, ?_, State.tokenWord_sends ..⟩
    · rw [State.hub_tokenWord, State.hub_modHub, hwaits, List.erase_cons_head]
    · exact ((servedFrame_modHub ..).trans (servedFrame_at ..)).sameProgram

end Sys2Proof.Machine
end

section
/-! SUPPORT. Rules for keeping the canonical form of memory and of the table of elements (R254, Table 1-3): what leaves both alone
keeps it, and so do the operations of the state and of a firing. Here and below `State.Inv.f` says that the function `f` of the model
keeps it; its arguments are implicit, so that a chain `h.f.g` proves it of `f`, then `g`, and a proof follows the body of its function. -/

namespace Sys2Proof.Machine

variable {s t : State}

/-- What changes neither memory nor the table of elements keeps the invariant. The equation is left to a tactic, which runs once the
state after the change is known. -/
theorem State.Inv.frame (h : s.Inv) (e : (t.mem, t.elems) = (s.mem, s.elems)) : t.Inv :=
  h.of_eq (congrArg Prod.fst e) (congrArg Prod.snd e)

/-- What changes the table of elements by a map, and memory not at all, keeps the invariant. -/
theorem State.Inv.mapElems (h : s.Inv) {f : ℕ → Elem → Elem} (e : (t.mem, t.elems) = (s.mem, tmap .zero f s.elems)) :
    t.Inv :=
  ⟨(congrArg (Memory.wf ·.1) e).trans h.1, (congrArg (twf .zero ·.2) e).trans (twf_tmap _ _ h.2)⟩

theorem never_some {α : Type} {P : α → Prop} : ∀ x, none = some x → P x := nofun

theorem never_inl {α β : Type} {P : α → Prop} {b : β} : ∀ x, .inr b = Sum.inl x → P x := nofun

theorem never_inr {α β : Type} {P : β → Prop} {a : α} : ∀ x, .inl a = Sum.inr x → P x := nofun

theorem State.Inv.ite {c : Prop} {_ : Decidable c} (hs : s.Inv) (ht : t.Inv) : (if c then s else t).Inv := by
  split <;> assumption

theorem State.Inv.getD {o : Option State} (h : s.Inv) (ho : ∀ t, o = some t → t.Inv) : (o.getD s).Inv := by
  cases o with
  | none => exact h
  | some t => exact ho t rfl

theorem State.Inv.of_fst {α : Type} {p : State × α} {a : α} (h : p.1.Inv) (e : p = (t, a)) : t.Inv := by
  rw [e] at h; exact h

theorem State.Inv.of_snd {α : Type} {p : α × State} {a : α} (h : p.2.Inv) (e : p = (a, t)) : t.Inv := by
  rw [e] at h; exact h

theorem State.Inv.iteFst {α : Type} {c : Prop} {_ : Decidable c} {p q : State × α} (hp : p.1.Inv) (hq : q.1.Inv) :
    (if c then p else q).1.Inv := by
  split <;> assumption

theorem State.Inv.iteSnd {α : Type} {c : Prop} {_ : Decidable c} {p q : α × State} (hp : p.2.Inv) (hq : q.2.Inv) :
    (if c then p else q).2.Inv := by
  split <;> assumption

/-- The state at the end of the outcome of a command. -/
theorem State.Inv.iteOut {c : Prop} {_ : Decidable c} {p q : MgOut} (hp : p.2.2.Inv) (hq : q.2.2.Inv) :
    (if c then p else q).2.2.Inv := by
  split <;> assumption

theorem State.Inv.of_ite_some {c : Prop} {_ : Decidable c} {o : Option State} (ho : ∀ t, o = some t → t.Inv) (h : s.Inv)
    (e : (if c then o else some s) = some t) : t.Inv := by
  split at e
  · exact ho t e
  · cases e
    exact h

theorem State.Inv.of_some (h : s.Inv) : ∀ t, some s = some t → t.Inv := by
  rintro _ ⟨⟩; exact h

theorem State.Inv.of_some_fst {α : Type} {a : α} (h : s.Inv) : ∀ x, some (s, a) = some x → x.1.Inv := by
  rintro _ ⟨⟩; exact h

theorem State.Inv.of_some_snd {α : Type} {a : α} (h : s.Inv) : ∀ x, some (a, s) = some x → x.2.Inv := by
  rintro _ ⟨⟩; exact h

theorem State.Inv.of_inl {α : Type} (h : s.Inv) : ∀ t, (.inl s : State ⊕ α) = .inl t → t.Inv := by
  rintro _ ⟨⟩; exact h

theorem State.Inv.of_inr {α : Type} (h : s.Inv) : ∀ t, (.inr s : α ⊕ State) = .inr t → t.Inv := by
  rintro _ ⟨⟩; exact h

/-- Where the outcome is a next state, that state meets the invariant. -/
def Keeps (o : Out1) : Prop := ∀ t, o = .next t → t.Inv

theorem Keeps.next (h : s.Inv) : Keeps (.next s) := by
  rintro _ ⟨⟩; exact h

/-! ## Operations of the state -/

theorem State.Inv.modCtx (h : s.Inv) {ea c : ℕ} {f : Ctx → Ctx} : (s.modCtx ea c f).Inv :=
  h.modElem ..

theorem State.Inv.modChan (h : s.Inv) {ea n : ℕ} {f : Chan → Chan} : (s.modChan ea n f).Inv :=
  h.modElem ..

theorem State.Inv.modOut (h : s.Inv) {ea n : ℕ} {f : Out → Out} : (s.modOut ea n f).Inv :=
  h.modElem ..

theorem State.Inv.choose (h : s.Inv) : s.choose.2.Inv := h

theorem State.Inv.progress (h : s.Inv) {gn ea t : ℕ} : (s.progress gn ea t).Inv := h.modGroup ..

theorem State.Inv.progressAt (h : s.Inv) {ea t : ℕ} : (s.progressAt ea t).Inv := by
  fun_cases State.progressAt
  exacts [h.progress, h]

theorem State.Inv.fenceTiles (h : s.Inv) {gn ea : ℕ} {l : List ℕ} : (s.fenceTiles gn ea l).Inv := by
  fun_induction State.fenceTiles
  · exact h
  next ih => exact ih (h.after ..)

theorem State.Inv.fenceGroup (h : s.Inv) {gn ea : ℕ} : (s.fenceGroup gn ea).Inv :=
  (h.modGroup ..).fenceTiles

theorem State.Inv.raiseRec (h : s.Inv) {gn src ea : ℕ} {ctx slot : Option ℕ} {code : ℕ} {async fence : Bool} {detail : ℕ}
    {aux : Word} {key : ℕ} : (s.raiseRec gn src ea ctx slot code async fence detail aux key).Inv :=
  h.ite ((h.after ..).fenceGroup.ite ((h.after ..).fenceTiles.ite (h.after ..)))

theorem State.Inv.ctxFaulted (h : s.Inv) {ea c : ℕ} : (s.ctxFaulted ea c).Inv := h.modCtx

theorem State.Inv.raiseSync (h : s.Inv) {cu : Cursor} {code detail : ℕ} {aux : Word} : (s.raiseSync cu code detail aux).Inv :=
  h.ctxFaulted.raiseRec

theorem State.Inv.raiseCtx (h : s.Inv) {gn src : ℕ} {cu : Cursor} {code detail : ℕ} {aux : Word} :
    (s.raiseCtx gn src cu code detail aux).Inv :=
  h.ctxFaulted.raiseRec

theorem State.Inv.raiseGroup (h : s.Inv) {gn src ea code detail : ℕ} {aux : Word} : (s.raiseGroup gn src ea code detail aux).Inv :=
  h.raiseRec

theorem State.Inv.liveAgain (h : s.Inv) {gn : ℕ} : (s.liveAgain gn).Inv := by
  unfold State.liveAgain
  exact (h.setGroup ..).mapElems (by with_reducible rfl)

theorem State.Inv.modHub (h : s.Inv) {tile : ℕ} {f : Hub → Hub} : (s.modHub tile f).Inv := h

theorem State.Inv.logTile (h : s.Inv) {ea array type : ℕ} {inj : Bool} {loc : Word} : (s.logTile ea array type inj loc).Inv :=
  h.modHub

theorem State.Inv.takeInj (h : s.Inv) {array target : ℕ} : (s.takeInj array target).2.Inv := by
  fun_cases State.takeInj
  exacts [h.frame (by with_reducible rfl), h]

theorem State.Inv.setRlink (h : s.Inv) {l : ℕ} {x : RLink} : (s.setRlink l x).Inv := h

theorem State.Inv.joinLink (h : s.Inv) {t site port vc : ℕ} {as : List Arrival} {d : ℕ} : (s.joinLink t site port vc as d).Inv :=
  h.ite (h.setRlink.at_ ..)

theorem State.Inv.forward (h : s.Inv) {t site port vc : ℕ} {as : List Arrival} : (s.forward t site port vc as).Inv :=
  .foldl (h.foldl _ _ fun _ _ h => h.at_ ..) _ _ fun _ _ h => h.joinLink

theorem State.Inv.follow (h : s.Inv) {t : ℕ} {evs : List (ℕ × Instr)} : (s.follow t evs).Inv :=
  h.foldl _ _ fun _ _ h => h.at_ ..

theorem State.Inv.parcelWaits (h : s.Inv) {t site port vc : ℕ} {p : Parcel} : (s.parcelWaits t site port vc p).Inv :=
  h.setRlink.at_ ..

theorem State.Inv.parcelOn (h : s.Inv) {t site vc : ℕ} {l : List (ℕ × List (ℕ × Instr))} : (s.parcelOn t site vc l).Inv := by
  fun_induction State.parcelOn
  · exact h
  next ih => exact ih h.follow
  · exact h.parcelWaits

theorem State.Inv.passParcel (h : s.Inv) {t site port vc : ℕ} {p : Parcel} : (s.passParcel t site port vc p).Inv :=
  h.follow.parcelOn.ite h.parcelWaits

theorem State.Inv.sendParcel (h : s.Inv) {t from_ dst vc : ℕ} {evs : List (ℕ × Instr)} : (s.sendParcel t from_ dst vc evs).Inv :=
  h.follow.ite h.passParcel

theorem State.Inv.sendTwice (h : s.Inv) {t from_ dst : ℕ} {evs : List (ℕ × Instr)} {last : ℕ} {evs' : List (ℕ × Instr)} :
    (s.sendTwice t from_ dst evs last evs').Inv :=
  h.follow.parcelOn.ite h.passParcel

theorem State.Inv.launchWord (h : s.Inv) {t from_ dst ch : ℕ} {w : CWord} {src : Src} {epoch : ℕ} :
    (s.launchWord t from_ dst ch w src epoch).Inv :=
  (h.at_ ..).ite h.forward

theorem State.Inv.launchCopies (h : s.Inv) {t ea : ℕ} {as : List Arrival} : (s.launchCopies t ea as).Inv :=
  .forward (h.foldl _ _ fun _ _ h => h.at_ ..)

theorem State.Inv.launchTargets (h : s.Inv) {g : Group} {t ea o epoch : ℕ} {r : Route} {w : CWord} :
    (s.launchTargets g t ea o epoch r w).Inv :=
  h.launchCopies

theorem State.Inv.enterReady (h : s.Inv) {ea o : ℕ} {l : List Place} : (s.enterReady ea o l).Inv := by
  fun_induction State.enterReady
  · exact h.modOut
  · exact h.modOut
  next ih => exact ih h.modOut.progress.launchTargets

theorem State.Inv.fillPlace (h : s.Inv) {ea o id : ℕ} {w : CWord} : (s.fillPlace ea o id w).Inv :=
  h.enterReady

theorem State.Inv.fillPlaces (h : s.Inv) {ea : ℕ} {w : CWord} {l : List (ℕ × ℕ)} : (s.fillPlaces ea w l).Inv := by
  fun_induction State.fillPlaces
  · exact h
  next ih => exact ih h.fillPlace

theorem State.Inv.reserve (h : s.Inv) {ea o : ℕ} : (s.reserve ea o).1.Inv := h.setElem ..

theorem State.Inv.reserveAll (h : s.Inv) {ea : ℕ} {l : List ℕ} : (s.reserveAll ea l).1.Inv := by
  fun_induction State.reserveAll
  · exact h
  next ih => exact (ih (h.reserve.of_fst ‹_›)).of_fst ‹_›

theorem State.Inv.modEngine (h : s.Inv) {stack : ℕ} {f : Engine → Engine} : (s.modEngine stack f).Inv :=
  h

theorem State.Inv.setBank (h : s.Inv) {b : ℕ} {x : Bank} : (s.setBank b x).Inv := h

theorem State.Inv.creditBack (h : s.Inv) {c : Option (ℕ × ℕ × ℕ)} : (s.creditBack c).Inv := by
  fun_cases State.creditBack
  exacts [h.at_ .., h]

theorem State.Inv.bankEnter (h : s.Inv) {a port : ℕ} {i : Instr} {credit : Option (ℕ × ℕ × ℕ)} : (s.bankEnter a port i credit).Inv :=
  (h.setBank.creditBack.ite h.setBank).at_ ..

theorem State.Inv.returnCredit (h : s.Inv) {ea : ℕ} {src : Src} : (s.returnCredit ea src).Inv := by
  fun_cases State.returnCredit
  exacts [h, h.after .., h.after ..]

theorem State.Inv.pop (h : s.Inv) {ea ch : ℕ} : (s.pop ea ch).Inv := by
  fun_cases State.pop
  exacts [h, h.modChan.returnCredit.progressAt]

theorem State.Inv.popIf (h : s.Inv) {k : Bool} {ea ch : ℕ} : (s.popIf k ea ch).Inv := h.pop.ite h

/-! ## Operands and the common part of a firing -/

theorem State.Inv.raisePoison (h : s.Inv) {cu : Cursor} {o : Opnd} : (s.raisePoison cu o).Inv :=
  h.raiseSync

theorem State.Inv.releaseTag (h : s.Inv) {cu : Cursor} {k : ℕ} {tag : Byte} : (s.releaseTag cu k tag).Inv :=
  h.after ..

theorem State.Inv.tagEffect (h : s.Inv) {cu : Cursor} {f : SlotF} : (s.tagEffect cu f).Inv := by
  fun_cases State.tagEffect
  exacts [h.modElem .., h.releaseTag, h, h]

theorem State.Inv.countFiring (h : s.Inv) {cu : Cursor} : (s.countFiring cu).Inv := h.modElem ..

theorem State.Inv.fireBase (h : s.Inv) {cu : Cursor} {f : SlotF} : (s.fireBase cu f).Inv :=
  h.countFiring.tagEffect.popIf.popIf

theorem State.Inv.raiseFlags (h : s.Inv) {cu : Cursor} {lat : ℕ} {fl : FlagSet} : (s.raiseFlags cu lat fl).Inv :=
  h.ite (h.after ..)

theorem State.Inv.markPending (h : s.Inv) {cu : Cursor} {reg : Option ℕ} {preds : Byte} : (s.markPending cu reg preds).Inv :=
  h.modCtx

theorem State.Inv.deliver (h : s.Inv) {cu : Cursor} {f : SlotF} {d : BitVec 5} {lat : ℕ} {v : Word} {kind : WKind} {tag : Byte}
    {fl : FlagSet} : (s.deliver cu f d lat v kind tag fl).Inv :=
  (h.reserveAll.markPending.ite h.reserveAll).after ..

theorem State.Inv.operandFault (h : s.Inv) {cu : Cursor} {f : SlotF} : ∀ t, s.operandFault cu f = some t → t.Inv := by
  fun_cases State.operandFault
  exacts [h.raisePoison.of_some, h.raisePoison.of_some, h.raiseSync.of_some, never_some]

theorem State.Inv.fireAlu (h : s.Inv) {f : SlotF} {lat : AluIn → ℕ} {g : AluIn → Res} : (s.fireAlu f lat g).Inv := by
  fun_cases State.fireAlu
  exacts [h, h.operandFault _ ‹_›, h.fireBase.raiseFlags.deliver]

/-- A firing whose own effect keeps the invariant keeps it. -/
theorem State.Inv.fireWith (h : s.Inv) {f : SlotF} {g : Cursor → AluIn → Byte → State → State}
    (hg : ∀ cu x tag s, s.Inv → (g cu x tag s).Inv) : (s.fireWith f g).Inv := by
  fun_cases State.fireWith
  exacts [h, h.operandFault _ ‹_›, hg _ _ _ _ h.fireBase.raiseFlags]

end Sys2Proof.Machine
end

section
/-! SUPPORT. Contexts, barriers, scratchpads, channels and stream operators keep the canonical form (R254). -/

namespace Sys2Proof.Machine

variable {s t : State}

/-! ## Contexts (chapter 04) -/

theorem State.Inv.raiseRelease (h : s.Inv) {cu : Cursor} {f : SlotF} : (s.raiseRelease cu f).Inv :=
  h.raiseSync

theorem State.Inv.execMov (h : s.Inv) {f : SlotF} : Keeps (execMov f s) := by
  refine .next ?_
  split
  exacts [h, h.raisePoison.ite (h.raiseRelease.ite h.fireBase.raiseFlags.deliver)]

theorem State.Inv.execMov2 (h : s.Inv) {f : SlotF} : Keeps (execMov2 f s) := by
  refine .next ?_
  split
  exacts [h, h.raisePoison.ite (h.raisePoison.ite (h.raiseRelease.ite h.fireBase.raiseFlags.deliver.deliver))]

theorem State.Inv.execSteer (h : s.Inv) {f : SlotF} : Keeps (execSteer f s) := by
  refine .next ?_
  split
  exacts [h, h.raisePoison.ite (h.raiseRelease.ite h.fireBase.raiseFlags.deliver)]

theorem State.Inv.execHalt (h : s.Inv) {f : SlotF} : Keeps (execHalt f s) :=
  .next (h.fireWith fun _ _ _ _ h => h.modCtx.raiseRec)

theorem State.Inv.writePreds (h : s.Inv) {cu : Cursor} {mask v : Byte} : (s.writePreds cu mask v).Inv :=
  h.ite (h.after ..)

theorem State.Inv.execDrop (h : s.Inv) {f : SlotF} : Keeps (execDrop f s) :=
  .next (h.fireWith fun _ _ _ _ h => h)

theorem State.Inv.execSpawn (h : s.Inv) {f : SlotF} : Keeps (execSpawn f s) :=
  .next (h.fireWith fun _ _ _ _ h => h.deliver.deliver.ite h.deliver)

theorem State.Inv.execTfree (h : s.Inv) {f : SlotF} : Keeps (execTfree f s) := by
  refine .next ?_
  split
  · exact h
  · split
    exacts [h.operandFault _ ‹_›, h.raiseSync.ite h.fireBase.raiseFlags.releaseTag]

theorem State.Inv.execRdsr (h : s.Inv) {f : SlotF} : Keeps (execRdsr f s) := by
  refine .next ?_
  split
  exacts [h, h.raiseSync.ite (h.fireWith fun _ _ _ _ h => h.deliver)]

theorem State.Inv.execWrsr (h : s.Inv) {f : SlotF} : Keeps (execWrsr f s) := by
  refine .next ?_
  split
  exacts [h, h.raiseSync.ite (h.fireWith fun _ _ _ _ h => h.modCtx)]

theorem State.Inv.execResultDelivery (h : s.Inv) {d : Delivery} : Keeps (execResultDelivery d s) :=
  .next (h.modCtx.ite h).fillPlaces

theorem State.Inv.modPool (h : s.Inv) {gn k : ℕ} {f : Pool → Pool} : (s.modPool gn k f).Inv :=
  h.modGroup ..

theorem State.Inv.askTag (h : s.Inv) {ea pool : ℕ} {spawn : Bool} : (s.askTag ea pool spawn).Inv :=
  (h.modElem ..).modPool.at_ ..

theorem State.Inv.execTagGrant (h : s.Inv) {gn k : ℕ} : Keeps (execTagGrant gn k s) := by
  refine .next (h.ite ?_)
  split
  exacts [(h.modPool.progress.after ..).ite ((h.modPool.progress.after ..).after ..), h]

theorem State.Inv.execTagCreditArrival (h : s.Inv) {ea k : ℕ} {tag : Byte} {spawn : Bool} :
    Keeps (execTagCreditArrival ea k tag spawn s) :=
  .next (h.modElem ..)

theorem State.Inv.execTagReleaseArrival (h : s.Inv) {gn k : ℕ} {tag : Byte} {ea ctx slot : ℕ} :
    Keeps (execTagReleaseArrival gn k tag ea ctx slot s) :=
  .next (h.ite (h.raiseRec.ite (h.modPool.at_ ..)))

/-! ## Barriers (chapter 14) -/

theorem State.Inv.modBar (h : s.Inv) {tile n : ℕ} {f : Bar → Bar} : (s.modBar tile n f).Inv :=
  h.modHub

theorem State.Inv.sendBar (h : s.Inv) {m : BarMsg} : (s.sendBar m).Inv := h.after ..

theorem State.Inv.fireArrive (h : s.Inv) {f : SlotF} {kind : BarKind} : (s.fireArrive f kind).Inv := by
  fun_cases State.fireArrive
  exacts [h, h.raiseSync, h.fireBase.sendBar, h.fireBase.modElem ..]

theorem State.Inv.execBarInit (h : s.Inv) {f : SlotF} : Keeps (execBarInit f s) := by
  refine .next ?_
  split
  exacts [h, h.raisePoison.ite (h.raiseSync.ite (h.raiseSync.ite h.fireBase.raiseFlags.sendBar))]

theorem State.Inv.execBarQ (h : s.Inv) {f : SlotF} : Keeps (execBarQ f s) := by
  refine .next ?_
  split
  exacts [h, h.raiseSync.ite (h.fireWith fun _ _ _ _ h => h.deliver)]

theorem State.Inv.sendTokens (h : s.Inv) {g : Group} {tile n : ℕ} {k : BitVec 32} {i : ℕ} {l : List Word} :
    (s.sendTokens g tile n k i l).Inv := by
  fun_induction State.sendTokens
  · exact h
  next ih => exact ih h.launchWord

theorem State.Inv.completePhase (h : s.Inv) {gn tile n : ℕ} : (s.completePhase gn tile n).Inv :=
  h.modBar.progress.sendTokens.ite (h.modBar.after ..)

theorem State.Inv.execCompletePhase (h : s.Inv) {tile n : ℕ} : Keeps (execCompletePhase tile n s) :=
  .next (h.completePhase.ite h)

theorem State.Inv.raiseBar (h : s.Inv) {m : BarMsg} {code detail count : ℕ} : (s.raiseBar m code detail count).Inv :=
  h.raiseRec

theorem State.Inv.overrun (h : s.Inv) {m : BarMsg} {d : ℕ} : (s.overrun m d).Inv :=
  h.modBar.raiseBar

theorem State.Inv.barArrive (h : s.Inv) {m : BarMsg} : (s.barArrive m).Inv := by
  fun_cases State.barArrive
  exacts [h.raiseBar, h, h.overrun, h.overrun, h.overrun, h.modBar.completePhase, h.modBar]

theorem State.Inv.barInit (h : s.Inv) {m : BarMsg} : (s.barInit m).Inv := by
  fun_cases State.barInit
  exacts [h.modBar, h.modBar, h.overrun, h]

theorem State.Inv.execBarrierMessageArrival (h : s.Inv) {m : BarMsg} : Keeps (execBarrierMessageArrival m s) := by
  refine .next ?_
  split
  exacts [h.barInit, h.barArrive]

/-! ## Scratchpads (chapter 07) -/

theorem State.Inv.execBankService (h : s.Inv) {n : ℕ} : Keeps (execBankService n s) := by
  refine .next (h.ite ?_)
  dsimp only
  split
  exacts [h, (h.setBank.creditBack.at_ ..).ite ((h.setBank.creditBack.at_ ..).after ..)]

theorem State.Inv.promise (h : s.Inv) {cu : Cursor} {f : SlotF} {tag : Byte} : (s.promise cu f tag).1.Inv :=
  h.reserveAll.markPending

theorem State.Inv.fireLocal (h : s.Inv) {f : SlotF} {acc : Acc} : (s.fireLocal f acc).Inv := by
  fun_cases State.fireLocal
  exacts [h, h.operandFault _ ‹_›, h.raiseSync, (h.bump.fireBase.raiseFlags.modElem ..).after ..,
    (h.bump.fireBase.raiseFlags.promise.of_fst ‹_›).after ..]

theorem State.Inv.execHacq (h : s.Inv) {f : SlotF} : Keeps (execHacq f s) := by
  refine .next ?_
  split
  · exact h
  · refine h.raiseSync.ite ?_
    split
    exacts [h, h.fireWith fun _ _ _ _ h => (h.modElem ..).deliver]

theorem State.Inv.handleFull (h : s.Inv) {ea h' : ℕ} : (s.handleFull ea h').Inv := h.modElem ..

theorem State.Inv.execHandleFullAfterCommit (h : s.Inv) {ea h' : ℕ} : Keeps (execHandleFullAfterCommit ea h' s) :=
  .next (h.handleFull.ite h)

theorem State.Inv.execHcommit (h : s.Inv) {f : SlotF} : Keeps (execHcommit f s) := by
  refine .next ?_
  split
  exacts [h, h.raisePoison.ite (h.raiseSync.ite
    (h.fireWith fun _ _ _ _ h => h.handleFull.ite (((h.modElem ..).after ..).ite (h.modElem ..))))]

theorem State.Inv.sstDone (h : s.Inv) {ea id : ℕ} : (s.sstDone ea id).Inv :=
  (h.modElem ..).foldl _ _ fun _ _ h => h.after ..

theorem State.Inv.handleFree (h : s.Inv) {ea h' : ℕ} : (s.handleFree ea h').Inv := by
  fun_cases State.handleFree
  exacts [(h.modElem ..).after .., h.modElem .., h.modElem ..]

theorem State.Inv.execHrel (h : s.Inv) {f : SlotF} : Keeps (execHrel f s) := by
  refine .next ?_
  split
  exacts [h, h.raisePoison.ite (h.raiseSync.ite (h.fireWith fun _ _ _ _ h => h.handleFree))]

theorem State.Inv.execHread (h : s.Inv) {f : SlotF} : Keeps (execHread f s) := by
  refine .next ?_
  split
  · exact h
  · split
    · exact h.operandFault _ ‹_›
    · refine h.raiseSync.ite (h.raiseSync.ite (h.raiseSync.ite ?_))
      split
      exacts [h.raiseSync, h.bump.fireBase.raiseFlags.reserveAll.markPending.after ..]

theorem State.Inv.execTevict (h : s.Inv) {f : SlotF} : Keeps (execTevict f s) :=
  .next (h.fireWith fun _ _ _ _ h => (h.modElem ..).deliver)

/-! ## Channels (chapter 06) -/

theorem State.Inv.execJoin (h : s.Inv) {f : SlotF} : Keeps (execJoin f s) :=
  .next (h.fireWith fun _ _ _ _ h => ((h.reserveAll.bump.modElem ..).after ..).ite (h.reserveAll.bump.modElem ..))

theorem State.Inv.execJoinWordEntry (h : s.Inv) {ea ctx id : ℕ} : Keeps (execJoinWordEntry ea ctx id s) := by
  refine .next ?_
  split
  exacts [h, (h.modElem ..).fillPlaces]

theorem State.Inv.creditHome (h : s.Inv) {src : Src} : (s.creditHome src).Inv := by
  fun_cases State.creditHome
  exacts [h, h.modOut, h, h]

theorem State.Inv.execCreditReturn (h : s.Inv) {src : Src} : Keeps (execCreditReturn src s) :=
  .next h.creditHome

theorem State.Inv.strayWord (h : s.Inv) {ea ch : ℕ} {w : QWord} : (s.strayWord ea ch w).Inv :=
  h.logTile.ite h.modChan.raiseGroup

theorem State.Inv.queueWord (h : s.Inv) {ea ch : ℕ} {w : QWord} : (s.queueWord ea ch w).Inv :=
  h.modChan

theorem State.Inv.execChannelWordArrival (h : s.Inv) {a : Arrival} : Keeps (execChannelWordArrival a s) := by
  have ht : (s.takeInj 3 a.ea).2.Inv := h.takeInj
  exact .next ((ht.logTile.ite ht).modChan.ite ((ht.logTile.ite ht).strayWord.ite
    ((ht.logTile.ite ht).strayWord.ite (ht.logTile.ite ht).queueWord)))

theorem State.Inv.execRouterArbitration (h : s.Inv) {l : ℕ} : Keeps (execRouterArbitration l s) := by
  refine .next (h.ite ?_)
  extract_lets here d
  split
  · exact h
  split
  · exact h
  split
  · exact h
  extract_lets x' s1 nxt there s2
  have h1 : s1.Inv := h.setRlink
  have h2 : s2.Inv := by
    unfold s2
    split
    exacts [h1.forward, h1.passParcel]
  exact h2.ite (h2.after ..)

/-! ## Positions of generators (chapter 09) -/

theorem State.Inv.modGen (h : s.Inv) {ea g : ℕ} {f : Gen → Gen} : (s.modGen ea g f).Inv :=
  h.modElem ..

theorem State.Inv.genSettled (h : s.Inv) {ea g : ℕ} : (s.genSettled ea g).Inv :=
  h.ite (h.modElem ..)

theorem State.Inv.unreserve (h : s.Inv) {ea o id : ℕ} : (s.unreserve ea o id).Inv :=
  (h.setElem ..).enterReady

theorem State.Inv.genUnissue (h : s.Inv) {ea g id : ℕ} : (s.genUnissue ea g id).Inv := by
  unfold State.genUnissue
  extract_lets x s1 s2
  have h1 : s1.Inv := by
    unfold s1
    split
    exacts [h.unreserve, h]
  have h2 : s2.Inv := h1.modGen
  exact h2.modOut.ite h2

/-! ## Stream operators (chapter 07) -/

theorem State.Inv.fireStream (h : s.Inv) {f : SlotF} {op : ℕ} : (s.fireStream f op).Inv := by
  fun_cases State.fireStream
  exacts [h, h.raisePoison, h.raiseSync, h.raiseSync, h.raiseSync, h.raiseSync, (h.fireBase.raiseFlags.modElem ..).after ..]

theorem State.Inv.suPop (h : s.Inv) {ea i : ℕ} : (s.suPop ea i).Inv := h.pop.ite (h.modElem ..)

theorem State.Inv.setSu (h : s.Inv) {ea : ℕ} {u : Option Su} : (s.setSu ea u).Inv := h.modElem ..

theorem State.Inv.suSend (h : s.Inv) {ea o : ℕ} {w : CWord} : ∀ t, s.suSend ea o w = some t → t.Inv := by
  fun_cases State.suSend
  exacts [never_some, (h.reserve.of_fst ‹_›).fillPlace.of_some]

theorem State.Inv.suCompare (h : s.Inv) {ea : ℕ} {u : Su} : ∀ x, s.suCompare ea u = some x → x.1.Inv := by
  fun_cases State.suCompare
  exacts [h.of_some_fst, never_some, never_some, never_some, h.suPop.of_some_fst, h.suPop.of_some_fst, h.of_some_fst, never_some,
    h.suPop.of_some_fst, h.suPop.of_some_fst, h.of_some_fst, h.suPop.suPop.of_some_fst, h.suPop.of_some_fst, h.suPop.of_some_fst,
    h.suPop.of_some_fst, h.suPop.of_some_fst, h.suPop.of_some_fst, h.suPop.of_some_fst, h.of_some_fst, never_some,
    h.suPop.of_some_fst]

theorem State.Inv.suBlock (h : s.Inv) {ea : ℕ} {u : Su} {stop : Elem → Bool} {n : ℕ} : (s.suBlock ea u stop n).1.Inv := by
  fun_induction State.suBlock
  · exact h
  · exact h
  · exact h
  next ih => exact ih (h.suCompare _ ‹_›)

theorem State.Inv.suRankStep (h : s.Inv) {ea : ℕ} {u : Su} : ∀ x, s.suRankStep ea u = some x → x.1.Inv := by
  fun_cases State.suRankStep
  exacts [never_some, h.suPop.of_some_fst, h.suPop.of_some_fst, h.suPop.of_some_fst, never_some, h.suPop.of_some_fst]

theorem State.Inv.redcTake (h : s.Inv) {ea : ℕ} {u : Su} : (s.redcTake ea u).1.Inv := by
  fun_cases State.redcTake
  exacts [h, h, h.suPop, h, h, h.suPop]

theorem State.Inv.suFlushOne (h : s.Inv) {ea : ℕ} {u : Su} : (s.suFlushOne ea u).1.Inv := by
  fun_cases State.suFlushOne
  exacts [h, h, h, h.suSend _ ‹_›]

theorem State.Inv.mergeCycle (h : s.Inv) {ea : ℕ} {u : Su} {stop : Elem → Bool} {n : ℕ} : (s.mergeCycle ea u stop n).1.Inv := by
  fun_induction State.mergeCycle
  · exact h
  · exact h
  · exact h
  · exact h.suCompare _ ‹_›
  next ih => exact ih (h.suCompare _ ‹_›)

theorem State.Inv.suWork (h : s.Inv) {ea : ℕ} {u : Su} : (s.suWork ea u).1.Inv := by
  fun_cases State.suWork
  exacts [h.redcTake.of_fst ‹_›, h.redcTake.of_fst ‹_›, h, h.suBlock.of_fst ‹_›, h.mergeCycle, h, h.suRankStep _ ‹_›]

theorem State.Inv.suCycle (h : s.Inv) {ea : ℕ} {u : Su} : (s.suCycle ea u).Inv := by
  fun_cases State.suCycle
  exacts [(h.suFlushOne.of_fst ‹_›).setSu.raiseGroup, (h.suFlushOne.of_fst ‹_›).setSu.after ..,
    ((h.suFlushOne.of_fst ‹_›).suWork.of_fst ‹_›).setSu.after .., (h.suFlushOne.of_fst ‹_›).setSu.bankEnter,
    (h.suFlushOne.of_fst ‹_›).setSu.after .., h.suFlushOne.of_fst ‹_›, (h.suFlushOne.of_fst ‹_›).after ..,
    ((h.suFlushOne.of_fst ‹_›).suSend _ ‹_›).modCtx.setSu.after .., (h.suFlushOne.of_fst ‹_›).setSu]

theorem State.Inv.execOperatorInput (h : s.Inv) {ea : ℕ} : Keeps (execOperatorInput ea s) := by
  refine .next ?_
  split
  exacts [h, (h.after ..).ite h.suCycle]

theorem State.Inv.execOperatorEnd (h : s.Inv) {ea : ℕ} : Keeps (execOperatorEnd ea s) := by
  refine .next ?_
  split
  exacts [h, h.ite ((h.progressAt.storeUnit ..).setSu.after ..)]

end Sys2Proof.Machine
end

section
/-! SUPPORT. Links, pages, homes, copies, requests and generators keep the canonical form (R254). -/

namespace Sys2Proof.Machine

variable {s t : State}

/-! ## Ports of a module -/

theorem State.Inv.modCore (h : s.Inv) {k : ℕ} {f : Core → Core} : (s.modCore k f).Inv := h

theorem State.Inv.modXlink (h : s.Inv) {l : ℕ} {f : Link → Link} : (s.modXlink l f).Inv := h

theorem State.Inv.leftPort (h : s.Inv) {l : ℕ} {load : TxLoad} : (s.leftPort l load).Inv := by
  fun_cases State.leftPort
  · exact h
  next s1 s2 s3 =>
    have h1 : s1.Inv := h.frame (by with_reducible rfl)
    have h2 : s2.Inv := (h1.at_ ..).ite h1
    exact ((h2.after ..).ite h2).after ..
  · exact h

theorem State.Inv.flushLink (h : s.Inv) {l : ℕ} : (s.flushLink l).Inv :=
  h.modXlink.foldl _ _ fun _ _ h => h.leftPort

theorem State.Inv.linkSend (h : s.Inv) {l vc : ℕ} {load : TxLoad} : (s.linkSend l vc load).Inv :=
  h.modXlink.flushLink

theorem State.Inv.sendControl (h : s.Inv) {l type : ℕ} : (s.sendControl l type).Inv := h.modXlink

theorem State.Inv.sendAnswer (h : s.Inv) {l m a vc : ℕ} {load : TxLoad} : (s.sendAnswer l m a vc load).Inv := by
  fun_cases State.sendAnswer
  exacts [h.linkSend, h.modXlink]

theorem State.Inv.retryAnswers (h : s.Inv) : s.retryAnswers.Inv :=
  h.foldl _ _ fun _ _ h => h.modXlink.foldl _ _ fun _ _ h => h.sendAnswer

theorem State.Inv.answerRemote (h : s.Inv) {l module a id : ℕ} {v : Word} {code : ℕ} {poison : Bool} :
    (s.answerRemote l module a id v code poison).Inv :=
  h.sendAnswer

/-! ## Pages (chapter 15) -/

theorem State.Inv.modBase (h : s.Inv) {stack : ℕ} {f : Base → Base} : (s.modBase stack f).Inv := h

theorem State.Inv.modSlice (h : s.Inv) {tile : ℕ} {f : Slice → Slice} : (s.modSlice tile f).Inv := h

theorem State.Inv.toSlice (h : s.Inv) {t : ℕ} {r : MReq} {credit : List (ℕ × Instr)} : (s.toSlice t r credit).Inv :=
  h.sendTwice

theorem State.Inv.modFlow (h : s.Inv) {tile n : ℕ} {f : Flow → Flow} : (s.modFlow tile n f).Inv :=
  h.modHub

theorem State.Inv.flowStops (h : s.Inv) {tile n : ℕ} : (s.flowStops tile n).Inv := h.modFlow

theorem State.Inv.notePa (h : s.Inv) {r : MReq} {pa : ℕ} : (s.notePa r pa).Inv := h.modOut

theorem State.Inv.onward (h : s.Inv) {r : MReq} {pa page size : ℕ} {pzn : Bool} {late : ℕ} {fe : Bool} :
    (s.onward r pa page size pzn late fe).Inv := by
  unfold State.onward
  extract_lets r' s'
  have hs : s'.Inv := by
    unfold s'
    split
    exacts [h.notePa.modGen, h.notePa.ite h, h]
  clear_value r' s'
  split
  exacts [h.after .., (h.after ..).ite (hs.at_ ..)]

theorem State.Inv.flowEnd (h : s.Inv) {tile n : ℕ} : (s.flowEnd tile n).Inv := by
  fun_cases State.flowEnd
  exacts [h.flowStops, h.flowStops.at_ .., h.flowStops.at_ .., h.flowStops, (h.flowStops.choose.of_snd ‹_›).at_ ..,
    h.flowStops.at_ ..]

theorem State.Inv.flowCode (h : s.Inv) {tile n id code : ℕ} : (s.flowCode tile n id code).Inv :=
  h.modFlow

theorem State.Inv.dropReq (h : s.Inv) {r : MReq} : (s.dropReq r).Inv := by
  fun_cases State.dropReq
  exacts [h.modCtx, ((h.modOut.modChan.after ..).ite h.modOut).modOut, (h.modOut.modChan.after ..).ite h.modOut, h.modOut, h]

theorem State.Inv.recordOver (h : s.Inv) {lid : ℕ} {stored : Bool} : (s.recordOver lid stored).Inv :=
  (h.frame (by with_reducible rfl)).at_ ..

theorem State.Inv.failReq (h : s.Inv) {r : MReq} {src code detail : ℕ} : (s.failReq r src code detail).Inv := by
  fun_cases State.failReq
  exacts [h.genUnissue.modGen, h, (h.flowCode.ite (h.flowCode.raiseCtx.ite h.flowCode.raiseRec)).flowEnd, h.answerRemote,
    h.recordOver, h.dropReq.raiseCtx]

theorem State.Inv.walkStep (h : s.Inv) {tile id : ℕ} {r : MReq} {again : Bool} : (s.walkStep tile id r again).Inv := by
  fun_cases State.walkStep
  exacts [h.after .., h.after ..]

theorem State.Inv.startWalk (h : s.Inv) {tile : ℕ} {r : MReq} {again : Bool} : (s.startWalk tile r again).Inv :=
  h.bump.modSlice.walkStep.ite h.modSlice

theorem State.Inv.endWalk (h : s.Inv) {w : Walk} : (s.endWalk w).Inv := by
  fun_cases State.endWalk
  exacts [h.modSlice, h.modSlice.modSlice.startWalk]

theorem State.Inv.refill (h : s.Inv) {tile : ℕ} : (s.refill tile).Inv := by
  fun_cases State.refill
  exacts [h, ((h.modSlice.at_ ..).ite h.modSlice).startWalk, h]

theorem State.Inv.stopAtPage (h : s.Inv) {tile : ℕ} {r : MReq} {entry : ℕ} : (s.stopAtPage tile r entry).Inv := by
  refine h.ite ?_
  split
  · exact h.modFlow.flowEnd
  · refine .raiseRec (.modSlice ?_)
    split
    exacts [(h.frame (by with_reducible rfl)).genUnissue.modGen, (h.frame (by with_reducible rfl)).modFlow.flowStops,
      h.frame (by with_reducible rfl)]

theorem State.Inv.missPage (h : s.Inv) {tile : ℕ} {r : MReq} {entry : ℕ} {again : Bool} : (s.missPage tile r entry again).Inv :=
  (h.after ..).ite ((h.modSlice.modOut.ite h.modSlice).ite h.stopAtPage)

theorem State.Inv.execTlbLookup (h : s.Inv) {r : MReq} : Keeps (execTlbLookup r s) := by
  refine .next ?_
  dsimp only
  split
  · exact h.startWalk
  · split
    exacts [h.modSlice.onward, h.modSlice.startWalk]

theorem State.Inv.walkLeaf (h : s.Inv) {w : Walk} {e : Word} : (s.walkLeaf w e).Inv := by
  fun_cases State.walkLeaf
  exacts [h.modSlice.onward, h.modSlice.failReq]

theorem State.Inv.walkOver (h : s.Inv) {w : Walk} : (s.walkOver w).Inv := h.refill.ite h

theorem State.Inv.genResume (h : s.Inv) {ea g : ℕ} : (s.genResume ea g).Inv :=
  (h.modGen.at_ ..).ite h.modGen

theorem State.Inv.release (h : s.Inv) {tile : ℕ} {l : List Held} : (s.release tile l).Inv := by
  induction l generalizing s with
  | nil => exact h
  | cons x l ih =>
    refine ih ?_
    split
    exacts [h.genResume, h.modFlow, h.startWalk]

theorem State.Inv.releaseAt (h : s.Inv) {entry : ℕ} {l : List ℕ} : (s.releaseAt entry l).Inv := by
  fun_induction State.releaseAt
  · exact h
  next ih => exact ih (h.modSlice.release.foldl _ _ fun _ _ h => h.refill)

theorem State.Inv.execPageResume (h : s.Inv) {gn : ℕ} {seq : BitVec 16} : Keeps (execPageResume gn seq s) := by
  refine .next ?_
  split
  · exact h
  · split
    exacts [h, h.releaseAt]

theorem State.Inv.invalidate (h : s.Inv) {dom : ℕ} {page : Option ℕ} : (s.invalidate dom page).Inv :=
  h

theorem State.Inv.execTinval (h : s.Inv) {f : SlotF} : Keeps (execTinval f s) := by
  refine .next ?_
  split
  · exact h
  · split
    exacts [h.operandFault _ ‹_›, h.raiseSync.ite
      (h.fireWith fun _ _ _ _ h => (h.frame (by with_reducible rfl)).invalidate.modCtx.at_ ..)]

theorem State.Inv.execTinvalAck (h : s.Inv) {ea ctx : ℕ} : Keeps (execTinvalAck ea ctx s) := by
  refine .next ?_
  split
  exacts [h, h.ite ((h.after ..).ite (h.frame (by with_reducible rfl)).modCtx)]

/-! ## Accesses at a home -/

theorem State.Inv.logBase (h : s.Inv) {stack array type : ℕ} {inj : Bool} {loc : Word} : (s.logBase stack array type inj loc).Inv :=
  h.modBase

theorem State.Inv.logUnit (h : s.Inv) {a type : ℕ} {inj : Bool} : (s.logUnit a type inj).Inv := by
  fun_cases State.logUnit
  exacts [h.logBase, h.modHub, h.logBase]

theorem State.Inv.access (h : s.Inv) {acc : Acc} {a sz : ℕ} {sx : Bool} {aop : ℕ} {v1 v2 : Word} {pzn : Bool} :
    ∀ x, s.access acc a sz sx aop v1 v2 pzn = some x → x.1.Inv := by
  fun_cases State.access
  exacts [(h.touch ..).of_some_fst, never_some, ((h.touch ..).writeNat ..).of_some_fst, never_some,
    (((h.touch ..).writeNat ..).ite (h.touch ..)).of_some_fst, ((h.touch ..).storeUnit ..).of_some_fst, never_some,
    ((h.touch ..).writeNat ..).of_some_fst]

/-! ## After the performance of a request -/

theorem State.Inv.routeDone (h : s.Inv) {r : MReq} : (s.routeDone r).Inv := h.modOut

theorem State.Inv.coreServed (h : s.Inv) {k : ℕ} {r : MReq} {v : Word} : (s.coreServed k r v).Inv :=
  h.ite h.modCore

theorem State.Inv.sendBack (h : s.Inv) {r : MReq} {word : Bool} {back : ℕ} {evs : List Instr} : (s.sendBack r word back evs).Inv :=
  h.sendParcel.ite (h.foldl _ _ fun _ _ h => h.after ..)

theorem State.Inv.answerDone (h : s.Inv) {link module id : ℕ} {r : MReq} {v : Word} {poison : Bool} :
    (s.answerDone link module id r v poison).Inv :=
  (h.sendAnswer.ite h).answerRemote

theorem State.Inv.complete (h : s.Inv) {r : MReq} {v : Word} {poison : Bool} {back : ℕ} : (s.complete r v poison back).Inv := by
  fun_cases State.complete
  exacts [(h.progress.routeDone.ite h.progress).sendBack, (h.progress.routeDone.ite h.progress).after .., h.progress,
    h.progress.coreServed, h.progress.recordOver, h.progress.answerDone, h.progress.after .., h.progress.modOut.sendBack,
    h.progress.modOut, h.progress.after .., h.progress, (((h.progress.routeDone.at_ ..).ite h.progress.routeDone).after ..).sendBack,
    ((h.progress.routeDone.at_ ..).ite h.progress.routeDone).after ..]

theorem State.Inv.refuse (h : s.Inv) {r : MReq} {parity : Bool} : (s.refuse r parity).Inv := by
  fun_cases State.refuse
  exacts [h, h.recordOver, h.failReq, h.failReq, h.dropReq.raiseRec]

theorem State.Inv.localPoison (h : s.Inv) {r : MReq} {p : Bool} : (s.localPoison r p).Inv :=
  h.raiseRec.ite h

theorem State.Inv.undefer (h : s.Inv) {r : MReq} : (s.undefer r).Inv := h

theorem State.Inv.doLde (h : s.Inv) {r : MReq} : (s.doLde r).Inv := (h.setFull ..).complete

theorem State.Inv.recordStored (h : s.Inv) {r : MReq} : (s.recordStored r).Inv :=
  h.bump.toSlice.ite h.modCtx

theorem State.Inv.doStf (h : s.Inv) {r : MReq} : (s.doStf r).Inv :=
  ((h.storeUnit ..).setFull ..).progress.recordStored.ite ((h.storeUnit ..).setFull ..).complete

theorem State.Inv.feRelease (h : s.Inv) {u : ℕ} : (s.feRelease u).Inv := by
  fun_cases State.feRelease
  exacts [h.undefer.doStf, h.undefer.doLde, h]

theorem State.Inv.feSettle (h : s.Inv) {a n : ℕ} : (s.feSettle a n).Inv := by
  fun_induction State.feSettle
  · exact h
  next ih => exact ih (h.foldl _ _ fun _ _ h => h.feRelease)

theorem State.Inv.execFeService (h : s.Inv) {r : MReq} : Keeps (execFeService r s) := by
  refine .next (.ite (.feSettle (.ite ?_ ?_)) (.ite (.feSettle ?_) (.feSettle ?_)))
  exacts [(h.touch ..).doStf, (h.touch ..).doLde, (h.touch ..).failReq, ((h.touch ..).frame (by with_reducible rfl))]

/-! ## Copies (chapter 09) -/

theorem State.Inv.execCopy (h : s.Inv) {f : SlotF} : Keeps (execCopy f s) := by
  refine .next ?_
  split
  · exact h
  · split
    · exact h.operandFault _ ‹_›
    · dsimp only
      split
      exacts [h.raiseSync, h.fireWith fun _ _ _ _ h => h.markPending.after ..]

theorem State.Inv.execCcan (h : s.Inv) {f : SlotF} : Keeps (execCcan f s) :=
  .next (h.fireWith fun _ _ _ _ h => h.after ..)

theorem State.Inv.takeFlow (h : s.Inv) {n : ℕ} {c : CopyReq} : (s.takeFlow n c).Inv :=
  ((h.modFlow.modElem ..).after ..).ite h.modFlow

theorem State.Inv.takeCopies (h : s.Inv) {tile : ℕ} {l : List CopyReq} : (s.takeCopies tile l).Inv := by
  fun_induction State.takeCopies
  · exact h
  · exact h
  next ih => exact ih h
  next ih => exact ih h.modHub.takeFlow

theorem State.Inv.execCopyFlowTake (h : s.Inv) {c : CopyReq} : Keeps (execCopyFlowTake c s) :=
  .next h.modHub.takeCopies

theorem State.Inv.execRingBindArrival (h : s.Inv) {tile flow : ℕ} : Keeps (execRingBindArrival tile flow s) :=
  .next (h.ite ((h.modElem ..).foldl _ _ fun _ _ h => h.after ..))

theorem State.Inv.execPermitArrival (h : s.Inv) {tile flow : ℕ} : Keeps (execPermitArrival tile flow s) :=
  .next (h.ite h.modFlow)

theorem State.Inv.tokenWord (h : s.Inv) {c : CopyReq} {v : Word} : (s.tokenWord c v).Inv :=
  h.after ..

theorem State.Inv.returnHandles (h : s.Inv) {f : Flow} : (s.returnHandles f).Inv :=
  (h.modElem ..).ite h

theorem State.Inv.takeAllCopies (h : s.Inv) : s.takeAllCopies.Inv :=
  h.foldl _ _ fun _ _ h => h.takeCopies

theorem State.Inv.freeFlowNow (h : s.Inv) {tile n : ℕ} : (s.freeFlowNow tile n).Inv := by
  unfold State.freeFlowNow
  extract_lets s1 s2 s3 s4
  have h2 : s2.Inv := .frame (s := s1) h.returnHandles (by with_reducible rfl)
  have h3 : s3.Inv := h2.modFlow
  exact .takeAllCopies (.frame h3 (by with_reducible rfl))

theorem State.Inv.execCopyComplete (h : s.Inv) {tile n : ℕ} {status code : Byte} : Keeps (execCopyComplete tile n status code s) :=
  .next (h.ite h.freeFlowNow.tokenWord)

theorem State.Inv.execCcanAtHub (h : s.Inv) {tile ea ctx reg : ℕ} : Keeps (execCcanAtHub tile ea ctx reg s) := by
  refine .next ?_
  dsimp only
  split
  · exact h.modHub.tokenWord
  · split
    exacts [h, h.modFlow.flowEnd]

theorem State.Inv.setGran (h : s.Inv) {tile n : ℕ} {x : Gran} : (s.setGran tile n x).Inv :=
  h.modFlow

theorem State.Inv.flowAsk (h : s.Inv) {at1 tile n id : ℕ} {acc : Acc} {a : Word} : (s.flowAsk at1 tile n id acc a).Inv :=
  h.sendParcel

theorem State.Inv.takeHandle (h : s.Inv) {tile n k : ℕ} : ∀ t, s.takeHandle tile n k = some t → t.Inv := by
  fun_cases State.takeHandle
  exacts [h.of_some, never_some, never_some, (h.modElem ..).modFlow.of_some]

theorem State.Inv.copyFence (h : s.Inv) {tile n id code : ℕ} {aux : Word} : (s.copyFence tile n id code aux).Inv :=
  h.flowCode.flowEnd.ite (h.flowCode.raiseCtx.flowEnd.ite h.flowCode.raiseRec.flowEnd)

theorem State.Inv.copyCode (h : s.Inv) {tile n id code : ℕ} : (s.copyCode tile n id code).Inv :=
  h.flowCode.flowEnd

theorem State.Inv.beginGranule (h : s.Inv) {tile n k : ℕ} {src : Option ℕ} : (s.beginGranule tile n k src).Inv :=
  (h.bump.modFlow.at_ ..).ite h.bump.modFlow.flowAsk

theorem State.Inv.flowTurn (h : s.Inv) {tile n : ℕ} : (s.flowTurn tile n).Inv := by
  fun_cases State.flowTurn
  exacts [h, h.copyFence, h, .beginGranule (.of_ite_some h.takeHandle h ‹_›)]

theorem State.Inv.engineCycle (h : s.Inv) {tile : ℕ} : (s.engineCycle tile).Inv := by
  fun_cases State.engineCycle
  exacts [h.foldl _ _ fun _ _ h => h.flowEnd, .foldl (.modHub (h.foldl _ _ fun _ _ h => h.flowEnd)) _ _ fun _ _ h => h.flowTurn.ite h]

theorem State.Inv.readUnits (h : s.Inv) {a : ℕ} {pzn : Bool} {n : ℕ} : (s.readUnits a pzn n).1.Inv := by
  fun_induction State.readUnits
  · exact h
  next ih => exact (ih (h.touch ..)).of_fst ‹_›

theorem State.Inv.granLost (h : s.Inv) {tile n : ℕ} {x : Gran} : (s.granLost tile n x).Inv := by
  fun_cases State.granLost
  exacts [h.modFlow.flowEnd, h.copyFence]

theorem State.Inv.granArrive (h : s.Inv) {tile n : ℕ} {x : Gran} {write : Bool} : (s.granArrive tile n x write).Inv := by
  fun_cases State.granArrive
  exacts [h.copyFence, h.granLost, (h.frame (by with_reducible rfl)).at_ .., h.copyCode, h.bankEnter]

theorem State.Inv.granRead (h : s.Inv) {tile n : ℕ} {x : Gran} {us : List (ℕ × Bool)} {back : ℕ} :
    (s.granRead tile n x us back).Inv :=
  (h.setGran.at_ ..).ite h.setGran.flowAsk

theorem State.Inv.flowTranslated (h : s.Inv) {r : MReq} : (s.flowTranslated r).Inv := by
  fun_cases State.flowTranslated
  exacts [h, h.setGran.granArrive, h.setGran.after .., h]

theorem State.Inv.granDone (h : s.Inv) {tile n : ℕ} {x : Gran} : (s.granDone tile n x).Inv := by
  fun_cases State.granDone
  exacts [h.modFlow.modFlow.flowEnd, h.modFlow.flowEnd, h.modFlow.handleFull.modFlow.flowEnd, h.modFlow.modFlow.flowEnd]

theorem State.Inv.execCopyGranule (h : s.Inv) {tile : ℕ} {p : GranPart} : Keeps (execCopyGranule tile p s) := by
  refine .next ?_
  split
  · dsimp only
    split
    exacts [h, h.granArrive]
  · dsimp only
    split
    exacts [h, h.granArrive]
  · dsimp only
    split
    · exact h
    · refine h.granArrive.ite ?_
      split
      exacts [h.copyCode, h.readUnits.feSettle.progress.granRead]
  · dsimp only
    split
    · exact h
    · refine h.granArrive.ite ?_
      split
      exacts [h.copyCode, (h.writeGranule ..).feSettle.progress.granDone]
  · dsimp only
    split
    exacts [h, h.granDone]

/-! ## Requests (chapter 09) -/

theorem State.Inv.ackWaits (h : s.Inv) {ea id : ℕ} : (s.ackWaits ea id).Inv :=
  .foldl (.foldl ((h.modElem ..).foldl _ _ fun _ _ h => h.after ..) _ _ fun _ _ h => h.sendBar) _ _ fun _ _ h => h.toSlice

theorem State.Inv.execAckArrival (h : s.Inv) {r : MReq} : Keeps (execAckArrival r s) := by
  refine .next ?_
  split
  exacts [h.modGen.genSettled, h, h.modCtx.ackWaits]

theorem State.Inv.execRequestCreditReturn (h : s.Inv) {ea o epoch : ℕ} : Keeps (execRequestCreditReturn ea o epoch s) :=
  .next (h.modOut.ite h)

theorem State.Inv.execOrderTokenArrival (h : s.Inv) {ea o : ℕ} {tag : Byte} {home : ℕ} :
    Keeps (execOrderTokenArrival ea o tag home s) :=
  .next h.modOut

theorem State.Inv.flushReplies (h : s.Inv) {r : MReq} : (s.flushReplies r).Inv := by
  fun_cases State.flushReplies
  exacts [h.modOut.modOut.modChan.queueWord.after .., h.modOut.modOut.modChan.queueWord, h.modOut, h.modOut]

theorem State.Inv.genLoaded (h : s.Inv) {ea g id : ℕ} {v : Word} {poison : Bool} : (s.genLoaded ea g id v poison).Inv := by
  fun_cases State.genLoaded
  exacts [h, h.modGen.modGen.fillPlace.genSettled, h.modGen.modGen]

theorem State.Inv.execReplyArrival (h : s.Inv) {r : MReq} {v : Word} {poison : Bool} : Keeps (execReplyArrival r v poison s) := by
  refine .next ?_
  split
  exacts [h.genLoaded, h.answerDone, h.modOut.flushReplies]

theorem State.Inv.plainRecord (h : s.Inv) {r : MReq} : (s.plainRecord r).Inv :=
  (h.storeUnit ..).progress.recordStored

theorem State.Inv.packetThere (h : s.Inv) {r : MReq} {b : List Byte} {poison : Bool} : (s.packetThere r b poison).Inv :=
  h.progress.modCtx.modCtx.raiseRec.ite ((h.progress.modCtx.frame (by with_reducible rfl)).after ..)

theorem State.Inv.packetRead (h : s.Inv) {r : MReq} : (s.packetRead r).Inv := by
  unfold State.packetRead
  exact .packetThere (h.foldl _ _ fun _ _ h => h.touch ..)

theorem State.Inv.performOne (h : s.Inv) {r : MReq} : (s.performOne r).Inv := by
  unfold State.performOne
  split
  · exact (h.touch ..).refuse
  next hx =>
    have ht := h.access _ hx
    exact .ite (.sstDone (.complete (.localPoison ht))) (.complete (.localPoison ht))

theorem State.Inv.performMerged (h : s.Inv) {r : MReq} {n : ℕ} : (s.performMerged r n).Inv := by
  induction n generalizing s r with
  | zero => exact h
  | succ n ih => exact ih (h.failReq.ite h.performOne)

theorem State.Inv.performRemoteCopy (h : s.Inv) {r : MReq} : (s.performRemoteCopy r).Inv := by
  unfold State.performRemoteCopy
  extract_lets a back
  have hb {t r'} (h : State.Inv t) : (back t r').Inv := h.after ..
  have hu : (s.readUnits a false 8).1.Inv := h.readUnits
  generalize s.readUnits a false 8 = y at hu ⊢
  exact .ite (hb hu) (hb (h.writeGranule ..))

theorem State.Inv.answerCopy (h : s.Inv) {r : MReq} : (s.answerCopy r).Inv := by
  fun_cases State.answerCopy
  exacts [h.sendAnswer, h.answerRemote, h]

theorem State.Inv.offEnd (h : s.Inv) {r : MReq} {d : ℕ} : (s.offEnd r d).Inv := by
  fun_cases State.offEnd
  exacts [h.coreServed, h.failReq]

theorem State.Inv.performNow (h : s.Inv) {r : MReq} : (s.performNow r).Inv := by
  unfold State.performNow
  dsimp only
  split
  · exact h.offEnd
  · refine h.failReq.ite (h.complete.ite (h.refuse.ite ((h.at_ ..).ite (.feSettle
      (h.performRemoteCopy.ite (h.packetRead.ite (h.plainRecord.ite ?_)))))))
    split
    exacts [h.performMerged, h.performOne]

theorem State.Inv.enterHome (h : s.Inv) {r : MReq} : (s.enterHome r).Inv := h.bankEnter

theorem State.Inv.toHome (h : s.Inv) {r : MReq} : (s.toHome r).Inv := by
  fun_cases State.toHome
  exacts [h.at_ .., h.refuse, (h.frame (by with_reducible rfl)).at_ .., h.failReq, h.enterHome, h.failReq, h.enterHome]

theorem State.Inv.requestParity (h : s.Inv) {r : MReq} : (s.requestParity r).1.Inv := by
  fun_cases State.requestParity
  exacts [(h.takeInj.of_snd ‹_›).logTile, h.takeInj.of_snd ‹_›, h]

theorem State.Inv.tokenTaken (h : s.Inv) {r : MReq} {t : Byte × ℕ × ℕ} : (s.tokenTaken r t).Inv :=
  ((h.modOut.at_ ..).ite h.modOut).toHome

theorem State.Inv.execRequestPerform (h : s.Inv) {r : MReq} : Keeps (execRequestPerform r s) := by
  have hp : (s.requestParity r).1.Inv := h.requestParity
  refine .next (h.flowTranslated.ite (h.performNow.ite (h.answerCopy.ite ((hp.after ..).ite (.ite ?_ hp.toHome)))))
  split
  exacts [hp.after .., hp.tokenTaken]

theorem State.Inv.sendReq (h : s.Inv) {r : MReq} : (s.sendReq r).Inv :=
  h.sendParcel.ite (h.sendParcel.ite h.toSlice)

theorem State.Inv.reserveReq (h : s.Inv) {r : MReq} {len : ℕ} : (s.reserveReq r len).Inv :=
  (h.modOut.modChan.ite h.modOut).modOut.ite (h.modOut.modChan.ite h.modOut)

theorem State.Inv.fireRequest (h : s.Inv) {f : SlotF} {acc : Acc} : (s.fireRequest f acc).Inv := by
  fun_cases State.fireRequest
  exacts [h, h.operandFault _ ‹_›, h.raiseSync, h.raiseSync, h.bump.fireBase.raiseFlags.reserveReq.modCtx.progressAt.sendReq]

theorem State.Inv.sendSpill (h : s.Inv) {r : MReq} : (s.sendSpill r).Inv :=
  h.modOut.sendParcel.ite h.modOut.toSlice

theorem State.Inv.execSpill (h : s.Inv) {f : SlotF} : Keeps (execSpill f s) := by
  refine .next ?_
  split
  · exact h
  · split
    · exact h.operandFault _ ‹_›
    · dsimp only
      split
      exacts [h.raiseSync, h.bump.fireBase.raiseFlags.sendSpill]

theorem State.Inv.execFill (h : s.Inv) {f : SlotF} : Keeps (execFill f s) := by
  refine .next ?_
  split
  · exact h
  · split
    · exact h.operandFault _ ‹_›
    · dsimp only
      split
      exacts [h.raiseSync, h.bump.fireBase.raiseFlags.promise.sendSpill]

/-! ## Address generators (chapter 09) -/

theorem State.Inv.fireGen (h : s.Inv) {f : SlotF} {genp : Bool} : (s.fireGen f genp).Inv := by
  fun_cases State.fireGen
  exacts [h, h.operandFault _ ‹_›, h.raiseSync, h.raiseSync, h.raiseSync, h.raiseSync, h.fireBase.raiseFlags.modCtx.modGen.after ..]

theorem State.Inv.genEos (h : s.Inv) {ea g : ℕ} {x : Gen} : ∀ t, s.genEos ea g x = some t → t.Inv := by
  fun_cases State.genEos
  exacts [never_some, (h.reserve.of_fst ‹_›).fillPlace.of_some, (h.modElem ..).of_some, h.bump.modGen.of_some]

theorem State.Inv.genFeed (h : s.Inv) {ea g : ℕ} : (s.genFeed ea g).Inv :=
  h.ite (h.modGen.modElem ..).genSettled

theorem State.Inv.genStop (h : s.Inv) {ea g code : ℕ} {aux : Word} {detail : ℕ} : (s.genStop ea g code aux detail).Inv :=
  (h.modGen.genSettled.ctxFaulted.ite h.modGen.genSettled).raiseRec

theorem State.Inv.genFly (h : s.Inv) {ea g : ℕ} {x : Gen} {a id n : ℕ} : (s.genFly ea g x a id n).Inv := by
  fun_induction State.genFly
  · exact h
  next ih => exact ih (.modGen (.of_fst (.iteFst h (h.setElem ..)) ‹_›))

theorem State.Inv.popN (h : s.Inv) {ea ch n : ℕ} : (s.popN ea ch n).Inv := by
  fun_induction State.popN
  · exact h
  next ih => exact ih h.pop

theorem State.Inv.genAccess (h : s.Inv) {ea g : ℕ} {x : Gen} {a : ℤ} : (s.genAccess ea g x a).Inv := by
  unfold State.genAccess
  extract_lets w room idxs vals n r r' id s1 s2 s3 s4 s5
  have h3 : s3.Inv := (h.frame (by with_reducible rfl)).genFly.modGen
  have h4 : s4.Inv := h3.popN.ite h3
  have h5 : s5.Inv := h4.popN.ite h4
  clear_value s5
  split
  exacts [h.modGen, h.ite (h5.reserveReq.progressAt.sendReq.ite h5.bankEnter)]

theorem State.Inv.genPad (h : s.Inv) {ea g : ℕ} {x : Gen} : (s.genPad ea g x).Inv :=
  h.modGen.ite ((h.modGen.setElem ..).fillPlace.ite h.modGen.bump.modGen)

theorem State.Inv.genElement (h : s.Inv) {ea g : ℕ} : (s.genElement ea g).Inv := by
  fun_cases State.genElement
  exacts [h, h.modGen, h.genPad, h.genAccess]

theorem State.Inv.genPop (h : s.Inv) {ea g ch : ℕ} {use : Gen → Word → Gen} : (s.genPop ea g ch use).Inv := by
  fun_cases State.genPop
  exacts [h, h.pop.modGen, h.pop.modGen, h.pop.modGen]

theorem State.Inv.genAct (h : s.Inv) {ea g : ℕ} : (s.genAct ea g).Inv := by
  unfold State.genAct
  extract_lets x s1 y s2 z s3
  have h1 : s1.Inv := h.genPop.ite h
  have h2 : s2.Inv := h1.genPop.ite h1
  have h3 : s3.Inv := h2.genPop.ite h2
  refine .ite ?_ (h1.ite (h2.ite (h3.ite h3.genElement)))
  split
  exacts [(h.genEos _ ‹_›).modGen, h]

theorem State.Inv.execGenElementIssue (h : s.Inv) {ea g : ℕ} : Keeps (execGenElementIssue ea g s) := by
  refine .next ?_
  extract_lets s1 x again
  have h1 : s1.Inv := h.genFeed
  have ha : again.Inv := h1.after ..
  clear_value again x
  split
  · exact h1
  · exact h1
  · exact h1.ite ha
  all_goals
    split
    · exact h1.genStop.ite ha
    · exact (h1.modGen.genSettled.ite ha).ite (ha.ite (ha.ite (((h1.at_ ..).ite ha).ite (h1.genAct.after ..))))

theorem State.Inv.execGenStreamEnd (h : s.Inv) {ea g : ℕ} : Keeps (execGenStreamEnd ea g s) := by
  refine .next (h.ite ((h.after ..).ite ?_))
  split
  exacts [h.after .., (h.genEos _ ‹_›).modGen.genSettled]

end Sys2Proof.Machine
end

section
/-! SUPPORT. Matrix elements, migrations, planes and groups keep the canonical form (R254). -/

namespace Sys2Proof.Machine

variable {s t : State}

/-! ## Matrix elements (chapter 08) -/

theorem State.Inv.modMe (h : s.Inv) {ea : ℕ} {f : Me → Me} : (s.modMe ea f).Inv := h.modElem ..

theorem State.Inv.meAccess (h : s.Inv) {ea se h' o : ℕ} {i : ℕ → Instr} : (s.meAccess ea se h' o i).Inv := by
  fun_cases State.meAccess
  exacts [h.raiseGroup, h.bankEnter]

theorem State.Inv.execMcfg (h : s.Inv) {f : SlotF} : Keeps (execMcfg f s) := by
  refine .next ?_
  split
  exacts [h, h.raiseSync.ite (h.fireWith fun _ _ _ _ h => h.modMe.ite (h.modMe.after ..))]

theorem State.Inv.execMclr (h : s.Inv) {f : SlotF} : Keeps (execMclr f s) :=
  .next (h.fireWith fun _ _ _ _ h => h.modMe)

theorem State.Inv.readParts (h : s.Inv) {ea se h' o : ℕ} {i : ℕ → ℕ → Instr} {l : List ℕ} : (s.readParts ea se h' o i l).Inv := by
  fun_induction State.readParts
  · exact h
  next ih => exact ih h.meAccess

theorem State.Inv.bindQueue (h : s.Inv) {ea : ℕ} {isC : Bool} : (s.bindQueue ea isC).Inv := by
  fun_cases State.bindQueue
  exacts [h, (h.modElem ..).modMe, h]

theorem State.Inv.readRow (h : s.Inv) {ea : ℕ} {isC : Bool} : (s.readRow ea isC).Inv := by
  fun_cases State.readRow
  exacts [h, h.bump.modMe.readParts, h]

theorem State.Inv.fillQueue (h : s.Inv) {ea : ℕ} {isC : Bool} : (s.fillQueue ea isC).Inv :=
  h.ite (h.bindQueue.ite h).readRow

theorem State.Inv.execMeQueueFill (h : s.Inv) {ea : ℕ} : Keeps (execMeQueueFill ea s) :=
  .next (h.modMe.ite ((h.ite h.fillQueue.fillQueue).after ..))

theorem State.Inv.meRead (h : s.Inv) {a : ℕ} : (s.meRead a).1.Inv := by
  unfold State.meRead
  dsimp only
  exact h.foldl _ _ fun _ _ h => h.touch ..

theorem State.Inv.execMeRowReadServed (h : s.Inv) {ea : ℕ} {isC : Bool} {id part addr : ℕ} :
    Keeps (execMeRowReadServed ea isC id part addr s) := by
  refine .next ?_
  extract_lets q
  clear_value q
  split
  · split
    next he =>
      have h1 := h.progressAt.meRead.of_fst he
      exact (h1.raiseGroup.ite h1).modMe.handleFree.ite (h1.raiseGroup.ite h1).modMe
  · exact h

theorem State.Inv.fireMld (h : s.Inv) {f : SlotF} {sparse : Bool} : (s.fireMld f sparse).Inv := by
  fun_cases State.fireMld
  exacts [h, h.raiseSync, h.raiseSync, .after (h.bump.fireWith fun _ _ _ _ h => (h.modElem ..).modMe) .., h]

theorem State.Inv.planeGone (h : s.Inv) {ea : ℕ} {one : Bool} {p : MePlane} : (s.planeGone ea one p).Inv :=
  h.modMe

theorem State.Inv.planeFail (h : s.Inv) {ea : ℕ} {one : Bool} {code detail : ℕ} {p : MePlane} :
    (s.planeFail ea one code detail p).Inv :=
  h.planeGone.raiseGroup

theorem State.Inv.planeIssue (h : s.Inv) {ea : ℕ} {one : Bool} {p : MePlane} : (s.planeIssue ea one p).Inv :=
  h.ite ((h.after ..).ite ((h.modMe.readParts.after ..).ite h.modMe.readParts))

theorem State.Inv.planeServed (h : s.Inv) {ea : ℕ} {one : Bool} {p : MePlane} {key addr : ℕ} :
    (s.planeServed ea one p key addr).Inv := by
  have h1 {t b} (e : (s.progressAt ea).meRead addr = (t, b)) : t.Inv := h.progressAt.meRead.of_fst e
  fun_cases State.planeServed
  exacts [((h1 ‹_›).raiseGroup.ite (h1 ‹_›)).modMe.planeGone, ((h1 ‹_›).raiseGroup.ite (h1 ‹_›)).modMe,
    ((h1 ‹_›).raiseGroup.ite (h1 ‹_›)).modMe.planeFail, ((h1 ‹_›).raiseGroup.ite (h1 ‹_›)).modMe.after ..,
    ((h1 ‹_›).raiseGroup.ite (h1 ‹_›)).modMe]

theorem State.Inv.execMePlaneRead (h : s.Inv) {ea : ℕ} {read : ℕ × Option (ℕ × ℕ)} : Keeps (execMePlaneRead ea read s) := by
  refine .next ?_
  split
  · exact h
  · refine h.ite ?_
    split
    exacts [(h.after ..).ite h.planeIssue, h.planeServed]

theorem State.Inv.execMePlaneReady (h : s.Inv) {ea : ℕ} : Keeps (execMePlaneReady ea s) := by
  refine .next ?_
  split
  exacts [h, h.modMe.handleFree.ite h]

theorem State.Inv.execMrow (h : s.Inv) {f : SlotF} : Keeps (execMrow f s) := by
  refine .next ?_
  split
  exacts [h, h.raiseSync.ite (h.fireWith fun _ _ _ _ h => ((h.modMe.setElem ..).modMe.ite h.modMe).after ..)]

theorem State.Inv.writeRow (h : s.Inv) {ea : ℕ} {x : MeFly} : (s.writeRow ea x).Inv := by
  fun_cases State.writeRow
  exacts [h, h.bump.modMe.foldl _ _ fun _ _ h => h.after ..]

theorem State.Inv.rowsDiscarded (h : s.Inv) {ea : ℕ} {x : MeFly} {diff : Word} : (s.rowsDiscarded ea x diff).Inv := by
  refine .raiseGroup (.modMe ?_)
  split
  exacts [h.unreserve.ite h, h]

theorem State.Inv.execMeRowLand (h : s.Inv) {l : RowLand} : Keeps (execMeRowLand l s) := by
  refine .next ?_
  dsimp only
  split
  exacts [h, h.ite (h.rowsDiscarded.ite ((h.after ..).ite (h.progressAt.modMe.writeRow.ite h.progressAt.modMe)))]

theorem State.Inv.advanceOut (h : s.Inv) {ea : ℕ} : (s.advanceOut ea).Inv := h.modMe

theorem State.Inv.rowWritten (h : s.Inv) {ea : ℕ} {o : MeOut} : (s.rowWritten ea o).Inv :=
  (h.modMe.modMe.after ..).ite h.modMe

theorem State.Inv.execMeOutputRowWrite (h : s.Inv) {ea id part : ℕ} : Keeps (execMeOutputRowWrite ea id part s) := by
  refine .next ?_
  split
  · exact h
  · refine (h.after ..).ite (h.meAccess.ite ?_)
    split
    exacts [h, .ite (.rowWritten ((h.progressAt.writeBytes ..).foldl _ _ fun _ _ h => h.setPoison ..))
      (.modMe ((h.progressAt.writeBytes ..).foldl _ _ fun _ _ h => h.setPoison ..))]

theorem State.Inv.execMeNotice (h : s.Inv) {ea : ℕ} : Keeps (execMeNotice ea s) := by
  refine .next ?_
  split
  · exact h
  · refine .advanceOut ?_
    split
    exacts [h.fillPlace, h]

theorem State.Inv.execMdrain (h : s.Inv) {f : SlotF} : Keeps (execMdrain f s) := by
  refine .next (h.fireWith fun _ _ _ _ h => ?_)
  split
  exacts [h, h.ite (((h.setElem ..).after ..).ite h).advanceOut]

/-! ## Migrations and append logs (chapter 15) -/

theorem State.Inv.sendAfterAcks (h : s.Inv) {cu : Cursor} {r : MReq} : (s.sendAfterAcks cu r).Inv :=
  h.toSlice.ite (h.modElem ..)

theorem State.Inv.execMigr (h : s.Inv) {f : SlotF} : Keeps (execMigr f s) := by
  refine .next ?_
  split
  · exact h
  · split
    · exact h.operandFault _ ‹_›
    · dsimp only
      split
      exacts [h.raiseSync, h.fireWith fun _ _ _ _ h => h.bump.modCtx.sendAfterAcks]

theorem State.Inv.takeFrame (h : s.Inv) {dom tier : ℕ} : ∀ x, s.takeFrame dom tier = some x → x.2.Inv := by
  intro x hx
  obtain ⟨k, -, hk⟩ := Option.bind_eq_some_iff.mp hx
  rw [Option.ite_none_left_eq_some] at hk
  obtain ⟨-, hk⟩ := hk
  exact (h.frame (by with_reducible rfl)).of_some_snd _ hk

theorem State.Inv.giveFrame (h : s.Inv) {dom tier frame : ℕ} : (s.giveFrame dom tier frame).Inv := by
  fun_cases State.giveFrame
  exacts [h, ((h.storeUnit ..).frame (by with_reducible rfl))]

theorem State.Inv.migrDone (h : s.Inv) {m : MigReq} {status code : ℕ} : (s.migrDone m status code).Inv :=
  h.modCtx.ite h.bump.toSlice

theorem State.Inv.execMigrationStart (h : s.Inv) {m : MigReq} : Keeps (execMigrationStart m s) := by
  refine .next ?_
  split
  · exact h.migrDone
  · split
    exacts [h.migrDone, .at_ (.frame (.storeUnit (.bump (h.takeFrame _ ‹_›)) ..) (by with_reducible rfl)) ..]

theorem State.Inv.moveFull (h : s.Inv) {o n : ℕ} : (s.moveFull o n).Inv := h

theorem State.Inv.copyLines (h : s.Inv) {old new : ℕ} {l : List ℕ} : (s.copyLines old new l).2.Inv := by
  fun_induction State.copyLines
  · exact h
  · exact (h.copyLine ..).of_snd ‹_›
  next ih => exact ih ((h.copyLine ..).of_snd ‹_›)

theorem State.Inv.forwardReqs (h : s.Inv) {old new : ℕ} {l : List BReq} : (s.forwardReqs old new l).Inv := by
  fun_induction State.forwardReqs
  · exact h
  next ih => exact ih h
  next ih => exact ih h.bankEnter

theorem State.Inv.moveUsers (h : s.Inv) {old new : ℕ} : (s.moveUsers old new).Inv := by
  unfold State.moveUsers
  exact .forwardReqs (h.mapElems (by with_reducible rfl))

theorem State.Inv.setMig (h : s.Inv) {id : ℕ} {x : Mig} : (s.setMig id x).Inv := h

theorem State.Inv.migrAbort (h : s.Inv) {x : Mig} : (s.migrAbort x).Inv :=
  (h.storeUnit ..).giveFrame.migrDone

theorem State.Inv.migrCommit (h : s.Inv) {x : Mig} : (s.migrCommit x).Inv := by
  fun_cases State.migrCommit
  exacts [(h.copyLines.of_snd ‹_›).migrAbort, ((h.copyLines.of_snd ‹_›).moveFull.storeUnit
    ..).invalidate.moveUsers.giveFrame.migrDone]

theorem State.Inv.migrNext (h : s.Inv) {id : ℕ} {x : Mig} : (s.migrNext id x).Inv :=
  (h.setMig.at_ ..).ite ((h.frame (by with_reducible rfl)).migrCommit.ite (h.setMig.at_ ..))

theorem State.Inv.execMigrationCommit (h : s.Inv) {id : ℕ} : Keeps (execMigrationCommit id s) := by
  refine .next ?_
  split
  · exact h
  · split
    · exact h.migrNext
    · split
      exacts [(((h.copyLine ..).of_snd ‹_›).frame (by with_reducible rfl)).migrAbort, ((h.copyLine ..).of_snd ‹_›).migrNext]

theorem State.Inv.modAppend (h : s.Inv) {n : ℕ} {f : Append → Append} : (s.modAppend n f).Inv := h

theorem State.Inv.execAppendGo (h : s.Inv) {n : ℕ} : Keeps (execAppendGo n s) :=
  .next (h.ite (h.modAppend.ite h.modAppend))

theorem State.Inv.touchUnit4K (h : s.Inv) {a : ℕ} : (s.touchUnit4K a).Inv :=
  h.foldl _ _ fun _ _ h => h.touch ..

theorem State.Inv.execAppendCommit (h : s.Inv) {n : ℕ} {mediaFails : Bool} : Keeps (execAppendCommit n mediaFails s) := by
  have ht := h.touchUnit4K (a := (s.append n).src.toNat)
  refine .next (h.ite (.ite (.modAppend ht) (.ite (.modAppend (.logBase ht)) ?_)))
  extract_lets kept cells s'
  have hs : s'.Inv := ⟨wf_appendCells ht.1 .., ht.2⟩
  exact hs.modAppend

/-! ## Configuration planes -/

theorem State.Inv.buildSpill (h : s.Inv) {tile : ℕ} : (s.buildSpill tile).Inv :=
  h.foldl _ _ fun _ _ h => h.modCtx

theorem State.Inv.zeroCarves (h : s.Inv) {tile : ℕ} : (s.zeroCarves tile).Inv :=
  h.foldl _ _ fun _ _ h => h.zeroBytes ..

theorem State.Inv.voidWords (h : s.Inv) {ea : ℕ} : (s.voidWords ea).Inv :=
  h.foldl _ _ fun _ _ h => h.creditHome

theorem State.Inv.swapPlanes (h : s.Inv) {g : Group} {eas : List ℕ} : (s.swapPlanes g eas).Inv :=
  .foldl (h.foldl _ _ fun _ _ h => h.voidWords.modElem ..) _ _ fun _ _ h => h.buildSpill.zeroCarves

theorem State.Inv.clearPlanes (h : s.Inv) {g : Group} : (s.clearPlanes g).Inv := by
  unfold State.clearPlanes
  exact h.mapElems (by with_reducible rfl)

/-! ## Groups (chapter 12) -/

theorem State.Inv.modLaunch (h : s.Inv) {lid : ℕ} {f : Launch → Launch} : (s.modLaunch lid f).Inv :=
  h

theorem State.Inv.modQueue (h : s.Inv) {q : ℕ} {f : Queue → Queue} : (s.modQueue q f).Inv := h

theorem State.Inv.screeWake (h : s.Inv) {stack : ℕ} : (s.screeWake stack).Inv := by
  fun_cases State.screeWake
  exacts [h, h.at_ ..]

theorem State.Inv.admitNext (h : s.Inv) {bs : List ℕ} : (s.admitNext bs).Inv :=
  h.foldl _ _ fun _ _ h => (h.at_ ..).screeWake

theorem State.Inv.purge (h : s.Inv) {gn : ℕ} : (s.purge gn).Inv :=
  (h.frame (by with_reducible rfl)).admitNext

theorem State.Inv.freeHubs (h : s.Inv) {g : Group} : (s.freeHubs g).Inv := h

theorem State.Inv.releaseGroup (h : s.Inv) {gn : ℕ} : (s.releaseGroup gn).Inv :=
  h.ite ((h.setGroup ..).ite (h.purge.clearPlanes.freeHubs.setGroup ..))

theorem State.Inv.execGroupRelease (h : s.Inv) {gn : ℕ} : Keeps (execGroupRelease gn s) :=
  .next (h.releaseGroup.ite h)

theorem State.Inv.endLaunch (h : s.Inv) {gn : ℕ} {fail : Bool} {code : ℕ} : (s.endLaunch gn fail code).Inv := by
  fun_cases State.endLaunch
  exacts [h, h.releaseGroup.modLaunch.at_ ..]

theorem State.Inv.retireGroup (h : s.Inv) {gn : ℕ} : (s.retireGroup gn).Inv :=
  h.ite (h.purge.clearPlanes.freeHubs.setGroup ..).endLaunch

theorem State.Inv.execGroupRetire (h : s.Inv) {gn : ℕ} : Keeps (execGroupRetire gn s) :=
  .next h.retireGroup

theorem State.Inv.execGcmdRetire (h : s.Inv) {gn : ℕ} : Keeps (execGcmdRetire gn s) :=
  .next h.retireGroup

theorem State.Inv.execGcmdResume (h : s.Inv) {gn : ℕ} : Keeps (execGcmdResume gn s) :=
  .next ((h.liveAgain.modGroup ..).ite h)

theorem State.Inv.completeGroup (h : s.Inv) {gn : ℕ} : (s.completeGroup gn).Inv :=
  ((h.freeHubs.frame (by with_reducible rfl)).setGroup ..).endLaunch

theorem State.Inv.execKernelComplete (h : s.Inv) {gn : ℕ} : Keeps (execKernelComplete gn s) :=
  .next (h.completeGroup.ite h)

theorem State.Inv.takePreempt (h : s.Inv) {gn : ℕ} {q : Preq} : (s.takePreempt gn q).Inv := by
  unfold State.takePreempt
  exact (h.setGroup ..).mapElems (by with_reducible rfl)

theorem State.Inv.preemptGroup (h : s.Inv) {gn : ℕ} {hard : Bool} : (s.preemptGroup gn hard).2.Inv := by
  fun_cases State.preemptGroup
  exacts [h.setGroup .., h.takePreempt, h.setGroup .., h]

theorem State.Inv.takeWaiting (h : s.Inv) {gn : ℕ} : (s.takeWaiting gn).Inv := by
  fun_cases State.takeWaiting
  exacts [h.takePreempt, h, h]

theorem State.Inv.takeLoaded (h : s.Inv) {gn : ℕ} : (s.takeLoaded gn).Inv :=
  (h.modGroup ..).takeWaiting

theorem State.Inv.execPreemptRequest (h : s.Inv) {gn : ℕ} {hard : Bool} : Keeps (execPreemptRequest gn hard s) :=
  .next h.preemptGroup

theorem State.Inv.storeGroupReg (h : s.Inv) {gn : ℕ} {v : Word} : (s.storeGroupReg gn v).Inv :=
  h.modGroup ..

theorem State.Inv.execPreqWrite (h : s.Inv) {gn : ℕ} {v : Word} : Keeps (execPreqWrite gn v s) :=
  .next (h.ite (h.storeGroupReg.preemptGroup.ite h.storeGroupReg))

theorem State.Inv.execQuiescence (h : s.Inv) {gn : ℕ} : Keeps (execQuiescence gn s) :=
  .next (h.ite (h.completeGroup.ite (h.setGroup ..)))

theorem State.Inv.execDeferFreeze (h : s.Inv) {gn _stack : ℕ} {freeze discard : Bool} :
    Keeps (execDeferFreeze gn _stack freeze discard s) :=
  .next ((h.frame (by with_reducible rfl)).ite (h.modGroup ..))

theorem State.Inv.placeGroup (h : s.Inv) {x y w h' dom : ℕ} : (s.placeGroup x y w h' dom).2.Inv :=
  h.setGroup ..

theorem State.Inv.returnCredits (h : s.Inv) {gn : ℕ} : (s.returnCredits gn).Inv :=
  h.foldl _ _ fun _ _ h => h.modPool

theorem State.Inv.landReleases (h : s.Inv) {gn : ℕ} : (s.landReleases gn).Inv :=
  h.foldl _ _ fun s x h => by
    split
    · split
      · exact h.execTagReleaseArrival _ ‹_›
      · exact h
    · exact h

theorem State.Inv.saveGroup (h : s.Inv) {gn : ℕ} : (s.saveGroup gn).Inv := by
  unfold State.saveGroup
  extract_lets s1 sv g s2 s3
  have h3 : s3.Inv := (h.landReleases.returnCredits.frame (by with_reducible rfl)).purge.clearPlanes.freeHubs.setGroup ..
  split
  · exact h3
  · split
    exacts [h3, h3.modLaunch.modQueue]

theorem State.Inv.execSavedGroupDiscard (h : s.Inv) {gn : ℕ} : Keeps (execSavedGroupDiscard gn s) :=
  .next (h.modLaunch.releaseGroup.ite h)

theorem State.Inv.placeFlow (h : s.Inv) {g : Group} {x y : ℕ} {f : Flow} : (s.placeFlow g x y f).Inv := by
  fun_cases State.placeFlow
  exacts [h, h.modFlow.modElem .., h.modFlow]

theorem State.Inv.startEngines (h : s.Inv) {ea : ℕ} : (s.startEngines ea).Inv := by
  unfold State.startEngines
  extract_lets e s1 s2
  have h1 : s1.Inv := h.foldl _ _ fun _ _ h => (h.after ..).ite h
  have h2 : s2.Inv := (h1.after ..).ite h1
  exact (h2.after ..).ite h2

theorem State.Inv.noteHubs (h : s.Inv) {gn : ℕ} : (s.noteHubs gn).Inv :=
  ((h.setGroup ..).frame (by with_reducible rfl)).foldl _ _ fun _ _ h => h.foldl _ _ fun _ _ h => h.after ..

theorem State.Inv.loadSave (h : s.Inv) {gn x y : ℕ} {sv : Save} : (s.loadSave gn x y sv).Inv := by
  unfold State.loadSave
  extract_lets g tile s1 s2 s3 s4 s5 s6 s7 s8 s9 send s10 s11
  have h1 : s1.Inv := h.setGroup ..
  have h2 : s2.Inv := h1.foldl _ _ fun _ _ h => h.setElem ..
  have h3 : s3.Inv := h2.foldl _ _ fun _ _ h => h.zeroBytes ..
  have h4 : s4.Inv := h3.foldl _ _ fun _ _ h => h.writeByte ..
  have h5 : s5.Inv := h4.foldl _ _ fun _ _ h => h.setPoison ..
  have h6 : s6.Inv := h5.foldl _ _ fun _ _ h => h.modHub
  have h7 : s7.Inv := h6.foldl _ _ fun _ _ h => h.modHub
  have h8 : s8.Inv := h7.foldl _ _ fun _ _ h => h.placeFlow
  have h9 : s9.Inv := h8.foldl _ _ fun _ _ h => h.buildSpill
  have h10 : s10.Inv := h9.foldl _ _ fun _ _ h => h.toSlice
  have h11 : s11.Inv := h10.foldl _ _ fun _ _ h => h.startEngines
  exact (h11.modGroup ..).noteHubs.takeLoaded

theorem State.Inv.refuseRestore (h : s.Inv) {gn : ℕ} : (s.refuseRestore gn).Inv := h.modGroup ..

theorem State.Inv.restoreGroup (h : s.Inv) {gn die : ℕ} {intact : Bool} : ∀ t, s.restoreGroup gn die intact = some t → t.Inv := by
  fun_cases State.restoreGroup
  exacts [(h.loadSave.modGroup ..).of_some, never_some, never_some]

theorem State.Inv.execRestore (h : s.Inv) {gn : ℕ} {digestOk : Bool} : Keeps (execRestore gn digestOk s) := by
  refine .next (h.ite ?_)
  split
  exacts [h.refuseRestore.ite (h.getD h.restoreGroup), h]

theorem State.Inv.reuseGroup (h : s.Inv) {gn dom : ℕ} : (s.reuseGroup gn dom).Inv :=
  h.purge.setGroup ..

end Sys2Proof.Machine
end

section
/-! SUPPORT. Commands, page walks, images and links between modules keep the canonical form (R254). -/

namespace Sys2Proof.Machine

variable {s t : State}

/-! ## Commands (chapter 11) -/

theorem State.Inv.modCport (h : s.Inv) {die port : ℕ} {f : CPort → CPort} : (s.modCport die port f).Inv :=
  h

theorem State.Inv.reply (h : s.Inv) {die port t : ℕ} {w : Word} : (s.reply die port t w).Inv :=
  h.modCport

theorem State.Inv.answer (h : s.Inv) {c : Cmd} {code detail ea : ℕ} : (s.answer c code detail ea).Inv :=
  h.reply

theorem State.Inv.cfgw (h : s.Inv) {c : Cmd} {item : ℕ} : (s.cfgw c item).Inv :=
  h.answer.ite (h.answer.ite ((((h.modElem ..).at_ ..).ite h.answer).ite (h.setElem ..).answer))

theorem State.Inv.execPartialReconfigInstall (h : s.Inv) {ea : ℕ} : Keeps (execPartialReconfigInstall ea s) := by
  refine .next ?_
  dsimp only
  split
  exacts [h, (h.after ..).ite ((h.setElem ..).foldl _ _ fun _ _ h => h.reply)]

theorem State.Inv.cfgwHub (h : s.Inv) {c : Cmd} {item : ℕ} {f : State → State} (hf : ∀ s, s.Inv → (f s).Inv) :
    (s.cfgwHub c item f).Inv :=
  h.answer.ite (h.answer.ite (hf _ h))

theorem State.Inv.setPart (h : s.Inv) {tile n : ℕ} {p : Part} : (s.setPart tile n p).Inv := h.modHub

theorem State.Inv.execCfgwPartition (h : s.Inv) {c : Cmd} : Keeps (execCfgwPartition c s) :=
  .next (h.cfgwHub fun _ h => h.answer.ite (h.answer.ite h.setPart.answer))

theorem State.Inv.initBar (h : s.Inv) {tile n expect : ℕ} {targets : List Word} : (s.initBar tile n expect targets).Inv :=
  h.modBar

theorem State.Inv.execCfgwBarrierInit (h : s.Inv) {c : Cmd} : Keeps (execCfgwBarrierInit c s) :=
  .next (h.cfgwHub fun _ h => h.answer.ite (h.answer.ite h.initBar.answer))

theorem State.Inv.execCfgwWaiterTarget (h : s.Inv) {c : Cmd} : Keeps (execCfgwWaiterTarget c s) :=
  .next (h.cfgwHub fun _ h => h.answer.ite (h.answer.ite h.modBar.answer))

theorem State.Inv.dropCredits (h : s.Inv) {gn k : ℕ} : (s.dropCredits gn k).Inv := by
  unfold State.dropCredits
  exact h.mapElems (by with_reducible rfl)

theorem State.Inv.setPool (h : s.Inv) {gn k first count reserve : ℕ} : (s.setPool gn k first count reserve).Inv :=
  h.modPool.at_ ..

theorem State.Inv.execCfgwTagPool (h : s.Inv) {c : Cmd} : Keeps (execCfgwTagPool c s) := by
  refine .next (h.cfgwHub fun _ h => ?_)
  split
  exacts [h.answer, h.answer.ite (h.answer.ite h.dropCredits.setPool.answer)]

theorem State.Inv.residentGroup (h : s.Inv) {gn : ℕ} : (s.residentGroup gn).Inv :=
  (h.modGroup ..).takeLoaded.ite (h.modGroup ..).takeWaiting

theorem State.Inv.swap (h : s.Inv) {gn : Option ℕ} {g : Group} {eas : List ℕ} {scope : Bool} {kid : BitVec 16} :
    ∀ t, s.swap gn g eas scope kid = .inr t → t.Inv := by
  fun_cases State.swap
  exacts [never_inr, never_inr, h.swapPlanes.residentGroup.of_inr, h.swapPlanes.of_inr]

theorem State.Inv.execCfgswapSwap (h : s.Inv) {c : Cmd} : Keeps (execCfgswapSwap c s) := by
  refine .next (h.answer.ite ?_)
  split
  · exact h.answer
  · split
    exacts [h.answer, (h.swap _ ‹_›).answer]

theorem State.Inv.execCfgswapClear (h : s.Inv) {c : Cmd} : Keeps (execCfgswapClear c s) := by
  refine .next (h.answer.ite ?_)
  split
  · exact h.answer
  · split
    · exact h.answer
    · refine .answer ?_
      split
      exacts [.modGroup (h.foldl _ _ fun _ _ h => h.modElem ..) .., h.foldl _ _ fun _ _ h => h.modElem ..]

theorem State.Inv.windowBytes (h : s.Inv) {a : ℕ} {b : List Byte} : (s.windowBytes a b).Inv := by
  unfold State.windowBytes
  exact ((h.writeBytes ..).frame (by with_reducible rfl))

theorem State.Inv.writeHeldRows (h : s.Inv) {gn : ℕ} : (s.writeHeldRows gn).Inv :=
  h.ite (.modGroup (h.foldl _ _ fun _ _ h => h.windowBytes) ..)

theorem State.Inv.zeroSpill (h : s.Inv) {ea : ℕ} : (s.zeroSpill ea).Inv :=
  h.foldl _ _ fun _ _ h => h.zeroBytes ..

theorem State.Inv.spliceDone (h : s.Inv) {gn : ℕ} : (s.spliceDone gn).Inv :=
  (h.modGroup ..).takeWaiting

theorem State.Inv.spliceOne (h : s.Inv) {gn ea : ℕ} : (s.spliceOne gn ea).Inv := by
  unfold State.spliceOne
  exact .modGroup (.modElem (.zeroSpill (.buildSpill (.modGroup (.setElem (h.foldl _ _ fun _ _ h => h.launchCopies) ..) ..))) ..) ..

theorem State.Inv.spliceElem (h : s.Inv) {gn ea : ℕ} : (s.spliceElem gn ea).Inv := by
  unfold State.spliceElem
  exact h.spliceOne.ite h.spliceOne.spliceDone

theorem State.Inv.armGroup (h : s.Inv) {gn : ℕ} {kid : BitVec 16} : (s.armGroup gn kid).Inv :=
  .ite (.spliceDone (.foldl ((h.setGroup ..).foldl _ _ fun _ _ h => h.modElem ..) _ _ fun _ _ h => (h.modElem ..).spliceOne))
    (.foldl ((h.setGroup ..).foldl _ _ fun _ _ h => h.modElem ..) _ _ fun _ _ h => (h.modElem ..).spliceOne)

theorem State.Inv.splice (h : s.Inv) {gn : ℕ} {kid : BitVec 16} : ∀ t, s.splice gn kid = .inr t → t.Inv := by
  fun_cases State.splice
  exacts [never_inr, never_inr, never_inr, never_inr, h.armGroup.of_inr]

theorem State.Inv.execCfgswapSplice (h : s.Inv) {c : Cmd} : Keeps (execCfgswapSplice c s) := by
  refine .next (h.answer.ite ?_)
  split
  · split
    exacts [h.answer, (h.splice _ ‹_›).answer]
  · exact h.answer

theorem State.Inv.execSpliceSwap (h : s.Inv) {ea : ℕ} : Keeps (execSpliceSwap ea s) := by
  refine .next (h.ite ?_)
  split
  exacts [h.raiseGroup, h.spliceElem]

theorem State.Inv.execSpliceSettled (h : s.Inv) {ea : ℕ} : Keeps (execSpliceSettled ea s) := by
  refine .next ?_
  split
  exacts [h, h.ite h.modChan.raiseGroup]

theorem State.Inv.disarm (h : s.Inv) {array target : ℕ} : (s.disarm array target).Inv := h

theorem State.Inv.execErrinj (h : s.Inv) {c : Cmd} : Keeps (execErrinj c s) := by
  refine .next ?_
  split
  exacts [h.answer, (h.disarm.frame (by with_reducible rfl)).answer]

theorem State.Inv.execErrinjDisarm (h : s.Inv) {c : Cmd} : Keeps (execErrinjDisarm c s) := by
  refine .next ?_
  split
  exacts [h.answer, h.disarm.answer]

theorem State.Inv.errlog (h : s.Inv) {c : Cmd} {f : ErrLog → ErrLog} : (s.errlog c f).Inv :=
  h.answer.ite (h.modBase.answer.ite h.modHub.answer)

theorem State.Inv.execPtroot (h : s.Inv) {c : Cmd} : Keeps (execPtroot c s) := by
  refine .next ?_
  dsimp only
  split
  exacts [h.answer.ite (h.frame (by with_reducible rfl)).invalidate.reply, h.answer]

theorem State.Inv.pack (h : s.Inv) {c : Cmd} {f : State → ℕ → State} (hf : ∀ s n, s.Inv → (f s n).Inv) : (s.pack c f).Inv :=
  h.answer.ite (hf _ _ h.answer)

theorem State.Inv.execPackCommit (h : s.Inv) {c : Cmd} : Keeps (execPackCommit c s) :=
  .next (h.pack fun _ _ h => h.saveGroup)

theorem State.Inv.execPackCancel (h : s.Inv) {c : Cmd} : Keeps (execPackCancel c s) :=
  .next (h.pack fun _ _ h => h.liveAgain)

/-! ## Arithmetic (chapter 05) -/

theorem State.Inv.fireDiv (h : s.Inv) {f : SlotF} {g : AluIn → Res} : (s.fireDiv f g).Inv := by
  fun_cases State.fireDiv
  exacts [h, h.operandFault _ ‹_›, h.fireAlu.modElem ..]

theorem State.Inv.execLea (h : s.Inv) {f : SlotF} : Keeps (execLea f s) := by
  refine .next ?_
  split
  · exact h
  · split
    exacts [h.operandFault _ ‹_›, h.raiseSync.ite h.fireAlu]

/-! ## Walks and accesses of engines -/

theorem State.Inv.execTlbWalk (h : s.Inv) {w : Walk} : Keeps (execTlbWalk w s) := by
  refine .next ?_
  split
  · exact h
  · exact h.modSlice.walkStep
  · split
    · split
      exacts [h.endWalk.failReq.walkOver, (h.feSettle.after ..).ite h.bankEnter]
    · exact h.endWalk.missPage.ite (h.endWalk.failReq.walkOver.ite (h.endWalk.walkLeaf.walkOver.ite (h.after ..)))

theorem State.Inv.serve (h : s.Inv) {us : List ℕ} : (s.serve us).Inv := h

theorem State.Inv.occupy (h : s.Inv) : s.occupy.Inv :=
  .ite ((h.frame (by with_reducible rfl)).foldl _ _ fun _ _ h => h.setBank.ite (h.setBank.after ..))
    (.foldl ((h.frame (by with_reducible rfl)).foldl _ _ fun _ _ h => h.setBank.ite (h.setBank.after ..)) _ _ fun _ _ h => h.feSettle)

/-- An access made where the homes of its units can serve it: if it keeps the invariant, so does its service. -/
theorem State.Inv.inService {α : Type} {f : State → α × State} (h : s.Inv) (hf : ∀ s, s.Inv → (f s).2.Inv) :
    ∀ x, s.inService f = some x → x.2.Inv := by
  have hr : (f { s with units := [] }).2.Inv := hf _ (h.frame (by with_reducible rfl))
  fun_cases State.inService
  exacts [hr.occupy.of_some_snd, never_some]

theorem State.Inv.of_inService {α : Type} {f : State → α × State} {a : α} (h : s.Inv) (e : s.inService f = some (a, t))
    (hf : ∀ s, s.Inv → (f s).2.Inv) : t.Inv :=
  h.inService hf _ e

theorem State.Inv.cacheError (h : s.Inv) {stack n : ℕ} {inj : Bool} : (s.cacheError stack n inj).Inv :=
  h.modBase.logBase

theorem State.Inv.meetCache (h : s.Inv) {stack dom page : ℕ} {scree : Bool} : (s.meetCache stack dom page scree).Inv := by
  fun_cases State.meetCache
  exacts [h, (h.takeInj.of_snd ‹_›).cacheError, h.takeInj.of_snd ‹_›]

theorem State.Inv.engPage (h : s.Inv) {stack dom : ℕ} {scree : Bool} {acc : Acc} {va : Word} :
    (s.engPage stack dom scree acc va).2.Inv := by
  have hs {f : Base → Base} {page : ℕ} {l : List ℕ} : (((s.meetCache stack dom page scree).modBase stack f).serve l).Inv :=
    h.meetCache.modBase.serve
  fun_cases State.engPage <;> dsimp only
  exacts [h.meetCache.modBase, hs, hs, hs, hs.modBase, hs.modBase]

theorem State.Inv.engPieces (h : s.Inv) {stack dom : ℕ} {scree : Bool} {acc : Acc} {want : Option ℕ} {va : Word} {n n' : ℕ} :
    (s.engPieces stack dom scree acc want va n n').2.Inv := by
  fun_induction State.engPieces
  · exact h
  · exact h
  · exact h
  · exact h.engPage.of_snd ‹_›
  · exact h.engPage.of_snd ‹_›
  next ih => exact (ih (h.engPage.of_snd ‹_›)).of_snd ‹_›
  next ih => exact (ih (h.engPage.of_snd ‹_›)).of_snd ‹_›

theorem State.Inv.servePieces (h : s.Inv) {ps : List (ℕ × ℕ × Bool)} : (s.servePieces ps).Inv :=
  h.serve.foldl _ _ fun _ _ h => h.touch ..

theorem State.Inv.engRead (h : s.Inv) {stack dom : ℕ} {acc : Acc} {want : Option ℕ} {va : Word} {n : ℕ} :
    (s.engRead stack dom acc want va n).2.Inv := by
  fun_cases State.engRead
  exacts [h.engPieces.of_snd ‹_›, (h.engPieces.of_snd ‹_›).servePieces, (h.engPieces.of_snd ‹_›).servePieces]

/-! ## Images and the loader -/

theorem State.Inv.stagePlanes (h : s.Inv) {g : Group} {i : Img} {b : List Byte} : (s.stagePlanes g i b).Inv :=
  h.foldl _ _ fun _ _ h => h.modElem ..

theorem State.Inv.writeRecord (h : s.Inv) {g : Group} {i : Img} {b : List Byte} {o : ℕ} : (s.writeRecord g i b o).Inv :=
  h.windowBytes.ite h.windowBytes

theorem State.Inv.writeHubs (h : s.Inv) {gn : ℕ} {g : Group} {i : Img} {b : List Byte} : (s.writeHubs gn g i b).Inv := by
  unfold State.writeHubs
  extract_lets s1 s2 s3
  have h1 : s1.Inv := h.foldl _ _ fun _ _ h => h.foldl _ _ fun _ _ h => h.setPart
  have h2 : s2.Inv := h1.foldl _ _ fun _ _ h => h.foldl _ _ fun _ _ h => h.initBar
  have h3 : s3.Inv := h2.foldl _ _ fun _ _ h => h.initBar
  exact h3.foldl _ _ fun _ _ h => h.setPool

theorem State.Inv.installImage (h : s.Inv) {gn : ℕ} {i : Img} {b : List Byte} {key : ℕ} :
    (s.installImage gn i b key).2.Inv := by
  unfold State.installImage
  extract_lets s1 g s2
  have h2 : s2.Inv := (h.modGroup ..).stagePlanes
  split
  · dsimp only
    exact h2.modGroup ..
  next s3 s4 s5 _ =>
    have h3 : s3.Inv := h2.mapElems (by with_reducible rfl)
    have h5 : s5.Inv := h3.writeHubs.foldl _ _ fun _ _ h => h.writeRecord
    split
    exacts [h5, h5.swap _ ‹_›]

theorem State.Inv.retryInstall (h : s.Inv) {gn : ℕ} : (s.retryInstall gn).Inv := by
  fun_cases State.retryInstall
  exacts [h, h, h, h.installImage]

theorem State.Inv.spliceImage (h : s.Inv) {gn : ℕ} {i : Img} {b : List Byte} {key : ℕ} : (s.spliceImage gn i b key).2.Inv := by
  fun_cases State.spliceImage
  exacts [(h.modGroup ..).stagePlanes, (h.modGroup ..).stagePlanes.splice _ ‹_›]

theorem State.Inv.loadImage (h : s.Inv) {l : LoadReq} {kid : Option Word} : (s.loadImage l kid).2.Inv := by
  fun_cases State.loadImage
  exacts [h, h.spliceImage, h.installImage]

/-! ## Links (chapter 17) -/

theorem State.Inv.linkDown (h : s.Inv) {l : ℕ} : (s.linkDown l).Inv :=
  (h.modXlink.after ..).ite h.modXlink

theorem State.Inv.emptyLink (h : s.Inv) {l : ℕ} : (s.emptyLink l).Inv :=
  (h.frame (by with_reducible rfl)).modXlink.at_ ..

theorem State.Inv.trainFromDown (h : s.Inv) {l : ℕ} : (s.trainFromDown l).Inv :=
  (h.modXlink.after ..).ite h

theorem State.Inv.execLinkEnable (h : s.Inv) {l : ℕ} : Keeps (execLinkEnable l s) :=
  .next h.modXlink.trainFromDown

theorem State.Inv.execLinkDisable (h : s.Inv) {l : ℕ} : Keeps (execLinkDisable l s) :=
  .next h.modXlink.emptyLink.linkDown

theorem State.Inv.execLinkReset (h : s.Inv) {l : ℕ} : Keeps (execLinkReset l s) :=
  .next (h.emptyLink.linkDown.ite h)

theorem State.Inv.logLink (h : s.Inv) {l : ℕ} : (s.logLink l).Inv := h.modDie ..

theorem State.Inv.endRemote (h : s.Inv) {q : Remote} {code detail : ℕ} : (s.endRemote q code detail).Inv :=
  ((h.at_ ..).ite h).failReq

theorem State.Inv.endRemotes (h : s.Inv) {l : ℕ} : (s.endRemotes l).Inv :=
  (h.frame (by with_reducible rfl)).foldl _ _ fun _ _ h => h.endRemote

theorem State.Inv.execLinkFenced (h : s.Inv) {l : ℕ} : Keeps (execLinkFenced l s) :=
  .next (h.endRemotes.ite h)

theorem State.Inv.fenceLink (h : s.Inv) {l cause : ℕ} : (s.fenceLink l cause).Inv :=
  h.modXlink.logLink.endRemotes

theorem State.Inv.execLinkFenceWrite (h : s.Inv) {l : ℕ} : Keeps (execLinkFenceWrite l s) :=
  .next (h.fenceLink.sendControl.ite h)

theorem State.Inv.execFenceFlitReceive (h : s.Inv) {l : ℕ} : Keeps (execFenceFlitReceive l s) :=
  .next (h.fenceLink.ite h)

theorem State.Inv.retrain (h : s.Inv) {l : ℕ} : (s.retrain l).Inv :=
  ((h.modXlink.after ..).at_ ..).ite h

theorem State.Inv.execLinkRetrain (h : s.Inv) {l : ℕ} : Keeps (execLinkRetrain l s) :=
  .next h.retrain

theorem State.Inv.trainingOver (h : s.Inv) {l : ℕ} : (s.trainingOver l).Inv :=
  h.ite (h.fenceLink.ite h.linkDown)

theorem State.Inv.execTrainingEnd (h : s.Inv) {l lanes : ℕ} : Keeps (execTrainingEnd l lanes s) :=
  .next (h.ite (h.modXlink.flushLink.ite h.trainingOver))

theorem State.Inv.execLinkDownRetry (h : s.Inv) : Keeps (execLinkDownRetry s) :=
  .next (h.foldl _ _ fun _ _ h => h.trainFromDown.ite h.trainingOver)

theorem State.Inv.linkAck (h : s.Inv) {l ack : ℕ} : (s.linkAck l ack).Inv := h.modXlink.flushLink

theorem State.Inv.execNakReceive (h : s.Inv) {l : ℕ} {ack : BitVec 12} : Keeps (execNakReceive l ack s) :=
  .next (h.ite (h.modXlink.modXlink.retrain.ite h.modXlink.modXlink.flushLink))

theorem State.Inv.sendNak (h : s.Inv) {l : ℕ} : (s.sendNak l).Inv :=
  h.modXlink.sendControl.retrain.ite h.modXlink.sendControl

theorem State.Inv.leavePort (h : s.Inv) {q : Remote} {p : ℕ} : (s.leavePort q p).Inv :=
  (h.frame (by with_reducible rfl)).linkSend

theorem State.Inv.sendRemote (h : s.Inv) {q : Remote} : (s.sendRemote q).Inv := by
  fun_cases State.sendRemote
  exacts [h, h, (h.frame (by with_reducible rfl)).endRemote, (h.frame (by with_reducible rfl)).leavePort,
    (h.frame (by with_reducible rfl)).at_ ..]

theorem State.Inv.keepCredit (h : s.Inv) {q : Remote} : (s.keepCredit q).Inv :=
  (h.frame (by with_reducible rfl)).modOut.ite h

theorem State.Inv.sendToken (h : s.Inv) {q : Remote} : (s.sendToken q).Inv := by
  fun_cases State.sendToken
  exacts [(h.modOut.frame (by with_reducible rfl)).linkSend.at_ .., h]

theorem State.Inv.nextCheck (h : s.Inv) : s.nextCheck.Inv := by
  unfold State.nextCheck
  extract_lets at1 s1
  have hat {t : State} (ht : t.Inv) (n : ℕ) : (at1 t n).Inv := ht.ite (ht.at_ ..)
  have h1 : s1.Inv := (hat h _).ite h
  split
  exacts [h1, hat h1 _]

theorem State.Inv.execRemoteTimeout (h : s.Inv) : Keeps (execRemoteTimeout s) := by
  refine .next ?_
  extract_lets s1 s2 s3 late s4
  have h1 : s1.Inv := h.foldl _ _ fun _ _ h => h.sendRemote
  have h2 : s2.Inv := h1.foldl _ _ fun _ _ h => h.leavePort
  have h3 : s3.Inv := h2.foldl _ _ fun _ _ h => h.sendToken
  have h4 : s4.Inv := h3.foldl _ _ fun _ _ h => (h.frame (by with_reducible rfl)).endRemote
  exact .nextCheck (h4.foldl _ _ fun _ _ h => h.keepCredit)

theorem State.Inv.farGranule (h : s.Inv) {r : MReq} {data : Option (List Byte × Bool)} : (s.farGranule r data).Inv := by
  fun_cases State.farGranule
  exacts [h, h.progress.granRead, h.progress.after .., h]

theorem State.Inv.remoteValue (h : s.Inv) {r : MReq} {v : Word} {p : Bool} : (s.remoteValue r v p).Inv :=
  h.farGranule.ite (h.progress.recordStored.ite h.complete)

theorem State.Inv.farGo (h : s.Inv) {q : RemoteReq} : (s.farGo q).Inv := h.bump.after ..

theorem State.Inv.farToken (h : s.Inv) {m id : ℕ} : (s.farToken m id).Inv := by
  fun_cases State.farToken
  exacts [(h.frame (by with_reducible rfl)).farGo, h.frame (by with_reducible rfl)]

theorem State.Inv.replyTaken (h : s.Inv) {q : Remote} : (s.replyTaken q).Inv := by
  unfold State.replyTaken
  exact (h.frame (by with_reducible rfl)).ite (h.frame (by with_reducible rfl))

theorem State.Inv.remoteRefusal (h : s.Inv) {r : MReq} {code detail : ℕ} : (s.remoteRefusal r code detail).Inv :=
  h.refuse.ite h.failReq

theorem State.Inv.remoteReply (h : s.Inv) {m : ℕ} {load : FlitLoad} : (s.remoteReply m load).Inv := by
  fun_cases State.remoteReply
  exacts [h, h.replyTaken.remoteValue, h, h.replyTaken.packetThere, h.replyTaken.farGranule, h,
    (h.frame (by with_reducible rfl)).remoteRefusal, h, (h.frame (by with_reducible rfl)).at_ .., h, h.farToken]

theorem State.Inv.execRemoteRequestArrival (h : s.Inv) {q : RemoteReq} : Keeps (execRemoteRequestArrival q s) :=
  .next (h.answerRemote.ite (((h.frame (by with_reducible rfl)).farGo.ite (h.frame (by with_reducible rfl))).ite h.farGo))

theorem State.Inv.emit (h : s.Inv) {m : Msg} : (s.emit m).Inv :=
  (h.frame (by with_reducible rfl)).foldl _ _ fun _ _ h => h.linkSend

theorem State.Inv.sendMsg (h : s.Inv) {k : ℕ} {m : Msg} : (s.sendMsg k m).Inv :=
  h.emit.ite h.modCore

theorem State.Inv.giveNotice (h : s.Inv) {gn origin : ℕ} {m : Msg} : (s.giveNotice gn origin m).Inv := by
  fun_cases State.giveNotice
  exacts [h.sendMsg, h.modHub]

theorem State.Inv.flushNotices (h : s.Inv) : s.flushNotices.Inv :=
  h.foldl _ _ fun _ _ h => h.ite (h.modHub.foldl _ _ fun _ _ h => h.giveNotice)

theorem State.Inv.flushCores (h : s.Inv) : s.flushCores.Inv :=
  .ite (h.foldl _ _ fun _ _ h => h.modCore.foldl _ _ fun _ _ h => h.emit) h

end Sys2Proof.Machine
end

section
/-! SUPPORT. Queues, queries, Scree units, tags and faults keep the canonical form (R254). -/

namespace Sys2Proof.Machine

variable {s t : State}

/-! ## Queues and launches (chapter 13) -/

theorem State.Inv.pushOver (h : s.Inv) {e : EntryReq} : (s.pushOver e).Inv := by
  fun_cases State.pushOver
  exacts [h.modCtx, h]

theorem State.Inv.portStatus (h : s.Inv) {e : EntryReq} {st : ℕ} : (s.portStatus e st).Inv := by
  fun_cases State.portStatus
  exacts [h.frame (by with_reducible rfl), h]

theorem State.Inv.acceptEntry (h : s.Inv) {e : EntryReq} : (s.acceptEntry e).Inv := by
  unfold State.acceptEntry
  extract_lets lid parent l s1 s2 q s3 s4
  have h1 : s1.Inv := h.frame (by with_reducible rfl)
  have h2 : s2.Inv := by
    unfold s2
    clear_value parent
    split
    exacts [h1.modLaunch, h1]
  have h3 : s3.Inv := h2.windowBytes.ite h2
  have h4 : s4.Inv := h2.modQueue.ite h3.modQueue
  exact h4.pushOver.portStatus

theorem State.Inv.refuseEntry (h : s.Inv) {e : EntryReq} {st : ℕ} : (s.refuseEntry e st).Inv := by
  fun_cases State.refuseEntry
  exacts [h.pushOver.portStatus.raiseRec, h.pushOver.portStatus]

theorem State.Inv.takeEntry (h : s.Inv) {e : EntryReq} : (s.takeEntry e).2.Inv := by
  fun_cases State.takeEntry
  exacts [h, h.acceptEntry, h, h.refuseEntry, h.refuseEntry]

theorem State.Inv.retryEntries (h : s.Inv) {qn : ℕ} {l : List EntryReq} : (s.retryEntries qn l).Inv := by
  fun_induction State.retryEntries
  · exact h
  next ih => exact ih ((h.takeEntry.of_snd ‹_›).modQueue.ite (h.takeEntry.of_snd ‹_›))

theorem State.Inv.drainWaiting (h : s.Inv) {qn : ℕ} : (s.drainWaiting qn).Inv :=
  h.modQueue.retryEntries

theorem State.Inv.execEnqueueEntry (h : s.Inv) {e : EntryReq} : Keeps (execEnqueueEntry e s) := by
  refine .next ?_
  split
  exacts [(h.takeEntry.of_snd ‹_›).modQueue.ite (h.takeEntry.of_snd ‹_›)]

theorem State.Inv.execQpush (h : s.Inv) {f : SlotF} : Keeps (execQpush f s) := by
  refine .next ?_
  split
  · exact h
  · split
    · exact h.operandFault _ ‹_›
    · dsimp only
      split
      exacts [h.raiseSync, h.fireWith fun _ _ _ _ h => h.bump.modCtx.sendAfterAcks]

theorem State.Inv.execQpushEntry (h : s.Inv) {r : MReq} : Keeps (execQpushEntry r s) :=
  .next ((h.frame (by with_reducible rfl)).after ..)

theorem State.Inv.execPushWrite (h : s.Inv) {die j : ℕ} {v : Word} : Keeps (execPushWrite die j v s) :=
  .next (h.ite ((h.frame (by with_reducible rfl)).after ..))

theorem State.Inv.execQueueEnable (h : s.Inv) {qn : ℕ} {_v : Word} : Keeps (execQueueEnable qn _v s) :=
  .next (h.ite h.modQueue)

theorem State.Inv.execQueueDisable (h : s.Inv) {qn : ℕ} {_v : Word} : Keeps (execQueueDisable qn _v s) :=
  .next (h.modQueue.drainWaiting.ite h)

theorem State.Inv.execSignalUpdate (h : s.Inv) {n : ℕ} {add : BitVec 32} : Keeps (execSignalUpdate n add s) :=
  .next ((h.frame (by with_reducible rfl)).ite h)

theorem State.Inv.updateWaits (h : s.Inv) {die : ℕ} : (s.updateWaits die).Inv := by
  refine h.foldl _ _ fun _ _ h => ?_
  split
  exacts [h, h.modQueue]

theorem State.Inv.askRoom (h : s.Inv) {qn : ℕ} : (s.askRoom qn).Inv := by
  fun_cases State.askRoom
  exacts [h.preemptGroup.modQueue, h, h]

theorem State.Inv.placeNew (h : s.Inv) {die : ℕ} {l : Launch} {o : ℕ × ℕ} : (s.placeNew die l o).Inv := by
  unfold State.placeNew
  dsimp only
  split
  · exact (h.reuseGroup.modGroup ..).modLaunch.after ..
  · exact (h.placeGroup.modGroup ..).modLaunch.after ..

theorem State.Inv.placeSaved (h : s.Inv) {die : ℕ} {l : Launch} {gn : ℕ} : (s.placeSaved die l gn).Inv := by
  fun_cases State.placeSaved
  exacts [(h.refuseRestore.modGroup ..).modLaunch.at_ .., ((h.restoreGroup _ ‹_›).modGroup ..).modLaunch.after ..]

theorem State.Inv.placeHead (h : s.Inv) {die qn : ℕ} {l : Launch} {o : ℕ × ℕ} : (s.placeHead die qn l o).Inv := by
  refine .drainWaiting ?_
  split
  exacts [(h.frame (by with_reducible rfl)).modQueue.placeSaved, (h.frame (by with_reducible rfl)).modQueue.placeNew]

theorem State.Inv.execSchedulerDecision (h : s.Inv) {die : ℕ} : Keeps (execSchedulerDecision die s) := by
  refine .next (h.ite ?_)
  extract_lets s1 now_ s2 limit cs s3
  have h2 : s2.Inv := h.updateWaits.foldl _ _ fun _ _ h => h.modQueue
  have h3 : s3.Inv := h2.foldl _ _ fun _ _ h => h.askRoom
  split
  · exact h3
  split
  · exact h3.ite (.placeHead (h3.foldl _ _ fun _ _ h => h.modQueue.ite h))
  · exact h3

theorem State.Inv.replyTo (h : s.Inv) {m : Msg} {status : ℕ} {payload : List Byte} : (s.replyTo m status payload).Inv :=
  h.sendMsg

theorem State.Inv.failLoad (h : s.Inv) {gn lid code : ℕ} : (s.failLoad gn lid code).Inv :=
  h.endLaunch.ite ((h.modLaunch.at_ ..).ite h)

theorem State.Inv.execImageLoadRequest (h : s.Inv) {l : LoadReq} : Keeps (execImageLoadRequest l s) := by
  have hend {t : State} (ht : t.Inv) {m : Option Msg} {n : ℕ} {b : List Byte} : (match m with
      | some m => t.replyTo m n b
      | none => t).Inv := by
    cases m
    exacts [ht, ht.replyTo]
  have hmid {t : State} (ht : t.Inv) {o p : Option ℕ} {c : Bool} {gn code : ℕ} : (if c then
        (match o with | some lid => t.after 1 (.launchStart lid) | none => t)
      else match p with | some lid => if code != 0 then t.failLoad gn lid code else t | none => t).Inv := by
    cases o <;> cases p
    exacts [ht.ite ht, ht.ite (ht.failLoad.ite ht), (ht.after ..).ite ht, (ht.after ..).ite (ht.failLoad.ite ht)]
  refine .next ?_
  split
  · exact hend (hmid h)
  · exact hend (hmid h.loadImage)

theorem State.Inv.startKernel (h : s.Inv) {gn : ℕ} : (s.startKernel gn).Inv := by
  unfold State.startKernel
  extract_lets g wake hold __
  exact h.mapElems (f := hold) rfl

theorem State.Inv.execLaunchStart (h : s.Inv) {lid : ℕ} : Keeps (execLaunchStart lid s) := by
  refine .next ?_
  split
  · exact h
  · split
    exacts [(h.after ..).ite (h.modLaunch.startKernel.ite (h.endLaunch.ite h.windowBytes.modLaunch.startKernel)), h]

theorem State.Inv.storeRecord (h : s.Inv) {l : Launch} : ∀ x, s.storeRecord l = some x → x.1.Inv := by
  fun_cases State.storeRecord
  exacts [never_some, never_some, h.bump.modLaunch.toHome.of_some_fst, never_some, h.windowBytes.of_some_fst]

theorem State.Inv.childEnded (h : s.Inv) {p : ℕ} {failed : Bool} : (s.childEnded p failed).Inv := by
  refine .foldl ?_ _ _ fun _ _ h => h.drainWaiting.ite h
  split
  exacts [(h.modLaunch.at_ ..).ite h.modLaunch, h.modLaunch]

theorem State.Inv.lastStep (h : s.Inv) {l : Launch} {code : ℕ} : (s.lastStep l code).Inv :=
  h.giveNotice.ite h

theorem State.Inv.endSteps (h : s.Inv) {l : Launch} {code : ℕ} : (s.endSteps l code).Inv := by
  unfold State.endSteps
  extract_lets s1 d s2
  have h1 : s1.Inv := by
    unfold s1
    split
    exacts [h.childEnded, h]
  exact ((h1.after ..).modLaunch.after ..).ite h1.lastStep

theorem State.Inv.execLaunchComplete (h : s.Inv) {lid : ℕ} : Keeps (execLaunchComplete lid s) := by
  refine .next ?_
  split
  · exact h
  · refine h.modLaunch.lastStep.ite (h.modLaunch.endSteps.ite (h.ite (h.modLaunch.ite (h.modLaunch.endSteps.ite ?_))))
    split
    next => exact h.modLaunch.endSteps
    next hx => exact .endSteps (h.modLaunch.storeRecord _ hx)
    next hx => exact h.modLaunch.storeRecord _ hx

/-! ## Queries (chapter 16) -/

theorem State.Inv.fireEngine (h : s.Inv) {f : SlotF} {acc : Acc} : (s.fireEngine f acc).Inv := by
  fun_cases State.fireEngine
  exacts [h, h.operandFault _ ‹_›, h.raiseSync,
    (h.bump.fireBase.raiseFlags.reserveReq.modCtx.ite h.bump.fireBase.raiseFlags.reserveReq).progressAt.sendReq]

theorem State.Inv.engineDone (h : s.Inv) {r : MReq} {w : Word} : (s.engineDone r w).Inv :=
  h.complete

theorem State.Inv.tableTake (h : s.Inv) {r : MReq} : (s.tableTake r).Inv :=
  (h.ite h.creditBack).engineDone.ite (((h.ite h.creditBack).modElem ..).foldl _ _ fun _ _ h => h.bankEnter)

theorem State.Inv.tableNext (h : s.Inv) {ea n : ℕ} : (s.tableNext ea n).Inv := by
  fun_induction State.tableNext
  · exact h
  · exact h
  next ih => exact ih (h.modElem ..).tableTake
  · exact h

theorem State.Inv.tableFlush (h : s.Inv) {ea : ℕ} : (s.tableFlush ea).Inv := h.tableNext

theorem State.Inv.tableLeave (h : s.Inv) {r : MReq} {w : Word} : (s.tableLeave r w).Inv :=
  (h.modElem ..).engineDone.tableFlush

theorem State.Inv.modTab (h : s.Inv) {r : MReq} {f : Tab → Tab} : (s.modTab r f).Inv := h.modElem ..

theorem State.Inv.rowRead (h : s.Inv) {a : ℕ} : (s.rowRead a).2.Inv := by
  unfold State.rowRead
  dsimp only
  exact h.foldl _ _ fun _ _ h => h.touch ..

theorem State.Inv.modQuery (h : s.Inv) {stack id : ℕ} {f : Query → Query} : (s.modQuery stack id f).Inv :=
  h.modEngine

theorem State.Inv.rowDone (h : s.Inv) {r : MReq} {home j : ℕ} {row : List Byte} : (s.rowDone r home j row).Inv := by
  fun_cases State.rowDone
  exacts [h.modQuery.at_ .., h.modQuery, h.modQuery]

theorem State.Inv.rowAsk (h : s.Inv) {r : MReq} {home h' j : ℕ} : (s.rowAsk r home h' j).Inv := by
  fun_cases State.rowAsk
  exacts [h.bankEnter, h.modQuery.rowDone]

theorem State.Inv.sendQuery (h : s.Inv) {r : MReq} {t : Tab} : (s.sendQuery r t).Inv :=
  (h.modTab.modEngine.at_ ..).foldl _ _ fun _ _ h => h.rowAsk

theorem State.Inv.vectorRow (h : s.Inv) {r : MReq} : (s.vectorRow r).Inv := by
  fun_cases State.vectorRow
  exacts [h, h, h.rowAsk, (h.rowRead.of_snd ‹_›).progress.modQuery.rowDone.rowAsk, (h.rowRead.of_snd ‹_›).progress.modQuery.rowDone]

theorem State.Inv.sendAbort (h : s.Inv) {r : MReq} : (s.sendAbort r).Inv := by
  fun_cases State.sendAbort
  exacts [h.creditBack.engineDone, h.after .., h.creditBack.after ..]

theorem State.Inv.endQuery (h : s.Inv) {stack id status code : ℕ} {faddr : Word} : (s.endQuery stack id status code faddr).Inv :=
  (h.modQuery.after ..).after ..

theorem State.Inv.queryCheck (h : s.Inv) {stack : ℕ} {q : Query} : (s.queryCheck stack q).2.Inv := by
  fun_cases State.queryCheck
  exacts [h, h, h, h, h, h.engRead.of_snd ‹_›, (h.engRead.of_snd ‹_›).progress, (h.engRead.of_snd ‹_›).progress,
    (h.engRead.of_snd ‹_›).progress, (h.engRead.of_snd ‹_›).progress, (h.engRead.of_snd ‹_›).progress,
    (h.engRead.of_snd ‹_›).progress]

theorem State.Inv.sendBatches (h : s.Inv) {stack : ℕ} {q : Query} {first : Bool} : (s.sendBatches stack q first).Inv :=
  h.foldl _ _ fun _ _ h => (h.modEngine.at_ ..).ite (h.at_ ..)

theorem State.Inv.admitQuery (h : s.Inv) {stack : ℕ} {q : Query} {d : List Byte} : (s.admitQuery stack q d).Inv :=
  h.modEngine.modQuery.sendBatches

theorem State.Inv.admitOne (h : s.Inv) {stack : ℕ} {q : Query} : (s.admitOne stack q).Inv :=
  h.admitQuery.ite h

theorem State.Inv.admitAll (h : s.Inv) {stack : ℕ} {l : List Query} : (s.admitAll stack l).Inv := by
  fun_induction State.admitAll
  next => exact h
  next ih => exact ih h
  next ih => exact ih h.admitOne
  next => exact h.after ..
  next hx ih => exact ih (.endQuery (h.of_inService hx fun _ h => h.queryCheck))
  next hx _ ih => exact ih (.admitOne (.modQuery (h.of_inService hx fun _ h => h.queryCheck)))

theorem State.Inv.execQueryAdmit (h : s.Inv) {stack : ℕ} : Keeps (execQueryAdmit stack s) :=
  .next h.admitAll

theorem State.Inv.readNode (h : s.Inv) {q : Query} {stack n : ℕ} : (s.readNode q stack n).2.Inv := by
  fun_cases State.readNode
  exacts [h, h.engRead.of_snd ‹_›, (h.engRead.of_snd ‹_›).progress]

theorem State.Inv.queryTurn (h : s.Inv) {stack id : ℕ} : (s.queryTurn stack id).Inv :=
  h.modQuery.after ..

theorem State.Inv.placeStep (h : s.Inv) {stack : ℕ} {q : Query} : (s.placeStep stack q).Inv := by
  fun_cases State.placeStep
  exacts [h.endQuery, h.modQuery.progress.endQuery, h.modQuery.progress.queryTurn]

theorem State.Inv.expand (h : s.Inv) {stack : ℕ} {q : Query} {n : ℕ} {first : Bool} {rc : List Byte ⊕ EFault} :
    (s.expand stack q n first rc).Inv := by
  fun_cases State.expand
  exacts [h.endQuery, h.endQuery, h.modQuery.endQuery, h.modQuery.placeStep, h.modQuery.sendBatches]

theorem State.Inv.batchBack (h : s.Inv) {home id stack : ℕ} {first : Bool} : (s.batchBack home id stack first).Inv := by
  fun_cases State.batchBack
  exacts [h, h.modQuery.expand, h.modQuery.placeStep, h.modQuery]

theorem State.Inv.served (h : s.Inv) {home id stack : ℕ} {q : Query} {b : Batch} : (s.served home id stack q b).Inv :=
  h.modQuery.modEngine.batchBack.ite (h.modQuery.modEngine.at_ ..)

theorem State.Inv.readNext (h : s.Inv) {home id stack : ℕ} {q : Query} {b : Batch} {n : ℕ} {rest : List ℕ} :
    (s.readNext home id stack q b n rest).Inv := by
  fun_cases State.readNext
  next => exact h.after ..
  next hx _ => exact .served (h.of_inService hx fun _ h => h.readNode)
  next hx _ _ => exact .at_ (.modQuery (h.of_inService hx fun _ h => h.readNode)) ..

theorem State.Inv.endService (h : s.Inv) {stack : ℕ} : (s.endService stack).Inv := by
  unfold State.endService
  split
  · exact h
  split
  · exact h.modEngine
  · refine h.ite ?_
    split
    exacts [h.readNext, h.served]

theorem State.Inv.startService (h : s.Inv) {stack : ℕ} {l : List (ℕ × ℕ)} : (s.startService stack l).Inv := by
  induction l with
  | nil => exact h.modEngine
  | cons j l ih =>
    unfold State.startService
    split
    exacts [ih, h.modQuery.modEngine.at_ ..]

theorem State.Inv.batchArrives (h : s.Inv) {home id remote : ℕ} : (s.batchArrives home id remote).Inv := by
  fun_cases State.batchArrives
  exacts [h, h, h.modQuery.modEngine]

theorem State.Inv.execRemoteBatch (h : s.Inv) {stack id remote : ℕ} : Keeps (execRemoteBatch stack id remote s) :=
  .next (h.batchArrives.at_ ..)

theorem State.Inv.stepQuery (h : s.Inv) {stack : ℕ} {q : Query} : (s.stepQuery stack q).Inv := by
  fun_cases State.stepQuery
  exacts [h.endQuery, h.modQuery.sendBatches]

theorem State.Inv.nextTurn (h : s.Inv) {stack : ℕ} : (s.nextTurn stack).Inv := by
  fun_cases State.nextTurn
  exacts [h, h.startService, h.startService, (h.startService.modEngine.stepQuery.after ..).startService]

theorem State.Inv.execQueryStep (h : s.Inv) {stack : ℕ} : Keeps (execQueryStep stack s) :=
  .next (.nextTurn (.endService (.foldl (h.foldl _ _ fun _ _ h => h.batchArrives) _ _ fun _ _ h => h.batchBack)))

theorem State.Inv.passes (h : s.Inv) {stack : ℕ} {q : Query} {n : ℕ} : (s.passes stack q n).2.Inv := by
  fun_cases State.passes
  exacts [h, h, h.engRead.of_snd ‹_›, h.engRead.of_snd ‹_›]

theorem State.Inv.selectResults (h : s.Inv) {stack : ℕ} {q : Query} {k : ℕ} {l : List HEnt} :
    (s.selectResults stack q k l).2.Inv := by
  fun_induction State.selectResults
  · exact h
  · exact h
  · exact h.passes.of_snd ‹_›
  next ih => exact (ih (h.passes.of_snd ‹_›)).of_snd ‹_›
  next ih => exact (ih (h.passes.of_snd ‹_›)).of_snd ‹_›

theorem State.Inv.chooseResults (h : s.Inv) {stack : ℕ} {q : Query} : (s.chooseResults stack q).2.Inv :=
  h.selectResults.ite h.selectResults.progress

theorem State.Inv.writeResults (h : s.Inv) {stack : ℕ} {q : Query} {i : ℕ} {l : List HEnt} : (s.writeResults stack q i l).2.Inv := by
  fun_induction State.writeResults
  · exact h
  · exact h.engPieces.of_snd ‹_›
  · exact h.engPieces.of_snd ‹_›
  next ih => exact ih ((h.engPieces.of_snd ‹_›).servePieces.storeUnit ..).progress
  · exact h.engPieces.of_snd ‹_›

theorem State.Inv.resultBurst (h : s.Inv) {stack : ℕ} {q : Query} : (s.resultBurst stack q).Inv := by
  unfold State.resultBurst
  split
  next => exact h.after ..
  next hx => exact .after (.modQuery (h.of_inService hx fun _ h => h.writeResults)) ..

theorem State.Inv.results (h : s.Inv) {stack : ℕ} {q : Query} : (s.results stack q).Inv := by
  have hc {a t} (e : (s.inService fun s => s.chooseResults stack q) = some (a, t)) : t.Inv :=
    h.of_inService e fun _ h => h.chooseResults
  fun_cases State.results
  exacts [h.after .., (hc ‹_›).modQuery.after .., (hc ‹_›).modQuery.after .., (hc ‹_›).modQuery.resultBurst]

theorem State.Inv.execQueryComplete (h : s.Inv) {stack id : ℕ} : Keeps (execQueryComplete stack id s) := by
  refine .next ?_
  split
  · exact h
  · split
    exacts [h, h.results.ite (h.modQuery.after ..), h.resultBurst, h.modQuery.bankEnter, h.windowBytes.modEngine.tableLeave]

theorem State.Inv.execQabortArrival (h : s.Inv) {stack id : ℕ} {r : MReq} : Keeps (execQabortArrival stack id r s) := by
  refine .next ?_
  split
  · exact h.after ..
  · split
    exacts [h.endQuery.after .., (((h.frame (by with_reducible rfl)).modQuery.after ..).ite
      ((h.frame (by with_reducible rfl)).after ..)).ite (h.after ..)]

/-! ## Scree units (chapter 16) -/

theorem State.Inv.screePieces (h : s.Inv) {stack : ℕ} {q : ScreeReq} {i : ℕ} {x : ℤ} {write : Bool} :
    (s.screePieces stack q i x write).2.Inv := by
  fun_cases State.screePieces
  exacts [h, h.engPieces.of_snd ‹_›, h.engPieces.of_snd ‹_›]

theorem State.Inv.modScree (h : s.Inv) {stack id : ℕ} {f : ScreeReq → ScreeReq} : (s.modScree stack id f).Inv :=
  h.modEngine

theorem State.Inv.screeEnd (h : s.Inv) {stack : ℕ} {q : ScreeReq} {fin : ScreeFin} {data : List Byte} :
    (s.screeEnd stack q fin data).Inv :=
  (h.progress.modScree.modEngine.at_ ..).screeWake

theorem State.Inv.gatherAll (h : s.Inv) {stack : ℕ} {q : ScreeReq} {idx : List Byte} {i n : ℕ} :
    (s.gatherAll stack q idx i n).2.Inv := by
  fun_induction State.gatherAll
  · exact h
  · exact h.screePieces.of_snd ‹_›
  · exact (h.screePieces.of_snd ‹_›).servePieces
  next ih => exact (ih (h.screePieces.of_snd ‹_›).servePieces).of_snd ‹_›

theorem State.Inv.gather (h : s.Inv) {stack : ℕ} {q : ScreeReq} {idx : List Byte} : (s.gather stack q idx).Inv := by
  fun_cases State.gather
  next => exact h.after ..
  next hx => exact .screeEnd (h.of_inService hx fun _ h => h.gatherAll)

theorem State.Inv.scatterCheck (h : s.Inv) {stack : ℕ} {q : ScreeReq} {idx : List Byte} {i n : ℕ} :
    (s.scatterCheck stack q idx i n).2.Inv := by
  fun_induction State.scatterCheck
  · exact h
  · exact h.screePieces.of_snd ‹_›
  · exact h.screePieces.of_snd ‹_›
  · exact h.screePieces.of_snd ‹_›
  next ih => exact (ih (h.screePieces.of_snd ‹_›)).of_snd ‹_›
  next ih => exact (ih (h.screePieces.of_snd ‹_›)).of_snd ‹_›

theorem State.Inv.writePieces (h : s.Inv) {b : List Byte} {l : List (ℕ × ℕ × Bool)} : (s.writePieces b l).Inv := by
  fun_induction State.writePieces
  · exact h
  next ih => exact ih ((h.writeBytes ..).foldl _ _ fun _ _ h => h.setPoison ..)

theorem State.Inv.scatterWrite (h : s.Inv) {q : ScreeReq} {ix : List ℤ} {vals : List (List Byte)}
    {ps : List (List (ℕ × ℕ × Bool))} : (s.scatterWrite q ix vals ps).2.Inv := by
  unfold State.scatterWrite
  refine List.foldlRecOn (motive := fun x : FlagSet × State => x.2.Inv) _ _ h fun x hx _ _ => ?_
  exact .iteSnd (.iteSnd hx.servePieces hx.servePieces.writePieces) (.iteSnd hx.servePieces hx.servePieces.writePieces)

theorem State.Inv.scatterAll (h : s.Inv) {stack : ℕ} {q : ScreeReq} {idx b : List Byte} : (s.scatterAll stack q idx b).2.Inv := by
  fun_cases State.scatterAll
  exacts [h.scatterCheck.of_snd ‹_›, (h.scatterCheck.of_snd ‹_›).scatterWrite.of_snd ‹_›]

theorem State.Inv.sourceAsk (h : s.Inv) {stack : ℕ} {q : ScreeReq} {j : ℕ} : (s.sourceAsk stack q j).Inv := by
  fun_cases State.sourceAsk
  exacts [h.bankEnter, h.screeEnd]

theorem State.Inv.scatter (h : s.Inv) {stack : ℕ} {q : ScreeReq} {idx : List Byte} : (s.scatter stack q idx).Inv := by
  fun_cases State.scatter
  next => exact h.modScree.foldl _ _ fun _ _ h => h.sourceAsk.ite h
  next => exact h.after ..
  next hx => exact .screeEnd (h.of_inService hx fun _ h => h.scatterAll)

theorem State.Inv.sourceRow (h : s.Inv) {r : MReq} : (s.sourceRow r).Inv := by
  fun_cases State.sourceRow
  exacts [h, h, h.sourceAsk, (h.rowRead.of_snd ‹_›).progress.screeEnd, (h.rowRead.of_snd ‹_›).progress.modScree.at_ ..,
    (h.rowRead.of_snd ‹_›).progress.modScree.sourceAsk, (h.rowRead.of_snd ‹_›).progress.modScree]

theorem State.Inv.recordAsk (h : s.Inv) {q : ScreeReq} : (s.recordAsk q).Inv := h.bankEnter

theorem State.Inv.burstFault (h : s.Inv) {stack : ℕ} {q : ScreeReq} {code : ℕ} {fa : Word} {done : ℕ} :
    (s.burstFault stack q code fa done).Inv :=
  h.modScree.recordAsk

theorem State.Inv.answerStep (h : s.Inv) {stack : ℕ} {q : ScreeReq} {j : ℕ} : (s.answerStep stack q j).Inv := by
  fun_cases State.answerStep
  exacts [h.recordAsk, h.bankEnter, h.burstFault]

theorem State.Inv.writeBurst (h : s.Inv) {a : ℕ} {b : List Byte} {n : ℕ} : (s.writeBurst a b n).2.Inv := by
  fun_induction State.writeBurst
  · exact h
  · exact h
  next ih => exact ih ((h.touch ..).storeUnit ..)
  · exact h.touch ..
  · exact (h.touch ..).writeBytes ..

theorem State.Inv.burstRow (h : s.Inv) {r : MReq} : (s.burstRow r).Inv := by
  fun_cases State.burstRow
  exacts [h, h.answerStep, (h.writeBurst.of_snd ‹_›).progress.burstFault, (h.writeBurst.of_snd ‹_›).progress.after ..]

theorem State.Inv.recordRow (h : s.Inv) {r : MReq} : (s.recordRow r).Inv := by
  fun_cases State.recordRow
  exacts [h, h.windowBytes.modEngine.progress.tableLeave]

theorem State.Inv.screeAnswers (h : s.Inv) {stack : ℕ} {l : List ScreeReq} : (s.screeAnswers stack l).Inv := by
  fun_induction State.screeAnswers
  · exact h
  next ih => exact ih (h.modScree.answerStep.ite h)

theorem State.Inv.screeServe (h : s.Inv) {stack : ℕ} {q : ScreeReq} : (s.screeServe stack q).Inv := by
  unfold State.screeServe
  extract_lets go
  have hgo {s idx} (h : State.Inv s) : (go s idx).Inv := h.gather.ite h.scatter
  split
  · exact hgo h
  · exact h.screeEnd
  · split
    next => exact h.after ..
    next hx => exact .screeEnd (h.of_inService hx fun _ h => h.engRead)
    next hx => exact hgo (.modScree (.progress (h.of_inService hx fun _ h => h.engRead)))

theorem State.Inv.screeTurn (h : s.Inv) {stack : ℕ} : (s.screeTurn stack).Inv := by
  fun_cases State.screeTurn
  exacts [h.screeAnswers, h.screeAnswers, h.screeAnswers.at_ .., h.screeAnswers.screeServe]

theorem State.Inv.sendScree (h : s.Inv) {r : MReq} {t : Tab} : (s.sendScree r t).Inv :=
  h.modTab.modEngine.at_ ..

theorem State.Inv.tabSend (h : s.Inv) {r : MReq} : (s.tabSend r).Inv := by
  fun_cases State.tabSend
  exacts [h, h, h.sendQuery, h.after .., h.sendScree]

theorem State.Inv.packetRow (h : s.Inv) {r : MReq} : (s.packetRow r).Inv := by
  unfold State.packetRow
  exact .tabSend (.modTab (.progress (h.foldl _ _ fun _ _ h => h.touch ..)))

theorem State.Inv.execQueryAccept (h : s.Inv) {r : MReq} : Keeps (execQueryAccept r s) := by
  refine .next ((h.engineDone.ite h.sendAbort).ite ?_)
  split
  · exact (h.modElem ..).tableFlush
  · exact h.packetRow
  · exact h.vectorRow
  · exact h.sourceRow
  · split
    exacts [h.answerStep, h]
  · exact h.burstRow
  · exact h.recordRow
  · exact h.tabSend

/-! ## Tags and accepted firings -/

theorem State.Inv.execTagRequest (h : s.Inv) {ea pool : ℕ} : Keeps (execTagRequest ea pool s) :=
  .next (h.askTag.ite h)

theorem State.Inv.execGroupStall (h : s.Inv) {gn : ℕ} : Keeps (execGroupStall gn s) :=
  .next (h.ite h.raiseGroup)

theorem State.Inv.preemptTimeout (h : s.Inv) {gn : ℕ} : (s.preemptTimeout gn).Inv :=
  h.raiseRec.ite h.raiseRec.liveAgain

theorem State.Inv.execPreemptTimeout (h : s.Inv) : Keeps (execPreemptTimeout s) :=
  .next (h.foldl _ _ fun _ _ h => h.preemptTimeout)

/-! ## Faults and service (chapter 18) -/

theorem State.Inv.execTrap (h : s.Inv) {f : SlotF} : Keeps (execTrap f s) := by
  refine .next ?_
  split
  exacts [h, h.raiseSync]

theorem State.Inv.execBrk (h : s.Inv) {f : SlotF} : Keeps (execBrk f s) :=
  .next (h.fireWith fun _ _ _ _ h => h.modCtx.ite h.modCtx.raiseRec)

theorem State.Inv.execSvc (h : s.Inv) {f : SlotF} : Keeps (execSvc f s) := by
  refine .next ?_
  split
  · exact h
  · split
    exacts [h.operandFault _ ‹_›, h.raiseSync.ite (h.fireWith fun _ _ _ _ h => h.markPending.modCtx.raiseRec)]

theorem State.Inv.execSvcReplyDelivery (h : s.Inv) {ea ctx : ℕ} {value : Word} : Keeps (execSvcReplyDelivery ea ctx value s) := by
  refine .next ?_
  split
  exacts [h, h.modCtx]

theorem State.Inv.execFenceArrival (h : s.Inv) {gn tile : ℕ} : Keeps (execFenceArrival gn tile s) :=
  .next ((h.modGroup ..).ite h)

theorem State.Inv.queueRec (h : s.Inv) {k : ℕ} {r : FRec} : (s.queueRec k r).Inv := by
  fun_cases State.queueRec
  exacts [h.modCore.sendMsg, h.modCore]

theorem State.Inv.holdRec (h : s.Inv) {r : FRec} : (s.holdRec r).Inv :=
  (h.setGroup ..).modHub.after ..

theorem State.Inv.passRecs (h : s.Inv) {tile : ℕ} {stay l : List FRec} : (s.passRecs tile stay l).1.Inv := by
  fun_induction State.passRecs
  · exact h
  next ih => exact ih h.queueRec
  next ih => exact ih h
  next ih => exact ih h

theorem State.Inv.flushHub (h : s.Inv) {tile : ℕ} : (s.flushHub tile).Inv :=
  h.passRecs.modHub.foldl _ _ fun _ _ h => h.holdRec

theorem State.Inv.flushHubs (h : s.Inv) : s.flushHubs.Inv :=
  h.foldl _ _ fun _ _ h => h.ite h.flushHub

theorem State.Inv.loseRec (h : s.Inv) {r : FRec} : (s.loseRec r).Inv := h.modCore

theorem State.Inv.execFaultRecordArrival (h : s.Inv) {r : FRec} : Keeps (execFaultRecordArrival r s) :=
  .next (((h.modGroup ..).holdRec.ite ((h.modGroup ..).loseRec.ite (h.modGroup ..).modHub)).ite h.modHub.flushHub)

theorem State.Inv.execEventQueuePop (h : s.Inv) {die core : ℕ} : Keeps (execEventQueuePop die core s) :=
  .next h.modCore.flushHubs

theorem State.Inv.execCrestCoreAvailability (h : s.Inv) {die core : ℕ} {available : Bool} :
    Keeps (execCrestCoreAvailability die core available s) :=
  .next h.modCore.flushHubs.flushNotices.flushCores

theorem State.Inv.dieCheck (h : s.Inv) {array entry ea : ℕ} : (s.dieCheck array entry ea).Inv :=
  h.foldl _ _ fun _ _ h => h.raiseRec

theorem State.Inv.parityError (h : s.Inv) {array entry ea : ℕ} {dieScope inj : Bool} :
    (s.parityError array entry ea dieScope inj).Inv := by
  fun_cases State.parityError
  exacts [h.cacheError, h.logTile.dieCheck, h.logTile, h.logTile.frame (by with_reducible rfl), h.logTile.raiseGroup, h.logTile]

theorem State.Inv.execMachineCheck (h : s.Inv) {array entry ea : ℕ} {dieScope : Bool} :
    Keeps (execMachineCheck array entry ea dieScope s) :=
  .next h.parityError

theorem State.Inv.execScrub (h : s.Inv) {unit : ℕ} {correctable uncorrectable : Bool} :
    Keeps (execScrub unit correctable uncorrectable s) :=
  .next (((h.touch ..).setPoison ..).logUnit.ite ((h.touch ..).logUnit.ite (h.touch ..))).feSettle

theorem State.Inv.injected (h : s.Inv) {array ea entry : ℕ} : ∀ t, s.injected array ea entry = some t → t.Inv := by
  fun_cases State.injected
  exacts [(h.takeInj.of_snd ‹_›).parityError.of_some, never_some]

end Sys2Proof.Machine
end

section
/-! SUPPORT. Bring-up, management, the privileged view and the cycle keep the canonical form (R254). Settles O59. -/

namespace Sys2Proof.Machine

variable {s t : State}

/-! ## Bring-up and management (chapter 19) -/

theorem State.Inv.modSummit (h : s.Inv) {f : Summit → Summit} : (s.modSummit f).Inv := h

theorem State.Inv.modMbox (h : s.Inv) {k : ℕ} {f : MBox → MBox} : (s.modMbox k f).Inv := h

theorem State.Inv.moduleReset (h : s.Inv) {cold : Bool} : (s.moduleReset cold).Inv := ⟨State.wf_moduleReset h.1 cold, rfl⟩

theorem State.Inv.execPowerOn (h : s.Inv) : Keeps (execPowerOn s) := .next h.moduleReset

theorem State.Inv.stage (h : s.Inv) {n : ℕ} : (s.stage n).Inv := h.modSummit

theorem State.Inv.recover (h : s.Inv) : s.recover.Inv := h.modSummit

theorem State.Inv.releaseDies (h : s.Inv) : s.releaseDies.Inv :=
  h.foldl _ _ fun _ _ h => (h.modDie ..).ite h

theorem State.Inv.execBringupStageEnd (h : s.Inv) {image : List Byte} : Keeps (execBringupStageEnd image s) := by
  refine .next (h.ite ?_)
  split
  exacts [h.modSummit.modSummit.stage.ite h.recover, (h.modSummit.modSummit.stage.after ..).ite h.recover, h.stage.ite h,
    (h.modSummit.frame (by with_reducible rfl)).modSummit.releaseDies.stage.ite h.recover,
    h.clearWindows.modXlink.trainFromDown.stage, h]

theorem State.Inv.execTorReady (h : s.Inv) {stack : ℕ} {ok capok : Bool} {version : BitVec 32} :
    Keeps (execTorReady stack ok capok version s) :=
  .next (h.modBase.ite h)

theorem State.Inv.stackDead (h : s.Inv) {k : ℕ} : (s.stackDead k).Inv := h.ite h.modBase

theorem State.Inv.execStackReadyTimeout (h : s.Inv) : Keeps (execStackReadyTimeout s) :=
  .next (.ite (.stage (h.foldl _ _ fun _ _ h => h.stackDead)) h)

theorem State.Inv.dropDeferred (h : s.Inv) {stack port : ℕ} : (s.dropDeferred stack port).Inv :=
  (h.frame (by with_reducible rfl)).foldl _ _ fun _ _ h => h.failReq

theorem State.Inv.execPortOffline (h : s.Inv) {stack port : ℕ} : Keeps (execPortOffline stack port s) :=
  .next (h.modBase.logBase.dropDeferred.ite h)

theorem State.Inv.holdFabric (h : s.Inv) : s.holdFabric.Inv := by
  unfold State.holdFabric
  exact .frame (h.foldl _ _ fun _ _ h => h.dieCheck) (by with_reducible rfl)

theorem State.Inv.execClockThrottle (h : s.Inv) {power : BitVec 16} {hot : Bool} : Keeps (execClockThrottle power hot s) :=
  .next h.modSummit

theorem State.Inv.execTelemetrySample (h : s.Inv) {x : Sensors} : Keeps (execTelemetrySample x s) := by
  unfold Sys2Proof.Machine.execTelemetrySample
  extract_lets n w s1 s2
  have h1 : s1.Inv := h.modSummit
  have h2 : s2.Inv := h1.holdFabric.ite h1
  split
  exacts [h2.execClockThrottle, .next h2]

theorem State.Inv.mgReply (h : s.Inv) {m : Mgmt} {status : ℕ} {data : List Byte} : (s.mgReply m status data).Inv := by
  fun_cases State.mgReply
  exacts [h.modMbox, h.modSummit]

/-- A command whose own effect keeps the invariant keeps it. -/
theorem State.Inv.mgmt (h : s.Inv) {m : Mgmt} {borelleOnly inRecovery : Bool} {f : State → MgOut}
    (hf : ∀ s, s.Inv → (f s).2.2.Inv) : (s.mgmt m borelleOnly inRecovery f).Inv :=
  h.ite (.mgReply (.iteOut h (.iteOut h (.iteOut h (hf _ h)))))

theorem State.Inv.execTelem (h : s.Inv) {m : Mgmt} : Keeps (execTelem m s) := .next (h.mgmt fun _ h => .iteOut h h)

theorem State.Inv.execPowerCap (h : s.Inv) {m : Mgmt} : Keeps (execPowerCap m s) :=
  .next (h.mgmt fun _ h => .iteOut h h.modSummit)

theorem State.Inv.fwFinish (h : s.Inv) {b : List Byte} : (s.fwFinish b).2.2.Inv := .iteOut h.modSummit h.modSummit

theorem State.Inv.fwChunk (h : s.Inv) {x : FwXfer} {d : List Byte} : (s.fwChunk x d).2.2.Inv :=
  .iteOut h.fwFinish (h.modSummit.after ..)

theorem State.Inv.execFwUpdate (h : s.Inv) {m : Mgmt} : Keeps (execFwUpdate m s) :=
  .next (h.mgmt fun _ h => .iteOut h (by
    split
    · exact .iteOut h (.iteOut h (.iteOut h.modSummit h.fwChunk))
    · exact .iteOut h (.iteOut h h.fwChunk)))

theorem State.Inv.execFwTransferTimeout (h : s.Inv) : Keeps (execFwTransferTimeout s) :=
  .next h.modSummit

theorem State.Inv.execLogRead (h : s.Inv) {m : Mgmt} : Keeps (execLogRead m s) :=
  .next (h.mgmt fun _ h => .iteOut h (by
    split
    · exact h
    · exact h
    · split <;> exact h))

theorem State.Inv.execAttest (h : s.Inv) {m : Mgmt} : Keeps (execAttest m s) := .next (h.mgmt fun _ h => .iteOut h h)

theorem State.Inv.execKeyset (h : s.Inv) {m : Mgmt} : Keeps (execKeyset m s) :=
  .next (h.mgmt fun _ h => by
    dsimp only
    split
    · split
      · exact h
      · exact .iteOut h.modSummit h
    · exact h)

theorem State.Inv.execSetModule (h : s.Inv) {m : Mgmt} : Keeps (execSetModule m s) :=
  .next (h.mgmt fun _ h => .iteOut h h.modSummit)

theorem State.Inv.execReset (h : s.Inv) {m : Mgmt} : Keeps (execReset m s) := .next (h.mgmt fun _ h => .iteOut h.moduleReset h)

theorem State.Inv.execOwnerSet (h : s.Inv) {m : Mgmt} : Keeps (execOwnerSet m s) :=
  .next (h.mgmt fun _ h => .iteOut h (by
    split
    · exact .iteOut h.modSummit h
    · exact .iteOut h.modSummit h))

/-! ## The privileged view (chapter 18) -/

/-- The state that an outcome goes on in. -/
theorem State.Inv.outState (h : s.Inv) {o : Out1} (ho : Keeps o) : (outState o s).Inv := by
  fun_cases outState
  exacts [ho _ rfl, h]

theorem State.Inv.execCommandStatusPop (h : s.Inv) {die port : ℕ} : Keeps (execCommandStatusPop die port s) := by
  refine .next ?_
  split
  exacts [h.modCport, h]

theorem State.Inv.regRead (h : s.Inv) {a : Agent} {off : ℕ} : ∀ x, s.regRead a off = some x → x.2.Inv := by
  fun_cases State.regRead
  · exact never_some
  · exact h.of_some_snd
  next r =>
    clear_value r
    refine .of_some_snd ?_
    split
    exacts [h.outState h.execCommandStatusPop, h]

theorem State.Inv.issue (h : s.Inv) {die port : ℕ} {v : Word} : (s.issue die port v).Inv := by
  fun_cases State.issue
  exacts [h.modCport.at_ .., h.modCport.reply]

theorem State.Inv.execCctlResume (h : s.Inv) {ea ctx : ℕ} {v : Word} : Keeps (execCctlResume ea ctx v s) :=
  .next h.modCtx

theorem State.Inv.execSvcReplyWrite (h : s.Inv) {ea ctx : ℕ} {v : Word} {die : ℕ} : Keeps (execSvcReplyWrite ea ctx v die s) :=
  .next (h.ite (h.after ..))

theorem State.Inv.gcmd (h : s.Inv) {g : ℕ} {v : Word} : (s.gcmd g v).Inv := by
  fun_cases State.gcmd
  exacts [h.outState h.execGcmdResume, h.outState h.execGcmdRetire, h]

theorem State.Inv.execFullBitSet (h : s.Inv) {stack unit : ℕ} : Keeps (execFullBitSet stack unit s) :=
  .next (h.ite (h.setFull ..).feRelease)

theorem State.Inv.execFullBitClear (h : s.Inv) {stack unit : ℕ} : Keeps (execFullBitClear stack unit s) :=
  .next ((h.setFull ..).feRelease.ite h)

theorem State.Inv.writeFullBits (h : s.Inv) {k w : ℕ} {v : Word} : (s.writeFullBits k w v).Inv :=
  h.foldl _ _ fun _ _ h => h.outState (by split; exacts [h.execFullBitSet, h.execFullBitClear])

theorem State.Inv.writeQctl (h : s.Inv) {q : ℕ} {v : Word} : (s.writeQctl q v).Inv :=
  h.modQueue.outState (by split; exacts [h.modQueue.execQueueEnable, h.modQueue.execQueueDisable])

theorem State.Inv.writeQback (h : s.Inv) {q : ℕ} {v : Word} : (s.writeQback q v).Inv := h.modQueue

theorem State.Inv.writePacket (h : s.Inv) {d j w : ℕ} {v : Word} : (s.writePacket d j w v).Inv := by
  unfold State.writePacket
  exact h.ite (h.frame (by with_reducible rfl))

theorem State.Inv.writeLnkctl (h : s.Inv) {l : ℕ} {v : Word} : (s.writeLnkctl l v).Inv := by
  unfold State.writeLnkctl
  extract_lets rto s1 s2 s3
  have h1 : s1.Inv := h.modXlink.at_ ..
  have h2 : s2.Inv := h1.outState (by split; exacts [h1.execLinkEnable, h1.execLinkDisable])
  have h3 : s3.Inv := (h2.outState h2.execLinkFenceWrite).ite h2
  exact (h3.outState h3.execLinkReset).ite h3

theorem State.Inv.writeWindow (h : s.Inv) {n w : ℕ} {v : Word} : (s.writeWindow n w v).Inv := h

theorem State.Inv.writeDom (h : s.Inv) {n w : ℕ} {v : Word} : (s.writeDom n w v).Inv := h

theorem State.Inv.writeAppend (h : s.Inv) {n w : ℕ} {v : Word} : (s.writeAppend n w v).Inv := by
  fun_cases State.writeAppend
  exacts [h, h.modAppend, h.modAppend, h.outState h.execAppendGo, h, h]

theorem State.Inv.runMgmt (h : s.Inv) {m : Mgmt} : (s.runMgmt m).Inv := by
  fun_cases State.runMgmt
  exacts [h.outState h.execTelem, h.outState h.execPowerCap, h.outState h.execFwUpdate, h.outState h.execLogRead,
    h.outState h.execAttest, h.outState h.execKeyset, h.outState h.execSetModule, h.outState h.execReset, h.outState h.execOwnerSet,
    h.mgReply]

theorem State.Inv.writeMailbox (h : s.Inv) {k w : ℕ} {v : Word} : (s.writeMailbox k w v).Inv := by
  fun_cases State.writeMailbox
  exacts [h, h.modMbox, h.modMbox, h.modMbox.modSummit, h.modMbox, h]

theorem State.Inv.mgTurn (h : s.Inv) : s.mgTurn.Inv := by
  unfold State.mgTurn
  extract_lets s1 s1' s2
  have h1 : s1.Inv := h.modSummit
  have h1' : s1'.Inv := h1.modSummit
  have h2 : s2.Inv := by
    unfold s2
    split
    exacts [(h1'.runMgmt.ite h1'.mgReply).ite h1, h1]
  clear_value s2
  split
  exacts [.modSummit (.frame h2 (by with_reducible rfl)), h2]

theorem State.Inv.summitTurn (h : s.Inv) : s.summitTurn.Inv :=
  (h.mgTurn.outState (h.mgTurn.frame (by with_reducible rfl)).execTelemetrySample).ite h.mgTurn

theorem State.Inv.writeTor (h : s.Inv) {k w : ℕ} {v : Word} : (s.writeTor k w v).Inv := by
  fun_cases State.writeTor
  exacts [h.modBase, h.foldl _ _ fun _ _ h => (h.outState h.execPortOffline).ite h, h.modBase, h]

theorem State.Inv.setReg (h : s.Inv) {a : Agent} {r : PReg} {v : Word} : (s.setReg a r v).Inv := by
  fun_cases State.setReg
  exacts [h.modCport, h.modCport, h.issue, h, h.outState h.execEventQueuePop, h, h.writeQctl, h.writeQback,
    h.frame (by with_reducible rfl), h.writePacket, h.outState h.execPushWrite, h.outState h.execCctlResume,
    h.outState h.execSvcReplyWrite, h.outState h.execPreqWrite, h.gcmd, h.writeLnkctl, h.frame (by with_reducible rfl), h.writeWindow,
    h.writeDom, h.outState h.execPageResume, h.writeAppend, h.writeMailbox, h, h.modMbox, h.writeTor, h, h.writeFullBits, h, h, h, h,
    h, h, h, h, h, h, h, h, h]

theorem State.Inv.regWrite (h : s.Inv) {a : Agent} {off : ℕ} {v : Word} : ∀ t, s.regWrite a off v = some t → t.Inv := by
  fun_cases State.regWrite
  exacts [never_some, h.of_some, h.setReg.of_some]

theorem State.Inv.execRegisterWrite (h : s.Inv) {a : Agent} {off : ℕ} {v : Word} : Keeps (execRegisterWrite a off v s) :=
  .next (h.getD h.regWrite)

theorem State.Inv.windowAccess (h : s.Inv) {k a n : ℕ} {acc : Acc} {v : Word} {piece : Option ℕ} :
    (s.windowAccess k a n acc v piece).Inv :=
  h.bankEnter

theorem State.Inv.execCrestCoreAccess (h : s.Inv) {die core : ℕ} {write : Bool} {addr : ℕ} {bytes : List Byte} :
    Keeps (execCrestCoreAccess die core write addr bytes s) := by
  refine .next (h.ite ?_)
  split
  · refine h.ite ((h.getD h.regWrite).ite (h.getD ?_))
    rintro _ ht
    obtain ⟨x, hx, rfl⟩ := Option.map_eq_some_iff.mp ht
    exact h.regRead x hx
  · exact h
  · exact h.ite h.windowAccess

theorem State.Inv.msgImage (h : s.Inv) {m : Msg} : (s.msgImage m).Inv :=
  h.outState h.execImageLoadRequest

theorem State.Inv.msgEnqueue (h : s.Inv) {m : Msg} : (s.msgEnqueue m).Inv :=
  h.replyTo.ite ((h.frame (by with_reducible rfl)).outState (h.frame (by with_reducible rfl)).execPushWrite).modCore

theorem State.Inv.msgWindow (h : s.Inv) {m : Msg} {a n : ℕ} {acc : Acc} : (s.msgWindow m a n acc).Inv :=
  h.modCore.foldl _ _ fun _ _ h => h.windowAccess

theorem State.Inv.msgRead (h : s.Inv) {m : Msg} : (s.msgRead m).Inv := by
  fun_cases State.msgRead
  exacts [h.replyTo, h.msgWindow]

theorem State.Inv.msgWrite (h : s.Inv) {m : Msg} : (s.msgWrite m).Inv := by
  fun_cases State.msgWrite
  exacts [h.replyTo, h.replyTo, h.msgWindow]

theorem State.Inv.msgRegRead (h : s.Inv) {m : Msg} : (s.msgRegRead m).Inv := by
  fun_cases State.msgRegRead
  next heq =>
    obtain ⟨o, -, ho⟩ := Option.bind_eq_some_iff.mp heq
    exact .replyTo (h.regRead _ ho)
  · exact h.replyTo

theorem State.Inv.msgRegWrite (h : s.Inv) {m : Msg} : (s.msgRegWrite m).Inv := by
  fun_cases State.msgRegWrite
  next heq =>
    obtain ⟨o, -, ho⟩ := Option.bind_eq_some_iff.mp heq
    exact .replyTo (h.regWrite _ ho)
  · exact h.replyTo

theorem State.Inv.msgPreempt (h : s.Inv) {m : Msg} : (s.msgPreempt m).Inv := h.preemptGroup.replyTo

theorem State.Inv.msgDomCreate (h : s.Inv) {m : Msg} : (s.msgDomCreate m).Inv := by
  fun_cases State.msgDomCreate
  exacts [h.replyTo, h.replyTo, (h.frame (by with_reducible rfl)).replyTo]

theorem State.Inv.msgDomDestroy (h : s.Inv) {m : Msg} : (s.msgDomDestroy m).Inv := by
  fun_cases State.msgDomDestroy
  exacts [h.replyTo, h.replyTo, (h.invalidate.frame (by with_reducible rfl)).replyTo]

theorem State.Inv.msgEffect (h : s.Inv) {m : Msg} : (s.msgEffect m).Inv := by
  fun_cases State.msgEffect
  exacts [h.msgImage, h.msgEnqueue, h.msgRead, h.msgWrite, h.msgRegRead, h.msgRegWrite, h.msgPreempt, h.msgDomDestroy, h.msgDomCreate,
    h]

theorem State.Inv.receive (h : s.Inv) {m : Msg} {f : State → State} (hf : ∀ s, s.Inv → (f s).Inv) : (s.receive m f).Inv :=
  h.modCore.ite ((hf _ h).ite h.replyTo)

theorem State.Inv.drainCore (h : s.Inv) {k n : ℕ} : (s.drainCore k n).Inv := by
  fun_induction State.drainCore
  · exact h
  · exact h
  · exact h
  next ih => exact ih (h.modCore.msgEffect.ite h.modCore.replyTo)

theorem State.Inv.answerEnqueue (h : s.Inv) {k : ℕ} : (s.answerEnqueue k).Inv := by
  fun_cases State.answerEnqueue
  exacts [h, h, h.modCore.replyTo, h, h.modCore.replyTo]

theorem State.Inv.serveCores (h : s.Inv) : s.serveCores.Inv :=
  h.foldl _ _ fun _ _ h => h.answerEnqueue.drainCore

theorem State.Inv.execImageLoad (h : s.Inv) {m : Msg} : Keeps (execImageLoad m s) :=
  .next (h.receive fun _ h => h.msgImage)

theorem State.Inv.execEnqueue (h : s.Inv) {m : Msg} : Keeps (execEnqueue m s) :=
  .next (h.receive fun _ h => h.msgEnqueue)

theorem State.Inv.execMemread (h : s.Inv) {m : Msg} : Keeps (execMemread m s) :=
  .next (h.receive fun _ h => h.msgRead)

theorem State.Inv.execMemwrite (h : s.Inv) {m : Msg} : Keeps (execMemwrite m s) :=
  .next (h.receive fun _ h => h.msgWrite)

theorem State.Inv.execRegread (h : s.Inv) {m : Msg} : Keeps (execRegread m s) :=
  .next (h.receive fun _ h => h.msgRegRead)

theorem State.Inv.execRegwrite (h : s.Inv) {m : Msg} : Keeps (execRegwrite m s) :=
  .next (h.receive fun _ h => h.msgRegWrite)

theorem State.Inv.execPreempt (h : s.Inv) {m : Msg} : Keeps (execPreempt m s) :=
  .next (h.receive fun _ h => h.msgPreempt)

theorem State.Inv.execDomainCreate (h : s.Inv) {m : Msg} : Keeps (execDomainCreate m s) :=
  .next (h.receive fun _ h => h.msgDomCreate)

theorem State.Inv.execDomainDestroy (h : s.Inv) {m : Msg} : Keeps (execDomainDestroy m s) :=
  .next (h.receive fun _ h => h.msgDomDestroy)

theorem State.Inv.takePayload (h : s.Inv) {b : List Byte} : (s.takePayload b).Inv := by
  fun_cases State.takePayload
  exacts [h.frame (by with_reducible rfl), h.frame (by with_reducible rfl), h.frame (by with_reducible rfl),
    (h.frame (by with_reducible rfl)).receive fun _ h => h.msgEffect]

theorem State.Inv.takeData (h : s.Inv) {l : ℕ} {b : List Byte} {srcModule : ℕ} {load : FlitLoad} :
    (s.takeData l b srcModule load).Inv :=
  (h.modXlink.linkAck.sendControl.takePayload.ite h.modXlink.linkAck.sendControl).ite h.modXlink.linkAck.sendControl.remoteReply

theorem State.Inv.flitHit (h : s.Inv) {l : ℕ} : (s.flitHit l).2.Inv := by
  fun_cases State.flitHit
  exacts [(h.takeInj.of_snd ‹_›).modDie .., h.takeInj.of_snd ‹_›]

theorem State.Inv.execFlitReceive (h : s.Inv) {l : ℕ} {b : List Byte} {srcModule : ℕ} {load : FlitLoad} :
    Keeps (execFlitReceive l b srcModule load s) := by
  have h' : (s.flitHit l).2.Inv := h.flitHit
  refine .next ?_
  dsimp only
  generalize (s.flitHit l).2 = t at h'
  refine ((h'.outState h'.execFenceFlitReceive).ite h').ite (h'.sendNak.ite ?_)
  split
  exacts [h'.linkAck, (h'.ite h'.sendNak).ite (h'.fenceLink.sendControl.ite h'.takeData), h'.outState h'.execNakReceive,
    h'.outState h'.execFenceFlitReceive, h']

/-! ## The cycle -/

theorem State.Inv.triggerSplice (h : s.Inv) {g : Group} {ea : ℕ} : (s.triggerSplice g ea).Inv :=
  h.ite ((h.at_ ..).ite ((h.at_ ..).ite h))

theorem State.Inv.watch (h : s.Inv) {gn : ℕ} : (s.watch gn).Inv :=
  ((h.setGroup ..).at_ ..).ite (h.setGroup ..)

theorem State.Inv.kernDrains (h : s.Inv) {gn : ℕ} : (s.kernDrains gn).Inv := (h.setGroup ..).ite h

theorem State.Inv.triggerGroup (h : s.Inv) {gn : ℕ} : (s.triggerGroup gn).Inv := by
  unfold State.triggerGroup
  extract_lets s1 g s2 s3 s4
  have h2 : s2.Inv := h.retryInstall.kernDrains.writeHeldRows.watch
  have h3 : s3.Inv := (h2.at_ ..).ite ((h2.at_ ..).ite h2)
  have h4 : s4.Inv := (h3.at_ ..).ite h3
  exact .ite (h4.foldl _ _ fun _ _ h => h.triggerSplice) h4

theorem State.Inv.triggerTags (h : s.Inv) {ea : ℕ} : (s.triggerTags ea).Inv :=
  h.foldl _ _ fun _ _ h => (h.at_ ..).ite h

theorem State.Inv.triggerSchedulers (h : s.Inv) : s.triggerSchedulers.Inv :=
  .ite (h.foldl _ _ fun _ _ h => (h.at_ ..).ite h) h

theorem State.Inv.triggerAppends (h : s.Inv) : s.triggerAppends.Inv :=
  h.foldl _ _ fun _ _ h => (h.outState h.execAppendCommit).ite h

theorem State.Inv.triggers (h : s.Inv) : s.triggers.Inv := by
  unfold State.triggers
  extract_lets s1 s2 s3 s4
  have h1 : s1.Inv := h.foldl _ _ fun _ _ h => h.triggerGroup
  have h2 : s2.Inv := h1.foldl _ _ fun _ _ h => h.triggerTags
  have h3 : s3.Inv := h2.foldl _ _ fun _ _ h => h.engineCycle
  have h4 : s4.Inv := h3.foldl _ _ fun _ _ h => h.tableFlush
  exact h4.triggerSchedulers.triggerAppends.serveCores.retryAnswers.flushHubs.flushNotices.flushCores.summitTurn

theorem State.Inv.beforeEvent (h : s.Inv) {i : Instr} : (s.beforeEvent i).Inv := by
  unfold State.beforeEvent
  refine h.ite ?_
  extract_lets hit
  have hh (array ea entry : ℕ) : (hit array ea entry).Inv := h.getD h.injected
  split
  · exact (hh ..).ite ((hh ..).getD (hh ..).injected)
  · exact (hh ..).ite ((hh ..).ite h)
  · exact (hh ..).ite h
  · exact hh ..
  · exact hh ..
  · exact hh ..
  · exact hh ..
  · exact h

theorem State.Inv.illegalSlot (h : s.Inv) {cu : Cursor} {w : SlotW} {check : ℕ} : (s.illegalSlot cu w check).Inv :=
  h.raiseSync

theorem State.Inv.fetch (h : s.Inv) {cu : Cursor} : ∀ t, s.fetch cu = .inl t → t.Inv := by
  fun_cases State.fetch
  exacts [(h.injected _ ‹_›).of_inl, (h.injected _ ‹_›).of_inl, h.illegalSlot.of_inl, never_inl, h.illegalSlot.of_inl]

theorem State.Inv.popDue (h : s.Inv) : ∀ x, s.popDue = some x → x.2.Inv := by
  fun_cases State.popDue
  exacts [never_some, (h.frame (by with_reducible rfl)).of_some_snd, never_some]

theorem State.Inv.remember (h : s.Inv) : s.remember.Inv := by
  unfold State.remember
  exact (h.frame (by with_reducible rfl)).ite h

theorem State.Inv.advance (h : s.Inv) : s.advance.Inv := by
  fun_cases State.advance
  exacts [h.triggers.frame (by with_reducible rfl), (h.frame (by with_reducible rfl)).remember, h.frame (by with_reducible rfl)]

/-- What the instructions and events do keeps the invariant. -/
theorem State.Inv.exec (h : s.Inv) (i : Instr) : Keeps (exec i s) := by
  cases i with
  | mov => exact h.execMov
  | mov2 => exact h.execMov2
  | sel | add | sub | adds | addus | subs | mul | mulh | mulhu | mac | min | max | minu | maxu | abs | and | or | xor
  | andn | shl | shr | sar | rol | clz | ctz | popc | bext | bins | addW2 | subW2 | mulW2 | minW2 | maxW2 | addsW2
  | idot8 | idot8u | ceq | cne | clt | cle | cltu | cleu | ctst | cz | faddS2 | fsubS2 | fmulS2 | fmaS2 | fminS2
  | fmaxS2 | frcpeS2 | frsqeS2 | fceqS2 | fcltS2 | fcleS2 | fclassS2 | frndS2 | faddH4 | fsubH4 | fmulH4 | fmaH4
  | fminH4 | fmaxH4 | fdotwH4 | fdotwQ8 | fsumS2 | cvtSI | cvtIS | packBf | unpkBfLo | unpkBfHi | packE4 | packE5
  | unpkE4Lo | unpkE4Hi | unpkE5Lo | unpkE5Hi | packF16 | unpkF16Lo | unpkF16Hi | qntI8 | deqI8Lo => exact .next h.fireAlu
  | steer => exact h.execSteer
  | sendeos | pooln | chst | rdcnt | rdflg | hstat | tlook | mls => exact .next (h.fireWith fun _ _ _ _ h => h.deliver)
  | halt => exact h.execHalt
  | exit | ctag | clrflg | sbar => exact .next (h.fireWith fun _ _ _ _ h => h.modCtx)
  | pset | pclr | pmov => exact .next (h.fireWith fun _ _ _ _ h => h.writePreds)
  | drop => exact h.execDrop
  | divu | remu => exact .next h.fireDiv
  | lea => exact h.execLea
  | spawn => exact h.execSpawn
  | tfree => exact h.execTfree
  | join => exact h.execJoin
  | spill => exact h.execSpill
  | fill => exact h.execFill
  | rdsr => exact h.execRdsr
  | wrsr => exact h.execWrsr
  | setsc | tins => exact .next (h.fireWith fun _ _ _ _ h => h.modElem ..)
  | ld | st | lde | stf | amo | cas => exact .next h.fireRequest
  | gat | sca | qry | qabort => exact .next h.fireEngine
  | copy => exact h.execCopy
  | ccan => exact h.execCcan
  | barArv | barDrop => exact .next h.fireArrive
  | barInit => exact h.execBarInit
  | barQ => exact h.execBarQ
  | qpush => exact h.execQpush
  | trap => exact h.execTrap
  | brk => exact h.execBrk
  | migr => exact h.execMigr
  | tinval => exact h.execTinval
  | svc => exact h.execSvc
  | sld | sst | samo => exact .next h.fireLocal
  | hacq => exact h.execHacq
  | hcommit => exact h.execHcommit
  | hread => exact h.execHread
  | hrel => exact h.execHrel
  | tevict => exact h.execTevict
  | gen | genp => exact .next h.fireGen
  | isect | merge | topk | prune | redc => exact .next h.fireStream
  | mldB | mldBs => exact .next h.fireMld
  | mrow => exact h.execMrow
  | mcfg => exact h.execMcfg
  | mdrain => exact h.execMdrain
  | mclr => exact h.execMclr
  | cfgwEcw | cfgwGuard | cfgwAction | cfgwLiteral | cfgwChannel | cfgwRouteHeader | cfgwRouteTarget | cfgwMeBinding
  | cfgwHandleRecord => exact .next h.cfgw
  | cfgwPartition => exact h.execCfgwPartition
  | cfgwBarrierInit => exact h.execCfgwBarrierInit
  | cfgwWaiterTarget => exact h.execCfgwWaiterTarget
  | cfgwTagPool => exact h.execCfgwTagPool
  | partialReconfigInstall => exact h.execPartialReconfigInstall
  | cfgswapSwap => exact h.execCfgswapSwap
  | cfgswapSplice => exact h.execCfgswapSplice
  | cfgswapClear => exact h.execCfgswapClear
  | errinj => exact h.execErrinj
  | errinjDisarm => exact h.execErrinjDisarm
  | errlogRemoveOldest | errlogClearAll => exact .next h.errlog
  | ptroot => exact h.execPtroot
  | packCommit => exact h.execPackCommit
  | packCancel => exact h.execPackCancel
  | resultDelivery => exact h.execResultDelivery
  | channelWordArrival => exact h.execChannelWordArrival
  | creditReturn => exact h.execCreditReturn
  | routerArbitration => exact h.execRouterArbitration
  | tagRequest => exact h.execTagRequest
  | tagGrant => exact h.execTagGrant
  | tagCreditArrival => exact h.execTagCreditArrival
  | tagReleaseArrival => exact h.execTagReleaseArrival
  | bankService => exact h.execBankService
  | handleFullAfterCommit => exact h.execHandleFullAfterCommit
  | operatorInput => exact h.execOperatorInput
  | operatorEnd => exact h.execOperatorEnd
  | meQueueFill => exact h.execMeQueueFill
  | meRowReadServed => exact h.execMeRowReadServed
  | mePlaneRead => exact h.execMePlaneRead
  | mePlaneReady => exact h.execMePlaneReady
  | meRowLand => exact h.execMeRowLand
  | meOutputRowWrite => exact h.execMeOutputRowWrite
  | meNotice => exact h.execMeNotice
  | requestCreditReturn => exact h.execRequestCreditReturn
  | tlbLookup => exact h.execTlbLookup
  | tlbWalk => exact h.execTlbWalk
  | requestPerform => exact h.execRequestPerform
  | feService => exact h.execFeService
  | replyArrival => exact h.execReplyArrival
  | ackArrival => exact h.execAckArrival
  | orderTokenArrival => exact h.execOrderTokenArrival
  | joinWordEntry => exact h.execJoinWordEntry
  | genElementIssue => exact h.execGenElementIssue
  | genStreamEnd => exact h.execGenStreamEnd
  | copyFlowTake => exact h.execCopyFlowTake
  | ringBindArrival => exact h.execRingBindArrival
  | permitArrival => exact h.execPermitArrival
  | copyGranule => exact h.execCopyGranule
  | copyComplete => exact h.execCopyComplete
  | ccanAtHub => exact h.execCcanAtHub
  | barrierMessageArrival => exact h.execBarrierMessageArrival
  | completePhase => exact h.execCompletePhase
  | tinvalAck => exact h.execTinvalAck
  | qpushEntry => exact h.execQpushEntry
  | enqueueEntry => exact h.execEnqueueEntry
  | schedulerDecision =>
    unfold Sys2Proof.Machine.exec
    exact h.execSchedulerDecision
  | launchStart => exact h.execLaunchStart
  | launchComplete => exact h.execLaunchComplete
  | signalUpdate => exact h.execSignalUpdate
  | imageLoadRequest => exact h.execImageLoadRequest
  | spliceSwap => exact h.execSpliceSwap
  | spliceSettled => exact h.execSpliceSettled
  | kernelComplete => exact h.execKernelComplete
  | groupStall => exact h.execGroupStall
  | quiescence => exact h.execQuiescence
  | fenceArrival => exact h.execFenceArrival
  | faultRecordArrival => exact h.execFaultRecordArrival
  | svcReplyDelivery => exact h.execSvcReplyDelivery
  | migrationStart => exact h.execMigrationStart
  | migrationCommit => exact h.execMigrationCommit
  | queryAccept => exact h.execQueryAccept
  | queryAdmit => exact h.execQueryAdmit
  | queryStep => exact h.execQueryStep
  | queryComplete => exact h.execQueryComplete
  | qabortArrival => exact h.execQabortArrival
  | screeGather | screeScatter => exact .next h.screeTurn
  | imageLoad => exact h.execImageLoad
  | enqueue => exact h.execEnqueue
  | memread => exact h.execMemread
  | memwrite => exact h.execMemwrite
  | regread => exact h.execRegread
  | regwrite => exact h.execRegwrite
  | preempt => exact h.execPreempt
  | domainCreate => exact h.execDomainCreate
  | domainDestroy => exact h.execDomainDestroy
  | telem => exact h.execTelem
  | powerCap => exact h.execPowerCap
  | fwUpdate => exact h.execFwUpdate
  | logRead => exact h.execLogRead
  | attest => exact h.execAttest
  | keyset => exact h.execKeyset
  | setModule => exact h.execSetModule
  | reset => exact h.execReset
  | ownerSet => exact h.execOwnerSet
  | pushWrite => exact h.execPushWrite
  | queueEnable =>
    unfold Sys2Proof.Machine.exec
    exact h.execQueueEnable
  | queueDisable =>
    unfold Sys2Proof.Machine.exec
    exact h.execQueueDisable
  | preqWrite => exact h.execPreqWrite
  | gcmdResume => exact h.execGcmdResume
  | gcmdRetire => exact h.execGcmdRetire
  | cctlResume => exact h.execCctlResume
  | svcReplyWrite => exact h.execSvcReplyWrite
  | pageResume => exact h.execPageResume
  | eventQueuePop => exact h.execEventQueuePop
  | commandStatusPop => exact h.execCommandStatusPop
  | fullBitSet => exact h.execFullBitSet
  | fullBitClear => exact h.execFullBitClear
  | appendGo => exact h.execAppendGo
  | linkEnable => exact h.execLinkEnable
  | linkDisable => exact h.execLinkDisable
  | linkFenceWrite => exact h.execLinkFenceWrite
  | linkReset => exact h.execLinkReset
  | registerWrite => exact h.execRegisterWrite
  | fwTransferTimeout => exact h.execFwTransferTimeout
  | preemptTimeout => exact h.execPreemptTimeout
  | linkDownRetry => exact h.execLinkDownRetry
  | remoteTimeout => exact h.execRemoteTimeout
  | stackReadyTimeout => exact h.execStackReadyTimeout
  | telemetrySample => exact h.execTelemetrySample
  | clockThrottle => exact h.execClockThrottle
  | powerOn => exact h.execPowerOn
  | bringupStageEnd => exact h.execBringupStageEnd
  | torReady => exact h.execTorReady
  | crestCoreAccess => exact h.execCrestCoreAccess
  | portOffline => exact h.execPortOffline
  | savedGroupDiscard => exact h.execSavedGroupDiscard
  | groupRelease => exact h.execGroupRelease
  | crestCoreAvailability => exact h.execCrestCoreAvailability
  | scrub => exact h.execScrub
  | machineCheck => exact h.execMachineCheck
  | preemptRequest => exact h.execPreemptRequest
  | deferFreeze =>
    unfold Sys2Proof.Machine.exec
    exact h.execDeferFreeze
  | restore => exact h.execRestore
  | groupRetire => exact h.execGroupRetire
  | remoteBatch => exact h.execRemoteBatch
  | nakReceive => exact h.execNakReceive
  | trainingEnd => exact h.execTrainingEnd
  | linkRetrain => exact h.execLinkRetrain
  | fenceFlitReceive => exact h.execFenceFlitReceive
  | linkFenced => exact h.execLinkFenced
  | remoteRequestArrival => exact h.execRemoteRequestArrival
  | flitReceive => exact h.execFlitReceive
  | appendCommit => exact h.execAppendCommit

/-! ## The step -/

theorem State.Inv.fire (h : s.Inv) {cu : Cursor} : Keeps (s.fire cu) := by
  unfold State.fire
  split
  exacts [.next (h.fetch _ ‹_›), h.exec _]

theorem State.Inv.runEvent (h : s.Inv) {i : Instr} : Keeps (State.runEvent i s) := h.beforeEvent.exec i

theorem State.Inv.stepOnce (h : s.Inv) : Keeps s.stepOnce := by
  unfold State.stepOnce
  split
  · exact State.Inv.fire (h.frame (by with_reducible rfl))
  · split
    exacts [(h.popDue _ ‹_›).runEvent, .next h.advance]

/-- Settles O59: every write of memory and of the table of elements is a write, a map or a filter of a table, and each of these
keeps its canonical form; so every instruction, every event and every part of a cycle keeps it. -/
theorem everyStepKeepsTheInvariant : Obligations.EveryStepKeepsTheInvariant := by
  unfold Obligations.EveryStepKeepsTheInvariant
  exact fun _ t h e => h.stepOnce t e

end Sys2Proof.Machine
end

section
/-! SUPPORT. Commands, messages and management commands come back from their bytes (R279, R400, R428). Settles O56. -/

namespace Sys2Proof

/-! ## Fields in their order -/

/-- A field that stands behind other bytes is found from their end. -/
theorem wAt_skip {w o n : Nat} (bs cs : List Byte) (h : bs.length ≤ o) : wAt w (bs ++ cs) o n = wAt w cs (o - bs.length) n := by
  rw [wAt, wAt, leAt, leAt, List.drop_append, List.drop_eq_nil_of_le h, List.nil_append]

theorem leAt_skip {o n : Nat} (bs cs : List Byte) (h : bs.length ≤ o) : leAt (bs ++ cs) o n = leAt cs (o - bs.length) n := by
  rw [leAt, leAt, List.drop_append, List.drop_eq_nil_of_le h, List.nil_append]

/-- A word of `8 n` bits comes back from the field that stands first. -/
theorem wAt_head {w n : Nat} (x : BitVec w) (cs : List Byte) (hw : 2 ^ w = 256 ^ n) : wAt w (leBytes n x.toNat ++ cs) 0 n = x :=
  wAt_field [] cs rfl rfl hw

theorem wAt_last {w n : Nat} (x : BitVec w) (hw : 2 ^ w = 256 ^ n) : wAt w (leBytes n x.toNat) 0 n = x :=
  wAt_field [] [] (List.append_nil _).symm rfl hw

theorem leAt_cons {o n : Nat} (b : Byte) (bs : List Byte) (h : 1 ≤ o) : leAt (b :: bs) o n = leAt bs (o - 1) n :=
  leAt_skip [b] bs h

theorem wAt_cons {w o n : Nat} (b : Byte) (bs : List Byte) (h : 1 ≤ o) : wAt w (b :: bs) o n = wAt w bs (o - 1) n :=
  wAt_skip [b] bs h

theorem wAt_byte (b : Byte) (cs : List Byte) : wAt 8 (b :: cs) 0 1 = b := by
  simp [wAt, leAt, leNat]

theorem leAt_head (n v : Nat) (cs : List Byte) : leAt (leBytes n v ++ cs) 0 n = v % 256 ^ n := leAt_field [] cs rfl rfl

/-! ## Commands (R279) -/

@[simp] theorem length_encodeCmd (c : Cmd) : (encodeCmd c).length = 24 := by simp [encodeCmd]

theorem decodeCommandBytes_encodeCmd (c : Cmd) : decodeCommandBytes c.die c.port (encodeCmd c) = decodeCmd c := by
  have haction : wAt 32 (encodeCmd c) 0 4 = c.action := by simp [encodeCmd, wAt_head]
  have hrsv : wAt 32 (encodeCmd c) 4 4 = c.rsv := by simp [encodeCmd, wAt_skip, wAt_head]
  have haddr : wAt 64 (encodeCmd c) 8 8 = c.addr := by simp [encodeCmd, wAt_skip, wAt_head]
  have hvalue : wAt 64 (encodeCmd c) 16 8 = c.value := by simp [encodeCmd, wAt_skip, wAt_last]
  simp [decodeCommandBytes, haction, hrsv, haddr, hvalue]

/-! ## Messages (R400) -/

@[simp] theorem length_msgHeader (m : Msg) : (msgHeader m).length = 32 := by simp [msgHeader]

/-- A message takes its header and its payload, filled up to a multiple of 8 bytes. -/
theorem length_encodeMsg (m : Msg) : (encodeMsg m).length = 32 + (m.payload.length + 7) / 8 * 8 := by
  simp only [encodeMsg, List.length_append, length_msgHeader, List.length_replicate]
  omega

/-- Its header gives the fields and the length of the payload, which stands behind it. -/
theorem msgOfBytes_encodeMsg {m : Msg} (h : m.payload.length < 2 ^ 32) : msgOfBytes (encodeMsg m) = some m := by
  have htype : wAt 16 (encodeMsg m) 0 2 = m.type := by simp [encodeMsg, msgHeader, wAt_head]
  have hcore : wAt 8 (encodeMsg m) 2 1 = m.core := by simp [encodeMsg, msgHeader, wAt_skip, wAt_byte]
  have hrsv : wAt 8 (encodeMsg m) 3 1 = m.rsv := by simp [encodeMsg, msgHeader, wAt_skip, wAt_cons, wAt_byte]
  have hlen : leAt (encodeMsg m) 4 4 = m.payload.length := by
    simp [encodeMsg, msgHeader, leAt_skip, leAt_cons, leAt_head]
    omega
  have htag : wAt 64 (encodeMsg m) 8 8 = m.tag := by simp [encodeMsg, msgHeader, wAt_skip, wAt_cons, wAt_head]
  have hdom : wAt 16 (encodeMsg m) 16 2 = m.dom := by simp [encodeMsg, msgHeader, wAt_skip, wAt_cons, wAt_head]
  have hgrp : wAt 16 (encodeMsg m) 18 2 = m.grp := by simp [encodeMsg, msgHeader, wAt_skip, wAt_cons, wAt_head]
  have harg0 : wAt 32 (encodeMsg m) 20 4 = m.arg0 := by simp [encodeMsg, msgHeader, wAt_skip, wAt_cons, wAt_head]
  have harg1 : wAt 64 (encodeMsg m) 24 8 = m.arg1 := by simp [encodeMsg, msgHeader, wAt_skip, wAt_cons, wAt_head]
  have hpayload : ((encodeMsg m).drop 32).take m.payload.length = m.payload := by
    rw [encodeMsg, List.append_assoc, List.drop_left' (length_msgHeader m), List.take_left]
  have hlong : ¬ (encodeMsg m).length < 32 + m.payload.length := by rw [length_encodeMsg]; omega
  have hshort : ¬ (encodeMsg m).length < 32 := by omega
  simp [msgOfBytes, htype, hcore, hrsv, hlen, htag, hdom, hgrp, harg0, harg1, hpayload, hlong, hshort]

/-! ## Management commands (R428) -/

theorem length_encodeMgmt (m : Mgmt) : (encodeMgmt m).length = 24 + m.data.length := by
  simp [encodeMgmt]; omega

/-- A command of the Borelle port comes back from its bytes. -/
theorem decodeMgmtBytes_encodeMgmt {m : Mgmt} (hport : m.mailbox = none) (h : m.data.length < 2 ^ 32) :
    decodeMgmtBytes (encodeMgmt m) = decodeMgmt m := by
  have hcode : wAt 8 (encodeMgmt m) 0 1 = m.code := by simp [encodeMgmt, wAt_byte]
  have hrsv : wAt 8 (encodeMgmt m) 1 1 = m.rsv := by simp [encodeMgmt, wAt_cons, wAt_byte]
  have htag : wAt 16 (encodeMgmt m) 2 2 = m.tag := by simp [encodeMgmt, wAt_cons, wAt_head]
  have hlen : leAt (encodeMgmt m) 4 4 = m.data.length := by
    simp [encodeMgmt, leAt_skip, leAt_cons, leAt_head]
    omega
  have harg0 : wAt 64 (encodeMgmt m) 8 8 = m.arg0 := by simp [encodeMgmt, wAt_skip, wAt_cons, wAt_head]
  have harg1 : wAt 64 (encodeMgmt m) 16 8 = m.arg1 := by simp [encodeMgmt, wAt_skip, wAt_cons, wAt_head]
  have hdata : ((encodeMgmt m).drop 24).take m.data.length = m.data := by
    rw [encodeMgmt, List.drop_left' (by simp), List.take_length]
  simp [decodeMgmtBytes, hcode, hrsv, htag, hlen, harg0, harg1, hdata, length_encodeMgmt, ← hport]

/-- Settles O56: each record comes back from its bytes field by field, so that its bytes decode as it does. -/
theorem commandsAndMessagesDecodeAsEncoded : Obligations.CommandsAndMessagesDecodeAsEncoded := by
  unfold Obligations.CommandsAndMessagesDecodeAsEncoded
  refine ⟨fun i c _ hi => ?_, fun i m _ hi hlen => ⟨?_, length_encodeMsg m⟩, fun i m _ hi hport hlen => ?_⟩
  · rw [decodeCommandBytes_encodeCmd, hi]
  · rw [decodeMessageBytes, msgOfBytes_encodeMsg (by omega)]
    exact hi
  · rw [decodeMgmtBytes_encodeMgmt hport (by omega), hi]

end Sys2Proof
end

section
/-! SUPPORT. How groups end (R296, R305, R405, Tables 12-1 and 13-7): what is in flight ends, planes and hubs are cleared, the number is
free again, and the launch goes on to its end. Settles O37. -/

namespace Sys2Proof.Machine

/-! ## Launch records -/

/-- The launch of a number reads as it was changed to, where the change keeps its number. -/
theorem State.launch_modLaunch {s : State} {lid : Nat} {l : Launch} {f : Launch → Launch} (hl : s.launch lid = some l)
    (hf : ∀ x, x.lid = lid → (f x).lid = lid) : (s.modLaunch lid f).launch lid = some (f l) := by
  have hnumber : l.lid = lid := by simpa using List.find?_some hl
  have hfind : ((fun x : Launch => x.lid == lid) ∘ fun x => if x.lid == lid then f x else x) = fun x => x.lid == lid := by
    funext x
    by_cases hx : x.lid = lid
    · simp [hx, hf x hx]
    · simp [hx]
  rw [State.launch] at hl
  simp only [State.modLaunch, State.launch, List.find?_map, hfind, hl, Option.map_some, hnumber, beq_self_eq_true, if_true]

/-! ## What is in flight -/

/-- Nothing but what is in flight has changed, and the hubs through which it goes. -/
def inFlightOnly (s t : State) : Prop :=
  t = { s with
    agenda := t.agenda, banks := t.banks, links := t.links, slices := t.slices, hubs := t.hubs, defers := t.defers
    remotes := t.remotes, reads := t.reads, tinvs := t.tinvs, engines := t.engines }

theorem inFlightOnly.refl (s : State) : inFlightOnly s s := rfl

theorem inFlightOnly.trans {s t u : State} (h : inFlightOnly s t) (k : inFlightOnly t u) : inFlightOnly s u := by
  unfold inFlightOnly at *
  rw [k, h]

theorem inFlightOnly_admitNext (s : State) (ks : List Nat) : inFlightOnly s (s.admitNext ks) :=
  State.foldl_keeps (inFlightOnly s) _ _ (fun u k h => h.trans (by unfold State.screeWake; split <;> rfl)) (.refl s)

theorem inFlightOnly_purge (s : State) (gn : Nat) : inFlightOnly s (s.purge gn) :=
  inFlightOnly.trans (t := { s with
    agenda := _, banks := _, links := _, slices := _, hubs := _, defers := _, remotes := _, reads := _, tinvs := _, engines := _ })
    rfl (inFlightOnly_admitNext ..)

theorem inFlightOnly_freeHubs (s : State) (g : Group) : inFlightOnly s (s.freeHubs g) := rfl

/-! ## What the end of a group leaves alone -/

/-- What the end of group `gn` leaves alone: memory with its marks, the other groups, the launches, the clock. -/
structure groupFrame (s t : State) (gn : Nat) : Prop where
  memory : sameMemory s t
  groups : ∀ n, n ≠ gn → t.group n = s.group n
  launches : t.launches = s.launches
  now : t.now = s.now

theorem groupFrame.trans {s t u : State} {gn : Nat} (h : groupFrame s t gn) (k : groupFrame t u gn) : groupFrame s u gn :=
  ⟨h.memory.trans k.memory, fun n hn => (k.groups n hn).trans (h.groups n hn), k.launches.trans h.launches, k.now.trans h.now⟩

theorem groupFrame.refl (s : State) (gn : Nat) : groupFrame s s gn := ⟨sameMemory_of rfl rfl rfl, fun _ _ => rfl, rfl, rfl⟩

theorem inFlightOnly.groupFrame {s t : State} (h : inFlightOnly s t) (gn : Nat) : groupFrame s t gn := by
  rw [h]
  exact ⟨sameMemory_of rfl rfl rfl, fun _ _ => rfl, rfl, rfl⟩

theorem groupFrame_setGroup (s : State) (gn : Nat) (g : Group) : groupFrame s (s.setGroup gn g) gn :=
  ⟨sameMemory_of rfl rfl rfl, fun _ hn => State.group_setGroup_ne _ _ _ _ hn, rfl, rfl⟩

/-! ## Planes and hubs of a group that ends -/

/-- The work of a group has ended: nothing of it is in flight, its planes are cleared, its hubs are free. -/
def State.workEnded (s : State) (gn : Nat) : State := ((s.purge gn).clearPlanes (s.group gn)).freeHubs (s.group gn)

theorem groupFrame_workEnded (s : State) (gn : Nat) : groupFrame s (s.workEnded gn) gn :=
  ((inFlightOnly_purge s gn).groupFrame gn).trans (t := s.purge gn)
    ⟨sameMemory_of rfl rfl rfl, fun _ _ => rfl, rfl, rfl⟩

/-- A table of canonical form reads the default below its keys. -/
theorem tget_of_tabove {α : Type} [DecidableEq α] {d : α} {k : Nat} {m : Map α} (hk : tabove k m = true) (hm : twf d m = true) :
    tget d k m = d := by
  induction m with
  | nil => rfl
  | cons p m ih =>
    obtain ⟨k', v⟩ := p
    obtain ⟨_, habove, hwf⟩ := twf_cons.mp hm
    simp only [tabove, decide_eq_true_eq] at hk
    rw [tget, if_neg (by simp; omega), ih (tabove_trans hk.le habove) hwf]

/-- On a table of canonical form, a change of every entry that keeps the default acts on what each key reads. -/
theorem tget_tmap {α : Type} [DecidableEq α] {d : α} {f : Nat → α → α} {m : Map α} (hm : twf d m = true) (k : Nat)
    (hd : f k d = d) : tget d k (tmap d f m) = f k (tget d k m) := by
  induction m with
  | nil => exact hd.symm
  | cons p m ih =>
    obtain ⟨k', v⟩ := p
    obtain ⟨_, habove, hwf⟩ := twf_cons.mp hm
    have ih := ih hwf
    simp only [tmap] at ih
    by_cases hk : k = k'
    · subst hk
      have hrest : f k (tget d k m) = d := by rw [tget_of_tabove habove hwf, hd]
      by_cases hv : f k v = d
      · simp [tmap, tget, hv, ih, hrest]
      · simp [tmap, tget, hv]
    · by_cases hv : f k' v = d <;> simp [tmap, tget, hv, hk, ih]

theorem Elem.cleared_zero : Elem.zero.cleared = .zero := by decide

/-- The elements of the group are cleared, and no others. -/
theorem State.elem_workEnded {s : State} (h : s.Inv) (gn ea : Nat) :
    (s.workEnded gn).elem ea = if (s.group gn).covers ea = true then (s.elem ea).cleared else s.elem ea := by
  have helems : (s.purge gn).elems = s.elems := by rw [inFlightOnly_purge s gn]
  simp only [State.workEnded, State.elem, State.freeHubs, State.clearPlanes, helems]
  exact tget_tmap h.2 ea (by simp [Elem.cleared_zero])

/-! ## Release (Table 12-1) -/

theorem State.releaseGroup_held {s : State} {gn : Nat} (hfree : (s.group gn).st ≠ .free) (hsaved : (s.group gn).st ≠ .saved) :
    s.releaseGroup gn = (s.workEnded gn).setGroup gn .zero := by
  simp [State.releaseGroup, State.workEnded, hfree, hsaved]

theorem State.releaseGroup_saved {s : State} {gn : Nat} (h : (s.group gn).st = .saved) : s.releaseGroup gn = s.setGroup gn .zero := by
  simp [State.releaseGroup, h]

/-- A release leaves the group FREE, and the rest as the end of a group does. -/
theorem State.releaseGroup_frees (s : State) (gn : Nat) :
    ((s.releaseGroup gn).group gn).st = .free ∧ groupFrame s (s.releaseGroup gn) gn := by
  by_cases hfree : (s.group gn).st = .free
  · rw [show s.releaseGroup gn = s by simp [State.releaseGroup, hfree]]
    exact ⟨hfree, .refl ..⟩
  · by_cases hsaved : (s.group gn).st = .saved
    · rw [State.releaseGroup_saved hsaved, State.group_setGroup_same]
      exact ⟨rfl, groupFrame_setGroup ..⟩
    · rw [State.releaseGroup_held hfree hsaved, State.group_setGroup_same]
      exact ⟨rfl, (groupFrame_workEnded ..).trans (groupFrame_setGroup ..)⟩

/-! ## The launch that a group runs (Table 13-7) -/

theorem State.endLaunch_none {u : State} {gn : Nat} (h : (u.group gn).lid = none) (fail : Bool) (code : Nat) :
    u.endLaunch gn fail code = u := by
  simp only [State.endLaunch, h]

theorem State.endLaunch_some {u : State} {gn lid : Nat} (h : (u.group gn).lid = some lid) (fail : Bool) (code : Nat) :
    u.endLaunch gn fail code = ((u.releaseGroup gn).modLaunch lid (fun l =>
      { l with fail := l.fail || fail, code := if fail then code else l.code })).at_ u.now (.launchComplete lid) := by
  simp only [State.endLaunch, h]

/-- The event leaves a group without a launch RETIRED, and any other FREE with its launch at its end. -/
def endsGroup (s : State) (gn : Nat) (i : Instr) : Prop :=
  ((s.group gn).lid = none → gives i s (fun t => (t.group gn).st = .retired ∧ (t.group gn).kern.st = .retired ∧ sameMemory s t ∧
    ∀ n, n ≠ gn → t.group n = s.group n)) ∧
  (∀ lid, (s.group gn).lid = some lid → gives i s (fun t => (t.group gn).st = .free ∧ t.awaits s.now (.launchComplete lid) ∧
    sameMemory s t ∧ ∀ n, n ≠ gn → t.group n = s.group n))

/-- With its group RETIRED and the rest left alone, a launch goes on to its end. -/
theorem endsGroup_of_endLaunch {s u : State} {gn : Nat} {i : Instr} {fail : Bool} {code : Nat} (hu : groupFrame s u gn)
    (hst : (u.group gn).st = .retired) (hkern : (u.group gn).kern.st = .retired) (hlid : (u.group gn).lid = (s.group gn).lid)
    (hi : exec i s = .next (u.endLaunch gn fail code)) : endsGroup s gn i := by
  refine ⟨fun hnone => ⟨u, ?_, hst, hkern, hu.memory, hu.groups⟩, fun lid hsome => ?_⟩
  · rw [hi, State.endLaunch_none (hlid.trans hnone)]
  · obtain ⟨hfree, hrel⟩ := u.releaseGroup_frees gn
    have hframe := hu.trans hrel
    rw [State.endLaunch_some (hlid.trans hsome), hu.now] at hi
    exact ⟨_, hi, hfree, State.awaits_at .., hframe.memory, hframe.groups⟩

/-! ## Kernels complete and groups QUIESCENT (R296, R305) -/

/-- The state in which a group is RETIRED with its kernel complete. -/
def State.kernelOver (s : State) (gn : Nat) : State :=
  let g := s.group gn
  ({ s.freeHubs g with defers := s.defers.filter (fun r => r.grp != gn) } : State).setGroup gn
    { g with st := .retired, kern := { g.kern with st := .retired }, frozen := none, preq := none }

theorem State.completeGroup_eq (s : State) (gn : Nat) : s.completeGroup gn = (s.kernelOver gn).endLaunch gn false 0 := rfl

theorem endsGroup_of_completeGroup {s : State} {gn : Nat} {i : Instr} (hi : exec i s = .next (s.completeGroup gn)) :
    endsGroup s gn i := by
  have hgroup : (s.kernelOver gn).group gn = { s.group gn with
      st := .retired, kern := { (s.group gn).kern with st := .retired }, frozen := none, preq := none } := State.group_setGroup_same ..
  have hframe : groupFrame s (s.kernelOver gn) gn :=
    (inFlightOnly.groupFrame (s := s) (t := { s.freeHubs (s.group gn) with defers := s.defers.filter (fun r => r.grp != gn) }) rfl gn).trans
      (groupFrame_setGroup ..)
  refine endsGroup_of_endLaunch hframe ?_ ?_ ?_ (hi.trans (congrArg _ (s.completeGroup_eq gn))) <;> rw [hgroup]

theorem exec_kernelComplete {s : State} {gn : Nat} (hst : (s.group gn).st = .live) (hkern : (s.group gn).kern.st = .draining) :
    exec (.kernelComplete gn) s = .next (s.completeGroup gn) := by
  change execKernelComplete gn s = _
  simp [execKernelComplete, hst, hkern]

theorem exec_quiescence_exited {s : State} {gn : Nat} (hst : (s.group gn).st = .draining) (hall : s.allExited (s.group gn) = true) :
    exec (.quiescence gn) s = .next (s.completeGroup gn) := by
  change execQuiescence gn s = _
  simp [execQuiescence, hst, hall]

theorem exec_quiescence {s : State} {gn : Nat} (hst : (s.group gn).st = .draining) (hall : s.allExited (s.group gn) = false) :
    exec (.quiescence gn) s = .next (s.setGroup gn { s.group gn with
      st := .quiescent, preq := none, kern := { (s.group gn).kern with st := .quiescent } }) := by
  change execQuiescence gn s = _
  simp [execQuiescence, hst, hall]

/-! ## Groups FENCED (R405) -/

/-- The state in which a FENCED group is RETIRED. -/
def State.fencedRetired (s : State) (gn : Nat) : State :=
  (s.workEnded gn).setGroup gn { s.group gn with
    st := .retired, kern := { (s.group gn).kern with st := .retired }, succ := .zero, armed := false, fencedTiles := [], frozen := none,
    preq := none, heldData := [], rowData := [] }

theorem State.retireGroup_fenced {s : State} {gn : Nat} (h : (s.group gn).st = .fenced) :
    s.retireGroup gn = (s.fencedRetired gn).endLaunch gn true ((s.group gn).firstFault.getD 0) := by
  simp [State.retireGroup, State.fencedRetired, State.workEnded, h]

theorem State.retireGroup_other {s : State} {gn : Nat} (h : (s.group gn).st ≠ .fenced) : s.retireGroup gn = s := by
  simp [State.retireGroup, h]

theorem groupFrame_fencedRetired (s : State) (gn : Nat) : groupFrame s (s.fencedRetired gn) gn :=
  (groupFrame_workEnded ..).trans (groupFrame_setGroup ..)

theorem State.group_fencedRetired (s : State) (gn : Nat) : (s.fencedRetired gn).group gn = { s.group gn with
    st := .retired, kern := { (s.group gn).kern with st := .retired }, succ := .zero, armed := false, fencedTiles := [], frozen := none,
    preq := none, heldData := [], rowData := [] } := State.group_setGroup_same ..

section
variable {s : State} {gn : Nat} {i : Instr} (hst : (s.group gn).st = .fenced) (hi : exec i s = .next (s.retireGroup gn))
include hst hi

theorem endsGroup_of_retireGroup : endsGroup s gn i := by
  refine endsGroup_of_endLaunch (groupFrame_fencedRetired s gn) ?_ ?_ ?_ (hi.trans (congrArg _ (State.retireGroup_fenced hst))) <;>
    rw [State.group_fencedRetired]

/-- The launch of a FENCED group fails with the CODE of the group's first fault. -/
theorem gives_retireGroup_fails {lid : Nat} {l : Launch} (hlid : (s.group gn).lid = some lid) (hl : s.launch lid = some l) :
    gives i s (fun t => t.launch lid = some { l with fail := true, code := (s.group gn).firstFault.getD 0 } ∧
      t.awaits s.now (.launchComplete lid)) := by
  have hframe := (groupFrame_fencedRetired s gn).trans ((s.fencedRetired gn).releaseGroup_frees gn).2
  have hrel : ((s.fencedRetired gn).releaseGroup gn).launch lid = some l := by rw [State.launch, hframe.launches]; exact hl
  have hgroup : ((s.fencedRetired gn).group gn).lid = some lid := by rw [State.group_fencedRetired]; exact hlid
  rw [State.retireGroup_fenced hst, State.endLaunch_some hgroup, (groupFrame_fencedRetired s gn).now] at hi
  refine ⟨_, hi, ?_, State.awaits_at ..⟩
  refine (State.launch_modLaunch hrel ?_).trans ?_
  · exact fun _ hx => hx
  · simp

end

/-! ## Saves that are discarded -/

/-- The event leaves the group FREE, its elements cleared unless it was SAVED, and nothing else of these changed. -/
def freesGroup (s : State) (gn : Nat) (i : Instr) : Prop :=
  gives i s (fun t => (t.group gn).st = .free ∧ sameMemory s t ∧
    (∀ ea, t.elem ea = if (s.group gn).st ≠ .saved ∧ (s.group gn).covers ea = true then (s.elem ea).cleared else s.elem ea) ∧
    ∀ n, n ≠ gn → t.group n = s.group n)

theorem freesGroup_groupRelease {s : State} {gn : Nat} (h : s.Inv) (hst : (s.group gn).st = .reserved ∨ (s.group gn).st = .retired) :
    freesGroup s gn (.groupRelease gn) := by
  have hfree : (s.group gn).st ≠ .free := by rcases hst with hst | hst <;> simp [hst]
  have hsaved : (s.group gn).st ≠ .saved := by rcases hst with hst | hst <;> simp [hst]
  have hi : exec (.groupRelease gn) s = .next (s.releaseGroup gn) := by
    change execGroupRelease gn s = _
    rcases hst with hst | hst <;> simp [execGroupRelease, hst]
  obtain ⟨hgone, hframe⟩ := s.releaseGroup_frees gn
  refine ⟨_, hi, hgone, hframe.memory, fun ea => ?_, hframe.groups⟩
  rw [State.releaseGroup_held hfree hsaved]
  refine (State.elem_workEnded h gn ea).trans ?_
  simp [hsaved]

theorem exec_savedGroupDiscard {s : State} {gn : Nat} (hst : (s.group gn).st = .saved) : exec (.savedGroupDiscard gn) s =
    .next ((s.modLaunch ((s.group gn).lid.getD (2 ^ 32)) (fun l => { l with saved := false, grp := none })).setGroup gn .zero) := by
  change execSavedGroupDiscard gn s = _
  simp only [execSavedGroupDiscard, hst, beq_self_eq_true, if_true]
  rw [State.releaseGroup_saved]
  exact hst

theorem freesGroup_savedGroupDiscard {s : State} {gn : Nat} (hst : (s.group gn).st = .saved) :
    freesGroup s gn (.savedGroupDiscard gn) := by
  refine ⟨_, exec_savedGroupDiscard hst, ?_, sameMemory_of rfl rfl rfl, fun ea => ?_, fun n hn => ?_⟩
  · rw [State.group_setGroup_same]
  · rw [if_neg fun h => h.1 hst]
    rfl
  · exact State.group_setGroup_ne _ _ _ _ hn

theorem exec_savedGroupDiscard_other {s : State} {gn : Nat} (hst : (s.group gn).st ≠ .saved) :
    exec (.savedGroupDiscard gn) s = .next s := by
  change execSavedGroupDiscard gn s = _
  simp [execSavedGroupDiscard, hst]

/-- The launch of a discarded save stays in its queue, without its group (log 33). -/
theorem gives_savedGroupDiscard_launch {s : State} {gn lid : Nat} {l : Launch} (hst : (s.group gn).st = .saved)
    (hlid : (s.group gn).lid = some lid) (hl : s.launch lid = some l) : gives (.savedGroupDiscard gn) s (fun t =>
      (t.group gn).st = .free ∧ t.launch lid = some { l with saved := false, grp := none } ∧ sameProgram s t) := by
  refine ⟨_, exec_savedGroupDiscard hst, ?_, ?_, sameMemory_of rfl rfl rfl, fun _ _ => .refl _⟩
  · rw [State.group_setGroup_same]
  · rw [hlid]
    exact State.launch_modLaunch hl fun _ hx => hx

/-- Settles O37: every end of a group's work goes through the end of its launch, and every release through one clearing. -/
theorem howGroupsEnd : Obligations.HowGroupsEnd := by
  unfold Obligations.HowGroupsEnd
  intro s gn g ends fails frees
  refine ⟨fun hst hkern => ?complete, fun hst hall => ?exited, fun hst hall => ?quiescent, fun hst => ?fenced, fun hst => ?other,
    freesGroup_groupRelease, fun hst _ => freesGroup_savedGroupDiscard hst, exec_savedGroupDiscard_other,
    fun lid l hst hlid hl => gives_savedGroupDiscard_launch hst hlid hl⟩
  case complete => exact endsGroup_of_completeGroup (exec_kernelComplete hst hkern)
  case exited => exact endsGroup_of_completeGroup (exec_quiescence_exited hst hall)
  case quiescent =>
    refine ⟨_, exec_quiescence hst hall, ?_, ?_, ?_, ⟨sameMemory_of rfl rfl rfl, fun _ _ => .refl _⟩,
      fun n hn => State.group_setGroup_ne _ _ _ _ hn⟩ <;> rw [State.group_setGroup_same]
  case fenced =>
    exact ⟨endsGroup_of_retireGroup hst rfl, endsGroup_of_retireGroup hst rfl, fun _ _ hlid hl => gives_retireGroup_fails hst rfl hlid hl,
      fun _ _ hlid hl => gives_retireGroup_fails hst rfl hlid hl⟩
  case other =>
    exact ⟨congrArg _ (State.retireGroup_other hst), congrArg _ (State.retireGroup_other hst)⟩

end Sys2Proof.Machine
end

section
/-! SUPPORT. cfgw of element items (R278 to R281), and partial reconfiguration (R284): what a write leaves of the element's planes, and
what an install leaves of its ECW. Settles O41. -/

namespace Sys2Proof.Machine

/-! ## Planes -/

@[simp] theorem Elem.plane_setPlane (e : Elem) (one : Bool) (p : Plane) : (e.setPlane one p).plane one = p := by cases one <;> rfl

@[simp] theorem Elem.plane_setPlane_not (e : Elem) (one : Bool) (p : Plane) : (e.setPlane one p).plane (!one) = e.plane (!one) := by
  cases one <;> rfl

/-- An element has changed in its working configuration and in the notes that a write leaves (R281, R294) alone. -/
def notedOnly (e d : Elem) : Prop := d = { e with work := d.work, was := d.was, armedWrite := d.armedWrite }

theorem notedOnly.trans {e d b : Elem} (h : notedOnly e d) (k : notedOnly d b) : notedOnly e b := by
  unfold notedOnly at *
  rw [k, h]

theorem notedOnly.ite {e d : Elem} (h : notedOnly e d) (p : Prop) [Decidable p] : notedOnly e (if p then d else e) := by
  split
  · exact h
  · rfl

theorem notedOnly.setPlane {e d : Elem} (h : notedOnly e d) (one : Bool) (p : Plane) : notedOnly (e.setPlane one p) (d.setPlane one p) := by
  rw [h]
  cases one <;> rfl

theorem notedOnly_keepWas (e : Elem) (now : Nat) : notedOnly e (e.keepWas now) := by
  unfold Elem.keepWas
  split <;> rfl

section
variable {e d : Elem} (h : notedOnly e d)
include h

theorem notedOnly.plane (one : Bool) : d.plane one = e.plane one := by rw [h]; rfl
theorem notedOnly.ctxs : d.ctxs = e.ctxs := by rw [h]
theorem notedOnly.chans : d.chans = e.chans := by rw [h]

end

/-- The element after a write of an item of a plane, in cycle `now` (R280, R281, R294). -/
def Elem.written (e : Elem) (c : Cmd) (item now : Nat) : Elem :=
  let one := e.planeOf c.plane
  let p := e.plane one
  let e := if one == e.act then e.keepWas now else e
  let e := e.setPlane one (p.setItem c item)
  let e := if one == e.act && item == 0 && rndWwOnly p.ecw c.value then
      { e with work := { e.work with ecw := setRndWw e.work.ecw c.value } }
    else e
  if one != e.act && e.armed then { e with armedWrite := e.armedWrite.orElse (fun _ => some c.addr) } else e

/-- The plane named has its item written; the rest of the element is as before but for notes. -/
theorem Elem.written_noted (e : Elem) (c : Cmd) (item now : Nat) :
    notedOnly (e.setPlane (e.planeOf c.plane) ((e.plane (e.planeOf c.plane)).setItem c item)) (e.written c item now) := by
  have hwas := ((notedOnly_keepWas e now).ite (e.planeOf c.plane == e.act)).setPlane (e.planeOf c.plane)
    ((e.plane (e.planeOf c.plane)).setItem c item)
  exact (hwas.trans (.ite (by rfl) _)).trans (.ite (by rfl) _)

section
variable (e : Elem) (c : Cmd) (item now : Nat)

theorem Elem.plane_written : (e.written c item now).plane (e.planeOf c.plane) = (e.plane (e.planeOf c.plane)).setItem c item := by
  rw [(e.written_noted ..).plane, Elem.plane_setPlane]

theorem Elem.plane_written_not : (e.written c item now).plane (!e.planeOf c.plane) = e.plane (!e.planeOf c.plane) := by
  rw [(e.written_noted ..).plane, Elem.plane_setPlane_not]

@[simp] theorem Elem.ctxs_setPlane (one : Bool) (p : Plane) : (e.setPlane one p).ctxs = e.ctxs := by cases one <;> rfl
@[simp] theorem Elem.chans_setPlane (one : Bool) (p : Plane) : (e.setPlane one p).chans = e.chans := by cases one <;> rfl

theorem Elem.ctxs_written : (e.written c item now).ctxs = e.ctxs := by rw [(e.written_noted ..).ctxs, Elem.ctxs_setPlane]
theorem Elem.chans_written : (e.written c item now).chans = e.chans := by rw [(e.written_noted ..).chans, Elem.chans_setPlane]

end

/-! ## What a cfgw does (R278, R280, R281, R284) -/

section
variable {s : State} {c : Cmd} (hclean : c.clean = true)
include hclean

theorem State.cfgw_bad {item : Nat} (hbad : s.itemBad c item = true) : s.cfgw c item = s.answer c codeIllegal item c.ea := by
  simp [State.cfgw, hclean, hbad]

theorem State.cfgw_busy {item : Nat} (hgood : s.itemBad c item = false)
    (hactive : (s.elem c.ea).planeOf c.plane = (s.elem c.ea).act ∧ s.busyElem c.ea = true)
    (hmore : item ≠ 0 ∨ rndWwOnly (s.elem c.ea).work.ecw c.value = false) : s.cfgw c item = s.answer c codeBusy 0 c.ea := by
  have hwhole : (item == 0 && rndWwOnly (s.elem c.ea).work.ecw c.value) = false := by
    rcases hmore with h | h <;> simp [h]
  simp [State.cfgw, hclean, hgood, hactive, hwhole]

theorem State.cfgw_partial (hgood : s.itemBad c 0 = false)
    (hactive : (s.elem c.ea).planeOf c.plane = (s.elem c.ea).act ∧ s.busyElem c.ea = true)
    (hpart : rndWwOnly (s.elem c.ea).work.ecw c.value = true) : s.cfgw c 0 =
      (s.modElem c.ea (fun e => { e with partials := e.partials ++ [(c.value, c.die, c.port)] })).at_ s.now
        (.partialReconfigInstall c.ea) := by
  simp [State.cfgw, hclean, hgood, hactive, hpart]

theorem State.cfgw_writes {item : Nat} (hgood : s.itemBad c item = false)
    (hfree : ¬ ((s.elem c.ea).planeOf c.plane = (s.elem c.ea).act ∧ s.busyElem c.ea = true)) :
    s.cfgw c item = (s.setElem c.ea ((s.elem c.ea).written c item s.now)).answer c 0 0 c.ea := by
  have hidle : ((s.elem c.ea).planeOf c.plane == (s.elem c.ea).act && s.busyElem c.ea) = false := by
    simpa using hfree
  simp only [State.cfgw, hclean, hgood, hidle]
  rfl

/-- What a cfgw of item `item` does: it writes a plane of which `q` then holds, or is refused, and changes nothing else. -/
def cfgwWrites (s : State) (c : Cmd) (i : Instr) (item : Nat) (q : Plane → Prop) : Prop :=
  let one := (s.elem c.ea).planeOf c.plane
  let active := one = (s.elem c.ea).act ∧ s.busyElem c.ea = true
  (s.itemBad c item = false → ¬ active → gives i s (fun t => q ((t.elem c.ea).plane one) ∧
    (t.elem c.ea).plane (!one) = (s.elem c.ea).plane (!one) ∧ (t.elem c.ea).ctxs = (s.elem c.ea).ctxs ∧
    (t.elem c.ea).chans = (s.elem c.ea).chans ∧ statusComes s t c 0 0 c.ea ∧ (∀ x, x ≠ c.ea → t.elem x = s.elem x) ∧
    t = { s with elems := t.elems, cports := t.cports })) ∧
  (s.itemBad c item = true → gives i s (fun t => statusComes s t c 0x32 item c.ea ∧ t = { s with cports := t.cports })) ∧
  (s.itemBad c item = false → active → (item ≠ 0 ∨ rndWwOnly (s.elem c.ea).work.ecw c.value = false) → gives i s (fun t =>
    statusComes s t c 0x31 0 c.ea ∧ t = { s with cports := t.cports }))

theorem cfgwWrites_of {i : Instr} {item : Nat} {q : Plane → Prop} (hi : exec i s = .next (s.cfgw c item))
    (hq : q (((s.elem c.ea).plane ((s.elem c.ea).planeOf c.plane)).setItem c item)) : cfgwWrites s c i item q := by
  refine ⟨fun hgood hfree => ?_, fun hbad => ?_, fun hgood hactive hmore => ?_⟩
  · refine ⟨_, hi.trans (congrArg _ (State.cfgw_writes hclean hgood hfree)), ?_⟩
    have helem (code detail ea : Nat) :
        ((s.setElem c.ea ((s.elem c.ea).written c item s.now)).answer c code detail ea).elem c.ea =
          (s.elem c.ea).written c item s.now := State.elem_setElem_same ..
    beta_reduce
    rw [helem, Elem.plane_written]
    exact ⟨hq, Elem.plane_written_not .., Elem.ctxs_written .., Elem.chans_written ..,
      statusComes_answer c 0 0 c.ea rfl rfl fun _ => rfl, fun x hx => State.elem_setElem_ne _ _ _ _ hx, rfl⟩
  · exact ⟨_, hi.trans (congrArg _ (State.cfgw_bad hclean hbad)), statusComes_answer c _ _ c.ea rfl rfl fun _ => rfl, rfl⟩
  · exact ⟨_, hi.trans (congrArg _ (State.cfgw_busy hclean hgood hactive hmore)), statusComes_answer c _ _ c.ea rfl rfl fun _ => rfl,
      rfl⟩

end

/-! ## The items of a plane (Table 11-5) -/

section
variable (p : Plane) (i : Nat)

theorem Plane.slot_written (w : SlotW) (q : Plane) (hq : q = { p with slots := tput .zero i w p.slots }) :
    q.slot i = w ∧ (∀ k, k ≠ i → q.slot k = p.slot k) ∧ q = { p with slots := q.slots } := by
  subst hq
  exact ⟨tget_tput_same .., fun _ hk => tget_tput_ne _ _ _ _ _ hk, rfl⟩

theorem Plane.route_written (r : Route) (q : Plane) (hq : q = { p with routes := tput .zero i r p.routes }) :
    q.route i = r ∧ (∀ k, k ≠ i → q.route k = p.route k) ∧ q = { p with routes := q.routes } := by
  subst hq
  exact ⟨tget_tput_same .., fun _ hk => tget_tput_ne _ _ _ _ _ hk, rfl⟩

theorem Plane.chanWord_written (w : Word) (q : Plane) (hq : q = { p with chans := tput 0 i w p.chans }) :
    q.chanWord i = w ∧ (∀ k, k ≠ i → q.chanWord k = p.chanWord k) ∧ q = { p with chans := q.chans } := by
  subst hq
  exact ⟨tget_tput_same .., fun _ hk => tget_tput_ne _ _ _ _ _ hk, rfl⟩

theorem Plane.handle_written (r : Word × Word) (q : Plane) (hq : q = { p with handles := tput (0, 0) i r p.handles }) :
    q.handle i = r ∧ (∀ k, k ≠ i → q.handle k = p.handle k) ∧ q = { p with handles := q.handles } := by
  subst hq
  exact ⟨tget_tput_same .., fun _ hk => tget_tput_ne _ _ _ _ _ hk, rfl⟩

theorem Plane.target_written (k : Nat) (w : Word) (q : Plane)
    (hq : q = { p with routes := tput .zero i { p.route i with targets := tput 0 k w (p.route i).targets } p.routes }) :
    (q.route i).target k = w ∧ (∀ j, j ≠ k → (q.route i).target j = (p.route i).target j) ∧ (q.route i).n = (p.route i).n ∧
      (∀ j, j ≠ i → q.route j = p.route j) ∧ q = { p with routes := q.routes } := by
  obtain ⟨hroute, hothers, hrest⟩ := p.route_written i _ q hq
  rw [hroute]
  exact ⟨tget_tput_same .., fun _ hj => tget_tput_ne _ _ _ _ _ hj, rfl, hothers, hrest⟩

end

theorem setHalf_eq (r : Word × Word) (sub : Nat) (v : Word) : setHalf r sub v = if sub = 0 then (v, r.2) else (r.1, v) := by
  simp [setHalf]

theorem Plane.setItem_meb (p : Plane) (c : Cmd) :
    p.setItem c 7 = { p with meb := if c.sub = 0 then (c.value, p.meb.2) else (p.meb.1, c.value) } := by
  rw [← setHalf_eq]
  rfl

theorem Plane.setItem_handle (p : Plane) (c : Cmd) : p.setItem c 8 = { p with
    handles := tput (0, 0) c.index
      (if c.sub = 0 then (c.value, (p.handle c.index).2) else ((p.handle c.index).1, c.value)) p.handles } := by
  rw [← setHalf_eq]
  rfl

/-! ## Partial reconfiguration (R284) -/

/-- RND and WW are bits 6 to 11 (Table 2-7). -/
theorem getLsbD_rndWw (k : Nat) : rndWw.getLsbD k = decide (6 ≤ k ∧ k < 12) := by
  by_cases hk : k < 64
  · exact (by decide : ∀ i : Fin 64, rndWw.getLsbD i = decide (6 ≤ i.val ∧ i.val < 12)) ⟨k, hk⟩
  · rw [BitVec.getLsbD_of_ge _ _ (by omega)]
    simp
    omega

/-- An ECW that takes RND and WW of another takes its bits 6 to 11. -/
theorem getLsbD_setRndWw (w v : Word) (k : Nat) :
    (setRndWw w v).getLsbD k = if 6 ≤ k ∧ k < 12 then v.getLsbD k else w.getLsbD k := by
  by_cases hk : k < 64
  · have hmask := getLsbD_rndWw k
    rw [BitVec.getLsbD_eq_getElem hk] at hmask
    unfold setRndWw
    generalize rndWw = m at hmask
    by_cases hin : 6 ≤ k ∧ k < 12 <;> simp [hmask, hin, hk]
  · rw [BitVec.getLsbD_of_ge _ _ (by omega), BitVec.getLsbD_of_ge w _ (by omega), if_neg (by omega)]

theorem ecwRnd_setRndWw (w v : Word) : ecwRnd (setRndWw w v) = ecwRnd v := by
  refine congrArg BitVec.toNat (BitVec.eq_of_getLsbD_eq fun i hi => ?_)
  simp only [BitVec.getLsbD_extractLsb', getLsbD_setRndWw]
  rw [if_pos (by omega)]

theorem ecwWw_setRndWw (w v : Word) : ecwWw (setRndWw w v) = ecwWw v := by
  refine congrArg BitVec.toNat (BitVec.eq_of_getLsbD_eq fun i hi => ?_)
  simp only [BitVec.getLsbD_extractLsb', getLsbD_setRndWw]
  rw [if_pos (by omega)]

theorem State.elem_at (s : State) (n : Nat) (i : Instr) (x : Nat) : (s.at_ n i).elem x = s.elem x := rfl

/-- The element after the install of the RND and WW of `w` in cycle `now`. -/
def Elem.installed (e : Elem) (w : Word) (now : Nat) : Elem :=
  { e.setPlane e.act { e.active with ecw := setRndWw e.active.ecw w } with
    work := { e.work with ecw := setRndWw e.work.ecw w }, partials := [], holdUntil := now + 1 }

theorem exec_partialReconfigInstall {s : State} {ea die port : Nat} {w : Word} (hone : (s.elem ea).partials = [(w, die, port)])
    (hout : s.resultsOut ea = false) (hmarked : (s.elem ea).marked = false) (hloading : (s.elem ea).me.loading = false) :
    exec (.partialReconfigInstall ea) s = .next ((s.setElem ea ((s.elem ea).installed w s.now)).reply die port
      (s.now + 6 + 24 * dieDist die (eaDie ea)) (statusWord 0 0 ea true)) := by
  change execPartialReconfigInstall ea s = _
  simp [execPartialReconfigInstall, hone, hout, hmarked, hloading, Elem.installed]

theorem sameProgram_setElem (s : State) (ea : Nat) (e : Elem) (h : e.ctxs = (s.elem ea).ctxs) : sameProgram s (s.setElem ea e) :=
  (servedFrame_modElem s ea (fun _ => e) h).sameProgram

/-- Settles O41: all items by what `State.cfgw` does, each with what it writes; an install by the bits that it takes. -/
theorem writesToElementsAndPartialOnes : Obligations.WritesToElementsAndPartialOnes := by
  unfold Obligations.WritesToElementsAndPartialOnes
  refine ⟨fun s c hclean => ?_, fun s c => ⟨fun hclean hact hbusy hgood hpart => ?_,
    fun ea w die port hone hout hmarked hloading => ?_⟩⟩
  · intro one p v i active writes slot route half
    have item (ins : Instr) (n : Nat) (q : Plane → Prop) (hi : exec ins s = .next (s.cfgw c n)) (hq : q (p.setItem c n)) :
        writes ins n q := cfgwWrites_of hclean hi hq
    clear_value writes
    exact ⟨item _ 0 _ rfl rfl, item _ 1 _ rfl (p.slot_written i _ _ rfl), item _ 2 _ rfl (p.slot_written i _ _ rfl),
      item _ 3 _ rfl (p.slot_written i _ _ rfl), item _ 4 _ rfl (p.chanWord_written i _ _ rfl),
      item _ 5 _ rfl (p.route_written i _ _ rfl), item _ 6 _ rfl (p.target_written i _ _ _ rfl),
      item _ 7 _ rfl (p.setItem_meb c), item _ 8 _ rfl (p.handle_written i _ _ (p.setItem_handle c))⟩
  · refine ⟨_, congrArg Host.Outcome.next (State.cfgw_partial hclean hgood ⟨hact, hbusy⟩ hpart), ?_, State.awaits_at .., ?_, ?_⟩
    · rw [State.elem_at, State.elem_modElem_same]
    · rw [State.elem_at, State.elem_modElem_same]
    · exact ((servedFrame_modElem s c.ea _ (by rfl)).trans (servedFrame_at ..)).sameProgram
  · have helem (t : Nat) (v : Word) : ((s.setElem ea ((s.elem ea).installed w s.now)).reply die port t v).elem ea =
        (s.elem ea).installed w s.now := State.elem_setElem_same ..
    refine ⟨_, exec_partialReconfigInstall hone hout hmarked hloading, ?_⟩
    beta_reduce
    rw [helem]
    refine ⟨ecwRnd_setRndWw .., ecwWw_setRndWw .., fun k hk => ?_, rfl, rfl, ?_, ?_⟩
    · exact (getLsbD_setRndWw ..).trans (if_neg (by omega))
    · exact sameProgram_setElem s ea _ (Elem.ctxs_setPlane ..)
    · simp [State.reply, State.modCport, State.cport, statusWord]

end Sys2Proof.Machine
end

section
/-! SUPPORT. SWAP, SPLICE and CLEAR (R285 to R294): what they leave alone, which planes an element has after them, and the refusals in
their order. Settles O43. -/

namespace Sys2Proof.Machine

/-! ## Configurations left alone -/

/-- An element has changed in nothing of its configuration: its contexts, outputs and generators may differ, and the cycle from which
its slots fire. -/
def sameConfig (e d : Elem) : Prop := d = { e with ctxs := d.ctxs, outs := d.outs, gens := d.gens, holdUntil := d.holdUntil }

theorem sameConfig.refl (e : Elem) : sameConfig e e := rfl

theorem sameConfig.trans {e d b : Elem} (h : sameConfig e d) (k : sameConfig d b) : sameConfig e b := by
  unfold sameConfig at *
  rw [k, h]

section
variable {e d : Elem} (h : sameConfig e d)
include h

theorem sameConfig.active : d.active = e.active := by rw [h]; rfl
theorem sameConfig.shadow : d.shadow = e.shadow := by rw [h]; rfl
theorem sameConfig.work : d.work = e.work := by rw [h]
theorem sameConfig.epoch : d.epoch = e.epoch := by rw [h]
theorem sameConfig.wave : d.wave = e.wave := by rw [h]
theorem sameConfig.armed : d.armed = e.armed := by rw [h]

end

/-- Every element keeps its configuration; groups, the clock and the command ports are as before. -/
structure configFrame (s t : State) : Prop where
  elems : ∀ x, sameConfig (s.elem x) (t.elem x)
  groups : t.groups = s.groups
  now : t.now = s.now
  cports : t.cports = s.cports

theorem configFrame.refl (s : State) : configFrame s s := ⟨fun _ => rfl, rfl, rfl, rfl⟩

theorem configFrame.trans {s t u : State} (h : configFrame s t) (k : configFrame t u) : configFrame s u :=
  ⟨fun x => (h.elems x).trans (k.elems x), k.groups.trans h.groups, k.now.trans h.now, k.cports.trans h.cports⟩

theorem configFrame_foldl {β : Type} {f : State → β → State} (hf : ∀ s x, configFrame s (f s x)) (l : List β) (s : State) :
    configFrame s (l.foldl f s) :=
  State.foldl_keeps (configFrame s) f l (fun u x h => h.trans (hf u x)) (.refl s)

theorem configFrame.group {s t : State} (h : configFrame s t) (n : Nat) : t.group n = s.group n := by
  rw [State.group, h.groups, State.group]

theorem configFrame_modElem (s : State) (ea : Nat) (f : Elem → Elem) (h : sameConfig (s.elem ea) (f (s.elem ea))) :
    configFrame s (s.modElem ea f) := by
  refine ⟨fun x => ?_, rfl, rfl, rfl⟩
  by_cases hx : x = ea
  · subst hx
    simpa using h
  · simp [hx, sameConfig]

theorem configFrame_at (s : State) (n : Nat) (i : Instr) : configFrame s (s.at_ n i) := ⟨fun _ => rfl, rfl, rfl, rfl⟩

theorem configFrame_creditHome (s : State) (src : Src) : configFrame s (s.creditHome src) := by
  fun_cases State.creditHome
  case case2 => exact configFrame_modElem _ _ _ rfl
  all_goals exact .refl s

theorem configFrame_voidWords (s : State) (ea : Nat) : configFrame s (s.voidWords ea) :=
  configFrame_foldl (fun s _ => configFrame_creditHome s _) ..

theorem configFrame_modCtx (s : State) (ea c : Nat) (f : Ctx → Ctx) : configFrame s (s.modCtx ea c f) := configFrame_modElem _ _ _ rfl

theorem configFrame_buildSpill (s : State) (tile : Nat) : configFrame s (s.buildSpill tile) :=
  configFrame_foldl (fun s _ => configFrame_modCtx s ..) ..

theorem configFrame_zeroBytes (s : State) (a n : Nat) : configFrame s (s.zeroBytes a n) := ⟨fun _ => rfl, rfl, rfl, rfl⟩

theorem configFrame_zeroCarves (s : State) (tile : Nat) : configFrame s (s.zeroCarves tile) :=
  configFrame_foldl (fun s _ => configFrame_zeroBytes s ..) ..

theorem configFrame_zeroSpill (s : State) (ea : Nat) : configFrame s (s.zeroSpill ea) :=
  configFrame_foldl (fun s _ => configFrame_zeroBytes s ..) ..

theorem configFrame_joinLink (s : State) (t site port vc : Nat) (as : List Arrival) (d : Nat) :
    configFrame s (s.joinLink t site port vc as d) := by
  unfold State.joinLink
  dsimp only
  split
  · exact .refl s
  · exact ⟨fun _ => rfl, rfl, rfl, rfl⟩

theorem configFrame_launchCopies (s : State) (t ea : Nat) (as : List Arrival) : configFrame s (s.launchCopies t ea as) :=
  ((configFrame_foldl (fun s _ => configFrame_at s ..) ..).trans (configFrame_foldl (fun s _ => configFrame_at s ..) ..)).trans
    (configFrame_foldl (fun s _ => configFrame_joinLink s ..) ..)

/-! ## Activation (R287, R291) -/

/-- The planes of an element have changed places: the shadow is active and the working configuration (R287, R291). -/
structure Elem.swapped (e d : Elem) : Prop where
  active : d.active = e.shadow
  shadow : d.shadow = e.active
  work : d.work = e.shadow
  epoch : d.epoch = e.epoch + 1
  armed : d.armed = false

theorem Elem.swapped_activate (e : Elem) (now wave : Nat) : e.swapped { e.activate (!e.act) now with wave := wave } := by
  refine ⟨rfl, ?_, rfl, rfl, rfl⟩
  simp [Elem.shadow, Elem.active, Elem.activate, Elem.plane]

theorem Elem.swapped.keeps {e d b : Elem} (h : e.swapped d) (k : sameConfig d b) : e.swapped b :=
  ⟨k.active.trans h.active, k.shadow.trans h.shadow, k.work.trans h.work, k.epoch.trans h.epoch, k.armed.trans h.armed⟩

theorem Elem.swapped.of_sameConfig {e d b : Elem} (h : sameConfig e d) (k : d.swapped b) : e.swapped b :=
  ⟨k.active.trans h.shadow, k.shadow.trans h.active, k.work.trans h.shadow, by rw [k.epoch, h.epoch], k.armed⟩

/-- A swap of one element: its planes change places; groups, the clock and the command ports are as before. -/
theorem State.swapPlanes_one (s : State) (g : Group) (a : Nat) : (s.elem a).swapped ((s.swapPlanes g [a]).elem a) ∧
    (s.swapPlanes g [a]).groups = s.groups ∧ (s.swapPlanes g [a]).now = s.now ∧ (s.swapPlanes g [a]).cports = s.cports := by
  have hvoid := configFrame_voidWords s a
  have hspill := configFrame_foldl (f := fun s t => (s.buildSpill t).zeroCarves t)
    (fun s t => (configFrame_buildSpill s t).trans (configFrame_zeroCarves ..)) (sortNat ([a].map tileOf))
    ((s.voidWords a).modElem a (fun e => { e.activate (!e.act) s.now with wave := s.waveOf g }))
  refine ⟨Elem.swapped.keeps (Elem.swapped.of_sameConfig (hvoid.elems a) ?_) (hspill.elems a), hspill.groups.trans hvoid.groups,
    hspill.now.trans hvoid.now, hspill.cports.trans hvoid.cports⟩
  rw [State.elem_modElem_same]
  exact Elem.swapped_activate ..

/-! ## What a cfgswap names (R285) -/

/-- The group that a cfgswap of one element looks at: that of its tile, or the tile on its own (R285). -/
def State.swapGroup (s : State) (a : Nat) : Group := ((s.groupAt a).map s.group).getD { Group.zero with x := eaTx a, y := eaTy a }

section
variable {s : State} {c : Cmd} (hfields : c.value.extractLsb' 3 13 = 0 ∧ c.value >>> 32 = 0)
include hfields

theorem State.swapNames_elem (hscope : c.scope = false) (ha : c.addr.toNat < 2 ^ 14) : s.swapNames c false =
    some (s.groupAt c.addr.toNat, s.swapGroup c.addr.toNat, [c.addr.toNat]) := by
  have ha : c.addr.toNat / 2 ^ 14 = 0 := Nat.div_eq_of_lt ha
  simp only [State.swapNames, hfields.1, hfields.2, hscope, ha]
  rfl

theorem State.swapNames_group {gn : Nat} (hscope : c.scope = true) (ha : c.addr.toNat = gn) (hgn : gn < 65536)
    (htiles : (s.group gn).holdsTiles = true) (b : Bool) :
    s.swapNames c b = some (some gn, s.group gn, (s.group gn).sites) := by
  simp [State.swapNames, hfields.1, hfields.2, hscope, ha, Nat.div_eq_of_lt hgn, Nat.mod_eq_of_lt hgn, htiles]

end

theorem Cmd.ea_of_lt {c : Cmd} (ha : c.addr.toNat < 2 ^ 14) : c.ea = c.addr.toNat := Nat.mod_eq_of_lt ha

theorem Cmd.swapEa_elem {c : Cmd} (hscope : c.scope = false) (ha : c.addr.toNat < 2 ^ 14) : c.swapEa = c.addr.toNat := by
  simp [Cmd.swapEa, hscope, Cmd.ea_of_lt ha]

/-! ## SWAP and CLEAR of an element (R286, R287) -/

theorem State.elem_answer (s : State) (c : Cmd) (code detail ea x : Nat) : (s.answer c code detail ea).elem x = s.elem x := rfl

theorem State.group_answer (s : State) (c : Cmd) (code detail ea n : Nat) : (s.answer c code detail ea).group n = s.group n := rfl

/-- A command that is refused answers its status and changes nothing else. -/
theorem gives_refused {s : State} {c : Cmd} {i : Instr} {code detail ea : Nat} (hi : exec i s = .next (s.answer c code detail ea)) :
    gives i s (fun t => statusComes s t c code detail ea ∧ t = { s with cports := t.cports }) :=
  ⟨_, hi, statusComes_answer c code detail ea rfl rfl fun _ => rfl, rfl⟩

section
variable {s : State} {c : Cmd} (hclean : c.clean = true) (hfields : c.value.extractLsb' 3 13 = 0 ∧ c.value >>> 32 = 0)
  (hscope : c.scope = false) (ha : c.addr.toNat < 2 ^ 14)
include hclean hfields hscope ha

section
variable (hcheck : (s.planeEnv (s.swapGroup c.addr.toNat) [c.addr.toNat]).check c.kid16 [c.addr.toNat] = none)
include hcheck

theorem exec_cfgswapSwap (hbusy : s.busyElem c.addr.toNat = false) : exec (.cfgswapSwap c) s =
    .next ((s.swapPlanes (s.swapGroup c.addr.toNat) [c.addr.toNat]).answer c 0 0 c.addr.toNat) := by
  change execCfgswapSwap c s = _
  simp [execCfgswapSwap, hclean, State.swapNames_elem hfields hscope ha, State.swap, hcheck, hbusy, hscope, Cmd.swapEa_elem hscope ha]

theorem exec_cfgswapSwap_busy (hbusy : s.busyElem c.addr.toNat = true) :
    exec (.cfgswapSwap c) s = .next (s.answer c codeBusy 0 c.addr.toNat) := by
  change execCfgswapSwap c s = _
  simp [execCfgswapSwap, hclean, State.swapNames_elem hfields hscope ha, State.swap, hcheck, hbusy, hscope]

theorem gives_cfgswapSwap (hbusy : s.busyElem c.addr.toNat = false) : gives (.cfgswapSwap c) s (fun t =>
    (s.elem c.addr.toNat).swapped (t.elem c.addr.toNat) ∧ statusComes s t c 0 0 c.addr.toNat) := by
  obtain ⟨hswapped, hgroups, hnow, hcports⟩ := s.swapPlanes_one (s.swapGroup c.addr.toNat) c.addr.toNat
  refine ⟨_, exec_cfgswapSwap hclean hfields hscope ha hcheck hbusy, ?_,
    statusComes_answer c 0 0 _ hnow hcports fun n => by rw [State.group, hgroups, State.group]⟩
  rw [State.elem_answer]
  exact hswapped

end

/-- The state in which the shadow of an element is empty, and a staged successor of its group is discarded. -/
def State.shadowCleared (s : State) (a : Nat) : State :=
  let u := s.modElem a (fun e => e.setPlane (!e.act) .zero)
  match s.groupAt a with
  | some n => u.modGroup n Group.unstage
  | none => u

theorem exec_cfgswapClear (hidle : (s.elem c.addr.toNat).armed = false) :
    exec (.cfgswapClear c) s = .next ((s.shadowCleared c.addr.toNat).answer c 0 0 c.addr.toNat) := by
  change execCfgswapClear c s = _
  simp only [execCfgswapClear, hclean, State.swapNames_elem hfields hscope ha, Cmd.swapEa_elem hscope ha, List.find?_cons, hidle]
  rfl

end

theorem State.elem_shadowCleared (s : State) (a x : Nat) :
    (s.shadowCleared a).elem x = (s.modElem a (fun e => e.setPlane (!e.act) .zero)).elem x := by
  unfold State.shadowCleared
  split <;> rfl

theorem Group.tiles_unstage (g : Group) : g.unstage.tiles = g.tiles := by
  unfold Group.unstage
  split <;> rfl

theorem State.tiles_modGroup (s : State) {gn : Nat} {f : Group → Group} (hf : (f (s.group gn)).tiles = (s.group gn).tiles) (n : Nat) :
    ((s.modGroup gn f).group n).tiles = (s.group n).tiles := by
  by_cases hn : n = gn
  · subst hn
    rw [State.modGroup, State.group_setGroup_same, hf]
  · rw [State.modGroup, State.group_setGroup_ne _ _ _ _ hn]

/-- What the clearing of a shadow leaves for the status of its command. -/
theorem State.shadowCleared_keeps (s : State) (a : Nat) : (s.shadowCleared a).now = s.now ∧ (s.shadowCleared a).cports = s.cports ∧
    ∀ n, ((s.shadowCleared a).group n).tiles = (s.group n).tiles := by
  unfold State.shadowCleared
  split
  · exact ⟨rfl, rfl, fun n => (State.tiles_modGroup _ (Group.tiles_unstage _) n).trans rfl⟩
  · exact ⟨rfl, rfl, fun _ => rfl⟩

theorem Elem.cleared_shadow (e : Elem) : (e.setPlane (!e.act) .zero).shadow = .zero ∧ (e.setPlane (!e.act) .zero).active = e.active := by
  unfold Elem.shadow Elem.active Elem.setPlane Elem.plane
  cases e.act <;> exact ⟨rfl, rfl⟩

theorem gives_cfgswapClear {s : State} {c : Cmd} (hclean : c.clean = true)
    (hfields : c.value.extractLsb' 3 13 = 0 ∧ c.value >>> 32 = 0) (hscope : c.scope = false) (ha : c.addr.toNat < 2 ^ 14)
    (hidle : (s.elem c.addr.toNat).armed = false) : gives (.cfgswapClear c) s (fun t =>
      (t.elem c.addr.toNat).shadow = .zero ∧ (t.elem c.addr.toNat).active = (s.elem c.addr.toNat).active ∧
      (t.elem c.addr.toNat).ctxs = (s.elem c.addr.toNat).ctxs ∧ statusComes s t c 0 0 c.addr.toNat ∧
      ∀ x, x ≠ c.addr.toNat → t.elem x = s.elem x) := by
  obtain ⟨hnow, hcports, htiles⟩ := s.shadowCleared_keeps c.addr.toNat
  have helem (x : Nat) : ((s.shadowCleared c.addr.toNat).answer c 0 0 c.addr.toNat).elem x =
      (s.modElem c.addr.toNat (fun e => e.setPlane (!e.act) .zero)).elem x := by rw [State.elem_answer, State.elem_shadowCleared]
  refine ⟨_, exec_cfgswapClear hclean hfields hscope ha hidle, ?_, ?_, ?_, statusComes_answer c 0 0 _ hnow hcports htiles,
    fun x hx => ?_⟩
  · rw [helem, State.elem_modElem_same, (Elem.cleared_shadow _).1]
  · rw [helem, State.elem_modElem_same, (Elem.cleared_shadow _).2]
  · rw [helem, State.elem_modElem_same, Elem.ctxs_setPlane]
  · rw [helem, State.elem_modElem_ne _ _ _ _ hx]

/-! ## What a splice leaves alone (R289, R291) -/

/-- A group has changed in its successor and in the records held for it alone. -/
def sameArming (g h : Group) : Prop := h = { g with succ := h.succ, heldData := h.heldData, rowData := h.rowData }

/-- What the swaps of the elements `l` in a splice leave alone: the configurations of the others, groups but for their successors and
the records held for them, the clock, the command ports. -/
structure spliceFrame (s t : State) (l : List Nat) : Prop where
  elems : ∀ x, x ∉ l → sameConfig (s.elem x) (t.elem x)
  groups : ∀ n, sameArming (s.group n) (t.group n)
  now : t.now = s.now
  cports : t.cports = s.cports

theorem sameArming.trans {g h k : Group} (a : sameArming g h) (b : sameArming h k) : sameArming g k := by
  unfold sameArming at *
  rw [b, a]

theorem spliceFrame.trans {s t u : State} {l : List Nat} (h : spliceFrame s t l) (k : spliceFrame t u l) : spliceFrame s u l :=
  ⟨fun x hx => (h.elems x hx).trans (k.elems x hx), fun n => (h.groups n).trans (k.groups n), k.now.trans h.now,
    k.cports.trans h.cports⟩

theorem spliceFrame.mono {s t : State} {l k : List Nat} (h : spliceFrame s t l) (hl : l ⊆ k) : spliceFrame s t k :=
  ⟨fun x hx => h.elems x fun hxl => hx (hl hxl), h.groups, h.now, h.cports⟩

theorem configFrame.spliceFrame {s t : State} (h : configFrame s t) (l : List Nat) : spliceFrame s t l :=
  ⟨fun x _ => h.elems x, fun n => by rw [h.group]; rfl, h.now, h.cports⟩

theorem spliceFrame_setElem (s : State) (ea : Nat) (e : Elem) : spliceFrame s (s.setElem ea e) [ea] :=
  ⟨fun x hx => by rw [State.elem_setElem_ne _ _ _ _ (by simpa using hx)]; rfl, fun _ => rfl, rfl, rfl⟩

theorem spliceFrame_modElem (s : State) (ea : Nat) (f : Elem → Elem) : spliceFrame s (s.modElem ea f) [ea] := spliceFrame_setElem ..

theorem spliceFrame_modGroup (s : State) (l : List Nat) (gn : Nat) (f : Group → Group) (hf : sameArming (s.group gn) (f (s.group gn))) :
    spliceFrame s (s.modGroup gn f) l := by
  refine ⟨fun _ _ => rfl, fun n => ?_, rfl, rfl⟩
  by_cases hn : n = gn
  · subst hn
    rwa [State.modGroup, State.group_setGroup_same]
  · rw [State.modGroup, State.group_setGroup_ne _ _ _ _ hn]
    rfl

theorem sameConfig_holdUntil (e : Elem) (n : Nat) : sameConfig e { e with holdUntil := n } := rfl

/-- An element that swaps in a splice has its planes exchanged and counts one splice more; the rest is left alone. -/
theorem State.spliceOne_swaps (s : State) (gn ea : Nat) : spliceFrame s (s.spliceOne gn ea) [ea] ∧
    (s.elem ea).swapped ((s.spliceOne gn ea).elem ea) ∧ ((s.spliceOne gn ea).elem ea).wave = (s.elem ea).wave + 1 := by
  unfold State.spliceOne
  extract_lets e cfg w sent active swapped moved waits
  have hsent : configFrame s sent := configFrame_foldl (fun s _ => configFrame_launchCopies s ..) ..
  have hset : spliceFrame sent swapped [ea] := spliceFrame_setElem ..
  have hplanes : (s.elem ea).swapped (swapped.elem ea) ∧ (swapped.elem ea).wave = (s.elem ea).wave + 1 := by
    rw [State.elem_setElem_same]
    exact ⟨Elem.swapped_activate .., rfl⟩
  have hmoved : spliceFrame swapped moved [ea] := spliceFrame_modGroup _ _ _ _ rfl
  have hsame : moved.elem ea = swapped.elem ea := rfl
  have hwaits : configFrame moved waits :=
    ((configFrame_buildSpill ..).trans (configFrame_zeroSpill ..)).trans (configFrame_modElem _ _ _ (sameConfig_holdUntil ..))
  clear_value waits moved swapped sent
  have hconfig : sameConfig (swapped.elem ea) (waits.elem ea) := hsame ▸ hwaits.elems ea
  refine ⟨((((hsent.spliceFrame _).trans hset).trans hmoved).trans (hwaits.spliceFrame _)).trans (spliceFrame_modGroup _ _ _ _ ?_),
    hplanes.1.keeps hconfig, hconfig.wave.trans hplanes.2⟩
  split <;> rfl

/-! ## Groups armed (R289) -/

/-- Elements that are armed are armed then; groups, the clock and the command ports are as before. -/
theorem State.armed_foldl (l : List Nat) (s : State) {t : State}
    (ht : t = l.foldl (fun s ea => s.modElem ea (fun e => { e with armed := true, armedWrite := none })) s) :
    (∀ x, x ∈ l ∨ (s.elem x).armed = true → (t.elem x).armed = true) ∧ t.groups = s.groups ∧ t.now = s.now ∧
      t.cports = s.cports := by
  induction l generalizing s with
  | nil =>
    subst ht
    exact ⟨fun x hx => by simpa using hx, rfl, rfl, rfl⟩
  | cons a l ih =>
    obtain ⟨harmed, hgroups, hnow, hcports⟩ := ih _ ht
    refine ⟨fun x hx => harmed x ?_, hgroups, hnow, hcports⟩
    by_cases hxa : x = a
    · subst hxa
      exact .inr (by rw [State.elem_modElem_same])
    · rw [State.elem_modElem_ne _ _ _ _ hxa]
      simpa [hxa] using hx

/-- Elements whose active plane alone is empty swap at once; the others are left alone. -/
theorem spliceFrame_swapNew (gn w : Nat) (l : List Nat) (s : State) :
    spliceFrame s (l.foldl (fun s ea => (s.modElem ea (fun e => { e with wave := w })).spliceOne gn ea) s) l := by
  induction l generalizing s with
  | nil => exact (configFrame.refl s).spliceFrame _
  | cons a l ih =>
    rw [List.foldl_cons]
    have hone := (spliceFrame_modElem s a (fun e => { e with wave := w })).trans (State.spliceOne_swaps _ gn a).1
    exact (hone.mono (by simp)).trans ((ih _).mono (by simp))

/-- A splice arms a group that holds an element with a plane: the kernel drains, and every element that is not empty is armed. -/
theorem State.armGroup_arms {s : State} {gn : Nat} (kid : BitVec 16)
    (hsome : ∃ x ∈ (s.group gn).sites, (s.elem x).active.isEmpty = false) :
    let t := s.armGroup gn kid
    (t.group gn).armed = true ∧ (t.group gn).kern.st = .draining ∧ (t.group gn).st = (s.group gn).st ∧
      (∀ x ∈ (s.group gn).sites, (s.elem x).active.isEmpty = false → (t.elem x).armed = true) ∧ t.now = s.now ∧
      t.cports = s.cports ∧ ∀ n, (t.group n).tiles = (s.group n).tiles := by
  unfold State.armGroup
  extract_lets g empty succ kern draining old new w armed swapped t
  obtain ⟨harmed, hgroups, hnow, hcports⟩ := State.armed_foldl old draining (t := armed) rfl
  have hswap : spliceFrame armed swapped new := spliceFrame_swapNew ..
  have hgroup : draining.group gn = { g with armed := true, kern := { g.kern with st := .draining }, succ := succ } :=
    State.group_setGroup_same ..
  have htiles (n : Nat) : (draining.group n).tiles = (s.group n).tiles := State.tiles_modGroup s (f := fun _ => _) (by rfl) n
  have hold (x : Nat) (hx : x ∈ g.sites) (hactive : (s.elem x).active.isEmpty = false) : x ∈ old ∧ x ∉ new := by
    have hsame : draining.elem x = s.elem x := rfl
    simp [old, new, hsame, hx, hactive]
  have ht : t = swapped := by
    obtain ⟨x, hx, hactive⟩ := hsome
    exact if_neg fun hempty => List.ne_nil_of_mem (hold x hx hactive).1 (List.isEmpty_iff.mp hempty)
  have hthere (n : Nat) : sameArming (draining.group n) (swapped.group n) := by
    rw [State.group, ← hgroups, ← State.group]
    exact hswap.groups n
  have hdraining : draining.now = s.now ∧ draining.cports = s.cports := ⟨rfl, rfl⟩
  clear_value t swapped armed draining
  subst ht
  refine ⟨?_, ?_, ?_, fun x hx hactive => ?_, ?_, ?_, fun n => ?_⟩
  · rw [hthere gn, hgroup]
  · rw [hthere gn, hgroup]
  · rw [hthere gn, hgroup]
  · obtain ⟨hin, hout⟩ := hold x hx hactive
    rw [(hswap.elems x hout).armed]
    exact harmed x (.inl hin)
  · rw [hswap.now, hnow, hdraining.1]
  · rw [hswap.cports, hcports, hdraining.2]
  · rw [hthere n, ← htiles n]
    rfl

/-! ## SPLICE (R286, R289, log 69) -/

theorem Group.holdsTiles_live {g : Group} (h : g.st = .live) : g.holdsTiles = true := by
  simp [Group.holdsTiles, h]

theorem State.splice_closed {s : State} {gn : Nat} (kid : BitVec 16)
    (h : (s.group gn).st ≠ .live ∨ (s.group gn).kern.st ≠ .running ∨ (s.group gn).armed = true) :
    s.splice gn kid = .inl (codeSplice, 1, 0) := by
  rcases h with h | h | h <;> simp [State.splice, h]

section
variable {s : State} {gn : Nat} {kid : BitVec 16} (hst : (s.group gn).st = .live) (hkern : (s.group gn).kern.st = .running)
  (hidle : (s.group gn).armed = false)
include hst hkern hidle

theorem State.splice_badPlane {k x : Nat}
    (hcheck : (s.planeEnv (s.group gn) (s.group gn).sites).check kid (s.group gn).sites = some (k, x)) :
    s.splice gn kid = .inl (codeIllegal, k, x) := by
  simp [State.splice, hst, hkern, hidle, hcheck]

section
variable (hcheck : (s.planeEnv (s.group gn) (s.group gn).sites).check kid (s.group gn).sites = none)
include hcheck

theorem State.splice_otherSpills (hspill : ∃ tile ∈ (s.group gn).tiles,
      ¬ spillKey (fun x => (s.elem x).active) tile = spillKey (fun x => (s.elem x).shadow) tile) :
    s.splice gn kid = .inl (codeSplice, 5, 0) := by
  have hany : (s.group gn).tiles.any (fun t =>
      spillKey (fun x => (s.elem x).active) t != spillKey (fun x => (s.elem x).shadow) t) = true := by
    simpa using hspill
  simp only [State.splice, hst, hkern, hidle, hcheck, hany]
  rfl

variable (hspill : ∀ tile ∈ (s.group gn).tiles,
  spillKey (fun x => (s.elem x).active) tile = spillKey (fun x => (s.elem x).shadow) tile)
include hspill

theorem State.splice_sameSpills : s.splice gn kid =
    if kid == (s.group gn).kern.kid.setWidth 16 then .inl (codeSplice, 6, 0) else .inr (s.armGroup gn kid) := by
  have hany : (s.group gn).tiles.any (fun t =>
      spillKey (fun x => (s.elem x).active) t != spillKey (fun x => (s.elem x).shadow) t) = false := by
    simpa using hspill
  simp only [State.splice, hst, hkern, hidle, hcheck, hany]
  rfl

end

end

section
variable {s : State} {c : Cmd} {gn : Nat} (hclean : c.clean = true) (hfields : c.value.extractLsb' 3 13 = 0 ∧ c.value >>> 32 = 0)
  (hscope : c.scope = true) (ha : c.addr.toNat = gn) (hgn : gn < 65536) (htiles : (s.group gn).holdsTiles = true)
include hclean hfields hscope ha hgn htiles

theorem exec_cfgswapSplice : exec (.cfgswapSplice c) s = .next (match s.splice gn c.kid16 with
    | .inl (code, d, ea) => s.answer c code d ea
    | .inr t => t.answer c 0 0 0) := by
  change execCfgswapSplice c s = _
  simp only [execCfgswapSplice, hclean, State.swapNames_group hfields hscope ha hgn htiles]
  rfl

theorem gives_cfgswapSplice_refused {code d x : Nat} (hsplice : s.splice gn c.kid16 = .inl (code, d, x)) :
    gives (.cfgswapSplice c) s (fun t => statusComes s t c code d x ∧ t = { s with cports := t.cports }) :=
  gives_refused (by rw [exec_cfgswapSplice hclean hfields hscope ha hgn htiles, hsplice])

theorem gives_cfgswapSplice_armed (hsplice : s.splice gn c.kid16 = .inr (s.armGroup gn c.kid16))
    (hsome : ∃ x ∈ (s.group gn).sites, (s.elem x).active.isEmpty = false) :
    gives (.cfgswapSplice c) s (fun t => (t.group gn).armed = true ∧ (t.group gn).kern.st = .draining ∧
      (t.group gn).st = (s.group gn).st ∧ statusComes s t c 0 0 0 ∧
      ∀ x ∈ (s.group gn).sites, (s.elem x).active.isEmpty = false → (t.elem x).armed = true) := by
  obtain ⟨harmed, hkern, hst, helems, hnow, hcports, htiles'⟩ := State.armGroup_arms c.kid16 hsome
  have hexec := exec_cfgswapSplice hclean hfields hscope ha hgn htiles
  rw [hsplice] at hexec
  refine ⟨_, hexec, ?_, ?_, ?_, statusComes_answer c 0 0 0 hnow hcports htiles', fun x hx hactive => ?_⟩
  · rw [State.group_answer, harmed]
  · rw [State.group_answer, hkern]
  · rw [State.group_answer, hst]
  · rw [State.elem_answer]
    exact helems x hx hactive

end

/-! ## The swap of an armed element (R291, R294) -/

/-- A change of every entry of a table acts on what a key reads, where neither that nor what it becomes is the default. -/
theorem tget_tmap_of_ne {α : Type} [DecidableEq α] {d : α} {f : Nat → α → α} {m : Map α} {k : Nat} (hm : tget d k m ≠ d)
    (hf : f k (tget d k m) ≠ d) : tget d k (tmap d f m) = f k (tget d k m) := by
  induction m with
  | nil => exact absurd rfl hm
  | cons p m ih =>
    obtain ⟨k', v⟩ := p
    by_cases hk : k = k'
    · subst hk
      simp only [tget, beq_self_eq_true, if_true] at hf
      simp [tmap, tget, hf]
    · simp only [tget, beq_iff_eq, hk, if_false] at hm hf ih ⊢
      have ih := ih hm hf
      simp only [tmap] at ih
      by_cases hv : f k' v = d <;> simp [tmap, tget, hv, hk, ih]

theorem sameConfig_pause (e : Elem) : sameConfig e e.pause := rfl

/-- An element that has swapped in a splice keeps its configuration where a request of pre-emption that waited is taken (R304). -/
theorem State.elem_takeWaiting {s : State} {ea : Nat} (gn : Nat) (hwave : (s.elem ea).wave ≠ 0) :
    sameConfig (s.elem ea) ((s.takeWaiting gn).elem ea) := by
  have hpause (g : Group) : sameConfig (s.elem ea)
      (tget .zero ea (tmap .zero (fun ea e => if g.covers ea then e.pause else e) s.elems)) := by
    have hkept : sameConfig (s.elem ea) (if g.covers ea then (s.elem ea).pause else s.elem ea) := by
      split
      · exact sameConfig_pause _
      · rfl
    have hlisted {e : Elem} (he : e.wave ≠ 0) : e ≠ .zero := fun h => he (by rw [h])
    rw [tget_tmap_of_ne (hlisted hwave) (hlisted (by rw [← State.elem, hkept.wave]; exact hwave))]
    exact hkept
  fun_cases State.takeWaiting
  case case1 => exact hpause _
  all_goals rfl

theorem exec_spliceSwap {s : State} {ea : Nat} (hst : (s.group (s.groupNo ea)).st = .live) (harmed : (s.elem ea).armed = true)
    (hwrite : (s.elem ea).armedWrite = none) : exec (.spliceSwap ea) s = .next (s.spliceElem (s.groupNo ea) ea) := by
  change execSpliceSwap ea s = _
  simp [execSpliceSwap, hst, harmed, hwrite]

theorem State.elem_spliceElem (s : State) (gn ea : Nat) : (s.elem ea).swapped ((s.spliceElem gn ea).elem ea) ∧
    ((s.spliceElem gn ea).elem ea).wave = (s.elem ea).wave + 1 := by
  obtain ⟨-, hswapped, hwave⟩ := s.spliceOne_swaps gn ea
  unfold State.spliceElem
  generalize s.spliceOne gn ea = t at hswapped hwave
  dsimp only
  split
  · exact ⟨hswapped, hwave⟩
  · have hconfig : sameConfig (t.elem ea) ((t.spliceDone gn).elem ea) := State.elem_takeWaiting gn (by
      change (t.elem ea).wave ≠ 0
      omega)
    exact ⟨hswapped.keeps hconfig, hconfig.wave.trans hwave⟩

theorem exec_spliceSwap_written {s : State} {ea : Nat} {w : Word} (hst : (s.group (s.groupNo ea)).st = .live)
    (harmed : (s.elem ea).armed = true) (hwrite : (s.elem ea).armedWrite = some w) :
    exec (.spliceSwap ea) s = .next (s.raiseGroup (s.groupNo ea) ea ea 0x33 1 w) := by
  change execSpliceSwap ea s = _
  simp [execSpliceSwap, hst, harmed, hwrite]

theorem exec_spliceSettled {s : State} {ea ch : Nat} {q : QWord} (hst : (s.group (s.groupNo ea)).st = .live)
    (hword : (s.elem ea).offending = some (ch, q)) : exec (.spliceSettled ea) s =
      .next ((s.modChan ea ch (fun x => { x with st := .stray })).raiseGroup (s.groupNo ea) ea ea 0x30 ch q.word.data) := by
  change execSpliceSettled ea s = _
  simp [execSpliceSettled, hst, hword]

/-- Settles O43: SWAP and CLEAR of an element by what their planes become, SPLICE by its tests in their order, and an element that swaps
by the one exchange of planes that both share. -/
theorem swapsAndSplices : Obligations.SwapsAndSplices := by
  unfold Obligations.SwapsAndSplices
  intro s c gn ea a g zeroFields alone spills
  refine ⟨fun hclean hfields hscope ha hcheck hbusy => ?swap, fun hclean hfields hscope ha hcheck hbusy => ?busy,
    fun hclean hfields hscope ha hidle => gives_cfgswapClear hclean hfields hscope ha hidle,
    fun hclean hfields hscope ha hgn hst hkern hidle hspill hkid hcheck hsome => ?arms,
    fun hclean hfields hscope ha hgn htiles hclosed => ?closed, fun hclean hfields hscope ha hgn hst hkern hidle => ?refused,
    fun hgroup hst harmed hwrite => ?element, fun w hgroup hst harmed hwrite => ?written, fun ch q hgroup hst hword => ?settled⟩
  case swap =>
    obtain ⟨t, ht, hswapped, hstatus⟩ := gives_cfgswapSwap hclean hfields hscope ha hcheck hbusy
    exact ⟨t, ht, hswapped.active, hswapped.shadow, hswapped.work, hswapped.epoch, hstatus⟩
  case busy => exact gives_refused (exec_cfgswapSwap_busy hclean hfields hscope ha hcheck hbusy)
  case arms =>
    have hsplice := State.splice_sameSpills hst hkern hidle hcheck hspill
    rw [if_neg (by simpa using hkid)] at hsplice
    obtain ⟨t, ht, hgroup, hdraining, hlive, hstatus, helems⟩ :=
      gives_cfgswapSplice_armed hclean hfields hscope ha hgn (Group.holdsTiles_live hst) hsplice hsome
    exact ⟨t, ht, hgroup, hdraining, hlive.trans hst, hstatus, helems⟩
  case closed => exact gives_cfgswapSplice_refused hclean hfields hscope ha hgn htiles (State.splice_closed _ hclosed)
  case refused =>
    have refused {code d x : Nat} := gives_cfgswapSplice_refused (code := code) (d := d) (x := x) hclean hfields hscope ha hgn
      (Group.holdsTiles_live hst)
    refine ⟨fun k x hcheck => refused (State.splice_badPlane hst hkern hidle hcheck),
      fun hcheck hspill => refused (State.splice_otherSpills hst hkern hidle hcheck hspill), fun hcheck hspill hkid => refused ?_⟩
    rw [State.splice_sameSpills hst hkern hidle hcheck hspill, if_pos (by simpa using hkid)]
  case element =>
    subst hgroup
    obtain ⟨hswapped, hwave⟩ := s.elem_spliceElem (s.groupNo ea) ea
    exact ⟨_, exec_spliceSwap hst harmed hwrite, hswapped.active, hswapped.work, hwave, hswapped.armed⟩
  case written =>
    subst hgroup
    exact exec_spliceSwap_written hst harmed hwrite
  case settled =>
    subst hgroup
    exact exec_spliceSettled hst hword

end Sys2Proof.Machine
end

section
/-! SUPPORT. Messages that leave a crest core (R14, R400, R401): what a notice leaves alone. -/

namespace Sys2Proof.Machine

/-- What a message for the control node leaves alone: all but the links and their requests, the cores, the hubs that hold notices and
what has been sent; nothing leaves the agenda. -/
def noticeFrame (s t : State) : Prop :=
  t = { s with agenda := t.agenda, xlinks := t.xlinks, remotes := t.remotes, sent := t.sent, cores := t.cores, hubs := t.hubs } ∧
    s.keepsAgenda t

theorem noticeFrame.refl (s : State) : noticeFrame s s := ⟨rfl, fun _ h => h⟩

theorem noticeFrame.trans {s t u : State} (h : noticeFrame s t) (k : noticeFrame t u) : noticeFrame s u := by
  obtain ⟨hst, hag⟩ := h
  obtain ⟨htu, kag⟩ := k
  refine ⟨?_, hag.trans kag⟩
  rw [htu, hst]

theorem noticeFrame_foldl {β : Type} {f : State → β → State} (hf : ∀ s x, noticeFrame s (f s x)) (l : List β) (s : State) :
    noticeFrame s (l.foldl f s) :=
  State.foldl_keeps (noticeFrame s) f l (fun u x h => h.trans (hf u x)) (.refl s)

theorem noticeFrame_at (s : State) (n : Nat) (i : Instr) : noticeFrame s (s.at_ n i) := ⟨rfl, s.keepsAgenda_at n i⟩

theorem noticeFrame_leftPort (s : State) (l : Nat) (load : TxLoad) : noticeFrame s (s.leftPort l load) := by
  fun_cases State.leftPort
  · exact .refl s
  next q hq sent marked credited timed =>
    have hmarked : noticeFrame s marked := ⟨rfl, fun _ h => h⟩
    have hcredited : noticeFrame marked credited := by
      unfold credited
      split
      · exact noticeFrame_at ..
      · exact .refl _
    have htimed : noticeFrame credited timed := by
      unfold timed
      split
      · exact noticeFrame_at ..
      · exact .refl _
    exact ((hmarked.trans hcredited).trans htimed).trans (noticeFrame_at ..)
  · exact .refl s

theorem noticeFrame_linkSend (s : State) (l vc : Nat) (load : TxLoad) : noticeFrame s (s.linkSend l vc load) :=
  noticeFrame.trans (t := s.modXlink l _) ⟨rfl, fun _ h => h⟩ (noticeFrame.trans (t := State.modXlink _ l _) ⟨rfl, fun _ h => h⟩
    (noticeFrame_foldl (fun s _ => noticeFrame_leftPort s ..) ..))

theorem noticeFrame_emit (s : State) (m : Msg) : noticeFrame s (s.emit m) :=
  noticeFrame.trans (t := { s with sent := s.sent ++ [m] }) ⟨rfl, fun _ h => h⟩
    (noticeFrame_foldl (fun s _ => noticeFrame_linkSend s ..) ..)

theorem noticeFrame_sendMsg (s : State) (k : Nat) (m : Msg) : noticeFrame s (s.sendMsg k m) := by
  unfold State.sendMsg
  split
  · exact noticeFrame_emit ..
  · exact ⟨rfl, fun _ h => h⟩

theorem noticeFrame_giveNotice (s : State) (gn origin : Nat) (m : Msg) : noticeFrame s (s.giveNotice gn origin m) := by
  unfold State.giveNotice
  split
  · exact noticeFrame_sendMsg ..
  · exact ⟨rfl, fun _ h => h⟩

section
variable {s t : State} (h : noticeFrame s t)
include h

theorem noticeFrame.sameProgram : sameProgram s t := by
  rw [h.1]
  exact ⟨sameMemory_of rfl rfl rfl, fun _ _ => .refl _⟩

theorem noticeFrame.launch (lid : Nat) : t.launch lid = s.launch lid := by
  rw [h.1]
  rfl

end

end Sys2Proof.Machine
end

section
/-! SUPPORT. The life of a launch (R274, R318 to R326, Tables 13-3 to 13-7): its entry, its placement, its load, its
start and its end. Settles O40. -/

namespace Sys2Proof.Machine

/-! ## Queues and launches read after a write -/

theorem State.queue_modQueue (s : State) (q : Nat) (f : Queue → Queue) : (s.modQueue q f).queue q = f (s.queue q) := tget_tput_same ..

theorem State.queue_modQueue_ne (s : State) {q k : Nat} (f : Queue → Queue) (h : k ≠ q) : (s.modQueue q f).queue k = s.queue k :=
  tget_tput_ne _ _ _ _ _ h

/-- What waits at a queue at which nothing waits changes nothing. -/
theorem State.drainWaiting_none {s : State} {qn : Nat} (h : (s.queue qn).waiting = []) :
    s.drainWaiting qn = s.modQueue qn (fun q => { q with waiting := [] }) := by
  simp only [State.drainWaiting, h]
  rfl

/-! ## Entries (R318, R320, R322) -/

/-- A push port is given its packet. -/
theorem gives_pushWrite {s : State} {die j : Nat} (v : Word) (hidle : (tget .zero (32 * die + j) s.pushes).busy = false) :
    gives (.pushWrite die j v) s (fun t => (tget .zero (32 * die + j) t.pushes).busy = true ∧
      ∃ e : EntryReq, t.awaits (s.now + (8 + 48 * dieDist (j / 4) die)) (.enqueueEntry e) ∧
        e.dom = v.toNat / 2 ^ 16 % 2 ^ 16 ∧ (v.toNat % 256 / 32 = die → e.queue = v.toNat % 256) ∧ e.port = some (die, j) ∧
        e.packet = (List.range 16).flatMap (fun i => leBytes 8 (tget 0 i (tget .zero (32 * die + j) s.pushes).pkt).toNat)) := by
  have hexec : exec (.pushWrite die j v) s = execPushWrite die j v s := rfl
  simp only [execPushWrite, hidle] at hexec
  refine ⟨_, hexec, congrArg Push.busy (tget_tput_same ..), _, State.awaits_at .., rfl, fun hdie => ?_, rfl, rfl⟩
  exact if_pos (beq_iff_eq.mpr hdie)

/-- The packet of a qpush is read: its entry goes to its queue. -/
theorem gives_qpushEntry {s : State} {r : MReq} (hwhole : r.aop.testBit 8 = false) :
    gives (.qpushEntry r) s (fun t => ∃ e : EntryReq, e.queue = r.aop % 256 ∧ e.dom = r.dom ∧
      e.packet = tget [] r.id s.reads ∧ e.parent = (s.group r.grp).lid ∧ e.pusher = some (r.ea, r.ctx, r.slot, r.addr) ∧
      t.awaits (s.now + (8 + 48 * dieDist (eaDie r.ea) (r.aop % 256 / 32))) (.enqueueEntry e) ∧ sameProgram s t) := by
  refine ⟨_, rfl, _, rfl, rfl, ?_, rfl, rfl, State.awaits_at .., sameMemory_of rfl rfl rfl, fun _ _ => .refl _⟩
  simp [hwhole]

/-- The launch that an entry of a push port becomes. -/
def State.entryLaunch (s : State) (e : EntryReq) : Launch where
  lid := s.lids % 2 ^ 32
  queue := e.queue
  pkt := e.packet
  st := .queued
  grp := none
  parent := none
  kids := 0
  fail := false
  code := 0
  enq := (s.dieCycle (e.queue / 32)).toNat
  saved := false
  dom := e.dom
  origin := 0
  kidFail := false
  rec_ := 0

/-- That launch is listed, in place of an earlier one of its number. -/
def State.entered (s : State) (e : EntryReq) : State :=
  { s with lids := s.lids + 1, launches := (s.launches.filter (fun x => x.lid != s.lids % 2 ^ 32)) ++ [s.entryLaunch e] }

theorem State.launch_entered (s : State) (e : EntryReq) : (s.entered e).launch (s.lids % 2 ^ 32) = some (s.entryLaunch e) := by
  have hearlier : (s.launches.filter (fun x => x.lid != s.lids % 2 ^ 32)).find? (fun x => x.lid == s.lids % 2 ^ 32) = none := by
    simp
  rw [State.launch, State.entered, List.find?_append, hearlier]
  simp [State.entryLaunch]

section
variable {s : State} {e : EntryReq} (hpusher : e.pusher = none)
include hpusher

theorem State.pushOver_port : s.pushOver e = s := by
  simp only [State.pushOver, hpusher]

theorem State.refuseEntry_port (n : Nat) : s.refuseEntry e n = s.portStatus e n := by
  simp only [State.refuseEntry, hpusher, State.pushOver_port hpusher]

variable {d j : Nat} (hport : e.port = some (d, j))
include hport

omit hpusher in
/-- The status of an entry is at its port, which takes the next packet. -/
theorem State.push_portStatus (n : Nat) : (tget .zero (32 * d + j) (s.portStatus e n).pushes).stat = n ∧
    (tget .zero (32 * d + j) (s.portStatus e n).pushes).busy = false := by
  simp only [State.portStatus, hport]
  exact ⟨congrArg Push.stat (tget_tput_same ..), congrArg Push.busy (tget_tput_same ..)⟩

omit hpusher in
/-- The status of an entry changes nothing but its port. -/
theorem State.portStatus_eq (n : Nat) : s.portStatus e n = { s with pushes := (s.portStatus e n).pushes } := by
  simp only [State.portStatus, hport]

/-- An entry that fails a test is refused with the status of the test (Table 13-5). -/
theorem gives_enqueueEntry_refused {n : Nat} (htest : s.entryTest e = n) (hbad : n = 1 ∨ n = 2 ∨ n = 3) :
    gives (.enqueueEntry e) s (fun t => (tget .zero (32 * d + j) t.pushes).stat = n ∧
      (tget .zero (32 * d + j) t.pushes).busy = false ∧ t.queues = s.queues ∧ t.launches = s.launches) := by
  have hexec : exec (.enqueueEntry e) s = .next (s.portStatus e n) := by
    change execEnqueueEntry e s = _
    rcases hbad with rfl | rfl | rfl <;>
      simp only [execEnqueueEntry, State.takeEntry, htest, State.refuseEntry_port hpusher] <;> rfl
  obtain ⟨hstat, hbusy⟩ := State.push_portStatus (s := s) hport n
  have hrest := State.portStatus_eq (s := s) hport n
  exact ⟨_, hexec, hstat, hbusy, (congrArg State.queues hrest).trans rfl, (congrArg State.launches hrest).trans rfl⟩

variable (hparent : e.parent = none) (hroom : (s.queue e.queue).ents.length < 64)
include hparent hroom

omit hport in
theorem State.acceptEntry_port : s.acceptEntry e = ((s.entered e).modQueue e.queue (fun q =>
    { q with ents := q.ents ++ [s.lids % 2 ^ 32] })).portStatus e 0 := by
  have hnone : s.entryParent e = none := by simp [State.entryParent, hparent]
  simp only [State.acceptEntry, hnone, Option.map_none]
  exact (congrArg (State.portStatus · e 0) (State.pushOver_port hpusher)).trans (congrArg (State.portStatus · e 0) (if_pos hroom))

/-- An entry that passes the tests takes the tail of its queue, as a QUEUED launch with the next LID. -/
theorem gives_enqueueEntry_accepted (htest : s.entryTest e = 0) :
    gives (.enqueueEntry e) s (fun t => (tget .zero (32 * d + j) t.pushes).stat = 0 ∧
      (t.queue e.queue).ents = (s.queue e.queue).ents ++ [s.lids % 2 ^ 32] ∧ t.lids = s.lids + 1 ∧
      ∃ l : Launch, t.launch (s.lids % 2 ^ 32) = some l ∧ l.st = .queued ∧ l.pkt = e.packet ∧ l.queue = e.queue ∧ l.dom = e.dom ∧
        l.kids = 0) := by
  have hkids : s.kidsFull e = false := by simp [State.kidsFull, State.entryParent, hparent]
  have hexec : exec (.enqueueEntry e) s = .next (s.acceptEntry e) := by
    change execEnqueueEntry e s = _
    simp only [execEnqueueEntry, State.takeEntry, htest, hkids]
    rfl
  rw [State.acceptEntry_port hpusher hparent hroom] at hexec
  generalize hlisted : (s.entered e).modQueue e.queue (fun q => { q with ents := q.ents ++ [s.lids % 2 ^ 32] }) = listed at hexec
  obtain ⟨hstat, -⟩ := State.push_portStatus (s := listed) hport 0
  have hrest := State.portStatus_eq (s := listed) hport 0
  have hents : (listed.queue e.queue).ents = (s.queue e.queue).ents ++ [s.lids % 2 ^ 32] := by
    rw [← hlisted]
    exact congrArg Queue.ents (State.queue_modQueue ..)
  have hlids : listed.lids = s.lids + 1 := by rw [← hlisted]; rfl
  have hlaunch : listed.launch (s.lids % 2 ^ 32) = some (s.entryLaunch e) := by
    rw [← hlisted]
    exact s.launch_entered e
  exact ⟨_, hexec, hstat, (congrArg (fun u => (State.queue u e.queue).ents) hrest).trans hents,
    (congrArg State.lids hrest).trans hlids, s.entryLaunch e,
    (congrArg (fun u => State.launch u (s.lids % 2 ^ 32)) hrest).trans hlaunch, rfl, rfl, rfl, rfl, rfl⟩

end

/-! ## The decision of a scheduler (R299, R326) -/

/-- Two states that read the same queues, and differ in nothing else. -/
def sameQueues (s t : State) : Prop := ∃ qs, t = { s with queues := qs } ∧ ∀ k, tget .zero k qs = s.queue k

theorem sameQueues.refl (s : State) : sameQueues s s := ⟨s.queues, rfl, fun _ => rfl⟩

theorem sameQueues.trans {s t u : State} (h : sameQueues s t) (k : sameQueues t u) : sameQueues s u := by
  obtain ⟨_, rfl, hread⟩ := h
  obtain ⟨_, rfl, kread⟩ := k
  exact ⟨_, rfl, fun k => (kread k).trans (hread k)⟩

/-- A queue that is put back as it was. -/
theorem sameQueues_modQueue (s : State) {q : Nat} {f : Queue → Queue} (h : f (s.queue q) = s.queue q) :
    sameQueues s (s.modQueue q f) := by
  refine ⟨_, rfl, fun k => ?_⟩
  by_cases hk : k = q
  · subst hk
    exact (tget_tput_same ..).trans h
  · exact tget_tput_ne _ _ _ _ _ hk

/-- Queue `qn` of a die in service is OPEN, alone in holding a launch, `l`, whose wait holds and whose shape fits at `o`. -/
structure State.oneHead (s : State) (die qn lid : Nat) (l : Launch) (o : Nat × Nat) : Prop where
  listed : qn ∈ dieQueues die
  up : (s.die die).released.isSome = true
  others : ∀ q ∈ dieQueues die, (s.queue q).hold = false ∧ (q ≠ qn → (s.queue q).ents = [])
  opened : (s.queue qn).st = .opened
  pri : (s.queue qn).pri ≤ 7
  ents : (s.queue qn).ents = [lid]
  back : (s.queue qn).back = []
  waiting : (s.queue qn).waiting = []
  launch : s.launch lid = some l
  number : l.lid = lid
  saved : l.saved = false
  waitOk : s.waitOk l = true
  fits : s.beforeCycle.firstOrigin l.shape.1 l.shape.2 = some o
  free : (rectTiles o.1 o.2 l.shape.1 l.shape.2).all s.tileFree = true

section
variable {s : State} {die qn lid : Nat} {l : Launch} {o : Nat × Nat} (h : s.oneHead die qn lid l o)
include h

theorem State.oneHead.sameQueues {t : State} (k : sameQueues s t) : t.oneHead die qn lid l o := by
  obtain ⟨qs, rfl, hqs⟩ := k
  have hqueue : State.queue { s with queues := qs } = s.queue := funext hqs
  exact ⟨h.listed, h.up, hqueue ▸ h.others, hqueue ▸ h.opened, hqueue ▸ h.pri, hqueue ▸ h.ents, hqueue ▸ h.back, hqueue ▸ h.waiting,
    h.launch, h.number, h.saved, h.waitOk, h.fits, h.free⟩

theorem State.oneHead.headOf : s.headOf qn = some l := by
  simp [State.headOf, h.ents, h.launch]

theorem State.oneHead.headOf_other {k : Nat} (hk : k ∈ dieQueues die) (hne : k ≠ qn) : s.headOf k = none := by
  simp [State.headOf, (h.others k hk).2 hne]

theorem State.oneHead.considered : s.considered qn = some l := by
  simp [State.considered, h.headOf, h.opened]

theorem State.oneHead.fitOf : s.fitOf qn = some o := by
  simp [State.fitOf, h.considered, h.fits]

theorem State.oneHead.fitOf_other {k : Nat} (hk : k ∈ dieQueues die) (hne : k ≠ qn) : s.fitOf k = none := by
  simp [State.fitOf, State.considered, h.headOf_other hk hne]

/-- The wait of the one head holds, so that no queue changes between OPEN and BLOCKED. -/
theorem State.oneHead.updateWaits : Machine.sameQueues s (s.updateWaits die) := by
  refine List.foldlRecOn (motive := Machine.sameQueues s) (dieQueues die) _ (.refl s) fun u hu k hk => ?_
  have hone := h.sameQueues hu
  by_cases hkq : k = qn
  · subst hkq
    simp only [hone.headOf]
    exact hu.trans (sameQueues_modQueue u (by simp [hone.opened, hone.waitOk]))
  · simp only [hone.headOf_other hk hkq]
    exact hu

theorem State.oneHead.starved : s.starved die = [] := by
  refine List.filter_eq_nil_iff.mpr fun k hk => ?_
  by_cases hkq : k = qn
  · simp [hkq, h.fitOf]
  · simp [State.considered, h.headOf_other hk hkq]

theorem State.oneHead.held : (dieQueues die).filter (fun k => (s.queue k).hold) = [] :=
  List.filter_eq_nil_iff.mpr fun k hk => by simp [(h.others k hk).1]

theorem State.oneHead.candidates : (dieQueues die).filter (fun k => (s.queue k).pri ≤ 7 && (s.fitOf k).isSome) = [qn] := by
  have honly : ∀ k ∈ dieQueues die, ((s.queue k).pri ≤ 7 && (s.fitOf k).isSome : Bool) = (k == qn) := by
    intro k hk
    by_cases hkq : k = qn
    · simp [hkq, h.fitOf, h.pri]
    · simp [hkq, h.fitOf_other hk hkq]
  have hnodup : (dieQueues die).Nodup := List.nodup_range.map fun a b hab => by simpa using hab
  rw [List.filter_congr honly, List.filter_beq, List.count_eq_one_of_mem hnodup h.listed]
  rfl

omit h in
theorem State.pickQueue_single (s : State) (die qn : Nat) : s.pickQueue die [qn] = some qn := by
  simp only [State.pickQueue, List.foldl_nil, List.filter_cons, List.filter_nil, beq_self_eq_true, if_true]
  split
  next p ps hp =>
    split at hp
    · cases hp; rfl
    · cases hp
  next => rw [List.find?_cons]; split <;> rfl

theorem State.oneHead.stillFits : s.stillFits l o = true := by
  simp [State.stillFits, h.free]

/-- No other queue holds a launch that a placement would pass over. -/
theorem State.oneHead.aging : (dieQueues die).foldl (fun s x =>
    let q := s.queue x
    if x != qn && q.st == .opened && !q.ents.isEmpty && q.age != 0 then s.modQueue x Queue.age_ else s) s = s := by
  refine List.foldlRecOn (motive := (· = s)) (dieQueues die) _ rfl fun u hu k hk => ?_
  subst hu
  by_cases hkq : k = qn
  · simp [hkq]
  · simp [(h.others k hk).2 hkq]

theorem State.oneHead.exec_schedulerDecision :
    exec (.schedulerDecision die) s = .next ((s.updateWaits die).placeHead die qn l o) := by
  have hone := h.sameQueues h.updateWaits
  have hup : s.dieUp die = true := h.up
  change execSchedulerDecision die s = _
  simp only [execSchedulerDecision, hup, Bool.not_true, Bool.false_eq_true, if_false, hone.starved, List.foldl_nil, hone.held,
    hone.candidates, State.pickQueue_single, hone.considered, hone.fitOf, hone.stillFits, hone.aging]

end

/-! ## The placement of a head (R298, R299, Table 12-1) -/

/-- No RETIRED group holds the origin of a free rectangle. -/
theorem State.retiredAt_free {s : State} {o : Nat × Nat} {w h : Nat} (hw : 1 ≤ w) (hh : 1 ≤ h)
    (hfree : (rectTiles o.1 o.2 w h).all s.tileFree = true) : s.retiredAt o = none := by
  have hmem : tileAt o.1 o.2 ∈ rectTiles o.1 o.2 w h :=
    List.mem_map.mpr ⟨0, List.mem_range.mpr (Nat.mul_pos hw hh), by simp⟩
  have htile := List.all_eq_true.mp hfree _ hmem
  simp only [State.tileFree, Bool.and_eq_true, Option.isNone_iff_eq_none] at htile
  simp [State.retiredAt, htile.2]

/-- A queue with one launch and nothing behind it is left empty. -/
theorem Queue.popHead_single {q : Queue} {lid : Nat} (hents : q.ents = [lid]) (hback : q.back = []) :
    q.popHead.ents = [] ∧ q.popHead.waiting = q.waiting := by
  by_cases hst : q.st = .draining <;> simp [Queue.popHead, Queue.leave, Config.queueEntries, hents, hback, hst]

/-- The group of a launch placed anew: RESERVED, its control register from the packet. -/
def State.newGroup (s : State) (die : Nat) (l : Launch) (o : Nat × Nat) : Group :=
  { Group.limits { Group.zero with
      st := .reserved, dom := l.dom, x := o.1, y := o.2, w := pktW l.pkt, h := pktH l.pkt } l.pkt with
    lid := some l.lid
    launchArg := BitVec.ofNat 64 (pktArg l.pkt)
    placed := some (s.now, State.mapUsed die o.1 o.2 (pktW l.pkt) (pktH l.pkt)) }

/-- A launch placed anew at an origin that no RETIRED group holds takes the lowest free number, and its image is to be read. -/
theorem State.placeNew_fresh {s : State} {die : Nat} {l : Launch} {o : Nat × Nat} (hret : s.retiredAt o = none)
    (hl : s.launch l.lid = some l) :
    (s.placeNew die l o).group s.freeNumber = s.newGroup die l o ∧
    (s.placeNew die l o).launch l.lid = some { l with st := .placed, grp := some s.freeNumber, origin := tileAt o.1 o.2 } ∧
    (∀ q, (s.placeNew die l o).queue q = s.queue q) ∧
    ∃ b c, (s.placeNew die l o).awaits (s.now + s.mapDelay die o (pktW l.pkt) (pktH l.pkt))
      (.imageLoadRequest ⟨s.freeNumber, false, b, c, some l.lid, none⟩) := by
  simp only [State.placeNew, hret, State.placeGroup]
  refine ⟨?_, ?_, fun _ => rfl, _, _, State.awaits_at ..⟩
  · refine (State.group_setGroup_same ..).trans ?_
    rw [State.group_setGroup_same]
    rfl
  · exact State.launch_modLaunch (f := fun x => { x with st := .placed, grp := some s.freeNumber, origin := tileAt o.1 o.2 }) hl
      fun _ h => h

/-- What the placement of the launch `l` from queue `qn` leaves: its queue is empty, its group RESERVED at the origin `o`, its image to
be read. -/
structure placedAt (s t : State) (die qn lid : Nat) (l : Launch) (o : Nat × Nat) : Prop where
  ents : (t.queue qn).ents = []
  group : t.group s.freeNumber = s.newGroup die l o
  launch : t.launch lid = some { l with st := .placed, grp := some s.freeNumber, origin := tileAt o.1 o.2 }
  load : ∃ b c, t.awaits (s.now + s.mapDelay die o l.shape.1 l.shape.2) (.imageLoadRequest ⟨s.freeNumber, false, b, c, some lid, none⟩)

/-- The head has left its queue, which is the last of its priority that was served. -/
def State.headTaken (s : State) (die qn : Nat) : State :=
  State.modQueue { s with lastPlaced := tput 0 (8 * die + (s.queue qn).eff) (qn + 1) s.lastPlaced } qn Queue.popHead

section
variable {s : State} {die qn lid : Nat} {l : Launch} {o : Nat × Nat} (h : s.oneHead die qn lid l o) (hw : 1 ≤ l.shape.1)
  (hh : 1 ≤ l.shape.2)
include h hw hh

theorem State.oneHead.placeHead : placedAt s (s.placeHead die qn l o) die qn lid l o := by
  have hnumber := h.number
  subst hnumber
  obtain ⟨hents, hwaiting⟩ := Queue.popHead_single h.ents h.back
  have hret : (s.headTaken die qn).retiredAt o = none := State.retiredAt_free hw hh h.free
  have hqueue : (s.headTaken die qn).queue qn = (s.queue qn).popHead := State.queue_modQueue ..
  obtain ⟨hgroup, hplaced, hqueues, hload⟩ := State.placeNew_fresh (die := die) hret h.launch
  have hdrain : s.placeHead die qn l o = ((s.headTaken die qn).placeNew die l o).drainWaiting qn := by
    simp only [State.placeHead, h.saved]
    rfl
  rw [hdrain, State.drainWaiting_none (by rw [hqueues, hqueue, hwaiting, h.waiting])]
  refine ⟨?_, hgroup, hplaced, hload⟩
  rw [State.queue_modQueue, hqueues, hqueue]
  exact hents

/-- The head that fits is placed: it leaves its queue, its group is RESERVED at its origin, and its image is to be read. -/
theorem State.oneHead.gives_schedulerDecision :
    gives (.schedulerDecision die) s (fun t => placedAt s t die qn lid l o) := by
  have hexec := h.exec_schedulerDecision
  have hplaced := (h.sameQueues h.updateWaits).placeHead hw hh
  obtain ⟨qs, hwaits, -⟩ := h.updateWaits
  rw [hwaits] at hexec hplaced
  obtain ⟨hents, hgroup, hlaunch, hload⟩ := hplaced
  exact ⟨_, hexec, hents, hgroup, hlaunch, hload⟩

end

/-! ## Loads (R274, Table 13-7) -/

section
variable {s : State} {r : LoadReq} {lid : Nat} (hreply : r.reply = none) (hlaunch : r.launch = some lid)
include hreply hlaunch

/-- An image that is installed is followed by the start of its launch. -/
theorem gives_imageLoadRequest_installed {u : State} (hread : r.readFault = none) (hsplice : r.splice = false)
    (hload : s.loadImage r ((s.launch lid).map (fun x => BitVec.ofNat 64 (pktKid x.pkt))) = ((0, 0, 0), u))
    (hruns : (u.group r.grp).lid = some lid) : gives (.imageLoadRequest r) s (fun t => t = u.after 1 (.launchStart lid)) := by
  refine ⟨_, ?_, rfl⟩
  change execImageLoadRequest r s = _
  simp [execImageLoadRequest, hread, hsplice, hlaunch, hload, hruns, hreply]

/-- An image that is not read fails its launch. -/
theorem exec_imageLoadRequest_refused {c : Byte} (hread : r.readFault = some c) (hc : c ≠ 0) :
    exec (.imageLoadRequest r) s = .next (s.failLoad r.grp lid c.toNat) := by
  have hcode : c.toNat ≠ 0 := fun h => hc (BitVec.eq_of_toNat_eq h)
  change execImageLoadRequest r s = _
  simp [execImageLoadRequest, hread, hlaunch, hreply, hcode]

end

/-- A launch whose group is gone when its load is refused fails all the same. -/
theorem State.failLoad_released {s : State} {gn lid code : Nat} {l : Launch} (hgone : (s.group gn).lid ≠ some lid)
    (hl : s.launch lid = some l) (hplaced : l.st = .placed) :
    (s.failLoad gn lid code).launch lid = some { l with fail := true, code := code } ∧
      (s.failLoad gn lid code).awaits s.now (.launchComplete lid) := by
  have hexec : s.failLoad gn lid code =
      (s.modLaunch lid (fun l => { l with fail := true, code := code })).at_ s.now (.launchComplete lid) := by
    simp [State.failLoad, hgone, hl, hplaced]
  rw [hexec]
  exact ⟨State.launch_modLaunch (f := fun l => { l with fail := true, code := code }) hl fun _ h => h, State.awaits_at ..⟩

/-! ## The start of a launch (R324, R325) -/

/-- The bytes of a slice are those of the string from its offset. -/
theorem getElem_sliceAt {b : List Byte} {off n k : Nat} (h : k < (sliceAt b off n).length) :
    (sliceAt b off n)[k] = (b[off + k]?).getD 0 := by
  have hk : off + k < b.length := by
    simp only [sliceAt, List.length_take, List.length_drop] at h
    omega
  simp [sliceAt, hk]

section
variable (s : State) {a : Nat} {p : List Byte} {off n : Nat}

/-- Bytes of a packet written to a window read back. -/
theorem State.readByte_windowBytes_in {k : Nat} (hk : k < n) (hp : off + k < p.length) :
    (s.windowBytes a (sliceAt p off n)).readByte (a + k) = (p[off + k]?).getD 0 := by
  have hlen : k < (sliceAt p off n).length := by
    simp only [sliceAt, List.length_take, List.length_drop]
    omega
  exact (s.readByte_writeBytes_in a _ hlen).trans (getElem_sliceAt hlen)

/-- Bytes of a packet written to a window leave every other byte alone. -/
theorem State.readByte_windowBytes_out {x : Nat} (hx : x < a ∨ a + n ≤ x) :
    (s.windowBytes a (sliceAt p off n)).readByte x = s.readByte x := by
  have hlen : (sliceAt p off n).length ≤ n := List.length_take_le ..
  exact s.readByte_writeBytes_out _ (hx.imp_right (by omega))

end

/-- Bytes written change memory alone. -/
theorem State.writeBytes_eq (s : State) (a : Nat) (b : List Byte) : s.writeBytes a b = { s with mem := (s.writeBytes a b).mem } := by
  induction b generalizing s a with
  | nil => rfl
  | cons x b ih => exact (ih ..).trans rfl

/-- Bytes written to a window change memory and the marks of its units alone. -/
theorem State.windowBytes_eq (s : State) (a : Nat) (b : List Byte) :
    s.windowBytes a b = { s with mem := (s.windowBytes a b).mem, poison := (s.windowBytes a b).poison } := by
  unfold State.windowBytes
  rw [s.writeBytes_eq a b]

/-- A RESIDENT kernel that starts runs. -/
theorem State.kern_startKernel {s : State} {gn : Nat} (h : (s.group gn).kern.st = .resident) :
    ((s.startKernel gn).group gn).kern.st = .running := by
  refine (congrArg (fun g : Group => g.kern.st) (State.group_setGroup_same s gn _)).trans ?_
  simp [h]

/-- The launch of a loaded group starts: its inline bytes are written, and its kernel runs. -/
theorem gives_launchStart {s : State} {lid gn : Nat} {l : Launch} (hl : s.launch lid = some l) (hplaced : l.st = .placed)
    (hgrp : l.grp = some gn) (hsaved : l.saved = false) (hloaded : (s.group gn).st ≠ .loading) (hinline : s.inlineBad l = false) :
    gives (.launchStart lid) s (fun t => t.launch lid = some { l with st := .running } ∧
      ((s.group gn).kern.st = .resident → (t.group gn).kern.st = .running) ∧
      (∀ k, k < pktInlen l.pkt → 0x40 + k < l.pkt.length →
        t.readByte (seAddr l.origin (pktInloff l.pkt) + k) = (l.pkt[0x40 + k]?).getD 0) ∧
      ∀ a, (a < seAddr l.origin (pktInloff l.pkt) ∨ seAddr l.origin (pktInloff l.pkt) + pktInlen l.pkt ≤ a) →
        t.readByte a = s.readByte a) := by
  have hexec : exec (.launchStart lid) s =
      .next ((State.modLaunch (s.windowBytes (seAddr l.origin (pktInloff l.pkt)) (sliceAt l.pkt 0x40 (pktInlen l.pkt))) lid
        (fun x => { x with st := .running })).startKernel gn) := by
    change execLaunchStart lid s = _
    simp [execLaunchStart, hl, hplaced, hgrp, hsaved, hloaded, hinline]
  have hin := fun k => s.readByte_windowBytes_in (a := seAddr l.origin (pktInloff l.pkt)) (p := l.pkt) (off := 0x40)
    (n := pktInlen l.pkt) (k := k)
  have hout := fun x => s.readByte_windowBytes_out (a := seAddr l.origin (pktInloff l.pkt)) (p := l.pkt) (off := 0x40)
    (n := pktInlen l.pkt) (x := x)
  have hsame := s.windowBytes_eq (seAddr l.origin (pktInloff l.pkt)) (sliceAt l.pkt 0x40 (pktInlen l.pkt))
  generalize s.windowBytes (seAddr l.origin (pktInloff l.pkt)) (sliceAt l.pkt 0x40 (pktInlen l.pkt)) = w at hexec hin hout hsame
  have hlaunch : w.launch lid = some l := (congrArg (fun u => State.launch u lid) hsame).trans hl
  have hgroup : w.group gn = s.group gn := (congrArg (fun u => State.group u gn) hsame).trans rfl
  refine ⟨_, hexec, ?_, fun hres => State.kern_startKernel ?_, hin, hout⟩
  · exact State.launch_modLaunch (f := fun x => { x with st := .running }) hlaunch fun _ h => h
  · exact (congrArg (fun g : Group => g.kern.st) hgroup).trans hres

/-! ## The end of a launch (R324, R325) -/

/-- The step at which a launch that gives a signal waits, once its code is `c`. -/
def Launch.signalStep (l : Launch) (c : Nat) : Nat := if pktFlag l.pkt flagSigen then (if c = 0xFE then 5 else 4) else 0

/-- The fc from the scheduler of a launch to its signal. -/
def Launch.signalDelay (l : Launch) : Nat := 8 + 48 * dieDist (l.queue / 32) (pktSigout l.pkt / 512)

/-- What the last steps of the launch `l` with code `c` do: its signal is on its way, with its completion, or its notice may go. -/
structure endsLaunch (s t : State) (l : Launch) (c : Nat) : Prop where
  launch : t.launch l.lid = some { l with rec_ := l.signalStep c }
  complete : pktFlag l.pkt flagSigen = true → t.awaits (s.now + l.signalDelay) (.launchComplete l.lid)
  signal : pktFlag l.pkt flagSigen = true → t.awaits (s.now + l.signalDelay) (.signalUpdate (pktSigout l.pkt) (pktSigadd l.pkt))
  program : sameProgram s t

theorem noticeFrame_lastStep (s : State) (l : Launch) (c : Nat) : noticeFrame s (s.lastStep l c) := by
  unfold State.lastStep
  split
  · exact noticeFrame_giveNotice ..
  · exact .refl s

theorem endsLaunch_endSteps {s : State} {l : Launch} {c : Nat} (hl : s.launch l.lid = some l) (hrec : l.rec_ = 0)
    (hparent : l.parent = none) : endsLaunch s (s.endSteps l c) l c := by
  by_cases hsig : pktFlag l.pkt flagSigen = true
  · have hsteps : s.endSteps l c = ((s.after l.signalDelay (.signalUpdate (pktSigout l.pkt) (pktSigadd l.pkt))).modLaunch l.lid
        (fun l => { l with rec_ := if c == 0xFE then 5 else 4 })).after l.signalDelay (.launchComplete l.lid) := by
      simp only [State.endSteps, hparent, hsig, if_true]
      rfl
    have hsignal : (s.after l.signalDelay (.signalUpdate (pktSigout l.pkt) (pktSigadd l.pkt))).awaits (s.now + l.signalDelay)
        (.signalUpdate (pktSigout l.pkt) (pktSigadd l.pkt)) := State.awaits_at ..
    rw [hsteps]
    refine ⟨?_, fun _ => State.awaits_at .., fun _ => hsignal.kept fun _ hx => State.keepsAgenda_at _ _ _ _ hx, ?_⟩
    · refine (State.launch_modLaunch (f := fun l => { l with rec_ := if c == 0xFE then 5 else 4 }) hl fun _ h => h).trans ?_
      simp [Launch.signalStep, hsig]
    · exact ⟨sameMemory_of rfl rfl rfl, fun _ _ => .refl _⟩
  · have hsteps : s.endSteps l c = s.lastStep l c := by simp [State.endSteps, hparent, hsig]
    have hnotice := noticeFrame_lastStep s l c
    rw [hsteps]
    refine ⟨?_, fun h => absurd h hsig, fun h => absurd h hsig, hnotice.sameProgram⟩
    rw [hnotice.launch, hl]
    simp [Launch.signalStep, hsig, ← hrec]

/-- A launch that ends keeps its number, its packet, its queue, its parent and its step. -/
theorem Launch.ended_keeps (l : Launch) :
    l.ended.lid = l.lid ∧ l.ended.pkt = l.pkt ∧ l.ended.queue = l.queue ∧ l.ended.parent = l.parent ∧ l.ended.rec_ = l.rec_ := by
  unfold Launch.ended
  split <;> exact ⟨rfl, rfl, rfl, rfl, rfl⟩

/-- A launch that waits for no failed child ends as its own code says. -/
theorem Launch.ended_own {l : Launch} (h : l.kidFail = false ∨ l.st ≠ .waitingChildren) :
    l.ended = { l with st := if l.fail then .failed else .complete } := by
  have hkid : ¬ (l.st == .waitingChildren && l.kidFail && !l.fail) = true := by
    rcases h with h | h <;> simp [h]
  simp only [Launch.ended, if_neg hkid]

/-- One that waited for a child that failed fails. -/
theorem Launch.ended_kidFail {l : Launch} (hkid : l.kidFail = true) (hst : l.st = .waitingChildren) (hfail : l.fail = false) :
    l.ended = { l with st := .failed, fail := true, code := 0xFF } := by
  simp [Launch.ended, hkid, hst, hfail]

section
variable {s : State} {lid : Nat} {l : Launch} (hl : s.launch lid = some l) (hnumber : l.lid = lid)
include hl hnumber

/-- A launch without children, record and parent ends. -/
theorem gives_launchComplete (hlive : l.live = true) (hkids : l.kids = 0) (hrec : l.rec_ = 0) (hparent : l.parent = none)
    (hrecord : pktFlag l.pkt flagRecen = false) :
    gives (.launchComplete lid) s (fun t => endsLaunch s t l.ended l.ended.code) := by
  subst hnumber
  obtain ⟨hlid, hpkt, -, hparent', hrec'⟩ := l.ended_keeps
  have hexec : exec (.launchComplete l.lid) s = .next ((s.modLaunch l.lid (fun _ => l.ended)).endSteps l.ended l.ended.code) := by
    change execLaunchComplete l.lid s = _
    simp [execLaunchComplete, hl, hlive, hkids, hrec, hpkt, hrecord]
  have hlaunch : (s.modLaunch l.lid (fun _ => l.ended)).launch l.ended.lid = some l.ended := by
    rw [hlid]
    exact State.launch_modLaunch (f := fun _ => l.ended) hl fun _ _ => hlid
  obtain ⟨hends, hcomplete, hsignal, hprogram⟩ :=
    endsLaunch_endSteps (c := l.ended.code) hlaunch (hrec'.trans hrec) (hparent'.trans hparent)
  exact ⟨_, hexec, hends, hcomplete, hsignal, hprogram⟩

omit hnumber in
/-- Once the signal of a launch is updated, its notice may go. -/
theorem gives_launchComplete_signalled (hrec : 4 ≤ l.rec_) :
    gives (.launchComplete lid) s (fun t => t.launch lid = some { l with rec_ := 0 } ∧ sameProgram s t) := by
  have hexec : exec (.launchComplete lid) s =
      .next ((s.modLaunch lid (fun l => { l with rec_ := 0 })).lastStep l (if l.rec_ == 5 then 0xFE else l.code)) := by
    change execLaunchComplete lid s = _
    simp [execLaunchComplete, hl, hrec]
  have hnotice := noticeFrame_lastStep (s.modLaunch lid (fun l => { l with rec_ := 0 })) l (if l.rec_ == 5 then 0xFE else l.code)
  refine ⟨_, hexec, ?_, hnotice.sameProgram⟩
  rw [hnotice.launch]
  exact State.launch_modLaunch (f := fun l => { l with rec_ := 0 }) hl fun _ h => h

end

/-! ## Signals and the enable of a queue (R320, R323, Table 13-3) -/

theorem gives_signalUpdate {s : State} {n : Nat} (add : BitVec 32) (hup : s.dieUp (n / 512) = true) :
    gives (.signalUpdate n add) s (fun t => tget 0 n t.signals = tget 0 n s.signals + add ∧
      (∀ k, k ≠ n → tget 0 k t.signals = tget 0 k s.signals) ∧ t = { s with signals := t.signals }) := by
  have hexec : exec (.signalUpdate n add) s = .next { s with signals := tput 0 n (tget 0 n s.signals + add) s.signals } :=
    congrArg Host.Outcome.next (if_pos hup)
  exact ⟨_, hexec, tget_tput_same .., fun _ hk => tget_tput_ne _ _ _ _ _ hk, rfl⟩

theorem gives_queueEnable {s : State} {qn : Nat} (v : Word) (h : (s.queue qn).st = .disabled) :
    gives (.queueEnable qn v) s (fun t => (t.queue qn).st = .opened ∧ (t.queue qn).ents = [] ∧
      (∀ k, k ≠ qn → t.queue k = s.queue k) ∧ t = { s with queues := t.queues }) := by
  have hexec : exec (.queueEnable qn v) s = .next (s.modQueue qn (fun q =>
      { q with st := .opened, ents := [], back := [], slot := 0, passes := 0, promos := 0, hold := false })) := by
    change execQueueEnable qn v s = _
    simp [execQueueEnable, h]
  refine ⟨_, hexec, ?_, ?_, fun _ hk => State.queue_modQueue_ne _ _ hk, rfl⟩
  · rw [State.queue_modQueue]
  · rw [State.queue_modQueue]

theorem gives_queueDisable {s : State} {qn : Nat} (v : Word) (h : (s.queue qn).st = .opened ∨ (s.queue qn).st = .blocked)
    (hwaiting : (s.queue qn).waiting = []) : gives (.queueDisable qn v) s (fun t =>
      (t.queue qn).st = (if (s.queue qn).ents = [] ∧ (s.queue qn).back = [] then .disabled else .draining) ∧
      (∀ k, k ≠ qn → t.queue k = s.queue k) ∧ t = { s with queues := t.queues }) := by
  have hstate : ((s.queue qn).st == .opened || (s.queue qn).st == .blocked) = true := by simpa using h
  have hexec : exec (.queueDisable qn v) s = .next ((s.modQueue qn (fun q =>
      { q with st := if (s.queue qn).ents.isEmpty && (s.queue qn).back.isEmpty then .disabled else .draining })).drainWaiting qn) :=
    congrArg Host.Outcome.next (if_pos hstate)
  rw [State.drainWaiting_none (by rw [State.queue_modQueue]; exact hwaiting)] at hexec
  refine ⟨_, hexec, ?_, fun k hk => ?_, rfl⟩
  · rw [State.queue_modQueue, State.queue_modQueue]
    simp
  · exact (State.queue_modQueue_ne _ _ hk).trans (State.queue_modQueue_ne _ _ hk)

/-! ## The tests of an entry (R318) -/

section
variable {s : State} {e : EntryReq}

/-- The queue of an entry is not OPEN or BLOCKED, or its die is out of service. -/
def State.entryClosed (s : State) (e : EntryReq) : Prop :=
  (s.die (e.queue / 32)).released = none ∨ ((s.queue e.queue).st ≠ .opened ∧ (s.queue e.queue).st ≠ .blocked)

theorem State.entryTest_closed (h : s.entryClosed e) : s.entryTest e = 1 := by
  rcases h with h | h <;> simp [State.entryTest, State.dieUp, h]

theorem State.entryTest_open (h : ¬ s.entryClosed e) : s.entryTest e =
    if e.dom != (s.queue e.queue).dom || e.dom == 0 then 2
    else if !pktRanges e.packet || !pktClean e.packet then 3
    else if !(s.queue e.queue).room then 4
    else 0 := by
  have hopen : (!s.dieUp (e.queue / 32) || !((s.queue e.queue).st == .opened || (s.queue e.queue).st == .blocked)) = false := by
    unfold State.entryClosed at h
    push Not at h
    obtain ⟨hup, hst⟩ := h
    have hup' : s.dieUp (e.queue / 32) = true := Option.isSome_iff_ne_none.mpr hup
    by_cases hopened : (s.queue e.queue).st = .opened
    · simp [hup', hopened]
    · simp [hup', hst hopened]
  simp only [State.entryTest, hopen, Bool.false_eq_true, if_false]

theorem State.entryTest_dom (h : ¬ s.entryClosed e) (hdom : e.dom ≠ (s.queue e.queue).dom ∨ e.dom = 0) : s.entryTest e = 2 := by
  rw [State.entryTest_open h, if_pos (by simpa using hdom)]

variable (h : ¬ s.entryClosed e) (hdom : e.dom = (s.queue e.queue).dom) (hzero : e.dom ≠ 0)
include h hdom hzero

theorem State.entryTest_fields (hbad : (pktRanges e.packet && pktClean e.packet) = false) : s.entryTest e = 3 := by
  rw [State.entryTest_open h, if_neg (by simpa [← hdom] using hzero), if_pos (by rw [← Bool.not_and, hbad]; rfl)]

theorem State.entryTest_passed (hok : (pktRanges e.packet && pktClean e.packet) = true) (hroom : (s.queue e.queue).ents.length < 64) :
    s.entryTest e = 0 := by
  have hqueue : (s.queue e.queue).room = true := by simp [Queue.room, Config.queueEntries, hroom]
  rw [State.entryTest_open h, if_neg (by simpa [← hdom] using hzero), if_neg (by rw [← Bool.not_and, hok]; simp), hqueue]
  rfl

end

/-! ## The obligation -/

/-- Settles O40: the tests of an entry one after the other; what the decision of a scheduler finds where one head alone may be placed,
and what its placement leaves; the load, the start and the end of a launch, each by what its steps leave alone. -/
theorem lifeOfALaunch : Obligations.LifeOfALaunch := by
  intro s
  refine ⟨fun die j v hidle => gives_pushWrite v hidle, fun r hwhole => gives_qpushEntry hwhole, ?_, ?_, ?_, ?_, ?_, ?_, ?_, ?_, ?_, ?_⟩
  · intro e d j hport hpusher hparent
    refine ⟨fun hclosed => ?_, fun hopen hdom => ?_, fun hopen hdom hzero hbad => ?_, fun hopen hdom hzero hok hroom => ?_⟩
    · exact gives_enqueueEntry_refused hpusher hport (State.entryTest_closed hclosed) (.inl rfl)
    · exact gives_enqueueEntry_refused hpusher hport (State.entryTest_dom hopen hdom) (.inr (.inl rfl))
    · exact gives_enqueueEntry_refused hpusher hport (State.entryTest_fields hopen hdom hzero hbad) (.inr (.inr rfl))
    · exact gives_enqueueEntry_accepted hpusher hport hparent hroom (State.entryTest_passed hopen hdom hzero hok hroom)
  · intro die qn lid l o hlisted hup hothers hopened hpri hents hback hwaiting hl hnumber hsaved hwait hw hh hfits hfree
    have hone : s.oneHead die qn lid l o :=
      ⟨hlisted, hup, hothers, hopened, hpri, hents, hback, hwaiting, hl, hnumber, hsaved, hwait, hfits, hfree⟩
    obtain ⟨t, hexec, hempty, hgroup, hlaunch, hload⟩ := hone.gives_schedulerDecision hw hh
    refine ⟨t, hexec, ?_⟩
    beta_reduce
    rw [hgroup]
    exact ⟨hempty, rfl, congrArg some hnumber, rfl, rfl, rfl, rfl, hlaunch, hload⟩
  · intro r u lid hread hsplice hreply hlaunch hload hruns
    exact gives_imageLoadRequest_installed hreply hlaunch hread hsplice hload hruns
  · intro r c lid hread hc hreply hlaunch
    have hexec := exec_imageLoadRequest_refused (s := s) hreply hlaunch hread hc
    refine ⟨fun hruns => ?_, fun x hgone hx hplaced => ⟨_, hexec, State.failLoad_released hgone hx hplaced⟩⟩
    rw [hexec, State.failLoad, hruns, beq_self_eq_true, if_pos rfl]
  · intro lid l gn hl _ hplaced hgrp hsaved hloaded hinline
    exact gives_launchStart hl hplaced hgrp hsaved hloaded hinline
  · intro _ l hl rfl hlive hkids hrec hparent hrecord
    obtain ⟨hlid, hpkt, hqueue, -⟩ := l.ended_keeps
    have hdelay : l.ended.signalDelay = l.signalDelay := by simp only [Launch.signalDelay, hpkt, hqueue]
    have hstep : l.ended.signalStep = l.signalStep := by
      funext c
      simp only [Launch.signalStep, hpkt]
    obtain ⟨t, hexec, hlaunch, hcomplete, hsignal, hprogram⟩ := gives_launchComplete hl rfl hlive hkids hrec hparent hrecord
    rw [hlid, hstep] at hlaunch
    rw [hdelay, hlid] at hcomplete
    rw [hdelay] at hsignal
    rw [hpkt] at hcomplete hsignal
    refine ⟨t, hexec, fun hown => ?_, fun hkid hst hfail => ?_, hcomplete, hsignal, hprogram⟩
    · rw [hlaunch, Launch.ended_own hown]
      rfl
    · rw [hlaunch, Launch.ended_kidFail hkid hst hfail]
      rfl
  · exact fun lid l hl _ hrec => gives_launchComplete_signalled hl hrec
  · exact fun n add hup => gives_signalUpdate add hup
  · exact fun qn v h => gives_queueEnable v h
  · exact fun qn v h hwaiting => gives_queueDisable v h hwaiting

end Sys2Proof.Machine
end

section
/-! SUPPORT. What module reset leaves (R298, R328, R351, R393, R419, R423, R432). Settles O60. -/

namespace Sys2Proof.Machine

/-- No scheduler decides in the first cycle: its die is held in reset. -/
theorem State.triggerSchedulers_reset : State.reset.triggerSchedulers = .reset := by
  have hheld (die : Nat) : (if State.reset.schedules die then State.reset.at_ State.reset.now (.schedulerDecision die) else State.reset) =
      .reset := rfl
  rw [State.triggerSchedulers, List.foldl_fixed' hheld, ite_self]

/-- No append is due in the first cycle. -/
theorem State.triggerAppends_reset : State.reset.triggerAppends = .reset :=
  List.foldl_fixed' (fun _ => rfl) (List.range 8)

/-- The summit controller has no command to serve, and its first sample is not due. -/
theorem State.summitTurn_reset : State.reset.summitTurn = .reset := by
  have hidle : State.reset.mgTurn = .reset := rfl
  have hearly : ¬ State.reset.summit.sampled + 1000 * State.reset.summit.fclk ≤ State.reset.now := by
    simp [State.reset]
  simp only [State.summitTurn, hidle, hearly, if_false]

/-- No condition of the first cycle holds. -/
theorem State.triggers_reset : State.reset.triggers = .reset := by
  change (State.reset.triggerSchedulers.triggerAppends.serveCores.retryAnswers.flushHubs.flushNotices.flushCores).summitTurn = _
  rw [State.triggerSchedulers_reset, State.triggerAppends_reset]
  exact State.summitTurn_reset

/-- Nothing is chosen and nothing is due after reset, so that the first step looks at the conditions of the first cycle. -/
theorem step_reset : step State.reset = .next { State.reset with phase := .triggered } := by
  change Host.Outcome.next ({ State.reset.triggers with phase := .triggered } : State) = _
  rw [State.triggers_reset]

/-- Settles O60: after reset every table is empty, so that each entry reads its default. -/
theorem resetState : Obligations.ResetState := by
  unfold Obligations.ResetState
  exact ⟨⟨rfl, rfl⟩, fun _ => rfl, fun _ => rfl, fun _ => rfl, fun _ => ⟨rfl, rfl⟩, fun _ _ => rfl, fun _ => rfl, fun _ => rfl,
    fun _ => rfl, rfl, rfl, rfl, rfl, rfl, rfl, rfl, rfl, rfl, fun _ => rfl, step_reset⟩

end Sys2Proof.Machine
end

section
/-! SUPPORT. The firings of the barrier instructions (R331, R332, R336): a message to the barrier's hub, or a word as it stood there.
Settles O19. -/

namespace Sys2Proof.Machine

theorem countedFrame_fireBase (s : State) (cu : Cursor) (f : SlotF) : countedFrame s (s.fireBase cu f) cu f := by
  obtain ⟨hframe, -, hctx⟩ := fireFrame_fireBase s cu f
  exact ⟨counts_fireBase .., hframe, hctx⟩

/-! ## Arrivals (R331, R332) -/

/-- The message of an arrival or a drop waits for the accesses that its context fired before. -/
def State.holdBar (u : State) (cu : Cursor) (waits : List Nat) (m : BarMsg) : State :=
  u.modElem cu.ea (fun e => { e with barWaits := e.barWaits ++ [(waits, m)] })

theorem ownEffect_holdBar (u : State) (cu : Cursor) (waits : List Nat) (m : BarMsg) : ownEffect u (u.holdBar cu waits m) cu :=
  ownEffect_modElem u cu _ rfl rfl rfl rfl

theorem fireFrame.barWaits {s t : State} {cu : Cursor} (h : fireFrame s t cu) :
    (t.elem cu.ea).barWaits = (s.elem cu.ea).barWaits := by rw [h.2.1]

section
variable {s : State} {cu : Cursor} {f : SlotF} {k : BarKind} (h : s.goes cu f)
include h

theorem State.fireArrive_illegal (hbad : barBad (s.group (s.groupNo cu.ea)) f.lit true = true) :
    s.fireArrive f k = s.raiseSync cu 0x01 0 f.lit := by
  simp only [State.fireArrive, h.1, hbad, if_true]

section
variable (hok : barBad (s.group (s.groupNo cu.ea)) f.lit true = false)
include hok

theorem State.fireArrive_sends (hacks : (s.ctx cu.ea cu.ctx).acks = []) :
    s.fireArrive f k = (s.fireBase cu f).sendBar (barMsg s cu f.lit k 0) := by
  simp [State.fireArrive, h.1, hok, hacks]

theorem State.fireArrive_waits (hacks : (s.ctx cu.ea cu.ctx).acks ≠ []) :
    s.fireArrive f k = (s.fireBase cu f).holdBar cu (s.ctx cu.ea cu.ctx).acks (barMsg s cu f.lit k 0) := by
  simp [State.fireArrive, h.1, hok, hacks, State.holdBar]

/-- An arrival is counted, and its message is on its way or waits. -/
theorem fireArrive_arrives : countedFrame s (s.fireArrive f k) cu f ∧
    ((s.ctx cu.ea cu.ctx).acks = [] → (s.fireArrive f k).awaits
      (s.now + hubDelay cu.ea (barTile (s.group (s.groupNo cu.ea)) f.lit)) (.barrierMessageArrival (barMsg s cu f.lit k 0))) ∧
    ((s.ctx cu.ea cu.ctx).acks ≠ [] → ((s.fireArrive f k).elem cu.ea).barWaits =
      (s.elem cu.ea).barWaits ++ [((s.ctx cu.ea cu.ctx).acks, barMsg s cu f.lit k 0)]) := by
  have hframe := fireFrame_fireBase s cu f
  by_cases hacks : (s.ctx cu.ea cu.ctx).acks = []
  · rw [State.fireArrive_sends h hok hacks]
    exact ⟨(countedFrame_fireBase s cu f).own (ownEffect_after ..), fun _ => State.awaits_after hframe.now .., fun hne => absurd hacks hne⟩
  · rw [State.fireArrive_waits h hok hacks]
    refine ⟨(countedFrame_fireBase s cu f).own (ownEffect_holdBar ..), fun hnil => absurd hnil hacks, fun _ => ?_⟩
    rw [State.holdBar, State.elem_modElem_same, hframe.barWaits]

end

end

/-! ## bar.init and bar.q (R332, R336) -/

section
variable {s : State} {cu : Cursor} {f : SlotF} (h : s.goes cu f)
include h

theorem exec_barInit_illegal (hbad : barBad (s.group (s.groupNo cu.ea)) f.lit false = true) :
    exec (.barInit f) s = .next (s.raiseSync cu 0x01 0 f.lit) := by
  change execBarInit f s = _
  simp [execBarInit, h.1, h.2.1, hbad]

theorem exec_barQ_illegal (hbad : barBad (s.group (s.groupNo cu.ea)) f.lit false = true) :
    exec (.barQ f) s = .next (s.raiseSync cu 0x01 0 f.lit) := by
  change execBarQ f s = _
  simp [execBarQ, h.1, hbad]

section
variable (hok : barBad (s.group (s.groupNo cu.ea)) f.lit false = false)
include hok

theorem exec_barInit_count (hcount : (readSource s cu f f.sa).val = 0 ∨ 2 ^ 16 ≤ (readSource s cu f f.sa).val.toNat) :
    exec (.barInit f) s = .next (s.raiseSync cu 0x01 1 (readSource s cu f f.sa).val) := by
  have hbad : ((readSource s cu f f.sa).val >>> 16 != 0 || (readSource s cu f f.sa).val == 0) = true := by
    rcases hcount with hzero | hlarge
    · simp [hzero]
    · have hhigh : (readSource s cu f f.sa).val >>> 16 ≠ 0 := by bv_omega
      rw [bne_iff_ne.mpr hhigh, Bool.true_or]
  change execBarInit f s = _
  simp only [execBarInit, h.1, h.2.1, hok, hbad, if_true, Bool.false_eq_true, if_false]

theorem barInit_sends (hlow : 1 ≤ (readSource s cu f f.sa).val.toNat) (hhigh : (readSource s cu f f.sa).val.toNat < 2 ^ 16) :
    ∃ t, exec (.barInit f) s = .next t ∧ s.counts t cu f ∧ fireFrame s t cu ∧
      t.awaits (s.now + hubDelay cu.ea (barTile (s.group (s.groupNo cu.ea)) f.lit))
        (.barrierMessageArrival (barMsg s cu f.lit .init (readSource s cu f f.sa).val)) := by
  have hin : ((readSource s cu f f.sa).val >>> 16 != 0 || (readSource s cu f f.sa).val == 0) = false := by
    have hfits : (readSource s cu f f.sa).val >>> 16 = 0 := by bv_omega
    have hpos : (readSource s cu f f.sa).val ≠ 0 := by bv_omega
    rw [hfits, beq_false_of_ne hpos]
    rfl
  have hexec : exec (.barInit f) s = .next ((s.fired cu f (readSource s cu f f.sa).fl).sendBar
      (barMsg s cu f.lit .init (readSource s cu f f.sa).val)) := by
    change execBarInit f s = _
    simp only [execBarInit, h.1, h.2.1, hok, hin, Bool.false_eq_true, if_false]
    rfl
  have hframe := fireFrame_fired s cu f (readSource s cu f f.sa).fl
  exact ⟨_, hexec, State.counts_stays (counts_fired ..) (stays_of rfl), hframe.trans (fireFrame_after ..),
    State.awaits_after hframe.now ..⟩

theorem barQ_computes : computes (.barQ f) s cu f 1 (((s.hub (barTile (s.group (s.groupNo cu.ea)) f.lit)).bar (barNo f.lit)).wordAt
    ((s.now : Int) - hubDelay cu.ea (barTile (s.group (s.groupNo cu.ea)) f.lit))) 0 := by
  refine fireWith_computes _ _ _ _ _ h ?_
  change execBarQ f s = _
  simp only [execBarQ, h.1, hok, Bool.false_eq_true, if_false]

end

end

/-- Settles O19: each firing by its literal, and an arrival by what its context still awaits. -/
theorem barrierFirings : Obligations.BarrierFirings := by
  unfold Obligations.BarrierFirings
  intro s cu f h g a tile arrives illegal
  refine ⟨fun hok => ?arrivals, fun hok => ⟨barQ_computes h hok, barInit_sends h hok, exec_barInit_count h hok⟩, fun hbad => ?illegal,
    fun hbad => ⟨exec_barQ_illegal h hbad, exec_barInit_illegal h hbad⟩⟩
  case arrivals =>
    have harrives {i : Instr} {k : BarKind} (hi : exec i s = .next (s.fireArrive f k)) : arrives i k := by
      obtain ⟨⟨hcounts, hframe, hctx⟩, hrest⟩ := fireArrive_arrives (k := k) h hok
      exact ⟨_, hi, hcounts, hframe, hctx, hrest⟩
    exact ⟨harrives rfl, harrives rfl⟩
  case illegal =>
    exact ⟨congrArg _ (State.fireArrive_illegal h hbad), congrArg _ (State.fireArrive_illegal h hbad)⟩

end Sys2Proof.Machine
end

section
/-! SUPPORT. The request of a qpush (R322) in a machine whose table lists a group twice. Refutes O20. -/

namespace Sys2Proof.Machine

/-- A qpush whose operands are in order is counted, its context waits, and the request that it forms in the state so reached sets out, or
waits for the accesses fired before. -/
theorem exec_qpush {s : State} {cu : Cursor} {f : SlotF} (h : s.goes cu f)
    (hok : qpushFault f.lit (readSource s cu f f.sa).val = none) : exec (.qpush f) s = .next (
      let u := s.fired cu f (sourceFlags s cu f)
      (u.bump.modCtx cu.ea cu.ctx (fun c => { c.setWait waitQpush true with qp := c.qp + 1 })).sendAfterAcks cu
        (qpushReq u cu f.lit (readSource s cu f f.sa).val (readSource s cu f f.sb).val)) := by
  have hx : qpushFault f.lit (aluIn s cu f).a = none := hok
  change execQpush f s = _
  simp only [execQpush, h.1, goes_operands h, hx, State.fireWith_eq h]
  rfl

/-! ## A group listed twice -/

/-- A qpush of the packet at address 0 whose guard pops channel 0. -/
def poppingQpush : SlotF := { slotFields 0 0 0 with sa := 20, sb := 21, da := 31, db := 31, ka := true, ia := 0 }

/-- An element with a word in channel 0, whose context 0 awaits an access. -/
def elemAwaitingAccess : Elem :=
  { Elem.zero with ctxs := [(0, { Ctx.zero with acks := [3] })], chans := [(0, { Chan.zero with q := [⟨⟨5, 0, .data⟩, .none, 0⟩] })] }

/-- The machine at the firing of that element. Its table lists group 0 twice: first the entry that is read, a FREE group that holds no
tiles, then a LIVE one that holds the tile of the element. -/
def stateWithGroupTwice : State :=
  { State.reset with
    groups := [(0, .zero), (0, { Group.zero with st := .live })], elems := [(1, elemAwaitingAccess)], cur := some ⟨1, 0, 0⟩ }

/-- Refutes O20: a qpush forms its request in the state in which its firing is counted and its words are popped. A pop is progress of the
element's group (R302), which writes the group's entry again. Where the table lists the group twice, which the statement does not exclude,
and the first entry holds nothing, both so leave the table: the tile is then in no group, and the request carries number 65,536, not
that of the group, as the statement says. -/
theorem not_systemFirings : ¬ Obligations.SystemFirings := by
  unfold Obligations.SystemFirings
  intro h
  have hgoes : stateWithGroupTwice.goes ⟨1, 0, 0⟩ poppingQpush := by unfold State.goes; decide
  have hok : qpushFault poppingQpush.lit (readSource stateWithGroupTwice ⟨1, 0, 0⟩ poppingQpush poppingQpush.sa).val = none := by decide
  obtain ⟨hsends, -⟩ := h stateWithGroupTwice ⟨1, 0, 0⟩ poppingQpush hgoes
  obtain ⟨t, ht, -, -, -, -, -, hwaits⟩ := hsends hok
  obtain ⟨-, hreq⟩ := hwaits (by decide)
  rw [exec_qpush hgoes hok] at ht
  rw [← Host.Outcome.next.inj ht] at hreq
  have hgrp := congrArg (List.map (fun p => p.2.grp)) hreq
  exact absurd hgrp (by decide)

end Sys2Proof.Machine
end

section
/-! SUPPORT. What a barrier's hub does with a message (R331, R333 to R335): each case writes the barrier once, and what follows leaves the
hubs alone. Settles O29. -/

namespace Sys2Proof.Machine

/-! ## The frame of a barrier -/

/-- Barrier `n` of a tile may have changed; the other barriers, the other hubs and what programs read are as before. -/
structure barFrame (s t : State) (tile n : Nat) : Prop where
  bars : ∀ k, k ≠ n → (t.hub tile).bar k = (s.hub tile).bar k
  hubs : ∀ x, x ≠ tile → t.hub x = s.hub x
  program : sameProgram s t

theorem State.hub_modHub_ne (s : State) {tile x : Nat} (f : Hub → Hub) (h : x ≠ tile) : (s.modHub tile f).hub x = s.hub x :=
  tget_tput_ne _ _ _ _ _ h

theorem barFrame_modBar (s : State) (tile n : Nat) (f : Bar → Bar) : barFrame s (s.modBar tile n f) tile n :=
  ⟨fun _ hk => State.bar_modBar_ne _ _ _ hk, fun _ hx => State.hub_modHub_ne _ _ hx, (servedFrame_modHub ..).sameProgram⟩

theorem barFrame.trans {s t u : State} {tile n : Nat} (h : barFrame s t tile n) (k : barFrame t u tile n) : barFrame s u tile n :=
  ⟨fun x hx => (k.bars x hx).trans (h.bars x hx), fun x hx => (k.hubs x hx).trans (h.hubs x hx), h.program.trans k.program⟩

/-- What leaves the hubs alone. -/
theorem barFrame_of_hubs {s t : State} (hhubs : t.hubs = s.hubs) (h : servedFrame s t) (tile n : Nat) : barFrame s t tile n := by
  have hhub (x : Nat) : t.hub x = s.hub x := by rw [State.hub, hhubs, State.hub]
  exact ⟨fun k _ => by rw [hhub], fun x _ => hhub x, h.sameProgram⟩

theorem recordFrame.hubs {s t : State} (h : recordFrame s t) : t.hubs = s.hubs := by rw [h.1]

theorem linkFrame.hubs {s t : State} (h : linkFrame s t) : t.hubs = s.hubs := by rw [h.1]

/-! ## The tokens of a phase (R334) -/

theorem linkFrame_launchWord (s : State) (n a b ch : Nat) (w : CWord) (src : Src) (epoch : Nat) :
    linkFrame s (s.launchWord n a b ch w src epoch) := by
  unfold State.launchWord
  dsimp only
  split
  · exact linkFrame_at ..
  · exact linkFrame_forward _

theorem linkFrame_sendTokens (s : State) (g : Group) (tile n : Nat) (k : BitVec 32) (i : Nat) (ws : List Word) :
    linkFrame s (s.sendTokens g tile n k i ws) := by
  induction ws generalizing s i with
  | nil => exact .refl s
  | cons w ws ih => exact (linkFrame_launchWord ..).trans (ih ..)

/-- The token of a waiter of the barrier's own tile is in its channel two cycles later. -/
theorem State.sendTokens_here (s : State) {g : Group} {tile : Nat} {w : Word} (h : g.targetEa w = tile) (n : Nat) (k : BitVec 32) :
    ∃ a : Arrival, (s.sendTokens g tile n k 0 [w]).awaits (s.now + 2) (.channelWordArrival a) ∧ a.ea = tile ∧
      a.ch = (tgtCh w).toNat ∧ a.word = ⟨k.setWidth 64, k.setWidth 8, .data⟩ := by
  subst h
  simp only [State.sendTokens, State.launchWord, beq_self_eq_true, if_true]
  exact ⟨_, State.awaits_at .., rfl, rfl, rfl⟩

/-! ## The end of a phase (R334) -/

theorem Bar.st_note (b : Bar) (now : Nat) : (b.note now).st = b.st := rfl

theorem Bar.st_completed (b : Bar) : b.completed.st = if b.expect - b.drops = 0 then .retired else b.st := by
  simp [Bar.completed]

theorem State.completePhase_held {s : State} {gn tile n : Nat} (h : s.barRoom (s.group gn) tile n ((s.hub tile).bar n) = false) :
    s.completePhase gn tile n = (s.modBar tile n (fun b => { b with held := true })).after 1 (.completePhase tile n) := by
  simp only [State.completePhase, h, Bool.false_eq_true, if_false]

theorem State.completePhase_room {s : State} {gn tile n : Nat} (h : s.barRoom (s.group gn) tile n ((s.hub tile).bar n) = true) :
    s.completePhase gn tile n = ((s.modBar tile n Bar.completed).progress gn tile).sendTokens (s.group gn) tile n
      ((s.hub tile).bar n).phase 0 ((s.hub tile).bar n).waiters := by
  simp only [State.completePhase, h, if_true]

/-- The phase of a barrier with a waiter that has no room is HELD, and tried again in the next cycle. -/
theorem State.completePhase_holds {s : State} {gn tile n : Nat} (h : s.barRoom (s.group gn) tile n ((s.hub tile).bar n) = false) :
    ((s.completePhase gn tile n).hub tile).bar n = ({ (s.hub tile).bar n with held := true } : Bar).note s.now ∧
      (s.completePhase gn tile n).awaits (s.now + 1) (.completePhase tile n) ∧ barFrame s (s.completePhase gn tile n) tile n := by
  rw [State.completePhase_held h]
  let held : State := s.modBar tile n (fun b => { b with held := true })
  exact ⟨State.bar_modBar s tile n (fun b => { b with held := true }), State.awaits_at ..,
    (barFrame_modBar s tile n _).trans (barFrame_of_hubs (s := held) (t := held.after 1 _) rfl (servedFrame_at ..) tile n)⟩

/-- The phase of a barrier whose waiters have room is completed, and nothing but that barrier is changed at the hubs. -/
theorem State.completePhase_completes {s : State} {gn tile n : Nat} (h : s.barRoom (s.group gn) tile n ((s.hub tile).bar n) = true) :
    ((s.completePhase gn tile n).hub tile).bar n = ((s.hub tile).bar n).completed.note s.now ∧
      barFrame s (s.completePhase gn tile n) tile n := by
  have hprogress : recordFrame (s.modBar tile n Bar.completed) ((s.modBar tile n Bar.completed).progress gn tile) :=
    recordFrame_modGroup ..
  have htokens := linkFrame_sendTokens ((s.modBar tile n Bar.completed).progress gn tile) (s.group gn) tile n
    ((s.hub tile).bar n).phase 0 ((s.hub tile).bar n).waiters
  rw [State.completePhase_room h]
  refine ⟨?_, (barFrame_modBar s tile n Bar.completed).trans
    (barFrame_of_hubs (htokens.hubs.trans hprogress.hubs) (hprogress.served.trans htokens.served) tile n)⟩
  rw [State.hub, htokens.hubs, hprogress.hubs, ← State.hub, State.bar_modBar]

/-! ## Arrivals (R333) -/

theorem exec_barrierMessageArrival {m : BarMsg} (hkind : m.kind ≠ .init) (s : State) :
    exec (.barrierMessageArrival m) s = .next (s.barArrive m) := by
  change execBarrierMessageArrival m s = _
  cases hk : m.kind with
  | init => exact absurd hk hkind
  | arv | drop => simp only [execBarrierMessageArrival, hk]

/-- A barrier once a message of a kind is counted. -/
def Bar.counted (b : Bar) (k : BarKind) : Bar :=
  { b with count := b.count + 1, drops := if k == .drop then b.drops + 1 else b.drops }

theorem Bar.drops_counted (b : Bar) (k : BarKind) : (b.counted k).drops = b.drops + if k = .drop then 1 else 0 := by
  by_cases hk : k = .drop <;> simp [Bar.counted, hk]

/-- The state in which an arrival is counted. -/
def State.barCounted (s : State) (m : BarMsg) : State := s.modBar m.tile m.bar (Bar.counted · m.kind)

section
variable {s : State} {m : BarMsg}

theorem State.bar_barCounted : ((s.barCounted m).hub m.tile).bar m.bar = (((s.hub m.tile).bar m.bar).counted m.kind).note s.now :=
  State.bar_modBar ..

section
variable (harmed : ((s.hub m.tile).bar m.bar).st = .armed) (hfree : ((s.hub m.tile).bar m.bar).held = false)
  (hphase : m.ph = ((s.hub m.tile).bar m.bar).phase.getLsbD 0)
include harmed hfree hphase

theorem State.barArrive_counts (hmore : ((s.hub m.tile).bar m.bar).count + 1 ≠ ((s.hub m.tile).bar m.bar).expect) :
    s.barArrive m = s.barCounted m := by
  simp only [State.barArrive, harmed, hfree, hphase, bne_self_eq_false, Bool.false_eq_true, if_false, beq_false_of_ne hmore]
  rfl

theorem State.barArrive_last (hlast : ((s.hub m.tile).bar m.bar).count + 1 = ((s.hub m.tile).bar m.bar).expect) :
    s.barArrive m = (s.barCounted m).completePhase m.grp m.tile m.bar := by
  simp only [State.barArrive, harmed, hfree, hphase, bne_self_eq_false, Bool.false_eq_true, if_false, hlast, beq_self_eq_true, if_true]
  rfl

end

theorem State.barArrive_free (h : ((s.hub m.tile).bar m.bar).st = .free) :
    s.barArrive m = s.raiseBar m 0x41 0 ((s.hub m.tile).bar m.bar).count := by
  simp only [State.barArrive, h]

/-- An arrival at a RETIRED barrier, at a HELD one, or of another phase is an overrun. -/
theorem State.barArrive_overrun {d : Nat} (h : ((s.hub m.tile).bar m.bar).st = .retired ∧ d = 3 ∨
      ((s.hub m.tile).bar m.bar).st = .armed ∧ ((s.hub m.tile).bar m.bar).held = true ∧ d = 1 ∨
      ((s.hub m.tile).bar m.bar).st = .armed ∧ ((s.hub m.tile).bar m.bar).held = false ∧
        m.ph ≠ ((s.hub m.tile).bar m.bar).phase.getLsbD 0 ∧ d = 0) :
    s.barArrive m = s.overrun m d := by
  rcases h with ⟨hst, rfl⟩ | ⟨hst, hheld, rfl⟩ | ⟨hst, hheld, hphase, rfl⟩
  · simp only [State.barArrive, hst]
  · simp only [State.barArrive, hst, hheld, if_true]
  · simp only [State.barArrive, hst, hheld, Bool.false_eq_true, if_false, bne_iff_ne.mpr hphase, if_true]

theorem State.bar_overrun (d : Nat) : (((s.overrun m d).hub m.tile).bar m.bar).st = .faulted := by
  have hrecord : recordFrame (s.modBar m.tile m.bar (fun b => { b with st := .faulted })) (s.overrun m d) := recordFrame_raiseRec ..
  rw [State.hub, hrecord.hubs, ← State.hub, State.bar_modBar]
  rfl

/-! ## bar.init (R335) -/

theorem exec_barInit_arms (hkind : m.kind = .init)
    (h : ((s.hub m.tile).bar m.bar).st = .free ∨ ((s.hub m.tile).bar m.bar).st = .retired) :
    exec (.barrierMessageArrival m) s = .next (s.modBar m.tile m.bar (fun b =>
      { b with st := .armed, expect := m.count.toNat % 2 ^ 16, count := 0, drops := 0, phase := 0, held := false })) := by
  change execBarrierMessageArrival m s = _
  rcases h with h | h <;> simp only [execBarrierMessageArrival, hkind, State.barInit, h]

end

/-! ## A HELD phase tried again (R334) -/

theorem exec_completePhase_held {s : State} {tile n : Nat} (hheld : ((s.hub tile).bar n).held = true)
    (harmed : ((s.hub tile).bar n).st = .armed) : exec (.completePhase tile n) s = .next (s.completePhase (s.groupNo tile) tile n) := by
  change execCompletePhase tile n s = _
  simp [execCompletePhase, hheld, harmed]

/-- Settles O29: a message by the state of its barrier; the last of a phase by whether the waiters have room. -/
theorem barriersCountArrivals : Obligations.BarriersCountArrivals := by
  unfold Obligations.BarriersCountArrivals
  intro s m b after others name dropped stands
  have hothers {t : State} (h : barFrame s t m.tile m.bar) : others t := ⟨h.bars, h.hubs, h.program⟩
  have hcounted : barFrame s (s.barCounted m) m.tile m.bar := barFrame_modBar ..
  refine ⟨fun hkind ⟨harmed, hfree, hphase⟩ hmore => ?more, fun hkind ⟨harmed, hfree, hphase⟩ hlast hroom => ?held,
    fun hkind ⟨harmed, hfree, hphase⟩ hlast hroom => ?last, fun hkind hfree => ?free, fun d hkind hover => ?overrun,
    fun hkind hst => ?init, fun hheld harmed hroom => ?again⟩
  case more =>
    refine ⟨_, (exec_barrierMessageArrival hkind s).trans (congrArg _ (State.barArrive_counts harmed hfree hphase hmore)), ?_⟩
    simp only [after, State.bar_barCounted]
    exact ⟨rfl, b.drops_counted m.kind, rfl, rfl, harmed, hfree, hothers hcounted⟩
  case held =>
    have hfull : (s.barCounted m).barRoom ((s.barCounted m).group m.grp) m.tile m.bar (((s.barCounted m).hub m.tile).bar m.bar) = false := by
      rw [State.bar_barCounted]
      exact hroom
    refine ⟨_, (exec_barrierMessageArrival hkind s).trans (congrArg _ (State.barArrive_last harmed hfree hphase hlast)), ?_⟩
    obtain ⟨hbar, hawaits, hframe⟩ := State.completePhase_holds (gn := m.grp) hfull
    rw [State.bar_barCounted] at hbar
    refine ⟨congrArg Bar.held hbar, (congrArg Bar.count hbar).trans hlast, (congrArg Bar.phase hbar).trans rfl, (congrArg Bar.st hbar).trans harmed,
      hawaits, hothers (hcounted.trans hframe)⟩
  case last =>
    have hrest : (s.barCounted m).barRoom ((s.barCounted m).group m.grp) m.tile m.bar (((s.barCounted m).hub m.tile).bar m.bar) = true := by
      rw [State.bar_barCounted]
      exact hroom
    refine ⟨_, (exec_barrierMessageArrival hkind s).trans (congrArg _ (State.barArrive_last harmed hfree hphase hlast)), ?_⟩
    obtain ⟨hbar, hframe⟩ := State.completePhase_completes (gn := m.grp) hrest
    rw [State.bar_barCounted] at hbar
    refine ⟨fun w hw hhere => ?_, ?_⟩
    · rw [State.completePhase_room hrest, State.bar_barCounted]
      have hwaiters : (b.counted m.kind).waiters = [w] := hw
      exact hwaiters ▸ State.sendTokens_here (((s.barCounted m).modBar m.tile m.bar Bar.completed).progress m.grp m.tile) hhere m.bar b.phase
    · have hexpect : (after ((s.barCounted m).completePhase m.grp m.tile m.bar)).expect = b.expect - (b.drops + dropped) := by
        rw [← b.drops_counted m.kind]
        exact congrArg Bar.expect hbar
      refine ⟨congrArg Bar.count hbar, congrArg Bar.drops hbar, hexpect, (congrArg Bar.phase hbar).trans rfl, congrArg Bar.held hbar, ?_,
        hothers (hcounted.trans hframe)⟩
      have hst : (after ((s.barCounted m).completePhase m.grp m.tile m.bar)).st = ((b.counted m.kind).note s.now).completed.st :=
        (congrArg Bar.st hbar).trans (Bar.st_note ..)
      rw [hst, Bar.st_completed, ← harmed, ← b.drops_counted m.kind]
      rfl
  case free =>
    exact (exec_barrierMessageArrival hkind s).trans (congrArg _ (State.barArrive_free hfree))
  case overrun =>
    refine ⟨_, (exec_barrierMessageArrival hkind s).trans (congrArg _ (State.barArrive_overrun hover)), State.bar_overrun d, rfl⟩
  case init =>
    refine ⟨_, exec_barInit_arms hkind hst, ?_⟩
    simp only [after, State.bar_modBar]
    exact ⟨rfl, rfl, rfl, rfl, rfl, rfl, rfl, hothers (barFrame_modBar ..)⟩
  case again =>
    obtain ⟨hbar, hframe⟩ := State.completePhase_completes hroom
    refine ⟨_, exec_completePhase_held hheld harmed, ?_⟩
    simp only [after, hbar]
    exact ⟨rfl, rfl, rfl, rfl, hothers hframe⟩

end Sys2Proof.Machine
end

section
/-! SUPPORT. Full and empty units at their home, replies and acknowledgements at their element (R230, R235, R351 to R353). Settles O31. -/

namespace Sys2Proof.Machine

/-! ## Full bits (R351) -/

theorem State.isFull_setFull (s : State) (u k : Nat) (p : Bool) : (s.setFull u p).isFull k = if k = u then p else s.isFull k := by
  cases p <;> by_cases h : k = u <;> simp [State.isFull, State.setFull, nmem_nadd, nmem_ndel, h]

/-- What follows a full bit as it stands keeps it. -/
theorem servedFrame.isFull {s t : State} (h : servedFrame s t) (u : Nat) : t.isFull u = s.isFull u := by
  rw [State.isFull, h.full, State.isFull]

/-! ## An lde or an stf at its unit (R352) -/

/-- The state in which an lde has emptied its unit. -/
def State.emptied (s : State) (u : Nat) : State := s.setFull u false

/-- The state in which an stf has filled its unit with the clean word `v`. -/
def State.filled (s : State) (a : Nat) (v : Word) : State := (s.storeUnit a v).setFull (unitOf a) true

theorem State.filled_memoryOnly (s : State) (a : Nat) (v : Word) : (s.filled a v).elems = s.elems ∧ (s.filled a v).defers = s.defers ∧
    (s.filled a v).now = s.now ∧ (s.filled a v).module = s.module := by
  have hstore := memoryOnly_storeUnit s a v
  rw [State.filled]
  generalize s.storeUnit a v = u at hstore
  unfold memoryOnly at hstore
  rw [hstore]
  exact ⟨rfl, rfl, rfl, rfl⟩

theorem State.full_writeNat (s : State) (a n v : Nat) : (s.writeNat a n v).full = s.full := by
  induction n generalizing s a v with
  | zero => rfl
  | succ n ih => rw [State.writeNat, ih]; rfl

theorem State.full_storeUnit (s : State) (a : Nat) (v : Word) : (s.storeUnit a v).full = s.full :=
  State.full_writeNat s a 8 v.toNat

theorem State.isFull_filled (s : State) (a k : Nat) (v : Word) :
    (s.filled a v).isFull k = if k = unitOf a then true else s.isFull k := by
  rw [State.filled, State.isFull_setFull, State.isFull, State.full_storeUnit, State.isFull]

theorem State.poisoned_setFull (s : State) (u k : Nat) (p : Bool) : (s.setFull u p).poisoned k = s.poisoned k := rfl

theorem State.poisoned_filled (s : State) (a k : Nat) (v : Word) :
    (s.filled a v).poisoned k = if k = unitOf a then false else s.poisoned k := by
  rw [State.filled, State.poisoned_setFull, State.poisoned_storeUnit]
  by_cases hk : k = unitOf a <;> simp [hk]

theorem State.readByte_setFull (s : State) (u y : Nat) (p : Bool) : (s.setFull u p).readByte y = s.readByte y := rfl

theorem State.readByte_filled (s : State) (a y : Nat) (v : Word) : (s.filled a v).readByte y =
    if a ≤ y ∧ y < a + 8 then BitVec.ofNat 8 (v.toNat / 256 ^ (y - a)) else s.readByte y := by
  rw [State.filled, State.readByte_setFull]
  exact writesBytes_storeUnit s a v y

section
variable {s : State} {r : MReq} (hwho : r.who = .firing) (hinjs : s.injs = [])
  (hnone : ∀ q ∈ s.defers, unitOf (q.pa % 2 ^ 44) ≠ unitOf (r.pa % 2 ^ 44))
include hwho hinjs hnone

/-- An lde at a full unit empties it and is answered. -/
theorem exec_feService_lde (hacc : r.acc = .lde) (hfull : s.isFull (unitOf (r.pa % 2 ^ 44)) = true) :
    exec (.feService r) s = .next ((s.emptied (unitOf (r.pa % 2 ^ 44))).complete r (s.read64 (r.pa % 2 ^ 44))
      (r.pzn || s.poisoned (unitOf (r.pa % 2 ^ 44))) (replyDelay s.module r)) := by
  have hdone := servedFrame_complete (s.emptied (unitOf (r.pa % 2 ^ 44))) hwho (s.read64 (r.pa % 2 ^ 44))
    (r.pzn || s.poisoned (unitOf (r.pa % 2 ^ 44))) (replyDelay s.module r)
  have hsettle := State.feSettle_of_no_defers (a := r.pa % 2 ^ 44) (hdone.defers ▸ hnone)
  change execFeService r s = _
  simp only [execFeService, State.touch_of_no_injs hinjs, hfull, feIsStf, hacc, bne_self_eq_false, Bool.bne_false, if_true,
    Bool.false_eq_true, if_false]
  exact congrArg _ hsettle

/-- An stf at an empty unit fills it and is answered. -/
theorem exec_feService_stf (hacc : r.acc = .stf) (hempty : s.isFull (unitOf (r.pa % 2 ^ 44)) = false) :
    exec (.feService r) s = .next ((s.filled (r.pa % 2 ^ 44) r.v1).complete r 0 false (replyDelay s.module r)) := by
  have hdone := servedFrame_complete (s.filled (r.pa % 2 ^ 44) r.v1) hwho 0 false (replyDelay s.module r)
  obtain ⟨-, hdefers, -, hmodule⟩ := s.filled_memoryOnly (r.pa % 2 ^ 44) r.v1
  have hsettle := State.feSettle_of_no_defers (a := r.pa % 2 ^ 44) (by rw [hdone.defers, hdefers]; exact hnone)
  have hstf : s.doStf r = (s.filled (r.pa % 2 ^ 44) r.v1).complete r 0 false (replyDelay s.module r) := by
    rw [← hmodule]
    simp only [State.doStf, hacc]
    rfl
  change execFeService r s = _
  simp only [execFeService, State.touch_of_no_injs hinjs, hempty, feIsStf, hacc]
  exact congrArg _ ((congrArg (State.feSettle · (r.pa % 2 ^ 44) 1) hstf).trans hsettle)

end

section
variable {s : State} {r : MReq} (hinjs : s.injs = []) (hacc : r.acc = .lde ∨ r.acc = .stf)
  (hnone : ∀ q ∈ s.defers, unitOf (q.pa % 2 ^ 44) ≠ unitOf (r.pa % 2 ^ 44))
  (hwaits : s.isFull (unitOf (r.pa % 2 ^ 44)) = feIsStf r)
include hnone hwaits

/-- A unit that does not permit the one request deferred at it releases none. -/
theorem State.deferred_own : ({ s with defers := s.defers ++ [r] } : State).deferred (unitOf (r.pa % 2 ^ 44))
    (!s.isFull (unitOf (r.pa % 2 ^ 44))) = none := by
  refine List.find?_eq_none.mpr fun q hq => ?_
  rcases List.mem_append.mp hq with hq | hq
  · simp only [beq_false_of_ne (hnone q hq), Bool.false_and, Bool.false_eq_true, not_false_eq_true]
  · rw [List.mem_singleton.mp hq, hwaits]
    simp

theorem State.feSettle_own : ({ s with defers := s.defers ++ [r] } : State).feSettle (r.pa % 2 ^ 44) 1 =
    { s with defers := s.defers ++ [r] } := by
  have hhere : (s.defers ++ [r]).filter (fun q => unitOf (q.pa % 2 ^ 44) == unitOf (r.pa % 2 ^ 44)) = [r] := by
    rw [List.filter_append, List.filter_eq_nil_iff.mpr fun q hq => by simpa using hnone q hq]
    simp
  have hkept : ({ s with defers := s.defers ++ [r] } : State).feRelease (unitOf (r.pa % 2 ^ 44)) = { s with defers := s.defers ++ [r] } := by
    have hunit : ({ s with defers := s.defers ++ [r] } : State).isFull (unitOf (r.pa % 2 ^ 44)) = s.isFull (unitOf (r.pa % 2 ^ 44)) := rfl
    simp only [State.feRelease, hunit, State.deferred_own hnone hwaits]
  simp only [State.feSettle, hhere, List.foldl_cons, List.foldl_nil, hkept]

include hinjs

/-- An lde or an stf that its unit does not permit is deferred where its port has an entry. -/
theorem exec_feService_deferred (hroom : s.portDefers (r.pa % 2 ^ 44) < 64) :
    exec (.feService r) s = .next { s with defers := s.defers ++ [r] } := by
  change execFeService r s = _
  simp only [execFeService, State.touch_of_no_injs hinjs, hwaits, bne_self_eq_false, Bool.false_eq_true, if_false]
  rw [if_neg (Nat.not_le.mpr hroom)]
  exact congrArg _ (State.feSettle_own hnone hwaits)

/-- Where the port has none, it is FE_OVERFLOW. -/
theorem exec_feService_overflow (hwho : r.who = .firing) (hfull : 64 ≤ s.portDefers (r.pa % 2 ^ 44)) :
    exec (.feService r) s = .next ((s.dropReq r).raiseCtx r.grp r.ea ⟨r.ea, r.ctx, r.slot⟩ 0x14 0 r.addr) := by
  have hfail : s.failReq r r.ea 0x14 0 = (s.dropReq r).raiseCtx r.grp r.ea ⟨r.ea, r.ctx, r.slot⟩ 0x14 0 r.addr := by
    simp only [State.failReq, hwho]
  have hdefers : ((s.dropReq r).raiseCtx r.grp r.ea ⟨r.ea, r.ctx, r.slot⟩ 0x14 0 r.addr).defers = s.defers := by
    rw [State.raiseCtx, (recordFrame_raiseRec ..).defers]
    exact State.dropReq_defers s hwho
  change execFeService r s = _
  simp only [execFeService, State.touch_of_no_injs hinjs, hwaits, bne_self_eq_false, Bool.false_eq_true, if_false]
  rw [if_pos hfull, hfail, State.feSettle_of_no_defers (hdefers ▸ hnone)]

end

/-! ## Replies (R230) -/

theorem gives_of_exec {i : Instr} {s t : State} {p : State → Prop} (h : exec i s = .next t) (hp : p t) : gives i s p := ⟨t, h, hp⟩

/-- What the arrival of a reply leaves alone: the program's memory and contexts, and the other elements. -/
def replyFrame (s t : State) (ea : Nat) : Prop := servedFrame s t ∧ ∀ y, y ≠ ea → t.elem y = s.elem y

theorem replyFrame.trans {s t u : State} {ea : Nat} (h : replyFrame s t ea) (k : replyFrame t u ea) : replyFrame s u ea :=
  ⟨h.1.trans k.1, fun y hy => (k.2 y hy).trans (h.2 y hy)⟩

theorem replyFrame_modElem (s : State) (ea : Nat) (f : Elem → Elem) (h : (f (s.elem ea)).ctxs = (s.elem ea).ctxs) :
    replyFrame s (s.modElem ea f) ea :=
  ⟨servedFrame_modElem s ea f h, fun _ hy => State.elem_modElem_ne _ _ _ _ hy⟩

theorem replyFrame_modOut (s : State) (ea o : Nat) (f : Out → Out) : replyFrame s (s.modOut ea o f) ea :=
  replyFrame_modElem s ea (fun e => e.setOut o (f (e.out o))) rfl

theorem replyFrame_at (s : State) (ea n : Nat) (i : Instr) : replyFrame s (s.at_ n i) ea := ⟨servedFrame_at .., fun _ _ => rfl⟩

theorem State.out_modOut (s : State) (ea o : Nat) (f : Out → Out) : ((s.modOut ea o f).elem ea).out o = f ((s.elem ea).out o) := by
  simp [State.modOut, Elem.out, Elem.setOut]

theorem State.chan_modOut (s : State) (ea o : Nat) (f : Out → Out) (n : Nat) : (s.modOut ea o f).chan ea n = s.chan ea n := by
  simp [State.modOut, State.chan, Elem.chan, Elem.setOut]

/-- The state in which the reply `w` to the oldest request of its route is in RCH, and the requests `reqs` are left. -/
def State.replyGiven (s : State) (r : MReq) (w : CWord) (reqs : List ReqEnt) : State :=
  ((s.modOut r.ea r.out (fun o => { o with reqs := reqs })).modChan r.ea r.rch (fun c => { c with reserved := c.reserved - 1 })).queueWord
    r.ea r.rch ⟨w, .none, s.now⟩

theorem replyFrame_replyGiven (s : State) (r : MReq) (w : CWord) (reqs : List ReqEnt) : replyFrame s (s.replyGiven r w reqs) r.ea :=
  ((replyFrame_modOut s r.ea r.out _).trans
    (replyFrame_modElem _ r.ea (fun e => e.setChan r.rch { e.chan r.rch with reserved := (e.chan r.rch).reserved - 1 }) rfl)).trans
    (replyFrame_modElem _ r.ea (fun e => e.setChan r.rch { e.chan r.rch with
      q := (e.chan r.rch).q ++ [⟨w, .none, s.now⟩], st := chanAfterArrival (e.chan r.rch).st w.kind }) rfl)

/-- A word of a reply, data or poison, opens its channel. -/
theorem State.chan_replyGiven (s : State) (r : MReq) (w : CWord) (hw : w.kind = .data ∨ w.kind = .poison) (reqs : List ReqEnt) :
    (s.replyGiven r w reqs).chan r.ea r.rch = { s.chan r.ea r.rch with
      q := (s.chan r.ea r.rch).q ++ [⟨w, .none, s.now⟩], reserved := (s.chan r.ea r.rch).reserved - 1, st := .opened } := by
  have hopen (st : ChSt) : chanAfterArrival st w.kind = .opened := by rcases hw with hw | hw <;> rw [hw] <;> rfl
  rw [State.replyGiven, State.queueWord, State.chan_modChan_same, State.chan_modChan_same, State.chan_modOut]
  simp only [hopen]

theorem State.chan_replyGiven_ne (s : State) (r : MReq) (w : CWord) (reqs : List ReqEnt) {n : Nat} (hn : n ≠ r.rch) :
    (s.replyGiven r w reqs).chan r.ea n = s.chan r.ea n := by
  rw [State.replyGiven, State.queueWord, State.chan_modChan_ne _ _ _ hn, State.chan_modChan_ne _ _ _ hn, State.chan_modOut]

/-- The oldest request of a route that awaits its word gives it to RCH as soon as it is there. -/
theorem State.flushReplies_oldest {s : State} {r : MReq} {x : ReqEnt} {xs : List ReqEnt} {w : CWord}
    (hreqs : ((s.elem r.ea).out r.out).reqs = x :: xs) (hren : x.ren = true) (hreply : x.reply = some w) :
    s.flushReplies r = if (dropDone xs).any (fun y => y.reply.isSome) then
        ((s.modOut r.ea r.out (fun o => { o with reqs := x :: xs })).replyGiven r w (dropDone xs)).after 1
          (.replyArrival { r with id := 0 } 0 false)
      else (s.modOut r.ea r.out (fun o => { o with reqs := x :: xs })).replyGiven r w (dropDone xs) := by
  have hstays : dropDone (x :: xs) = x :: xs := by simp [dropDone, hren]
  simp only [State.flushReplies, hreqs, hstays, hreply]
  rfl

/-- A reply to a request of a firing is put at its request in the route. -/
theorem exec_replyArrival {r : MReq} (hwho : r.who = .firing) (v : Word) (p : Bool) (s : State) :
    exec (.replyArrival r v p) s = .next ((s.modOut r.ea r.out (fun o => { o with
      reqs := o.reqs.map (fun x => if x.id == r.id then { x with reply := some ⟨v, r.tag, if p then .poison else .data⟩ } else x) })).flushReplies r) := by
  change execReplyArrival r v p s = _
  simp only [execReplyArrival, hwho]

theorem gives_replyArrival {s : State} {r : MReq} (hwho : r.who = .firing) {x : ReqEnt} {xs : List ReqEnt}
    (hreqs : ((s.elem r.ea).out r.out).reqs = x :: xs) (hid : x.id = r.id) (hren : x.ren = true) (v : Word) (p : Bool) :
    gives (.replyArrival r v p) s (fun t =>
      t.chan r.ea r.rch = { s.chan r.ea r.rch with
        q := (s.chan r.ea r.rch).q ++ [⟨⟨v, r.tag, if p then .poison else .data⟩, .none, s.now⟩]
        reserved := (s.chan r.ea r.rch).reserved - 1, st := .opened } ∧
      (∀ n, n ≠ r.rch → t.chan r.ea n = s.chan r.ea n) ∧ replyFrame s t r.ea) := by
  let w : CWord := ⟨v, r.tag, if p then .poison else .data⟩
  let there : ReqEnt → ReqEnt := fun x => if x.id == r.id then { x with reply := some w } else x
  let u := s.modOut r.ea r.out (fun o => { o with reqs := o.reqs.map there })
  let u' := u.modOut r.ea r.out (fun o => { o with reqs := there x :: xs.map there })
  have hkind : w.kind = .data ∨ w.kind = .poison := by cases p <;> simp [w]
  have hu : ((u.elem r.ea).out r.out).reqs = there x :: xs.map there := by
    rw [State.out_modOut, hreqs, List.map_cons]
  have hflush := State.flushReplies_oldest (r := r) (w := w) hu (by simp [there, hid, hren]) (by simp [there, hid])
  have hchan (n : Nat) : u'.chan r.ea n = s.chan r.ea n := by rw [State.chan_modOut, State.chan_modOut]
  have hframe : replyFrame s (u'.replyGiven r w (dropDone (xs.map there))) r.ea :=
    ((replyFrame_modOut ..).trans (replyFrame_modOut ..)).trans (replyFrame_replyGiven ..)
  have hrch : (u'.replyGiven r w (dropDone (xs.map there))).chan r.ea r.rch = { s.chan r.ea r.rch with
      q := (s.chan r.ea r.rch).q ++ [⟨w, .none, s.now⟩], reserved := (s.chan r.ea r.rch).reserved - 1, st := .opened } := by
    rw [State.chan_replyGiven _ _ _ hkind, hchan]
    rfl
  have hothers (n : Nat) (hn : n ≠ r.rch) : (u'.replyGiven r w (dropDone (xs.map there))).chan r.ea n = s.chan r.ea n :=
    (State.chan_replyGiven_ne _ _ _ _ hn).trans (hchan n)
  refine gives_of_exec ((exec_replyArrival hwho v p s).trans (congrArg _ hflush)) ?_
  generalize u'.replyGiven r w (dropDone (xs.map there)) = t at hrch hothers hframe
  split
  · exact ⟨hrch, hothers, hframe.trans (replyFrame_at ..)⟩
  · exact ⟨hrch, hothers, hframe⟩

/-! ## Acknowledgements (R235) -/

/-- The state in which a context awaits the request `id` no more. -/
def State.ackTaken (s : State) (ea c id : Nat) : State :=
  s.modCtx ea c (fun x => { x with acks := ndel id x.acks, sbarReqs := ndel id x.sbarReqs })

/-- The state in which the joins, arrivals and requests of an element await the request `id` no more; those that awaited it alone, save
the joins, are listed no more. -/
def State.ackListed (s : State) (ea id : Nat) : State :=
  s.modElem ea (fun e => { e with
    joins := e.joins.map (fun j => { j with waits := ndel id j.waits })
    barWaits := (e.barWaits.filter (fun b => b.1 != [id])).map (fun b => (ndel id b.1, b.2))
    sends := (e.sends.filter (fun b => b.1 != [id])).map (fun b => (ndel id b.1, b.2)) })

theorem exec_ackArrival {r : MReq} (hwho : r.who = .firing) (s : State) :
    exec (.ackArrival r) s = .next ((s.ackTaken r.ea r.ctx r.id).ackWaits r.ea r.id) := by
  change execAckArrival r s = _
  simp only [execAckArrival, hwho]
  rfl

theorem linkFrame_foldl {β : Type} {f : State → β → State} (hf : ∀ s x, linkFrame s (f s x)) (l : List β) (s : State) :
    linkFrame s (l.foldl f s) :=
  State.foldl_keeps (linkFrame s) f l (fun u x h => h.trans (hf u x)) (.refl s)

/-- Each of a list of events put on the agenda for the next cycle awaits it. -/
theorem State.awaits_foldl_after {β : Type} (i : β → Instr) {l : List β} {x : β} (hx : x ∈ l) (s : State) :
    (l.foldl (fun s x => s.after 1 (i x)) s).awaits (s.now + 1) (i x) := by
  induction l generalizing s with
  | nil => exact absurd hx (List.not_mem_nil)
  | cons y l ih =>
    rcases List.mem_cons.mp hx with rfl | hx
    · exact State.awaits.kept (State.awaits_at ..) (linkFrame_foldl (fun s _ => linkFrame_at s ..) ..).2
    · exact ih hx (s.after 1 (i y))

/-- What awaited a request alone goes on its way, and the joins among it in the next cycle. -/
theorem State.ackWaits_sends (s : State) (ea id : Nat) : linkFrame (s.ackListed ea id) (s.ackWaits ea id) ∧
    ∀ j ∈ (s.elem ea).joins, j.waits = [id] → (s.ackWaits ea id).awaits (s.now + 1) (.joinWordEntry ea j.ctx j.id) := by
  let joins := (s.elem ea).joins.filter (fun j => j.waits == [id])
  let started := joins.foldl (fun s j => s.after 1 (.joinWordEntry ea j.ctx j.id)) (s.ackListed ea id)
  have hjoins : linkFrame (s.ackListed ea id) started := linkFrame_foldl (fun s _ => linkFrame_at s ..) ..
  have hrest : linkFrame started (s.ackWaits ea id) :=
    (linkFrame_foldl (fun s (b : List Nat × BarMsg) => linkFrame_at s ..) ((s.elem ea).barWaits.filter (fun b => b.1 == [id])) started).trans
      (linkFrame_foldl (fun s (b : List Nat × MReq) => linkFrame_sendTwice s ..) ((s.elem ea).sends.filter (fun b => b.1 == [id])) _)
  refine ⟨hjoins.trans hrest, fun j hj hwaits => ?_⟩
  have hmem : j ∈ joins := List.mem_filter.mpr ⟨hj, beq_iff_eq.mpr hwaits⟩
  exact (State.awaits_foldl_after (fun j => .joinWordEntry ea j.ctx j.id) hmem (s.ackListed ea id)).kept hrest.2

theorem State.ctx_ackListed (s : State) (ea id c : Nat) : (s.ackListed ea id).ctx ea c = s.ctx ea c := by
  simp [State.ackListed, State.ctx, Elem.ctx]

theorem replyFrame_ackListed (s : State) (ea id : Nat) : replyFrame s (s.ackListed ea id) ea := replyFrame_modElem s ea _ rfl

theorem State.chan_ackListed (s : State) (ea id n : Nat) : (s.ackListed ea id).chan ea n = s.chan ea n := by
  simp [State.ackListed, State.chan, Elem.chan]

/-- What a program reads of a context does not hang on the accesses that it awaits. -/
theorem sameProgram_ackTaken (s : State) (ea c id : Nat) : sameProgram s (s.ackTaken ea c id) := by
  have hfire : fireFrame s (s.ackTaken ea c id) ⟨ea, c, 0⟩ :=
    fireFrame_modCtx s ⟨ea, c, 0⟩ (fun x => { x with acks := ndel id x.acks, sbarReqs := ndel id x.sbarReqs })
      ⟨rfl, rfl, rfl, rfl, rfl, rfl, rfl⟩
  obtain ⟨hframe, -, hctx⟩ := hfire
  obtain ⟨hmemory, helem, -⟩ := hframe
  refine ⟨hmemory, fun x k => ?_⟩
  by_cases hx : x = ea
  · exact hx ▸ hctx k
  · rw [State.ctx, State.ctx, helem x hx]
    exact .refl _

/-! ## The obligation -/

/-- What is as before when an lde or an stf is performed at its unit, and its acknowledgement on its way. -/
structure feAcked (s t : State) (r : MReq) : Prop where
  ctx : ∀ ea c, t.ctx ea c = s.ctx ea c
  defers : t.defers = s.defers
  ack : t.awaits (s.now + replyDelay s.module r) (.ackArrival r)
  units : ∀ k, k ≠ unitOf (r.pa % 2 ^ 44) → t.isFull k = s.isFull k ∧ t.poisoned k = s.poisoned k

section
variable {s : State} {r : MReq} (hwho : r.who = .firing) (hout : r.out < localOut) (hinjs : s.injs = [])
  (hnone : ∀ q ∈ s.defers, unitOf (q.pa % 2 ^ 44) ≠ unitOf (r.pa % 2 ^ 44))
include hwho hout hinjs hnone

theorem gives_feService_lde (hendp : r.endp = 0x82) (hacc : r.acc = .lde) (hfull : s.isFull (unitOf (r.pa % 2 ^ 44)) = true) :
    gives (.feService r) s (fun t => feAcked s t r ∧ t.isFull (unitOf (r.pa % 2 ^ 44)) = false ∧ (∀ y, t.readByte y = s.readByte y) ∧
      (r.ren = true → t.awaits (s.now + replyDelay s.module r)
        (.replyArrival r (s.read64 (r.pa % 2 ^ 44)) (r.pzn || s.poisoned (unitOf (r.pa % 2 ^ 44)))))) := by
  refine gives_of_exec (exec_feService_lde hwho hinjs hnone hacc hfull) ?_
  generalize hu : unitOf (r.pa % 2 ^ 44) = u
  have hdone := servedFrame_complete (s.emptied u) hwho (s.read64 (r.pa % 2 ^ 44)) (r.pzn || s.poisoned u) (replyDelay s.module r)
  have hack := State.complete_acks (s.emptied u) hwho hout (s.read64 (r.pa % 2 ^ 44)) (r.pzn || s.poisoned u) (replyDelay s.module r)
  have hreply (hren : r.ren = true) := State.complete_replies (s.emptied u) hwho hout hendp hren (s.read64 (r.pa % 2 ^ 44))
    (r.pzn || s.poisoned u) (replyDelay s.module r)
  generalize (s.emptied u).complete r (s.read64 (r.pa % 2 ^ 44)) (r.pzn || s.poisoned u) (replyDelay s.module r) = t at hdone hack hreply
  refine ⟨⟨hdone.ctx, hdone.defers, hack, fun k hk => ⟨?_, hdone.poisoned k⟩⟩, ?_, hdone.readByte, hreply⟩
  · rw [hdone.isFull, State.emptied, State.isFull_setFull, if_neg (hu ▸ hk)]
  · rw [hdone.isFull, State.emptied, State.isFull_setFull, if_pos rfl]

theorem gives_feService_stf (hacc : r.acc = .stf) (hempty : s.isFull (unitOf (r.pa % 2 ^ 44)) = false) :
    gives (.feService r) s (fun t => feAcked s t r ∧ t.isFull (unitOf (r.pa % 2 ^ 44)) = true ∧
      t.poisoned (unitOf (r.pa % 2 ^ 44)) = false ∧ ∀ y, t.readByte y = if r.pa % 2 ^ 44 ≤ y ∧ y < r.pa % 2 ^ 44 + 8 then
        BitVec.ofNat 8 (r.v1.toNat / 256 ^ (y - r.pa % 2 ^ 44)) else s.readByte y) := by
  refine gives_of_exec (exec_feService_stf hwho hinjs hnone hacc hempty) ?_
  generalize ha : r.pa % 2 ^ 44 = a
  have hdone := servedFrame_complete (s.filled a r.v1) hwho 0 false (replyDelay s.module r)
  have hack := State.complete_acks (s.filled a r.v1) hwho hout 0 false (replyDelay s.module r)
  generalize (s.filled a r.v1).complete r 0 false (replyDelay s.module r) = t at hdone hack
  obtain ⟨helems, hdefers, hnow, -⟩ := s.filled_memoryOnly a r.v1
  have hctx (ea c : Nat) : (s.filled a r.v1).ctx ea c = s.ctx ea c := by rw [State.ctx, State.elem, helems, State.ctx, State.elem]
  refine ⟨⟨fun ea c => (hdone.ctx ea c).trans (hctx ea c), hdone.defers.trans hdefers, ?_, fun k hk => ⟨?_, ?_⟩⟩, ?_, ?_,
    fun y => (hdone.readByte y).trans (s.readByte_filled a y r.v1)⟩
  · rw [← hnow]
    exact hack
  · rw [hdone.isFull, State.isFull_filled, if_neg (ha ▸ hk)]
  · rw [hdone.poisoned, State.poisoned_filled, if_neg (ha ▸ hk)]
  · rw [hdone.isFull, State.isFull_filled, if_pos rfl]
  · rw [hdone.poisoned, State.poisoned_filled, if_pos rfl]

end

theorem gives_ackArrival {s : State} {r : MReq} (hwho : r.who = .firing) : gives (.ackArrival r) s (fun t =>
    (t.ctx r.ea r.ctx).acks = ndel r.id (s.ctx r.ea r.ctx).acks ∧
    (t.ctx r.ea r.ctx).sbarReqs = ndel r.id (s.ctx r.ea r.ctx).sbarReqs ∧ sameProgram s t ∧
    (∀ y, y ≠ r.ea → t.elem y = s.elem y) ∧ (∀ n, t.chan r.ea n = s.chan r.ea n) ∧ s.keepsAgenda t ∧
    ∀ j ∈ (s.elem r.ea).joins, j.waits = [r.id] → t.awaits (s.now + 1) (.joinWordEntry r.ea j.ctx j.id)) := by
  refine gives_of_exec (exec_ackArrival hwho s) ?_
  obtain ⟨hsent, hjoins⟩ := (s.ackTaken r.ea r.ctx r.id).ackWaits_sends r.ea r.id
  have helems := hsent.elems
  have hserved := (replyFrame_ackListed (s.ackTaken r.ea r.ctx r.id) r.ea r.id).1.trans hsent.served
  generalize (s.ackTaken r.ea r.ctx r.id).ackWaits r.ea r.id = t at *
  have helem (y : Nat) : t.elem y = ((s.ackTaken r.ea r.ctx r.id).ackListed r.ea r.id).elem y := congrArg (tget Elem.zero y) helems
  have hctx : t.ctx r.ea r.ctx = (s.ackTaken r.ea r.ctx r.id).ctx r.ea r.ctx :=
    (congrArg (Elem.ctx · r.ctx) (helem r.ea)).trans (State.ctx_ackListed ..)
  rw [hctx, State.ackTaken, State.ctx_modCtx_same]
  refine ⟨rfl, rfl, (sameProgram_ackTaken s r.ea r.ctx r.id).trans hserved.sameProgram, fun y hy => ?_, fun n => ?_, hserved.agenda,
    fun j hj => hjoins j ?_⟩
  · exact (helem y).trans (((replyFrame_ackListed _ r.ea r.id).2 y hy).trans (State.elem_modElem_ne _ _ _ _ hy))
  · refine (congrArg (Elem.chan · n) (helem r.ea)).trans ((State.chan_ackListed ..).trans ?_)
    simp [State.ackTaken, State.modCtx, State.chan, Elem.chan, Elem.setCtx]
  · simpa [State.ackTaken, State.modCtx, Elem.setCtx] using hj

/-- Settles O31: the service of a full/empty access by the state of its unit; a reply and an acknowledgement by what they leave at their
element. -/
theorem fullUnitsAndReplies : Obligations.FullUnitsAndReplies := by
  unfold Obligations.FullUnitsAndReplies
  refine ⟨?units, ?replies⟩
  case units =>
    intro s r hwho hout hendp hinjs _ a u hnone acked
    have hacked {t : State} (h : feAcked s t r) : acked t := ⟨h.ctx, h.defers, h.ack, h.units⟩
    have hkind (h : r.acc = .lde ∧ s.isFull u = false ∨ r.acc = .stf ∧ s.isFull u = true) : s.isFull u = feIsStf r := by
      rcases h with ⟨hacc, hu⟩ | ⟨hacc, hu⟩ <;> rw [hu, feIsStf, hacc] <;> rfl
    refine ⟨fun hlde hfull => ?_, fun hstf hempty => ?_, fun hwaits hroom => exec_feService_deferred hinjs hnone (hkind hwaits) hroom,
      fun hwaits hfull => exec_feService_overflow hinjs hnone (hkind hwaits) hwho hfull⟩
    · exact (gives_feService_lde hwho hout hinjs hnone hendp hlde hfull).imp fun t ⟨h, hrest⟩ => ⟨hacked h, hrest⟩
    · exact (gives_feService_stf hwho hout hinjs hnone hstf hempty).imp fun t ⟨h, hrest⟩ => ⟨hacked h, hrest⟩
  case replies =>
    intro s r v p hwho
    refine ⟨?_, gives_ackArrival hwho⟩
    intro x xs hreqs hid hren
    refine (gives_replyArrival hwho hreqs hid hren v p).imp fun t ⟨hchan, hothers, hserved, helems⟩ => ?_
    exact ⟨congrArg Chan.q hchan, congrArg Chan.reserved hchan, congrArg Chan.st hchan, hothers, hserved.sameProgram, helems⟩

end Sys2Proof.Machine
end

section
/-! SUPPORT. Lookups in a slice, the start of a walk, releases from a missing page, and the acknowledgement of a removal (R301, R340,
R345 to R347, R350). Settles O33. -/

namespace Sys2Proof.Machine

/-! ## Slices -/

@[simp] theorem State.slice_modSlice_same (s : State) (t : Nat) (f : Slice → Slice) : (s.modSlice t f).slice t = f (s.slice t) :=
  tget_tput_same ..

@[simp] theorem State.slice_modSlice_ne (s : State) {t x : Nat} (f : Slice → Slice) (h : x ≠ t) : (s.modSlice t f).slice x = s.slice x :=
  tget_tput_ne _ _ _ _ _ h

theorem State.modSlice_eq (s : State) (t : Nat) (f : Slice → Slice) : s.modSlice t f = { s with slices := (s.modSlice t f).slices } := rfl

/-- What a walk leaves alone: all but the slice of its tile, the numbers given and the agenda. -/
def walkFrame (s t : State) (tile : Nat) : Prop :=
  t = { s with slices := t.slices, agenda := t.agenda, serial := t.serial } ∧ s.keepsAgenda t ∧ ∀ x, x ≠ tile → t.slice x = s.slice x

theorem walkFrame.refl (s : State) (tile : Nat) : walkFrame s s tile := ⟨rfl, fun _ h => h, fun _ _ => rfl⟩

theorem walkFrame.trans {s t u : State} {tile : Nat} (h : walkFrame s t tile) (k : walkFrame t u tile) : walkFrame s u tile := by
  obtain ⟨hst, hag, hsl⟩ := h
  obtain ⟨htu, kag, ksl⟩ := k
  exact ⟨by rw [htu, hst], hag.trans kag, fun x hx => (ksl x hx).trans (hsl x hx)⟩

theorem walkFrame.served {s t : State} {tile : Nat} (h : walkFrame s t tile) : servedFrame s t := by
  obtain ⟨hst, hag, -⟩ := h
  exact ⟨by rw [hst], by rw [hst], by rw [hst], by rw [hst], by rw [hst], by rw [hst], fun ea c => by rw [hst]; rfl, hag⟩

theorem walkFrame_at (s : State) (tile n : Nat) (i : Instr) : walkFrame s (s.at_ n i) tile :=
  ⟨rfl, s.keepsAgenda_at n i, fun _ _ => rfl⟩

theorem walkFrame_modSlice (s : State) (tile : Nat) (f : Slice → Slice) : walkFrame s (s.modSlice tile f) tile :=
  ⟨rfl, fun _ h => h, fun _ hx => State.slice_modSlice_ne s f hx⟩

/-! ## Lookups and walks (R301, R345) -/

theorem walkFrame_walkStep (s : State) (tile id : Nat) (r : MReq) (again : Bool) : walkFrame s (s.walkStep tile id r again) tile := by
  unfold State.walkStep
  split <;> exact walkFrame_at ..

theorem State.slice_walkStep (s : State) (tile id x : Nat) (r : MReq) (again : Bool) : (s.walkStep tile id r again).slice x = s.slice x := by
  unfold State.walkStep
  split <;> rfl

/-- The state in which a walk has its place in the slice. -/
def State.walkTaken (s : State) (tile : Nat) (r : MReq) : State :=
  s.bump.modSlice tile (fun x => { x with walks := x.walks ++ [(s.serial, r, false)] })

theorem walkFrame_walkTaken (s : State) (tile : Nat) (r : MReq) : walkFrame s (s.walkTaken tile r) tile :=
  ⟨rfl, fun _ h => h, fun _ hx => State.slice_modSlice_ne s.bump _ hx⟩

/-- A walk starts where fewer than 8 are in progress. -/
theorem State.startWalk_starts {s : State} {tile : Nat} (hroom : (s.slice tile).walks.length < 8) (r : MReq) (again : Bool) :
    s.startWalk tile r again = (s.walkTaken tile r).walkStep tile s.serial r again := if_pos hroom

theorem State.slice_startWalk {s : State} {tile : Nat} (hroom : (s.slice tile).walks.length < 8) (r : MReq) (again : Bool) :
    (s.startWalk tile r again).slice tile = { s.slice tile with walks := (s.slice tile).walks ++ [(s.serial, r, false)] } := by
  rw [State.startWalk_starts hroom, State.slice_walkStep]
  exact State.slice_modSlice_same s.bump ..

theorem walkFrame_startWalk {s : State} {tile : Nat} (hroom : (s.slice tile).walks.length < 8) (r : MReq) (again : Bool) :
    walkFrame s (s.startWalk tile r again) tile := by
  rw [State.startWalk_starts hroom]
  exact (walkFrame_walkTaken s tile r).trans (walkFrame_walkStep ..)

/-- The entry put in a cache is the one used latest. -/
theorem getLast?_cacheAdd {cap : Nat} (hcap : 0 < cap) (e : TlbEnt) (l : List TlbEnt) : (cacheAdd cap e l).getLast? = some e := by
  have hlen (k : List TlbEnt) : (k ++ [e]).length - cap ≤ k.length := by
    rw [List.length_append, List.length_singleton]
    omega
  simp only [cacheAdd]
  rw [List.drop_append_of_le_length (hlen _), List.getLast?_concat]

/-- The state in which an entry of a slice is the one used latest. -/
def State.entryUsed (s : State) (tile : Nat) (e : TlbEnt) : State :=
  s.modSlice tile (fun x => { x with ents := cacheAdd Config.tlbEntries e x.ents })

theorem walkFrame_entryUsed (s : State) (tile : Nat) (e : TlbEnt) : walkFrame s (s.entryUsed tile e) tile := walkFrame_modSlice ..

theorem State.slice_entryUsed (s : State) (tile : Nat) (e : TlbEnt) : (s.entryUsed tile e).slice tile =
    { s.slice tile with ents := cacheAdd Config.tlbEntries e (s.slice tile).ents } := State.slice_modSlice_same ..

/-- The state in which the request of a firing knows its physical address, where it has a route. -/
def State.addressed (s : State) (r : MReq) (pa : Nat) : State := if r.out < localOut then s.notePa r pa else s

/-- What a translation leaves alone. -/
theorem State.addressed_eq (s : State) (r : MReq) (pa : Nat) : s.addressed r pa = { s with elems := (s.addressed r pa).elems } := by
  unfold State.addressed
  split <;> rfl

theorem servedFrame_addressed (s : State) (r : MReq) (pa : Nat) : servedFrame s (s.addressed r pa) := by
  unfold State.addressed
  split
  · exact servedFrame_modOut ..
  · exact .refl s

theorem State.slice_addressed (s : State) (r : MReq) (pa x : Nat) : (s.addressed r pa).slice x = s.slice x := by
  unfold State.addressed
  split <;> rfl

/-- The translated request of a firing goes on to its home. -/
theorem State.onward_firing {r : MReq} (hwho : r.who = .firing) (hacc : r.acc ≠ .migr ∧ r.acc ≠ .record) (s : State)
    (pa page size : Nat) (pzn : Bool) (late : Nat) (fe : Bool) : s.onward r pa page size pzn late fe =
      (s.addressed r pa).at_ (max (s.now + (if late == 0 then 4 else 1)) (r.issued + late + homeHalf s.module r.ea pa))
        (.requestPerform { r with pa := pa, tpage := page, tsize := size, pzn := pzn, issued := r.issued + late }) := by
  obtain ⟨hmigr, hrecord⟩ := hacc
  simp only [State.onward, hwho, beq_false_of_ne hmigr, beq_false_of_ne hrecord, Bool.false_eq_true, if_false]
  have hmodule := (servedFrame_addressed s r pa).module
  have hnow := (servedFrame_addressed s r pa).now
  rw [← hmodule, ← hnow]
  rfl

section
variable {s : State} {r : MReq} {tile : Nat} (htile : (s.group r.grp).owner r.addr = tile)
include htile

theorem gives_tlbLookup_hit (hwho : r.who = .firing)
    (hacc : r.acc = .ld ∨ r.acc = .st ∨ r.acc = .amo ∨ r.acc = .cas ∨ r.acc = .lde ∨ r.acc = .stf) {e : TlbEnt} {pa : Nat}
    (hhit : (s.slice tile).ents.find? (fun e => e.maps r.dom (vbits r.addr / 65536)) = some e)
    (huse : leafUse s.module r.acc false e.page e.size e.leaf (vbits r.addr) = .inl pa) : gives (.tlbLookup r) s (fun t =>
      t.awaits (max (s.now + 4) (r.issued + homeHalf s.module r.ea pa))
        (.requestPerform { r with pa := pa, tpage := e.page, tsize := e.size, pzn := ptePzn e.leaf }) ∧
      (t.slice tile).ents.getLast? = some e ∧ (∀ x, x ≠ tile → t.slice x = s.slice x) ∧ (∀ ea c, t.ctx ea c = s.ctx ea c) ∧
      t = { s with slices := t.slices, agenda := t.agenda, elems := t.elems } ∧ s.keepsAgenda t) := by
  have hwhich : r.acc ≠ .migr ∧ r.acc ≠ .record := by
    rcases hacc with h | h | h | h | h | h <;> rw [h] <;> exact ⟨nofun, nofun⟩
  have hexec : exec (.tlbLookup r) s = .next ((s.entryUsed tile e).onward r pa e.page e.size (ptePzn e.leaf) 0 (pteFe e.leaf)) := by
    change execTlbLookup r s = _
    simp only [execTlbLookup, htile, hhit, hwho, isFlow, huse]
    rfl
  obtain ⟨-, hagenda, hothers⟩ := walkFrame_entryUsed s tile e
  have heq : s.entryUsed tile e = { s with slices := (s.entryUsed tile e).slices } := State.modSlice_eq ..
  have hused : ((s.entryUsed tile e).slice tile).ents.getLast? = some e := by
    rw [State.slice_entryUsed]
    dsimp only
    exact getLast?_cacheAdd (by norm_num) e _
  obtain ⟨-, -, -, -, hnow, hmodule, hctx, -⟩ := (walkFrame_entryUsed s tile e).served
  rw [State.onward_firing hwho hwhich, hnow, hmodule, beq_self_eq_true, if_pos rfl, Nat.add_zero] at hexec
  generalize s.entryUsed tile e = u at *
  have hv := servedFrame_addressed u r pa
  have hslice (x : Nat) : (u.addressed r pa).slice x = u.slice x := u.slice_addressed r pa x
  have hveq := u.addressed_eq r pa
  generalize u.addressed r pa = v at *
  refine gives_of_exec hexec ⟨State.awaits_at .., ?_, fun x hx => (hslice x).trans (hothers x hx),
    fun ea c => (hv.ctx ea c).trans (hctx ea c), ?_, (hagenda.trans hv.agenda).trans (v.keepsAgenda_at _ _)⟩
  · exact (congrArg (fun y : Slice => y.ents.getLast?) (hslice tile)).trans hused
  · rw [hveq, heq]
    rfl

theorem gives_tlbLookup_miss {root : Nat}
    (hmiss : (s.slice tile).ents.find? (fun e => e.maps r.dom (vbits r.addr / 65536)) = none)
    (hroom : (s.slice tile).walks.length < 8) (hroot : s.root r.dom = some root) : gives (.tlbLookup r) s (fun t =>
      (t.slice tile).walks = (s.slice tile).walks ++ [(s.serial, r, false)] ∧
      t.awaits (s.now + homeHalf s.module tile (s.module * 2 ^ 44 + entryAddr root 4 (vbits r.addr)))
        (.tlbWalk ⟨s.serial, r, tile, 4, entryAddr root 4 (vbits r.addr), false, none, false⟩) ∧
      t = { s with slices := t.slices, agenda := t.agenda, serial := t.serial } ∧ s.keepsAgenda t) := by
  have hexec : exec (.tlbLookup r) s = .next (s.startWalk tile r false) := by
    change execTlbLookup r s = _
    simp only [execTlbLookup, htile, hmiss]
  obtain ⟨heq, hagenda, -⟩ := walkFrame_startWalk hroom r false
  refine gives_of_exec hexec ⟨congrArg Slice.walks (State.slice_startWalk hroom r false), ?_, heq, hagenda⟩
  have hroot' : (s.walkTaken tile r).root r.dom = some root := hroot
  rw [State.startWalk_starts hroom, State.walkStep, hroot']
  exact State.awaits_at ..

end

/-! ## Releases from a missing page (R347) -/

/-- No request waits for a place at a slice. -/
theorem State.refill_of_none_beyond {s : State} {tile : Nat} (h : (s.slice tile).beyond = []) : s.refill tile = s := by
  rw [State.refill, h]

theorem State.foldl_refill_of_none_beyond {s : State} {tile : Nat} (h : (s.slice tile).beyond = []) (l : List Nat) :
    l.foldl (fun s _ => s.refill tile) s = s := by
  induction l with
  | nil => rfl
  | cons n l ih => rw [List.foldl_cons, State.refill_of_none_beyond h, ih]

/-- The state in which the agents of a slice that stopped at an entry are held no more. -/
def State.unheld (s : State) (tile entry : Nat) : State :=
  s.modSlice tile (fun x => { x with held := x.held.filter (fun y => y.entry != entry) })

theorem State.slice_unheld (s : State) (tile entry : Nat) : (s.unheld tile entry).slice tile =
    { s.slice tile with held := (s.slice tile).held.filter (fun y => y.entry != entry) } := State.slice_modSlice_same ..

/-- The one agent that a slice holds, a firing's, is released. -/
theorem State.releaseAt_one {s : State} {tile : Nat} {h : Held} (hheld : (s.slice tile).held = [h]) (hwho : h.r.who = .firing) :
    s.releaseAt h.entry [tile] = (List.range Config.heldRequests).foldl (fun s _ => s.refill tile)
      ((s.unheld tile h.entry).startWalk tile h.r false) := by
  have hreleased : (s.unheld tile h.entry).release tile ((s.slice tile).held.filter (fun x => x.entry == h.entry)) =
      (s.unheld tile h.entry).startWalk tile h.r false := by
    simp [hheld, State.release, hwho]
  rw [← hreleased]
  rfl

section
variable {s : State} {gn tile key : Nat} {seq : BitVec 16} {h : Held} (htiles : (s.group gn).tiles = [tile])
  (hpnp : (s.group gn).pnp = [(seq.toNat, key)]) (hheld : (s.slice tile).held = [h]) (hkey : h.key = key)
include htiles hpnp hheld hkey

theorem exec_pageResume : exec (.pageResume gn seq) s = .next (s.releaseAt h.entry [tile]) := by
  have hentry : s.stoppedAt gn key = some h.entry := by simp [State.stoppedAt, htiles, hheld, hkey]
  change execPageResume gn seq s = _
  simp only [execPageResume, hpnp, List.find?_cons, beq_self_eq_true, hentry, htiles]

theorem gives_pageResume (hwho : h.r.who = .firing) (hbeyond : (s.slice tile).beyond = []) (hwalks : (s.slice tile).walks = []) :
    gives (.pageResume gn seq) s (fun t => (t.slice tile).held = [] ∧ (t.slice tile).walks = [(s.serial, h.r, false)] ∧
      sameProgram s t ∧ s.keepsAgenda t) := by
  have hu : (s.unheld tile h.entry).slice tile = { s.slice tile with held := [] } := by
    rw [State.slice_unheld, hheld]
    simp
  have hframe : walkFrame s (s.unheld tile h.entry) tile := walkFrame_modSlice ..
  have hserial : (s.unheld tile h.entry).serial = s.serial := rfl
  have hexec := (exec_pageResume htiles hpnp hheld hkey).trans (congrArg _ (State.releaseAt_one hheld hwho))
  generalize s.unheld tile h.entry = u at *
  have hroom : (u.slice tile).walks.length < 8 := by
    rw [hu, hwalks]
    decide
  have hslice : (u.startWalk tile h.r false).slice tile = { s.slice tile with held := [], walks := [(s.serial, h.r, false)] } := by
    rw [State.slice_startWalk hroom, hu, hwalks, hserial]
    rfl
  have hwalked := hframe.trans (walkFrame_startWalk hroom h.r false)
  rw [State.foldl_refill_of_none_beyond ((congrArg Slice.beyond hslice).trans hbeyond)] at hexec
  exact gives_of_exec hexec ⟨congrArg Slice.held hslice, congrArg Slice.walks hslice, hwalked.served.sameProgram, hwalked.2.1⟩

end

/-! ## Acknowledgements of a removal (R350) -/

theorem testBit_waitTinval_setWait (c : Ctx) : (c.setWait waitTinval false).wait.testBit waitTinval = false := by
  simp only [Ctx.setWait, waitTinval, Nat.testBit_zero]
  split
  case isTrue h =>
    have hodd : c.wait % 2 = 1 := of_decide_eq_true h
    simp only [Bool.false_eq_true, if_false, decide_eq_false_iff_not]
    omega
  case isFalse h =>
    have heven : c.wait % 2 ≠ 1 := fun k => h (decide_eq_true k)
    simp only [Bool.false_eq_true, if_false, decide_eq_false_iff_not]
    omega

/-- What a program reads of a context does not hang on what it awaits. -/
theorem sameProgram_modCtx (s : State) (ea c : Nat) (f : Ctx → Ctx) (h : sameCtx (s.ctx ea c) (f (s.ctx ea c))) :
    sameProgram s (s.modCtx ea c f) := by
  have hfire : fireFrame s (s.modCtx ea c f) ⟨ea, c, 0⟩ := fireFrame_modCtx s ⟨ea, c, 0⟩ f h
  obtain ⟨⟨hmemory, helem, -⟩, -, hctx⟩ := hfire
  refine ⟨hmemory, fun x k => ?_⟩
  by_cases hx : x = ea
  · exact hx ▸ hctx k
  · rw [State.ctx, State.ctx, helem x hx]
    exact .refl _

section
variable {s : State} {t0 : Tinv} (hone : s.tinvs = [t0]) (hready : t0.ready ≤ s.now)
include hone hready

theorem gives_tinvalAck_over (hnone : t0.waits.any s.onWay = false) : gives (.tinvalAck t0.ea t0.ctx) s (fun t => t.tinvs = [] ∧
    (t.ctx t0.ea t0.ctx).wait.testBit waitTinval = false ∧ sameProgram s t) := by
  let u : State := { s with tinvs := [] }
  have hexec : exec (.tinvalAck t0.ea t0.ctx) s = .next (u.modCtx t0.ea t0.ctx (fun c => c.setWait waitTinval false)) := by
    change execTinvalAck t0.ea t0.ctx s = _
    simp only [execTinvalAck, hone, List.find?_cons, beq_self_eq_true, Bool.and_self, Nat.not_lt.mpr hready, if_false, hnone,
      Bool.false_eq_true, List.erase_cons_head]
    rfl
  refine gives_of_exec hexec ⟨rfl, ?_, ?_⟩
  · rw [State.ctx_modCtx_same]
    exact testBit_waitTinval_setWait _
  · have hsame : sameProgram u (u.modCtx t0.ea t0.ctx (fun c => c.setWait waitTinval false)) :=
      sameProgram_modCtx u t0.ea t0.ctx (fun c => c.setWait waitTinval false) ⟨rfl, rfl, rfl, rfl, rfl, rfl, rfl⟩
    exact hsame

theorem gives_tinvalAck_awaits (hsome : t0.waits.any s.onWay = true) : gives (.tinvalAck t0.ea t0.ctx) s (fun t => t.tinvs = [t0] ∧
    t.awaits (s.now + 1) (.tinvalAck t0.ea t0.ctx)) := by
  have hexec : exec (.tinvalAck t0.ea t0.ctx) s = .next (s.after 1 (.tinvalAck t0.ea t0.ctx)) := by
    change execTinvalAck t0.ea t0.ctx s = _
    simp only [execTinvalAck, hone, List.find?_cons, beq_self_eq_true, Bool.and_self, Nat.not_lt.mpr hready, if_false, hsome, if_true]
  exact gives_of_exec hexec ⟨hone, State.awaits_at ..⟩

end

/-- Settles O33: a lookup by whether the slice holds the page, RESUME of a missing page, and the acknowledgement of a removal. -/
theorem lookupsAndInvalidation : Obligations.LookupsAndInvalidation := by
  unfold Obligations.LookupsAndInvalidation
  refine ⟨fun s r hwho hacc => ⟨fun e hhit huse => gives_tlbLookup_hit rfl hwho hacc hhit huse,
    fun root hmiss hroom hroot => gives_tlbLookup_miss rfl hmiss hroom hroot⟩, fun s gn seq h t0 => ⟨?_, ?_, ?_⟩⟩
  · exact fun tile key htiles hpnp hheld hkey hwho hbeyond hwalks => gives_pageResume htiles hpnp hheld hkey hwho hbeyond hwalks
  · exact fun hone hready hnone => gives_tinvalAck_over hone hready hnone
  · exact fun hone hsome hready => gives_tinvalAck_awaits hone hready hsome

end Sys2Proof.Machine
end

section
/-! SUPPORT. The steps of a page-table walk (R340, R343, R345, R347). Settles O32. -/

namespace Sys2Proof.Machine

theorem State.keepsAgenda_after (s : State) (n : Nat) (i : Instr) : s.keepsAgenda (s.after n i) := s.keepsAgenda_at _ i

theorem State.dropReq_slices (s : State) {r : MReq} (hwho : r.who = .firing) : (s.dropReq r).slices = s.slices := by
  simp only [State.dropReq, hwho]
  split
  · rfl
  · split <;> split <;> rfl

/-- The fault of a firing's request leaves the slices alone. -/
theorem State.slice_failReq (s : State) {r : MReq} (hwho : r.who = .firing) (src code detail x : Nat) :
    (s.failReq r src code detail).slice x = s.slice x := by
  have hfail : s.failReq r src code detail = (s.dropReq r).raiseCtx r.grp src ⟨r.ea, r.ctx, r.slot⟩ code detail r.addr := by
    simp only [State.failReq, hwho]
  have hslices : ((s.dropReq r).raiseCtx r.grp src ⟨r.ea, r.ctx, r.slot⟩ code detail r.addr).slices = s.slices := by
    rw [State.raiseCtx, (recordFrame_raiseRec ..).1]
    exact s.dropReq_slices hwho
  rw [hfail, State.slice, hslices, State.slice]

/-! ## The end of a walk (R345, R347) -/

/-- The state in which a walk has given its place back, and a retry its request's. -/
def State.walkEnded (s : State) (w : Walk) : State :=
  s.modSlice w.tile (fun x =>
    { x with walks := x.walks.filter (fun y => y.1 != w.id), retries := if w.again then x.retries - 1 else x.retries })

theorem State.endWalk_of_none_waiting {s : State} {w : Walk} (h : (s.slice w.tile).waiting = []) : s.endWalk w = s.walkEnded w := by
  have hnone : ((s.walkEnded w).slice w.tile).waiting = [] := by
    rw [State.walkEnded, State.slice_modSlice_same]
    exact h
  unfold State.endWalk
  change (match ((s.walkEnded w).slice w.tile).waiting with
    | [] => s.walkEnded w
    | (r, again) :: rest => ((s.walkEnded w).modSlice w.tile (fun x => { x with waiting := rest })).startWalk w.tile r again) = _
  rw [hnone]

theorem State.walkOver_of_none_beyond {s : State} {w : Walk} (h : w.again = true → (s.slice w.tile).beyond = []) : s.walkOver w = s := by
  unfold State.walkOver
  split
  case isTrue hagain => exact State.refill_of_none_beyond (h hagain)
  case isFalse => rfl

/-- The leaf of a walk that its request may use is cached, and the request goes on. -/
theorem State.walkLeaf_used {s : State} {w : Walk} {e : Word} {page size pa : Nat} (hpage : leafPage w.level (vbits w.r.addr) = page)
    (hsize : leafSize w.level = size) (huse : leafUse s.module w.r.acc (isFlow w.r.who) page size e (vbits w.r.addr) = .inl pa) :
    s.walkLeaf w e = (s.entryUsed w.tile ⟨w.r.dom, page, size, e⟩).onward w.r pa page size (ptePzn e)
      (max (s.now - (w.r.issued + reqTravel w.r w.tile + 4)) 1) (pteFe e) := by
  have hmodule (u : State) (tile : Nat) (f : Slice → Slice) : (u.modSlice tile f).module = u.module := rfl
  have hnow (u : State) (tile : Nat) (f : Slice → Slice) : (u.modSlice tile f).now = u.now := rfl
  simp only [State.walkLeaf, State.entryUsed, hpage, hsize, hmodule, hnow, huse]

/-! ## A missing page (R347) -/

/-- The state in which a request is held at its slice, under the next number. -/
def State.stoppedHere (s : State) (tile : Nat) (r : MReq) (entry : Nat) : State :=
  ({ s with serial := s.serial + 1 } : State).modSlice tile (fun x => { x with held := x.held ++ [⟨s.serial + 1, r, entry⟩] })

theorem walkFrame_stoppedHere (s : State) (tile : Nat) (r : MReq) (entry : Nat) : walkFrame s (s.stoppedHere tile r entry) tile :=
  ⟨rfl, fun _ h => h, fun _ hx => tget_tput_ne _ _ _ _ _ hx⟩

theorem State.slice_stoppedHere (s : State) (tile : Nat) (r : MReq) (entry : Nat) : (s.stoppedHere tile r entry).slice tile =
    { s.slice tile with held := (s.slice tile).held ++ [⟨s.serial + 1, r, entry⟩] } := tget_tput_same ..

/-- A load of a firing for which a place is free is held, and its record raised. -/
theorem State.missPage_held {s : State} {tile : Nat} {r : MReq} (hwho : r.who = .firing) (hacc : r.acc = .ld) (entry : Nat) {again : Bool}
    (hplace : again = false → (s.slice tile).places < 16) : s.missPage tile r entry again =
      (s.stoppedHere tile r entry).raiseRec r.grp tile r.ea (some r.ctx) (some r.slot) 0x11 true false 0 r.addr (s.serial + 1) := by
  have hroom : (!again && decide ((s.slice tile).places ≥ Config.heldRequests)) = false := by
    cases again
    · simpa using hplace rfl
    · rfl
  have hmigr : (r.acc == .migr) = false := by rw [hacc]; rfl
  rw [State.missPage, hmigr, if_neg Bool.false_ne_true, Bool.and_assoc, hroom, Bool.and_false, if_neg Bool.false_ne_true]
  simp only [State.stopAtPage, State.asks, State.endingFlow, agentDetail, hwho]
  rfl

section
variable (s : State) (gn src ea : Nat) (ctx slot : Option Nat) (code detail : Nat) (aux : Word) (key : Nat)

/-- A record without a fence changes no group. -/
theorem State.raiseRec_groups_unfencing : (s.raiseRec gn src ea ctx slot code true false detail aux key).groups = s.groups := by
  unfold State.raiseRec
  dsimp only
  split
  · rfl
  · simp only [Bool.false_and, Bool.false_eq_true, if_false]
    rfl

/-- The record of a LIVE group sets out for its origin hub. -/
theorem State.raiseRec_sends_unfencing (hlive : (s.group gn).st = .live) : ∃ f : FRec, f.code = BitVec.ofNat 8 code ∧ f.fence = false ∧
    f.aux = aux ∧ f.ea = BitVec.ofNat 14 ea ∧ (s.raiseRec gn src ea ctx slot code true false detail aux key).awaits
      (s.now + hubDelay src (s.group gn).origin) (.faultRecordArrival f) := by
  simp only [State.raiseRec, hlive, Bool.false_and, Bool.false_eq_true, if_false]
  exact ⟨_, rfl, rfl, rfl, rfl, State.awaits_at ..⟩

end

section
variable {s : State} {w : Walk} {rest : List (Nat × MReq × Bool)} (hwalks : (s.slice w.tile).walks = (w.id, w.r, false) :: rest)
include hwalks

/-- The walk's slice once the walk is over: the other walks, and a place more for those that walk again. -/
theorem State.slice_walkEnded (hothers : ∀ x ∈ rest, x.1 ≠ w.id) : (s.walkEnded w).slice w.tile =
    { s.slice w.tile with walks := rest, retries := if w.again then (s.slice w.tile).retries - 1 else (s.slice w.tile).retries } := by
  have hrest : rest.filter (fun y => y.1 != w.id) = rest := List.filter_eq_self.mpr fun x hx => bne_iff_ne.mpr (hothers x hx)
  rw [State.walkEnded, State.slice_modSlice_same, hwalks]
  simp [hrest]

/-! ## Reading an entry (R345, R435) -/

section
variable (hentry : w.entry = none)
include hentry

/-- A walk that has still to read its entry, by whether the entry's home is out of service. -/
theorem exec_tlbWalk_reads : exec (.tlbWalk w) s = .next (match s.homeFault w.tile w.addr with
    | some d => ((s.endWalk w).failReq w.r w.tile 0x03 d).walkOver w
    | none => if w.served then (s.feSettle w.addr 1).after (homeHalf s.module w.tile (s.module * 2 ^ 44 + w.addr)) (.tlbWalk { w with
        entry := some (s.read64 w.addr) }) else s.bankEnter w.addr 0 (.tlbWalk { w with served := true }) none) := by
  change execTlbWalk w s = _
  simp only [execTlbWalk, hwalks, List.find?_cons, beq_self_eq_true, hentry] <;> rfl

theorem exec_tlbWalk_offline (hwho : w.r.who = .firing) (hwaiting : (s.slice w.tile).waiting = [])
    (hbeyond : w.again = true → (s.slice w.tile).beyond = []) {d : Nat} (hdown : s.homeFault w.tile w.addr = some d) :
    exec (.tlbWalk w) s = .next ((s.endWalk w).failReq w.r w.tile 0x03 d) := by
  rw [exec_tlbWalk_reads hwalks hentry, hdown]
  refine congrArg _ (State.walkOver_of_none_beyond fun hagain => ?_)
  rw [State.slice_failReq _ hwho, State.endWalk_of_none_waiting hwaiting, State.walkEnded, State.slice_modSlice_same]
  exact hbeyond hagain

end

/-! ## An entry that has been read (R343, R346) -/

/-- A walk that has read its entry, by what the entry is. -/
theorem exec_tlbWalk_read (e : Word) : exec (.tlbWalk { w with entry := some e }) s = .next (
    if !pteV e then (s.endWalk w).missPage w.tile w.r w.addr w.again
    else if pteBad w.level e then ((s.endWalk w).failReq w.r w.tile 0x12 0x12).walkOver w
    else if pteLeaf e then ((s.endWalk w).walkLeaf w e).walkOver w
    else s.after (homeHalf s.module w.tile (s.module * 2 ^ 44 + entryAddr (pteNext e) (w.level - 1) (vbits w.r.addr)))
      (.tlbWalk { w with
        level := w.level - 1, addr := entryAddr (pteNext e) (w.level - 1) (vbits w.r.addr), entry := none, served := false })) := by
  change execTlbWalk { w with entry := some e } s = _
  simp only [execTlbWalk, hwalks, List.find?_cons, beq_self_eq_true]
  rfl

section
variable (hothers : ∀ x ∈ rest, x.1 ≠ w.id) (hwaiting : (s.slice w.tile).waiting = []) (hwho : w.r.who = .firing)
  (hacc : w.r.acc = .ld) {e : Word}
include hothers hwaiting hwho hacc

theorem gives_tlbWalk_leaf (hbeyond : w.again = true → (s.slice w.tile).beyond = []) (hv : pteV e = true)
    (hgood : pteBad w.level e = false) (hleaf : pteLeaf e = true) {pa : Nat}
    (huse : leafUse s.module .ld false (leafPage w.level (vbits w.r.addr)) (leafSize w.level) e (vbits w.r.addr) = .inl pa) :
    gives (.tlbWalk { w with entry := some e }) s (fun t =>
      (t.slice w.tile).ents.getLast? = some ⟨w.r.dom, leafPage w.level (vbits w.r.addr), leafSize w.level, e⟩ ∧
      (t.slice w.tile).walks = rest ∧ sameProgram s t ∧ s.keepsAgenda t ∧
      ∃ n i, s.now + 1 ≤ n ∧ t.awaits n (.requestPerform { w.r with
        pa := pa, tpage := leafPage w.level (vbits w.r.addr), tsize := leafSize w.level, pzn := ptePzn e, issued := i })) := by
  have hwhich : w.r.acc ≠ .migr ∧ w.r.acc ≠ .record := by rw [hacc]; exact ⟨nofun, nofun⟩
  generalize hpage : leafPage w.level (vbits w.r.addr) = page at *
  generalize hsize : leafSize w.level = size at *
  have hended := State.slice_walkEnded hwalks hothers
  have hframe : walkFrame s (s.walkEnded w) w.tile := walkFrame_modSlice ..
  have hexec := exec_tlbWalk_read hwalks e
  simp only [hv, hgood, hleaf, Bool.not_true, Bool.false_eq_true, if_false, if_true] at hexec
  rw [State.endWalk_of_none_waiting hwaiting] at hexec
  generalize s.walkEnded w = u at *
  have hmodule := hframe.served.module
  have huse' : leafUse u.module w.r.acc (isFlow w.r.who) page size e (vbits w.r.addr) = .inl pa := by
    rw [hmodule, hacc, hwho]
    exact huse
  have hlate (m : Nat) : (max m 1 == 0) = false := beq_false_of_ne (by omega)
  rw [State.walkLeaf_used hpage hsize huse', State.onward_firing hwho hwhich, hlate, if_neg Bool.false_ne_true] at hexec
  have hused := walkFrame_entryUsed u w.tile ⟨w.r.dom, page, size, e⟩
  have hslice := u.slice_entryUsed w.tile ⟨w.r.dom, page, size, e⟩
  generalize u.entryUsed w.tile ⟨w.r.dom, page, size, e⟩ = v at *
  have hserved := (hframe.trans hused).served.trans (servedFrame_addressed v w.r pa)
  have hents : ((v.addressed w.r pa).slice w.tile).ents.getLast? = some ⟨w.r.dom, page, size, e⟩ := by
    rw [State.slice_addressed, hslice]
    dsimp only
    exact getLast?_cacheAdd (by norm_num) _ _
  have hrest : ((v.addressed w.r pa).slice w.tile).walks = rest := by
    rw [State.slice_addressed, hslice, hended]
  have hnow : v.now = s.now := (hframe.trans hused).served.now
  have hstays : ((v.addressed w.r pa).slice w.tile).beyond = (s.slice w.tile).beyond := by
    rw [State.slice_addressed, hslice, hended]
  rw [hnow] at hexec
  generalize v.addressed w.r pa = x at *
  rw [State.walkOver_of_none_beyond (s := x.at_ _ _) fun hagain => hstays.trans (hbeyond hagain)] at hexec
  exact gives_of_exec hexec ⟨hents, hrest, (hserved.trans (servedFrame_at ..)).sameProgram, hserved.agenda.trans (x.keepsAgenda_at _ _),
    _, _, le_max_left _ _, State.awaits_at ..⟩

theorem gives_tlbWalk_missing (hv : pteV e = false) (hplaces : (s.slice w.tile).places < 16) :
    gives (.tlbWalk { w with entry := some e }) s (fun t =>
      (t.slice w.tile).held = (s.slice w.tile).held ++ [⟨s.serial + 1, w.r, w.addr⟩] ∧ (t.slice w.tile).walks = rest ∧
      sameProgram s t ∧ ((t.group w.r.grp).st = (s.group w.r.grp).st) ∧
      ((s.group w.r.grp).st = .live → ∃ f : FRec, f.code = 0x11 ∧ f.fence = false ∧ f.aux = w.r.addr ∧ f.ea = BitVec.ofNat 14 w.r.ea ∧
        t.awaits (s.now + hubDelay w.tile (s.group w.r.grp).origin) (.faultRecordArrival f))) := by
  have hended := State.slice_walkEnded hwalks hothers
  have hframe : walkFrame s (s.walkEnded w) w.tile := walkFrame_modSlice ..
  have hgroups : (s.walkEnded w).groups = s.groups := rfl
  have hserial : (s.walkEnded w).serial = s.serial := rfl
  have hexec := exec_tlbWalk_read hwalks e
  rw [hv, Bool.not_false, if_pos rfl, State.endWalk_of_none_waiting hwaiting] at hexec
  generalize s.walkEnded w = u at *
  have hplace (hagain : w.again = false) : (u.slice w.tile).places < 16 := by
    rw [hended, hagain]
    exact hplaces
  rw [State.missPage_held hwho hacc w.addr hplace, hserial] at hexec
  have hheld := u.slice_stoppedHere w.tile w.r w.addr
  have hwalked := hframe.trans (walkFrame_stoppedHere u w.tile w.r w.addr)
  have hpgroups : (u.stoppedHere w.tile w.r w.addr).groups = s.groups := hgroups
  generalize u.stoppedHere w.tile w.r w.addr = v at *
  have hgroup (n : Nat) : v.group n = s.group n := congrArg (tget Group.zero n) hpgroups
  have hrecord := recordFrame_raiseRec v w.r.grp w.tile w.r.ea (some w.r.ctx) (some w.r.slot) 0x11 true 0 w.r.addr false (s.serial + 1)
  have hrgroups := v.raiseRec_groups_unfencing w.r.grp w.tile w.r.ea (some w.r.ctx) (some w.r.slot) 0x11 0 w.r.addr (s.serial + 1)
  have hsends := v.raiseRec_sends_unfencing w.r.grp w.tile w.r.ea (some w.r.ctx) (some w.r.slot) 0x11 0 w.r.addr (s.serial + 1)
  rw [hgroup, hwalked.served.now] at hsends
  generalize v.raiseRec w.r.grp w.tile w.r.ea (some w.r.ctx) (some w.r.slot) 0x11 true false 0 w.r.addr (s.serial + 1) = t at *
  have hslices : t.slices = v.slices := by rw [hrecord.1]
  have hslice : t.slice w.tile = { u.slice w.tile with held := (u.slice w.tile).held ++ [⟨s.serial + 1, w.r, w.addr⟩] } :=
    (congrArg (tget Slice.zero w.tile) hslices).trans (hserial ▸ hheld)
  refine gives_of_exec hexec ⟨?_, ?_, (hwalked.served.trans hrecord.served).sameProgram, ?_, hsends⟩
  · rw [hslice, hended]
  · rw [hslice, hended]
  · rw [State.group, hrgroups, hpgroups, State.group]

end

theorem exec_tlbWalk_malformed (hwho : w.r.who = .firing) (hwaiting : (s.slice w.tile).waiting = [])
    (hbeyond : w.again = true → (s.slice w.tile).beyond = []) {e : Word} (hv : pteV e = true) (hbad : pteBad w.level e = true) :
    exec (.tlbWalk { w with entry := some e }) s = .next ((s.endWalk w).failReq w.r w.tile 0x12 0x12) := by
  rw [exec_tlbWalk_read hwalks, hv, hbad]
  refine congrArg _ (State.walkOver_of_none_beyond fun hagain => ?_)
  rw [State.slice_failReq _ hwho, State.endWalk_of_none_waiting hwaiting, State.walkEnded, State.slice_modSlice_same]
  exact hbeyond hagain

end

/-- Settles O32: a walk step by whether its entry has been read, and by what the entry is. -/
theorem walksOfPageTables : Obligations.WalksOfPageTables := by
  unfold Obligations.WalksOfPageTables
  intro s w e rest hwalks hothers hwaiting hwho hacc hbeyond far next page size read
  refine ⟨?offline, ?enters, ?served, ?link, ?leaf, ?missing, ?malformed⟩
  case offline => exact fun d hentry hdown => exec_tlbWalk_offline hwalks hentry hwho hwaiting hbeyond hdown
  case enters =>
    intro hentry hup hnot
    rw [exec_tlbWalk_reads hwalks hentry, hup, hnot]
    rfl
  case served =>
    intro hentry hup hserved hnone
    have hexec := exec_tlbWalk_reads hwalks hentry
    rw [hup] at hexec
    simp only [if_pos hserved, State.feSettle_of_no_defers hnone] at hexec
    exact gives_of_exec hexec ⟨State.awaits_at .., rfl, s.keepsAgenda_after _ _⟩
  case link =>
    intro hv hgood hlink
    have hexec := exec_tlbWalk_read hwalks e
    simp only [hv, hgood, hlink, Bool.not_true, Bool.false_eq_true, if_false] at hexec
    exact gives_of_exec hexec ⟨State.awaits_at .., rfl, s.keepsAgenda_after _ _⟩
  case leaf => exact fun hv hgood hleaf pa huse => gives_tlbWalk_leaf hwalks hothers hwaiting hwho hacc hbeyond hv hgood hleaf huse
  case missing => exact fun hv hplaces => gives_tlbWalk_missing hwalks hothers hwaiting hwho hacc hv hplaces
  case malformed => exact fun hv hbad => exec_tlbWalk_malformed hwalks hwho hwaiting hbeyond hv hbad

end Sys2Proof.Machine
end

section
/-! SUPPORT. errinj, errlog, ptroot and pack (R309, R340, R412, R417, Table 12-1). Settles O44. -/

namespace Sys2Proof.Machine

/-! ## errinj (R417) -/

section
variable {s : State} {c : Cmd} {array target : Nat} (htarget : injTarget c = some (array, target))
include htarget

theorem exec_errinj : exec (.errinj c) s = .next (({ s.disarm array target with injs := (s.disarm array target).injs ++
    [⟨array, target, c.value.toNat / 16 % 4, c.value.toNat / 64 % 128⟩] } : State).answer c 0 0 (injEa c)) := by
  change execErrinj c s = _
  simp only [execErrinj, htarget]

theorem exec_errinjDisarm : exec (.errinjDisarm c) s = .next ((s.disarm array target).answer c 0 0 (injEa c)) := by
  change execErrinjDisarm c s = _
  simp only [execErrinjDisarm, htarget]

theorem gives_errinj : gives (.errinj c) s (fun t => statusComes s t c 0 0 (injEa c) ∧
    ⟨array, target, c.value.toNat / 16 % 4, c.value.toNat / 64 % 128⟩ ∈ t.injs ∧ t = { s with injs := t.injs, cports := t.cports }) :=
  gives_of_exec (exec_errinj htarget) ⟨statusComes_answer c 0 0 (injEa c) rfl rfl fun _ => rfl,
    List.mem_append_right _ (List.mem_singleton.mpr rfl), rfl⟩

theorem gives_errinjDisarm : gives (.errinjDisarm c) s (fun t => statusComes s t c 0 0 (injEa c) ∧
    (∀ j ∈ t.injs, ¬ (j.array = array ∧ j.target = target)) ∧ (∀ j ∈ s.injs, j.array ≠ array → j ∈ t.injs) ∧
    t = { s with injs := t.injs, cports := t.cports }) := by
  refine gives_of_exec (exec_errinjDisarm htarget) ⟨statusComes_answer c 0 0 (injEa c) rfl rfl fun _ => rfl, fun j hj hsame => ?_,
    fun j hj hother => ?_, rfl⟩
  · obtain ⟨-, hkept⟩ := List.mem_filter.mp hj
    simp [hsame.1, hsame.2] at hkept
  · exact List.mem_filter.mpr ⟨hj, by simp [hother]⟩

end

theorem exec_errinj_refused {s : State} {c : Cmd} (hnone : injTarget c = none) :
    exec (.errinj c) s = .next (s.answer c 0x32 0x50 (injEa c)) := by
  change execErrinj c s = _
  simp only [execErrinj, hnone]

/-! ## errlog (R412, R417) -/

section
variable {s : State} {c : Cmd} (hclean : c.clean = true) (hvalue : c.value.toNat < 4)
include hclean hvalue

/-- The log of a tile hub changes as the errlog has it. -/
theorem State.errlog_hub (hbit : c.addr.getLsbD 0 = false) (ha : c.addr.toNat < 512) (f : ErrLog → ErrLog) :
    s.errlog c f = (s.modHub (tileOfIndex (c.addr.toNat / 2)) (fun h => { h with log := f h.log })).answer c 0 0 0 := by
  have hindex : c.addr.toNat / 2 % 256 = c.addr.toNat / 2 := Nat.mod_eq_of_lt (by omega)
  have haddr : c.addr >>> 9 = 0 := ushiftRight_eq_zero_of_lt (by norm_num; omega)
  have hval : c.value >>> 2 = 0 := ushiftRight_eq_zero_of_lt (by norm_num; omega)
  simp only [State.errlog, hclean, hbit, hindex, haddr, hval, Bool.not_true, bne_self_eq_false, Bool.or_self, Bool.false_and,
    Bool.false_eq_true, if_false]

/-- The log of a base die changes as the errlog has it. -/
theorem State.errlog_base (hbit : c.addr.getLsbD 0 = true) (ha : c.addr.toNat < 32) (f : ErrLog → ErrLog) :
    s.errlog c f = (s.modBase (c.addr.toNat / 2) (fun b => { b with log := f b.log })).answer c 0 0 0 := by
  have hindex : c.addr.toNat / 2 % 256 = c.addr.toNat / 2 := Nat.mod_eq_of_lt (by omega)
  have haddr : c.addr >>> 9 = 0 := ushiftRight_eq_zero_of_lt (by norm_num; omega)
  have hval : c.value >>> 2 = 0 := ushiftRight_eq_zero_of_lt (by norm_num; omega)
  have hstack : ¬ 16 ≤ c.addr.toNat / 2 := by omega
  simp only [State.errlog, hclean, hbit, hindex, haddr, hval, Bool.not_true, bne_self_eq_false, Bool.or_self, Bool.true_and,
    ge_iff_le, hstack, decide_false, Bool.false_eq_true, if_false, if_true]

/-- What an errlog of a tile hub leaves, whatever it does to the log. -/
theorem gives_errlog_hub {i : Instr} {f : ErrLog → ErrLog} (hi : exec i s = .next (s.errlog c f)) (hbit : c.addr.getLsbD 0 = false)
    (ha : c.addr.toNat < 512) : gives i s (fun t => statusComes s t c 0 0 0 ∧
      (t.hub (tileOfIndex (c.addr.toNat / 2))).log = f (s.hub (tileOfIndex (c.addr.toNat / 2))).log ∧
      t = { s with hubs := t.hubs, cports := t.cports }) := by
  refine gives_of_exec (hi.trans (congrArg _ (State.errlog_hub hclean hvalue hbit ha f)))
    ⟨statusComes_answer c 0 0 0 rfl rfl fun _ => rfl, ?_, rfl⟩
  rw [State.hub_answer, State.hub_modHub]

theorem gives_errlog_base {i : Instr} {f : ErrLog → ErrLog} (hi : exec i s = .next (s.errlog c f)) (hbit : c.addr.getLsbD 0 = true)
    (ha : c.addr.toNat < 32) : gives i s (fun t => (t.base (c.addr.toNat / 2)).log = f (s.base (c.addr.toNat / 2)).log) := by
  refine gives_of_exec (hi.trans (congrArg _ (State.errlog_base hclean hvalue hbit ha f))) ?_
  have hbase (u : State) (k : Nat) : (u.answer c 0 0 0).base k = u.base k := rfl
  rw [hbase, State.base_modBase, if_pos rfl]

end

/-! ## ptroot (R340, R350) -/

/-- An entry of a table whose every entry has changed is what one of it was changed to. -/
theorem tget_tmap_cases {α : Type} [DecidableEq α] (d : α) (f : Nat → α → α) (m : Map α) (k : Nat) :
    tget d k (tmap d f m) = d ∨ ∃ v, tget d k (tmap d f m) = f k v := by
  induction m with
  | nil => exact .inl rfl
  | cons p m ih =>
    simp only [tmap] at ih
    by_cases hd : f p.1 p.2 = d
    · simpa [tmap, hd] using ih
    · by_cases hk : k = p.1
      · subst hk
        exact .inr ⟨p.2, by simp [tmap, hd, tget]⟩
      · simpa [tmap, hd, tget, hk] using ih

/-- No slice holds a translation of a domain that all of have been removed. -/
theorem State.ents_invalidate (s : State) (dom tile : Nat) : ∀ x ∈ ((s.invalidate dom none).slice tile).ents, x.dom ≠ dom := by
  intro x hx
  have hcases : (s.invalidate dom none).slice tile = .zero ∨ ∃ v : Slice, (s.invalidate dom none).slice tile = v.remove dom none :=
    tget_tmap_cases Slice.zero (fun _ (x : Slice) => x.remove dom none) s.slices tile
  rcases hcases with h | ⟨v, h⟩
  · rw [h] at hx
    cases hx
  · rw [h] at hx
    obtain ⟨-, hkept⟩ := List.mem_filter.mp hx
    simpa [removes] using hkept

theorem gives_ptroot {s : State} {c : Cmd} (hclean : c.clean = true) {k : Nat} (hslot : s.domSlot (c.addr.toNat % 65536) = some k)
    (ha : c.addr.toNat < 65536) (hrsv : c.value.toNat / 2 % 2 ^ 11 = 0) (hvalue : c.value.toNat < 2 ^ 40) : gives (.ptroot c) s (fun t =>
      (t.dom k).root = (if c.value.toNat % 2 = 1 then some (c.value.toNat / 4096 * 4096) else none) ∧ (∀ j, j ≠ k → t.dom j = s.dom j) ∧
      (∀ tile, ∀ x ∈ (t.slice tile).ents, x.dom ≠ c.addr.toNat % 65536) ∧ sameProgram s t ∧ (t.cport c.die c.port).replies =
        (s.cport c.die c.port).replies ++ [(s.now + 6 + 64 + 48 * maxCross c.die, 0)]) := by
  let rooted : State := { s with doms := tput .zero k { s.dom k with
    root := if c.value.toNat % 2 == 1 then some (c.value.toNat / 4096 * 4096) else none } s.doms }
  have hexec : exec (.ptroot c) s = .next ((rooted.invalidate (c.addr.toNat % 65536) none).reply c.die c.port
      (s.now + 6 + 64 + 48 * maxCross c.die) (statusWord 0 0 0 false)) := by
    have hhigh : c.addr.toNat / 65536 = 0 := Nat.div_eq_of_lt ha
    have htop : c.value.toNat / 2 ^ 40 = 0 := Nat.div_eq_of_lt hvalue
    change execPtroot c s = _
    simp only [execPtroot, hslot, hclean, hhigh, hrsv, htop, Bool.not_true, bne_self_eq_false, Bool.or_self, Bool.false_eq_true, if_false]
    rfl
  refine gives_of_exec hexec ⟨?_, fun j hj => ?_, State.ents_invalidate rooted _, ?_, ?_⟩
  · have hdom : (rooted.dom k).root = if c.value.toNat % 2 == 1 then some (c.value.toNat / 4096 * 4096) else none :=
      congrArg Dom.root (tget_tput_same ..)
    simp only [beq_iff_eq] at hdom
    exact hdom
  · exact tget_tput_ne _ _ _ _ _ hj
  · exact ⟨sameMemory_of rfl rfl rfl, fun _ _ => .refl _⟩
  · exact congrArg CPort.replies (tget_tput_same ..)

/-! ## pack (R309, Table 12-1) -/

theorem State.pack_refused {s : State} {c : Cmd} (ha : c.addr.toNat < 65536) (hst : (s.group c.addr.toNat).st ≠ .quiescent)
    (f : State → Nat → State) : s.pack c f = s.answer c codeIllegal 0x40 0 := by
  simp [State.pack, Nat.mod_eq_of_lt ha, hst]

/-- The group that is LIVE again. -/
theorem State.group_liveAgain (s : State) (gn : Nat) : (s.liveAgain gn).group gn = { s.group gn with
    st := .live, fencedTiles := [], frozen := none, preq := none, kern := (s.group gn).kern.live_ (s.group gn).armed
    succ := if (s.group gn).armed && (s.group gn).succ.st == .faulted then { (s.group gn).succ with st := (s.group gn).succ.prev }
      else (s.group gn).succ } := by
  simp [State.liveAgain, State.group, State.setGroup]

/-- The tags of a group on their way back change records and its pools alone. -/
def poolsOnly (s t : State) (gn : Nat) : Prop := recordFrame s t ∧ t.group gn = { s.group gn with pools := (t.group gn).pools }

theorem poolsOnly.refl (s : State) (gn : Nat) : poolsOnly s s gn := ⟨.refl s, rfl⟩

theorem poolsOnly.trans {s t u : State} {gn : Nat} (h : poolsOnly s t gn) (k : poolsOnly t u gn) : poolsOnly s u gn :=
  ⟨h.1.trans k.1, by rw [k.2, h.2]⟩

theorem poolsOnly_modPool (s : State) (gn k : Nat) (f : Pool → Pool) : poolsOnly s (s.modPool gn k f) gn := by
  refine ⟨recordFrame_modGroup .., ?_⟩
  rw [State.modPool, State.modGroup, State.group_setGroup_same]

/-- A tag that comes back to a pool of a QUIESCENT group. -/
theorem poolsOnly_tagReleaseArrival {s t : State} {gn k : Nat} {tag : Byte} {ea ctx slot : Nat} (hst : (s.group gn).st = .quiescent)
    (ht : execTagReleaseArrival gn k tag ea ctx slot s = .next t) : poolsOnly s t gn := by
  unfold execTagReleaseArrival at ht
  simp only [Host.Outcome.next.injEq] at ht
  rw [← ht]
  split
  · exact .refl ..
  · split
    · refine ⟨recordFrame_raiseRec .., ?_⟩
      rw [State.raiseRec_group_unfenced (h := by simp [hst])]
    · exact (poolsOnly_modPool ..).trans ⟨recordFrame_at .., rfl⟩

theorem poolsOnly_landReleases {s : State} {gn : Nat} (hst : (s.group gn).st = .quiescent) : poolsOnly s (s.landReleases gn) gn := by
  refine State.foldl_keeps (poolsOnly s · gn) _ _ (fun u x h => ?_) (.refl ..)
  have hquiescent : (u.group gn).st = .quiescent := by rw [h.2]; exact hst
  split
  · rename_i g k tag ea ctx slot _
    split
    · rename_i hgroup hnext
      rw [beq_iff_eq.mp hgroup] at hnext
      exact h.trans (poolsOnly_tagReleaseArrival hquiescent hnext)
    · exact h
  · exact h

theorem poolsOnly_returnCredits (s : State) (gn : Nat) : poolsOnly s (s.returnCredits gn) gn :=
  State.foldl_keeps (poolsOnly s · gn) _ _ (fun u c h => h.trans (poolsOnly_modPool u gn c.1 _)) (.refl ..)

/-- The state in which a group is SAVED with its work ended, but for its launch. -/
def State.groupSaved (s : State) (gn : Nat) (sv : Save) : State :=
  (({ s with free := s.free + 1 } : State).workEnded gn).setGroup gn
    { s.group gn with st := .saved, save := some sv, digest := sv.digest, frozen := none }

theorem State.group_groupSaved (s : State) (gn : Nat) (sv : Save) : (s.groupSaved gn sv).group gn =
    { s.group gn with st := .saved, save := some sv, digest := sv.digest, frozen := none } := by
  rw [State.groupSaved, State.group_setGroup_same]

/-- The launch of a SAVED group is QUEUED at the head of its queue; nothing else changes. -/
theorem State.saveGroup_eq (s : State) (gn : Nat) : ∃ launches queues, s.saveGroup gn =
    { ((s.landReleases gn).returnCredits gn).groupSaved gn (((s.landReleases gn).returnCredits gn).saveOf gn) with
      launches := launches, queues := queues } := by
  unfold State.saveGroup
  dsimp only
  split
  · exact ⟨_, _, rfl⟩
  · split <;> exact ⟨_, _, rfl⟩

section
variable {s : State} {c : Cmd} (hclean : c.clean = true) (ha : c.addr.toNat < 65536) (hvalue : c.value.toNat < 4)
include hclean ha hvalue

theorem State.pack_quiescent (hst : (s.group c.addr.toNat).st = .quiescent) (f : State → Nat → State) :
    s.pack c f = f (s.answer c 0 0 0) c.addr.toNat := by
  have hhigh : c.addr.toNat / 65536 = 0 := Nat.div_eq_of_lt ha
  have hval : c.value >>> 2 = 0 := ushiftRight_eq_zero_of_lt (by norm_num; omega)
  simp [State.pack, hclean, hhigh, hval, Nat.mod_eq_of_lt ha, hst]

theorem gives_packCancel (hst : (s.group c.addr.toNat).st = .quiescent) : gives (.packCancel c) s (fun t =>
    (t.group c.addr.toNat).st = .live ∧ (t.group c.addr.toNat).preq = none ∧ sameMemory s t) := by
  have hexec : exec (.packCancel c) s = .next ((s.answer c 0 0 0).liveAgain c.addr.toNat) :=
    congrArg _ (State.pack_quiescent hclean ha hvalue hst (fun s gn => s.liveAgain gn))
  refine gives_of_exec hexec ⟨?_, ?_, sameMemory_of rfl rfl rfl⟩ <;> rw [State.group_liveAgain]

theorem gives_packCommit (hst : (s.group c.addr.toNat).st = .quiescent) : gives (.packCommit c) s (fun t =>
    (t.group c.addr.toNat).st = .saved ∧ (t.group c.addr.toNat).save.isSome = true ∧ sameMemory s t ∧
    (s.Inv → ∀ ea, (s.group c.addr.toNat).covers ea = true → t.elem ea = (s.elem ea).cleared)) := by
  generalize hgn : c.addr.toNat = gn at *
  have hexec : exec (.packCommit c) s = .next ((s.answer c 0 0 0).saveGroup gn) :=
    hgn ▸ congrArg _ (State.pack_quiescent hclean (hgn ▸ ha) hvalue (hgn ▸ hst) (fun s gn => s.saveGroup gn))
  obtain ⟨launches, queues, hsaved⟩ := (s.answer c 0 0 0).saveGroup_eq gn
  rw [hsaved] at hexec
  have hlanded : poolsOnly (s.answer c 0 0 0) (((s.answer c 0 0 0).landReleases gn).returnCredits gn) gn :=
    (poolsOnly_landReleases (s := s.answer c 0 0 0) hst).trans (poolsOnly_returnCredits ..)
  generalize ((s.answer c 0 0 0).landReleases gn).returnCredits gn = v at *
  obtain ⟨hframe, hgroup⟩ := hlanded
  have hmemory : sameMemory s v := sameMemory_of hframe.mem hframe.poison hframe.full
  have hended := groupFrame_workEnded ({ v with free := v.free + 1 } : State) gn
  have hgroupSaved := v.group_groupSaved gn (v.saveOf gn)
  refine gives_of_exec hexec ⟨?_, ?_, ?_, fun h ea hcovers => ?_⟩
  · exact congrArg Group.st hgroupSaved
  · exact congrArg (fun g : Group => g.save.isSome) hgroupSaved
  · exact hmemory.trans hended.memory
  · have hv : ({ v with free := v.free + 1 } : State).Inv := ⟨hframe.mem ▸ h.1, hframe.elems ▸ h.2⟩
    have hcovered : (v.group gn).covers ea = true := by
      rw [hgroup]
      exact hcovers
    have hcleared := (State.elem_workEnded hv gn ea).trans (if_pos hcovered)
    exact hcleared.trans (congrArg Elem.cleared (hframe.elem ea))

end

/-- Settles O44: an errinj, an errlog, a ptroot and a pack, each by the state of what it names. -/
theorem serviceCommands : Obligations.ServiceCommands := by
  unfold Obligations.ServiceCommands
  intro s c hclean a v
  refine ⟨fun array target htarget => ⟨gives_errinj htarget, gives_errinjDisarm htarget⟩, fun hnone => gives_refused (exec_errinj_refused hnone),
    ?hubs, ?bases, ?ptroot, ?pack, ?refused⟩
  case hubs =>
    intro hbit ha hv
    refine ⟨(gives_errlog_hub hclean hv (i := .errlogRemoveOldest c) rfl hbit ha).imp fun t ⟨hstatus, hlog, hframe⟩ => ?_,
      (gives_errlog_hub hclean hv (i := .errlogClearAll c) rfl hbit ha)⟩
    exact ⟨hstatus, by rw [hlog], by rw [hlog], hframe⟩
  case bases =>
    intro hbit ha hv
    exact ⟨(gives_errlog_base hclean hv (i := .errlogRemoveOldest c) rfl hbit ha).imp fun t hlog => congrArg ErrLog.ents hlog,
      gives_errlog_base hclean hv (i := .errlogClearAll c) rfl hbit ha⟩
  case ptroot => exact fun k hslot ha hrsv hv => gives_ptroot hclean hslot ha hrsv hv
  case pack => exact fun ha hv hst => ⟨gives_packCommit hclean ha hv hst, gives_packCancel hclean ha hv hst⟩
  case refused =>
    exact fun ha _ hst => ⟨gives_refused (congrArg _ (State.pack_refused ha hst _)), gives_refused (congrArg _ (State.pack_refused ha hst _))⟩

end Sys2Proof.Machine
end

section
/-! SUPPORT. Pre-emption, fences, resumption and restoration of a group (R304, R307, R308, R310, R354, R403, R405). Settles O38. -/

namespace Sys2Proof.Machine

/-- A change of a group alone changes nothing that programs read. -/
theorem sameProgram_setGroup (s : State) (gn : Nat) (g : Group) : sameProgram s (s.setGroup gn g) :=
  ⟨sameMemory_of rfl rfl rfl, fun _ _ => .refl _⟩

/-! ## Requests (R304, R308) -/

section
variable {s : State} {gn : Nat} {hard : Bool}

theorem State.preemptGroup_taken (hnone : (s.group gn).preq = none) (hst : (s.group gn).st = .live) (hfree : (s.group gn).armed = false) :
    (s.preemptGroup gn hard).2 = s.takePreempt gn ⟨s.now, hard, false⟩ := by
  simp [State.preemptGroup, hnone, hst, hfree]

theorem State.preemptGroup_waits (hnone : (s.group gn).preq = none)
    (hwaits : (s.group gn).st = .live ∧ (s.group gn).armed = true ∨ (s.group gn).st = .loading) :
    (s.preemptGroup gn hard).2 = s.setGroup gn { s.group gn with preq := some ⟨s.now, hard, false⟩ } := by
  rcases hwaits with ⟨hst, harmed⟩ | hst
  · simp [State.preemptGroup, hnone, hst, harmed]
  · simp [State.preemptGroup, hnone, hst]

theorem State.preemptGroup_merged {q : Preq} (hsome : (s.group gn).preq = some q) :
    (s.preemptGroup gn hard).2 = s.setGroup gn { s.group gn with preq := some { q with hard := q.hard || hard } } := by
  simp [State.preemptGroup, hsome]

theorem State.preemptGroup_refused (hnone : (s.group gn).preq = none) (hlive : (s.group gn).st ≠ .live)
    (hloading : (s.group gn).st ≠ .loading) : (s.preemptGroup gn hard).2 = s := by
  simp [State.preemptGroup, hnone, hlive, hloading]

theorem State.group_takePreempt (s : State) (gn : Nat) (q : Preq) : (s.takePreempt gn q).group gn = { s.group gn with
    st := .draining, preq := some { q with taken := true }, frozen := some s.now
    kern := if (s.group gn).kern.st == .running then { (s.group gn).kern with st := .draining } else (s.group gn).kern } := by
  simp [State.takePreempt, State.group, State.setGroup]

end

/-- What a request of pre-emption makes of group `gn`, of the state `s` before it (R304). -/
structure preemptAsked (s : State) (gn : Nat) (hard : Bool) (i : Instr) : Prop where
  taken : (s.group gn).preq = none → (s.group gn).st = .live → (s.group gn).armed = false → gives i s (fun t =>
    (t.group gn).st = .draining ∧ (t.group gn).preq = some ⟨s.now, hard, true⟩ ∧ (t.group gn).frozen = some s.now ∧
    ((s.group gn).kern.st = .running → (t.group gn).kern.st = .draining) ∧ sameMemory s t)
  waits : (s.group gn).preq = none → ((s.group gn).st = .live ∧ (s.group gn).armed = true ∨ (s.group gn).st = .loading) →
    gives i s (fun t => (t.group gn).st = (s.group gn).st ∧ (t.group gn).preq = some ⟨s.now, hard, false⟩ ∧ sameProgram s t)
  merged : ∀ q, (s.group gn).preq = some q → gives i s (fun t => (t.group gn).preq = some { q with hard := q.hard || hard } ∧
    (t.group gn).st = (s.group gn).st ∧ sameProgram s t)
  refused : (s.group gn).preq = none → (s.group gn).st ≠ .live → (s.group gn).st ≠ .loading → gives i s (fun t =>
    (t.group gn).st = (s.group gn).st ∧ (t.group gn).preq = none ∧ sameProgram s t)

/-- A request is taken, waits, is merged or is refused by the state of its group; `u` is the state with the limits of the group's
register stored. -/
theorem preemptAsked_of_exec {s u : State} {gn : Nat} {hard : Bool} {i : Instr} (hi : exec i s = .next (u.preemptGroup gn hard).2)
    (hnow : u.now = s.now) (hsame : sameProgram s u) (hst : (u.group gn).st = (s.group gn).st)
    (hpreq : (u.group gn).preq = (s.group gn).preq) (harmed : (u.group gn).armed = (s.group gn).armed)
    (hkern : (u.group gn).kern = (s.group gn).kern) : preemptAsked s gn hard i := by
  have hset (g : Group) : sameProgram s (u.setGroup gn g) := hsame.trans (sameProgram_setGroup ..)
  refine ⟨fun hnone hlive hfree => ?_, fun hnone hwaits => ?_, fun q hsome => ?_, fun hnone hlive hloading => ?_⟩
  · rw [State.preemptGroup_taken (hpreq.trans hnone) (hst.trans hlive) (harmed.trans hfree)] at hi
    refine gives_of_exec hi ⟨?_, ?_, ?_, fun hrunning => ?_, hsame.1.trans (sameMemory_of rfl rfl rfl)⟩ <;>
      rw [State.group_takePreempt]
    · rw [hnow]
    · rw [hnow]
    · simp [hkern, hrunning]
  · have hwaits' : (u.group gn).st = .live ∧ (u.group gn).armed = true ∨ (u.group gn).st = .loading := by rwa [hst, harmed]
    rw [State.preemptGroup_waits (hpreq.trans hnone) hwaits'] at hi
    refine gives_of_exec hi ⟨?_, ?_, hset _⟩ <;> rw [State.group_setGroup_same]
    · exact hst
    · rw [hnow]
  · rw [State.preemptGroup_merged (hpreq.trans hsome)] at hi
    refine gives_of_exec hi ⟨?_, ?_, hset _⟩ <;> rw [State.group_setGroup_same]
    exact hst
  · rw [State.preemptGroup_refused (hpreq.trans hnone) (hst ▸ hlive) (hst ▸ hloading)] at hi
    exact gives_of_exec hi ⟨hst, hpreq.trans hnone, hsame⟩

/-- The group with the fields of its register stored. -/
theorem State.group_storeGroupReg (s : State) (gn : Nat) (v : Word) : (s.storeGroupReg gn v).group gn = { s.group gn with
    wlim := max 1 (v.toNat / 2 ^ 4 % 256), plim := max 1 (v.toNat / 2 ^ 12 % 256), pmode := v.getLsbD 21 } := by
  have hlim (n : Nat) : (if n == 0 then 1 else n) = max 1 n := by
    split
    · rename_i h
      rw [beq_iff_eq.mp h]
      rfl
    · rename_i h
      have hpos : n ≠ 0 := fun k => h (beq_iff_eq.mpr k)
      omega
  simp only [State.storeGroupReg, State.modGroup, State.group_setGroup_same, hlim]
  rfl

section
variable {s : State} {gn : Nat} {v : Word} (hst : (s.group gn).st ≠ .free)
include hst

theorem preemptAsked_preqWrite (hbit : v.getLsbD 20 = true) : preemptAsked s gn (v.getLsbD 21) (.preqWrite gn v) := by
  have hgroup := s.group_storeGroupReg gn v
  have hexec : exec (.preqWrite gn v) s = .next ((s.storeGroupReg gn v).preemptGroup gn (v.getLsbD 21)).2 := by
    change execPreqWrite gn v s = _
    simp only [execPreqWrite, beq_false_of_ne hst, Bool.false_eq_true, if_false, hbit, if_true, hgroup]
  exact preemptAsked_of_exec hexec rfl (sameProgram_setGroup ..) (by rw [hgroup]) (by rw [hgroup]) (by rw [hgroup]) (by rw [hgroup])

theorem gives_preqWrite_stores (hbit : v.getLsbD 20 = false) : gives (.preqWrite gn v) s (fun t =>
    (t.group gn).wlim = max 1 (v.toNat / 2 ^ 4 % 256) ∧ (t.group gn).plim = max 1 (v.toNat / 2 ^ 12 % 256) ∧
    (t.group gn).pmode = v.getLsbD 21 ∧ (t.group gn).st = (s.group gn).st ∧ sameProgram s t) := by
  have hexec : exec (.preqWrite gn v) s = .next (s.storeGroupReg gn v) := by
    change execPreqWrite gn v s = _
    simp only [execPreqWrite, beq_false_of_ne hst, Bool.false_eq_true, if_false, hbit]
  refine gives_of_exec hexec ⟨?_, ?_, ?_, ?_, sameProgram_setGroup ..⟩ <;> rw [State.group_storeGroupReg]

end

/-! ## The bound of pre-emption, and a stalled group (R303, R307) -/

/-- The return of a group takes no record from the agenda. -/
theorem State.awaits_liveAgain {s : State} {n gn : Nat} {r : FRec} (h : s.awaits n (.faultRecordArrival r)) :
    (s.liveAgain gn).awaits n (.faultRecordArrival r) := by
  obtain ⟨x, hx, hdue, hinstr⟩ := h
  refine ⟨x, List.mem_filter.mpr ⟨hx, ?_⟩, hdue, hinstr⟩
  rw [hinstr]

/-- The record PREEMPT_TIMEOUT of a group is raised, with a fence or without. -/
def State.boundRecorded (s : State) (gn : Nat) (fence : Bool) (detail : Nat) : State :=
  s.raiseRec gn (s.group gn).origin (s.lowestBusy (s.group gn)) none none 0x43 true fence detail
    (BitVec.ofNat 64 (s.lowestBusy (s.group gn)))

section
variable {s : State} {gn : Nat}

/-- The bound of a soft pre-emption sends its record and no fence. -/
theorem State.boundRecorded_soft (hst : (s.group gn).st = .live ∨ (s.group gn).st = .draining) : ∃ r : FRec, r.code = 0x43 ∧
    r.detail = 0 ∧ r.fenceNo = 0 ∧ s.boundRecorded gn false 0 =
      s.after (hubDelay (s.group gn).origin (s.group gn).origin) (.faultRecordArrival r) := by
  have htakes : ((s.group gn).st == .free || (s.group gn).st == .saved || (s.group gn).st == .retired) = false := by
    rcases hst with h | h <;> rw [h] <;> rfl
  simp only [State.boundRecorded, State.raiseRec, htakes, Bool.false_and, Bool.false_eq_true, if_false]
  exact ⟨_, rfl, rfl, rfl, rfl⟩

theorem gives_preemptTimeout {q : Preq} (honly : s.groups = [(gn, s.group gn)])
    (hst : (s.group gn).st = .draining ∨ (s.group gn).st = .live ∧ (s.group gn).armed = true) (hpreq : (s.group gn).preq = some q)
    (hdue : q.start + (s.group gn).plim * 65536 ≤ s.now) : gives .preemptTimeout s (fun t =>
      (q.hard = true → (t.group gn).st = .fenced) ∧ (q.hard = false → (t.group gn).st = .live ∧ (t.group gn).preq = none) ∧
      ∃ r : FRec, r.code = 0x43 ∧ r.detail = (if q.hard then 1 else 0) ∧ r.fenceNo = (if q.hard then (s.group gn).fenceNo + 1 else 0) ∧
        t.awaits (s.now + hubDelay (s.group gn).origin (s.group gn).origin) (.faultRecordArrival r)) := by
  have hpast : (s.group gn).preemptDue s.now = true := by
    rcases hst with hst | ⟨hst, harmed⟩
    · simp [Group.preemptDue, hst, hpreq, hdue]
    · simp [Group.preemptDue, hst, harmed, hpreq, hdue]
  have hexec : exec .preemptTimeout s = .next (s.preemptTimeout gn) := by
    change execPreemptTimeout s = _
    have hall : s.groups.filter (fun g => g.2.preemptDue s.now) = [(gn, s.group gn)] := by
      rw [honly]
      simp [hpast]
    simp only [execPreemptTimeout, hall, List.foldl_cons, List.foldl_nil]
  refine gives_of_exec hexec ?_
  have hrunning : (s.group gn).st = .live ∨ (s.group gn).st = .draining := hst.elim .inr (fun h => .inl h.1)
  have htimeout : s.preemptTimeout gn = if q.hard then s.boundRecorded gn true 1 else (s.boundRecorded gn false 0).liveAgain gn := by
    cases hhard : q.hard <;> simp [State.preemptTimeout, State.boundRecorded, hpreq, hhard]
  rw [htimeout]
  cases q.hard
  case true =>
    obtain ⟨hfenced, -, -⟩ := State.raiseRec_group_fenced s gn (s.group gn).origin (s.lowestBusy (s.group gn)) none none 0x43 true 1
      (BitVec.ofNat 64 (s.lowestBusy (s.group gn))) hrunning
    have hsent := State.raiseRec_sends_record s gn (s.group gn).origin (s.lowestBusy (s.group gn)) none none 0x43 true 1
      (BitVec.ofNat 64 (s.lowestBusy (s.group gn))) (by rcases hrunning with h | h <;> simp [h])
    exact ⟨fun _ => hfenced, nofun, _, rfl, rfl, if_pos hrunning, hsent⟩
  case false =>
    obtain ⟨r, hcode, hdetail, hfence, hsent⟩ := State.boundRecorded_soft hrunning
    refine ⟨nofun, fun _ => ⟨?_, ?_⟩, r, hcode, hdetail, hfence, ?_⟩
    · exact congrArg Group.st (State.group_liveAgain ..)
    · exact congrArg Group.preq (State.group_liveAgain ..)
    · simp only [Bool.false_eq_true, if_false, hsent]
      exact State.awaits_liveAgain (State.awaits_at ..)

theorem gives_groupStall (hst : (s.group gn).st = .live) : gives (.groupStall gn) s (fun t => (t.group gn).st = .fenced ∧
    sameProgram s t ∧ ∃ r : FRec, r.code = 0x42 ∧ r.detail = BitVec.ofNat 32 (s.stallDetail gn) ∧ r.aux = s.stallAux (s.group gn) ∧
      t.awaits (s.now + hubDelay (s.group gn).origin (s.group gn).origin) (.faultRecordArrival r)) := by
  have hexec : exec (.groupStall gn) s = .next (s.raiseGroup gn (s.group gn).origin (s.group gn).origin 0x42 (s.stallDetail gn)
      (s.stallAux (s.group gn))) := by
    change execGroupStall gn s = _
    simp [execGroupStall, hst]
  have hsent := State.raiseRec_sends_record s gn (s.group gn).origin (s.group gn).origin none none 0x42 true (s.stallDetail gn)
    (s.stallAux (s.group gn)) (by simp [hst])
  have hfenced := State.raiseRec_group_fenced s gn (s.group gn).origin (s.group gn).origin none none 0x42 true (s.stallDetail gn)
    (s.stallAux (s.group gn)) (.inl hst)
  exact gives_of_exec hexec ⟨hfenced.1, (recordFrame_raiseRec ..).served.sameProgram, _, rfl, rfl, rfl, hsent⟩

/-! ## Fences and resumption (R403, R405) -/

theorem Elem.unpause_zero : Elem.zero.unpause = .zero := by decide

/-- What programs read is as before when a group is LIVE again. -/
theorem sameProgram_liveAgain (h : s.Inv) : sameProgram s (s.liveAgain gn) := by
  refine ⟨sameMemory_of rfl rfl rfl, fun ea c => ?_⟩
  have helem : (s.liveAgain gn).elem ea = if (s.group gn).covers ea then (s.elem ea).unpause else s.elem ea :=
    tget_tmap (d := Elem.zero) (f := fun ea (e : Elem) => if (s.group gn).covers ea then e.unpause else e) h.2 ea (by simp [Elem.unpause_zero])
  have hctx : (s.liveAgain gn).ctx ea c = s.ctx ea c := by
    refine (congrArg (Elem.ctx · c) helem).trans ?_
    split <;> rfl
  rw [hctx]
  exact .refl _

theorem gives_gcmdResume (hst : (s.group gn).st = .fenced) (h : s.Inv) : gives (.gcmdResume gn) s (fun t => (t.group gn).st = .live ∧
    (t.group gn).fencedTiles = [] ∧ (t.group gn).wdog = 0 ∧ (t.group gn).frozen = none ∧ sameProgram s t) := by
  have hexec : exec (.gcmdResume gn) s = .next ((s.liveAgain gn).modGroup gn (fun g => { g with wdog := 0, progress := [] })) := by
    change execGcmdResume gn s = _
    simp [execGcmdResume, hst]
  refine gives_of_exec hexec ⟨?_, ?_, ?_, ?_, (sameProgram_liveAgain h).trans (sameProgram_setGroup ..)⟩ <;>
    rw [State.modGroup, State.group_setGroup_same, State.group_liveAgain]

theorem gives_fenceArrival {tile : Nat} (hst : (s.group gn).st = .fenced) (hcovers : (s.group gn).covers tile = true)
    (htile : tileOf tile = tile) : gives (.fenceArrival gn tile) s (fun t => (t.group gn).fencedAt tile = true ∧
      (t.group gn).st = .fenced ∧ sameProgram s t) := by
  have hexec : exec (.fenceArrival gn tile) s =
      .next (s.modGroup gn (fun g => { g with fencedTiles := nadd tile g.fencedTiles })) := by
    change execFenceArrival gn tile s = _
    simp [execFenceArrival, hst, hcovers]
  refine gives_of_exec hexec ⟨?_, ?_, sameProgram_setGroup ..⟩ <;> rw [State.modGroup, State.group_setGroup_same]
  · simp [Group.fencedAt, htile, nmem_nadd]
  · exact hst

/-! ## Deferred requests of a group (R354, R355) -/

theorem exec_deferFreeze (hst : (s.group gn).st ≠ .free) (n : Nat) (freeze : Bool) : exec (.deferFreeze gn n freeze false) s =
    .next (s.setGroup gn { s.group gn with frozen := if freeze then (s.group gn).frozen.orElse (fun _ => some s.now) else none }) := by
  change execDeferFreeze gn n freeze false s = _
  simp [execDeferFreeze, State.modGroup, hst]

theorem gives_deferFreeze (hst : (s.group gn).st ≠ .free) (n : Nat) :
    gives (.deferFreeze gn n true false) s (fun t => (t.group gn).frozen.isSome = true ∧ sameProgram s t) := by
  refine gives_of_exec (exec_deferFreeze hst n true) ⟨?_, sameProgram_setGroup ..⟩
  rw [State.group_setGroup_same]
  cases (s.group gn).frozen <;> rfl

theorem gives_deferUnfreeze (hst : (s.group gn).st ≠ .free) (n : Nat) :
    gives (.deferFreeze gn n false false) s (fun t => (t.group gn).frozen = none ∧ sameProgram s t) := by
  refine gives_of_exec (exec_deferFreeze hst n false) ⟨?_, sameProgram_setGroup ..⟩
  rw [State.group_setGroup_same]
  rfl

end

/-! ## Restoration (R310, R311) -/

/-- The groups are as they were. -/
def groupsKept (s t : State) : Prop := t.groups = s.groups

theorem groupsKept.trans {s t u : State} (h : groupsKept s t) (k : groupsKept t u) : groupsKept s u := Eq.trans k h

theorem groupsKept.group {s t : State} (h : groupsKept s t) (gn : Nat) : t.group gn = s.group gn := congrArg (tget Group.zero gn) h

theorem groupsKept_foldl {β : Type} {f : State → β → State} (hf : ∀ s x, groupsKept s (f s x)) (l : List β) (s : State) :
    groupsKept s (l.foldl f s) :=
  State.foldl_keeps (groupsKept s) f l (fun u x h => h.trans (hf u x)) rfl

theorem linkFrame.groupsKept {s t : State} (h : linkFrame s t) : groupsKept s t := by
  rw [h.1]
  rfl

theorem groupsKept_placeFlow (s : State) (g : Group) (x y : Nat) (f : Flow) : groupsKept s (s.placeFlow g x y f) := by
  unfold State.placeFlow
  dsimp only
  split
  · rfl
  · split <;> rfl

theorem groupsKept_startEngines (s : State) (ea : Nat) : groupsKept s (s.startEngines ea) := by
  unfold State.startEngines
  dsimp only
  have hgens : groupsKept s ((s.elem ea).gens.foldl (fun s p => if p.2.st == .paused then s.after 1 (.genElementIssue ea p.1) else s) s) :=
    groupsKept_foldl (fun s p => by split <;> rfl) ..
  split <;> split <;> exact hgens

/-- The records of a save change no group: the rest of a restoration follows from one in which its tiles are held. -/
theorem State.loadSave_eq (s : State) (gn x y : Nat) (sv : Save) :
    ∃ u, groupsKept (s.setGroup gn { s.group gn with st := .loading, x := x, y := y, save := none }) u ∧
      s.loadSave gn x y sv = ((u.modGroup gn (fun g => { g with st := .live, kern := { g.kern with st := .resident } })).noteHubs
        gn).takeLoaded gn := by
  refine ⟨_, ?_, rfl⟩
  refine groupsKept.trans ?_ (groupsKept_foldl (fun s p => groupsKept_startEngines s _) ..)
  refine groupsKept.trans ?_ (groupsKept_foldl (fun s r => (linkFrame_sendTwice ..).groupsKept) ..)
  refine groupsKept.trans ?_ (groupsKept_foldl (fun s i => (configFrame_buildSpill s _).groups) ..)
  refine groupsKept.trans ?_ (groupsKept_foldl (fun s f => groupsKept_placeFlow ..) ..)
  refine groupsKept.trans ?_ (groupsKept_foldl (by exact fun _ _ => rfl) ..)
  refine groupsKept.trans ?_ (groupsKept_foldl (by exact fun _ _ => rfl) ..)
  refine groupsKept.trans ?_ (groupsKept_foldl (by exact fun _ _ => rfl) ..)
  refine groupsKept.trans ?_ (groupsKept_foldl (by exact fun _ _ => rfl) ..)
  refine groupsKept.trans ?_ (groupsKept_foldl (by exact fun _ _ => rfl) ..)
  exact groupsKept_foldl (by exact fun _ _ => rfl) ..

theorem State.group_noteHubs (s : State) (gn : Nat) : ∃ pools, (s.noteHubs gn).group gn = { s.group gn with pools := pools } := by
  refine ⟨tmap .zero (fun _ p => ({ p with past := [], waiting := [], nextGrant := 0 } : Pool).note s.now) (s.group gn).pools, ?_⟩
  unfold State.noteHubs
  dsimp only
  refine (groupsKept.group (groupsKept_foldl (by exact fun s h => groupsKept_foldl (by exact fun _ _ => rfl) ..) ..) gn).trans ?_
  exact State.group_setGroup_same s gn _

theorem Group.preq_map_of_none {g : Group} (h : g.preq = none) (f : Preq → Preq) : { g with preq := g.preq.map f } = g := by
  cases g
  simp only at h
  subst h
  rfl

theorem State.takeLoaded_unasked {s : State} {gn : Nat} (h : (s.group gn).preq = none) : (s.takeLoaded gn).group gn = s.group gn := by
  have hgroup : (s.modGroup gn (fun g => { g with preq := g.preq.map (fun q => { q with start := s.now }) })).group gn = s.group gn := by
    rw [State.modGroup, State.group_setGroup_same]
    exact Group.preq_map_of_none h _
  rw [State.takeLoaded, State.takeWaiting, hgroup, h]
  exact hgroup

/-- A restored group is LIVE at its new origin, with its kernel RESIDENT. -/
theorem State.group_loadSave {s : State} {gn : Nat} (h : (s.group gn).preq = none) (x y : Nat) (sv : Save) : ∃ pools,
    (s.loadSave gn x y sv).group gn = { s.group gn with
      st := .live, kern := { (s.group gn).kern with st := .resident }, x := x, y := y, save := none, pools := pools } := by
  obtain ⟨u, hkept, hload⟩ := s.loadSave_eq gn x y sv
  have hu := hkept.group gn
  rw [State.group_setGroup_same] at hu
  obtain ⟨pools, hnoted⟩ :=
    (u.modGroup gn (fun g => { g with st := .live, kern := { g.kern with st := .resident } })).group_noteHubs gn
  rw [State.modGroup, State.group_setGroup_same, hu] at hnoted
  refine ⟨pools, ?_⟩
  rw [hload, State.takeLoaded_unasked (by rw [State.modGroup, hu, hnoted]; exact h), State.modGroup, hu, hnoted]

section
variable {s : State} {gn : Nat} {sv : Save} {o : Nat × Nat} (hst : (s.group gn).st = .saved) (hsave : (s.group gn).save = some sv)
  (horigin : s.firstOrigin (s.group gn).w (s.group gn).h = some o) (hwaits : s.launchWaits gn = false)
include hst hsave horigin hwaits

theorem exec_restore (ok : Bool) : exec (.restore gn ok) s = .next (if s.saveHolds gn sv ok then
    (s.loadSave gn o.1 o.2 sv).modGroup gn (fun g => { g with
      restat := 0, digest := [], placed := some (s.now, State.mapUsed (eaDie (s.group gn).origin) o.1 o.2 g.w g.h) })
    else s.refuseRestore gn) := by
  change execRestore gn ok s = _
  cases hholds : s.saveHolds gn sv ok <;> simp [execRestore, State.restoreGroup, hst, hsave, horigin, hwaits, hholds]

theorem gives_restore (hpreq : (s.group gn).preq = none) (hholds : s.saveHolds gn sv true = true) :
    gives (.restore gn true) s (fun t => (t.group gn).st = .live ∧ (t.group gn).kern.st = .resident ∧ (t.group gn).x = o.1 ∧
      (t.group gn).y = o.2 ∧ (t.group gn).save = none ∧ (t.group gn).restat = 0) := by
  obtain ⟨pools, hloaded⟩ := State.group_loadSave hpreq o.1 o.2 sv
  have hexec := (exec_restore hst hsave horigin hwaits true).trans (congrArg _ (if_pos hholds))
  refine gives_of_exec hexec ?_
  rw [State.modGroup, State.group_setGroup_same, hloaded]
  exact ⟨rfl, rfl, rfl, rfl, rfl, rfl⟩

theorem exec_restore_refused {ok : Bool}
    (hbad : ok = false ∨ sv.module ≠ s.module ∨ sv.grp ≠ gn ∨ sv.dom ≠ (s.group gn).dom ∨ sv.w ≠ (s.group gn).w ∨
      sv.h ≠ (s.group gn).h ∨ sv.kid ≠ (s.group gn).kern.kid ∨ sv.magic ≠ 0x534B5255 ∨ sv.version ≠ 1 ∨ sv.rsv ≠ 0 ∨
      sv.size ≠ sv.areaSize ∨ sv.nrec ≠ sv.recs.length ∨ sv.digest ≠ (s.group gn).digest) :
    exec (.restore gn ok) s = .next (s.modGroup gn (fun g => { g with restat := 0x32 + 256 * 0x24 })) := by
  have hfails : ¬ s.saveHolds gn sv ok = true := by
    simp only [State.saveHolds, State.saveFits, Bool.and_eq_true, beq_iff_eq]
    rintro ⟨⟨hok, ⟨⟨⟨⟨⟨⟨⟨⟨⟨hmagic, hversion⟩, hrsv⟩, hsize⟩, hnrec⟩, hmodule⟩, hgrp⟩, hdom⟩, hw⟩, hh⟩, hkid⟩, hdigest⟩
    rcases hbad with h | h | h | h | h | h | h | h | h | h | h | h | h
    · exact Bool.false_ne_true (h.symm.trans hok)
    all_goals exact h ‹_›
  rw [exec_restore hst hsave horigin hwaits ok, if_neg hfails]
  rfl

end

theorem exec_restore_none {s : State} {gn : Nat} (h : (s.group gn).st ≠ .saved ∨ s.launchWaits gn = true) (ok : Bool) :
    exec (.restore gn ok) s = .next s := by
  change execRestore gn ok s = _
  rcases h with h | h <;> simp [execRestore, h]

/-- Settles O38: a request of pre-emption by the state of its group; its bound, a stall, a fence and a resumption; a restoration by
whether the save holds. -/
theorem preemptionAndResume : Obligations.PreemptionAndResume := by
  unfold Obligations.PreemptionAndResume
  intro s gn hard v g asks
  have hasks {i : Instr} {h : Bool} (hi : preemptAsked s gn h i) : asks i h := ⟨hi.taken, hi.waits, hi.merged, hi.refused⟩
  refine ⟨hasks (preemptAsked_of_exec rfl rfl ⟨sameMemory_of rfl rfl rfl, fun _ _ => .refl _⟩ rfl rfl rfl rfl),
    fun hst hbit => hasks (preemptAsked_preqWrite hst hbit), fun hst hbit => gives_preqWrite_stores hst hbit,
    fun q honly hst hpreq hdue => gives_preemptTimeout honly hst hpreq hdue, fun hst => gives_groupStall hst,
    fun hst h => gives_gcmdResume hst h, fun tile hst hcovers htile => gives_fenceArrival hst hcovers htile,
    fun n hst => ⟨gives_deferFreeze hst n, gives_deferUnfreeze hst n, gives_of_exec rfl rfl⟩, ?restored, ?refused,
    fun ok h => exec_restore_none h ok⟩
  case restored => exact fun sv o hst hsave hpreq horigin hwaits hholds => gives_restore hst hsave horigin hwaits hpreq hholds
  case refused => exact fun sv o ok hst hsave horigin hwaits hbad => exec_restore_refused hst hsave horigin hwaits hbad

end Sys2Proof.Machine
end

section
/-! SUPPORT. Fault records on their way to a crest core, replies of an svc, memory errors and machine checks (R406, R407, R410 to R412,
R416). Settles O39. -/

namespace Sys2Proof.Machine

/-! ## Cores and hubs -/

theorem State.core_modCore (s : State) (k : Nat) (f : Core → Core) : (s.modCore k f).core k = f (s.core k) := tget_tput_same ..

theorem State.core_modCore_ne (s : State) {k x : Nat} (f : Core → Core) (h : x ≠ k) : (s.modCore k f).core x = s.core x :=
  tget_tput_ne _ _ _ _ _ h

theorem sameProgram.refl (s : State) : sameProgram s s := ⟨sameMemory_of rfl rfl rfl, fun _ _ => .refl _⟩

/-- Which crest cores are off, and what programs read, are as before. -/
structure coreFrame (s t : State) : Prop where
  program : sameProgram s t
  off : ∀ k, (t.core k).off = (s.core k).off

theorem coreFrame.refl (s : State) : coreFrame s s := ⟨.refl s, fun _ => rfl⟩

theorem coreFrame.trans {s t u : State} (h : coreFrame s t) (k : coreFrame t u) : coreFrame s u :=
  ⟨h.program.trans k.program, fun n => (k.off n).trans (h.off n)⟩

theorem coreFrame_foldl {β : Type} {f : State → β → State} (hf : ∀ s x, coreFrame s (f s x)) (l : List β) (s : State) :
    coreFrame s (l.foldl f s) :=
  State.foldl_keeps (coreFrame s) f l (fun u x h => h.trans (hf u x)) (.refl s)

theorem coreFrame_modCore (s : State) (k : Nat) (f : Core → Core) (h : (f (s.core k)).off = (s.core k).off) :
    coreFrame s (s.modCore k f) := by
  refine ⟨.refl s, fun n => ?_⟩
  by_cases hn : n = k
  · rw [hn, State.core_modCore, h]
  · rw [State.core_modCore_ne _ _ hn]

theorem coreFrame_modHub (s : State) (tile : Nat) (f : Hub → Hub) : coreFrame s (s.modHub tile f) := ⟨.refl s, fun _ => rfl⟩

/-! ## Messages (R400) -/

/-- Neither the cores nor the hubs have changed. -/
def endsKept (s t : State) : Prop := t.cores = s.cores ∧ t.hubs = s.hubs

theorem endsKept.trans {s t u : State} (h : endsKept s t) (k : endsKept t u) : endsKept s u := ⟨k.1.trans h.1, k.2.trans h.2⟩

theorem endsKept_leftPort (s : State) (l : Nat) (load : TxLoad) : endsKept s (s.leftPort l load) := by
  fun_cases State.leftPort
  · exact ⟨rfl, rfl⟩
  next q hq sent marked credited timed =>
    have hcredited : endsKept s credited := by
      unfold credited
      split <;> exact ⟨rfl, rfl⟩
    have htimed : endsKept credited timed := by
      unfold timed
      split <;> exact ⟨rfl, rfl⟩
    exact hcredited.trans htimed
  · exact ⟨rfl, rfl⟩

theorem endsKept_linkSend (s : State) (l vc : Nat) (load : TxLoad) : endsKept s (s.linkSend l vc load) :=
  State.foldl_keeps (endsKept s) _ _ (fun u _ h => h.trans (endsKept_leftPort u ..)) ⟨rfl, rfl⟩

theorem endsKept_emit (s : State) (m : Msg) : endsKept s (s.emit m) :=
  State.foldl_keeps (endsKept s) _ _ (fun u _ h => h.trans (endsKept_linkSend u ..)) ⟨rfl, rfl⟩

theorem coreFrame_emit (s : State) (m : Msg) : coreFrame s (s.emit m) :=
  ⟨(noticeFrame_emit s m).sameProgram, fun k => by rw [State.core, (endsKept_emit s m).1, State.core]⟩

/-- A message of a core leaves at once or waits at the core; its queue of records and the others are as before. -/
theorem State.core_sendMsg (s : State) (k n : Nat) (m : Msg) :
    ((s.sendMsg k m).core n).off = (s.core n).off ∧ ((s.sendMsg k m).core n).evq = (s.core n).evq := by
  unfold State.sendMsg
  split
  · rw [State.core, (endsKept_emit s m).1, State.core]
    exact ⟨rfl, rfl⟩
  · by_cases hn : n = k
    · rw [hn, State.core_modCore]
      dsimp only
      split <;> exact ⟨rfl, rfl⟩
    · rw [State.core_modCore_ne _ _ hn]
      exact ⟨rfl, rfl⟩

theorem coreFrame_sendMsg (s : State) (k : Nat) (m : Msg) : coreFrame s (s.sendMsg k m) :=
  ⟨(noticeFrame_sendMsg s k m).sameProgram, fun n => (s.core_sendMsg k n m).1⟩

/-! ## Records on their way (R406, R407) -/

theorem coreFrame_queueRec (s : State) (k : Nat) (r : FRec) : coreFrame s (s.queueRec k r) := by
  unfold State.queueRec
  dsimp only
  split
  · exact (coreFrame_modCore s k _ rfl).trans (coreFrame_sendMsg ..)
  · exact coreFrame_modCore s k _ rfl

theorem State.hubs_sendMsg (s : State) (k : Nat) (m : Msg) : (s.sendMsg k m).hubs = s.hubs := by
  unfold State.sendMsg
  split
  · exact (endsKept_emit s m).2
  · rfl

/-- A record that enters a core's queue leaves the hubs alone. -/
theorem State.hub_queueRec (s : State) (k : Nat) (r : FRec) (tile : Nat) : (s.queueRec k r).hub tile = s.hub tile := by
  unfold State.queueRec
  dsimp only
  split
  · rw [State.hub, State.hubs_sendMsg]
    rfl
  · rfl

theorem State.evq_queueRec (s : State) (k : Nat) (r : FRec) :
    ((s.queueRec k r).core k).evq = (s.core k).evq ++ [{ r with stage := 0 }] := by
  unfold State.queueRec
  dsimp only
  split
  · rw [(State.core_sendMsg ..).2, State.core_modCore]
  · rw [State.core_modCore]

theorem coreFrame_holdRec (s : State) (r : FRec) : coreFrame s (s.holdRec r) := ⟨.refl s, fun _ => rfl⟩

theorem coreFrame_passRecs (s : State) (tile : Nat) (stay l : List FRec) : coreFrame s (s.passRecs tile stay l).1 := by
  induction l generalizing s stay with
  | nil => exact .refl s
  | cons r l ih =>
    rw [State.passRecs]
    split
    · split
      · exact (coreFrame_queueRec ..).trans (ih ..)
      · exact ih ..
    · exact ih ..

theorem coreFrame_flushHub (s : State) (tile : Nat) : coreFrame s (s.flushHub tile) :=
  ((coreFrame_passRecs s tile [] _).trans (coreFrame_modHub ..)).trans (coreFrame_foldl (fun s r => coreFrame_holdRec s r) ..)

theorem coreFrame_flushHubs (s : State) : coreFrame s s.flushHubs :=
  coreFrame_foldl (fun s h => by
    split
    · exact .refl s
    · exact coreFrame_flushHub ..) ..

theorem coreFrame_giveNotice (s : State) (gn origin : Nat) (m : Msg) : coreFrame s (s.giveNotice gn origin m) := by
  unfold State.giveNotice
  split
  · exact coreFrame_sendMsg ..
  · exact coreFrame_modHub ..

theorem coreFrame_flushNotices (s : State) : coreFrame s s.flushNotices :=
  coreFrame_foldl (fun s h => by
    split
    · exact .refl s
    · exact (coreFrame_modHub ..).trans (coreFrame_foldl (fun s n => coreFrame_giveNotice s ..) ..)) ..

theorem coreFrame_flushCores (s : State) : coreFrame s s.flushCores := by
  unfold State.flushCores
  split
  · exact coreFrame_foldl (fun s (c : Nat × Core) => (coreFrame_modCore s c.1 _ rfl).trans (coreFrame_foldl (fun s m => coreFrame_emit s m) ..)) ..
  · exact .refl s

/-- A record that its origin hub has held: it takes the next SEQ of its group, and 16 fc later may go on. -/
structure recHeld (s t : State) (x : FRec) (gn hub : Nat) : Prop where
  held : (t.hub hub).recs = (s.hub hub).recs ++ [x]
  others : ∀ h, h ≠ hub → t.hub h = s.hub h
  seq : (t.group gn).seq = (s.group gn).seq + 1
  told : (t.group gn).told = (s.group gn).told
  firstFault : (t.group gn).firstFault = (s.group gn).firstFault
  goesOn : t.awaits (s.now + 16) (.faultRecordArrival x)
  program : sameProgram s t

theorem recHeld_holdRec (s : State) {r : FRec} {gn hub : Nat} (hgn : r.grp.toNat = gn) (hhub : r.hub = hub) :
    recHeld s (s.holdRec r) { r with seq := BitVec.ofNat 16 (s.group gn).seq, stage := 1 } gn hub := by
  subst hgn hhub
  have hgroup : ∃ pnp, (s.holdRec r).group r.grp.toNat =
      { s.group r.grp.toNat with seq := (s.group r.grp.toNat).seq + 1, pnp := pnp } := ⟨_, State.group_setGroup_same ..⟩
  obtain ⟨pnp, hgroup⟩ := hgroup
  refine ⟨?_, fun h hh => ?_, by rw [hgroup], by rw [hgroup], by rw [hgroup], State.awaits_at .., .refl s⟩
  · exact congrArg Hub.recs (State.hub_modHub (s.setGroup r.grp.toNat _) r.hub (fun h => { h with recs := h.recs ++ [_] }))
  · exact State.hub_modHub_ne (s.setGroup r.grp.toNat _) (fun h => { h with recs := h.recs ++ [_] }) hh

section
variable {s : State} {r : FRec}

/-- The record with FENCE decided at its origin hub (R406). -/
def State.judged (s : State) (r : FRec) : FRec := { r with fence := (s.group r.grp.toNat).fencedBy r }

/-- The state in which the group of a record knows the fences that have been told of, and its first fault. -/
def State.told (s : State) (r : FRec) : State :=
  s.modGroup r.grp.toNat (fun g => { g.noteFault (s.judged r) with
    told := if (s.judged r).fence then nadd r.fenceNo g.told else g.told })

/-- A record that reaches its origin hub is held there, counted as lost, or waits, by the room at the hub. -/
theorem exec_faultRecordArrival_first (hstage : r.stage = 0) : exec (.faultRecordArrival r) s = .next (
    if (s.hub r.hub).recs.length < 16 then (s.told r).holdRec (s.judged r)
    else if ((s.told r).group r.grp.toNat).st == .fenced && !recEssential (s.judged r) then (s.told r).loseRec (s.judged r)
    else (s.told r).modHub r.hub (fun h => { h with recWait := h.recWait ++ [s.judged r] })) := by
  change execFaultRecordArrival r s = _
  unfold execFaultRecordArrival
  dsimp only
  rw [if_pos (beq_iff_eq.mpr hstage)]
  rfl

theorem Group.noteFault_st (g : Group) (r : FRec) : (g.noteFault r).st = g.st ∧ (g.noteFault r).seq = g.seq ∧
    (g.firstFault = none → r.code ≠ 0 → g.st ≠ .free → (g.noteFault r).firstFault = some r.code.toNat) := by
  unfold Group.noteFault
  split
  case isTrue h =>
    refine ⟨rfl, rfl, fun _ hcode hst => ?_⟩
    rcases Bool.or_eq_true_iff.mp h with h | h
    · exact absurd (beq_iff_eq.mp h) hcode
    · exact absurd (beq_iff_eq.mp h) hst
  case isFalse =>
    refine ⟨rfl, rfl, fun hnone _ _ => ?_⟩
    simp [hnone]

theorem State.group_told (s : State) (r : FRec) : (s.told r).group r.grp.toNat = { (s.group r.grp.toNat).noteFault (s.judged r) with
    told := if (s.judged r).fence then nadd r.fenceNo (s.group r.grp.toNat).told else (s.group r.grp.toNat).told } := by
  rw [State.told, State.modGroup, State.group_setGroup_same]

theorem gives_faultRecordArrival_held (hstage : r.stage = 0) (hroom : (s.hub r.hub).recs.length < 16) :
    gives (.faultRecordArrival r) s (fun t =>
      let first : Bool := r.fenceNo != 0 && !nmem r.fenceNo (s.group r.grp.toNat).told
      let x : FRec := { r with fence := first, seq := BitVec.ofNat 16 (s.group r.grp.toNat).seq, stage := 1 }
      (t.hub r.hub).recs = (s.hub r.hub).recs ++ [x] ∧ (∀ h, h ≠ r.hub → t.hub h = s.hub h) ∧
      (t.group r.grp.toNat).told = (if first then nadd r.fenceNo (s.group r.grp.toNat).told else (s.group r.grp.toNat).told) ∧
      (t.group r.grp.toNat).seq = (s.group r.grp.toNat).seq + 1 ∧
      ((s.group r.grp.toNat).firstFault = none → r.code ≠ 0 → (s.group r.grp.toNat).st ≠ .free →
        (t.group r.grp.toNat).firstFault = some r.code.toNat) ∧
      t.awaits (s.now + 16) (.faultRecordArrival x) ∧ sameProgram s t) := by
  have hexec := (exec_faultRecordArrival_first hstage).trans (congrArg _ (if_pos hroom))
  obtain ⟨-, hseq, hfirst⟩ := (s.group r.grp.toNat).noteFault_st (s.judged r)
  have hgroup := s.group_told r
  have htold := congrArg Group.told hgroup
  have hfault := congrArg Group.firstFault hgroup
  have hcount : ((s.told r).group r.grp.toNat).seq = (s.group r.grp.toNat).seq := (congrArg Group.seq hgroup).trans hseq
  have hheld : recHeld (s.told r) ((s.told r).holdRec (s.judged r)) _ r.grp.toNat r.hub :=
    recHeld_holdRec (s.told r) rfl rfl
  rw [hcount] at hheld
  refine gives_of_exec hexec ?_
  have hhub (h : Nat) : (s.told r).hub h = s.hub h := rfl
  have hnow : (s.told r).now = s.now := rfl
  have hsame : sameProgram s (s.told r) := .refl s
  generalize s.told r = u at *
  generalize u.holdRec (s.judged r) = t at *
  exact ⟨by rw [hheld.held, hhub]; rfl, fun h hh => (hheld.others h hh).trans (hhub h), hheld.told.trans htold, by rw [hheld.seq, hcount],
    fun hnone hcode hst => (hheld.firstFault.trans hfault).trans (hfirst hnone hcode hst), hnow ▸ hheld.goesOn, hsame.trans hheld.program⟩

theorem gives_faultRecordArrival_waits (hstage : r.stage = 0) (hfull : 16 ≤ (s.hub r.hub).recs.length)
    (hst : (s.group r.grp.toNat).st ≠ .fenced) : gives (.faultRecordArrival r) s (fun t =>
      (t.hub r.hub).recs = (s.hub r.hub).recs ∧ sameProgram s t ∧
      ∃ b, (t.hub r.hub).recWait = (s.hub r.hub).recWait ++ [{ r with fence := b }]) := by
  have hexec := (exec_faultRecordArrival_first hstage).trans (congrArg _ (if_neg (Nat.not_lt.mpr hfull)))
  have hopen : ((s.told r).group r.grp.toNat).st ≠ .fenced := by
    rw [State.group_told]
    exact fun h => hst (((s.group r.grp.toNat).noteFault_st (s.judged r)).1.symm.trans h)
  rw [beq_false_of_ne hopen, Bool.false_and, if_neg Bool.false_ne_true] at hexec
  refine gives_of_exec hexec ⟨?_, .refl s, (s.judged r).fence, ?_⟩ <;> rw [State.hub_modHub] <;> rfl

theorem gives_faultRecordArrival_queued {k : Nat} (hstage : r.stage = 1) (hrecs : (s.hub r.hub).recs = [r])
    (hnone : (s.hub r.hub).recWait = []) (hserves : s.servicer r.grp.toNat r.hub = some k) (hroom : (s.core k).evq.length < 64) :
    gives (.faultRecordArrival r) s (fun t => (t.core k).evq = (s.core k).evq ++ [{ r with stage := 0 }] ∧
      (t.hub r.hub).recs = [] ∧ sameProgram s t) := by
  let x : FRec := { r with stage := 2 }
  let u := s.modHub r.hub (fun h => { h with recs := h.recs.map (fun y => if y == r then { y with stage := 2 } else y) })
  let v := u.queueRec k x
  have hhub : u.hub r.hub = { s.hub r.hub with recs := [x] } := by
    rw [State.hub_modHub, hrecs]
    simp [x]
  have hpassed : u.passRecs r.hub [] [x] = (v, []) := by
    have hserves' : u.servicer x.grp.toNat r.hub = some k := hserves
    have hroom' : (u.core k).evq.length < Config.logEntries := hroom
    simp only [State.passRecs, hserves', hroom', List.any_nil, Bool.not_false, Bool.and_true, decide_true, x, v]
    rfl
  have hv : (v.hub r.hub).recWait = [] := by
    rw [State.hub_queueRec, hhub]
    exact hnone
  have hexec : exec (.faultRecordArrival r) s = .next (v.modHub r.hub (fun h => { h with recs := [], recWait := [] })) := by
    have hlater : ¬ (r.stage == 0) = true := by
      rw [hstage]
      decide
    change execFaultRecordArrival r s = _
    unfold execFaultRecordArrival
    dsimp only
    rw [if_neg hlater]
    change Host.Outcome.next (u.flushHub r.hub) = _
    rw [State.flushHub, hhub]
    dsimp only
    rw [hpassed]
    dsimp only
    rw [hv]
    rfl
  refine gives_of_exec hexec ⟨?_, congrArg Hub.recs (State.hub_modHub ..), (coreFrame_queueRec u k x).program⟩
  exact State.evq_queueRec u k x

end

/-! ## Crest cores (R14, R412) -/

/-- A walk along a list each of whose members leaves the state alone leaves it alone. -/
theorem State.foldl_fixed_mem {β : Type} {f : State → β → State} {l : List β} {s : State} (h : ∀ x ∈ l, f s x = s) :
    l.foldl f s = s := by
  induction l with
  | nil => rfl
  | cons x l ih => rw [List.foldl_cons, h x List.mem_cons_self, ih fun y hy => h y (List.mem_cons_of_mem _ hy)]

theorem gives_eventQueuePop {s : State} (die core : Nat) (hnone : ∀ h ∈ s.hubs, h.2.recs = []) : gives (.eventQueuePop die core) s (fun t =>
    (t.core (coreId die core)).evq = (s.core (coreId die core)).evq.tail ∧
    (∀ k, k ≠ coreId die core → t.core k = s.core k) ∧ t = { s with cores := t.cores }) := by
  let u := s.modCore (coreId die core) (fun c => { c with evq := c.evq.tail })
  have hflush : u.flushHubs = u := State.foldl_fixed_mem fun h hh => by rw [hnone h hh]; rfl
  have hexec : exec (.eventQueuePop die core) s = .next u := congrArg _ hflush
  refine gives_of_exec hexec ⟨?_, fun k hk => State.core_modCore_ne _ _ hk, rfl⟩
  rw [State.core_modCore]

theorem gives_crestCoreAvailability (s : State) (die core : Nat) (up : Bool) : gives (.crestCoreAvailability die core up) s (fun t =>
    (t.core (coreId die core)).off = !up ∧ (∀ k, k ≠ coreId die core → (t.core k).off = (s.core k).off) ∧ sameProgram s t) := by
  let u := s.modCore (coreId die core) (fun c => { c with off := !up })
  have hflushed : coreFrame u (u.flushHubs.flushNotices.flushCores) :=
    ((coreFrame_flushHubs u).trans (coreFrame_flushNotices _)).trans (coreFrame_flushCores _)
  have hexec : exec (.crestCoreAvailability die core up) s = .next (u.flushHubs.flushNotices.flushCores) := rfl
  refine gives_of_exec hexec ⟨?_, fun k hk => ?_, hflushed.program⟩
  · rw [hflushed.off, State.core_modCore]
  · rw [hflushed.off, State.core_modCore_ne _ _ hk]

/-! ## The reply of an svc (R416) -/

theorem gives_svcReplyDelivery {s : State} {ea c : Nat} {v : Svc} (x : Word) (hsvc : (s.ctx ea c).svc = some v) :
    gives (.svcReplyDelivery ea c x) s (fun t => (t.ctx ea c).svc = none ∧
      (∀ r, (t.ctx ea c).reg r = if r = v.reg then x else (s.ctx ea c).reg r) ∧ (t.ctx ea c).pred = (s.ctx ea c).pred ∧
      (t.ctx ea c).flags = (s.ctx ea c).flags ∧ (t.ctx ea c).st = (s.ctx ea c).st ∧ (∀ k, k ≠ c → t.ctx ea k = s.ctx ea k) ∧
      onlyElem s t ea) := by
  have hexec : exec (.svcReplyDelivery ea c x) s = .next (s.modCtx ea c (fun y => y.answered v x)) := by
    change execSvcReplyDelivery ea c x s = _
    simp only [execSvcReplyDelivery, hsvc]
  have hctx : (s.modCtx ea c (fun y => y.answered v x)).ctx ea c = (s.ctx ea c).answered v x := State.ctx_modCtx_same ..
  refine gives_of_exec hexec ⟨?_, fun r => ?_, ?_, ?_, ?_, fun k hk => State.ctx_modCtx_ne _ _ _ hk, fun y hy =>
    State.elem_modElem_ne _ _ _ _ hy, rfl⟩ <;> rw [hctx]
  · rfl
  · exact tget_tput ..
  · rfl
  · rfl
  · rfl

/-! ## Scrubs (R410) -/

theorem servedFrame_logUnit (s : State) (a type : Nat) (inj : Bool) : servedFrame s (s.logUnit a type inj) := by
  unfold State.logUnit State.logBase
  split <;> exact ⟨rfl, rfl, rfl, rfl, rfl, rfl, fun _ _ => rfl, fun _ h => h⟩

section
variable {s : State} {unit : Nat} (hinjs : s.injs = []) (hnone : ∀ q ∈ s.defers, unitOf (q.pa % 2 ^ 44) ≠ unit)
include hinjs hnone

/-- A scrub of a unit at which none is deferred, in a module without injections. -/
theorem exec_scrub (correctable uncorrectable : Bool) : exec (.scrub unit correctable uncorrectable) s = .next (
    if uncorrectable then (s.setPoison unit true).logUnit (8 * unit) 1 false
    else if correctable then s.logUnit (8 * unit) 0 false else s) := by
  have hunit : unitOf (8 * unit) = unit := Nat.mul_div_cancel_left _ (by decide)
  have hsettle {u : State} (h : u.defers = s.defers) : u.feSettle (8 * unit) 1 = u :=
    State.feSettle_of_no_defers (by rw [h, hunit]; exact hnone)
  change execScrub unit correctable uncorrectable s = _
  simp only [execScrub, State.touch_of_no_injs hinjs]
  refine congrArg _ (hsettle ?_)
  split
  · exact (servedFrame_logUnit ..).defers
  · split
    · exact (servedFrame_logUnit ..).defers
    · rfl

theorem gives_scrub_uncorrectable : gives (.scrub unit false true) s (fun t => t.poisoned unit = true ∧
    (∀ u, u ≠ unit → t.poisoned u = s.poisoned u) ∧ (∀ a, t.readByte a = s.readByte a) ∧ ∀ ea, t.elem ea = s.elem ea) := by
  have hmark (u : Nat) : (s.setPoison unit true).poisoned u = (decide (u = unit) || s.poisoned u) := nmem_nadd ..
  have hlogged := servedFrame_logUnit (s.setPoison unit true) (8 * unit) 1 false
  have helems := ((s.setPoison unit true).logUnit_keeps (8 * unit) 1 false).2
  refine gives_of_exec (exec_scrub hinjs hnone false true) ⟨?_, fun u hu => ?_, hlogged.readByte, fun ea => ?_⟩
  · exact (hlogged.poisoned unit).trans (by simp [hmark])
  · exact (hlogged.poisoned u).trans (by simp [hmark, hu])
  · exact congrArg (tget Elem.zero ea) helems

theorem gives_scrub_correctable : gives (.scrub unit true false) s (fun t => sameProgram s t ∧ ∀ ea, t.elem ea = s.elem ea) :=
  gives_of_exec (exec_scrub hinjs hnone true false) ⟨(servedFrame_logUnit ..).sameProgram, fun ea =>
    congrArg (tget Elem.zero ea) (s.logUnit_keeps (8 * unit) 0 false).2⟩

end

/-! ## Machine checks (R411) -/

theorem gives_machineCheck_link (s : State) (entry ea : Nat) :
    gives (.machineCheck 11 entry ea false) s (fun t => t.groups = s.groups ∧ sameProgram s t) :=
  gives_of_exec rfl ⟨rfl, .refl s⟩

/-- A parity error in the state of a group, of an array that is neither a cache nor a link, raises MACHINE_CHECK. -/
theorem exec_machineCheck_group {s : State} {array gn : Nat} (hslice : array ≠ 7) (hengine : array ≠ 10) (hlink : array ≠ 11) (entry ea : Nat)
    (hgroup : s.groupAt ea = some gn) : exec (.machineCheck array entry ea false) s =
      .next ((s.logTile ea array 2 false (BitVec.ofNat 64 entry)).raiseGroup gn ea ea 0x7F array (BitVec.ofNat 64 entry)) := by
  have hgroup' : (s.logTile ea array 2 false (BitVec.ofNat 64 entry)).groupAt ea = some gn := hgroup
  change execMachineCheck array entry ea false s = _
  simp only [execMachineCheck, State.parityError, beq_false_of_ne hslice, beq_false_of_ne hengine, beq_false_of_ne hlink, Bool.false_and,
    Bool.false_eq_true, if_false, hgroup']

theorem gives_machineCheck_group {s : State} {array gn : Nat} (hslice : array ≠ 7) (hengine : array ≠ 10) (hlink : array ≠ 11)
    (entry ea : Nat) (hgroup : s.groupAt ea = some gn) (hst : (s.group gn).st = .live) :
    gives (.machineCheck array entry ea false) s (fun t => (t.group gn).st = .fenced ∧ sameProgram s t ∧
      ∃ r : FRec, r.code = 0x7F ∧ r.detail = BitVec.ofNat 32 array ∧ r.aux = BitVec.ofNat 64 entry ∧ r.async = true ∧
        t.awaits (s.now + hubDelay ea (s.group gn).origin) (.faultRecordArrival r)) := by
  let u := s.logTile ea array 2 false (BitVec.ofNat 64 entry)
  have hsent := State.raiseRec_sends_record u gn ea ea none none 0x7F true array (BitVec.ofNat 64 entry) (by
    change ¬ ((s.group gn).st = .free ∨ (s.group gn).st = .saved ∨ (s.group gn).st = .retired)
    simp [hst])
  have hfenced := State.raiseRec_group_fenced u gn ea ea none none 0x7F true array (BitVec.ofNat 64 entry) (.inl hst)
  have hframe : recordFrame u (u.raiseGroup gn ea ea 0x7F array (BitVec.ofNat 64 entry)) := recordFrame_raiseRec ..
  exact gives_of_exec (exec_machineCheck_group hslice hengine hlink entry ea hgroup)
    ⟨hfenced.1, hframe.served.sameProgram, _, rfl, rfl, rfl, rfl, hsent⟩

/-- Settles O39: a record by its stage and the room where it goes, and each of the other events by its one effect. -/
theorem recordsAndMachineChecks : Obligations.RecordsAndMachineChecks := by
  unfold Obligations.RecordsAndMachineChecks
  intro s
  refine ⟨fun r hstage hroom => gives_faultRecordArrival_held hstage hroom,
    fun r hstage hfull hst => gives_faultRecordArrival_waits hstage hfull hst,
    fun r k hstage hrecs hnone hserves hroom => gives_faultRecordArrival_queued hstage hrecs hnone hserves hroom,
    fun die core hnone => gives_eventQueuePop die core hnone, gives_crestCoreAvailability s,
    fun ea c v x hsvc => gives_svcReplyDelivery x hsvc, ?scrub, gives_machineCheck_link s, ?check⟩
  case scrub =>
    intro unit hinjs hnone
    exact ⟨gives_scrub_uncorrectable hinjs hnone, gives_scrub_correctable hinjs hnone, exec_scrub hinjs hnone false false⟩
  case check =>
    intro array entry ea gn hslice hengine hlink hgroup hst
    exact gives_machineCheck_group hslice hengine hlink entry ea hgroup hst

end Sys2Proof.Machine
end

section
/-! SUPPORT. The states of a link (R392 to R394, R398, Table 17-2). Settles O47. -/

namespace Sys2Proof.Machine

/-! ## Links -/

theorem State.xlink_modXlink_ne (s : State) {l k : Nat} (f : Link → Link) (h : k ≠ l) : (s.modXlink l f).xlink k = s.xlink k :=
  tget_tput_ne _ _ _ _ _ h

/-- Only link `l` has changed, and nothing that programs read. -/
structure linkOnly (s t : State) (l : Nat) : Prop where
  others : ∀ k, k ≠ l → t.xlink k = s.xlink k
  program : sameProgram s t
  now : t.now = s.now

theorem linkOnly.refl (s : State) (l : Nat) : linkOnly s s l := ⟨fun _ _ => rfl, .refl s, rfl⟩

theorem linkOnly.trans {s t u : State} {l : Nat} (h : linkOnly s t l) (k : linkOnly t u l) : linkOnly s u l :=
  ⟨fun n hn => (k.others n hn).trans (h.others n hn), h.program.trans k.program, k.now.trans h.now⟩

theorem linkOnly_modXlink (s : State) (l : Nat) (f : Link → Link) : linkOnly s (s.modXlink l f) l :=
  ⟨fun _ hk => State.xlink_modXlink_ne s f hk, .refl s, rfl⟩

theorem linkOnly_at (s : State) (l n : Nat) (i : Instr) : linkOnly s (s.at_ n i) l := ⟨fun _ _ => rfl, .refl s, rfl⟩

/-- A request that has left its port changes no link, and leaves every request at the link where it was. -/
theorem State.leftPort_keeps (s : State) (l : Nat) (load : TxLoad) : (s.leftPort l load).xlinks = s.xlinks ∧
    ∀ k, (∀ q ∈ s.remotes, q.link ≠ some k) → ∀ q ∈ (s.leftPort l load).remotes, q.link ≠ some k := by
  fun_cases State.leftPort
  · exact ⟨rfl, fun _ h => h⟩
  next q hq sent marked credited timed =>
    have hcredited : credited.xlinks = s.xlinks ∧ credited.remotes = marked.remotes := by
      unfold credited
      split <;> exact ⟨rfl, rfl⟩
    have htimed : timed.xlinks = credited.xlinks ∧ timed.remotes = credited.remotes := by
      unfold timed
      split <;> exact ⟨rfl, rfl⟩
    refine ⟨htimed.1.trans hcredited.1, fun k hnone x hx => ?_⟩
    have hmarked : x ∈ marked.remotes := (htimed.2.trans hcredited.2) ▸ hx
    obtain ⟨y, hy, rfl⟩ := List.mem_map.mp hmarked
    split
    · exact hnone q (List.mem_of_find?_eq_some hq)
    · exact hnone y hy
  · exact ⟨rfl, fun _ h => h⟩

/-- The state, cause and lanes of a link are as before, also where it has sent. -/
def Link.standsAs (x y : Link) : Prop := y.st = x.st ∧ y.cause = x.cause ∧ y.lanes = x.lanes

theorem Link.standsAs.trans {x y z : Link} (h : x.standsAs y) (k : y.standsAs z) : x.standsAs z :=
  ⟨k.1.trans h.1, k.2.1.trans h.2.1, k.2.2.trans h.2.2⟩

theorem Link.standsAs_flush (x : Link) (n : Nat) : x.standsAs (x.flush n) := by
  induction n generalizing x with
  | zero => exact ⟨rfl, rfl, rfl⟩
  | succ n ih =>
    rw [Link.flush]
    split
    · exact ⟨rfl, rfl, rfl⟩
    · split
      · exact Link.standsAs.trans (by exact ⟨rfl, rfl, rfl⟩) (ih _)
      · exact ⟨rfl, rfl, rfl⟩

/-- What ends a request leaves alone: every link stands as it did, and a link that no request uses is used by none. -/
structure linksStand (s t : State) : Prop where
  stands : ∀ k, (s.xlink k).standsAs (t.xlink k)
  unused : ∀ k, (∀ q ∈ s.remotes, q.link ≠ some k) → ∀ q ∈ t.remotes, q.link ≠ some k

theorem linksStand.refl (s : State) : linksStand s s := ⟨fun _ => ⟨rfl, rfl, rfl⟩, fun _ h => h⟩

theorem linksStand.trans {s t u : State} (h : linksStand s t) (k : linksStand t u) : linksStand s u :=
  ⟨fun n => (h.stands n).trans (k.stands n), fun n hn => k.unused n (h.unused n hn)⟩

theorem linksStand_foldl {β : Type} {f : State → β → State} (hf : ∀ s x, linksStand s (f s x)) (l : List β) (s : State) :
    linksStand s (l.foldl f s) :=
  State.foldl_keeps (linksStand s) f l (fun u x h => h.trans (hf u x)) (.refl s)

/-- The links and the requests to other modules have not changed. -/
def portsKept (s t : State) : Prop := t.xlinks = s.xlinks ∧ t.remotes = s.remotes

theorem portsKept.refl (s : State) : portsKept s s := ⟨rfl, rfl⟩

theorem portsKept.trans {s t u : State} (h : portsKept s t) (k : portsKept t u) : portsKept s u := ⟨k.1.trans h.1, k.2.trans h.2⟩

theorem portsKept.stand {s t : State} (h : portsKept s t) : linksStand s t := by
  obtain ⟨hlinks, hremotes⟩ := h
  refine ⟨fun k => ?_, fun k hk => hremotes ▸ hk⟩
  rw [State.xlink, State.xlink, hlinks]
  exact ⟨rfl, rfl, rfl⟩

theorem linksStand_modXlink (s : State) (l : Nat) (f : Link → Link) (h : (s.xlink l).standsAs (f (s.xlink l))) :
    linksStand s (s.modXlink l f) := by
  refine ⟨fun k => ?_, fun _ hk => hk⟩
  by_cases hk : k = l
  · rw [hk, State.xlink_modXlink]
    exact h
  · rw [State.xlink_modXlink_ne _ _ hk]
    exact ⟨rfl, rfl, rfl⟩

theorem linksStand_leftPort (s : State) (l : Nat) (load : TxLoad) : linksStand s (s.leftPort l load) := by
  obtain ⟨hlinks, hunused⟩ := s.leftPort_keeps l load
  refine ⟨fun k => ?_, hunused⟩
  rw [State.xlink, State.xlink, hlinks]
  exact ⟨rfl, rfl, rfl⟩

theorem linksStand_flushLink (s : State) (l : Nat) : linksStand s (s.flushLink l) :=
  (linksStand_modXlink s l _ (Link.standsAs.trans (by exact ⟨rfl, rfl, rfl⟩) (Link.standsAs_flush ..))).trans
    (linksStand_foldl (fun s _ => linksStand_leftPort s ..) ..)

theorem linksStand_linkSend (s : State) (l vc : Nat) (load : TxLoad) : linksStand s (s.linkSend l vc load) :=
  (linksStand_modXlink s l _ ⟨rfl, rfl, rfl⟩).trans (linksStand_flushLink ..)

/-! ## The end of a request (R233, R398) -/

theorem recordFrame.portsKept {s t : State} (h : recordFrame s t) : portsKept s t := by
  rw [h.1]
  exact ⟨rfl, rfl⟩

theorem portsKept_foldl {β : Type} {f : State → β → State} (hf : ∀ s x, portsKept s (f s x)) (l : List β) (s : State) :
    portsKept s (l.foldl f s) :=
  State.foldl_keeps (portsKept s) f l (fun u x h => h.trans (hf u x)) (.refl s)

theorem portsKept_at (s : State) (n : Nat) (i : Instr) : portsKept s (s.at_ n i) := ⟨rfl, rfl⟩

theorem portsKept_modElem (s : State) (ea : Nat) (f : Elem → Elem) : portsKept s (s.modElem ea f) := ⟨rfl, rfl⟩

theorem portsKept_modOut (s : State) (ea o : Nat) (f : Out → Out) : portsKept s (s.modOut ea o f) := ⟨rfl, rfl⟩

theorem portsKept_progress (s : State) (gn ea t : Nat) : portsKept s (s.progress gn ea t) := ⟨rfl, rfl⟩

theorem portsKept_joinLink (s : State) (t site port vc : Nat) (as : List Arrival) (d : Nat) :
    portsKept s (s.joinLink t site port vc as d) := by
  unfold State.joinLink
  dsimp only
  split <;> exact ⟨rfl, rfl⟩

theorem portsKept_forward (s : State) (t site port vc : Nat) (as : List Arrival) : portsKept s (s.forward t site port vc as) :=
  (portsKept_foldl (fun s _ => portsKept_at s ..) ..).trans (portsKept_foldl (fun s _ => portsKept_joinLink s ..) ..)

theorem portsKept_launchTargets (s : State) (g : Group) (t x o epoch : Nat) (r : Route) (w : CWord) :
    portsKept s (s.launchTargets g t x o epoch r w) :=
  (portsKept_foldl (fun s _ => portsKept_at s ..) ..).trans (portsKept_forward ..)

theorem portsKept_enterReady (s : State) (ea o : Nat) (ps : List Place) : portsKept s (s.enterReady ea o ps) := by
  induction ps generalizing s with
  | nil => exact ⟨rfl, rfl⟩
  | cons p ps ih =>
    unfold State.enterReady
    split
    · exact ⟨rfl, rfl⟩
    · exact (((portsKept_modOut ..).trans (portsKept_progress ..)).trans (portsKept_launchTargets ..)).trans (ih _)

theorem portsKept_unreserve (s : State) (ea o id : Nat) : portsKept s (s.unreserve ea o id) :=
  portsKept.trans (t := s.setElem ea _) ⟨rfl, rfl⟩ (portsKept_enterReady ..)

theorem portsKept_genUnissue (s : State) (ea g id : Nat) : portsKept s (s.genUnissue ea g id) := by
  have hplace (p : Option (Nat × Nat)) : portsKept s (match p with | some p => s.unreserve ea p.1 p.2 | none => s) := by
    split
    · exact portsKept_unreserve ..
    · exact .refl s
  unfold State.genUnissue
  dsimp only
  split
  · exact ((hplace _).trans (portsKept_modElem ..)).trans (portsKept_modOut ..)
  · exact (hplace _).trans (portsKept_modElem ..)

theorem portsKept_flowEnd (s : State) (tile n : Nat) : portsKept s (s.flowEnd tile n) := by
  unfold State.flowEnd
  dsimp only
  split
  · exact ⟨rfl, rfl⟩
  · split
    · exact ⟨rfl, rfl⟩
    · split
      · split <;> exact ⟨rfl, rfl⟩
      · split
        · split <;> exact ⟨rfl, rfl⟩
        · exact ⟨rfl, rfl⟩

theorem portsKept_dropReq (s : State) (r : MReq) : portsKept s (s.dropReq r) := by
  fun_cases State.dropReq
  case case2 _ _ left freed _ =>
    have hfreed : portsKept s freed := by
      unfold freed
      split <;> exact ⟨rfl, rfl⟩
    exact hfreed.trans (portsKept_modOut ..)
  case case3 _ _ left freed _ =>
    unfold freed
    split <;> exact ⟨rfl, rfl⟩
  all_goals exact ⟨rfl, rfl⟩

theorem linksStand_answerRemote (s : State) (l module a id : Nat) (v : Word) (code : Nat) (poison : Bool) :
    linksStand s (s.answerRemote l module a id v code poison) := by
  unfold State.answerRemote State.sendAnswer
  split
  · exact linksStand_linkSend ..
  · exact linksStand_modXlink s l _ ⟨rfl, rfl, rfl⟩

theorem linksStand_failReq (s : State) (r : MReq) (src code detail : Nat) : linksStand s (s.failReq r src code detail) := by
  have hraised (r : MReq) (t : State) : portsKept t (t.raiseCtx r.grp src ⟨r.ea, r.ctx, r.slot⟩ code detail r.addr) :=
    portsKept.trans (t := t.ctxFaulted r.ea r.ctx) ⟨rfl, rfl⟩ (recordFrame_raiseRec ..).portsKept
  fun_cases State.failReq
  case case1 => exact ((portsKept_genUnissue ..).trans (portsKept_modElem ..)).stand
  case case2 => exact .refl s
  case case3 tile n _ _ coded recorded =>
    have hrecorded : portsKept s recorded := by
      unfold recorded
      split
      · exact ⟨rfl, rfl⟩
      · split
        · exact portsKept.trans (t := coded) ⟨rfl, rfl⟩ (hraised ..)
        · exact portsKept.trans (t := coded) ⟨rfl, rfl⟩ (recordFrame_raiseRec ..).portsKept
    exact (hrecorded.trans (portsKept_flowEnd ..)).stand
  case case4 => exact linksStand_answerRemote ..
  case case5 => exact portsKept.stand ⟨rfl, rfl⟩
  case case6 => exact ((portsKept_dropReq s r).trans (hraised r _)).stand

theorem linksStand_endRemote (s : State) (q : Remote) (code detail : Nat) : linksStand s (s.endRemote q code detail) := by
  unfold State.endRemote
  dsimp only
  split
  · exact (portsKept_at s s.now (.requestCreditReturn q.r.ea q.r.out q.r.epoch)).stand.trans (linksStand_failReq ..)
  · exact linksStand_failReq ..

/-- The end of the requests of a link leaves every link as it stands, and none of them. -/
theorem State.endRemotes_keeps (s : State) (l : Nat) : (∀ k, (s.xlink k).standsAs ((s.endRemotes l).xlink k)) ∧
    ∀ q ∈ (s.endRemotes l).remotes, q.link ≠ some l := by
  have hended : linksStand ({ s with remotes := s.remotes.filter (fun q => q.link != some l) } : State) (s.endRemotes l) :=
    linksStand_foldl (fun s q => linksStand_endRemote s q ..) ..
  exact ⟨hended.stands, hended.unused l fun q hq => bne_iff_ne.mp (List.mem_filter.mp hq).2⟩

theorem linkOnly_flushLink (s : State) (l : Nat) : linkOnly s (s.flushLink l) l := by
  refine (linkOnly_modXlink s l _).trans (State.foldl_keeps (linkOnly _ · l) _ _ (fun u p h => h.trans ⟨fun k _ => ?_, ?_, ?_⟩) (.refl ..))
  · rw [State.xlink, (u.leftPort_keeps l p.2).1, State.xlink]
  · exact (noticeFrame_leftPort ..).sameProgram
  · rw [(noticeFrame_leftPort u l p.2).1]

/-! ## DOWN and TRAINING (R393) -/

theorem linkOnly_trainFromDown (s : State) (l : Nat) : linkOnly s (s.trainFromDown l) l := by
  unfold State.trainFromDown
  split
  · exact (linkOnly_modXlink ..).trans (linkOnly_at ..)
  · exact .refl ..

theorem linkOnly_linkDown (s : State) (l : Nat) : linkOnly s (s.linkDown l) l := by
  unfold State.linkDown
  dsimp only
  split
  · exact (linkOnly_modXlink ..).trans (linkOnly_at ..)
  · exact linkOnly_modXlink ..

theorem State.xlink_linkDown (s : State) (l : Nat) :
    (s.linkDown l).xlink l = { s.xlink l with st := .down, lanes := 0, since := s.now } := by
  unfold State.linkDown
  dsimp only
  split
  · rw [State.xlink_after, State.xlink_modXlink]
  · rw [State.xlink_modXlink]

theorem State.remotes_linkDown (s : State) (l : Nat) : (s.linkDown l).remotes = s.remotes := by
  unfold State.linkDown
  dsimp only
  split <;> rfl

theorem State.awaits_linkDown {s : State} {l : Nat} (h : (s.xlink l).enable = true) :
    (s.linkDown l).awaits (s.now + 1900000) .linkDownRetry := by
  have henable : ((s.modXlink l (fun x => { x with st := .down, lanes := 0, since := s.now })).xlink l).enable = true := by
    rw [State.xlink_modXlink]
    exact h
  simp only [State.linkDown, henable, if_true]
  exact State.awaits_at ..

theorem linkOnly_emptyLink (s : State) (l : Nat) : linkOnly s (s.emptyLink l) l :=
  ⟨fun _ hk => tget_tput_ne _ _ _ _ _ hk, .refl s, rfl⟩

theorem State.xlink_emptyLink (s : State) (l : Nat) : (s.emptyLink l).xlink l = { s.xlink l with
    txSeq := 0, replay := [], pending := [], rxSeq := 0, discard := false, naks := 0, nakSeq := 0, nakTx := 0 } := by
  have hmod (u : State) (f : Link → Link) : ((u.modXlink l f).at_ s.now .remoteTimeout).xlink l = f (u.xlink l) := State.xlink_modXlink ..
  exact hmod ..

/-- A request that has not left by an emptied link is held. -/
theorem State.held_emptyLink {s : State} {l : Nat} {q : Remote} (hq : q ∈ s.remotes) (hst : q.st = .atPort) (hlink : q.link = some l) :
    { q with st := .held, link := none } ∈ (s.emptyLink l).remotes :=
  List.mem_map.mpr ⟨q, hq, by simp [hst, hlink]⟩

theorem gives_linkEnable {s : State} {l : Nat} (hst : (s.xlink l).st = .down) : gives (.linkEnable l) s (fun t =>
    (t.xlink l).enable = true ∧ (t.xlink l).st = .training ∧ (t.xlink l).since = s.now ∧ t.awaits (s.now + 1900000) .linkDownRetry ∧
    linkOnly s t l) := by
  let u := s.modXlink l (fun x => { x with enable := true })
  have hu : u.xlink l = { s.xlink l with enable := true } := State.xlink_modXlink ..
  have htrains : u.trainFromDown l = (u.modXlink l (fun x =>
      { x with st := .training, since := s.now, fromUp := false })).after 1900000 .linkDownRetry := by
    simp only [State.trainFromDown, hu, hst]
    rfl
  have honly : linkOnly s (u.trainFromDown l) l := (linkOnly_modXlink ..).trans (linkOnly_trainFromDown ..)
  have hlink : (u.trainFromDown l).xlink l = { s.xlink l with enable := true, st := .training, since := s.now, fromUp := false } := by
    rw [htrains, State.xlink_after, State.xlink_modXlink, hu]
  have hawaits : (u.trainFromDown l).awaits (s.now + 1900000) .linkDownRetry := by
    rw [htrains]
    exact State.awaits_at ..
  have hexec : exec (.linkEnable l) s = .next (u.trainFromDown l) := rfl
  exact gives_of_exec hexec ⟨by rw [hlink], by rw [hlink], by rw [hlink], hawaits, honly⟩

theorem gives_linkDisable (s : State) (l : Nat) : gives (.linkDisable l) s (fun t => (t.xlink l).st = .down ∧ (t.xlink l).enable = false ∧
    (t.xlink l).cause = 0 ∧ (t.xlink l).replay = [] ∧ (t.xlink l).pending = [] ∧ (t.xlink l).lanes = 0 ∧
    (∀ q ∈ s.remotes, q.st = .atPort → q.link = some l → { q with st := .held, link := none } ∈ t.remotes) ∧ linkOnly s t l) := by
  let u := s.modXlink l (fun x => { x with enable := false, cause := 0 })
  have hu : u.xlink l = { s.xlink l with enable := false, cause := 0 } := State.xlink_modXlink ..
  have hremotes : u.remotes = s.remotes := rfl
  have honly : linkOnly s ((u.emptyLink l).linkDown l) l :=
    ((linkOnly_modXlink ..).trans (linkOnly_emptyLink ..)).trans (linkOnly_linkDown ..)
  have hexec : exec (.linkDisable l) s = .next ((u.emptyLink l).linkDown l) := rfl
  refine gives_of_exec hexec ?_
  rw [State.xlink_linkDown, State.xlink_emptyLink, hu, State.remotes_linkDown]
  exact ⟨rfl, rfl, rfl, rfl, rfl, rfl, fun q hq hst hlink => State.held_emptyLink (hremotes ▸ hq) hst hlink, honly⟩

theorem gives_linkReset {s : State} {l : Nat} (hst : (s.xlink l).st = .fenced) : gives (.linkReset l) s (fun t =>
    (t.xlink l).st = .down ∧ (t.xlink l).replay = [] ∧ (t.xlink l).txSeq = 0 ∧
    ((s.xlink l).enable = true → t.awaits (s.now + 1900000) .linkDownRetry) ∧ linkOnly s t l) := by
  have hexec : exec (.linkReset l) s = .next ((s.emptyLink l).linkDown l) := by
    change execLinkReset l s = _
    simp [execLinkReset, hst]
  have honly : linkOnly s ((s.emptyLink l).linkDown l) l := (linkOnly_emptyLink ..).trans (linkOnly_linkDown ..)
  have hretries (henable : (s.xlink l).enable = true) : ((s.emptyLink l).linkDown l).awaits (s.now + 1900000) .linkDownRetry :=
    State.awaits_linkDown (by rw [State.xlink_emptyLink]; exact henable)
  refine gives_of_exec hexec ?_
  rw [State.xlink_linkDown, State.xlink_emptyLink]
  exact ⟨rfl, rfl, rfl, hretries, honly⟩

/-! ## FENCED (R393, R398) -/

theorem State.xlink_logLink (s : State) (l k : Nat) : (s.logLink l).xlink k = s.xlink k := rfl

/-- A fenced link stands with its cause, without lanes, and no request uses it. -/
structure linkFencedBy (t : State) (l cause : Nat) : Prop where
  st : (t.xlink l).st = .fenced
  cause : (t.xlink l).cause = cause
  lanes : (t.xlink l).lanes = 0
  unused : ∀ q ∈ t.remotes, q.link ≠ some l

theorem linkFencedBy_fenceLink (s : State) (l cause : Nat) : linkFencedBy (s.fenceLink l cause) l cause := by
  let u := (s.modXlink l (fun x => { x with st := .fenced, lanes := 0, cause := cause, since := s.now })).logLink l
  have hu : u.xlink l = { s.xlink l with st := .fenced, lanes := 0, cause := cause, since := s.now } := by
    rw [State.xlink_logLink, State.xlink_modXlink]
  obtain ⟨hstands, hunused⟩ := u.endRemotes_keeps l
  obtain ⟨hst, hcause, hlanes⟩ := hstands l
  rw [hu] at hst hcause hlanes
  exact ⟨hst, hcause, hlanes, hunused⟩

/-- The other links stand as they did when one is fenced. -/
theorem State.st_fenceLink (s : State) (l cause : Nat) {k : Nat} (hk : k ≠ l) :
    ((s.fenceLink l cause).xlink k).st = (s.xlink k).st := by
  let u := (s.modXlink l (fun x => { x with st := .fenced, lanes := 0, cause := cause, since := s.now })).logLink l
  have hu : u.xlink k = s.xlink k := by
    rw [State.xlink_logLink, State.xlink_modXlink_ne _ _ hk]
  exact hu ▸ ((u.endRemotes_keeps l).1 k).1

section
variable {s : State} {l : Nat} (hactive : (s.xlink l).active = true)
include hactive

theorem gives_linkFenceWrite : gives (.linkFenceWrite l) s (fun t => (t.xlink l).st = .fenced ∧ (t.xlink l).cause = 3 ∧
    (t.xlink l).lanes = 0 ∧ (∃ f, (t.xlink l).wire.getLast? = some (f, f.bytes) ∧ f.type = 4) ∧ ∀ q ∈ t.remotes, q.link ≠ some l) := by
  have hexec : exec (.linkFenceWrite l) s = .next ((s.fenceLink l 3).sendControl l 4) := by
    change execLinkFenceWrite l s = _
    simp [execLinkFenceWrite, hactive]
  obtain ⟨hst, hcause, hlanes, hunused⟩ := linkFencedBy_fenceLink s l 3
  refine gives_of_exec hexec ?_
  rw [State.sendControl, State.xlink_modXlink]
  exact ⟨hst, hcause, hlanes, ⟨_, List.getLast?_concat, rfl⟩, hunused⟩

theorem gives_fenceFlitReceive : gives (.fenceFlitReceive l) s (fun t => (t.xlink l).st = .fenced ∧ (t.xlink l).cause = 2 ∧
    (t.xlink l).lanes = 0 ∧ ∀ q ∈ t.remotes, q.link ≠ some l) := by
  have hexec : exec (.fenceFlitReceive l) s = .next (s.fenceLink l 2) := by
    change execFenceFlitReceive l s = _
    simp [execFenceFlitReceive, hactive]
  obtain ⟨hst, hcause, hlanes, hunused⟩ := linkFencedBy_fenceLink s l 2
  exact gives_of_exec hexec ⟨hst, hcause, hlanes, hunused⟩

end

theorem gives_linkFenced {s : State} {l : Nat} (hst : (s.xlink l).st = .fenced) :
    gives (.linkFenced l) s (fun t => ∀ q ∈ t.remotes, q.link ≠ some l) := by
  have hexec : exec (.linkFenced l) s = .next (s.endRemotes l) := by
    change execLinkFenced l s = _
    simp [execLinkFenced, hst]
  exact gives_of_exec hexec (s.endRemotes_keeps l).2

/-! ## Retries after 1 ms (R393) -/

/-- What becomes of one link when links are looked at again. -/
def State.retryLink (s : State) (l : Nat) : State :=
  if (s.xlink l).st == .down && (s.xlink l).enable && decide ((s.xlink l).since + 1900000 ≤ s.now) then s.trainFromDown l
  else s.trainingOver l

/-- A link that is not TRAINING is left, or begins to train; the others stay as they are. -/
theorem linkOnly_retryLink {s : State} {k : Nat} (h : (s.xlink k).st ≠ .training) : linkOnly s (s.retryLink k) k := by
  unfold State.retryLink
  split
  · exact linkOnly_trainFromDown ..
  · have hstays : s.trainingOver k = s := by simp [State.trainingOver, h]
    rw [hstays]
    exact .refl ..

/-- Links that are not TRAINING leave every other link as it is. -/
theorem State.foldl_retryLink {ks : List Nat} (hnodup : ks.Nodup) {s : State} (hnone : ∀ k ∈ ks, (s.xlink k).st ≠ .training) :
    (∀ k, k ∉ ks → (ks.foldl State.retryLink s).xlink k = s.xlink k) ∧ sameProgram s (ks.foldl State.retryLink s) ∧
      (ks.foldl State.retryLink s).now = s.now := by
  induction ks generalizing s with
  | nil => exact ⟨fun _ _ => rfl, .refl s, rfl⟩
  | cons n ks ih =>
    obtain ⟨hn, hks⟩ := List.nodup_cons.mp hnodup
    have hfirst := linkOnly_retryLink (hnone n List.mem_cons_self)
    have hrest := ih hks (s := s.retryLink n) fun k hk => by
      rw [hfirst.others k fun h => hn (h ▸ hk)]
      exact hnone k (List.mem_cons_of_mem _ hk)
    obtain ⟨hothers, hprogram, hnow⟩ := hrest
    refine ⟨fun k hk => ?_, hfirst.program.trans hprogram, hnow.trans hfirst.now⟩
    obtain ⟨hne, hout⟩ := not_or.mp (List.mem_cons.not.mp hk)
    exact (hothers k hout).trans (hfirst.others k hne)

/-- Link `l` alone may be TRAINING: what becomes of it is what becomes of it in a state that has the link as it was. -/
theorem State.linkDownRetry_of_one {s : State} {l : Nat} (hl : l < 33) (hnone : ∀ k, k ≠ l → (s.xlink k).st ≠ .training) :
    ∃ u, u.xlink l = s.xlink l ∧ sameProgram s u ∧ u.now = s.now ∧ ((∀ k, k ≠ l → ((u.retryLink l).xlink k).st = (u.xlink k).st) →
      ∃ t, exec .linkDownRetry s = .next t ∧ t.xlink l = (u.retryLink l).xlink l ∧ sameProgram (u.retryLink l) t) := by
  obtain ⟨before, after, hrange⟩ := List.append_of_mem (List.mem_range.mpr hl)
  have hnodup : (before ++ l :: after).Nodup := hrange ▸ List.nodup_range
  obtain ⟨hbefore, hlafter, hdisjoint⟩ := List.nodup_append.mp hnodup
  obtain ⟨hl', hafter⟩ := List.nodup_cons.mp hlafter
  have hlbefore : l ∉ before := fun h => hdisjoint l h l List.mem_cons_self rfl
  obtain ⟨hothers, hprogram, hnow⟩ := State.foldl_retryLink hbefore fun k hk => hnone k fun h => hlbefore (h ▸ hk)
  refine ⟨before.foldl State.retryLink s, hothers l hlbefore, hprogram, hnow, fun hkept => ?_⟩
  have hrest := State.foldl_retryLink hafter (s := (before.foldl State.retryLink s).retryLink l) fun k hk => by
    have hkl : k ≠ l := fun h => hl' (h ▸ hk)
    have hkbefore : k ∉ before := fun h => hdisjoint k h k (List.mem_cons_of_mem _ hk) rfl
    rw [hkept k hkl, hothers k hkbefore]
    exact hnone k hkl
  refine ⟨after.foldl State.retryLink ((before.foldl State.retryLink s).retryLink l), ?_, hrest.1 l hl', hrest.2.1⟩
  change Host.Outcome.next ((List.range 33).foldl State.retryLink s) = _
  rw [hrange, List.foldl_append, List.foldl_cons]

section
variable {s : State} {l : Nat} (hl : l < 33) (hnone : ∀ k, k ≠ l → (s.xlink k).st ≠ .training)
  (hdue : (s.xlink l).since + 1900000 ≤ s.now)
include hl hnone hdue

theorem gives_linkDownRetry_trains (hst : (s.xlink l).st = .down) (henable : (s.xlink l).enable = true) :
    gives .linkDownRetry s (fun t => (t.xlink l).st = .training ∧ sameProgram s t) := by
  obtain ⟨u, hlink, hprogram, hnow, hretry⟩ := State.linkDownRetry_of_one hl hnone
  have htrains : u.retryLink l = u.trainFromDown l := by
    rw [State.retryLink, hlink, hnow, hst, henable]
    simp [hdue]
  have hst' : ((u.trainFromDown l).xlink l).st = .training := by
    simp only [State.trainFromDown, hlink, hst, henable, beq_self_eq_true, Bool.and_self, if_true]
    rw [State.xlink_after, State.xlink_modXlink]
  have honly := linkOnly_trainFromDown u l
  rw [htrains] at hretry
  obtain ⟨t, ht, htl, hsame⟩ := hretry fun k hk => by rw [honly.others k hk]
  exact gives_of_exec ht ⟨by rw [htl, hst'], (hprogram.trans honly.program).trans hsame⟩

omit hl hnone in
/-- A link whose training is over. -/
theorem State.retryLink_over {u : State} (hlink : u.xlink l = s.xlink l) (hnow : u.now = s.now) (hst : (s.xlink l).st = .training) :
    u.retryLink l = if (s.xlink l).fromUp then u.fenceLink l 1 else u.linkDown l := by
  have hpast : ¬ s.now < (s.xlink l).since + 1900000 := Nat.not_lt.mpr hdue
  simp only [State.retryLink, State.trainingOver, hlink, hnow, hst]
  simp [hpast]

theorem gives_linkDownRetry_down (hst : (s.xlink l).st = .training) (hfrom : (s.xlink l).fromUp = false) :
    gives .linkDownRetry s (fun t => (t.xlink l).st = .down ∧ (t.xlink l).lanes = 0 ∧ sameProgram s t) := by
  obtain ⟨u, hlink, hprogram, hnow, hretry⟩ := State.linkDownRetry_of_one hl hnone
  have hover := State.retryLink_over hdue hlink hnow hst
  rw [hfrom, if_neg Bool.false_ne_true] at hover
  have honly := linkOnly_linkDown u l
  rw [hover] at hretry
  obtain ⟨t, ht, htl, hsame⟩ := hretry fun k hk => by rw [honly.others k hk]
  rw [State.xlink_linkDown] at htl
  exact gives_of_exec ht ⟨by rw [htl], by rw [htl], (hprogram.trans honly.program).trans hsame⟩

theorem gives_linkDownRetry_fences (hst : (s.xlink l).st = .training) (hfrom : (s.xlink l).fromUp = true) :
    gives .linkDownRetry s (fun t => (t.xlink l).st = .fenced ∧ (t.xlink l).cause = 1) := by
  obtain ⟨u, hlink, -, hnow, hretry⟩ := State.linkDownRetry_of_one hl hnone
  have hover := State.retryLink_over hdue hlink hnow hst
  rw [hfrom, if_pos rfl] at hover
  rw [hover] at hretry
  obtain ⟨t, ht, htl, -⟩ := hretry fun k hk => State.st_fenceLink u l 1 hk
  have hfenced := linkFencedBy_fenceLink u l 1
  exact gives_of_exec ht ⟨by rw [htl, hfenced.st], by rw [htl, hfenced.cause]⟩

end

/-! ## Retraining and its end (R393, R394) -/

theorem State.xlink_at (s : State) (n l : Nat) (i : Instr) : (s.at_ n i).xlink l = s.xlink l := rfl

theorem linkOnly_retrain (s : State) (l : Nat) : linkOnly s (s.retrain l) l := by
  unfold State.retrain
  split
  · exact ((linkOnly_modXlink ..).trans (linkOnly_at ..)).trans (linkOnly_at ..)
  · exact .refl ..

section
variable {s : State} {l : Nat} (h : (s.xlink l).carries = true)
include h

theorem State.xlink_retrain : (s.retrain l).xlink l = { s.xlink l with
    st := .training, since := s.now, fromUp := true, retrains := min 65535 ((s.xlink l).retrains + 1), naks := 0, nakTx := 0 } := by
  rw [State.retrain, if_pos h, State.xlink_at, State.xlink_after, State.xlink_modXlink]

theorem State.awaits_retrain : (s.retrain l).awaits (s.now + 1900000) .linkDownRetry := by
  rw [State.retrain, if_pos h]
  exact (State.awaits_at ..).kept (State.keepsAgenda_at _ _ _)

theorem gives_linkRetrain : gives (.linkRetrain l) s (fun t =>
    (t.xlink l).st = .training ∧ (t.xlink l).fromUp = true ∧ (t.xlink l).retrains = min 65535 ((s.xlink l).retrains + 1) ∧
    (t.xlink l).since = s.now ∧ t.awaits (s.now + 1900000) .linkDownRetry ∧ linkOnly s t l) := by
  have hexec : exec (.linkRetrain l) s = .next (s.retrain l) := rfl
  refine gives_of_exec hexec ?_
  rw [State.xlink_retrain h]
  exact ⟨rfl, rfl, rfl, rfl, State.awaits_retrain h, linkOnly_retrain ..⟩

end

theorem Link.foldl_put (x : Link) (fs : List TxFlit) : fs.foldl Link.put x = { x with wire := x.wire ++ fs.map (fun f => (f, f.bytes)) } := by
  induction fs generalizing x with
  | nil => simp
  | cons f fs ih =>
    rw [List.foldl_cons, ih]
    simp [Link.put]

/-- The flits that a link sends again, with their bytes. -/
def Link.again (x : Link) : List (TxFlit × List Byte) :=
  x.replay.map (fun f => ({ f with ack := x.rxSeq }, { f with ack := x.rxSeq : TxFlit }.bytes))

/-- What a link sends again is on its wire, and nothing else of it changes. -/
theorem Link.resend_eq (x : Link) : x.resend = { x with wire := x.wire ++ x.again } := by
  rw [Link.resend, Link.foldl_put, List.map_map]
  rfl

/-- A link at which nothing waits sends nothing. -/
theorem State.xlink_flushLink_none {s : State} {l : Nat} (h : (s.xlink l).pending = []) : (s.flushLink l).xlink l = s.xlink l := by
  have hsame : ({ s.xlink l with pending := [] } : Link) = s.xlink l := by rw [← h]
  simp only [State.flushLink, h, List.filter_nil, List.length_nil, Link.flush, List.take_nil, List.foldl_nil]
  rw [State.xlink_modXlink, hsame]

/-- The state in which training has ended with lanes enough, before what waits has left. -/
def State.trained (s : State) (l lanes : Nat) : State :=
  s.modXlink l (fun x => { x with
    st := if lanes ≥ linkLanes l then .up else .degraded, lanes := min lanes (linkLanes l), since := s.now, discard := false }.resend)

theorem State.xlink_trained (s : State) (l lanes : Nat) : (s.trained l lanes).xlink l = { s.xlink l with
    st := if lanes ≥ linkLanes l then .up else .degraded, lanes := min lanes (linkLanes l), since := s.now, discard := false
    wire := (s.xlink l).wire ++ (s.xlink l).again } := by
  rw [State.trained, State.xlink_modXlink, Link.resend_eq]
  rfl

section
variable {s : State} {l lanes : Nat} (hst : (s.xlink l).st = .training)
include hst

theorem gives_trainingEnd_up (henough : linkLanes l / 2 ≤ lanes) : gives (.trainingEnd l lanes) s (fun t =>
    (t.xlink l).st = (if linkLanes l ≤ lanes then .up else .degraded) ∧ (t.xlink l).lanes = min lanes (linkLanes l) ∧
    ((s.xlink l).pending = [] → (t.xlink l).replay = (s.xlink l).replay ∧ (t.xlink l).wire = (s.xlink l).wire ++ (s.xlink l).again) ∧
    linkOnly s t l) := by
  have hexec : exec (.trainingEnd l lanes) s = .next ((s.trained l lanes).flushLink l) := by
    change execTrainingEnd l lanes s = _
    simp only [execTrainingEnd, hst, bne_self_eq_false, Bool.false_eq_true, if_false, henough, if_true]
    rfl
  have hlink := s.xlink_trained l lanes
  have honly : linkOnly s ((s.trained l lanes).flushLink l) l := (linkOnly_modXlink ..).trans (linkOnly_flushLink ..)
  obtain ⟨hstands, -, hlanes⟩ := (linksStand_flushLink (s.trained l lanes) l).stands l
  rw [hlink] at hstands hlanes
  refine gives_of_exec hexec ⟨hstands, hlanes, fun hnone => ?_, honly⟩
  have hpending : ((s.trained l lanes).xlink l).pending = [] := by
    rw [hlink]
    exact hnone
  rw [State.xlink_flushLink_none hpending, hlink]
  exact ⟨rfl, rfl⟩

variable (hfew : lanes < linkLanes l / 2) (hdue : (s.xlink l).since + 1900000 ≤ s.now)
include hfew hdue

/-- Training that has found too few lanes in time is over. -/
theorem exec_trainingEnd_over : exec (.trainingEnd l lanes) s =
    .next (if (s.xlink l).fromUp then s.fenceLink l 1 else s.linkDown l) := by
  have hpast : ¬ s.now < (s.xlink l).since + 1900000 := Nat.not_lt.mpr hdue
  change execTrainingEnd l lanes s = _
  simp only [execTrainingEnd, State.trainingOver, hst, bne_self_eq_false, Bool.false_eq_true, if_false, Nat.not_le.mpr hfew]
  simp [hpast]

theorem gives_trainingEnd_down (hfrom : (s.xlink l).fromUp = false) :
    gives (.trainingEnd l lanes) s (fun t => (t.xlink l).st = .down ∧ linkOnly s t l) := by
  have hexec := exec_trainingEnd_over hst hfew hdue
  rw [hfrom, if_neg Bool.false_ne_true] at hexec
  exact gives_of_exec hexec ⟨congrArg Link.st (State.xlink_linkDown ..), linkOnly_linkDown ..⟩

theorem gives_trainingEnd_fences (hfrom : (s.xlink l).fromUp = true) :
    gives (.trainingEnd l lanes) s (fun t => (t.xlink l).st = .fenced ∧ (t.xlink l).cause = 1) := by
  have hexec := exec_trainingEnd_over hst hfew hdue
  rw [hfrom, if_pos rfl] at hexec
  have hfenced := linkFencedBy_fenceLink s l 1
  exact gives_of_exec hexec ⟨hfenced.st, hfenced.cause⟩

end

/-! ## NAKs (R392) -/

/-- The NAKs in a row for one SEQ, with the one that has come. -/
def Link.nakCount (x : Link) (ack : BitVec 12) : Nat := if x.nakSeq == ack.toNat then x.naks + 1 else 1

/-- The state in which a NAK has been counted and what is not acknowledged has left again. -/
def State.nakked (s : State) (l : Nat) (ack : BitVec 12) : State :=
  (s.modXlink l (fun x => x.acked ack.toNat)).modXlink l (fun x =>
    { x with naks := ((s.xlink l).acked ack.toNat).nakCount ack, nakSeq := ack.toNat }.resend)

theorem gives_nakReceive {s : State} {l : Nat} {ack : BitVec 12} (hcarries : (s.xlink l).carries = true)
    (hpending : (s.xlink l).pending = []) (hnone : (s.xlink l).replay.any (fun f => f.seq == ack.toNat) = false) :
    gives (.nakReceive l ack) s (fun t => (t.xlink l).wire = (s.xlink l).wire ++ (s.xlink l).again ∧
      (t.xlink l).replay = (s.xlink l).replay ∧ ((s.xlink l).nakSeq = ack.toNat → 7 ≤ (s.xlink l).naks → (t.xlink l).st = .training) ∧
      ((s.xlink l).nakSeq ≠ ack.toNat → (t.xlink l).naks = 1 ∧ (t.xlink l).st = (s.xlink l).st) ∧ linkOnly s t l) := by
  have hacked : (s.xlink l).acked ack.toNat = s.xlink l := by rw [Link.acked, hnone, if_neg Bool.false_ne_true]
  have hnakked : (s.nakked l ack).xlink l = { s.xlink l with
      naks := (s.xlink l).nakCount ack, nakSeq := ack.toNat, wire := (s.xlink l).wire ++ (s.xlink l).again } := by
    rw [State.nakked, State.xlink_modXlink, State.xlink_modXlink, hacked, Link.resend_eq]
    rfl
  have honly : linkOnly s (s.nakked l ack) l := (linkOnly_modXlink ..).trans (linkOnly_modXlink ..)
  have hexec : exec (.nakReceive l ack) s = .next (if (s.xlink l).nakCount ack ≥ 8 then (s.nakked l ack).retrain l
      else (s.nakked l ack).flushLink l) := by
    change execNakReceive l ack s = _
    unfold execNakReceive
    dsimp only
    rw [hcarries, if_neg (by decide), State.xlink_modXlink]
    rw [State.nakked, hacked]
    rfl
  refine gives_of_exec hexec ?_
  generalize s.nakked l ack = u at *
  have hucarries : (u.xlink l).carries = true := by
    rw [hnakked]
    exact hcarries
  have hupending : (u.xlink l).pending = [] := by
    rw [hnakked]
    exact hpending
  split
  case isTrue height =>
    have hsame (h : (s.xlink l).nakSeq ≠ ack.toNat) : False := by
      rw [Link.nakCount, beq_false_of_ne h, if_neg Bool.false_ne_true] at height
      omega
    rw [State.xlink_retrain hucarries, hnakked]
    exact ⟨rfl, rfl, fun _ _ => rfl, fun h => (hsame h).elim, honly.trans (linkOnly_retrain ..)⟩
  case isFalse hfew =>
    have hother (h : (s.xlink l).nakSeq = ack.toNat) (hseven : 7 ≤ (s.xlink l).naks) : False := by
      rw [Link.nakCount, h, beq_self_eq_true, if_pos rfl] at hfew
      omega
    rw [State.xlink_flushLink_none hupending, hnakked]
    refine ⟨rfl, rfl, fun h hseven => (hother h hseven).elim, fun h => ⟨?_, rfl⟩, honly.trans (linkOnly_flushLink ..)⟩
    rw [Link.nakCount, beq_false_of_ne h, if_neg Bool.false_ne_true]

/-- Settles O47, event by event of a link. -/
theorem statesOfALink : Obligations.StatesOfALink := by
  unfold Obligations.StatesOfALink
  intro s l x again only
  have honly {t : State} (h : linkOnly s t l) : only t := ⟨h.others, h.program⟩
  refine ⟨fun hst => ?enable, ?disable, fun hst => ?reset, fun hl hnone hdue => ⟨?_, ?_, ?_⟩,
    fun hactive => ⟨gives_linkFenceWrite hactive, gives_fenceFlitReceive hactive⟩, fun hst => gives_linkFenced hst, fun hcarries => ?retrain,
    fun lanes hst henough => ?up, fun lanes hst hfew hdue hfrom => ?down,
    fun lanes hst hfew hdue hfrom => gives_trainingEnd_fences hst hfew hdue hfrom, fun ack hcarries hpending hnone => ?nak⟩
  case enable => exact (gives_linkEnable hst).imp fun t ⟨hon, htrains, hsince, hawaits, h⟩ => ⟨hon, htrains, hsince, hawaits, honly h⟩
  case disable =>
    exact (gives_linkDisable s l).imp fun t ⟨hst, hoff, hcause, hreplay, hpending, hlanes, hheld, h⟩ =>
      ⟨hst, hoff, hcause, hreplay, hpending, hlanes, hheld, honly h⟩
  case reset => exact (gives_linkReset hst).imp fun t ⟨hdown, hreplay, hseq, hawaits, h⟩ => ⟨hdown, hreplay, hseq, hawaits, honly h⟩
  · exact fun hst henable => gives_linkDownRetry_trains hl hnone hdue hst henable
  · exact fun hst hfrom => gives_linkDownRetry_down hl hnone hdue hst hfrom
  · exact fun hst hfrom => gives_linkDownRetry_fences hl hnone hdue hst hfrom
  case retrain =>
    exact (gives_linkRetrain hcarries).imp fun t ⟨hst, hfrom, hcount, hsince, hawaits, h⟩ => ⟨hst, hfrom, hcount, hsince, hawaits, honly h⟩
  case up => exact (gives_trainingEnd_up hst henough).imp fun t ⟨hup, hlanes, hsent, h⟩ => ⟨hup, hlanes, hsent, honly h⟩
  case down => exact (gives_trainingEnd_down hst hfew hdue hfrom).imp fun t ⟨hdown, h⟩ => ⟨hdown, honly h⟩
  case nak =>
    exact (gives_nakReceive hcarries hpending hnone).imp fun t ⟨hwire, hreplay, height, hfirst, h⟩ => ⟨hwire, hreplay, height, hfirst, honly h⟩

end Sys2Proof.Machine
end

section
/-! SUPPORT. Registers, full bits and memory as the crest cores and the control node access them (R351, R397, R413, R416, Tables 18-4 and
18-6). Settles O50. -/

namespace Sys2Proof.Machine

/-! ## Writes of a register (R413, Table 18-4) -/

theorem exec_registerWrite_refused {a : Agent} {o : Nat} (hmay : a.may o = false) (v : Word) (s : State) :
    exec (.registerWrite a o v) s = .next s := by
  change execRegisterWrite a o v s = _
  simp only [execRegisterWrite, State.regWrite, hmay, Bool.not_false, if_true, Option.getD_none]

/-- A die held in reset ignores writes (R435). -/
theorem exec_registerWrite_held {s : State} {o : Nat} (hup : s.regUp o = false) (a : Agent) (v : Word) :
    exec (.registerWrite a o v) s = .next s := by
  change execRegisterWrite a o v s = _
  simp only [execRegisterWrite, State.regWrite, hup, Bool.not_false, if_true]
  split <;> rfl

theorem exec_registerWrite {s : State} {a : Agent} {o : Nat} (hmay : a.may o = true) (hup : s.regUp o = true) (v : Word) :
    exec (.registerWrite a o v) s = .next (s.setReg a (regAt o) v) := by
  change execRegisterWrite a o v s = _
  simp only [execRegisterWrite, State.regWrite, hmay, hup, Bool.not_true, Bool.false_eq_true, if_false, Option.getD_some]

/-- A write that is allowed gives what the register does with it. -/
theorem gives_registerWrite {s : State} {a : Agent} {o : Nat} (hmay : a.may o = true) (hup : s.regUp o = true) {v : Word} {r : PReg}
    (hreg : regAt o = r) {p : State → Prop} (hp : p (s.setReg a r v)) : gives (.registerWrite a o v) s p :=
  gives_of_exec (exec_registerWrite hmay hup v) (hreg ▸ hp)

theorem State.cport_modCport (s : State) (d p : Nat) (f : CPort → CPort) : (s.modCport d p f).cport d p = f (s.cport d p) :=
  tget_tput_same ..

theorem State.issue_eq {s : State} {d p : Nat} {v : Word} {c : Cmd}
    (hc : c = ⟨d, p, (s.cport d p).action.setWidth 32, (s.cport d p).action.extractLsb' 32 32, (s.cport d p).addr, v⟩) {i : Instr}
    (hi : cmdInstr c = some i) : s.issue d p v =
      (s.modCport d p (fun x => { x with last := max (s.now + (6 + 24 * s.cmdCross c)) (s.cport d p).last })).at_
        (max (s.now + (6 + 24 * s.cmdCross c)) (s.cport d p).last) i := by
  subst hc
  simp only [State.issue, hi]

/-- A command that is issued awaits its turn at its port, and changes nothing that programs read (R279). -/
theorem State.issue_awaits {s : State} {d p : Nat} {v : Word} {c : Cmd}
    (hc : c = ⟨d, p, (s.cport d p).action.setWidth 32, (s.cport d p).action.extractLsb' 32 32, (s.cport d p).addr, v⟩) {i : Instr}
    (hi : cmdInstr c = some i) :
    (s.issue d p v).awaits (max (s.now + (6 + 24 * s.cmdCross c)) (s.cport d p).last) i ∧ sameProgram s (s.issue d p v) ∧
      s.keepsAgenda (s.issue d p v) := by
  rw [State.issue_eq hc hi]
  exact ⟨State.awaits_at .., sameProgram.refl s, State.keepsAgenda_at (s.modCport d p _) _ _⟩

/-! ## Signals (Table 18-4) -/

theorem elemReg_ne_signal (ea o n : Nat) : elemReg ea o ≠ .signal n := by
  unfold elemReg
  split
  · split <;> simp
  · split_ifs <;> simp

theorem tileReg_ne_signal (tile o n : Nat) : tileReg tile o ≠ .signal n := by
  unfold tileReg
  split_ifs
  · simp
  · simp
  · exact elemReg_ne_signal _ _ _
  · simp

theorem moduleReg_ne_signal (o n : Nat) : moduleReg o ≠ .signal n := by
  unfold moduleReg
  split_ifs <;> simp

theorem baseReg_ne_signal (k o n : Nat) : baseReg k o ≠ .signal n := by
  unfold baseReg
  split_ifs <;> simp

/-- The signals of a die block are 512 of its die. -/
theorem dieReg_signal {d o n : Nat} (h : dieReg d o = .signal n) : n / 512 = d := by
  unfold dieReg at h
  split at h
  · simp at h
  split at h
  · dsimp only at h
    split at h
    · simp at h
    · simp at h
    · split at h <;> simp at h
  split at h
  · split at h <;> simp at h
  split at h
  · rename_i hrange
    simp only [Bool.and_eq_true, decide_eq_true_eq] at hrange
    rw [← PReg.signal.inj h]
    omega
  split at h
  · dsimp only at h
    split_ifs at h
  split at h
  · exact absurd h (tileReg_ne_signal _ _ _)
  · split at h <;> simp at h

/-- A signal stands in the block of its die. -/
theorem regAt_signal {o n : Nat} (h : regAt o = .signal n) : o / 2 ^ 32 < 8 ∧ n / 512 = o / 2 ^ 32 := by
  unfold regAt at h
  dsimp only at h
  split at h
  · rename_i hblock
    exact ⟨hblock, dieReg_signal h⟩
  · split at h
    · exact absurd h (moduleReg_ne_signal _ _)
    · split at h
      · exact absurd h (baseReg_ne_signal _ _ _)
      · simp at h

/-- The die of a signal whose register is in service is released. -/
theorem State.dieUp_of_regUp_signal {s : State} {o n : Nat} (hreg : regAt o = .signal n) (hup : s.regUp o = true) :
    s.dieUp (n / 512) = true := by
  obtain ⟨hblock, hdie⟩ := regAt_signal hreg
  have hregDie : regDie o = some (o / 2 ^ 32) := by simp only [regDie, hreg, hblock, if_true]
  rw [hdie]
  simpa only [State.regUp, hregDie, Option.all_some] using hup

theorem State.signal_setReg {s : State} {n : Nat} (hup : s.dieUp (n / 512) = true) (a : Agent) (v : Word) :
    (s.setReg a (.signal n) v).signal n = v.setWidth 32 := by
  change (if s.dieUp (n / 512) then tget 0 n (tput 0 n (v.setWidth 32) s.signals) else 0) = _
  rw [if_pos hup, tget_tput_same]

theorem State.signal_setReg_ne (s : State) (a : Agent) {n x : Nat} (v : Word) (hx : x ≠ n) :
    (s.setReg a (.signal n) v).signal x = s.signal x := by
  change (if s.dieUp (x / 512) then tget 0 x (tput 0 n (v.setWidth 32) s.signals) else 0) = _
  rw [tget_tput_ne _ _ _ _ _ hx]
  rfl

/-! ## Contexts (Table 18-6, R416) -/

/-- What a write of CCTL makes of a context. -/
def Ctx.resumed (c : Ctx) (v : Word) : Ctx :=
  { c with st := if v.getLsbD 3 && c.st == .halted then .running else c.st, skipbrk := v.getLsbD 4 }

theorem exec_cctlResume (ea c : Nat) (v : Word) (s : State) :
    exec (.cctlResume ea c v) s = .next (s.modCtx ea c (fun x => x.resumed v)) := rfl

theorem gives_svcReplyWrite {s : State} {ea c : Nat} (hsvc : (s.ctx ea c).svc.isSome = true) (hfirst : s.svcAnswered ea c = false)
    (v : Word) (die : Nat) : gives (.svcReplyWrite ea c v die) s (fun t =>
      t.awaits (s.now + (6 + 24 * dieDist die (eaDie ea))) (.svcReplyDelivery ea c v) ∧ t = { s with agenda := t.agenda } ∧
      s.keepsAgenda t) := by
  have hopen : ((s.ctx ea c).svc.isNone || s.svcAnswered ea c) = false := by
    rw [hfirst, Bool.or_false, ← Option.not_isSome, hsvc]
    rfl
  have hexec : exec (.svcReplyWrite ea c v die) s = .next (s.after (6 + 24 * dieDist die (eaDie ea)) (.svcReplyDelivery ea c v)) := by
    change execSvcReplyWrite ea c v die s = _
    simp only [execSvcReplyWrite, hopen, Bool.false_eq_true, if_false]
  exact gives_of_exec hexec ⟨State.awaits_at .., rfl, State.keepsAgenda_at _ _ _⟩

theorem exec_svcReplyWrite_none {s : State} {ea c : Nat} (hsvc : (s.ctx ea c).svc = none) (v : Word) (die : Nat) :
    exec (.svcReplyWrite ea c v die) s = .next s := by
  change execSvcReplyWrite ea c v die s = _
  simp only [execSvcReplyWrite, hsvc, Option.isNone_none, Bool.true_or, if_true]

/-! ## The status register (R279) -/

/-- The first of a list of statuses, none of which came before it, comes out first. -/
theorem firstOf_head {r : Nat × Word} {l : List (Nat × Word)} (h : ∀ x ∈ l, r.1 ≤ x.1) :
    l.foldl (fun b x => if x.1 < b.1 then x else b) r = r := by
  induction l with
  | nil => rfl
  | cons x l ih =>
    rw [List.foldl_cons, if_neg (Nat.not_lt.mpr (h x (.head _)))]
    exact ih fun y hy => h y (.tail _ hy)

theorem State.firstStatus_head {s : State} {d p : Nat} {r : Nat × Word} {rest : List (Nat × Word)}
    (hreplies : (s.cport d p).replies = r :: rest) (hthere : r.1 ≤ s.now) (hfirst : ∀ x ∈ rest, r.1 ≤ x.1) :
    s.firstStatus d p = some r := by
  have hstatuses : s.statuses d p = r :: rest.filter (fun x => x.1 ≤ s.now) := by
    rw [State.statuses, hreplies, List.filter_cons_of_pos (by simpa using hthere)]
  simp only [State.firstStatus, hstatuses]
  rw [firstOf_head fun x hx => hfirst x (List.mem_filter.mp hx).1]

theorem State.firstStatus_none {s : State} {d p : Nat} (h : ∀ x ∈ (s.cport d p).replies, s.now < x.1) : s.firstStatus d p = none := by
  have hstatuses : s.statuses d p = [] :=
    List.filter_eq_nil_iff.mpr fun x hx => by simpa using h x hx
  simp only [State.firstStatus, hstatuses]

theorem gives_commandStatusPop {s : State} {d p : Nat} {r : Nat × Word} {rest : List (Nat × Word)}
    (hreplies : (s.cport d p).replies = r :: rest) (hthere : r.1 ≤ s.now) (hfirst : ∀ x ∈ rest, r.1 ≤ x.1) :
    gives (.commandStatusPop d p) s (fun t => (t.cport d p).replies = rest ∧ (t.cport d p).action = (s.cport d p).action ∧
      s.regValue (.command d p 3) = r.2 ∧ t = { s with cports := t.cports }) := by
  have hstatus := State.firstStatus_head hreplies hthere hfirst
  have hexec : exec (.commandStatusPop d p) s = .next (s.modCport d p (fun x => { x with replies := x.replies.erase r })) := by
    change execCommandStatusPop d p s = _
    simp only [execCommandStatusPop, hstatus]
  have hvalue : s.regValue (.command d p 3) = r.2 := by
    simp only [State.regValue, hstatus, Option.map_some, Option.getD_some]
  refine gives_of_exec hexec ⟨?_, ?_, hvalue, rfl⟩
  · rw [State.cport_modCport, hreplies, List.erase_cons_head]
  · rw [State.cport_modCport]

theorem exec_commandStatusPop_empty {s : State} {d p : Nat} (h : ∀ x ∈ (s.cport d p).replies, s.now < x.1) :
    exec (.commandStatusPop d p) s = .next s := by
  change execCommandStatusPop d p s = _
  simp only [execCommandStatusPop, State.firstStatus_none h]

/-! ## Full bits (R351, Table 18-4) -/

theorem exec_fullBitSet (k u : Nat) (s : State) : exec (.fullBitSet k u) s =
    .next (if s.isFull (k * 2 ^ 33 + u) then s else (s.setFull (k * 2 ^ 33 + u) true).feRelease (k * 2 ^ 33 + u)) := rfl

theorem exec_fullBitClear (k u : Nat) (s : State) : exec (.fullBitClear k u) s =
    .next (if s.isFull (k * 2 ^ 33 + u) then (s.setFull (k * 2 ^ 33 + u) false).feRelease (k * 2 ^ 33 + u) else s) := rfl

/-- A unit at which no request is deferred releases none. -/
theorem State.feRelease_of_noneDeferred {s : State} {u : Nat} (h : ∀ q ∈ s.defers, unitOf (q.pa % 2 ^ 44) ≠ u) : s.feRelease u = s := by
  have hnone (stf : Bool) : s.deferred u stf = none :=
    List.find?_eq_none.mpr fun q hq => by simp only [beq_false_of_ne (h q hq), Bool.false_and, Bool.false_eq_true, not_false_eq_true]
  simp only [State.feRelease, hnone]

/-- The full bit of one unit has the value `full`, and nothing else has changed. -/
def fullBitIs (s t : State) (u : Nat) (full : Bool) : Prop :=
  t.isFull u = full ∧ (∀ x, x ≠ u → t.isFull x = s.isFull x) ∧ t = { s with full := t.full }

theorem fullBitIs_setFull (s : State) (u : Nat) (full : Bool) : fullBitIs s (s.setFull u full) u full :=
  ⟨by rw [State.isFull_setFull, if_pos rfl], fun x hx => by rw [State.isFull_setFull, if_neg hx], by cases full <;> rfl⟩

theorem fullBitIs_already {s : State} {u : Nat} {full : Bool} (h : s.isFull u = full) : fullBitIs s s u full :=
  ⟨h, fun _ _ => rfl, rfl⟩

section
variable {s : State} {k u : Nat}

theorem gives_fullBitSet (h : ∀ q ∈ s.defers, unitOf (q.pa % 2 ^ 44) ≠ k * 2 ^ 33 + u) :
    gives (.fullBitSet k u) s (fun t => fullBitIs s t (k * 2 ^ 33 + u) true) := by
  refine gives_of_exec (exec_fullBitSet k u s) ?_
  by_cases hfull : s.isFull (k * 2 ^ 33 + u) = true
  · rw [if_pos hfull]
    exact fullBitIs_already hfull
  · rw [if_neg hfull, State.feRelease_of_noneDeferred (by exact h)]
    exact fullBitIs_setFull ..

theorem gives_fullBitClear (h : ∀ q ∈ s.defers, unitOf (q.pa % 2 ^ 44) ≠ k * 2 ^ 33 + u) :
    gives (.fullBitClear k u) s (fun t => fullBitIs s t (k * 2 ^ 33 + u) false) := by
  refine gives_of_exec (exec_fullBitClear k u s) ?_
  by_cases hfull : s.isFull (k * 2 ^ 33 + u) = true
  · rw [if_pos hfull, State.feRelease_of_noneDeferred (by exact h)]
    exact fullBitIs_setFull ..
  · rw [if_neg hfull]
    exact fullBitIs_already (Bool.eq_false_iff.mpr hfull)

variable {r : MReq}

/-- A request found deferred is of the kind looked for. -/
theorem State.deferred_kind {stf : Bool} {v : Nat} (h : s.deferred v stf = some r) : feIsStf r = stf := by
  have hfound := List.find?_some h
  simp only [Bool.and_eq_true, beq_iff_eq] at hfound
  exact hfound.1.2

theorem State.deferred_setFull (s : State) (v w : Nat) (full stf : Bool) : (s.setFull v full).deferred w stf = s.deferred w stf := rfl

/-- A full bit that is written 1 releases the oldest lde that is deferred there, which empties the unit again. -/
theorem State.feRelease_lde {v : Nat} (hr : s.deferred v false = some r) (hunit : unitOf (r.pa % 2 ^ 44) = v) :
    (s.setFull v true).feRelease v = ((((s.setFull v true).undefer r).setFull v false).complete r (s.read64 (r.pa % 2 ^ 44))
      (r.pzn || s.poisoned v) (replyDelay s.module r)) := by
  have hfull : (s.setFull v true).isFull v = true := by rw [State.isFull_setFull, if_pos rfl]
  simp only [State.feRelease, hfull, Bool.not_true, State.deferred_setFull, hr, State.deferred_kind hr, Bool.false_eq_true, if_false]
  rw [State.doLde, hunit]
  rfl

/-- A full bit that is written 0 releases the oldest stf that is deferred there, which fills the unit again. -/
theorem State.feRelease_stf {v : Nat} (hr : s.deferred v true = some r) (hacc : r.acc = .stf) :
    (s.setFull v false).feRelease v = (((s.setFull v false).undefer r).filled (r.pa % 2 ^ 44) r.v1).complete r 0 false
      (replyDelay s.module r) := by
  have hempty : (s.setFull v false).isFull v = false := by rw [State.isFull_setFull, if_pos rfl]
  obtain ⟨-, -, -, hmodule⟩ := ((s.setFull v false).undefer r).filled_memoryOnly (r.pa % 2 ^ 44) r.v1
  have hsame : ((s.setFull v false).undefer r).module = s.module := rfl
  simp only [State.feRelease, hempty, Bool.not_false, State.deferred_setFull, hr, State.deferred_kind hr, if_true]
  rw [← hsame, ← hmodule]
  simp only [State.doStf, hacc]
  rfl

section
variable (hunit : unitOf (r.pa % 2 ^ 44) = k * 2 ^ 33 + u) (hwho : r.who = .firing) (hout : r.out < localOut)
include hunit hwho hout

theorem gives_fullBitSet_lde (hr : s.deferred (k * 2 ^ 33 + u) false = some r) (hendp : r.endp = 0x82)
    (hempty : s.isFull (k * 2 ^ 33 + u) = false) : gives (.fullBitSet k u) s (fun t => t.isFull (k * 2 ^ 33 + u) = false ∧
      (∀ y, t.readByte y = s.readByte y) ∧ (r.ren = true → t.awaits (s.now + replyDelay s.module r)
        (.replyArrival r (s.read64 (r.pa % 2 ^ 44)) (r.pzn || s.poisoned (k * 2 ^ 33 + u))))) := by
  refine gives_of_exec (exec_fullBitSet k u s) ?_
  rw [if_neg (Bool.eq_false_iff.mp hempty)]
  generalize k * 2 ^ 33 + u = v at *
  rw [State.feRelease_lde hr hunit]
  let e := ((s.setFull v true).undefer r).setFull v false
  have hdone := servedFrame_complete e hwho (s.read64 (r.pa % 2 ^ 44)) (r.pzn || s.poisoned v) (replyDelay s.module r)
  refine ⟨?_, hdone.readByte, fun hren => State.complete_replies e hwho hout hendp hren ..⟩
  rw [hdone.isFull, State.isFull_setFull, if_pos rfl]

theorem gives_fullBitClear_stf (hr : s.deferred (k * 2 ^ 33 + u) true = some r) (hacc : r.acc = .stf)
    (hfull : s.isFull (k * 2 ^ 33 + u) = true) : gives (.fullBitClear k u) s (fun t => t.isFull (k * 2 ^ 33 + u) = true ∧
      t.poisoned (k * 2 ^ 33 + u) = false ∧
      (∀ y, t.readByte y = if r.pa % 2 ^ 44 ≤ y ∧ y < r.pa % 2 ^ 44 + 8 then BitVec.ofNat 8 (r.v1.toNat / 256 ^ (y - r.pa % 2 ^ 44))
        else s.readByte y) ∧ t.awaits (s.now + replyDelay s.module r) (.ackArrival r)) := by
  refine gives_of_exec (exec_fullBitClear k u s) ?_
  rw [if_pos hfull]
  generalize k * 2 ^ 33 + u = v at *
  rw [State.feRelease_stf hr hacc]
  let e := (s.setFull v false).undefer r
  have hdone := servedFrame_complete (e.filled (r.pa % 2 ^ 44) r.v1) hwho 0 false (replyDelay s.module r)
  have hack := State.complete_acks (e.filled (r.pa % 2 ^ 44) r.v1) hwho hout 0 false (replyDelay s.module r)
  obtain ⟨-, -, hnow, -⟩ := e.filled_memoryOnly (r.pa % 2 ^ 44) r.v1
  have hthen : (e.filled (r.pa % 2 ^ 44) r.v1).now = s.now := hnow
  refine ⟨?_, ?_, fun y => (hdone.readByte y).trans (State.readByte_filled e ..), hthen ▸ hack⟩
  · rw [hdone.isFull, State.isFull_filled, if_pos hunit.symm]
  · rw [hdone.poisoned, State.poisoned_filled, if_pos hunit.symm]

end

end

/-! ## Accesses of a crest core to the local address space (R21, R23, R401) -/

/-- The request of a crest core's own access of 8 bytes. -/
def crestReq (s : State) (k a : Nat) (write : Bool) (v : Word) : MReq :=
  { MReq.zero with
    grp := 65536, who := .core k, acc := if write then .st else .ld, out := localOut
    endp := if regionOf a == .window then 0x81 else 0x82
    addr := BitVec.ofNat 64 a, pa := s.module * 2 ^ 44 + a, sz := 3, v1 := v, stage := 1 }

theorem State.windowAccess_own (s : State) (k a : Nat) (write : Bool) (v : Word) :
    s.windowAccess k a 8 (if write then .st else .ld) v none =
      s.bankEnter a (enginePort a) (.requestPerform (crestReq s k a write v)) none := rfl

theorem regionOf_small {a : Nat} (h : regionOf a = .hbm ∨ regionOf a = .capacity ∨ regionOf a = .window) : a < 2 ^ 44 := by
  by_contra hbig
  have hhole : regionOf a = .hole := by
    simp only [regionOf]
    rw [if_neg (by omega), if_neg (by omega), if_neg (by omega), if_neg (by omega), if_neg (by omega), if_neg (by omega)]
  rw [hhole] at h
  simp at h

section
variable {s : State} {die core addr : Nat}

/-- A core that is out of service, a place that is a hole, and a store to capacity memory: nothing is performed. -/
theorem exec_crestCoreAccess_nothing {write : Bool}
    (h : s.coreUp (coreId die core) = false ∨ regionOf addr = .hole ∨ regionOf addr = .capacity ∧ write = true) (b : List Byte) :
    exec (.crestCoreAccess die core write addr b) s = .next s := by
  change execCrestCoreAccess die core write addr b s = _
  simp only [execCrestCoreAccess]
  rcases h with hup | hhole | ⟨hcap, rfl⟩
  · simp only [hup, Bool.not_false, Bool.true_or, if_true]
  · simp only [hhole, ite_self]
  · simp only [hcap, beq_self_eq_true, Bool.true_or, Bool.and_true, Bool.or_true, if_true, ite_self]

/-- A store through a window that aims at a busy place performs nothing (R23). -/
theorem exec_crestCoreAccess_busy (hregion : regionOf addr = .window) (hbusy : s.windowBusy addr = true) (b : List Byte) :
    exec (.crestCoreAccess die core true addr b) s = .next s := by
  change execCrestCoreAccess die core true addr b s = _
  simp only [execCrestCoreAccess, hregion, hbusy, beq_self_eq_true, Bool.and_true, Bool.or_true, if_true, ite_self]

variable {b : List Byte} (hup : s.coreUp (coreId die core) = true) (hlen : b.length = 8) (hfits : addr % 8 = 0)
include hup hlen hfits

/-- A core's write of 8 bytes in the register space is a write of that register. -/
theorem exec_crestCoreAccess_register (hregion : regionOf addr = .regs) : exec (.crestCoreAccess die core true addr b) s =
    exec (.registerWrite (.crest die core) (addr - 0xF0000000000) (BitVec.ofNat 64 (leNat b))) s := by
  change execCrestCoreAccess die core true addr b s = execRegisterWrite _ _ _ s
  simp [execCrestCoreAccess, execRegisterWrite, hup, hlen, hfits, hregion]

/-- An aligned access of 8 bytes to memory, or to a window, goes to the queue of its home. -/
theorem exec_crestCoreAccess_memory {write : Bool} (hregion : regionOf addr = .hbm ∨ regionOf addr = .capacity ∧ write = false ∨
      regionOf addr = .window ∧ (write = true → s.windowBusy addr = false)) (hview : s.viewFault die addr = false) :
    exec (.crestCoreAccess die core write addr b) s = .next (s.bankEnter addr (enginePort addr)
      (.requestPerform (crestReq s (coreId die core) addr write (BitVec.ofNat 64 (leNat b)))) none) := by
  rw [← State.windowAccess_own]
  change execCrestCoreAccess die core write addr b s = _
  rcases hregion with hhbm | ⟨hcap, rfl⟩ | ⟨hwindow, hbusy⟩
  · simp [execCrestCoreAccess, hup, hlen, hfits, hhbm, hview]
  · simp [execCrestCoreAccess, hup, hlen, hfits, hcap, hview]
  · cases write with
    | true => simp [execCrestCoreAccess, hup, hlen, hfits, hwindow, hview, hbusy rfl]
    | false => simp [execCrestCoreAccess, hup, hlen, hfits, hwindow, hview]

theorem gives_crestCoreAccess {write : Bool} (hregion : regionOf addr = .hbm ∨ regionOf addr = .capacity ∧ write = false ∨
      regionOf addr = .window ∧ (write = true → s.windowBusy addr = false)) (hview : s.viewFault die addr = false) :
    gives (.crestCoreAccess die core write addr b) s (fun t => (∃ q ∈ (t.bank (bankOf addr)).q, q.port = enginePort addr ∧ ∃ r : MReq,
        q.instr = .requestPerform r ∧ r.acc = (if write then .st else .ld) ∧ r.pa % 2 ^ 44 = addr ∧ r.sz = 3 ∧
        r.who = .core (coreId die core) ∧ r.slot = 0 ∧ r.v1 = BitVec.ofNat 64 (leNat b)) ∧
      (∀ x, x ≠ bankOf addr → t.bank x = s.bank x) ∧ t = { s with banks := t.banks, agenda := t.agenda }) := by
  have hsmall : addr < 2 ^ 44 := regionOf_small (by
    rcases hregion with h | ⟨h, -⟩ | ⟨h, -⟩
    · exact .inl h
    · exact .inr (.inl h)
    · exact .inr (.inr h))
  have hplace : (s.module * 2 ^ 44 + addr) % 2 ^ 44 = addr := by omega
  refine gives_of_exec (exec_crestCoreAccess_memory hup hlen hfits hregion hview) ⟨?_, fun x hx => ?_, ?_⟩
  · rw [State.bank_bankEnter, if_pos rfl]
    exact ⟨_, List.mem_append_right _ (.head _), rfl, _, rfl, rfl, hplace, rfl, rfl, rfl, rfl⟩
  · rw [State.bank_bankEnter, if_neg hx]
  · simp only [State.bankEnter, State.creditBack, ite_self]
    rfl

end

/-! ## The service of a crest core's access (R229, R410) -/

/-- At its home, a crest core's access of 8 bytes to HBM is performed, and where no request is deferred its service is over. -/
theorem State.coreAccess_served {s u : State} {r : MReq} {k : Nat} {v : Word} {p : Bool} (hwho : r.who = .core k)
    (hstage : r.stage = 1) (hsz : r.sz = 3) (hpar : r.parity = false) (halign : r.pa % 2 ^ 44 % 8 = 0)
    (hregion : regionOf (r.pa % 2 ^ 44) = .hbm) (hoff : s.offHome r = none) (hacc : r.acc = .st ∨ r.acc = .ld)
    (hdefers : u.defers = []) (h : s.access r.acc (r.pa % 2 ^ 44) 3 r.sx r.aop r.v1 r.v2 r.pzn = some (u, v, p)) :
    exec (.requestPerform r) s = .next ((u.progress r.grp r.ea).coreServed k r v) := by
  have hone : s.performOne r = (u.progress r.grp r.ea).coreServed k r v := by
    have hlocal : u.localPoison r p = u := by simp [State.localPoison, hwho]
    simp only [State.performOne, hsz, h]
    rw [hlocal]
    simp [State.complete, hwho]
  have hnow : s.performNow r = (s.performOne r).feSettle (r.pa % 2 ^ 44) (unitsAt (r.pa % 2 ^ 44) (1 * 2 ^ 3)) := by
    have hcopy : remoteCopyReq r = false := beq_false_of_ne (by omega)
    have hcap : (Region.hbm == Region.capacity) = false := rfl
    simp only [State.performNow, hoff, hregion, hcap, Bool.and_false, Bool.false_eq_true, if_false, hpar, Bool.false_and, hcopy, hwho,
      hsz]
    rcases hacc with h | h <;> simp [h]
  have hevent : exec (.requestPerform r) s = .next (s.performNow r) := by
    simp [exec_requestPerform, execRequestPerform, isFlow, hwho, hstage]
  have hover : ((u.progress r.grp r.ea).coreServed k r v).defers = [] := by
    rw [State.coreServed]
    split
    · exact hdefers
    · exact hdefers
  rw [hevent, hnow, unitsAt_aligned (Nat.le_refl 3) halign, hone, State.feSettle_of_no_defers (by rw [hover]; simp)]

/-- A piece of a message is noted with what it read. -/
def pieceNoted (s t : State) (k : Nat) (r : MReq) (w : Word) : Prop :=
  r.slot ≠ 0 → (t.core k).left = (s.core k).left - 1 ∧ tget 0 r.ctx (t.core k).got = w

theorem State.pieceNoted_coreServed {s u : State} {k : Nat} (hcore : u.core k = s.core k) (r : MReq) (v : Word) :
    pieceNoted s (u.coreServed k r v) k r v := by
  intro hpiece
  rw [State.coreServed, if_neg (by simpa using hpiece), State.core_modCore, hcore]
  exact ⟨rfl, tget_tput_same ..⟩

/-- The memory, the contexts and the full bits do not hang on what a core has noted. -/
theorem servedFrame_coreServed (s : State) (k : Nat) (r : MReq) (v : Word) : servedFrame s (s.coreServed k r v) := by
  rw [State.coreServed]
  split
  · exact .refl s
  · exact ⟨rfl, rfl, rfl, rfl, rfl, rfl, fun _ _ => rfl, fun _ h => h⟩

section
variable {s : State} {r : MReq} {k : Nat} (hwho : r.who = .core k) (hstage : r.stage = 1) (hsz : r.sz = 3)
  (hpar : r.parity = false) (halign : r.pa % 2 ^ 44 % 8 = 0) (hregion : regionOf (r.pa % 2 ^ 44) = .hbm)
  (hoff : s.offHome r = none) (hinjs : s.injs = []) (hdefers : s.defers = [])
include hwho hstage hsz hpar halign hregion hoff hinjs hdefers

/-- A crest core's store of 8 bytes writes its unit, and clears its mark. -/
theorem gives_requestPerform_core_st (hacc : r.acc = .st) : gives (.requestPerform r) s (fun t =>
    t.poisoned (unitOf (r.pa % 2 ^ 44)) = false ∧ (∀ u, u ≠ unitOf (r.pa % 2 ^ 44) → t.poisoned u = s.poisoned u) ∧
    (∀ y, t.readByte y = if r.pa % 2 ^ 44 ≤ y ∧ y < r.pa % 2 ^ 44 + 8 then BitVec.ofNat 8 (r.v1.toNat / 256 ^ (y - r.pa % 2 ^ 44))
      else s.readByte y) ∧ pieceNoted s t k r 0) := by
  have hstored := memoryOnly_storeUnit s (r.pa % 2 ^ 44) r.v1
  have hpoison := fun u => s.poisoned_storeUnit (r.pa % 2 ^ 44) u r.v1
  have hbytes := writesBytes_storeUnit s (r.pa % 2 ^ 44) r.v1
  have haccess := State.access_st_unit hinjs (r.pa % 2 ^ 44) r.sx r.aop r.v1 r.v2 r.pzn
  generalize s.storeUnit (r.pa % 2 ^ 44) r.v1 = u at hstored hpoison hbytes haccess
  have hkept : u.defers = [] ∧ u.cores = s.cores := by
    unfold memoryOnly at hstored
    rw [hstored]
    exact ⟨hdefers, rfl⟩
  refine gives_of_exec (State.coreAccess_served hwho hstage hsz hpar halign hregion hoff (.inl hacc) hkept.1 (hacc ▸ haccess)) ?_
  have hserved := (servedFrame_progress u r.grp r.ea u.now).trans (servedFrame_coreServed (u.progress r.grp r.ea) k r 0)
  have hcore : (u.progress r.grp r.ea).core k = s.core k := congrArg (tget _ k) hkept.2
  refine ⟨?_, fun x hx => ?_, fun y => (hserved.readByte y).trans (hbytes y), State.pieceNoted_coreServed hcore r 0⟩
  · rw [hserved.poisoned, hpoison]
    simp
  · rw [hserved.poisoned, hpoison]
    rw [bne_iff_ne.mpr hx, Bool.and_true]

/-- A crest core's load of 8 bytes returns them, and changes nothing that programs read. -/
theorem gives_requestPerform_core_ld (hacc : r.acc = .ld) (hsx : r.sx = false) : gives (.requestPerform r) s (fun t =>
    pieceNoted s t k r (s.read64 (r.pa % 2 ^ 44)) ∧ sameProgram s t) := by
  have haccess : s.access r.acc (r.pa % 2 ^ 44) 3 r.sx r.aop r.v1 r.v2 r.pzn =
      some (s, s.read64 (r.pa % 2 ^ 44), r.pzn || s.poisoned (unitOf (r.pa % 2 ^ 44))) := by
    rw [hacc, hsx, State.access_ld hinjs]
    rfl
  refine gives_of_exec (State.coreAccess_served hwho hstage hsz hpar halign hregion hoff (.inr hacc) hdefers haccess)
    ⟨State.pieceNoted_coreServed (by exact rfl) r _, ?_⟩
  exact ((servedFrame_progress s r.grp r.ea s.now).trans (servedFrame_coreServed ..)).sameProgram

end

/-! ## The obligation -/

/-- Settles O50: what a register makes of a write, what a full bit releases, and what a crest core's access finds at its home. -/
theorem accessesOfTheCrestCores : Obligations.AccessesOfTheCrestCores := by
  unfold Obligations.AccessesOfTheCrestCores
  intro s a o v wr
  refine ⟨fun hmay => exec_registerWrite_refused hmay v s, fun hup => exec_registerWrite_held hup a v, fun n hreg hmay hup => ?_,
    fun n hreg hmay hup => ?_, fun d p hreg hmay hup => ?_, fun d p hreg hmay hup => ?_, fun d p i hreg hmay hup => ?_,
    fun ea c => ?_, fun ea c die hsvc hfirst => gives_svcReplyWrite hsvc hfirst v die,
    fun ea c die hsvc => exec_svcReplyWrite_none hsvc v die, fun d p r rest => gives_commandStatusPop,
    fun d p => exec_commandStatusPop_empty, fun k u h => ⟨gives_fullBitSet h, gives_fullBitClear h⟩,
    fun k u r hr hendp hempty hunit hwho hout => gives_fullBitSet_lde hunit hwho hout hr hendp hempty,
    fun k u r hr hacc hendp hfull hunit hwho hout => gives_fullBitClear_stf hunit hwho hout hr hacc hfull,
    fun die core addr b write hup hlen hfits => gives_crestCoreAccess hup hlen hfits, ?_,
    fun die core addr b write hregion hwrite hbusy => hwrite ▸ exec_crestCoreAccess_busy hregion hbusy b,
    fun die core addr b hup hfits hregion hlen => exec_crestCoreAccess_register hup hlen hfits hregion,
    fun die core write addr b h => exec_crestCoreAccess_nothing h b⟩
  case refine_1 =>
    exact gives_registerWrite hmay hup hreg
      ⟨State.signal_setReg (State.dieUp_of_regUp_signal hreg hup) a v, fun x hx => State.signal_setReg_ne s a v hx, rfl⟩
  case refine_2 => exact gives_registerWrite hmay hup hreg ⟨tget_tput_same .., fun x hx => tget_tput_ne _ _ _ _ _ hx, rfl⟩
  case refine_3 =>
    refine gives_registerWrite hmay hup hreg ⟨?_, ?_, rfl⟩ <;> simp only [State.setReg, State.cport_modCport]
  case refine_4 =>
    refine gives_registerWrite hmay hup hreg ⟨?_, ?_, rfl⟩ <;> simp only [State.setReg, State.cport_modCport]
  case refine_5 => exact gives_registerWrite hmay hup hreg fun c hc hi => State.issue_awaits hc hi
  case refine_6 =>
    refine gives_of_exec (exec_cctlResume ea c v s) ?_
    rw [State.ctx_modCtx_same]
    refine ⟨?_, rfl, rfl, rfl, fun x hx => State.ctx_modCtx_ne s ea _ hx, onlyElem_modElem s ea _⟩
    simp [Ctx.resumed]
  case refine_7 =>
    intro r k hwho hstage hsz hendp hpar halign hregion hinjs hdefers hoff addr noted
    have hplace : addr % 8 = 0 := by
      simp only [addr]
      omega
    exact ⟨gives_requestPerform_core_st hwho hstage hsz hpar hplace hregion hoff hinjs hdefers,
      gives_requestPerform_core_ld hwho hstage hsz hpar hplace hregion hoff hinjs hdefers⟩

end Sys2Proof.Machine
end

section
/-! SUPPORT. Copies of blocks of memory: the lines of a migration, the commit of a migration, appends (R357 to R360). Settles O46. -/

namespace Sys2Proof.Machine

/-! ## Blocks of cells -/

/-- The cells of the block of `B` bytes at `o`, put into the block at `n` in place of its own. -/
def blockCopied (m : List Host.Cell) (B o n : Nat) : List Host.Cell :=
  (m.filter (fun c => c.1 / B == o / B)).foldl (fun m c => tput memDefault (n + c.1 % B) c.2 m) (m.filter (fun c => c.1 / B != n / B))

/-- Cells of the block at `o`, put at their places in the block at `n`, are read there; what they do not list reads as before. -/
theorem tget_foldl_block {B o n y : Nat} (ho : o % B = 0) (hy : n ≤ y ∧ y < n + B) {l : List Host.Cell}
    (hl : ∀ c ∈ l, c.1 / B = o / B) (hwf : twf memDefault l = true) (m : List Host.Cell) :
    tget memDefault y (l.foldl (fun m c => tput memDefault (n + c.1 % B) c.2 m) m) =
      if tget memDefault (o + (y - n)) l = memDefault then tget memDefault y m else tget memDefault (o + (y - n)) l := by
  induction l generalizing m with
  | nil => rfl
  | cons c l ih =>
    obtain ⟨k, v⟩ := c
    obtain ⟨hv, habove, hrest⟩ := twf_cons.mp hwf
    rw [List.foldl_cons, ih (fun c hc => hl c (.tail _ hc)) hrest]
    have hplace : k = o + k % B := by
      have hblock : k / B = o / B := hl (k, v) (.head _)
      have hko := Nat.div_add_mod k B
      have hoo := Nat.div_add_mod o B
      rw [hblock] at hko
      omega
    by_cases hk : o + (y - n) = k
    · have hyk : y = n + k % B := by omega
      rw [hk, tget_of_tabove habove hrest, if_pos rfl, tget, if_pos (beq_self_eq_true k), if_neg hv, hyk]
      exact tget_tput_same ..
    · have hyk : y ≠ n + k % B := by omega
      have hskip : tget memDefault (o + (y - n)) ((k, v) :: l) = tget memDefault (o + (y - n)) l := by
        rw [tget, if_neg (by simpa using hk)]
      rw [hskip, tget_tput_ne _ _ _ _ _ hyk]

theorem tget_foldl_block_out {B n y : Nat} (hB : 0 < B) (hy : ¬ (n ≤ y ∧ y < n + B)) (l m : List Host.Cell) :
    tget memDefault y (l.foldl (fun m c => tput memDefault (n + c.1 % B) c.2 m) m) = tget memDefault y m := by
  induction l generalizing m with
  | nil => rfl
  | cons c l ih =>
    have hlt := Nat.mod_lt c.1 hB
    rw [List.foldl_cons, ih, tget_tput_ne _ _ _ _ _ (by omega)]

/-- The address lies in the block of an aligned one. -/
theorem div_eq_iff_block {B n y : Nat} (hB : 0 < B) (hn : n % B = 0) : y / B = n / B ↔ n ≤ y ∧ y < n + B := by
  have hnn := Nat.div_add_mod n B
  rw [Nat.div_eq_iff hB]
  rw [Nat.mul_comm] at hnn
  omega

/-- The block at `n` then reads as the block at `o` did, and all else as before. -/
theorem tget_blockCopied {B o n : Nat} (hB : 0 < B) (ho : o % B = 0) (hn : n % B = 0) {m : List Host.Cell} (hm : Memory.wf m = true)
    (y : Nat) : tget memDefault y (blockCopied m B o n) =
      if n ≤ y ∧ y < n + B then tget memDefault (o + (y - n)) m else tget memDefault y m := by
  have hkept := tget_filter memDefault y (fun k => k / B != n / B) m
  unfold blockCopied
  by_cases hy : n ≤ y ∧ y < n + B
  · have hin : (o + (y - n)) / B = o / B := (div_eq_iff_block hB ho).mpr (by omega)
    have hline := tget_filter memDefault (o + (y - n)) (fun k => k / B == o / B) m
    rw [if_pos (beq_iff_eq.mpr hin)] at hline
    rw [if_neg (by simpa using (div_eq_iff_block hB hn).mpr hy)] at hkept
    rw [tget_foldl_block ho hy (fun c hc => by simpa using (List.mem_filter.mp hc).2) (twf_filter _ _ hm), hline, hkept, if_pos hy]
    by_cases hdefault : tget memDefault (o + (y - n)) m = memDefault
    · rw [if_pos hdefault, hdefault]
    · rw [if_neg hdefault]
  · rw [if_pos (by simpa using fun h => hy ((div_eq_iff_block hB hn).mp h))] at hkept
    rw [tget_foldl_block_out hB hy, hkept, if_neg hy]

theorem wf_blockCopied {m : List Host.Cell} (hm : Memory.wf m = true) (B o n : Nat) : Memory.wf (blockCopied m B o n) = true :=
  twf_foldl _ _ _ (fun _ _ h => twf_tput _ _ _ h) (twf_filter _ _ hm)

/-! ## A migration that is refused, and one that begins (R358, R359) -/

theorem testBit_waitMigr_setWait (c : Ctx) : (c.setWait waitMigr false).wait.testBit waitMigr = false := by
  simp only [Ctx.setWait, waitMigr, Nat.testBit_eq_decide_div_mod_eq]
  split
  case isTrue h =>
    have hodd : c.wait / 2 ^ 2 % 2 = 1 := of_decide_eq_true h
    simp only [Bool.false_eq_true, if_false, decide_eq_false_iff_not]
    omega
  case isFalse h =>
    have heven : c.wait / 2 ^ 2 % 2 ≠ 1 := fun k => h (decide_eq_true k)
    simp only [Bool.false_eq_true, if_false, decide_eq_false_iff_not]
    omega

/-- The context of a migr awaits it no more. -/
def State.migrOver (s : State) (m : MigReq) : State := s.modCtx m.ea m.ctx (fun c => c.setWait waitMigr false)

theorem State.migrOver_waits (s : State) (m : MigReq) : ((s.migrOver m).ctx m.ea m.ctx).wait.testBit waitMigr = false := by
  rw [State.migrOver, State.ctx_modCtx_same]
  exact testBit_waitMigr_setWait _

theorem State.migrDone_unrecorded (s : State) {m : MigReq} (h : m.record = 0) (status code : Nat) :
    s.migrDone m status code = s.migrOver m := by
  rw [State.migrDone, if_pos (beq_iff_eq.mpr h)]
  rfl

/-- The request that stores the record of a migr. -/
def recordReq (s : State) (m : MigReq) (status code : Nat) : MReq :=
  { MReq.zero with
    id := s.serial, grp := m.grp, dom := m.dom, ea := m.ea, ctx := m.ctx, slot := m.slot, acc := .record, out := localOut
    endp := 0x82, sz := 3, addr := m.record, aop := 0, v1 := BitVec.ofNat 64 (status + 256 * code), v2 := m.page, issued := s.now }

theorem State.migrDone_recorded (s : State) {m : MigReq} (h : m.record ≠ 0) (status code : Nat) :
    s.migrDone m status code = s.bump.sendTwice (s.now + 1) m.ea (tileOf m.ea) [] ((s.group m.grp).owner m.record)
      [(0, .tlbLookup (recordReq s m status code))] := by
  rw [State.migrDone, if_neg (by simpa using h)]
  rfl

theorem exec_migrationStart_refused {s : State} {m : MigReq} {status : Nat} (h : s.migrCheck m = .inl status) :
    exec (.migrationStart m) s = .next (s.migrDone m status 0) := by
  change execMigrationStart m s = _
  simp only [execMigrationStart, h]

/-- The state in which a migration has begun: its leaf is marked as moving, and its first line is due. -/
def State.migBegun (s : State) (a : Nat) (v : Word) (x : Mig) : State :=
  { s.bump.storeUnit a v with migs := (s.bump.storeUnit a v).migs ++ [(s.serial, x)] }.at_ (x.lineDue 0) (.migrationCommit s.serial)

theorem exec_migrationStart {s u : State} {m : MigReq} {a new : Nat} {e : Word} (hcheck : s.migrCheck m = .inr (a, e))
    (hframe : s.takeFrame m.dom (if m.tgt then 1 else 0) = some (new, u)) :
    exec (.migrationStart m) s =
      .next (u.migBegun a (pteSetTier e 2) ⟨m, a, e, pteFrame e * 65536, new, 0, u.now, 0, List.range 1024⟩) := by
  change execMigrationStart m s = _
  simp only [execMigrationStart, hcheck, hframe]
  rfl

theorem State.read64_congr {s t : State} (h : t.mem = s.mem) (a : Nat) : t.read64 a = s.read64 a := by
  have hbytes (y : Nat) : t.readByte y = s.readByte y := congrArg (tget memDefault y) h
  rw [State.read64, State.readNat_congr fun y _ _ => hbytes y, State.read64]

theorem State.mem_setPoison (s : State) (u : Nat) (p : Bool) : (s.setPoison u p).mem = s.mem := rfl

theorem State.mem_migBegun (s : State) (a : Nat) (v : Word) (x : Mig) : (s.migBegun a v x).mem = (s.bump.storeUnit a v).mem := rfl

theorem State.read64_storeUnit (s : State) (a : Nat) (v : Word) : (s.storeUnit a v).read64 a = v := by
  rw [State.storeUnit, State.read64_congr (State.mem_setPoison ..)]
  exact State.read64_write64_same ..

theorem State.readByte_storeUnit_out (s : State) {a y : Nat} (v : Word) (h : y < a ∨ a + 8 ≤ y) :
    (s.storeUnit a v).readByte y = s.readByte y := by
  rw [writesBytes_storeUnit s a v y, if_neg (by omega)]

/-- A store of a unit changes memory alone. -/
structure beside (s t : State) : Prop where
  migs : t.migs = s.migs
  doms : t.doms = s.doms
  full : t.full = s.full

theorem beside.trans {s t u : State} (h : beside s t) (k : beside t u) : beside s u :=
  ⟨k.migs.trans h.migs, k.doms.trans h.doms, k.full.trans h.full⟩

theorem beside_storeUnit (s : State) (a : Nat) (v : Word) : beside s (s.storeUnit a v) := by
  have hfull := s.full_storeUnit a v
  have hstored := memoryOnly_storeUnit s a v
  generalize s.storeUnit a v = u at hfull hstored
  unfold memoryOnly at hstored
  exact ⟨by rw [hstored], by rw [hstored], hfull⟩

theorem State.readByte_congr {s t : State} (h : t.mem = s.mem) (y : Nat) : t.readByte y = s.readByte y := congrArg (tget memDefault y) h

theorem State.migs_migBegun (s : State) (a : Nat) (v : Word) (x : Mig) : (s.migBegun a v x).migs = s.migs ++ [(s.serial, x)] := by
  have hmigs := (beside_storeUnit s.bump a v).migs
  rw [State.migBegun]
  generalize s.bump.storeUnit a v = u at hmigs
  change u.migs ++ _ = _
  rw [hmigs]
  rfl

/-- A migration that has begun has written its leaf alone. -/
theorem State.migBegun_writes {s u : State} (hmem : u.mem = s.mem) (a : Nat) (v : Word) (x : Mig) : (u.migBegun a v x).read64 a = v ∧
    (∀ y, (y < a ∨ a + 8 ≤ y) → (u.migBegun a v x).readByte y = s.readByte y) ∧
    (u.migBegun a v x).awaits (x.lineDue 0) (.migrationCommit u.serial) := by
  refine ⟨?_, fun y hy => ?_, State.awaits_at ..⟩
  · rw [State.read64_congr (State.mem_migBegun ..), State.read64_storeUnit]
  · rw [State.readByte_congr (State.mem_migBegun ..), State.readByte_storeUnit_out _ _ hy]
    exact State.readByte_congr hmem y

theorem gives_migrationStart {s u : State} {m : MigReq} {a new : Nat} {e : Word} (hcheck : s.migrCheck m = .inr (a, e))
    (hframe : s.takeFrame m.dom (if m.tgt then 1 else 0) = some (new, u)) (hmem : u.mem = s.mem) (hnow : u.now = s.now)
    (hserial : u.serial = s.serial) (hmigs : u.migs = s.migs) : gives (.migrationStart m) s (fun t =>
      t.read64 a = pteSetTier e 2 ∧ (∀ y, (y < a ∨ a + 8 ≤ y) → t.readByte y = s.readByte y) ∧
      let x : Mig := ⟨m, a, e, pteFrame e * 65536, new, 0, s.now, 0, List.range 1024⟩
      t.migs = s.migs ++ [(s.serial, x)] ∧ t.awaits (x.lineDue 0) (.migrationCommit s.serial)) := by
  have hexec := exec_migrationStart hcheck hframe
  rw [hnow] at hexec
  dsimp only
  generalize (⟨m, a, e, pteFrame e * 65536, new, 0, s.now, 0, List.range 1024⟩ : Mig) = x at hexec ⊢
  obtain ⟨hleaf, hbytes, hawaits⟩ := State.migBegun_writes hmem a (pteSetTier e 2) x
  exact gives_of_exec hexec ⟨hleaf, hbytes, by rw [State.migs_migBegun, hmigs, hserial], hserial ▸ hawaits⟩

/-! ## A line of a migration (R359) -/

/-- The state in which a line of 64 bytes has been copied. -/
def State.lineCopied (s : State) (o n : Nat) : State :=
  { s with mem := blockCopied s.mem 64 o n, poison := s.poison.filter (fun u => u / 8 != n / 64) }

theorem State.copyLine_clean {s : State} (hinjs : s.injs = []) {o : Nat} (h : ∀ u ∈ s.poison, u / 8 ≠ o / 64) (n : Nat) :
    s.copyLine o n = (true, s.lineCopied o n) := by
  have hclean : s.poison.any (fun u => u / 8 == o / 64) = false := by simpa using h
  have hunarmed : s.injs.isEmpty = true := by rw [hinjs]; rfl
  simp only [State.copyLine, hunarmed, if_true, hclean, Bool.false_eq_true, if_false]
  rfl

theorem State.copyLine_poisoned {s : State} (hinjs : s.injs = []) {o : Nat} (h : ∃ u ∈ s.poison, u / 8 = o / 64) (n : Nat) :
    s.copyLine o n = (false, s) := by
  have hbad : s.poison.any (fun u => u / 8 == o / 64) = true := by simpa using h
  simp only [State.copyLine, hinjs, List.isEmpty_nil, if_true, hbad]

theorem State.readByte_lineCopied {s : State} (hs : s.Inv) {o n : Nat} (ho : o % 64 = 0) (hn : n % 64 = 0) (y : Nat) :
    (s.lineCopied o n).readByte y = if n ≤ y ∧ y < n + 64 then s.readByte (o + (y - n)) else s.readByte y :=
  tget_blockCopied (by decide) ho hn hs.1 y

theorem find_single (id : Nat) (x : Mig) : [(id, x)].find? (fun p => p.1 == id) = some (id, x) := by
  simp

section
variable {s : State} {id : Nat} {x : Mig} (hmigs : s.migs = [(id, x)])
include hmigs

theorem State.migs_setMig (y : Mig) : (s.setMig id y).migs = [(id, y)] := by
  simp [State.setMig, hmigs]

theorem State.migs_without : s.migs.filter (fun p => p.1 != id) = [] := by simp [hmigs]

theorem exec_migrationCommit_line {i : Nat} {is : List Nat} (hlines : x.lines = i :: is) (hinjs : s.injs = [])
    (h : ∀ u ∈ s.poison, u / 8 ≠ (x.old % 2 ^ 44 + 64 * i) / 64) : exec (.migrationCommit id) s =
      .next ((s.lineCopied (x.old % 2 ^ 44 + 64 * i) (x.new % 2 ^ 44 + 64 * i)).migrNext id { x with count := x.count + 1, lines := is }) := by
  change execMigrationCommit id s = _
  simp only [execMigrationCommit, hmigs, find_single, hlines, State.copyLine_clean hinjs h]

theorem exec_migrationCommit_poisoned {i : Nat} {is : List Nat} (hlines : x.lines = i :: is) (hinjs : s.injs = [])
    (h : ∃ u ∈ s.poison, u / 8 = (x.old % 2 ^ 44 + 64 * i) / 64) : exec (.migrationCommit id) s =
      .next ({ s with migs := s.migs.filter (fun p => p.1 != id) }.migrAbort x) := by
  change execMigrationCommit id s = _
  simp only [execMigrationCommit, hmigs, find_single, hlines, State.copyLine_poisoned hinjs h]

theorem exec_migrationCommit_next (hlines : x.lines = []) : exec (.migrationCommit id) s = .next (s.migrNext id x) := by
  change execMigrationCommit id s = _
  simp only [execMigrationCommit, hmigs, find_single, hlines]

theorem gives_migrationCommit_line (hs : s.Inv) {i : Nat} {is : List Nat} (hlines : x.lines = i :: is) (hinjs : s.injs = [])
    (hold : x.old % 64 = 0) (hnew : x.new % 64 = 0) (h : ∀ u ∈ s.poison, u / 8 ≠ (x.old % 2 ^ 44 + 64 * i) / 64) (hmore : is ≠ []) :
    gives (.migrationCommit id) s (fun t =>
      (∀ y, t.readByte y = if x.new % 2 ^ 44 + 64 * i ≤ y ∧ y < x.new % 2 ^ 44 + 64 * i + 64 then
        s.readByte (x.old % 2 ^ 44 + 64 * i + (y - (x.new % 2 ^ 44 + 64 * i))) else s.readByte y) ∧
      let x' : Mig := { x with count := x.count + 1, lines := is }
      t.migs = [(id, x')] ∧ t.awaits (x'.lineDue x'.count) (.migrationCommit id)) := by
  refine gives_of_exec (exec_migrationCommit_line hmigs hlines hinjs h) ?_
  have hnext : (!({ x with count := x.count + 1, lines := is } : Mig).lines.isEmpty) = true := by simpa using hmore
  rw [State.migrNext, if_pos hnext]
  refine ⟨fun y => State.readByte_lineCopied hs (by omega) (by omega) y, ?_, State.awaits_at ..⟩
  exact State.migs_setMig (s := s.lineCopied _ _) hmigs _

/-- The next pass over the lines written since. -/
theorem gives_migrationCommit_again (hlines : x.lines = []) (hpass : x.pass < 4) (hchanged : s.changedLines x.old x.new ≠ []) :
    gives (.migrationCommit id) s (fun t =>
      let x' : Mig := { x with pass := x.pass + 1, since := s.now, count := 0, lines := s.changedLines x.old x.new }
      t.migs = [(id, x')] ∧ t.awaits (x'.lineDue 0) (.migrationCommit id) ∧ t = { s with migs := t.migs, agenda := t.agenda }) := by
  refine gives_of_exec (exec_migrationCommit_next hmigs hlines) ?_
  have hover : (!x.lines.isEmpty) = false := by simp [hlines]
  have hsome : (s.changedLines x.old x.new).isEmpty = false := by simpa using hchanged
  rw [State.migrNext, hover, if_neg Bool.false_ne_true]
  simp only [hpass, if_true, hsome, Bool.false_eq_true, if_false]
  exact ⟨State.migs_setMig hmigs _, State.awaits_at .., rfl⟩

end

/-! ## Appends (R357) -/

theorem State.append_modAppend (s : State) (n : Nat) (f : Append → Append) : (s.modAppend n f).append n = f (s.append n) :=
  tget_tput_same ..

theorem exec_appendGo {s : State} {n : Nat} (hidle : (s.append n).stat ≠ 1) : exec (.appendGo n) s =
    .next (if appendBad n (s.append n) then s.modAppend n (fun x => { x with stat := 3 })
      else s.modAppend n (fun x => { x with stat := 1, due := s.now + Config.capacityLatency })) := by
  change execAppendGo n s = _
  simp only [execAppendGo, alBusy, beq_false_of_ne hidle, Bool.false_eq_true, if_false]

/-- The state in which the 4 KiB of an append have been copied. -/
def State.appended (s : State) (src dst : Nat) : State :=
  { s with mem := blockCopied s.mem 4096 src dst, poison := s.poison.filter (fun u => 8 * u / 4096 != dst / 4096) }

theorem State.touchUnit4K_of_no_injs {s : State} (hinjs : s.injs = []) (a : Nat) : s.touchUnit4K a = s := by
  simp only [State.touchUnit4K, hinjs, List.filter_nil, List.foldl_nil]

section
variable {s : State} {n : Nat} (hinjs : s.injs = []) (hpoison : s.poison = []) (hbusy : (s.append n).stat = 1)
include hinjs hpoison hbusy

theorem exec_appendCommit_media : exec (.appendCommit n true) s =
    .next ((s.logBase (capStack (s.append n).dst.toNat) 9 1 false (s.append n).dst).modAppend n (fun x => { x with stat := 5 })) := by
  change execAppendCommit n true s = _
  simp only [execAppendCommit, hbusy, bne_self_eq_false, State.touchUnit4K_of_no_injs hinjs, hpoison, List.any_nil,
    Bool.false_eq_true, if_false, if_true]

theorem exec_appendCommit : exec (.appendCommit n false) s =
    .next ((s.appended (s.append n).src.toNat (s.append n).dst.toNat).modAppend n (fun x => { x with stat := 2 })) := by
  change execAppendCommit n false s = _
  simp only [execAppendCommit, hbusy, bne_self_eq_false, State.touchUnit4K_of_no_injs hinjs, hpoison, List.any_nil,
    Bool.false_eq_true, if_false]
  rw [State.appended, hpoison]
  rfl

/-- The 4 KiB at `dst` then read as those at `src` did, and nothing else that programs read has changed. -/
theorem gives_appendCommit (hs : s.Inv) (hsrc : (s.append n).src.toNat % 4096 = 0) (hdst : (s.append n).dst.toNat % 4096 = 0) :
    gives (.appendCommit n false) s (fun t => (t.append n).stat = 2 ∧
      (∀ i < 4096, t.readByte ((s.append n).dst.toNat + i) = s.readByte ((s.append n).src.toNat + i)) ∧
      (∀ a, a / 4096 ≠ (s.append n).dst.toNat / 4096 → t.readByte a = s.readByte a) ∧ ∀ ea c, t.ctx ea c = s.ctx ea c) := by
  refine gives_of_exec (exec_appendCommit hinjs hpoison hbusy) ?_
  have hcopied := tget_blockCopied (by decide) hsrc hdst hs.1
  generalize (s.append n).src.toNat = src at *
  generalize (s.append n).dst.toNat = dst at *
  have hreads (y : Nat) : ((s.appended src dst).modAppend n (fun x => { x with stat := 2 })).readByte y =
      if dst ≤ y ∧ y < dst + 4096 then s.readByte (src + (y - dst)) else s.readByte y := hcopied y
  refine ⟨by rw [State.append_modAppend], fun i hi => ?_, fun a ha => ?_, fun ea c => rfl⟩
  · rw [hreads, if_pos (by omega), Nat.add_sub_cancel_left]
  · rw [hreads, if_neg (by omega)]

theorem gives_appendCommit_media : gives (.appendCommit n true) s (fun t => (t.append n).stat = 5 ∧ sameMemory s t) := by
  refine gives_of_exec (exec_appendCommit_media hinjs hpoison hbusy) ⟨?_, sameMemory_of rfl rfl rfl⟩
  rw [State.append_modAppend]

end

/-! ## The lines that a pass copies (R359) -/

theorem tget_map_sub {a : Nat} {l : List Host.Cell} (h : ∀ c ∈ l, a ≤ c.1) (j : Nat) :
    tget memDefault j (l.map (fun c => (c.1 - a, c.2))) = tget memDefault (a + j) l := by
  induction l with
  | nil => rfl
  | cons c l ih =>
    obtain ⟨k, v⟩ := c
    have hk : a ≤ k := h (k, v) (.head _)
    have ih := ih fun c hc => h c (.tail _ hc)
    have hkey : (j == k - a) = (a + j == k) := by
      rw [Bool.eq_iff_iff, beq_iff_eq, beq_iff_eq]
      omega
    rw [List.map_cons, tget, tget, hkey, ih]

/-- A byte of a frame, read from the cells of its line. -/
theorem State.tget_cellsIn_line (s : State) (a : Nat) {j : Nat} (hj : j < 65536) :
    tget memDefault j ((s.cellsIn a 65536).filter (fun c => c.1 / 64 == j / 64)) = s.readByte (a + j) := by
  have hline := tget_filter memDefault j (fun k => k / 64 == j / 64) (s.cellsIn a 65536)
  have hframe := tget_filter memDefault (a + j) (fun k => decide (a ≤ k) && decide (k < a + 65536)) s.mem
  rw [if_pos (beq_self_eq_true _)] at hline
  rw [if_pos (by simp [hj])] at hframe
  rw [hline, State.cellsIn, tget_map_sub, hframe]
  · rfl
  · intro c hc
    have hin := (List.mem_filter.mp hc).2
    simp only [Bool.and_eq_true, decide_eq_true_eq] at hin
    exact hin.1

/-- A line that need not be copied again reads the same in both frames. -/
theorem State.readByte_of_unchanged {s : State} {old new j : Nat} (hj : j < 65536) (h : j / 64 ∉ s.changedLines old new) :
    s.readByte (new % 2 ^ 44 + j) = s.readByte (old % 2 ^ 44 + j) := by
  have hcells : (s.cellsIn (old % 2 ^ 44) 65536).filter (fun c => c.1 / 64 == j / 64) =
      (s.cellsIn (new % 2 ^ 44) 65536).filter (fun c => c.1 / 64 == j / 64) := by
    unfold State.changedLines at h
    dsimp only at h
    split at h
    case isTrue heq => rw [eq_of_beq heq]
    case isFalse =>
      by_contra hne
      exact h (List.mem_filter.mpr ⟨List.mem_range.mpr (by omega), bne_iff_ne.mpr hne⟩)
  rw [← State.tget_cellsIn_line s _ hj, ← hcells, State.tget_cellsIn_line s _ hj]

theorem State.changedLines_same (s : State) {old new : Nat} (h : old % 2 ^ 44 = new % 2 ^ 44) : s.changedLines old new = [] := by
  simp only [State.changedLines, h, beq_self_eq_true, if_true]

theorem State.changedLines_lt {s : State} {old new i : Nat} (h : i ∈ s.changedLines old new) : i < 1024 := by
  unfold State.changedLines at h
  dsimp only at h
  split at h
  · simp at h
  · exact List.mem_range.mp (List.mem_filter.mp h).1

/-- The memory in which the lines `l` of the frame at `n` read as those at `o` did, and all else as before. -/
structure linesCopied (s : State) (o n : Nat) (l : List Nat) (m : List Host.Cell) : Prop where
  wf : Memory.wf m = true
  inside : ∀ j, j < 65536 → tget memDefault (n + j) m = if j / 64 ∈ l then s.readByte (o + j) else s.readByte (n + j)
  outside : ∀ y, (y < n ∨ n + 65536 ≤ y) → tget memDefault y m = s.readByte y

theorem linesCopied_cons {s : State} {o n i : Nat} {l : List Nat} {m : List Host.Cell} (hs : s.Inv) (ho : o % 65536 = 0)
    (hn : n % 65536 = 0) (hne : o ≠ n) (hi : i < 1024)
    (h : linesCopied (s.lineCopied (o + 64 * i) (n + 64 * i)) o n l m) : linesCopied s o n (i :: l) m := by
  obtain ⟨hwf, hinside, houtside⟩ := h
  have hline (y : Nat) := State.readByte_lineCopied hs (o := o + 64 * i) (n := n + 64 * i) (by omega) (by omega) y
  refine ⟨hwf, fun j hj => ?_, fun y hy => ?_⟩
  · have hsource : (s.lineCopied (o + 64 * i) (n + 64 * i)).readByte (o + j) = s.readByte (o + j) := by
      rw [hline, if_neg (by omega)]
    rw [hinside j hj, hsource, hline]
    by_cases hji : j / 64 = i
    · have hplace : o + 64 * i + (n + j - (n + 64 * i)) = o + j := by omega
      rw [if_pos (by omega : n + 64 * i ≤ n + j ∧ n + j < n + 64 * i + 64), hplace, ite_self, if_pos (by simp [hji])]
    · rw [if_neg (by omega : ¬ (n + 64 * i ≤ n + j ∧ n + j < n + 64 * i + 64))]
      simp [hji]
  · rw [houtside y hy, hline, if_neg (by omega)]

/-- Where no unit is poisoned, every line is copied. -/
theorem State.copyLines_clean {old new : Nat} (ho : old % 2 ^ 44 % 65536 = 0) (hn : new % 2 ^ 44 % 65536 = 0)
    (hne : old % 2 ^ 44 ≠ new % 2 ^ 44) {l : List Nat} (hl : ∀ i ∈ l, i < 1024) {s : State} (hs : s.Inv) (hinjs : s.injs = [])
    (hpoison : s.poison = []) : ∃ m, s.copyLines old new l = (true, { s with mem := m }) ∧
      linesCopied s (old % 2 ^ 44) (new % 2 ^ 44) l m := by
  induction l generalizing s with
  | nil => exact ⟨s.mem, rfl, hs.1, fun j _ => by simp only [List.not_mem_nil, if_false]; rfl, fun y _ => rfl⟩
  | cons i l ih =>
    let u := s.lineCopied (old % 2 ^ 44 + 64 * i) (new % 2 ^ 44 + 64 * i)
    have hclean : u.poison = [] := by simp [u, State.lineCopied, hpoison]
    have hu : u.Inv := ⟨wf_blockCopied hs.1 .., hs.2⟩
    obtain ⟨m, hcopied, hm⟩ := ih (fun i hi => hl i (.tail _ hi)) hu hinjs hclean
    refine ⟨m, ?_, linesCopied_cons hs ho hn hne (hl i (.head _)) hm⟩
    rw [State.copyLines, State.copyLine_clean hinjs (by simp [hpoison])]
    have hsame : ({ u with mem := m } : State) = { s with mem := m } := by
      simp only [u, State.lineCopied, hpoison, List.filter_nil]
    exact hcopied.trans (congrArg (Prod.mk true) hsame)

/-- The lines written since are copied: the new frame reads as the old one did, and all else as before. -/
theorem State.copyLines_changed {s : State} (hs : s.Inv) (hinjs : s.injs = []) (hpoison : s.poison = []) {old new : Nat}
    (ho : old % 2 ^ 44 % 65536 = 0) (hn : new % 2 ^ 44 % 65536 = 0) : ∃ m,
      s.copyLines old new (s.changedLines old new) = (true, { s with mem := m }) ∧
      (∀ j < 65536, tget memDefault (new % 2 ^ 44 + j) m = s.readByte (old % 2 ^ 44 + j)) := by
  by_cases hsame : old % 2 ^ 44 = new % 2 ^ 44
  · refine ⟨s.mem, ?_, fun j _ => by rw [hsame]; rfl⟩
    rw [State.changedLines_same s hsame]
    rfl
  · obtain ⟨m, hcopied, -, hinside, -⟩ := State.copyLines_clean ho hn hsame (fun i hi => State.changedLines_lt hi) hs hinjs hpoison
    refine ⟨m, hcopied, fun j hj => ?_⟩
    rw [hinside j hj]
    split
    case isTrue => rfl
    case isFalse h => exact State.readByte_of_unchanged hj h

/-! ## The full bits of a page that moves (R351) -/

theorem nmem_foldl_nadd (f : Nat → Nat) (l m : List Nat) (x : Nat) :
    nmem x (l.foldl (fun m u => nadd (f u) m) m) = (l.any (fun u => f u == x) || nmem x m) := by
  induction l generalizing m with
  | nil => simp
  | cons u l ih =>
    rw [List.foldl_cons, ih, nmem_nadd, List.any_cons]
    have heq : decide (x = f u) = (f u == x) := by rw [Bool.eq_iff_iff, decide_eq_true_eq, beq_iff_eq, eq_comm]
    rw [heq]
    cases f u == x <;> simp

/-- Bit `i` of the new frame is that of the old one. -/
theorem State.isFull_moveFull (s : State) {o n i : Nat} (ho : o % 65536 = 0) (hn : n % 65536 = 0) (hi : i < 8192) :
    (s.moveFull o n).isFull (n / 8 + i) = s.isFull (o / 8 + i) := by
  have hkept : nmem (n / 8 + i) (s.full.filter (fun u => !inFrame o (8 * u) && !inFrame n (8 * u))) = false := by
    have hin : inFrame n (8 * (n / 8 + i)) = true := beq_iff_eq.mpr (by omega)
    simp [nmem, hin]
  change nmem _ (List.foldl _ _ _) = nmem _ _
  rw [nmem_foldl_nadd (fun u => unitOf (n + 8 * u % 65536)), hkept, Bool.or_false, Bool.eq_iff_iff]
  simp only [List.any_eq_true, List.mem_filter, inFrame, beq_iff_eq, nmem, List.contains_iff_mem, unitOf]
  constructor
  · rintro ⟨u, ⟨hu, hframe⟩, hplace⟩
    have huo : u = o / 8 + i := by omega
    exact huo ▸ hu
  · intro hu
    exact ⟨o / 8 + i, ⟨hu, by omega⟩, by omega⟩

/-! ## The commit (R359) -/

/-- The place in the frame list of domain slot `k` where a frame of a tier returns to. -/
def State.frameCell (s : State) (tier k : Nat) : Nat :=
  if tier = 0 then (s.dom k).fast.toNat + 8 * (s.dom k).fastN.toNat else (s.dom k).cap.toNat + 8 * (s.dom k).capN.toNat

/-- What a frame that returns to its pool leaves: the migrations, the full bits, and every byte beside its place in the list. -/
structure framePut (s t : State) (dom tier : Nat) : Prop where
  migs : t.migs = s.migs
  full : t.full = s.full
  bytes : ∀ y, (∀ k, s.domSlot dom = some k → y < s.frameCell tier k ∨ s.frameCell tier k + 8 ≤ y) → t.readByte y = s.readByte y

theorem framePut_giveFrame (s : State) (dom tier frame : Nat) : framePut s (s.giveFrame dom tier frame) dom tier := by
  unfold State.giveFrame
  split
  case h_1 => exact ⟨rfl, rfl, fun _ _ => rfl⟩
  case h_2 k hslot =>
    have hcell : (if tier == 0 then (s.dom k).fast else (s.dom k).cap).toNat +
        8 * (if tier == 0 then (s.dom k).fastN else (s.dom k).capN).toNat = s.frameCell tier k := by
      rw [State.frameCell]
      by_cases ht : tier = 0
      · simp only [ht, beq_self_eq_true, if_true]
      · simp only [beq_false_of_ne ht, ht, Bool.false_eq_true, if_false]
    dsimp only
    rw [hcell]
    have hstored := beside_storeUnit s (s.frameCell tier k) (BitVec.ofNat 64 frame)
    have hbytes (y : Nat) := State.readByte_storeUnit_out s (a := s.frameCell tier k) (y := y) (BitVec.ofNat 64 frame)
    generalize s.storeUnit (s.frameCell tier k) (BitVec.ofNat 64 frame) = u at hstored hbytes
    exact ⟨hstored.migs, hstored.full, fun y hy => hbytes y (hy k hslot)⟩

/-- Memory, full bits, domains and migrations do not hang on the requests that follow a page. -/
structure usersMoved (s t : State) : Prop where
  mem : t.mem = s.mem
  full : t.full = s.full
  doms : t.doms = s.doms
  migs : t.migs = s.migs

theorem usersMoved.trans {s t u : State} (h : usersMoved s t) (k : usersMoved t u) : usersMoved s u :=
  ⟨k.mem.trans h.mem, k.full.trans h.full, k.doms.trans h.doms, k.migs.trans h.migs⟩

theorem usersMoved_bankEnter (s : State) (a port : Nat) (i : Instr) (credit : Option (Nat × Nat × Nat)) :
    usersMoved s (s.bankEnter a port i credit) := by
  unfold State.bankEnter
  dsimp only
  split
  · cases credit <;> exact ⟨rfl, rfl, rfl, rfl⟩
  · exact ⟨rfl, rfl, rfl, rfl⟩

theorem usersMoved_forwardReqs (s : State) (old new : Nat) (l : List BReq) : usersMoved s (s.forwardReqs old new l) := by
  induction l generalizing s with
  | nil => exact ⟨rfl, rfl, rfl, rfl⟩
  | cons q l ih =>
    rw [State.forwardReqs]
    split
    · exact ih s
    · exact (usersMoved_bankEnter ..).trans (ih _)

theorem usersMoved_moveUsers (s : State) (dom : Nat) (page : Option Nat) (old new : Nat) :
    usersMoved s ((s.invalidate dom page).moveUsers old new) := by
  refine usersMoved.trans (t := { s.invalidate dom page with
    agenda := s.agenda.map (fun x => (⟨x.due, x.key, movedEvent old new x.instr⟩ : Entry))
    defers := s.defers.map (pageMoved old new)
    elems := tmap .zero (fun _ (e : Elem) => { e with outs := tmap .zero (fun _ o => o.moved old new) e.outs }) s.elems
    banks := tmap .zero (fun _ (b : Bank) => { b with q := b.q.filter (fun q => !waitsAt old q) }) s.banks
    hubs := tmap .zero (fun _ (h : Hub) => { h with flows := tmap .zero (fun _ f => f.moved_ old new) h.flows }) s.hubs })
    ⟨rfl, rfl, rfl, rfl⟩ ?_
  exact usersMoved_forwardReqs ..

/-- The state in which a page stands in its new frame, and the old one has not returned to its pool. -/
def State.pageMoved (s : State) (x : Mig) : State :=
  (((s.moveFull (x.old % 2 ^ 44) (x.new % 2 ^ 44)).storeUnit x.entry
      (pteSetTier (pteSetFrame x.leaf x.new) (if x.m.tgt then 1 else 0))).invalidate x.m.dom (some (vbits x.m.page / 65536))).moveUsers
    x.old x.new

theorem State.migrCommit_copied {s u : State} {x : Mig} (h : s.copyLines x.old x.new (s.changedLines x.old x.new) = (true, u))
    (hrecord : x.m.record = 0) :
    s.migrCommit x = ((u.pageMoved x).giveFrame x.m.dom (pteTier x.leaf) x.old).migrOver x.m := by
  rw [← State.migrDone_unrecorded _ hrecord 0 0]
  simp only [State.migrCommit, h]
  rfl

/-- Memory with its leaf rewritten, the full bits of the page moved, and domains and migrations as they were. -/
structure pageStands (s t : State) (x : Mig) : Prop where
  bytes : ∀ y, (y < x.entry ∨ x.entry + 8 ≤ y) → t.readByte y = s.readByte y
  leaf : t.read64 x.entry = pteSetTier (pteSetFrame x.leaf x.new) (if x.m.tgt then 1 else 0)
  full : t.full = (s.moveFull (x.old % 2 ^ 44) (x.new % 2 ^ 44)).full
  doms : t.doms = s.doms
  migs : t.migs = s.migs

theorem pageStands_pageMoved (s : State) (x : Mig) : pageStands s (s.pageMoved x) x := by
  let v := pteSetTier (pteSetFrame x.leaf x.new) (if x.m.tgt then 1 else 0)
  let f := s.moveFull (x.old % 2 ^ 44) (x.new % 2 ^ 44)
  have hmoved : usersMoved (f.storeUnit x.entry v) (s.pageMoved x) := usersMoved_moveUsers ..
  have hstored := beside_storeUnit f x.entry v
  refine ⟨fun y hy => ?_, ?_, hmoved.full.trans hstored.full, hmoved.doms.trans hstored.doms, hmoved.migs.trans hstored.migs⟩
  · exact (State.readByte_congr hmoved.mem y).trans (State.readByte_storeUnit_out f v hy)
  · exact (State.read64_congr hmoved.mem _).trans (State.read64_storeUnit f x.entry v)

theorem pageStands.frameCell {s t : State} {x : Mig} (h : pageStands s t x) (tier k : Nat) : t.frameCell tier k = s.frameCell tier k := by
  have hdom : t.dom k = s.dom k := congrArg (tget Dom.zero k) h.doms
  rw [State.frameCell, hdom, State.frameCell]

theorem pageStands.domSlot {s t : State} {x : Mig} (h : pageStands s t x) (d : Nat) : t.domSlot d = s.domSlot d := by
  rw [State.domSlot, h.doms, State.domSlot]

/-- Where its place in the frame list meets neither the page nor the leaf, the frame's return leaves both. -/
theorem State.migrCommit_reads {u : State} {x : Mig} {dom tier frame n : Nat}
    (hentry : x.entry + 8 ≤ n ∨ n + 65536 ≤ x.entry)
    (hcell : ∀ k, u.domSlot dom = some k → (u.frameCell tier k + 8 ≤ n ∨ n + 65536 ≤ u.frameCell tier k) ∧
      (u.frameCell tier k + 8 ≤ x.entry ∨ x.entry + 8 ≤ u.frameCell tier k)) :
    (∀ i < 65536, ((u.pageMoved x).giveFrame dom tier frame).readByte (n + i) = u.readByte (n + i)) ∧
      ((u.pageMoved x).giveFrame dom tier frame).read64 x.entry = pteSetTier (pteSetFrame x.leaf x.new) (if x.m.tgt then 1 else 0) := by
  have hstands := pageStands_pageMoved u x
  have hput := framePut_giveFrame (u.pageMoved x) dom tier frame
  generalize u.pageMoved x = p at hstands hput ⊢
  generalize p.giveFrame dom tier frame = t at hput ⊢
  have hkept (y : Nat) (hy : ∀ k, u.domSlot dom = some k → y < u.frameCell tier k ∨ u.frameCell tier k + 8 ≤ y) :
      t.readByte y = p.readByte y := by
    refine hput.bytes y fun k hk => ?_
    rw [hstands.frameCell]
    exact hy k (hstands.domSlot dom ▸ hk)
  refine ⟨fun i hi => ?_, ?_⟩
  · rw [hkept (n + i) fun k hk => by have := (hcell k hk).1; omega, hstands.bytes _ (by omega)]
  · rw [← hstands.leaf, State.read64, State.read64]
    refine congrArg _ (State.readNat_congr fun y hlow hhigh => hkept y fun k hk => ?_)
    have := (hcell k hk).2
    omega

theorem State.migrNext_commits {s : State} {id : Nat} {x : Mig} (hmigs : s.migs = [(id, x)]) (hlines : x.lines = [])
    (hover : 4 ≤ x.pass ∨ s.changedLines x.old x.new = []) : s.migrNext id x = ({ s with migs := [] } : State).migrCommit x := by
  have hdone : (!x.lines.isEmpty) = false := by simp [hlines]
  have hlast : (if x.pass < 4 then s.changedLines x.old x.new else []).isEmpty = true := by
    rcases hover with h | h
    · rw [if_neg (Nat.not_lt.mpr h)]
      rfl
    · rw [h, ite_self]
      rfl
  rw [State.migrNext, hdone, if_neg Bool.false_ne_true]
  simp only [hlast, if_true, State.migs_without hmigs]

/-- The commit of a migration: the page stands in its new frame with its full bits, its leaf names it, and the migr is over. -/
theorem gives_migrationCommit_last {s : State} {id : Nat} {x : Mig} (hs : s.Inv) (hinjs : s.injs = []) (hmigs : s.migs = [(id, x)])
    (hpoison : s.poison = []) (hrecord : x.m.record = 0) (hlines : x.lines = [])
    (hover : 4 ≤ x.pass ∨ s.changedLines x.old x.new = []) (ho : x.old % 2 ^ 44 % 65536 = 0) (hn : x.new % 2 ^ 44 % 65536 = 0)
    (hentry : x.entry + 8 ≤ x.new % 2 ^ 44 ∨ x.new % 2 ^ 44 + 65536 ≤ x.entry)
    (hcell : ∀ k, s.domSlot x.m.dom = some k →
      (s.frameCell (pteTier x.leaf) k + 8 ≤ x.new % 2 ^ 44 ∨ x.new % 2 ^ 44 + 65536 ≤ s.frameCell (pteTier x.leaf) k) ∧
      (s.frameCell (pteTier x.leaf) k + 8 ≤ x.entry ∨ x.entry + 8 ≤ s.frameCell (pteTier x.leaf) k)) :
    gives (.migrationCommit id) s (fun t => t.migs = [] ∧
      (∀ i < 65536, t.readByte (x.new % 2 ^ 44 + i) = s.readByte (x.old % 2 ^ 44 + i)) ∧
      t.read64 x.entry = pteSetTier (pteSetFrame x.leaf x.new) (if x.m.tgt then 1 else 0) ∧
      (∀ i < 8192, t.isFull (x.new % 2 ^ 44 / 8 + i) = s.isFull (x.old % 2 ^ 44 / 8 + i)) ∧
      (t.ctx x.m.ea x.m.ctx).wait.testBit waitMigr = false) := by
  obtain ⟨m, hcopied, hreads⟩ := State.copyLines_changed (s := { s with migs := [] }) hs hinjs hpoison ho hn
  have hexec := (exec_migrationCommit_next hmigs hlines).trans
    (congrArg _ ((State.migrNext_commits hmigs hlines hover).trans (State.migrCommit_copied hcopied hrecord)))
  refine gives_of_exec hexec ?_
  have hwrites := State.migrCommit_reads (u := { s with migs := [], mem := m }) (frame := x.old) hentry hcell
  have hstands := pageStands_pageMoved { s with migs := [], mem := m } x
  have hput := framePut_giveFrame (State.pageMoved { s with migs := [], mem := m } x) x.m.dom (pteTier x.leaf) x.old
  generalize State.giveFrame (State.pageMoved { s with migs := [], mem := m } x) x.m.dom (pteTier x.leaf) x.old = t at *
  obtain ⟨hbytes, hleaf⟩ := hwrites
  refine ⟨hput.migs.trans hstands.migs, fun i hi => (hbytes i hi).trans (hreads i hi), ?_, fun i hi => ?_, State.migrOver_waits ..⟩
  · exact (State.read64_congr rfl _).trans hleaf
  · rw [← State.isFull_moveFull s ho hn hi]
    exact congrArg (nmem _) (hput.full.trans hstands.full)

/-- An uncorrectable error in a line ends the migration, and its leaf stands as it was. -/
theorem gives_migrationCommit_poisoned {s : State} {id : Nat} {x : Mig} (hinjs : s.injs = []) (hmigs : s.migs = [(id, x)])
    {i : Nat} {is : List Nat} (hlines : x.lines = i :: is) (h : ∃ u ∈ s.poison, u / 8 = (x.old % 2 ^ 44 + 64 * i) / 64)
    (hrecord : x.m.record = 0) : gives (.migrationCommit id) s (fun t => t.migs = [] ∧
      (s.domSlot x.m.dom = none → t.read64 x.entry = x.leaf) ∧ (t.ctx x.m.ea x.m.ctx).wait.testBit waitMigr = false) := by
  refine gives_of_exec (exec_migrationCommit_poisoned hmigs hlines hinjs h) ?_
  rw [State.migrAbort, State.migrDone_unrecorded _ hrecord, State.migs_without hmigs]
  let u : State := { s with migs := [] }
  have hstored := beside_storeUnit u x.entry x.leaf
  have hleaf := State.read64_storeUnit u x.entry x.leaf
  change State.migs (State.migrOver (State.giveFrame (u.storeUnit x.entry x.leaf) ..) _) = _ ∧ _
  generalize u.storeUnit x.entry x.leaf = v at *
  have hput := framePut_giveFrame v x.m.dom (if x.m.tgt then 1 else 0) x.new
  refine ⟨hput.migs.trans hstored.migs, fun hnone => ?_, State.migrOver_waits ..⟩
  have hslot : v.domSlot x.m.dom = none := by rw [State.domSlot, hstored.doms]; exact hnone
  have hgive : v.giveFrame x.m.dom (if x.m.tgt then 1 else 0) x.new = v := by simp only [State.giveFrame, hslot]
  rw [hgive, ← hleaf]
  exact State.read64_congr rfl _

/-! ## The obligation -/

/-- Settles O46: the copies of a migration and of an append block by block, and the commit of a migration. -/
theorem migrationsAndAppends : Obligations.MigrationsAndAppends := by
  unfold Obligations.MigrationsAndAppends
  intro s hinjs
  refine ⟨fun m status hcheck hrecord => ?unrecorded, fun m status hcheck hrecord => ?recorded,
    fun m a e new u hcheck hframe hmem hnow hserial hmigs => gives_migrationStart hcheck hframe hmem hnow hserial hmigs,
    fun id x i is hs hmigs hlines hold hnew => ⟨fun hclean hmore => gives_migrationCommit_line hmigs hs hlines hinjs hold hnew hclean hmore,
      fun hbad hrecord => gives_migrationCommit_poisoned hinjs hmigs hlines hbad hrecord⟩,
    fun id x hmigs hlines hpass hchanged => gives_migrationCommit_again hmigs hlines hpass hchanged,
    fun id x hs hmigs hpoison hrecord hlines hover => ?commit,
    fun n hidle hgood => ?go, fun n hidle hbad => ?range,
    fun n hs hbusy hpoison hsrc hdst => gives_appendCommit hinjs hpoison hbusy hs hsrc hdst,
    fun n hbusy hpoison => gives_appendCommit_media hinjs hpoison hbusy⟩
  case unrecorded =>
    refine gives_of_exec (exec_migrationStart_refused hcheck) ?_
    rw [State.migrDone_unrecorded _ hrecord]
    exact ⟨State.migrOver_waits .., sameProgram_modCtx s _ _ _ ⟨rfl, rfl, rfl, rfl, rfl, rfl, rfl⟩⟩
  case recorded =>
    refine gives_of_exec (exec_migrationStart_refused hcheck) ?_
    rw [State.migrDone_recorded _ hrecord]
    exact ⟨(linkFrame_sendTwice s.bump ..).served.sameProgram, recordReq s m status 0, rfl, rfl, rfl, rfl,
      (wordGoesOn_sendTwice s.bump ..).of_links rfl⟩
  case commit =>
    intro o n d cell outside ho hn hentry hcell
    exact gives_migrationCommit_last hs hinjs hmigs hpoison hrecord hlines hover ho hn hentry hcell
  case go =>
    refine gives_of_exec (exec_appendGo hidle) ?_
    rw [hgood, if_neg Bool.false_ne_true, State.append_modAppend]
    exact ⟨rfl, rfl, rfl, rfl, rfl⟩
  case range =>
    refine gives_of_exec (exec_appendGo hidle) ?_
    rw [hbad, if_pos rfl, State.append_modAppend]
    exact ⟨rfl, rfl⟩

end Sys2Proof.Machine
end

section
/-! SUPPORT. What a crest core does with a message of the control node (R400, R401, Tables 17-5 and 17-6). Settles O49. -/

namespace Sys2Proof.Machine

/-! ## A message at its core (R400, R401) -/

/-- The core can serve the message now, and it is of the right shape. -/
structure State.readyFor (s : State) (m : Msg) : Prop where
  first : (s.core (msgCore m)).inq = []
  free : s.canServe m = true
  shaped : m.wellShaped = true

section
variable {s : State} {m : Msg} {i : Instr} {f : State → State} (hexec : exec i s = .next (s.receive m f))
include hexec

theorem exec_received (h : s.readyFor m) : exec i s = .next (f s) := by
  simp [hexec, State.receive, h.first, h.free, h.shaped]

theorem exec_malformed (hfirst : (s.core (msgCore m)).inq = []) (hfree : s.canServe m = true) (hshape : m.wellShaped = false) :
    exec i s = .next (s.replyTo m 0xFF []) := by
  simp [hexec, State.receive, hfirst, hfree, hshape]

/-- A message waits at a core that has another in hand. -/
theorem gives_waits (hserving : (s.core (msgCore m)).serving.isSome = true) : gives i s (fun t =>
    (t.core (msgCore m)).inq = (s.core (msgCore m)).inq ++ [m] ∧ (∀ x, x ≠ msgCore m → t.core x = s.core x) ∧
    t = { s with cores := t.cores }) := by
  have hbusy : s.canServe m = false := by
    have hnone : (s.core (msgCore m)).serving.isNone = false := by rw [← Option.not_isSome, hserving]; rfl
    simp only [State.canServe, hnone, Bool.and_false, Bool.false_and]
  have hwaits : exec i s = .next (s.modCore (msgCore m) (fun c => { c with inq := c.inq ++ [m] })) := by
    rw [hexec, State.receive, hbusy, Bool.not_false, Bool.or_true, if_pos rfl]
  refine gives_of_exec hwaits ⟨?_, fun x hx => State.core_modCore_ne s _ hx, rfl⟩
  rw [State.core_modCore]

end

section
variable {m : Msg} (s : State)

theorem Msg.of_type {n : BitVec 16} (h : m.type.toNat = n.toNat) : { m with type := n } = m := by
  rw [← BitVec.eq_of_toNat_eq h]

theorem exec_imageLoad (h : m.type.toNat = 1) : exec (.imageLoad m) s = .next (s.receive m (fun s => s.msgImage m)) := by
  change execImageLoad m s = _
  rw [execImageLoad, Msg.of_type h]

theorem exec_enqueue (h : m.type.toNat = 2) : exec (.enqueue m) s = .next (s.receive m (fun s => s.msgEnqueue m)) := by
  change execEnqueue m s = _
  rw [execEnqueue, Msg.of_type h]

theorem exec_memread (h : m.type.toNat = 3) : exec (.memread m) s = .next (s.receive m (fun s => s.msgRead m)) := by
  change execMemread m s = _
  rw [execMemread, Msg.of_type h]

theorem exec_memwrite (h : m.type.toNat = 4) : exec (.memwrite m) s = .next (s.receive m (fun s => s.msgWrite m)) := by
  change execMemwrite m s = _
  rw [execMemwrite, Msg.of_type h]

theorem exec_regread (h : m.type.toNat = 5) : exec (.regread m) s = .next (s.receive m (fun s => s.msgRegRead m)) := by
  change execRegread m s = _
  rw [execRegread, Msg.of_type h]

theorem exec_regwrite (h : m.type.toNat = 6) : exec (.regwrite m) s = .next (s.receive m (fun s => s.msgRegWrite m)) := by
  change execRegwrite m s = _
  rw [execRegwrite, Msg.of_type h]

theorem exec_preempt (h : m.type.toNat = 7) : exec (.preempt m) s = .next (s.receive m (fun s => s.msgPreempt m)) := by
  change execPreempt m s = _
  rw [execPreempt, Msg.of_type h]

theorem exec_domainCreate (h : m.type.toNat = 8) (harg : m.arg0 = 0) :
    exec (.domainCreate m) s = .next (s.receive m (fun s => s.msgDomCreate m)) := by
  have hm : ({ m with type := 8, arg0 := if m.arg0 == 1 then 0 else m.arg0 } : Msg) = m := by
    obtain ⟨_, _, _, _, _, _, _, _, _⟩ := m
    obtain rfl := harg
    obtain rfl : _ = 8#16 := BitVec.eq_of_toNat_eq h
    rfl
  change execDomainCreate m s = _
  rw [execDomainCreate, hm]

theorem exec_domainDestroy (h : m.type.toNat = 8) (harg : m.arg0 = 1) :
    exec (.domainDestroy m) s = .next (s.receive m (fun s => s.msgDomDestroy m)) := by
  have hm : ({ m with type := 8, arg0 := 1 } : Msg) = m := by
    obtain ⟨_, _, _, _, _, _, _, _, _⟩ := m
    obtain rfl := harg
    obtain rfl : _ = 8#16 := BitVec.eq_of_toNat_eq h
    rfl
  change execDomainDestroy m s = _
  rw [execDomainDestroy, hm]

end

theorem sameProgram_replyTo (s : State) (m : Msg) (status : Nat) (payload : List Byte) : sameProgram s (s.replyTo m status payload) :=
  (noticeFrame_sendMsg ..).sameProgram

theorem State.doms_replyTo (s : State) (m : Msg) (status : Nat) (payload : List Byte) : (s.replyTo m status payload).doms = s.doms := by
  have hsent := (noticeFrame_sendMsg s (msgCore m) (replyMsg m status payload)).1
  rw [State.replyTo]
  generalize s.sendMsg (msgCore m) (replyMsg m status payload) = t at hsent ⊢
  rw [hsent]

/-! ## MEMREAD and MEMWRITE (R23, R256) -/

/-- The request for piece `i` of a message. -/
def pieceReq (s : State) (k a : Nat) (acc : Acc) (v : Word) (i : Nat) : MReq :=
  { MReq.zero with
    grp := 65536, who := .core k, acc := acc, out := localOut
    endp := if regionOf a == .window then 0x81 else 0x82
    addr := BitVec.ofNat 64 a, pa := s.module * 2 ^ 44 + a, sz := 3, v1 := v, stage := 1, ctx := i, slot := 1 }

theorem State.windowAccess_piece (s : State) (k a : Nat) (acc : Acc) (v : Word) (i : Nat) :
    s.windowAccess k a 8 acc v (some i) = s.bankEnter a (enginePort a) (.requestPerform (pieceReq s k a acc v i)) none := rfl

/-- The pieces `l` of a message's range are asked for. -/
def State.piecesAsked (s : State) (k a : Nat) (acc : Acc) (w : Nat → Word) (l : List Nat) : State :=
  l.foldl (fun s i => s.windowAccess k (a + 8 * i) 8 acc (w i) (some i)) s

theorem accessFrame_piecesAsked (s : State) (k a : Nat) (acc : Acc) (w : Nat → Word) (l : List Nat) :
    accessFrame s (s.piecesAsked k a acc w l) :=
  State.foldl_keeps (accessFrame s) _ l (fun _ _ h => h.trans (accessFrame_bankEnter ..)) (recordFrame.refl s).access

theorem State.module_bankEnter (s : State) (a port : Nat) (i : Instr) : (s.bankEnter a port i none).module = s.module := by
  rw [(accessFrame_bankEnter s a port i).only]

/-- Each piece waits at the bank of its unit. -/
theorem State.mem_piecesAsked {i : Nat} {l : List Nat} (hi : i ∈ l) (s : State) (k a : Nat) (acc : Acc) (w : Nat → Word) :
    ∃ q ∈ ((s.piecesAsked k a acc w l).bank (bankOf (a + 8 * i))).q, q.port = enginePort (a + 8 * i) ∧
      q.instr = .requestPerform (pieceReq s k (a + 8 * i) acc (w i) i) := by
  induction l generalizing s with
  | nil => exact absurd hi List.not_mem_nil
  | cons j l ih =>
    let u := s.windowAccess k (a + 8 * j) 8 acc (w j) (some j)
    by_cases hij : i = j
    · subst hij
      have hthere : (⟨enginePort (a + 8 * i), s.now, .requestPerform (pieceReq s k (a + 8 * i) acc (w i) i), none⟩ : BReq) ∈
          (u.bank (bankOf (a + 8 * i))).q := by
        simp only [u, State.windowAccess_piece]
        rw [State.bank_bankEnter, if_pos rfl]
        exact List.mem_append_right _ (.head _)
      exact ⟨_, (accessFrame_piecesAsked u k a acc w l).queues _ _ hthere, rfl, rfl⟩
    · have hmodule : u.module = s.module := State.module_bankEnter ..
      obtain ⟨q, hq, hport, hinstr⟩ := ih ((List.mem_cons.mp hi).resolve_left hij) u
      refine ⟨q, hq, hport, hinstr.trans ?_⟩
      rw [pieceReq, hmodule, pieceReq]

/-- The range of a message: an aligned one of 8 to 4096 bytes, all of it of regions that `p` admits and in service. -/
structure rangeIs (s : State) (m : Msg) (a n : Nat) (p : Region → Bool) : Prop where
  size : m.arg0.toNat = n
  place : m.arg1.toNat = s.module * 2 ^ 44 + a
  small : a < 2 ^ 44
  aligned : a % 8 = 0
  whole : n % 8 = 0
  least : 8 ≤ n
  most : n ≤ 4096
  units : ∀ i, i < n / 8 → p (regionOf (a + 8 * i)) = true ∧ s.viewFault (msgCore m / 4) (a + 8 * i) = false

theorem State.msgRange_ok {s : State} {m : Msg} {a n : Nat} {p : Region → Bool} (h : rangeIs s m a n p) : s.msgRange m p = .inl a := by
  obtain ⟨hsize, hplace, hsmall, haligned, hwhole, hleast, hmost, hunits⟩ := h
  have ha : m.arg1.toNat % 2 ^ 44 = a := by omega
  have hmodule : m.arg1.toNat / 2 ^ 44 = s.module := by omega
  have hin : unitsIn p a n = true := by
    simp only [unitsIn, List.all_eq_true, List.mem_range]
    exact fun i hi => (hunits i hi).1
  have hserved : (List.range (n / 8)).any (fun i => s.viewFault (msgCore m / 4) (a + 8 * i)) = false := by
    simp only [List.any_eq_false, List.mem_range, Bool.not_eq_true]
    exact fun i hi => (hunits i hi).2
  have hok : (m.arg1.toNat / 2 ^ 44 != s.module || a % 8 != 0 || n % 8 != 0 || decide (n < 8) || decide (n > 4096) || !unitsIn p a n) =
      false := by
    rw [hmodule]
    simp [haligned, hwhole, hin, Nat.not_lt.mpr hleast, Nat.not_lt.mpr hmost]
  simp only [State.msgRange, ha, hsize, hok, hserved, Bool.false_eq_true, if_false]

theorem State.msgRange_unaligned {s : State} {m : Msg} (h : m.arg1.toNat % 8 ≠ 0) (p : Region → Bool) :
    s.msgRange m p = .inr 0x12 := by
  have ha : (m.arg1.toNat % 2 ^ 44 % 8 != 0) = true := bne_iff_ne.mpr (by omega)
  simp only [State.msgRange, ha, Bool.or_true, Bool.true_or, if_true]

/-- A message whose pieces are asked for is in hand. -/
theorem State.msgWindow_queued {s : State} {m : Msg} {a n : Nat} {p : Region → Bool} (h : rangeIs s m a n p)
    (hp : ∀ r, p r = true → r = .hbm ∨ r = .capacity ∨ r = .window) (acc : Acc) :
    ((s.msgWindow m a n acc).core (msgCore m)).serving = some m ∧ ((s.msgWindow m a n acc).core (msgCore m)).left = n / 8 ∧
    (∀ i < n / 8, ∃ q ∈ ((s.msgWindow m a n acc).bank (bankOf (a + 8 * i))).q, q.port = enginePort (a + 8 * i) ∧ ∃ r : MReq,
      q.instr = .requestPerform r ∧ r.acc = acc ∧ r.pa % 2 ^ 44 = a + 8 * i ∧ r.sz = 3 ∧ r.who = .core (msgCore m) ∧ r.slot = 1 ∧
      r.ctx = i ∧ r.v1 = wordOf m.payload i) ∧ sameProgram s (s.msgWindow m a n acc) := by
  let k := msgCore m
  let u := s.modCore k (fun c => { c with serving := some m, left := n / 8, got := [] })
  have hasked := accessFrame_piecesAsked u k a acc (wordOf m.payload) (List.range (n / 8))
  have hpieces (i : Nat) (hi : i < n / 8) := State.mem_piecesAsked (List.mem_range.mpr hi) u k a acc (wordOf m.payload)
  change ((State.piecesAsked u k a acc (wordOf m.payload) (List.range (n / 8))).core k).serving = _ ∧
    ((State.piecesAsked u k a acc (wordOf m.payload) (List.range (n / 8))).core k).left = _ ∧
    (∀ i < n / 8, ∃ q ∈ ((State.piecesAsked u k a acc (wordOf m.payload) (List.range (n / 8))).bank (bankOf (a + 8 * i))).q, _) ∧
    sameProgram s (State.piecesAsked u k a acc (wordOf m.payload) (List.range (n / 8)))
  generalize State.piecesAsked u k a acc (wordOf m.payload) (List.range (n / 8)) = t at *
  have hcore : t.core k = { s.core k with serving := some m, left := n / 8, got := [] } := by
    have hcores : t.cores = u.cores := by rw [hasked.only]
    exact (congrArg (tget _ k) hcores).trans (State.core_modCore ..)
  refine ⟨by rw [hcore], by rw [hcore], fun i hi => ?_, hasked.served.sameProgram⟩
  obtain ⟨q, hq, hport, hinstr⟩ := hpieces i hi
  have hsmall := regionOf_small (hp _ (h.units i hi).1)
  have hplace : (u.module * 2 ^ 44 + (a + 8 * i)) % 2 ^ 44 = a + 8 * i := by omega
  exact ⟨q, hq, hport, _, hinstr, rfl, hplace, rfl, rfl, rfl, rfl, rfl⟩

section
variable {s : State} {m : Msg} (hready : s.readyFor m)
include hready

theorem exec_memread_range (htype : m.type.toNat = 3) {a n : Nat}
    (h : rangeIs s m a n (fun r => r == .hbm || r == .capacity || r == .window)) :
    exec (.memread m) s = .next (s.msgWindow m a n .ld) := by
  rw [exec_received (exec_memread s htype) hready]
  simp only [State.msgRead, State.msgRange_ok h, h.size]

theorem exec_memwrite_range (htype : m.type.toNat = 4) {a n : Nat} (h : rangeIs s m a n (fun r => r == .hbm || r == .window)) :
    exec (.memwrite m) s = .next
      (if (List.range (n / 8)).any (fun i => regionOf (a + 8 * i) == .window && s.windowBusy (a + 8 * i)) then s.replyTo m 0x31 []
        else s.msgWindow m a n .st) := by
  rw [exec_received (exec_memwrite s htype) hready]
  simp only [State.msgWrite, State.msgRange_ok h, h.size]

theorem exec_memread_unaligned (htype : m.type.toNat = 3) (h : m.arg1.toNat % 8 ≠ 0) :
    exec (.memread m) s = .next (s.replyTo m 0x12 []) := by
  rw [exec_received (exec_memread s htype) hready]
  simp only [State.msgRead, State.msgRange_unaligned h]

theorem exec_memwrite_unaligned (htype : m.type.toNat = 4) (h : m.arg1.toNat % 8 ≠ 0) :
    exec (.memwrite m) s = .next (s.replyTo m 0x12 []) := by
  rw [exec_received (exec_memwrite s htype) hready]
  simp only [State.msgWrite, State.msgRange_unaligned h]

/-! ## REGREAD and REGWRITE (R413) -/

omit hready in
theorem msgOff_eq {o : Nat} (hplace : m.arg1.toNat = 0xF0000000000 + o) (ho : o < 2 ^ 40) : msgOff m = some o := by
  rw [msgOff, if_pos (by simp only [Bool.and_eq_true, decide_eq_true_eq, regBase]; omega), hplace]
  simp

section
variable {o : Nat} (hplace : m.arg1.toNat = 0xF0000000000 + o) (ho : o < 2 ^ 40)
include hplace ho

theorem exec_regread_register (htype : m.type.toNat = 5) (hmay : Agent.may .control o = true) (hup : s.regUp o = true)
    (hstatus : ∀ x y, regAt o ≠ .command x y 3) :
    exec (.regread m) s = .next (s.replyTo m 0 (leBytes 8 (s.regValue (regAt o)).toNat)) := by
  have hread : s.regRead .control o = some (s.regValue (regAt o), s) := by
    simp only [State.regRead, hmay, hup, Bool.not_true, Bool.false_eq_true, if_false]
  rw [exec_received (exec_regread s htype) hready]
  simp only [State.msgRegRead, msgOff_eq hplace ho, Option.bind_some, hread]

theorem exec_regread_refused (htype : m.type.toNat = 5) (hmay : Agent.may .control o = false) :
    exec (.regread m) s = .next (s.replyTo m 0x12 []) := by
  rw [exec_received (exec_regread s htype) hready]
  simp only [State.msgRegRead, msgOff_eq hplace ho, Option.bind_some, State.regRead, hmay, Bool.not_false, if_true]

theorem exec_regwrite_register (htype : m.type.toNat = 6) (hmay : Agent.may .control o = true) :
    ∃ u, exec (.registerWrite .control o (BitVec.ofNat 64 (leNat m.payload))) s = .next u ∧
      exec (.regwrite m) s = .next (u.replyTo m 0 []) := by
  have hlength : m.payload.length = 8 := by
    have hshaped := hready.shaped
    simp only [Msg.wellShaped, htype, Bool.and_eq_true, beq_iff_eq] at hshaped
    exact hshaped.2.2
  have hword : wordOf m.payload 0 = BitVec.ofNat 64 (leNat m.payload) := by
    have hall : m.payload.take 8 = m.payload := by rw [← hlength]; exact List.take_length
    simp only [wordOf, fld, sliceAt, Nat.mul_zero, List.drop_zero, hall]
  obtain ⟨u, hu⟩ : ∃ u, s.regWrite .control o (BitVec.ofNat 64 (leNat m.payload)) = some u := by
    simp only [State.regWrite, hmay, Bool.not_true, Bool.false_eq_true, if_false]
    split <;> exact ⟨_, rfl⟩
  refine ⟨u, ?_, ?_⟩
  · change execRegisterWrite _ _ _ s = _
    simp only [execRegisterWrite, hu, Option.getD_some]
  · rw [exec_received (exec_regwrite s htype) hready]
    simp only [State.msgRegWrite, msgOff_eq hplace ho, Option.bind_some, hword, hu]

theorem exec_regwrite_refused (htype : m.type.toNat = 6) (hmay : Agent.may .control o = false) :
    exec (.regwrite m) s = .next (s.replyTo m 0x12 []) := by
  rw [exec_received (exec_regwrite s htype) hready]
  simp only [State.msgRegWrite, msgOff_eq hplace ho, Option.bind_some, State.regWrite, hmay, Bool.not_false, if_true]

end

/-! ## PREEMPT (R304) -/

omit hready in
/-- A pre-emption is refused where none is in force and the group is neither LIVE nor LOADING. -/
theorem State.preemptGroup_answer (s : State) (gn : Nat) (hard : Bool) : (if (s.preemptGroup gn hard).1 then 0 else 1) =
    if (s.group gn).preq = none ∧ (s.group gn).st ≠ .live ∧ (s.group gn).st ≠ .loading then 1 else 0 := by
  cases hpreq : (s.group gn).preq with
  | some q => simp [State.preemptGroup, hpreq]
  | none =>
    by_cases hlive : (s.group gn).st = .live
    · by_cases harmed : (s.group gn).armed = true <;> simp [State.preemptGroup, hpreq, hlive, harmed]
    · by_cases hloading : (s.group gn).st = .loading <;> simp [State.preemptGroup, hpreq, hlive, hloading]

theorem exec_preempt_request (htype : m.type.toNat = 7) : ∃ u, exec (.preemptRequest m.grp.toNat (m.arg0 == 1)) s = .next u ∧
    exec (.preempt m) s = .next (u.replyTo m (if (s.group m.grp.toNat).preq = none ∧ (s.group m.grp.toNat).st ≠ .live ∧
      (s.group m.grp.toNat).st ≠ .loading then 1 else 0) []) := by
  refine ⟨(s.preemptGroup m.grp.toNat (m.arg0 == 1)).2, rfl, ?_⟩
  rw [exec_received (exec_preempt s htype) hready, ← State.preemptGroup_answer s m.grp.toNat (m.arg0 == 1)]
  rfl

/-! ## Images (R274) -/

theorem exec_imageLoad_payload {u : State} (htype : m.type.toNat = 1) (harg : m.arg1 = 0)
    (hload : s.loadImage ⟨m.grp.toNat, m.arg0 == 1, m.payload, none, none, some m⟩ none = ((0, 0, 0), u))
    (hlaunch : m.arg0 = 1 ∨ (u.group m.grp.toNat).lid = none) : exec (.imageLoad m) s = .next (u.replyTo m 0 []) := by
  rw [exec_received (exec_imageLoad s htype) hready]
  have hasked : execImageLoadRequest ⟨m.grp.toNat, m.arg0 == 1, m.payload, none, none, some m⟩ s = .next (u.replyTo m 0 []) := by
    simp only [execImageLoadRequest, Option.bind_none, Option.map_none, hload, beq_self_eq_true, Bool.true_and, if_true, Nat.mul_zero,
      Nat.add_zero]
    rcases hlaunch with hsplice | hnone
    · rw [hsplice]
      rfl
    · rw [hnone]
      simp
  simp only [State.msgImage, harg, beq_self_eq_true, if_true, hasked, outState]

end

/-! ## ENQUEUE (R318, R320) -/

/-- A table built key by key reads as the function that built it. -/
theorem tget_foldl_tput_range (f : Nat → Word) (n : Nat) {i : Nat} (hi : i < n) :
    tget 0 i ((List.range n).foldl (fun (p : Map Word) i => tput 0 i (f i) p) []) = f i := by
  induction n with
  | zero => omega
  | succ n ih =>
    rw [List.range_succ, List.foldl_append, List.foldl_cons, List.foldl_nil]
    by_cases hn : i = n
    · rw [hn, tget_tput_same]
    · rw [tget_tput_ne _ _ _ _ _ hn, ih (by omega)]

/-- The words of a string of bytes, put together again, are its bytes. -/
theorem flatMap_wordOf {b : List Byte} {n : Nat} (h : 8 * n ≤ b.length) :
    (List.range n).flatMap (fun i => leBytes 8 (wordOf b i).toNat) = b.take (8 * n) := by
  induction n with
  | zero => rfl
  | succ n ih =>
    have hword : leBytes 8 (wordOf b n).toNat = (b.drop (8 * n)).take 8 := by
      have hlength : ((b.drop (8 * n)).take 8).length = 8 := by
        rw [List.length_take, List.length_drop]
        omega
      have hlt : leNat ((b.drop (8 * n)).take 8) < 2 ^ 64 := by
        have hbytes := leNat_lt ((b.drop (8 * n)).take 8)
        rw [hlength] at hbytes
        exact hbytes.trans_eq (by norm_num)
      rw [wordOf, fld, sliceAt, BitVec.toNat_ofNat, Nat.mod_eq_of_lt hlt]
      generalize (b.drop (8 * n)).take 8 = c at hlength
      rw [← hlength]
      exact leBytes_leNat c
    rw [List.range_succ, List.flatMap_append, ih (by omega), List.flatMap_singleton, hword, Nat.mul_succ, List.take_add]

/-- The state in which the port of a message holds its packet. -/
def State.packetAtPort (s : State) (m : Msg) : State :=
  { s with pushes := tput Push.zero (msgPort m) { tget Push.zero (msgPort m) s.pushes with
      pkt := (List.range 16).foldl (fun (p : Map Word) i => tput 0 i (wordOf m.payload i) p) [] } s.pushes }

/-- The entry that a message pushes. -/
def msgEntry (m : Msg) : EntryReq :=
  ⟨m.arg0.toNat, m.dom.toNat, m.payload, none, none, some (m.arg0.toNat / 32, msgCore m)⟩

/-- The state in which the entry of a message is on its way from its port. -/
def State.entryPushed (s : State) (m : Msg) : State :=
  { s with pushes := tput Push.zero (msgPort m) { tget Push.zero (msgPort m) s.pushes with busy := true } s.pushes }.after
    (8 + 48 * dieDist (msgCore m / 4) (m.arg0.toNat / 32)) (.enqueueEntry (msgEntry m))

theorem pushPacket_eq {m : Msg} (hlength : m.payload.length = 128) : (List.range 16).flatMap (fun i => leBytes 8
    (tget 0 i ((List.range 16).foldl (fun (p : Map Word) i => tput 0 i (wordOf m.payload i) p) [])).toNat) = m.payload := by
  have hwords : (List.range 16).flatMap (fun i => leBytes 8
      (tget 0 i ((List.range 16).foldl (fun (p : Map Word) i => tput 0 i (wordOf m.payload i) p) [])).toNat) =
      (List.range 16).flatMap (fun i => leBytes 8 (wordOf m.payload i).toNat) :=
    List.flatMap_congr fun i hi => by rw [tget_foldl_tput_range _ _ (List.mem_range.mp hi)]
  rw [hwords, flatMap_wordOf (by omega)]
  exact List.take_of_length_le (by omega)

theorem execPushWrite_packet {s : State} {m : Msg} (hfree : (tget Push.zero (msgPort m) s.pushes).busy = false) (hq : m.arg0.toNat < 256)
    (hlength : m.payload.length = 128) :
    execPushWrite (m.arg0.toNat / 32) (msgCore m) (BitVec.ofNat 64 (m.arg0.toNat + m.dom.toNat * 65536)) (s.packetAtPort m) =
      .next ((s.packetAtPort m).entryPushed m) := by
  have hdom := m.dom.isLt
  have hvalue : (BitVec.ofNat 64 (m.arg0.toNat + m.dom.toNat * 65536)).toNat = m.arg0.toNat + m.dom.toNat * 65536 := by
    rw [BitVec.toNat_ofNat]
    omega
  have hqueue : (m.arg0.toNat + m.dom.toNat * 65536) % 256 = m.arg0.toNat := by omega
  have hdomain : (m.arg0.toNat + m.dom.toNat * 65536) / 2 ^ 16 % 2 ^ 16 = m.dom.toNat := by omega
  have hport : tget Push.zero (32 * (m.arg0.toNat / 32) + msgCore m) (s.packetAtPort m).pushes =
      { tget Push.zero (msgPort m) s.pushes with
        pkt := (List.range 16).foldl (fun (p : Map Word) i => tput 0 i (wordOf m.payload i) p) [] } := tget_tput_same ..
  have hthere := hport
  simp only [execPushWrite, hport, hfree, Bool.false_eq_true, if_false, hvalue, hqueue, hdomain, beq_self_eq_true, if_true,
    pushPacket_eq hlength]
  rw [State.entryPushed, msgPort, hthere]
  rfl

/-- The entry of an ENQUEUE sets out from the core's port, and the message waits for its status. -/
theorem gives_enqueue {s : State} {m : Msg} (hready : s.readyFor m) (htype : m.type.toNat = 2) (hq : m.arg0.toNat < 256)
    (hup : s.dieUp (m.arg0.toNat / 32) = true) : gives (.enqueue m) s (fun t =>
      (tget Push.zero (msgPort m) t.pushes).busy = true ∧ (t.core (msgCore m)).serving = some m ∧
      t.awaits (s.now + (8 + 48 * dieDist (msgCore m / 4) (m.arg0.toNat / 32))) (.enqueueEntry (msgEntry m)) ∧
      sameProgram s t ∧ s.keepsAgenda t) := by
  have hlength : m.payload.length = 128 := by
    have hshaped := hready.shaped
    simp only [Msg.wellShaped, htype, Bool.and_eq_true, beq_iff_eq] at hshaped
    exact hshaped.2.2
  have hfree : (tget Push.zero (msgPort m) s.pushes).busy = false := by
    have hserves := hready.free
    rw [State.canServe, BitVec.eq_of_toNat_eq (x := m.type) (y := 2#16) htype] at hserves
    simpa using (Bool.and_eq_true_iff.mp hserves).2
  have hin : (decide (m.arg0.toNat > 255) || !s.dieUp (m.arg0.toNat / 32)) = false := by
    rw [hup, decide_eq_false (by omega)]
    rfl
  have hexec : exec (.enqueue m) s =
      .next (((s.packetAtPort m).entryPushed m).modCore (msgCore m) (fun c => { c with serving := some m })) := by
    rw [exec_received (exec_enqueue s htype) hready]
    simp only [State.msgEnqueue, hin, Bool.false_eq_true, if_false]
    rw [← State.packetAtPort, execPushWrite_packet hfree hq hlength, outState]
  refine gives_of_exec hexec ⟨?_, by rw [State.core_modCore], State.awaits_at .., sameProgram.refl s, State.keepsAgenda_at _ _ _⟩
  change (tget Push.zero (msgPort m) (tput Push.zero (msgPort m) _ _)).busy = true
  rw [tget_tput_same]

/-! ## Domains (R321) -/

/-- The table of domains lists the new entry, and otherwise what it listed. -/
theorem mem_tput_dom {k : Nat} {v : Dom} {l : Map Dom} {p : Nat × Dom} (h : p ∈ tput .zero k v l) : p = (k, v) ∨ p ∈ l := by
  have htdel : ∀ l : Map Dom, p ∈ tdel k l → p ∈ l := by
    intro l
    induction l with
    | nil => exact id
    | cons x l ih =>
      intro hp
      rw [tdel] at hp
      split at hp
      · exact .tail _ (ih hp)
      · rcases List.mem_cons.mp hp with rfl | hp
        · exact .head _
        · exact .tail _ (ih hp)
  have htins : ∀ l : Map Dom, p ∈ tins k v l → p = (k, v) ∨ p ∈ l := by
    intro l
    induction l with
    | nil => exact fun hp => .inl (List.mem_singleton.mp hp)
    | cons x l ih =>
      intro hp
      rw [tins] at hp
      split at hp
      · exact (List.mem_cons.mp hp).imp_right (.tail _)
      · split at hp
        · exact List.mem_cons.mp hp
        · rcases List.mem_cons.mp hp with rfl | hp
          · exact .inr (.head _)
          · exact (ih hp).imp_right (.tail _)
  unfold tput at h
  split at h
  · exact .inr (htdel l h)
  · exact htins l h

theorem mem_tins_self (k : Nat) (v : Dom) (l : Map Dom) : (k, v) ∈ tins k v l := by
  induction l with
  | nil => exact .head _
  | cons x l ih =>
    rw [tins]
    split
    · exact .head _
    · split
      · exact .head _
      · exact .tail _ ih

/-- A domain that no slot holds is that of the slot it is put in. -/
theorem State.domSlot_put {s : State} {d n : Nat} (h : s.domSlot d = none) :
    ({ s with doms := tput .zero n { Dom.zero with dom := d, live := true } s.doms } : State).domSlot d = some n := by
  have hnone : ∀ p ∈ s.doms, (p.2.live && p.2.dom == d) = false := by
    simpa [State.domSlot] using h
  have hlisted : (n, { Dom.zero with dom := d, live := true }) ∈ tput .zero n { Dom.zero with dom := d, live := true } s.doms := by
    rw [tput, if_neg (by simp)]
    exact mem_tins_self ..
  obtain ⟨p, hp⟩ : ∃ p, (tput .zero n { Dom.zero with dom := d, live := true } s.doms).find? (fun p => p.2.live && p.2.dom == d) = some p := by
    refine Option.isSome_iff_exists.mp (List.find?_isSome.mpr ⟨_, hlisted, ?_⟩)
    simp
  have hit := List.find?_some hp
  rcases mem_tput_dom (List.mem_of_find?_eq_some hp) with rfl | hold
  · simp only [State.domSlot, hp, Option.map_some]
  · rw [hnone p hold] at hit
    simp at hit

section
variable {s : State} {m : Msg} (hready : s.readyFor m) (htype : m.type.toNat = 8)
include hready htype

theorem gives_domainCreate {n : Nat} (harg : m.arg0 = 0) (hd : m.dom.toNat ≠ 0) (hslot : s.domSlot m.dom.toNat = none)
    (hfree : s.freeDom = some n) : gives (.domainCreate m) s (fun t =>
      t.dom n = { Dom.zero with dom := m.dom.toNat, live := true } ∧ t.domSlot m.dom.toNat = some n ∧
      (∀ x, x ≠ n → t.dom x = s.dom x) ∧ sameProgram s t) := by
  let u : State := { s with doms := tput .zero n { Dom.zero with dom := m.dom.toNat, live := true } s.doms }
  have hexec : exec (.domainCreate m) s = .next (u.replyTo m 0 []) := by
    rw [exec_received (exec_domainCreate s htype harg) hready]
    simp only [State.msgDomCreate, beq_false_of_ne hd, hslot, Option.isSome_none, Bool.or_self, Bool.false_eq_true, if_false, hfree]
    rfl
  have hdoms := State.doms_replyTo u m 0 []
  have hprogram := sameProgram_replyTo u m 0 []
  have hput := State.domSlot_put (n := n) hslot
  refine gives_of_exec hexec ?_
  generalize u.replyTo m 0 [] = t at hdoms hprogram ⊢
  have hdom (x : Nat) : t.dom x = tget Dom.zero x (tput .zero n { Dom.zero with dom := m.dom.toNat, live := true } s.doms) :=
    congrArg (tget Dom.zero x) hdoms
  refine ⟨by rw [hdom, tget_tput_same], ?_, fun x hx => ?_, hprogram⟩
  · rw [State.domSlot, hdoms]
    exact hput
  · rw [hdom, tget_tput_ne _ _ _ _ _ hx, State.dom]

theorem gives_domainDestroy {n : Nat} (harg : m.arg0 = 1) (hslot : s.domSlot m.dom.toNat = some n)
    (hidle : s.domInUse m.dom.toNat = false) : gives (.domainDestroy m) s (fun t =>
      t.dom n = .zero ∧ (∀ x, x ≠ n → t.dom x = s.dom x) ∧ sameProgram s t) := by
  let u : State := { s.invalidate m.dom.toNat none with doms := tput .zero n .zero s.doms }
  have hexec : exec (.domainDestroy m) s = .next (u.replyTo m 0 []) := by
    rw [exec_received (exec_domainDestroy s htype harg) hready]
    simp only [State.msgDomDestroy, hslot, hidle, Bool.false_eq_true, if_false]
    rfl
  have hdoms := State.doms_replyTo u m 0 []
  have hprogram : sameProgram s (u.replyTo m 0 []) := sameProgram_replyTo u m 0 []
  refine gives_of_exec hexec ?_
  generalize u.replyTo m 0 [] = t at hdoms hprogram ⊢
  have hdom (x : Nat) : t.dom x = tget Dom.zero x (tput .zero n .zero s.doms) := congrArg (tget Dom.zero x) hdoms
  refine ⟨by rw [hdom, tget_tput_same], fun x hx => ?_, hprogram⟩
  rw [hdom, tget_tput_ne _ _ _ _ _ hx, State.dom]

theorem exec_domainCreate_refused (harg : m.arg0 = 0) (h : m.dom.toNat = 0 ∨ (s.domSlot m.dom.toNat).isSome = true) :
    exec (.domainCreate m) s = .next (s.replyTo m 6 []) := by
  have hrefused : (m.dom.toNat == 0 || (s.domSlot m.dom.toNat).isSome) = true := by
    rcases h with h | h
    · rw [h]
      rfl
    · rw [h, Bool.or_true]
  rw [exec_received (exec_domainCreate s htype harg) hready]
  simp only [State.msgDomCreate, hrefused, if_true]

theorem exec_domainDestroy_none (harg : m.arg0 = 1) (h : s.domSlot m.dom.toNat = none) :
    exec (.domainDestroy m) s = .next (s.replyTo m 7 []) := by
  rw [exec_received (exec_domainDestroy s htype harg) hready]
  simp only [State.msgDomDestroy, h]

end

/-! ## The obligation -/

/-- Settles O49: a message waits, is refused or has the effect of its type, and its REPLY carries the STATUS. -/
theorem messagesOfTheControlNode : Obligations.MessagesOfTheControlNode := by
  unfold Obligations.MessagesOfTheControlNode
  intro s m _ k gn d ready one range
  have hasks {n : Nat} {i : Instr} {l : BitVec 32} {f : State → State}
      (hexec : m.type.toNat = n → (n = 8 → m.arg0 = l) → exec i s = .next (s.receive m f)) : one n i l := fun htype harg =>
    ⟨exec_malformed (hexec htype harg), gives_waits (hexec htype harg)⟩
  have hready : ready → s.readyFor m := fun ⟨hfirst, hfree, hshaped⟩ => ⟨hfirst, hfree, hshaped⟩
  have hrange {a n : Nat} {p : Region → Bool} : range a n p → rangeIs s m a n p :=
    fun ⟨hsize, hplace, hsmall, haligned, hwhole, hleast, hmost, hunits⟩ =>
      ⟨hsize, hplace, hsmall, haligned, hwhole, hleast, hmost, hunits⟩
  refine ⟨fun l => ⟨hasks fun h _ => exec_imageLoad s h, hasks fun h _ => exec_enqueue s h, hasks fun h _ => exec_memread s h,
      hasks fun h _ => exec_memwrite s h, hasks fun h _ => exec_regread s h, hasks fun h _ => exec_regwrite s h,
      hasks fun h _ => exec_preempt s h⟩,
    hasks fun h harg => exec_domainCreate s h (harg rfl), hasks fun h harg => exec_domainDestroy s h (harg rfl), ?memory,
    fun hr htype h => exec_memread_unaligned (hready hr) htype h, fun hr htype h => exec_memwrite_unaligned (hready hr) htype h,
    fun o hr htype hplace ho hmay hup hstatus => exec_regread_register (hready hr) hplace ho htype hmay hup hstatus,
    fun o hr htype hplace ho hmay => exec_regwrite_register (hready hr) hplace ho htype hmay,
    fun o hr hplace ho hmay => ⟨fun htype => exec_regread_refused (hready hr) hplace ho htype hmay,
      fun htype => exec_regwrite_refused (hready hr) hplace ho htype hmay⟩,
    fun hr htype => exec_preempt_request (hready hr) htype,
    fun u hr htype harg hload hlaunch => exec_imageLoad_payload (hready hr) htype harg hload hlaunch,
    fun hr htype hq hup => gives_enqueue (hready hr) htype hq hup,
    fun n hr htype harg hd hslot hfree => gives_domainCreate (hready hr) htype harg hd hslot hfree,
    fun n hr htype harg hslot hidle => gives_domainDestroy (hready hr) htype harg hslot hidle,
    fun hr htype harg h => exec_domainCreate_refused (hready hr) htype harg h,
    fun hr htype harg h => exec_domainDestroy_none (hready hr) htype harg h⟩
  intro hr a n queued
  refine ⟨fun htype h => ?read, fun htype h => ⟨fun hidle => ?write, fun hbusy => ?busy⟩⟩
  case read =>
    exact gives_of_exec (exec_memread_range (hready hr) htype (hrange h)) 
      (State.msgWindow_queued (p := fun r => r == .hbm || r == .capacity || r == .window) (hrange h) (by simp [or_assoc]) .ld)
  case write =>
    have hnone : (List.range (n / 8)).any (fun i => regionOf (a + 8 * i) == .window && s.windowBusy (a + 8 * i)) = false := by
      simpa [List.any_eq_false] using hidle
    have hexec := exec_memwrite_range (hready hr) htype (hrange h)
    rw [hnone, if_neg Bool.false_ne_true] at hexec
    exact gives_of_exec hexec (State.msgWindow_queued (p := fun r => r == .hbm || r == .window) (hrange h)
      (fun r hr => by
        simp only [Bool.or_eq_true, beq_iff_eq] at hr
        exact hr.imp_right .inr) .st)
  case busy =>
    have hsome : (List.range (n / 8)).any (fun i => regionOf (a + 8 * i) == .window && s.windowBusy (a + 8 * i)) = true := by
      simpa [List.any_eq_true] using hbusy
    rw [exec_memwrite_range (hready hr) htype (hrange h), hsome, if_pos rfl]

end Sys2Proof.Machine
end

section
/-! SUPPORT. A request of another module that waits for its order token (R232, R396). Refutes O48. -/

namespace Sys2Proof.Machine

/-- A request of module 1 that waits for its order token, at an address one beyond the 2^44 bytes of a module (R20). -/
def beyondReq : RemoteReq := ⟨0, 1, 0, false, .st, 2 ^ 44, 3, false, true, false, 0, 0, 0, [], false, 5⟩

/-- Port 0 is UP and is the way to module 1, of which that request waits. -/
def beyondState : State :=
  { State.reset with xlinks := [(0, { Link.zero with st := .up })], routeTab := [(1, 1)], farHeld := [beyondReq] }

/-- The DATA flit that comes in its turn at port 0. -/
def nextFlit : TxFlit := ⟨1, 0, 1, 0, .none⟩

/-- The flit is taken: the link carries it, its CRC is right, and it comes from module 1. -/
theorem nextFlit_taken : (beyondState.xlink 0).carries = true ∧ flitOk nextFlit.bytes = true ∧ flitType nextFlit.bytes = 1 ∧
    flitSeq nextFlit.bytes = ((beyondState.xlink 0).rxSeq + 1) % 4096 ∧ (tget 0 (1 % 1024) beyondState.routeTab).getLsbD 0 = true ∧
    (beyondState.xlink 0).pending = [] := by decide +kernel

/-- Refutes O48: the clause on an order token promises that the request which it releases is performed at its own address of this module,
but a held request at 2^44 has none there; its access would be at an address below 2^44. -/
theorem not_trafficBetweenModules : ¬ Obligations.TrafficBetweenModules := by
  unfold Obligations.TrafficBetweenModules
  intro h
  obtain ⟨hcarries, hok, htype, hseq, hroute, hpending⟩ := nextFlit_taken
  obtain ⟨-, -, -, htoken, -⟩ :=
    h beyondState 0 nextFlit.bytes 1 5 .none ⟨MReq.zero, 0, none, 0, .held, false⟩ beyondReq
  have hcalm : ∀ j ∈ beyondState.injs, j.array ≠ 12 := fun _ hj => absurd hj List.not_mem_nil
  obtain ⟨t, -, ⟨y, -, -, haddr, -⟩, -⟩ :=
    htoken ⟨hcarries, hcalm, hok, htype, hseq, by decide, hroute, hpending⟩ rfl rfl rfl
  have hplace : y.pa % 2 ^ 44 = 2 ^ 44 := haddr
  omega

end Sys2Proof.Machine
end

section
/-! SUPPORT. Management commands, telemetry and the clock (R421 to R433, Tables 19-3, 19-6 and 19-7). Settles O52. -/

namespace Sys2Proof.Machine

/-! ## Replies (R422, R428) -/

/-- The reply to a command is where it came from: after those of Borelle, or in its mailbox, which is free again. -/
def mgAnswered (s t : State) (m : Mgmt) (status : Nat) (data : List Byte) : Prop :=
  (m.mailbox = none → t.summit.borelle = s.summit.borelle ++ [borelleReply m status data]) ∧
  (∀ k, m.mailbox = some k → (t.mbox k).stat = status ∧ (t.mbox k).busy = false ∧ (t.mbox k).len = data.length ∧
    ∀ i, 8 * i < data.length → tget 0 i (t.mbox k).buf = BitVec.ofNat 64 (leNat ((data.drop (8 * i)).take 8)))

/-- Nothing but replies has changed. -/
def mgSame (s t : State) : Prop := t = { s with summit := { s.summit with borelle := t.summit.borelle }, mboxes := t.mboxes }

/-- A table that is written key by key reads as the function that it is written from. -/
theorem tget_foldl_tput_over (f : Nat → Word) (m : Map Word) {n i : Nat} (hi : i < n) :
    tget 0 i ((List.range n).foldl (fun m i => tput 0 i (f i) m) m) = f i := by
  induction n with
  | zero => omega
  | succ n ih =>
    rw [List.range_succ, List.foldl_append, List.foldl_cons, List.foldl_nil]
    by_cases hn : i = n
    · rw [hn, tget_tput_same]
    · rw [tget_tput_ne _ _ _ _ _ hn, ih (by omega)]

theorem tget_bufPut (buf : Map Word) (b : List Byte) {i : Nat} (hi : 8 * i < b.length) :
    tget 0 i (bufPut buf b) = BitVec.ofNat 64 (leNat ((b.drop (8 * i)).take 8)) :=
  tget_foldl_tput_over _ _ (by omega)

theorem State.mbox_modMbox (s : State) (k : Nat) (f : MBox → MBox) : (s.modMbox k f).mbox k = f (s.mbox k) := tget_tput_same ..

theorem mgAnswered_mgReply {s u : State} (h : u.summit.borelle = s.summit.borelle) (m : Mgmt) (status : Nat) (data : List Byte) :
    mgAnswered s (u.mgReply m status data) m status data := by
  rw [mgAnswered, ← h, State.mgReply]
  cases hsource : m.mailbox with
  | none => exact ⟨fun _ => rfl, fun k hk => nomatch hk⟩
  | some k =>
    refine ⟨fun hk => (nomatch hk), fun j hj => ?_⟩
    obtain rfl := Option.some.inj hj
    dsimp only
    rw [State.mbox_modMbox]
    exact ⟨rfl, rfl, rfl, fun i hi => tget_bufPut _ data hi⟩

theorem mgSame_mgReply (s : State) (m : Mgmt) (status : Nat) (data : List Byte) : mgSame s (s.mgReply m status data) := by
  rw [mgSame, State.mgReply]
  cases m.mailbox <;> rfl

section
variable {u t : State} (h : mgSame u t)
include h

theorem mgSame.summit : t.summit = { u.summit with borelle := t.summit.borelle } := by
  have h' := congrArg State.summit h
  exact h'

theorem mgSame.module : t.module = u.module := by rw [h]

theorem mgSame.agenda : t.agenda = u.agenda := by rw [h]

theorem mgSame.awaits {n : Nat} {i : Instr} (k : u.awaits n i) : t.awaits n i := by
  unfold State.awaits at k ⊢
  rwa [h.agenda]

theorem mgSame.group (gn : Nat) : t.group gn = u.group gn := by rw [h]; rfl

theorem mgSame.die (k : Nat) : t.die k = u.die k := by rw [h]; rfl

theorem mgSame.isFull (k : Nat) : t.isFull k = u.isFull k := by rw [h]; rfl

theorem mgSame.sameProgram {s : State} (hu : sameProgram s u) : sameProgram s t := by
  rw [h]
  exact hu

end

/-! ## Commands (R422, Table 19-3) -/

/-- The source of a command may give it: its mailbox, if it has one, is of a READY stack and holds its data; nothing reserved is set. -/
structure mgReady (s : State) (m : Mgmt) : Prop where
  clean : m.rsv = 0
  mailbox : ∀ k, m.mailbox = some k → (s.base k).tstat = 1 ∧ m.data.length ≤ 512

theorem mgReady.up {s : State} {m : Mgmt} (h : ∀ k, m.mailbox = some k → (s.base k).tstat = 1) :
    m.mailbox.any (fun k => (s.base k).tstat != 1) = false := by
  cases hsource : m.mailbox with
  | none => rfl
  | some k => simp [h k hsource]

section
variable {s : State} {m : Mgmt} {i : Instr} {borelleOnly inRecovery : Bool} {f : State → MgOut}
  (hexec : exec i s = .next (s.mgmt m borelleOnly inRecovery f))
include hexec

/-- A privileged command of a mailbox is refused with PRIV. -/
theorem gives_mgmt_priv (honly : borelleOnly = true) {k : Nat} (hsource : m.mailbox = some k) (hup : (s.base k).tstat = 1) :
    gives i s (fun t => mgAnswered s t m 4 [] ∧ mgSame s t) := by
  have hready := mgReady.up (s := s) (m := m) fun j hj => Option.some.inj (hsource.symm.trans hj) ▸ hup
  have hrefused : s.mgmt m borelleOnly inRecovery f = s.mgReply m 4 [] := by
    rw [State.mgmt, hready, if_neg Bool.false_ne_true]
    simp only [honly, hsource, Option.isSome_some, Bool.and_self, if_true, ite_self]
  exact gives_of_exec (hexec.trans (congrArg _ hrefused)) ⟨mgAnswered_mgReply rfl .., mgSame_mgReply ..⟩

section
variable (hready : mgReady s m) (hrecovery : inRecovery = true ∨ s.summit.recovery = false)
  (hsource : borelleOnly = false ∨ m.mailbox = none)
include hready hrecovery hsource

theorem exec_mgmt {status : Nat} {data : List Byte} {u : State} (hf : f s = (status, data, u)) :
    exec i s = .next (u.mgReply m status data) := by
  have hup := mgReady.up fun k hk => (hready.mailbox k hk).1
  have hstage : (s.summit.recovery && !inRecovery) = false := by rcases hrecovery with h | h <;> simp [h]
  have hpriv : (m.mailbox.isSome && borelleOnly) = false := by rcases hsource with h | h <;> simp [h]
  have hbad : (m.rsv != 0 || (m.mailbox.isSome && decide (m.data.length > 512))) = false := by
    rw [hready.clean]
    cases hbox : m.mailbox with
    | none => rfl
    | some k => simp [(hready.mailbox k hbox).2]
  rw [hexec]
  simp only [State.mgmt, hup, hstage, hpriv, hbad, Bool.false_eq_true, if_false, hf]

/-- A command that changes nothing is answered. -/
theorem gives_mgmt_same {status : Nat} {data : List Byte} (hf : f s = (status, data, s)) :
    gives i s (fun t => mgAnswered s t m status data ∧ mgSame s t) :=
  gives_of_exec (exec_mgmt hexec hready hrecovery hsource hf) ⟨mgAnswered_mgReply rfl .., mgSame_mgReply ..⟩

/-- A command takes its effect, and is answered. -/
theorem gives_mgmt {status : Nat} {data : List Byte} {u : State} (hf : f s = (status, data, u))
    (hborelle : u.summit.borelle = s.summit.borelle) : gives i s (fun t => mgAnswered s t m status data ∧ mgSame u t) :=
  gives_of_exec (exec_mgmt hexec hready hrecovery hsource hf) ⟨mgAnswered_mgReply hborelle .., mgSame_mgReply ..⟩

end

end

section
variable {s : State} {m : Mgmt} (hready : mgReady s m)
include hready

/-! ### TELEM, POWER_CAP, LOG_READ, ATTEST -/

theorem gives_telem (h0 : m.arg0 = 0) (h1 : m.arg1 = 0) (hdata : m.data = []) : gives (.telem m) s (fun t =>
    mgAnswered s t m 0 (if s.summit.frame = [] then List.replicate 128 0 else s.summit.frame) ∧ mgSame s t) := by
  refine gives_mgmt_same (i := .telem m) rfl hready (.inl rfl) (.inl rfl) ?_
  have hargs : argsOk m 0 = true := by simp [argsOk, h0, h1, hdata]
  simp only [hargs, if_true, List.isEmpty_iff]

theorem gives_powerCap_bad (hrec : s.summit.recovery = false) (h : m.arg0.toNat < 1000 ∨ 4400 < m.arg0.toNat) :
    gives (.powerCap m) s (fun t => mgAnswered s t m 2 [] ∧ mgSame s t) := by
  refine gives_mgmt_same (i := .powerCap m) rfl hready (.inr hrec) (.inl rfl) ?_
  have hbad : (decide (m.arg0.toNat < 1000) || decide (m.arg0.toNat > 4400)) = true := by simpa using h
  simp only [hbad, Bool.true_or, if_true]

theorem gives_powerCap (hrec : s.summit.recovery = false) (hlow : 1000 ≤ m.arg0.toNat) (hhigh : m.arg0.toNat ≤ 4400)
    (h1 : m.arg1 = 0) (hdata : m.data = []) : gives (.powerCap m) s (fun t => mgAnswered s t m 0 [] ∧
      (m.mailbox = none → t.summit.cap = min m.arg0.toNat s.summit.capM) ∧
      (m.mailbox ≠ none → t.summit.cap = min s.summit.capB m.arg0.toNat) ∧ sameProgram s t) := by
  let u := s.modSummit (fun x => if m.mailbox.isSome then { x with capM := m.arg0.toNat } else { x with capB := m.arg0.toNat })
  have hborelle : u.summit.borelle = s.summit.borelle := by
    simp only [u, State.modSummit]
    split <;> rfl
  refine (gives_mgmt (i := .powerCap m) (u := u) rfl hready (.inr hrec) (.inl rfl) (status := 0) (data := []) ?_ hborelle).imp
    fun t ⟨hanswer, hsame⟩ => ⟨hanswer, fun hnone => ?_, fun hsome => ?_, hsame.sameProgram (sameProgram.refl s)⟩
  · simp [Nat.not_lt.mpr hlow, Nat.not_lt.mpr hhigh, h1, hdata, u]
  · rw [hsame.summit]
    simp [u, State.modSummit, Summit.cap, hnone]
  · rw [hsame.summit]
    simp [u, State.modSummit, Summit.cap, Option.isSome_iff_ne_none.mpr hsome]

theorem gives_logRead {l : ErrLog} (hdata : m.data = []) (hlog : s.logOf m.arg0.toNat = some (some l)) : gives (.logRead m) s (fun t =>
    mgSame s t ∧ (∀ e, l.ents[m.arg1.toNat]? = some e → mgAnswered s t m 0 (logBytes e)) ∧
    (l.ents.length ≤ m.arg1.toNat → mgAnswered s t m 5 [])) := by
  have hempty : (!m.data.isEmpty) = false := by simp [hdata]
  cases hentry : l.ents[m.arg1.toNat]? with
  | some e =>
    refine (gives_mgmt_same (i := .logRead m) (status := 0) (data := logBytes e) rfl hready (.inl rfl) (.inl rfl) ?_).imp
      fun t ⟨hanswer, hsame⟩ => ⟨hsame, fun e' he' => Option.some.inj he' ▸ hanswer, fun hover => ?_⟩
    · simp only [hempty, Bool.false_eq_true, if_false, hlog, hentry]
    · exact absurd (List.getElem?_eq_none hover) (by simp [hentry])
  | none =>
    refine (gives_mgmt_same (i := .logRead m) (status := 5) (data := []) rfl hready (.inl rfl) (.inl rfl) ?_).imp
      fun t ⟨hanswer, hsame⟩ => ⟨hsame, fun e he => absurd he (by simp), fun _ => hanswer⟩
    simp only [hempty, Bool.false_eq_true, if_false, hlog, hentry]

theorem gives_attest (hrec : s.summit.recovery = false) (h0 : m.arg0.toNat < 65536) (h1 : m.arg1 = 0) (hdata : m.data.length = 32) :
    gives (.attest m) s (fun t => mgSame s t ∧ mgAnswered s t m 0
      (s.quote m.data m.arg0.toNat ++ edSign Config.identitySeed (s.quote m.data m.arg0.toNat))) := by
  refine (gives_mgmt_same (i := .attest m) rfl hready (.inr hrec) (.inl rfl) ?_).imp fun t ⟨hanswer, hsame⟩ => ⟨hsame, hanswer⟩
  have hgood : (m.arg0.toNat / 65536 != 0 || m.arg1 != 0 || m.data.length != 32) = false := by
    simp [Nat.div_eq_of_lt h0, h1, hdata]
  simp only [hgood, Bool.false_eq_true, if_false]

/-! ### FW_UPDATE (R420, R431) -/

section
variable (hfirst : 1 ≤ m.data.length) (hmost : m.data.length ≤ 4096) (hin : m.arg0.toNat + m.data.length ≤ m.arg1.toNat)
  (hborelle : m.mailbox = none)
include hfirst hmost hin hborelle

omit hready hborelle in
theorem fwChunk_ok : (m.data.isEmpty || decide (m.data.length > 4096) || decide (m.arg0.toNat + m.data.length > m.arg1.toNat)) = false := by
  have hsome : m.data.isEmpty = false := by
    rw [List.isEmpty_eq_false_iff]
    exact List.ne_nil_of_length_pos hfirst
  simp [hsome, Nat.not_lt.mpr hmost, Nat.not_lt.mpr hin]

/-- The first chunk of an image begins a transfer. -/
theorem gives_fwUpdate_begins (hidle : s.summit.fw = none) (hoff : m.arg0.toNat = 0) (hhead : 16 ≤ m.data.length)
    (htotal : m.arg1.toNat = 128 + fwLength m.data) (hmore : m.data.length < m.arg1.toNat) : gives (.fwUpdate m) s (fun t =>
      mgAnswered s t m 0 [] ∧ t.summit.fw = some ⟨m.data, m.arg1.toNat, s.now⟩ ∧
      t.awaits (s.now + 19000000000) .fwTransferTimeout ∧ t.summit.banks = s.summit.banks) := by
  let u := (s.modSummit (fun x => { x with fw := some ⟨m.data, m.arg1.toNat, s.now⟩ })).after tenSeconds .fwTransferTimeout
  refine (gives_mgmt (i := .fwUpdate m) (u := u) (status := 0) (data := []) rfl hready (.inl rfl) (.inr hborelle) ?_ rfl).imp
    fun t ⟨hanswer, hsame⟩ => ⟨hanswer, ?_, hsame.awaits (State.awaits_at ..), ?_⟩
  · have hnow : (m.data.length == m.arg1.toNat) = false := beq_false_of_ne (by omega)
    have hgood : (decide (m.data.length < 16) || m.arg1.toNat != 128 + fwLength m.data) = false := by
      rw [htotal, bne_self_eq_false, Bool.or_false, decide_eq_false (by omega)]
    have hbegins : (m.arg0.toNat != 0) = false := by rw [hoff]; rfl
    simp only [fwChunk_ok hfirst hmost hin, Bool.false_eq_true, if_false, hidle, hbegins, hgood, State.fwChunk, List.nil_append, hnow]
    rfl
  · rw [hsame.summit]
    rfl
  · rw [hsame.summit]
    rfl

variable {w : FwXfer} (hfw : s.summit.fw = some w)
include hfw

/-- A second transfer is BUSY. -/
theorem gives_fwUpdate_busy (hoff : m.arg0.toNat = 0) : gives (.fwUpdate m) s (fun t => mgAnswered s t m 1 [] ∧ mgSame s t) := by
  refine gives_mgmt_same (i := .fwUpdate m) rfl hready (.inl rfl) (.inr hborelle) ?_
  have hbegins : (m.arg0.toNat == 0) = true := beq_iff_eq.mpr hoff
  simp only [fwChunk_ok hfirst hmost hin, Bool.false_eq_true, if_false, hfw, hbegins, if_true]

variable (hoff : m.arg0.toNat ≠ 0) (htotal : m.arg1.toNat = w.total)
include hoff htotal

/-- A chunk out of its turn ends the transfer. -/
theorem gives_fwUpdate_sequence (hgap : m.arg0.toNat ≠ w.data.length) : gives (.fwUpdate m) s (fun t => mgAnswered s t m 6 [] ∧
    t.summit.fw = none ∧ t.summit.banks = s.summit.banks) := by
  refine (gives_mgmt (i := .fwUpdate m) (u := s.modSummit (fun x => { x with fw := none })) (status := 6) (data := []) rfl hready
    (.inl rfl) (.inr hborelle) ?_ rfl).imp fun t ⟨hanswer, hsame⟩ => ⟨hanswer, ?_, ?_⟩
  · have hsize : (m.arg1.toNat != w.total) = false := by rw [htotal]; exact bne_self_eq_false _
    simp only [fwChunk_ok hfirst hmost hin, Bool.false_eq_true, if_false, hfw, beq_false_of_ne hoff, hsize, bne_iff_ne.mpr hgap, if_true]
  · rw [hsame.summit]
    rfl
  · rw [hsame.summit]
    rfl

variable (hplace : m.arg0.toNat = w.data.length) (hlast : m.arg0.toNat + m.data.length = m.arg1.toNat)
include hplace hlast

/-- The last chunk of an image ends its transfer, with the outcome of its checks. -/
theorem exec_fwUpdate_last {status : Nat} {u : State} (hfinish : s.fwFinish (w.data ++ m.data) = (status, [], u)) :
    exec (.fwUpdate m) s = .next (u.mgReply m status []) := by
  refine exec_mgmt (i := .fwUpdate m) rfl hready (.inl rfl) (.inr hborelle) ?_
  have hsize : (m.arg1.toNat != w.total) = false := by rw [htotal]; exact bne_self_eq_false _
  have hturn : (m.arg0.toNat != w.data.length) = false := by rw [hplace]; exact bne_self_eq_false _
  have hwhole : ((w.data ++ m.data).length == w.total) = true := by
    rw [beq_iff_eq, List.length_append, ← htotal, ← hlast, hplace]
  simp only [fwChunk_ok hfirst hmost hin, Bool.false_eq_true, if_false, hfw, beq_false_of_ne hoff, hsize, hturn, State.fwChunk, hwhole,
    if_true, hfinish]

/-- An image that is accepted takes the bank that is not active. -/
theorem gives_fwUpdate_accepted (hc : fwComponent (w.data ++ m.data) ≤ 2)
    (haccepted : fwAccepted (w.data ++ m.data) (fwComponent (w.data ++ m.data))
      (tget 0 (fwComponent (w.data ++ m.data)) s.summit.rollback) = true) :
    gives (.fwUpdate m) s (fun t => mgAnswered s t m 0 [] ∧ t.summit.fw = none ∧
      (∃ a, a < 2 ∧ a ≠ tget 0 (fwComponent (w.data ++ m.data)) s.summit.active % 2 ∧
        tget [] (2 * fwComponent (w.data ++ m.data) + a) t.summit.banks = w.data ++ m.data ∧
        ∀ k, k ≠ 2 * fwComponent (w.data ++ m.data) + a → tget [] k t.summit.banks = tget [] k s.summit.banks) ∧
      tget 0 (fwComponent (w.data ++ m.data)) t.summit.active % 2 =
        tget 0 (fwComponent (w.data ++ m.data)) s.summit.active % 2) := by
  let b := w.data ++ m.data
  let c := fwComponent b
  let a := tget 0 c s.summit.active % 2
  let u := s.modSummit (fun x =>
    { x with fw := none, banks := tput [] (2 * c + (1 - a)) b x.banks, active := tput 0 c (a + 2) x.active })
  have hgood : (decide (c ≤ 2) && fwAccepted b c (tget 0 c s.summit.rollback)) = true := by
    rw [haccepted, decide_eq_true hc]
    rfl
  have hfinish : s.fwFinish b = (0, [], u) := by
    rw [State.fwFinish]
    exact if_pos hgood
  refine gives_of_exec (exec_fwUpdate_last hready hfirst hmost hin hborelle hfw hoff htotal hplace hlast hfinish)
    ⟨mgAnswered_mgReply rfl .., ?_⟩
  have hsame := mgSame_mgReply u m 0 []
  generalize u.mgReply m 0 [] = t at hsame
  rw [hsame.summit]
  have ha : a < 2 := Nat.mod_lt _ (by decide)
  have hother : 1 - a ≠ a := by omega
  refine ⟨rfl, ⟨1 - a, by omega, hother, tget_tput_same .., fun k hk => tget_tput_ne _ _ _ _ _ hk⟩, ?_⟩
  change tget 0 c (tput 0 c (a + 2) s.summit.active) % 2 = a
  rw [tget_tput_same]
  omega

/-- An image that is not accepted is AUTH, and changes no bank. -/
theorem gives_fwUpdate_refused (h : ¬ (fwComponent (w.data ++ m.data) ≤ 2 ∧ fwAccepted (w.data ++ m.data)
      (fwComponent (w.data ++ m.data)) (tget 0 (fwComponent (w.data ++ m.data)) s.summit.rollback) = true)) :
    gives (.fwUpdate m) s (fun t => mgAnswered s t m 3 [] ∧ t.summit.fw = none ∧ t.summit.banks = s.summit.banks ∧
      t.summit.active = s.summit.active) := by
  let b := w.data ++ m.data
  let u := s.modSummit (fun x => { x with fw := none })
  have hbad : ¬ (decide (fwComponent b ≤ 2) && fwAccepted b (fwComponent b) (tget 0 (fwComponent b) s.summit.rollback)) = true := by
    rw [Bool.and_eq_true, decide_eq_true_eq]
    exact h
  have hfinish : s.fwFinish b = (3, [], u) := by
    rw [State.fwFinish]
    exact if_neg hbad
  refine gives_of_exec (exec_fwUpdate_last hready hfirst hmost hin hborelle hfw hoff htotal hplace hlast hfinish)
    ⟨mgAnswered_mgReply rfl .., ?_⟩
  have hsame := mgSame_mgReply u m 3 []
  generalize u.mgReply m 3 [] = t at hsame
  rw [hsame.summit]
  exact ⟨rfl, rfl, rfl⟩

end

/-! ### KEYSET, SET_MODULE, RESET, OWNER_SET (R418, R421, R432) -/

section
variable (hrec : s.summit.recovery = false) (hborelle : m.mailbox = none)
include hrec hborelle

section
variable {o : List Byte} {k : KeyEnt} (h0 : m.arg0 = 0) (h1 : m.arg1 = 0) (hdata : m.data.length = 120) (hentry : fld m.data 0 1 ≤ 15)
  (hclean : fld m.data 1 7 = 0) (hkey : keyEntry ((m.data.drop 8).take 40) = some k) (howner : s.summit.owner = some o)
include h0 h1 hdata hentry hclean hkey howner

omit hready hrec hborelle hkey howner in
theorem keysetArgs_ok : (argsOk m 120 && decide (fld m.data 0 1 ≤ 15) && fld m.data 1 7 == 0) = true := by
  simp [argsOk, h0, h1, hdata, hentry, hclean]

theorem gives_keyset (hsigned : edVerify o (m.data.take 56) (m.data.drop 56) = true) (hnewer : s.summit.keyCnt < fld m.data 48 8) :
    gives (.keyset m) s (fun t => mgAnswered s t m 0 [] ∧ tget .zero (fld m.data 0 1) t.summit.keys = k ∧
      (∀ j, j ≠ fld m.data 0 1 → tget .zero j t.summit.keys = tget .zero j s.summit.keys) ∧
      t.summit.keyCnt = fld m.data 48 8 ∧ sameProgram s t) := by
  let u := s.modSummit (fun x => { x with keys := tput .zero (fld m.data 0 1) k x.keys, keyCnt := fld m.data 48 8 })
  refine (gives_mgmt (i := .keyset m) (u := u) (status := 0) (data := []) rfl hready (.inr hrec) (.inr hborelle) ?_ rfl).imp
    fun t ⟨hanswer, hsame⟩ => ⟨hanswer, ?_⟩
  · simp only [keysetArgs_ok h0 h1 hdata hentry hclean, hkey, howner, hsigned, Bool.true_and, gt_iff_lt, decide_eq_true hnewer, if_true]
    rfl
  · have hprogram := hsame.sameProgram (s := s) (sameProgram.refl s)
    rw [hsame.summit]
    exact ⟨tget_tput_same .., fun j hj => tget_tput_ne _ _ _ _ _ hj, rfl, hprogram⟩

theorem gives_keyset_refused
    (h : ¬ (edVerify o (m.data.take 56) (m.data.drop 56) = true ∧ s.summit.keyCnt < fld m.data 48 8)) :
    gives (.keyset m) s (fun t => mgAnswered s t m 3 [] ∧ mgSame s t) := by
  refine gives_mgmt_same (i := .keyset m) rfl hready (.inr hrec) (.inr hborelle) ?_
  have hbad : ¬ (edVerify o (m.data.take 56) (m.data.drop 56) && decide (fld m.data 48 8 > s.summit.keyCnt)) = true := by
    rw [Bool.and_eq_true, decide_eq_true_eq]
    exact h
  simp only [keysetArgs_ok h0 h1 hdata hentry hclean, hkey, howner, if_neg hbad]

end

theorem gives_setModule (h0 : m.arg0.toNat ≤ 786431) (h1 : m.arg1 = 0) (hdata : m.data = []) : gives (.setModule m) s (fun t =>
    mgAnswered s t m 0 [] ∧ t.summit.store = m.arg0.toNat ∧ t.module = s.module ∧ sameProgram s t) := by
  let u := s.modSummit (fun x => { x with store := m.arg0.toNat })
  refine (gives_mgmt (i := .setModule m) (u := u) (status := 0) (data := []) rfl hready (.inr hrec) (.inr hborelle) ?_ rfl).imp
    fun t ⟨hanswer, hsame⟩ => ⟨hanswer, by rw [hsame.summit]; rfl, hsame.module, hsame.sameProgram (sameProgram.refl s)⟩
  simp [Nat.not_lt.mpr h0, h1, hdata, u]

/-- RESET answers, and then begins bring-up anew. -/
theorem gives_reset (h0 : m.arg0 = 0) (h1 : m.arg1 = 0) (hdata : m.data = []) : gives (.reset m) s (fun t =>
    mgAnswered s t m 0 [] ∧ t.summit.stage = 1 ∧ t.summit.mb0 = List.replicate 64 0 ∧ t.summit.capB = 4400 ∧ t.summit.capM = 4400 ∧
    t.summit.keys = s.summit.keys ∧ t.summit.store = s.summit.store ∧ (∀ gn, (t.group gn).st = .free) ∧
    (∀ k, (t.die k).released = none) ∧ ∀ u, t.isFull u = false) := by
  refine (gives_mgmt (i := .reset m) (u := s.moduleReset false) (status := 0) (data := []) rfl hready (.inr hrec) (.inr hborelle) ?_
    rfl).imp fun t ⟨hanswer, hsame⟩ => ⟨hanswer, ?_⟩
  · have hargs : argsOk m 0 = true := by simp [argsOk, h0, h1, hdata]
    simp only [hargs, if_true]
  · have hgroup := hsame.group
    have hdie := hsame.die
    have hfull := hsame.isFull
    rw [hsame.summit]
    exact ⟨rfl, rfl, rfl, rfl, rfl, rfl, fun gn => by rw [hgroup]; rfl, fun k => by rw [hdie]; rfl, fun k => by rw [hfull]; rfl⟩

section
variable (h0 : m.arg0 = 0) (h1 : m.arg1 = 0) (hdata : m.data.length = 136) (hclean : fld m.data 40 32 = 0)
include h0 h1 hdata hclean

omit hready hrec hborelle in
theorem ownerArgs_ok : (!argsOk m 136 || fld m.data 40 32 != 0) = false := by
  simp [argsOk, h0, h1, hdata, hclean]

/-- An owner is taken where there is none and the data hold no signature, or where the owner that there is has signed a newer one. -/
theorem gives_ownerSet (h : s.summit.owner = none ∧ 1 ≤ fld m.data 32 8 ∧ fld m.data 72 64 = 0 ∨
      ∃ o, s.summit.owner = some o ∧ edVerify o (m.data.take 72) (m.data.drop 72) = true ∧ s.summit.ownerCnt < fld m.data 32 8) :
    gives (.ownerSet m) s (fun t => mgAnswered s t m 0 [] ∧ t.summit.owner = some (m.data.take 32) ∧
      t.summit.ownerCnt = fld m.data 32 8 ∧ t.summit.keys = s.summit.keys ∧ sameProgram s t) := by
  let u := s.modSummit (fun x => { x with owner := some (m.data.take 32), ownerCnt := fld m.data 32 8 })
  refine (gives_mgmt (i := .ownerSet m) (u := u) (status := 0) (data := []) rfl hready (.inr hrec) (.inr hborelle) ?_ rfl).imp
    fun t ⟨hanswer, hsame⟩ => ⟨hanswer, ?_⟩
  · rcases h with ⟨hnone, hcount, hunsigned⟩ | ⟨o, hsome, hsigned, hnewer⟩
    · simp only [ownerArgs_ok h0 h1 hdata hclean, Bool.false_eq_true, if_false, hnone, ge_iff_le, decide_eq_true hcount, hunsigned,
        beq_self_eq_true, Bool.and_self, if_true]
      rfl
    · simp only [ownerArgs_ok h0 h1 hdata hclean, Bool.false_eq_true, if_false, hsome, hsigned, gt_iff_lt, decide_eq_true hnewer,
        Bool.and_self, if_true]
      rfl
  · have hprogram := hsame.sameProgram (s := s) (sameProgram.refl s)
    rw [hsame.summit]
    exact ⟨rfl, rfl, rfl, hprogram⟩

theorem gives_ownerSet_refused (h : s.summit.owner = none ∧ (fld m.data 32 8 = 0 ∨ fld m.data 72 64 ≠ 0) ∨
      ∃ o, s.summit.owner = some o ∧
        (edVerify o (m.data.take 72) (m.data.drop 72) = false ∨ fld m.data 32 8 ≤ s.summit.ownerCnt)) :
    gives (.ownerSet m) s (fun t => mgAnswered s t m 3 [] ∧ mgSame s t) := by
  refine gives_mgmt_same (i := .ownerSet m) rfl hready (.inr hrec) (.inr hborelle) ?_
  rcases h with ⟨hnone, hbad⟩ | ⟨o, hsome, hbad⟩
  · have hrefused : ¬ (decide (fld m.data 32 8 ≥ 1) && fld m.data 72 64 == 0) = true := by
      rw [Bool.and_eq_true, decide_eq_true_eq, beq_iff_eq]
      omega
    simp only [ownerArgs_ok h0 h1 hdata hclean, Bool.false_eq_true, if_false, hnone, if_neg hrefused]
  · have hrefused : ¬ (edVerify o (m.data.take 72) (m.data.drop 72) && decide (fld m.data 32 8 > s.summit.ownerCnt)) = true := by
      rw [Bool.and_eq_true, decide_eq_true_eq]
      rintro ⟨hsigned, hnewer⟩
      rcases hbad with hbad | hbad
      · exact absurd hsigned (by simp [hbad])
      · omega
    simp only [ownerArgs_ok h0 h1 hdata hclean, Bool.false_eq_true, if_false, hsome, if_neg hrefused]

end

end

end

/-- A transfer is abandoned ten seconds after its last chunk. -/
theorem gives_fwTransferTimeout {s : State} {w : FwXfer} (hfw : s.summit.fw = some w) : gives .fwTransferTimeout s (fun t =>
    t = { s with summit := { s.summit with fw := if w.last + 19000000000 ≤ s.now then none else some w } }) := by
  have hexec : exec .fwTransferTimeout s =
      .next (s.modSummit (fun x => if w.last + 19000000000 ≤ s.now then { x with fw := none } else x)) := by
    change execFwTransferTimeout s = _
    have hten : 10000 * Config.msFc = 19000000000 := by norm_num [Config.msFc]
    simp only [execFwTransferTimeout, State.modSummit, hfw, tenSeconds, hten]
  refine gives_of_exec hexec ?_
  rw [State.modSummit]
  split
  · rfl
  · rw [← hfw]

/-! ## Telemetry and the clock (R424, R425) -/

theorem length_frameOf (s : State) (y : Sensors) (seq : Nat) : (s.frameOf y seq).length = 128 := by
  simp [State.frameOf, List.length_flatMap]

theorem take_frameOf (s : State) (y : Sensors) (seq : Nat) : (s.frameOf y seq).take 4 = leBytes 4 seq := by
  simp only [State.frameOf, List.append_assoc]
  exact List.take_left' (length_leBytes ..)

/-- The window of power samples, with a new one. -/
def Summit.windowWith (x : Summit) (y : Sensors) : List Nat := (y.power.toNat :: x.window).take 10

/-- The state in which a sample is a frame, and in the window. -/
def State.sampledAt (s : State) (y : Sensors) : State :=
  s.modSummit (fun x => { x with
    seq := s.summit.seq + 1, frame := s.frameOf y (s.summit.seq + 1), sampled := s.now, window := s.summit.windowWith y })

/-- The summit controller has told a sample. -/
def toldSample (s : State) (y : Sensors) (z : Summit) : Prop :=
  z.frame.take 4 = leBytes 4 (s.summit.seq + 1) ∧ z.frame.length = 128 ∧
    z = { s.summit with seq := s.summit.seq + 1, frame := z.frame, sampled := s.now, window := s.summit.windowWith y }

theorem toldSample_sampledAt (s : State) (y : Sensors) : toldSample s y (s.sampledAt y).summit :=
  ⟨take_frameOf s y _, length_frameOf s y _, rfl⟩

/-- A step of the fabric clock, down while the power exceeds the cap or a junction 105 °C, else up. -/
def Summit.throttled (x : Summit) (p : BitVec 16) (hot : Bool) : Summit :=
  if p.toNat > x.cap || hot then (if x.fclk > 1000 then { x with fclk := x.fclk - 100, throt := x.throt + 1 } else x)
  else if x.fclk < 1900 then { x with fclk := x.fclk + 100 }
  else x

theorem exec_clockThrottle (p : BitVec 16) (hot : Bool) (s : State) :
    exec (.clockThrottle p hot) s = .next (s.modSummit (fun x => x.throttled p hot)) := rfl

theorem Summit.throttled_down {x : Summit} {p : BitVec 16} {hot : Bool} (h : x.cap < p.toNat ∨ hot = true) :
    x.throttled p hot = if x.fclk > 1000 then { x with fclk := x.fclk - 100, throt := x.throt + 1 } else x := by
  rw [Summit.throttled, if_pos (by simpa using h)]

theorem Summit.throttled_up {x : Summit} {p : BitVec 16} {hot : Bool} (hp : p.toNat ≤ x.cap) (hhot : hot = false) :
    x.throttled p hot = if x.fclk < 1900 then { x with fclk := x.fclk + 100 } else x := by
  rw [Summit.throttled, if_neg (by simpa [hhot] using hp)]

theorem Summit.hot_throttled (x : Summit) (p : BitVec 16) (hot : Bool) : (x.throttled p hot).hot = x.hot := by
  unfold Summit.throttled
  split_ifs <;> rfl

theorem gives_clockThrottle (s : State) (p : BitVec 16) (hot : Bool) : gives (.clockThrottle p hot) s (fun t => sameProgram s t ∧
    ((s.summit.cap < p.toNat ∨ hot = true) → 1000 < s.summit.fclk →
      t.summit.fclk = s.summit.fclk - 100 ∧ t.summit.throt = s.summit.throt + 1) ∧
    ((s.summit.cap < p.toNat ∨ hot = true) → s.summit.fclk ≤ 1000 → t = s) ∧
    (p.toNat ≤ s.summit.cap → hot = false →
      t.summit.fclk = (if s.summit.fclk < 1900 then s.summit.fclk + 100 else s.summit.fclk) ∧ t.summit.throt = s.summit.throt)) := by
  refine gives_of_exec (exec_clockThrottle p hot s) ⟨sameProgram.refl s, fun hover hfast => ?_, fun hover hslow => ?_, fun hp hcool => ?_⟩
  · rw [State.modSummit, Summit.throttled_down hover, if_pos hfast]
    exact ⟨rfl, rfl⟩
  · rw [State.modSummit, Summit.throttled_down hover, if_neg (Nat.not_lt.mpr hslow)]
  · rw [State.modSummit, Summit.throttled_up hp hcool]
    split <;> exact ⟨rfl, rfl⟩

theorem recordFrame_dieCheck (s : State) (array entry ea : Nat) : recordFrame s (s.dieCheck array entry ea) :=
  State.foldl_keeps (recordFrame s) _ _ (fun _ _ h => h.trans (recordFrame_raiseRec ..)) (.refl s)

/-- The fabric held in reset for heat: no die is released, and what is under way is what outlives it. -/
structure fabricHeld (s t : State) : Prop where
  hot : t.summit.hot = true
  dies : ∀ k, (t.die k).released = none
  chosen : t.chosen = []
  mem : t.mem = s.mem
  agenda : ∀ e ∈ t.agenda, outlivesHold e.instr = true

theorem fabricHeld_holdFabric (s : State) : fabricHeld s s.holdFabric := by
  have hrec : recordFrame s ((List.range Config.dies).foldl (fun s d => s.dieCheck 0 0 (2048 * d)) s) :=
    State.foldl_keeps (recordFrame s) _ _ (fun _ _ h => h.trans (recordFrame_dieCheck ..)) (.refl s)
  unfold State.holdFabric
  dsimp only
  generalize (List.range Config.dies).foldl (fun s d => s.dieCheck 0 0 (2048 * d)) s = u at hrec
  refine ⟨rfl, fun k => ?_, rfl, hrec.served.mem, fun e he => (List.mem_filter.mp he).2⟩
  change (tget Die.zero k (tmap Die.zero (fun _ d => { d with released := none }) u.dies)).released = none
  rcases tget_tmap_cases Die.zero (fun _ d => { d with released := none }) u.dies k with h | ⟨d, h⟩
  · rw [h]
  · rw [h]

/-- What a step of the clock leaves of a fabric that is held. -/
theorem fabricHeld.throttled {s t : State} (h : fabricHeld s t) (p : BitVec 16) (hot : Bool) :
    fabricHeld s (t.modSummit (fun x => x.throttled p hot)) :=
  ⟨(Summit.hot_throttled t.summit p hot).trans h.hot, h.dies, h.chosen, h.mem, h.agenda⟩

section
variable {s : State} {y : Sensors}

/-- A sample becomes a frame; one too hot holds the fabric; every tenth is a step of the clock. -/
theorem exec_telemetrySample (s : State) (y : Sensors) : exec (.telemetrySample y) s =
    if (s.summit.seq + 1) % 10 == 0 then
      execClockThrottle (BitVec.ofNat 16 (windowPower (s.summit.windowWith y))) (y.above 1050)
        (if y.above 1150 && !(s.sampledAt y).summit.hot then (s.sampledAt y).holdFabric else s.sampledAt y)
    else .next (if y.above 1150 && !(s.sampledAt y).summit.hot then (s.sampledAt y).holdFabric else s.sampledAt y) := rfl

theorem sample_cool (h : y.above 1150 = false ∨ s.summit.hot = true) : (y.above 1150 && !(s.sampledAt y).summit.hot) = false := by
  have hhot : (s.sampledAt y).summit.hot = s.summit.hot := rfl
  rcases h with h | h <;> simp [hhot, h]

theorem gives_telemetrySample (h : y.above 1150 = false ∨ s.summit.hot = true) (hn : (s.summit.seq + 1) % 10 ≠ 0) :
    gives (.telemetrySample y) s (fun t => toldSample s y t.summit ∧ t = { s with summit := t.summit }) := by
  have hexec : exec (.telemetrySample y) s = .next (s.sampledAt y) := by
    rw [exec_telemetrySample, sample_cool h, if_neg Bool.false_ne_true, if_neg (by simpa using hn)]
  exact gives_of_exec hexec ⟨toldSample_sampledAt s y, rfl⟩

theorem exec_telemetrySample_tenth (h : y.above 1150 = false ∨ s.summit.hot = true) (hn : (s.summit.seq + 1) % 10 = 0) :
    exec (.telemetrySample y) s =
      exec (.clockThrottle (BitVec.ofNat 16 (windowPower (s.summit.windowWith y))) (y.above 1050)) (s.sampledAt y) := by
  rw [exec_telemetrySample, sample_cool h, if_neg Bool.false_ne_true, if_pos (beq_iff_eq.mpr hn)]
  rfl

theorem gives_telemetrySample_hot (h : y.above 1150 = true) (hcool : s.summit.hot = false) :
    gives (.telemetrySample y) s (fun t => fabricHeld s t) := by
  have hhot : (y.above 1150 && !(s.sampledAt y).summit.hot) = true := by
    have hsame : (s.sampledAt y).summit.hot = s.summit.hot := rfl
    rw [h, hsame, hcool]
    rfl
  have hheld : fabricHeld s (s.sampledAt y).holdFabric := by
    obtain ⟨hflag, hdies, hchosen, hmem, hagenda⟩ := fabricHeld_holdFabric (s.sampledAt y)
    exact ⟨hflag, hdies, hchosen, hmem, hagenda⟩
  have hexec := exec_telemetrySample s y
  rw [hhot, if_pos rfl] at hexec
  by_cases hn : ((s.summit.seq + 1) % 10 == 0) = true
  · rw [if_pos hn] at hexec
    exact gives_of_exec hexec (hheld.throttled ..)
  · rw [if_neg hn] at hexec
    exact gives_of_exec hexec hheld

end

/-! ## The obligation -/

/-- Settles O52: each command answers its source with the STATUS of its checks, and has its effect; a sample becomes a frame, and the clock
follows the power. -/
theorem managementCommands : Obligations.ManagementCommands := by
  unfold Obligations.ManagementCommands
  intro s m x answers same ready ok own priv off total chunk d
  have hready : ready → mgReady s m := fun ⟨hclean, hbox⟩ => ⟨hclean, hbox⟩
  refine ⟨fun hr h0 h1 hd => gives_telem (hready hr) h0 h1 hd, fun ⟨hr, hrec⟩ => gives_powerCap (hready hr) hrec,
    fun ⟨hr, hrec⟩ h => gives_powerCap_bad (hready hr) hrec h,
    fun ⟨hr, hbox, hfirst, hmost, hin⟩ hidle hoff hhead htotal hmore =>
      gives_fwUpdate_begins (hready hr) hfirst hmost hin hbox hidle hoff hhead htotal hmore,
    fun w ⟨hr, hbox, hfirst, hmost, hin⟩ hfw hoff => gives_fwUpdate_busy (hready hr) hfirst hmost hin hbox hfw hoff,
    fun w ⟨hr, hbox, hfirst, hmost, hin⟩ hfw hoff htotal hgap =>
      gives_fwUpdate_sequence (hready hr) hfirst hmost hin hbox hfw hoff htotal hgap,
    fun w ⟨hr, hbox, hfirst, hmost, hin⟩ hfw hoff htotal hplace hlast =>
      ⟨gives_fwUpdate_accepted (hready hr) hfirst hmost hin hbox hfw hoff htotal hplace hlast,
        gives_fwUpdate_refused (hready hr) hfirst hmost hin hbox hfw hoff htotal hplace hlast⟩,
    fun w hfw => gives_fwTransferTimeout hfw, fun l hr hd hlog => gives_logRead (hready hr) hd hlog,
    fun ⟨hr, hrec⟩ h0 h1 hd => gives_attest (hready hr) hrec h0 h1 hd,
    fun o k ⟨⟨hr, hrec⟩, hbox⟩ h0 h1 hd hentry hclean hkey howner =>
      ⟨gives_keyset (hready hr) hrec hbox h0 h1 hd hentry hclean hkey howner,
        gives_keyset_refused (hready hr) hrec hbox h0 h1 hd hentry hclean hkey howner⟩,
    fun ⟨⟨hr, hrec⟩, hbox⟩ => gives_setModule (hready hr) hrec hbox, fun ⟨⟨hr, hrec⟩, hbox⟩ => gives_reset (hready hr) hrec hbox, ?owner,
    fun k hbox hup => gives_mgmt_priv (i := .fwUpdate m) rfl rfl hbox hup, fun k hbox hup => gives_mgmt_priv (i := .keyset m) rfl rfl hbox hup,
    fun k hbox hup => gives_mgmt_priv (i := .setModule m) rfl rfl hbox hup, fun k hbox hup => gives_mgmt_priv (i := .reset m) rfl rfl hbox hup,
    fun k hbox hup => gives_mgmt_priv (i := .ownerSet m) rfl rfl hbox hup, ?sample, fun p hot => gives_clockThrottle s p hot⟩
  case owner =>
    rintro ⟨⟨hr, hrec⟩, hbox⟩ h0 h1 hd hclean takes refuses
    have htakes := gives_ownerSet (hready hr) hrec hbox h0 h1 hd hclean
    have hrefuses := gives_ownerSet_refused (hready hr) hrec hbox h0 h1 hd hclean
    exact ⟨fun hnone hcount hunsigned => htakes (.inl ⟨hnone, hcount, hunsigned⟩), fun hnone hbad => hrefuses (.inl ⟨hnone, hbad⟩),
      fun o ho => ⟨fun hsigned hnewer => htakes (.inr ⟨o, ho, hsigned, hnewer⟩), fun hbad => hrefuses (.inr ⟨o, ho, hbad⟩)⟩⟩
  case sample =>
    intro y w told
    refine ⟨fun h hn => gives_telemetrySample h hn, fun h hn => ?_, fun h hcool => ?_⟩
    · exact ⟨s.sampledAt y, toldSample_sampledAt s y, rfl, exec_telemetrySample_tenth h hn⟩
    · exact (gives_telemetrySample_hot h hcool).imp fun t ⟨hflag, hdies, hchosen, hmem, hagenda⟩ => ⟨hflag, hdies, hchosen, hmem, hagenda⟩

end Sys2Proof.Machine
end

section
/-! SUPPORT. What the events of the engines beneath the stacks leave alone (R230, R370): memory, contexts, and the engines themselves where a
word or a completion goes back to an SE. -/

namespace Sys2Proof.Machine

/-! ## Frames -/

/-- What the service of an access leaves alone, and the engines beneath the stacks. -/
structure engineFrame (s t : State) : Prop where
  served : servedFrame s t
  engines : t.engines = s.engines

theorem engineFrame.refl (s : State) : engineFrame s s := ⟨.refl s, rfl⟩

theorem engineFrame.trans {s t u : State} (h : engineFrame s t) (k : engineFrame t u) : engineFrame s u :=
  ⟨h.served.trans k.served, k.engines.trans h.engines⟩

theorem engineFrame.engine {s t : State} (h : engineFrame s t) (k : Nat) : t.engine k = s.engine k := by
  rw [State.engine, h.engines, State.engine]

theorem accessFrame.engineFrame {s t : State} (h : accessFrame s t) : engineFrame s t := ⟨h.served, by rw [h.only]⟩

theorem recordFrame.engineFrame {s t : State} (h : recordFrame s t) : engineFrame s t := h.access.engineFrame

theorem noticeFrame.engineFrame {s t : State} (h : noticeFrame s t) : engineFrame s t := by
  obtain ⟨honly, hagenda⟩ := h
  refine ⟨⟨?_, ?_, ?_, ?_, ?_, ?_, fun ea c => ?ctx, hagenda⟩, ?_⟩
  case ctx =>
    rw [honly]
    rfl
  all_goals rw [honly]

theorem engineFrame_at (s : State) (n : Nat) (i : Instr) : engineFrame s (s.at_ n i) := (recordFrame_at s n i).engineFrame

theorem engineFrame_progress (s : State) (gn ea n : Nat) : engineFrame s (s.progress gn ea n) := (recordFrame_modGroup s gn _).engineFrame

theorem engineFrame_modElem (s : State) (ea : Nat) (f : Elem → Elem) (h : (f (s.elem ea)).ctxs = (s.elem ea).ctxs) :
    engineFrame s (s.modElem ea f) := ⟨servedFrame_modElem s ea f h, rfl⟩

theorem engineFrame_modTab (s : State) (r : MReq) (f : Tab → Tab) : engineFrame s (s.modTab r f) := engineFrame_modElem s r.dst _ rfl

theorem engineFrame_foldl {β : Type} (f : State → β → State) (hf : ∀ s x, engineFrame s (f s x)) (l : List β) (s : State) :
    engineFrame s (l.foldl f s) :=
  State.foldl_keeps (engineFrame s) f l (fun u x h => h.trans (hf u x)) (.refl s)

theorem engineFrame_creditBack (s : State) (c : Option (Nat × Nat × Nat)) : engineFrame s (s.creditBack c) := by
  cases c with
  | none => exact .refl s
  | some c => exact engineFrame_at ..

theorem engineFrame_sendParcel (s : State) (n a b vc : Nat) (evs : List (Nat × Instr)) : engineFrame s (s.sendParcel n a b vc evs) := by
  refine ⟨servedFrame_sendParcel .., ?_⟩
  by_cases h : a = b
  · simp only [State.sendParcel, beq_iff_eq, h, if_true]
    exact (engineFrame_foldl _ (fun s _ => engineFrame_at s _ _) evs s).engines
  · simp only [State.sendParcel, State.passParcel, beq_iff_eq, h, if_false]
    rfl

theorem engineFrame_sendBack (s : State) (r : MReq) (word : Bool) (back : Nat) (evs : List Instr) :
    engineFrame s (s.sendBack r word back evs) := by
  unfold State.sendBack
  split
  · exact engineFrame_sendParcel ..
  · exact engineFrame_foldl _ (fun s _ => engineFrame_at s _ _) ..

theorem engineFrame_sendAnswer (s : State) (l m a vc : Nat) (load : TxLoad) : engineFrame s (s.sendAnswer l m a vc load) := by
  unfold State.sendAnswer
  split
  · exact (noticeFrame_linkSend ..).engineFrame
  · exact ⟨⟨rfl, rfl, rfl, rfl, rfl, rfl, fun _ _ => rfl, fun _ h => h⟩, rfl⟩

theorem engineFrame_answerDone (s : State) (link module id : Nat) (r : MReq) (v : Word) (p : Bool) :
    engineFrame s (s.answerDone link module id r v p) := by
  unfold State.answerDone
  dsimp only
  split
  · exact (engineFrame_sendAnswer ..).trans (engineFrame_sendAnswer ..)
  · exact engineFrame_sendAnswer ..

theorem engineFrame_coreServed (s : State) (k : Nat) (r : MReq) (v : Word) : engineFrame s (s.coreServed k r v) := by
  refine ⟨servedFrame_coreServed .., ?_⟩
  unfold State.coreServed
  split <;> rfl

theorem engineFrame_recordOver (s : State) (lid : Nat) (stored : Bool) : engineFrame s (s.recordOver lid stored) :=
  engineFrame.trans (t := { s with launches := s.launches.map (fun (l : Launch) =>
      if l.lid == lid && l.rec_ == 1 then { l with rec_ := if stored then 2 else 3 } else l) })
    ⟨⟨rfl, rfl, rfl, rfl, rfl, rfl, fun _ _ => rfl, fun _ h => h⟩, rfl⟩ (engineFrame_at _ s.now (.launchComplete lid))

theorem engineFrame_modOut (s : State) (ea n : Nat) (f : Out → Out) : engineFrame s (s.modOut ea n f) := ⟨servedFrame_modOut .., rfl⟩

theorem engineFrame_acked (s : State) (r : MReq) (back : Nat) : engineFrame s (s.acked r back) := by
  refine ⟨servedFrame_acked .., ?_⟩
  unfold State.acked
  dsimp only
  split <;> rfl

theorem engineFrame_complete_firing (s : State) {r : MReq} (hw : r.who = .firing) (v : Word) (p : Bool) (back : Nat) :
    engineFrame s (s.complete r v p back) := by
  by_cases ho : r.out < localOut
  · rw [State.complete_route s hw ho]
    split
    · exact (engineFrame_acked ..).trans (engineFrame_sendBack ..)
    · exact engineFrame_acked ..
  · cases hd : r.dlv with
    | some d =>
      rw [State.complete_local s hw (Nat.not_lt.mp ho) hd]
      exact (engineFrame_progress ..).trans (engineFrame_at ..)
    | none =>
      rw [State.complete_undelivered s hw (Nat.not_lt.mp ho) hd]
      exact engineFrame_progress ..

/-- What follows the performance of a request leaves the engines alone, whoever has sent it. -/
theorem engineFrame_complete (s : State) (r : MReq) (v : Word) (p : Bool) (back : Nat) : engineFrame s (s.complete r v p back) := by
  cases hw : r.who with
  | firing => exact engineFrame_complete_firing s hw v p back
  | gen g =>
    simp only [State.complete, hw]
    have hroute : engineFrame s (if r.out < localOut then (s.progress r.grp r.ea).routeDone r else s.progress r.grp r.ea) := by
      split
      · exact (engineFrame_progress ..).trans (engineFrame_modOut ..)
      · exact engineFrame_progress ..
    generalize (if r.out < localOut then (s.progress r.grp r.ea).routeDone r else s.progress r.grp r.ea) = w at hroute ⊢
    refine hroute.trans ?_
    split
    · exact engineFrame_sendBack ..
    · exact engineFrame_at ..
  | flow tile n =>
    simp only [State.complete, hw]
    exact engineFrame_progress ..
  | core k =>
    simp only [State.complete, hw]
    exact (engineFrame_progress ..).trans (engineFrame_coreServed ..)
  | launch lid =>
    simp only [State.complete, hw]
    exact (engineFrame_progress ..).trans (engineFrame_recordOver ..)
  | remote link module id =>
    simp only [State.complete, hw]
    refine (engineFrame_progress s r.grp r.ea s.now).trans ?_
    split
    · exact engineFrame_answerDone ..
    · exact engineFrame_at ..
  | spill =>
    simp only [State.complete, hw]
    refine (engineFrame_progress s r.grp r.ea s.now).trans
      ((engineFrame_modOut _ r.ea r.out (fun o => { o with reqs := o.reqs.filter (fun x => x.id != r.id) })).trans ?_)
    split
    · exact engineFrame_sendBack ..
    · exact .refl _

/-! ## The request table of an SE (R370) -/

/-- The rows of a packet are asked for at their banks. -/
def State.rowsAsked (s : State) (r : MReq) (is : List Nat) : State :=
  is.foldl (fun s i =>
    s.bankEnter (seAddr r.dst (r.addr.toNat + 64 * i)) 5 (.queryAccept { r with stage := 1, v1 := BitVec.ofNat 64 i }) none) s

theorem accessFrame_rowsAsked (s : State) (r : MReq) (is : List Nat) : accessFrame s (s.rowsAsked r is) :=
  State.foldl_keeps (accessFrame s) _ is (fun _ _ h => h.trans (accessFrame_bankEnter ..)) (recordFrame.refl s).access

theorem State.mem_rowsAsked (s : State) (r : MReq) {is : List Nat} {i : Nat} (hi : i ∈ is) :
    ∃ p ∈ ((s.rowsAsked r is).bank (bankOf (seAddr r.dst (r.addr.toNat + 64 * i)))).q,
      p.instr = .queryAccept { r with stage := 1, v1 := BitVec.ofNat 64 i } := by
  obtain ⟨as, bs, rfl⟩ := List.append_of_mem hi
  obtain ⟨p, hp, hinstr⟩ := (s.rowsAsked r as).mem_bankEnter (seAddr r.dst (r.addr.toNat + 64 * i)) 5
    (.queryAccept { r with stage := 1, v1 := BitVec.ofNat 64 i })
  refine ⟨p, ?_, hinstr⟩
  rw [State.rowsAsked, List.foldl_append, List.foldl_cons]
  exact (accessFrame_rowsAsked _ r bs).queues _ p hp

/-- A request takes its place where no query of its offset has one. -/
theorem State.tableTake_place {s : State} {r : MReq}
    (hnew : r.acc = .qry → ∀ x ∈ (s.elem r.dst).table, x.r.acc = .qry → x.off ≠ r.addr.toNat) :
    s.tableTake r = ((if r.ord then s else s.creditBack (some (r.ea, r.out, r.epoch))).modElem r.dst
      (fun e => { e with table := e.table ++ [⟨r, r.addr.toNat, 16, [], false⟩] })).rowsAsked r (List.range (tabRows r)) := by
  have hnone : (r.acc == .qry && (s.elem r.dst).table.any (fun t => t.r.acc == .qry && t.off == r.addr.toNat)) = false := by
    rw [Bool.eq_false_iff]
    intro h
    simp only [Bool.and_eq_true, beq_iff_eq, List.any_eq_true] at h
    obtain ⟨hacc, x, hx, hxacc, hoff⟩ := h
    exact hnew hacc x hx hxacc hoff
  simp only [State.tableTake, hnone, Bool.false_eq_true, if_false, State.rowsAsked]

/-- A request whose offset no query of the table has stands last in it, with its rows at their banks. -/
theorem State.tableTake_takes {s : State} {r : MReq}
    (hnew : r.acc = .qry → ∀ x ∈ (s.elem r.dst).table, x.r.acc = .qry → x.off ≠ r.addr.toNat) :
    ((s.tableTake r).elem r.dst).table = (s.elem r.dst).table ++ [⟨r, r.addr.toNat, 16, [], false⟩] ∧
    (∀ i < tabRows r, ∃ p ∈ ((s.tableTake r).bank (bankOf (seAddr r.dst (r.addr.toNat + 64 * i)))).q,
      p.instr = .queryAccept { r with stage := 1, v1 := BitVec.ofNat 64 i }) ∧ servedFrame s (s.tableTake r) := by
  have hcredit : (if r.ord then s else s.creditBack (some (r.ea, r.out, r.epoch))).elem r.dst = s.elem r.dst := by
    split <;> rfl
  rw [State.tableTake_place hnew]
  refine ⟨?_, fun i hi => State.mem_rowsAsked _ r (List.mem_range.mpr hi), ?_⟩
  · rw [(accessFrame_rowsAsked ..).elem, State.elem_modElem_same, hcredit]
  · refine servedFrame.trans ?_ ((servedFrame_modElem _ r.dst _ rfl).trans (accessFrame_rowsAsked ..).served)
    split
    · exact .refl s
    · exact (engineFrame_creditBack ..).served

theorem engineFrame_tableTake (s : State) (r : MReq) : engineFrame s (s.tableTake r) := by
  have hcredit : engineFrame s (if r.ord then s else s.creditBack (some (r.ea, r.out, r.epoch))) := by
    split
    · exact .refl s
    · exact engineFrame_creditBack ..
  unfold State.tableTake
  dsimp only
  generalize (if r.ord then s else s.creditBack (some (r.ea, r.out, r.epoch))) = u at hcredit ⊢
  refine hcredit.trans ?_
  split
  · exact engineFrame_complete ..
  · exact engineFrame.trans (engineFrame_modElem _ r.dst _ rfl) (accessFrame_rowsAsked _ r _).engineFrame

theorem engineFrame_tableNext (s : State) (ea n : Nat) : engineFrame s (s.tableNext ea n) := by
  induction n generalizing s with
  | zero => exact .refl s
  | succ n ih =>
    unfold State.tableNext
    split
    · exact .refl s
    · split
      · exact ((engineFrame_modElem s ea _ rfl).trans (engineFrame_tableTake ..)).trans (ih _)
      · exact .refl s

theorem engineFrame_tableLeave (s : State) (r : MReq) (w : Word) : engineFrame s (s.tableLeave r w) :=
  ((engineFrame_modElem s r.dst _ rfl).trans (engineFrame_complete ..)).trans (engineFrame_tableNext ..)

end Sys2Proof.Machine
end
section
/-! SUPPORT. Requests at their SE (R370, R380, R384): a request takes its place in the table, the packet of a query is read and goes to its
home engine, and the answer to an abort leaves as a completion word. -/

namespace Sys2Proof.Machine

/-! ## Engines as they are changed -/

theorem State.engine_modEngine (s : State) (k : Nat) (f : Engine → Engine) : (s.modEngine k f).engine k = f (s.engine k) := tget_tput_same ..

theorem State.engine_modEngine_ne (s : State) {j k : Nat} (h : j ≠ k) (f : Engine → Engine) : (s.modEngine k f).engine j = s.engine j :=
  tget_tput_ne _ _ _ _ _ h

theorem State.queries_modEngine (s : State) (j k : Nat) {f : Engine → Engine} (hf : ∀ e, (f e).queries = e.queries) :
    ((s.modEngine j f).engine k).queries = (s.engine k).queries := by
  by_cases h : k = j
  · rw [h, State.engine_modEngine, hf]
  · rw [State.engine_modEngine_ne _ h]

theorem servedFrame_modEngine (s : State) (k : Nat) (f : Engine → Engine) : servedFrame s (s.modEngine k f) :=
  ⟨rfl, rfl, rfl, rfl, rfl, rfl, fun _ _ => rfl, fun _ h => h⟩

theorem servedFrame_modQuery (s : State) (k id : Nat) (f : Query → Query) : servedFrame s (s.modQuery k id f) := servedFrame_modEngine ..

theorem State.queries_modQuery (s : State) (k id : Nat) (f : Query → Query) :
    ((s.modQuery k id f).engine k).queries = (s.engine k).queries.map (fun q => if q.r.id == id then f q else q) :=
  congrArg Engine.queries (State.engine_modEngine ..)

theorem State.engine_at (s : State) (n : Nat) (i : Instr) (k : Nat) : (s.at_ n i).engine k = s.engine k := rfl

/-! ## A request takes its place (R370) -/

theorem State.tableFlush_one {s : State} {ea : Nat} {r : MReq} (hwait : (s.elem ea).tabWait = [r])
    (hroom : (s.elem ea).table.length < 16) (hport : s.portHolds 5 (seBank ea) = false) :
    s.tableFlush ea = (s.modElem ea (fun e => { e with tabWait := [] })).tableTake r := by
  have hroom' : (s.elem ea).table.length < Config.requestTable := hroom.trans (by decide)
  simp only [State.tableFlush, hwait, List.length_cons, List.length_nil, State.tableNext, hroom', hport, decide_true, Bool.not_false,
    Bool.and_self, if_true]

theorem exec_queryAccept_arrives {r : MReq} (hacc : r.acc ≠ .qabort) (hstage : r.stage = 0) (s : State) :
    exec (.queryAccept r) s =
      .next ((s.modElem r.dst (fun e => { e with tabWait := e.tabWait ++ [r] })).tableFlush r.dst) := by
  change execQueryAccept r s = _
  simp only [execQueryAccept, beq_eq_false_iff_ne.mpr hacc, Bool.false_eq_true, if_false, hstage]

/-- A request for which the table has a place takes it, and its packet's rows are asked for at their banks. -/
theorem gives_queryAccept_place {s : State} {r : MReq} (hacc : r.acc ≠ .qabort) (hstage : r.stage = 0)
    (hwait : (s.elem r.dst).tabWait = []) (hroom : (s.elem r.dst).table.length < 16) (hport : s.portHolds 5 (seBank r.dst) = false)
    (hnew : r.acc = .qry → ∀ x ∈ (s.elem r.dst).table, x.r.acc = .qry → x.off ≠ r.addr.toNat) :
    gives (.queryAccept r) s (fun t => (t.elem r.dst).table = (s.elem r.dst).table ++ [⟨r, r.addr.toNat, 16, [], false⟩] ∧
      (∀ i < tabRows r, ∃ p ∈ (t.bank (bankOf (seAddr r.dst (r.addr.toNat + 64 * i)))).q,
        p.instr = .queryAccept { r with stage := 1, v1 := BitVec.ofNat 64 i }) ∧ sameProgram s t) := by
  have helem : (s.modElem r.dst (fun e => { e with tabWait := e.tabWait ++ [r] })).elem r.dst = { s.elem r.dst with tabWait := [r] } := by
    rw [State.elem_modElem_same, hwait]
    rfl
  have hexec := exec_queryAccept_arrives hacc hstage s
  have hport' : (s.modElem r.dst (fun e => { e with tabWait := e.tabWait ++ [r] })).portHolds 5 (seBank r.dst) = false := hport
  have hframe := servedFrame_modElem s r.dst (fun e => { e with tabWait := e.tabWait ++ [r] }) rfl
  generalize s.modElem r.dst (fun e => { e with tabWait := e.tabWait ++ [r] }) = u at hexec helem hframe hport'
  have htable : (u.elem r.dst).table = (s.elem r.dst).table := by rw [helem]
  rw [State.tableFlush_one (by rw [helem]) (by rw [htable]; exact hroom) hport'] at hexec
  have htaken := State.tableTake_takes (s := u.modElem r.dst (fun e => { e with tabWait := [] })) (r := r)
    (by rw [State.elem_modElem_same]; exact fun h x hx => hnew h x (htable ▸ hx))
  rw [State.elem_modElem_same] at htaken
  obtain ⟨hplace, hrows, hmem⟩ := htaken
  refine gives_of_exec hexec ⟨?_, hrows, ((hframe.trans (servedFrame_modElem u r.dst _ rfl)).trans hmem).sameProgram⟩
  exact hplace.trans (congrArg (· ++ _) htable)

/-! ## The packet of a query is read (R367, R370) -/

/-- A row of which every unit is clean is read without a mark. -/
theorem State.rowRead_clean {s : State} (hinjs : s.injs = []) {a : Nat} (hclean : ∀ i < 8, s.poisoned (unitOf a + i) = false) :
    s.rowRead a = ((s.readBytes a 64, none), s) := by
  have htouch : (List.range 8).foldl (fun u i => u.touch (a + 8 * i)) s = s :=
    State.foldl_keeps (fun u => u = s) _ _ (fun u i hu => by rw [hu, State.touch_of_no_injs hinjs]) rfl
  have hnone : (List.range 8).find? (fun i => s.poisoned (unitOf a + i)) = none := by
    simpa [List.find?_eq_none] using hclean
  simp only [State.rowRead, htouch, hnone]

/-- A change of the entries of one request is found by its number. -/
theorem find_map_tab {l : List Tab} {x : Tab} {id : Nat} (h : l.find? (fun t => t.r.id == id) = some x) {f : Tab → Tab}
    (hf : ∀ t, (f t).r = t.r) :
    (l.map (fun t => if t.r.id == id then f t else t)).find? (fun t => t.r.id == id) = some (f x) := by
  induction l with
  | nil => simp at h
  | cons t l ih =>
    by_cases ht : t.r.id = id
    · simp only [List.find?_cons, ht, beq_self_eq_true, Option.some.injEq] at h
      subst h
      simp [ht, hf]
    · simp only [List.find?_cons, beq_eq_false_iff_ne.mpr ht] at h
      simpa [ht] using ih h

theorem State.tabOf_modTab {s : State} {r : MReq} {x : Tab} (h : s.tabOf r = some x) {f : Tab → Tab} (hf : ∀ t, (f t).r = t.r) :
    (s.modTab r f).tabOf r = some (f x) := by
  rw [State.tabOf, State.modTab, State.elem_modElem_same]
  exact find_map_tab h hf

/-- Engine `k` holds a query that has just come, with its packet and the rows of its vector still to come. -/
def State.holdsFresh (s : State) (k : Nat) (r : MReq) (pkt : List Byte) (need : Nat) : Prop :=
  ∃ q ∈ (s.engine k).queries, q.r = r ∧ q.pkt = pkt ∧ q.need = need ∧ q.active = false

/-- What reading the rows of a query's vector keeps: memory and contexts, the agenda, and the queries that have just come. -/
def freshKept (k : Nat) (r : MReq) (pkt : List Byte) (need : Nat) (s t : State) : Prop :=
  servedFrame s t ∧ (s.holdsFresh k r pkt need → t.holdsFresh k r pkt need)

section
variable {k need : Nat} {r : MReq} {pkt : List Byte}

theorem freshKept.trans {s t u : State} (h : freshKept k r pkt need s t) (h' : freshKept k r pkt need t u) :
    freshKept k r pkt need s u := ⟨h.1.trans h'.1, fun hs => h'.2 (h.2 hs)⟩

theorem engineFrame.freshKept {s t : State} (h : engineFrame s t) : freshKept k r pkt need s t :=
  ⟨h.served, fun hs => by rwa [State.holdsFresh, h.engine]⟩

theorem freshKept_modQuery (s : State) (id : Nat) {f : Query → Query}
    (hf : ∀ q, (f q).r = q.r ∧ (f q).pkt = q.pkt ∧ (f q).need = q.need ∧ (f q).active = q.active) :
    freshKept k r pkt need s (s.modQuery k id f) := by
  refine ⟨servedFrame_modQuery .., fun ⟨q, hq, hr, hpkt, hneed, hactive⟩ => ?_⟩
  refine ⟨_, by rw [State.queries_modQuery]; exact List.mem_map_of_mem hq, ?_⟩
  obtain ⟨fr, fpkt, fneed, factive⟩ := hf q
  split
  · exact ⟨fr.trans hr, fpkt.trans hpkt, fneed.trans hneed, factive.trans hactive⟩
  · exact ⟨hr, hpkt, hneed, hactive⟩

theorem freshKept_rowDone (s : State) (x : MReq) (j : Nat) (row : List Byte) : freshKept k r pkt need s (s.rowDone x k j row) := by
  unfold State.rowDone
  dsimp only
  generalize hu : s.modQuery k x.id _ = u
  have hset : freshKept k r pkt need s u := by
    rw [← hu]
    exact freshKept_modQuery s x.id (fun _ => ⟨rfl, rfl, rfl, rfl⟩)
  refine hset.trans ?_
  split
  · split
    · exact (engineFrame_at ..).freshKept
    · exact (engineFrame.refl _).freshKept
  · exact (engineFrame.refl _).freshKept

theorem Query.vectorBad_fields (q : Query) (u code : Nat) (aux : Word) :
    (q.vectorBad u code aux).r = q.r ∧ (q.vectorBad u code aux).pkt = q.pkt ∧ (q.vectorBad u code aux).need = q.need ∧
      (q.vectorBad u code aux).active = q.active := ⟨rfl, rfl, rfl, rfl⟩

theorem freshKept_rowAsk (s : State) (x : MReq) (h j : Nat) : freshKept k r pkt need s (s.rowAsk x k h j) := by
  unfold State.rowAsk
  split
  · exact (accessFrame_bankEnter ..).engineFrame.freshKept
  · exact (freshKept_modQuery s x.id (fun q => q.vectorBad_fields ..)).trans (freshKept_rowDone ..)

end

theorem mem_insQuery (x : Query) (l : List Query) : x ∈ insQuery x l := by
  induction l with
  | nil => exact .head _
  | cons y l ih =>
    unfold insQuery
    split
    · exact .head _
    · exact .tail _ ih

/-- A packet whose rows are clean goes to its home engine, where that can be reached. -/
theorem State.sendQuery_goes {s : State} {r : MReq} {x : Tab} (hbad : x.bad = false) (hdown : s.stackDown (pktHome (rowBytes 3 x.rows)) = false)
    (hway : s.wayDown (eaDie r.dst) (pktHome (rowBytes 3 x.rows) / 2) = false) :
    (s.sendQuery r x).holdsFresh (pktHome (rowBytes 3 x.rows)) r (rowBytes 3 x.rows) (s.vectorRows r.dst (pktQvh (rowBytes 3 x.rows))) ∧
    (s.sendQuery r x).awaits (s.now + 4 + engineHop r.dst (pktHome (rowBytes 3 x.rows)) + 228)
      (.queryAdmit (pktHome (rowBytes 3 x.rows))) ∧ servedFrame s (s.sendQuery r x) := by
  simp only [State.sendQuery, hbad, hdown, hway, Bool.or_self, Bool.false_eq_true, if_false, Option.isSome_none]
  generalize pktHome (rowBytes 3 x.rows) = home
  generalize rowBytes 3 x.rows = pkt
  generalize s.vectorRows r.dst (pktQvh pkt) = need
  have htab := engineFrame_modTab s r (fun t => { t with stack := home, rows := [] })
  have hnow := htab.served.now
  generalize s.modTab r (fun t => { t with stack := home, rows := [] }) = u at htab hnow ⊢
  have hcome := servedFrame_modEngine u home (fun e =>
    { e with queries := insQuery (Query.fresh r pkt need (s.now + 4 + engineHop r.dst home + recordTime) none) e.queries })
  have hfresh : (u.modEngine home (fun e =>
      { e with queries := insQuery (Query.fresh r pkt need (s.now + 4 + engineHop r.dst home + recordTime) none) e.queries })).holdsFresh
        home r pkt need := by
    refine ⟨Query.fresh r pkt need (s.now + 4 + engineHop r.dst home + recordTime) none, ?_, rfl, rfl, rfl, rfl⟩
    rw [State.engine_modEngine]
    exact mem_insQuery ..
  generalize u.modEngine home _ = v at hcome hfresh ⊢
  have hat := engineFrame_at v (s.now + 4 + engineHop r.dst home + 228) (.queryAdmit home)
  have hawaits := State.awaits_at v (s.now + 4 + engineHop r.dst home + 228) (.queryAdmit home)
  have hrows : freshKept home r pkt need (v.at_ (s.now + 4 + engineHop r.dst home + 228) (.queryAdmit home))
      ((List.range (min need rowsAtOnce)).foldl (fun s j => s.rowAsk r home (pktQvh pkt) j)
        (v.at_ (s.now + 4 + engineHop r.dst home + 228) (.queryAdmit home))) :=
    State.foldl_keeps (freshKept home r pkt need _) _ _ (fun _ _ h => h.trans (freshKept_rowAsk ..)) (engineFrame.refl _).freshKept
  exact ⟨hrows.2 (hat.freshKept.2 hfresh), hawaits.kept hrows.1.agenda, ((htab.served.trans hcome).trans hat.served).trans hrows.1⟩

theorem State.tabSend_query {s : State} {r : MReq} {x : Tab} (htab : s.tabOf r = some x) (hrows : x.rows.length = 3)
    (hacc : r.acc = .qry) : s.tabSend r = s.sendQuery r x := by
  simp only [State.tabSend, htab, hrows, tabRows, hacc, beq_self_eq_true, if_true, Nat.lt_irrefl, if_false]

theorem State.vectorRows_modTab (s : State) (r : MReq) (f : Tab → Tab) (h : Nat) :
    (s.modTab r f).vectorRows r.dst h = s.vectorRows r.dst h := by
  simp only [State.vectorRows, State.modTab, State.elem_modElem_same]
  rfl

/-- With its last row the packet of a query goes to its home engine. -/
theorem gives_queryAccept_row {s : State} {r : MReq} {x : Tab} (hinjs : s.injs = []) (hacc : r.acc = .qry) (hstage : r.stage = 1)
    (htab : s.tabOf r = some x) (hrows : x.rows.length = 2) (hbad : x.bad = false)
    (hclean : ∀ i < 8, s.poisoned (unitOf (seAddr r.dst (r.addr.toNat + 64 * r.v1.toNat)) + i) = false) {pkt : List Byte}
    (hpkt : pkt = rowBytes 3 ((r.v1.toNat, s.readBytes (seAddr r.dst (r.addr.toNat + 64 * r.v1.toNat)) 64) :: x.rows))
    (hdown : s.stackDown (pktHome pkt) = false) (hway : s.wayDown (eaDie r.dst) (pktHome pkt / 2) = false) :
    gives (.queryAccept r) s (fun t => t.holdsFresh (pktHome pkt) { r with v1 := 0 } pkt (s.vectorRows r.dst (pktQvh pkt)) ∧
      t.awaits (s.now + 4 + engineHop r.dst (pktHome pkt) + 228) (.queryAdmit (pktHome pkt)) ∧ sameProgram s t) := by
  generalize hrow : s.readBytes (seAddr r.dst (r.addr.toNat + 64 * r.v1.toNat)) 64 = row at hpkt
  have hexec : exec (.queryAccept r) s = .next (((s.progress r.grp r.dst).modTab r (fun t =>
      { t with rows := (r.v1.toNat, row) :: t.rows, bad := t.bad || false })).tabSend { r with v1 := 0 }) := by
    change execQueryAccept r s = _
    simp only [execQueryAccept, beq_eq_false_iff_ne.mpr (show r.acc ≠ .qabort by rw [hacc]; decide), Bool.false_eq_true, if_false,
      hstage, State.packetRow]
    rw [State.rowRead_clean hinjs hclean]
    simp only [hrow, Option.any_none]
  have hp := engineFrame_progress s r.grp r.dst s.now
  have hvec : (s.progress r.grp r.dst).vectorRows r.dst (pktQvh pkt) = s.vectorRows r.dst (pktQvh pkt) := rfl
  have hdown' : (s.progress r.grp r.dst).stackDown (pktHome pkt) = false := hdown
  have hway' : (s.progress r.grp r.dst).wayDown (eaDie r.dst) (pktHome pkt / 2) = false := hway
  have htab' : (s.progress r.grp r.dst).tabOf r = some x := htab
  generalize s.progress r.grp r.dst = p at hexec hp hvec hdown' hway' htab'
  have hread := State.tabOf_modTab htab' (f := fun t => { t with rows := (r.v1.toNat, row) :: t.rows, bad := t.bad || false })
    (fun _ => rfl)
  have hframe := engineFrame_modTab p r (fun t => { t with rows := (r.v1.toNat, row) :: t.rows, bad := t.bad || false })
  rw [← State.vectorRows_modTab p r (fun t => { t with rows := (r.v1.toNat, row) :: t.rows, bad := t.bad || false })] at hvec
  replace hdown' : (p.modTab r (fun t =>
    { t with rows := (r.v1.toNat, row) :: t.rows, bad := t.bad || false })).stackDown (pktHome pkt) = false := hdown'
  replace hway' : (p.modTab r (fun t =>
    { t with rows := (r.v1.toNat, row) :: t.rows, bad := t.bad || false })).wayDown (eaDie r.dst) (pktHome pkt / 2) = false := hway'
  generalize p.modTab r _ = u at hexec hread hframe hvec hdown' hway'
  rw [State.tabSend_query (r := { r with v1 := 0 }) hread (congrArg (· + 1) hrows) hacc] at hexec
  subst hpkt
  have hgoes := State.sendQuery_goes (s := u) (r := { r with v1 := 0 })
    (x := { x with rows := (r.v1.toNat, row) :: x.rows, bad := x.bad || false }) (by rw [hbad]; rfl) hdown' hway'
  obtain ⟨hholds, hawaits, hserved⟩ := hgoes
  have hall := hp.trans hframe
  rw [hall.served.now] at hawaits
  refine gives_of_exec hexec ⟨?_, hawaits, (hall.served.trans hserved).sameProgram⟩
  rw [← hvec]
  exact hholds

/-! ## The answer to an abort (R230, R384) -/

theorem ndist_comm (a b : Nat) : ndist a b = ndist b a := Nat.add_comm ..

theorem hops_comm (a b : Nat) : hops a b = hops b a := by
  simp only [hops, tileCross, dieCross, ndist_comm (eaX a), ndist_comm (eaY a), ndist_comm (eaTx a), ndist_comm (eaTy a),
    ndist_comm (eaTx a / 8), ndist_comm (eaTy a / 4), BEq.comm (a := a)]

/-- The answer to an abort leaves as the completion word of its firing. -/
theorem gives_queryAccept_aborted {s : State} {r : MReq} (hacc : r.acc = .qabort) (hstage : r.stage = 3) (hwho : r.who = .firing)
    (hout : r.out < localOut) (hendp : r.endp = 0x80) (hren : r.ren = true) :
    gives (.queryAccept r) s (fun t => wordGoes s t (s.now + 4) r.dst r.ea 0 (.replyArrival r r.v1 false) ∧ sameMemory s t ∧
      ∀ ea c, t.ctx ea c = s.ctx ea c) := by
  have hexec : exec (.queryAccept r) s = .next (s.complete r r.v1 false (4 + hops r.ea r.dst)) := by
    change execQueryAccept r s = _
    simp only [execQueryAccept, hacc, hstage, beq_self_eq_true, if_true, State.engineDone]
  have hserved := servedFrame_complete s hwho r.v1 false (4 + hops r.ea r.dst)
  have hword := State.complete_replies_word s hwho hout (by rw [hendp]; decide) hren r.v1 false (4 + hops r.ea r.dst)
  rw [hops_comm r.dst, Nat.add_sub_cancel] at hword
  exact gives_of_exec hexec ⟨hword, hserved.sameProgram.1, hserved.ctx⟩

end Sys2Proof.Machine
end
section
/-! SUPPORT. Admissions, turns and ends of queries (R371, R372, R374 to R376, R382, R384) at an engine that holds one query. -/

namespace Sys2Proof.Machine

/-! ## A query that ends (R371) -/

/-- A query as its end leaves it. -/
def Query.ended (q : Query) (now status code : Nat) (fa : Word) : Query :=
  { q with fin := some (status, code, fa), batches := [], ready := now }

section
variable {s : State} {k : Nat} {q : Query} (hq : (s.engine k).queries = [q])
include hq

theorem State.engine_modQuery (f : Query → Query) : (s.modQuery k q.r.id f).engine k = { s.engine k with queries := [f q] } := by
  simp only [State.modQuery, State.engine_modEngine, hq, List.map_cons, List.map_nil, beq_self_eq_true, if_true]

theorem State.engine_modQuery_of {id : Nat} (hid : q.r.id = id) (f : Query → Query) :
    (s.modQuery k id f).engine k = { s.engine k with queries := [f q] } := by
  rw [← hid]
  exact State.engine_modQuery hq f

theorem State.engine_endQuery (status code : Nat) (fa : Word) :
    (s.endQuery k q.r.id status code fa).engine k = { s.engine k with queries := [q.ended s.now status code fa] } :=
  State.engine_modQuery hq _

theorem State.batchOf_single {b : Batch} (hb : q.batches = [b]) : s.batchOf k q.r.id b.stack = some (q, b) := by
  simp [State.batchOf, Engine.query, hq, Query.batch, hb]

end

theorem servedFrame_endQuery (s : State) (k id status code : Nat) (fa : Word) : servedFrame s (s.endQuery k id status code fa) :=
  ((servedFrame_modQuery ..).trans (servedFrame_at ..)).trans (servedFrame_at ..)

theorem State.awaits_endQuery (s : State) (k id status code : Nat) (fa : Word) :
    (s.endQuery k id status code fa).awaits (s.now + 1) (.queryComplete k id) :=
  (State.awaits_at (s.modQuery k id _) (s.now + 1) (.queryComplete k id)).kept (State.keepsAgenda_at _ _ _)

/-! ## Batches that set out (R375, R382) -/

/-- The batches of a query that set out leave the queries of engines as they are. -/
theorem State.sendBatches_keeps (s : State) (k : Nat) (q : Query) (first : Bool) :
    servedFrame s (s.sendBatches k q first) ∧ ((s.sendBatches k q first).engine k).queries = (s.engine k).queries := by
  refine State.foldl_keeps (fun t => servedFrame s t ∧ (t.engine k).queries = (s.engine k).queries) _ _ ?_ ⟨.refl s, rfl⟩
  intro t b ⟨hserved, hqueries⟩
  split
  · refine ⟨(hserved.trans (servedFrame_modEngine ..)).trans (servedFrame_at ..), ?_⟩
    rw [State.engine_at, State.engine_modEngine]
    exact hqueries
  · exact ⟨hserved.trans (servedFrame_at ..), hqueries⟩

/-! ## Admission (R371, R372, R374) -/

theorem State.admitQuery_admits {s : State} {k : Nat} {q : Query} (hq : (s.engine k).queries = [q]) (hfin : q.fin = none) (d : List Byte) :
    ∃ x, ((s.admitQuery k q d).engine k).queries = [x] ∧ x.active = true ∧ x.desc = d ∧ x.fin = none ∧ x.r = q.r := by
  unfold State.admitQuery
  dsimp only
  rw [(State.sendBatches_keeps ..).2, State.queries_modQuery, State.engine_modEngine, hq]
  refine ⟨_, congrArg (· :: []) (if_pos ?_), rfl, rfl, ?_, rfl⟩
  · exact beq_self_eq_true q.r.id
  · exact hfin

section
variable {s : State} {k : Nat} {q : Query} (hq : (s.engine k).queries = [q]) (hactive : q.active = false) (hfin : q.fin = none)
  (hready : q.ready ≤ s.now) (hneed : q.need ≤ q.rows.length) (hdesc : q.desc = [])
include hactive hfin hready hneed hdesc

theorem Query.due : (q.active || q.fin.isSome || decide (q.ready > s.now) || decide (q.rows.length < q.need)) = false ∧
    (!q.desc.isEmpty) = false := by
  simp [hactive, hfin, hready, hneed, hdesc]

include hq

/-- A query that fails a check ends with STATUS 3. -/
theorem exec_queryAdmit_refused {er : EFault} {u : State} (hs : s.inService (fun s => s.queryCheck k q) = some (.inr er, u)) :
    exec (.queryAdmit k) s = .next (u.endQuery k q.r.id 3 er.1 er.2) := by
  obtain ⟨hdue, hread⟩ := Query.due hactive hfin hready hneed hdesc
  change execQueryAdmit k s = _
  simp only [execQueryAdmit, hq, State.admitAll, hdue, hread, hs, Bool.false_eq_true, if_false]

/-- A query that passes its checks is admitted with its descriptor. -/
theorem exec_queryAdmit_passed {d : List Byte} {u : State} (hs : s.inService (fun s => s.queryCheck k q) = some (.inl d, u)) :
    exec (.queryAdmit k) s = .next ((u.modQuery k q.r.id (fun _ => { q with desc := d })).admitOne k { q with desc := d }) := by
  obtain ⟨hdue, hread⟩ := Query.due hactive hfin hready hneed hdesc
  change execQueryAdmit k s = _
  simp only [execQueryAdmit, hq, State.admitAll, hdue, hread, hs, Bool.false_eq_true, if_false]

/-- A query whose descriptor's home cannot serve it now waits a cycle. -/
theorem exec_queryAdmit_waits (hs : s.inService (fun s => s.queryCheck k q) = none) :
    exec (.queryAdmit k) s = .next (s.after 1 (.queryAdmit k)) := by
  obtain ⟨hdue, hread⟩ := Query.due hactive hfin hready hneed hdesc
  change execQueryAdmit k s = _
  simp only [execQueryAdmit, hq, State.admitAll, hdue, hread, hs, Bool.false_eq_true, if_false]

theorem gives_queryAdmit_refused {er : EFault} {u : State} (hs : s.inService (fun s => s.queryCheck k q) = some (.inr er, u))
    (hu : (u.engine k).queries = [q]) :
    gives (.queryAdmit k) s (fun t => ∃ x, (t.engine k).queries = [x] ∧ x.fin = some (3, er.1, er.2)) :=
  gives_of_exec (exec_queryAdmit_refused hq hactive hfin hready hneed hdesc hs)
    ⟨_, congrArg Engine.queries (State.engine_endQuery hu ..), rfl⟩

theorem gives_queryAdmit_passed {d : List Byte} {u : State} (hs : s.inService (fun s => s.queryCheck k q) = some (.inl d, u))
    (hu : (u.engine k).queries = [q]) :
    gives (.queryAdmit k) s (fun t =>
      ∃ x, (t.engine k).queries = [x] ∧ x.active = true ∧ x.desc = d ∧ x.fin = none ∧ x.r = q.r) := by
  have hexec := exec_queryAdmit_passed hq hactive hfin hready hneed hdesc hs
  have hread : ((u.modQuery k q.r.id (fun _ => { q with desc := d })).engine k).queries = [{ q with desc := d }] :=
    congrArg Engine.queries (State.engine_modQuery hu _)
  generalize u.modQuery k q.r.id (fun _ => { q with desc := d }) = v at hexec hread
  have hidle : (v.engine k).active < Config.activeQueries := by
    simp [Engine.active, hread, hactive]
  rw [State.admitOne, if_pos hidle] at hexec
  exact gives_of_exec hexec (State.admitQuery_admits hread hfin d)

/-- A packet with a reserved field ends its query at its admission. -/
theorem gives_queryAdmit_reserved (hres : q.pktReserved = true) :
    gives (.queryAdmit k) s (fun t => (∃ x, (t.engine k).queries = [x] ∧ x.fin = some (3, 0x02, BitVec.ofNat 64 q.off)) ∧
      t.awaits (s.now + 1) (.queryComplete k q.r.id) ∧ sameProgram s t) := by
  have hs : s.inService (fun s => s.queryCheck k q) = some (.inr (0x02, BitVec.ofNat 64 q.off), { s with units := [] }) := by
    simp only [State.inService, State.queryCheck, hres, if_true]
    simp [State.homesFree, State.occupy, banksOf]
  have hexec := exec_queryAdmit_refused hq hactive hfin hready hneed hdesc hs
  have hserved : servedFrame s { s with units := [] } := ⟨rfl, rfl, rfl, rfl, rfl, rfl, fun _ _ => rfl, fun _ h => h⟩
  refine gives_of_exec hexec ⟨⟨_, congrArg Engine.queries (State.engine_endQuery (s := { s with units := [] }) hq ..), rfl⟩,
    State.awaits_endQuery .., (hserved.trans (servedFrame_endQuery ..)).sameProgram⟩

end

/-! ## Turns (R375, R382) -/

section
variable {s : State} {k : Nat} {e : Engine} {q : Query} (he : s.engines = [(k, e)]) (hq : e.queries = [q])
include he

theorem State.engine_of_engines : s.engine k = e := by simp [State.engine, he, tget]

include hq

/-- Where no batch of the only query has arrived or is back, the engine's service goes on and then its next turn. -/
theorem exec_queryStep_calm (hb : ∀ b ∈ q.batches, b.st ≠ 0 ∧ b.st ≠ 3) :
    exec (.queryStep k) s = .next ((s.endService k).nextTurn k) := by
  have harrivals : s.arrivals k = [] := by
    have hnone : q.batches.any (fun b => b.stack == k && b.st == 0 && b.due ≤ s.now) = false := by
      simp only [List.any_eq_false, Bool.and_eq_true, beq_iff_eq, not_and]
      exact fun b hmem h => absurd h.2 (hb b hmem).1
    simp [State.arrivals, he, hq, hnone]
  have hback : backBatches (s.engine k) s.now = [] := by
    have hnone : q.batches.filter (fun b => b.st == 3 && b.due ≤ s.now) = [] := by
      simp only [List.filter_eq_nil_iff, Bool.and_eq_true, beq_iff_eq, not_and]
      exact fun b hmem hst => absurd hst (hb b hmem).2
    simp [backBatches, State.engine_of_engines he, hq, hnone]
  change execQueryStep k s = _
  simp only [execQueryStep, harrivals, hback, List.foldl_nil]

end

/-- The query whose turn it is in an idle engine, whose jobs are none. -/
def State.turnedTo (s : State) (k : Nat) (q : Query) : State :=
  (s.modEngine k (fun e => { e with jobs := [] })).modEngine k (fun e => { e with turn := q.num })

theorem State.engine_turnedTo (s : State) (k : Nat) (q : Query) :
    (s.turnedTo k q).engine k = { s.engine k with jobs := [], turn := q.num } := by
  rw [State.turnedTo, State.engine_modEngine, State.engine_modEngine]

theorem servedFrame_turnedTo (s : State) (k : Nat) (q : Query) : servedFrame s (s.turnedTo k q) :=
  (servedFrame_modEngine ..).trans (servedFrame_modEngine ..)

section
variable {s : State} {k : Nat} {q : Query} (hq : (s.engine k).queries = [q]) (hcur : (s.engine k).cur = none)
  (hjobs : (s.engine k).jobs = [])
include hq hcur hjobs

/-- An idle engine gives its only query a step, and then serves what that brings. -/
theorem State.nextTurn_step (hcan : q.canStep s.now = true) {v : State}
    (hv : v = ((s.turnedTo k q).stepQuery k q).after 1 (.queryStep k)) :
    s.nextTurn k = v.startService k (v.engine k).jobs := by
  have hidle : ((s.modEngine k (fun e => { e with jobs := [] })).engine k).cur = none := by rw [State.engine_modEngine]; exact hcur
  have hnext : ((s.modEngine k (fun e => { e with jobs := [] })).engine k).next s.now = some q := by
    rw [State.engine_modEngine]
    simp only [Engine.next, hq, List.filter_cons, hcan, if_true, List.filter_nil, List.find?_cons, List.find?_nil, List.head?_cons]
    split <;> rfl
  have hnow : (s.modEngine k (fun e => { e with jobs := [] })).now = s.now := rfl
  rw [hv]
  simp only [State.nextTurn, hcur, hjobs, State.startService, hidle, hnow, hnext, Option.isSome_none, Bool.false_eq_true, if_false,
    State.turnedTo]

end

/-- The batch by which a candidate is read at its stack. -/
def candidateBatch (k now : Nat) (c : HEnt) : Batch :=
  ⟨c.id / 2 ^ 28, [c.id], true, if c.id / 2 ^ 28 == k then 1 else 0, now + halfTrip k (c.id / 2 ^ 28), [], none⟩

/-- A query whose step has begun. -/
def Query.stepped (q : Query) (k now : Nat) (c : HEnt) : Query :=
  { q with
    heap := q.heap.map (fun x => if x.id == c.id then { x with done := true } else x), hops := q.hops + 1,
    batches := [candidateBatch k now c], order := [] }

theorem State.stepQuery_candidate {s : State} {k : Nat} {q : Query} {c : HEnt} (hc : q.heap.find? (fun x => !x.done) = some c) :
    s.stepQuery k q = (s.modQuery k q.r.id (fun _ => q.stepped k s.now c)).sendBatches k (q.stepped k s.now c) true := by
  simp only [State.stepQuery, hc, Query.stepped, candidateBatch]

theorem State.stepQuery_done {s : State} {k : Nat} {q : Query} (hc : q.heap.find? (fun x => !x.done) = none) :
    s.stepQuery k q = s.endQuery k q.r.id 0 0 0 := by
  simp only [State.stepQuery, hc]

/-- An idle engine takes the batch that waits for it. -/
theorem State.startService_one {s : State} {home id k : Nat} {q : Query} {b : Batch} (hb : s.batchOf home id k = some (q, b)) :
    s.startService k [(home, id)] = ((s.modQuery home id (fun _ => q.setBatch { b with st := 2, due := s.now + recordTime })).modEngine k
      (fun e => { e with cur := some (home, id), jobs := [] })).at_ (s.now + recordTime) (.queryStep k) := by
  simp only [State.startService, hb]

section
variable {s : State} {k : Nat} {e : Engine} {q : Query} (he : s.engines = [(k, e)]) (hq : e.queries = [q]) (hcur : e.cur = none)
  (hjobs : e.jobs = []) (hcan : q.canStep s.now = true)
include he hq hcur hjobs hcan

/-- A step of the only query begins. -/
theorem exec_queryStep_turn {v : State} (hv : v = ((s.turnedTo k q).stepQuery k q).after 1 (.queryStep k)) :
    exec (.queryStep k) s = .next (v.startService k (v.engine k).jobs) := by
  have hengine := State.engine_of_engines he
  have hbatches : q.batches = [] := by
    simp only [Query.canStep, Bool.and_eq_true, List.isEmpty_iff] at hcan
    exact hcan.1.2
  have hcalm := exec_queryStep_calm he hq (by simp [hbatches])
  have hend : s.endService k = s := by simp only [State.endService, hengine, hcur]
  rw [hcalm, hend, State.nextTurn_step (by rw [hengine, hq]) (by rw [hengine, hcur]) (by rw [hengine, hjobs]) hcan hv]

/-- A query without an unexpanded candidate is complete. -/
theorem gives_queryStep_done (hc : q.heap.find? (fun x => !x.done) = none) :
    gives (.queryStep k) s (fun t => (∃ x, (t.engine k).queries = [x] ∧ x.fin = some (0, 0, 0)) ∧
      t.awaits (s.now + 1) (.queryComplete k q.r.id) ∧ sameProgram s t) := by
  have hexec := exec_queryStep_turn he hq hcur hjobs hcan rfl
  have hturned := State.engine_turnedTo s k q
  have hserved := servedFrame_turnedTo s k q
  rw [State.stepQuery_done hc] at hexec
  generalize s.turnedTo k q = u at hexec hturned hserved
  have hqueries : (u.engine k).queries = [q] := by rw [hturned, State.engine_of_engines he, hq]
  have hended := State.engine_endQuery hqueries 0 0 0
  have hawaits := u.awaits_endQuery k q.r.id 0 0 0
  have hframe := servedFrame_endQuery u k q.r.id 0 0 0
  rw [hserved.now] at hawaits
  generalize u.endQuery k q.r.id 0 0 0 = v at hexec hended hawaits hframe
  have hjobs' : ((v.after 1 (.queryStep k)).engine k).jobs = [] := by
    rw [State.after, State.engine_at, hended, hturned]
  rw [hjobs', State.startService] at hexec
  have hat := servedFrame_at v (v.now + 1) (.queryStep k)
  refine gives_of_exec hexec ⟨⟨q.ended u.now 0 0 0, ?_, rfl⟩, hawaits.kept hat.agenda,
    (((hserved.trans hframe).trans hat).trans (servedFrame_modEngine ..)).sameProgram⟩
  rw [State.engine_modEngine, State.after, State.engine_at, hended]

/-- The candidate of another stack's is read there. -/
theorem gives_queryStep_away {c : HEnt} (hc : q.heap.find? (fun x => !x.done) = some c) (haway : c.id / 2 ^ 28 ≠ k) :
    gives (.queryStep k) s (fun t => (t.engine k).queries = [q.stepped k s.now c] ∧ (t.engine k).cur = none ∧
      t.awaits (s.now + halfTrip k (c.id / 2 ^ 28)) (.queryStep (c.id / 2 ^ 28)) ∧ sameProgram s t) := by
  have hexec := exec_queryStep_turn he hq hcur hjobs hcan rfl
  have hturned := State.engine_turnedTo s k q
  have hserved := servedFrame_turnedTo s k q
  rw [State.stepQuery_candidate hc] at hexec
  generalize s.turnedTo k q = u at hexec hturned hserved
  rw [hserved.now] at hexec
  have hqueries : (u.engine k).queries = [q] := by rw [hturned, State.engine_of_engines he, hq]
  have hstepped := State.engine_modQuery hqueries (fun _ => q.stepped k s.now c)
  have hframe := servedFrame_modQuery u k q.r.id (fun _ => q.stepped k s.now c)
  generalize u.modQuery k q.r.id (fun _ => q.stepped k s.now c) = v at hexec hstepped hframe
  have hsend : v.sendBatches k (q.stepped k s.now c) true =
      v.at_ (s.now + halfTrip k (c.id / 2 ^ 28)) (.queryStep (c.id / 2 ^ 28)) := by
    simp only [State.sendBatches, Query.stepped, candidateBatch, List.foldl_cons, List.foldl_nil, beq_eq_false_iff_ne.mpr haway,
      Bool.false_eq_true, if_false]
  have hawaits := v.awaits_at (s.now + halfTrip k (c.id / 2 ^ 28)) (.queryStep (c.id / 2 ^ 28))
  have hat := servedFrame_at v (s.now + halfTrip k (c.id / 2 ^ 28)) (.queryStep (c.id / 2 ^ 28))
  have hengine := State.engine_at v (s.now + halfTrip k (c.id / 2 ^ 28)) (.queryStep (c.id / 2 ^ 28)) k
  rw [hsend] at hexec
  generalize v.at_ (s.now + halfTrip k (c.id / 2 ^ 28)) (.queryStep (c.id / 2 ^ 28)) = w at hexec hawaits hat hengine
  have hafter := servedFrame_at w (w.now + 1) (.queryStep k)
  have hengine' : (w.after 1 (.queryStep k)).engine k = { u.engine k with queries := [q.stepped k s.now c] } := by
    rw [State.after, State.engine_at, hengine, hstepped]
  have hjobs' : ((w.after 1 (.queryStep k)).engine k).jobs = [] := by rw [hengine', hturned]
  rw [hjobs', State.startService] at hexec
  refine gives_of_exec hexec ⟨?_, ?_, hawaits.kept hafter.agenda,
    ((((hserved.trans hframe).trans hat).trans hafter).trans (servedFrame_modEngine ..)).sameProgram⟩
  · rw [State.engine_modEngine, hengine']
  · rw [State.engine_modEngine, hengine', hturned, State.engine_of_engines he, hcur]

/-- The candidate of the engine's own stack is read in the query's turn. -/
theorem gives_queryStep_home {c : HEnt} (hc : q.heap.find? (fun x => !x.done) = some c) (hhome : c.id / 2 ^ 28 = k) :
    gives (.queryStep k) s (fun t => (t.engine k).queries =
        [(q.stepped k s.now c).setBatch { candidateBatch k s.now c with st := 2, due := s.now + 228 }] ∧
      (t.engine k).cur = some (k, q.r.id) ∧ t.awaits (s.now + 228) (.queryStep k) ∧ sameProgram s t) := by
  have hexec := exec_queryStep_turn he hq hcur hjobs hcan rfl
  have hturned := State.engine_turnedTo s k q
  have hserved := servedFrame_turnedTo s k q
  rw [State.stepQuery_candidate hc] at hexec
  generalize s.turnedTo k q = u at hexec hturned hserved
  rw [hserved.now] at hexec
  have hqueries : (u.engine k).queries = [q] := by rw [hturned, State.engine_of_engines he, hq]
  have hstepped := State.engine_modQuery hqueries (fun _ => q.stepped k s.now c)
  have hframe := servedFrame_modQuery u k q.r.id (fun _ => q.stepped k s.now c)
  generalize u.modQuery k q.r.id (fun _ => q.stepped k s.now c) = v at hexec hstepped hframe
  have hsend : v.sendBatches k (q.stepped k s.now c) true =
      (v.modEngine k (fun e => { e with jobs := (k, q.r.id) :: e.jobs })).at_ v.now (.queryStep k) := by
    simp only [State.sendBatches, Query.stepped, candidateBatch, List.foldl_cons, List.foldl_nil, hhome, beq_self_eq_true, if_true]
  have hjoin := servedFrame_modEngine v k (fun e => { e with jobs := (k, q.r.id) :: e.jobs })
  have hengine := State.engine_modEngine v k (fun e => { e with jobs := (k, q.r.id) :: e.jobs })
  rw [hsend] at hexec
  generalize v.modEngine k (fun e => { e with jobs := (k, q.r.id) :: e.jobs }) = w at hexec hjoin hengine
  have hafter := (servedFrame_at w v.now (.queryStep k)).trans (servedFrame_at _ (w.now + 1) (.queryStep k))
  have hengine' : ((w.at_ v.now (.queryStep k)).after 1 (.queryStep k)).engine k =
      { u.engine k with queries := [q.stepped k s.now c], jobs := [(k, q.r.id)] } := by
    rw [State.after, State.engine_at, State.engine_at, hengine, hstepped, hturned]
  have hall := ((hserved.trans hframe).trans hjoin).trans hafter
  change servedFrame s ((w.at_ v.now (.queryStep k)).after 1 (.queryStep k)) at hall
  generalize (w.at_ v.now (.queryStep k)).after 1 (.queryStep k) = x at hexec hengine' hall
  have hbatch : x.batchOf k q.r.id k = some (q.stepped k s.now c, candidateBatch k s.now c) := by
    have h := State.batchOf_single (s := x) (k := k) (q := q.stepped k s.now c) (b := candidateBatch k s.now c) (by rw [hengine']) rfl
    rwa [show (candidateBatch k s.now c).stack = k from hhome] at h
  have hjobs' : (x.engine k).jobs = [(k, q.r.id)] := by rw [hengine']
  rw [hjobs', State.startService_one hbatch, hall.now] at hexec
  refine gives_of_exec hexec ⟨?_, ?_, State.awaits_at ..,
    (((hall.trans (servedFrame_modQuery ..)).trans (servedFrame_modEngine ..)).trans (servedFrame_at ..)).sameProgram⟩
  · rw [State.engine_at, State.engine_modEngine]
    exact congrArg Engine.queries (State.engine_modQuery (s := x) (q := q.stepped k s.now c) (by rw [hengine']) _)
  · rw [State.engine_at, State.engine_modEngine]

end

/-! ## Batches at work (R363, R374 to R376) -/

theorem Query.setBatch_single {q : Query} {b : Batch} (hb : q.batches = [b]) {b' : Batch} (hstack : b'.stack = b.stack) :
    q.setBatch b' = { q with batches := [b'] } := by
  simp only [Query.setBatch, hb, List.map_cons, List.map_nil, hstack, beq_self_eq_true, if_true]

theorem State.jobs_modQuery (s : State) (k id : Nat) (f : Query → Query) (j : Nat) :
    ((s.modQuery k id f).engine j).jobs = (s.engine j).jobs := by
  by_cases h : j = k
  · rw [State.modQuery, h, State.engine_modEngine]
  · rw [State.modQuery, State.engine_modEngine_ne _ h]

/-- A batch arrives at the engine of its stack, and waits there in its turn. -/
theorem gives_remoteBatch {s : State} {k : Nat} {q : Query} {b : Batch} (hq : (s.engine k).queries = [q]) (hb : q.batches = [b])
    (hst : b.st = 0) :
    gives (.remoteBatch k q.r.id b.stack) s (fun t => (t.engine k).queries = [{ q with batches := [{ b with st := 1 }] }] ∧
      (t.engine b.stack).jobs = (s.engine b.stack).jobs ++ [(k, q.r.id)] ∧ t.awaits s.now (.queryStep b.stack) ∧ sameProgram s t) := by
  have hset : q.setBatch { b with st := 1 } = { q with batches := [{ b with st := 1 }] } := Query.setBatch_single hb rfl
  have hexec : exec (.remoteBatch k q.r.id b.stack) s = .next (((s.modQuery k q.r.id (fun _ => { q with batches := [{ b with st := 1 }] })).modEngine
      b.stack (fun e => { e with jobs := e.jobs ++ [(k, q.r.id)] })).at_ s.now (.queryStep b.stack)) := by
    change execRemoteBatch k q.r.id b.stack s = _
    simp only [execRemoteBatch, State.batchArrives, State.batchOf_single hq hb, hst, bne_self_eq_false, Bool.false_eq_true, if_false, hset]
  have hmod := State.engine_modQuery hq (fun _ => { q with batches := [{ b with st := 1 }] })
  have hjobs := s.jobs_modQuery k q.r.id (fun _ => { q with batches := [{ b with st := 1 }] }) b.stack
  have hserved := servedFrame_modQuery s k q.r.id (fun _ => { q with batches := [{ b with st := 1 }] })
  generalize s.modQuery k q.r.id (fun _ => { q with batches := [{ b with st := 1 }] }) = u at hexec hmod hjobs hserved
  refine gives_of_exec hexec ⟨?_, ?_, State.awaits_at .., ((hserved.trans (servedFrame_modEngine ..)).trans (servedFrame_at ..)).sameProgram⟩
  · rw [State.engine_at, State.queries_modEngine u b.stack k (f := fun e => { e with jobs := e.jobs ++ [(k, q.r.id)] }) (fun _ => rfl), hmod]
  · rw [State.engine_at, State.engine_modEngine, hjobs]

/-- A query whose last batch is back, with its nodes placed, waits for its next turn. -/
def Query.placed (q : Query) (now : Nat) : Query :=
  { q with batches := [], heap := placeHeap q.beam q.heap q.back, back := [], order := [], ready := now }

/-- The nodes of a step without faults are placed, and the query waits for its next turn. -/
theorem State.placeStep_places {s : State} {k : Nat} {q x : Query} (hq : (s.engine k).queries = [x]) (hr : x.r = q.r)
    (hfaults : q.faults = []) (hhops : q.hops < q.hoplim) :
    (s.placeStep k q).engine k = { s.engine k with
      queries := [{ x with heap := placeHeap q.beam q.heap q.back, back := [], order := [], ready := s.now }] } ∧
    servedFrame s (s.placeStep k q) := by
  have hnone : q.order.findSome? (fun n => q.faults.find? (fun f => f.1 == n)) = none := by
    simp [hfaults, List.findSome?_eq_none_iff]
  have hgoes : (decide (q.hops ≥ q.hoplim) && (placeHeap q.beam q.heap q.back).any (fun x => !x.done)) = false := by
    simp [Nat.not_le.mpr hhops]
  simp only [State.placeStep, hnone, hgoes, Bool.false_eq_true, if_false, State.queryTurn]
  generalize placeHeap q.beam q.heap q.back = h
  have hid : x.r.id = q.r.id := congrArg MReq.id hr
  have hmod := State.engine_modQuery_of hq hid (fun x => { x with heap := h, back := [], order := [] })
  have hserved := servedFrame_modQuery s k q.r.id (fun x => { x with heap := h, back := [], order := [] })
  generalize s.modQuery k q.r.id (fun x => { x with heap := h, back := [], order := [] }) = u at hmod hserved ⊢
  have hp := engineFrame_progress u q.r.grp q.r.dst u.now
  have hpengine := hp.engine k
  have hall := hserved.trans hp.served
  generalize u.progress q.r.grp q.r.dst = v at hall hpengine ⊢
  have hmod' := State.engine_modQuery_of (s := v) (k := k) (q := { x with heap := h, back := [], order := [] })
    (by rw [hpengine, hmod]) hid (fun q => { q with ready := v.now })
  rw [hpengine, hmod] at hmod'
  rw [← hall.now]
  exact ⟨hmod', (hall.trans (servedFrame_modQuery ..)).trans (servedFrame_at ..)⟩

/-- An idle engine whose only query may not take a step now has nothing to do. -/
theorem State.nextTurn_idle {s : State} {k : Nat} {q : Query} (hq : (s.engine k).queries = [q]) (hcur : (s.engine k).cur = none)
    (hjobs : (s.engine k).jobs = []) (hcan : q.canStep s.now = false) : s.nextTurn k = s.modEngine k (fun e => { e with jobs := [] }) := by
  have hidle : ((s.modEngine k (fun e => { e with jobs := [] })).engine k).cur = none := by rw [State.engine_modEngine]; exact hcur
  have hnext : ((s.modEngine k (fun e => { e with jobs := [] })).engine k).next s.now = none := by
    rw [State.engine_modEngine]
    simp [Engine.next, hq, hcan]
  have hnow : (s.modEngine k (fun e => { e with jobs := [] })).now = s.now := rfl
  simp only [State.nextTurn, hcur, hjobs, State.startService, hidle, hnow, hnext, Option.isSome_none, Bool.false_eq_true, if_false]

/-- The last batch of a step is back at once where its stack is the home of its query. -/
theorem State.served_places {s : State} {k : Nat} {q : Query} {b : Batch} (hq : (s.engine k).queries = [q]) (hb : q.batches = [b])
    (hstack : b.stack = k) (hcand : b.cand = false) (hfaults : q.faults = []) (hhops : q.hops < q.hoplim) :
    (s.served k q.r.id k q b).engine k = { s.engine k with queries := [q.placed s.now], cur := none } ∧
    servedFrame s (s.served k q.r.id k q b) := by
  simp only [State.served, beq_self_eq_true, if_true]
  generalize hb' : ({ b with st := 3, due := s.now + halfTrip k k } : Batch) = b'
  have hstack' : b'.stack = k := by rw [← hb']; exact hstack
  have hcand' : b'.cand = false := by rw [← hb']; exact hcand
  rw [Query.setBatch_single hb (hstack'.trans hstack.symm)]
  have hmod := State.engine_modQuery hq (fun _ => { q with batches := [b'] })
  have hserved := servedFrame_modQuery s k q.r.id (fun _ => { q with batches := [b'] })
  generalize s.modQuery k q.r.id (fun _ => { q with batches := [b'] }) = u at hmod hserved ⊢
  have hfree := State.engine_modEngine u k (fun e => { e with cur := none })
  have hframe := hserved.trans (servedFrame_modEngine u k (fun e => { e with cur := none }))
  rw [hmod] at hfree
  generalize u.modEngine k (fun e => { e with cur := none }) = v at hfree hframe ⊢
  have hbatch : v.batchOf k q.r.id k = some ({ q with batches := [b'] }, b') := by
    have h := State.batchOf_single (s := v) (k := k) (q := { q with batches := [b'] }) (b := b') (by rw [hfree]) rfl
    rwa [hstack'] at h
  have hdrop : ({ q with batches := [b'] } : Query).dropBatch k = { q with batches := [] } := by
    simp [Query.dropBatch, hstack']
  simp only [State.batchBack, hbatch, hdrop, hcand', Bool.false_eq_true, if_false, List.isEmpty_nil, if_true]
  have hmod' := State.engine_modQuery (s := v) (k := k) (q := { q with batches := [b'] }) (by rw [hfree]) (fun _ => { q with batches := [] })
  have hserved' := servedFrame_modQuery v k q.r.id (fun _ => { q with batches := [] })
  change (v.modQuery k q.r.id (fun _ => { q with batches := [] })).engine k = _ at hmod'
  generalize v.modQuery k q.r.id (fun _ => { q with batches := [] }) = w at hmod' hserved' ⊢
  rw [hfree] at hmod'
  have hall := hframe.trans hserved'
  obtain ⟨hplaced, hplacedFrame⟩ := State.placeStep_places (s := w) (k := k) (q := { q with batches := [] }) (by rw [hmod']) rfl hfaults hhops
  refine ⟨?_, hall.trans hplacedFrame⟩
  rw [hplaced, hmod', hall.now]
  rfl

theorem State.nextTurn_busy {s : State} {k : Nat} {x : Nat × Nat} (hcur : (s.engine k).cur = some x) : s.nextTurn k = s := by
  simp only [State.nextTurn, hcur, Option.isSome_some, if_true]

section
variable {s : State} {k : Nat} {e : Engine} {q : Query} {b : Batch} (he : s.engines = [(k, e)]) (hq : e.queries = [q])
  (hcur : e.cur = some (k, q.r.id)) (hb : q.batches = [b]) (hstack : b.stack = k) (hst : b.st = 2) (hdue : b.due ≤ s.now)
include he hq hb hstack

theorem State.batchOf_engine : s.batchOf k q.r.id k = some (q, b) := by
  have h := State.batchOf_single (s := s) (k := k) (by rw [State.engine_of_engines he, hq]) hb
  rwa [hstack] at h

include hcur hst hdue

/-- The batch in service goes on with its next node when it is due. -/
theorem exec_queryStep_reads {n : Nat} {rest : List Nat} (hids : b.ids = n :: rest) :
    exec (.queryStep k) s = .next ((s.readNext k q.r.id k q b n rest).nextTurn k) := by
  rw [exec_queryStep_calm he hq (by simp [hb, hst])]
  have hlate : (b.st == 2 && decide (s.now < b.due)) = false := by simp [hdue]
  simp only [State.endService, State.engine_of_engines he, hcur, State.batchOf_engine he hq hb hstack, hlate, Bool.false_eq_true,
    if_false, hids]

theorem exec_queryStep_served (hids : b.ids = []) : exec (.queryStep k) s = .next ((s.served k q.r.id k q b).nextTurn k) := by
  rw [exec_queryStep_calm he hq (by simp [hb, hst])]
  have hlate : (b.st == 2 && decide (s.now < b.due)) = false := by simp [hdue]
  simp only [State.endService, State.engine_of_engines he, hcur, State.batchOf_engine he hq hb hstack, hlate, Bool.false_eq_true,
    if_false, hids]

/-- A node whose homes cannot serve its read now waits a cycle. -/
theorem exec_queryStep_waits {n : Nat} {rest : List Nat} (hids : b.ids = n :: rest)
    (hs : s.inService (fun s => s.readNode q k n) = none) : exec (.queryStep k) s = .next (s.after 1 (.queryStep k)) := by
  have hbusy : (s.after 1 (.queryStep k)).nextTurn k = s.after 1 (.queryStep k) := State.nextTurn_busy (x := (k, q.r.id))
    (by rw [State.after, State.engine_at, State.engine_of_engines he, hcur])
  rw [exec_queryStep_reads he hq hcur hb hstack hst hdue hids]
  simp only [State.readNext, hs, hbusy]

/-- A node of a batch is measured. -/
theorem gives_queryStep_measures (hcand : b.cand = false) {n : Nat} {rest : List Nat} {rc : List Byte} {u : State} (hids : b.ids = n :: rest)
    (hs : s.inService (fun s => s.readNode q k n) = some (.inl rc, u)) (hengines : u.engines = s.engines) (hnow : u.now = s.now) :
    gives (.queryStep k) s (fun t => (t.engine k).queries =
        [(q.measured n (.inl rc)).setBatch { b with ids := rest, due := s.now + q.distTime }] ∧
      t.awaits (s.now + q.distTime) (.queryStep k)) := by
  have hread : s.readNext k q.r.id k q b n rest = (u.modQuery k q.r.id (fun _ =>
      (q.measured n (.inl rc)).setBatch { b with ids := rest, due := s.now + q.distTime })).at_ (s.now + q.distTime) (.queryStep k) := by
    simp only [State.readNext, hs, hcand, Bool.false_eq_true, if_false, hnow]
  have hengine : u.engine k = e := by rw [State.engine, hengines]; exact State.engine_of_engines he
  have hmod := State.engine_modQuery (s := u) (k := k) (by rw [hengine, hq])
    (fun _ => (q.measured n (.inl rc)).setBatch { b with ids := rest, due := s.now + q.distTime })
  have hexec := exec_queryStep_reads he hq hcur hb hstack hst hdue hids
  rw [hread] at hexec
  generalize u.modQuery k q.r.id (fun _ => (q.measured n (.inl rc)).setBatch { b with ids := rest, due := s.now + q.distTime }) = v
    at hexec hmod
  rw [State.nextTurn_busy (x := (k, q.r.id)) (by rw [State.engine_at, hmod, hengine, hcur])] at hexec
  exact gives_of_exec hexec ⟨by rw [State.engine_at, hmod], State.awaits_at ..⟩

/-- A batch whose nodes are measured is back at its engine, which places them. -/
theorem gives_queryStep_places (hjobs : e.jobs = []) (hcand : b.cand = false) (hids : b.ids = []) (hfaults : q.faults = [])
    (hhops : q.hops < q.hoplim) :
    gives (.queryStep k) s (fun t => ∃ x, (t.engine k).queries = [x] ∧ x.batches = [] ∧ (t.engine k).cur = none ∧
      x.heap = placeHeap q.beam q.heap q.back ∧ sameProgram s t) := by
  have hexec := exec_queryStep_served he hq hcur hb hstack hst hdue hids
  have hengine := State.engine_of_engines he
  obtain ⟨hplaced, hserved⟩ := State.served_places (s := s) (k := k) (by rw [hengine, hq]) hb hstack hcand hfaults hhops
  generalize s.served k q.r.id k q b = u at hexec hplaced hserved
  rw [hengine] at hplaced
  rw [State.nextTurn_idle (q := q.placed s.now) (by rw [hplaced]) (by rw [hplaced]) (by rw [hplaced, hjobs])
    (by simp [Query.canStep, Query.placed, hserved.now])] at hexec
  have hjobs' := State.engine_modEngine u k (fun e => { e with jobs := [] })
  rw [hplaced] at hjobs'
  exact gives_of_exec hexec ⟨q.placed s.now, by rw [hjobs'], rfl, by rw [hjobs'], rfl, (hserved.trans (servedFrame_modEngine ..)).sameProgram⟩

end

/-! ## Aborts (R384) -/

theorem Engine.query_single {e : Engine} {q : Query} (hq : e.queries = [q]) : e.query q.r.id = some q := by
  simp [Engine.query, hq]

/-- An abort that finds its query at work ends it with STATUS 4, and its answer goes back to the SE. -/
theorem gives_qabortArrival {s : State} {k : Nat} {q : Query} (hq : (s.engine k).queries = [q]) (hfin : q.fin = none) (r : MReq) :
    gives (.qabortArrival k q.r.id r) s (fun t => (∃ x, (t.engine k).queries = [x] ∧ x.fin = some (4, 0, 0)) ∧
      t.awaits (s.now + 1) (.queryComplete k q.r.id) ∧
      t.awaits (s.now + engineHop r.dst k) (.queryAccept { r with stage := 3, v1 := completionWord 0 0 1 0 r.addr.toNat }) ∧
      sameProgram s t) := by
  have hexec : exec (.qabortArrival k q.r.id r) s = .next ((s.endQuery k q.r.id 4 0 0).after (engineHop r.dst k)
      (.queryAccept { r with stage := 3, v1 := completionWord 0 0 1 0 r.addr.toNat })) := by
    change execQabortArrival k q.r.id r s = _
    simp only [execQabortArrival, Engine.query_single hq, hfin, if_true]
  have hended := State.engine_endQuery hq 4 0 0
  have hawaits := s.awaits_endQuery k q.r.id 4 0 0
  have hserved := servedFrame_endQuery s k q.r.id 4 0 0
  generalize s.endQuery k q.r.id 4 0 0 = u at hexec hended hawaits hserved
  rw [State.after, hserved.now] at hexec
  have hat := servedFrame_at u (s.now + engineHop r.dst k) (.queryAccept { r with stage := 3, v1 := completionWord 0 0 1 0 r.addr.toNat })
  exact gives_of_exec hexec ⟨⟨q.ended s.now 4 0 0, congrArg Engine.queries hended, rfl⟩, hawaits.kept hat.agenda, State.awaits_at ..,
    (hserved.trans hat).sameProgram⟩

/-! ## Results and records (R377 to R380) -/

/-- The record of a query has 64 bytes (Table 16-6). -/
theorem Query.length_record (q : Query) (status code : Nat) (fa : Word) : (q.record status code fa).length = 64 := by
  simp [Query.record, length_leBytes]

/-- Bytes that are put into a window are read there. -/
theorem State.readByte_windowed_in (s : State) (a : Nat) (b : List Byte) {i : Nat} (h : i < b.length) :
    (s.windowBytes a b).readByte (a + i) = (b[i]?).getD 0 := by
  rw [List.getElem?_eq_getElem h, Option.getD_some]
  exact State.readByte_writeBytes_in s a b h

theorem State.readByte_windowed_out (s : State) {a x : Nat} (b : List Byte) (h : x < a ∨ a + b.length ≤ x) :
    (s.windowBytes a b).readByte x = s.readByte x := State.readByte_writeBytes_out s b h

theorem State.engine_windowBytes (s : State) (a : Nat) (b : List Byte) (k : Nat) : (s.windowBytes a b).engine k = s.engine k := by
  rw [State.windowBytes_eq]
  rfl

section
variable {s : State} {k : Nat} {q : Query} {st code : Nat} {fa : Word} (hq : (s.engine k).queries = [q]) (hfin : q.fin = some (st, code, fa))
include hq hfin

/-- A query that ends without results sends its record at once. -/
theorem gives_queryComplete_failed (hst : 2 < st) (hleft : q.left = 0) :
    gives (.queryComplete k q.r.id) s (fun t => (t.engine k).queries = [{ q with left := 2 }] ∧
      t.awaits (s.now + engineHop q.r.dst k) (.queryComplete k q.r.id) ∧ sameProgram s t) := by
  have hexec : exec (.queryComplete k q.r.id) s = .next
      ((s.modQuery k q.r.id (fun q => { q with left := 2 })).after (engineHop q.r.dst k) (.queryComplete k q.r.id)) := by
    change execQueryComplete k q.r.id s = _
    simp only [execQueryComplete, Engine.query_single hq, hfin, hleft, Nat.not_le.mpr hst, if_false]
  exact gives_of_exec hexec ⟨congrArg Engine.queries (State.engine_modQuery hq _), State.awaits_at ..,
    ((servedFrame_modQuery ..).trans (servedFrame_at ..)).sameProgram⟩

/-- A query of whose nodes none passes the filter sends its record at once. -/
theorem gives_queryComplete_empty {u : State} (hst : st ≤ 2) (hleft : q.left = 0)
    (hs : s.inService (fun s => s.chooseResults k q) = some (.inl [], u)) (hu : (u.engine k).queries = [q]) (hnow : u.now = s.now) :
    gives (.queryComplete k q.r.id) s (fun t => (t.engine k).queries = [{ q with left := 2 }] ∧
      t.awaits (s.now + engineHop q.r.dst k) (.queryComplete k q.r.id)) := by
  have hexec : exec (.queryComplete k q.r.id) s = .next
      ((u.modQuery k q.r.id (fun _ => { q with left := 2 })).after (engineHop q.r.dst k) (.queryComplete k q.r.id)) := by
    change execQueryComplete k q.r.id s = _
    simp only [execQueryComplete, Engine.query_single hq, hfin, hleft, hst, if_true, State.results, hs]
  refine gives_of_exec hexec ⟨congrArg Engine.queries (State.engine_modQuery hu _), ?_⟩
  rw [← hnow]
  exact State.awaits_at ..

/-- A burst of results is written. -/
theorem gives_queryComplete_burst {n : Nat} {u : State} (hleft : q.left = 1)
    (hs : s.inService (fun s => s.writeResults k q q.count (q.sel.take 8)) = some ((n, none), u)) (hu : (u.engine k).queries = [q]) :
    gives (.queryComplete k q.r.id) s (fun t => ∃ x, (t.engine k).queries = [x] ∧ x.count = n ∧
      x.sel = q.sel.drop 8 ∧ x.left = (if q.sel.drop 8 = [] then 2 else 1) ∧ x.fin = q.fin ∧ ∀ a, t.readByte a = u.readByte a) := by
  have hexec : exec (.queryComplete k q.r.id) s = .next ((u.modQuery k q.r.id (fun _ =>
      { q with count := n, sel := q.sel.drop 8, left := if (q.sel.drop 8).isEmpty then 2 else 1 })).after
        (if (q.sel.drop 8).isEmpty then 1 + engineHop q.r.dst k else 1) (.queryComplete k q.r.id)) := by
    change execQueryComplete k q.r.id s = _
    simp only [execQueryComplete, Engine.query_single hq, hfin, hleft, State.resultBurst, hs, Option.isSome_none, Bool.false_eq_true, if_false]
  refine gives_of_exec hexec ⟨_, congrArg Engine.queries (State.engine_modQuery hu _), rfl, rfl, ?_, rfl, fun _ => rfl⟩
  simp only [List.isEmpty_iff]

/-- The record of a query enters the bank of its packet. -/
theorem gives_queryComplete_record (hleft : q.left = 2) :
    gives (.queryComplete k q.r.id) s (fun t => (t.engine k).queries = [{ q with left := 3 }] ∧
      (∃ p ∈ (t.bank (bankOf (seAddr q.r.dst (q.off + 0xC0)))).q, p.instr = .queryComplete k q.r.id) ∧ sameProgram s t) := by
  have hexec : exec (.queryComplete k q.r.id) s = .next ((s.modQuery k q.r.id (fun q => { q with left := 3 })).bankEnter
      (seAddr q.r.dst (q.off + 0xC0)) 5 (.queryComplete k q.r.id) none) := by
    change execQueryComplete k q.r.id s = _
    simp only [execQueryComplete, Engine.query_single hq, hfin, hleft]
  have hmod := State.engine_modQuery hq (fun q => { q with left := 3 })
  have hserved := servedFrame_modQuery s k q.r.id (fun q => { q with left := 3 })
  generalize s.modQuery k q.r.id (fun q => { q with left := 3 }) = u at hexec hmod hserved
  have hframe := accessFrame_bankEnter u (seAddr q.r.dst (q.off + 0xC0)) 5 (.queryComplete k q.r.id)
  refine gives_of_exec hexec ⟨?_, State.mem_bankEnter .., (hserved.trans hframe.served).sameProgram⟩
  rw [hframe.engineFrame.engine, hmod]

/-- The record of a query is written at its SE, and the query leaves its engine. -/
theorem gives_queryComplete_over (hleft : q.left = 3) :
    gives (.queryComplete k q.r.id) s (fun t => (t.engine k).queries = [] ∧
      (∀ i < 64, t.readByte (seAddr q.r.dst (q.off + 0xC0) + i) = ((q.record st code fa)[i]?).getD 0) ∧
      (∀ a, (a < seAddr q.r.dst (q.off + 0xC0) ∨ seAddr q.r.dst (q.off + 0xC0) + 64 ≤ a) → t.readByte a = s.readByte a) ∧
      (q.record st code fa).length = 64) := by
  have hlen := q.length_record st code fa
  have hexec : exec (.queryComplete k q.r.id) s = .next (((s.windowBytes (seAddr q.r.dst (q.off + 0xC0)) (q.record st code fa)).modEngine k
      (fun e => { e with queries := e.queries.filter (fun x => x.r.id != q.r.id) })).tableLeave q.r
      (completionWord st code q.count q.flags q.off)) := by
    change execQueryComplete k q.r.id s = _
    simp only [execQueryComplete, Engine.query_single hq, hfin, hleft]
  generalize seAddr q.r.dst (q.off + 0xC0) = a at hexec ⊢
  have hin (i : Nat) (hi : i < 64) := State.readByte_windowed_in s a (q.record st code fa) (hlen.symm ▸ hi)
  have hout (y : Nat) (hy : y < a ∨ a + 64 ≤ y) := State.readByte_windowed_out s (q.record st code fa) (hlen.symm ▸ hy)
  have hengine := s.engine_windowBytes a (q.record st code fa) k
  generalize s.windowBytes a (q.record st code fa) = w at hexec hin hout hengine
  have hleaves := engineFrame_tableLeave (w.modEngine k (fun e => { e with queries := e.queries.filter (fun x => x.r.id != q.r.id) })) q.r
    (completionWord st code q.count q.flags q.off)
  have hbyte (y : Nat) : _ = w.readByte y := hleaves.served.readByte y
  refine gives_of_exec hexec ⟨?_, fun i hi => (hbyte _).trans (hin i hi), fun y hy => (hbyte y).trans (hout y hy), hlen⟩
  rw [hleaves.engine, State.engine_modEngine, hengine, hq]
  simp

end

end Sys2Proof.Machine
end
section
/-! SUPPORT. Gathers and scatters (R386 to R388): a request at its unit, and its bytes and record at the SE. Settles O45. -/

namespace Sys2Proof.Machine

/-! ## The unit (R386, R387) -/

/-- Both events of a unit give it a turn. -/
theorem exec_screeTurn {k : Nat} {i : Instr} (hi : i = .screeGather k ∨ i = .screeScatter k) (s : State) :
    exec i s = .next (s.screeTurn k) := by
  rcases hi with rfl | rfl <;> rfl

section
variable {s : State} {k : Nat} {q : ScreeReq} (hq : (s.engine k).scree = [q])
include hq

theorem State.engine_modScree (f : ScreeReq → ScreeReq) : (s.modScree k q.r.id f).engine k = { s.engine k with scree := [f q] } := by
  simp only [State.modScree, State.engine_modEngine, hq, List.map_cons, List.map_nil, beq_self_eq_true, if_true]

/-- The end of a request's service sets out for its SE. -/
theorem State.screeEnd_ends (f : ScreeFin) (b : List Byte) :
    (∃ x, ((s.screeEnd k q f b).engine k).scree = [x] ∧ x.fin = some f ∧ x.data = b ∧ x.ready = s.now + engineHop q.r.dst k) ∧
    (s.screeEnd k q f b).awaits (s.now + engineHop q.r.dst k) (screeEvent q.r k) ∧ servedFrame s (s.screeEnd k q f b) := by
  have hp := engineFrame_progress s q.r.grp q.r.dst s.now
  have hprogress := hp.engine k
  unfold State.screeEnd
  dsimp only
  generalize s.progress q.r.grp q.r.dst = p at hp hprogress ⊢
  have hmod := State.engine_modScree (s := p) (k := k) (q := q) (by rw [hprogress, hq])
    (fun x => { x with fin := some f, data := b, ready := s.now + engineHop q.r.dst k, busy := false })
  have hserved : servedFrame p (p.modScree k q.r.id
    (fun x => { x with fin := some f, data := b, ready := s.now + engineHop q.r.dst k, busy := false })) := servedFrame_modEngine ..
  generalize p.modScree k q.r.id
    (fun x => { x with fin := some f, data := b, ready := s.now + engineHop q.r.dst k, busy := false }) = u at hmod hserved ⊢
  have hfree := State.engine_modEngine u k (fun e => { e with sfree := u.now + (b.length + 63) / 64 })
  have hserved' := servedFrame_modEngine u k (fun e => { e with sfree := u.now + (b.length + 63) / 64 })
  rw [hmod] at hfree
  generalize u.modEngine k (fun e => { e with sfree := u.now + (b.length + 63) / 64 }) = v at hfree hserved' ⊢
  have hat := servedFrame_at v (s.now + engineHop q.r.dst k) (screeEvent q.r k)
  have hawaits := State.awaits_at v (s.now + engineHop q.r.dst k) (screeEvent q.r k)
  have hengine := State.engine_at v (s.now + engineHop q.r.dst k) (screeEvent q.r k) k
  rw [hfree] at hengine
  generalize v.at_ (s.now + engineHop q.r.dst k) (screeEvent q.r k) = w at hat hawaits hengine ⊢
  have hwake : w.screeWake k = w := by
    simp only [State.screeWake, hengine, List.find?_cons, Option.isNone_some, List.find?_nil]
  rw [hwake, hengine]
  exact ⟨⟨_, rfl, rfl, rfl, rfl⟩, hawaits, ((hp.served.trans hserved).trans hserved').trans hat⟩

/-- The only request of a unit is served when it is due. -/
theorem exec_screeTurn_serves {i : Instr} (hi : i = .screeGather k ∨ i = .screeScatter k) (hfin : q.fin = none) (hbusy : q.busy = false)
    (hdue : (s.engine k).screeDue q ≤ s.now) : exec i s = .next (s.screeServe k q) := by
  rw [exec_screeTurn hi]
  simp only [State.screeTurn, hq, State.screeAnswers, hfin, Option.isSome_none, Bool.false_and, Bool.false_eq_true, if_false, List.find?_cons,
    Option.isNone_none, hbusy, Nat.not_lt.mpr hdue]

/-- The answer of the only request of a unit is written when it is back at the SE. -/
theorem exec_screeTurn_answers {i : Instr} (hi : i = .screeGather k ∨ i = .screeScatter k) {f : ScreeFin} (hfin : q.fin = some f)
    (hbusy : q.busy = false) (hready : q.ready ≤ s.now) {t : State}
    (ht : t = (s.modScree k q.r.id (fun x => { x with busy := true })).answerStep k q 0)
    (hengine : (t.engine k).scree = [{ q with busy := true }]) : exec i s = .next t := by
  rw [exec_screeTurn hi]
  simp only [State.screeTurn, hq, State.screeAnswers, hfin, Option.isSome_some, hbusy, Bool.not_false, hready, decide_true, Bool.and_self,
    if_true, ← ht, hengine, List.find?_cons, Option.isNone_some, List.find?_nil]

end

/-- The event ends the service of the request with `f` and the bytes `b`, in the memory of `u`. -/
def endsScree (s : State) (k : Nat) (q : ScreeReq) (i : Instr) (u : State) (f : ScreeFin) (b : List Byte) : Prop :=
  gives i s (fun t => (∃ x, (t.engine k).scree = [x] ∧ x.fin = some f ∧ x.data = b ∧ x.ready = s.now + engineHop q.r.dst k) ∧
    t.awaits (s.now + engineHop q.r.dst k) (screeEvent q.r k) ∧ ∀ a, t.readByte a = u.readByte a)

theorem endsScree_of_screeEnd {s u : State} {k : Nat} {q : ScreeReq} {i : Instr} {f : ScreeFin} {b : List Byte}
    (hexec : exec i s = .next (u.screeEnd k q f b)) (hu : (u.engine k).scree = [q]) (hnow : u.now = s.now) : endsScree s k q i u f b := by
  obtain ⟨hends, hawaits, hserved⟩ := State.screeEnd_ends hu f b
  rw [hnow] at hends hawaits
  exact gives_of_exec hexec ⟨hends, hawaits, hserved.readByte⟩

section
variable {s : State} {k : Nat} {q : ScreeReq} {i : Instr} (hq : (s.engine k).scree = [q])
  (hi : i = .screeGather k ∨ i = .screeScatter k) (hfin : q.fin = none) (hbusy : q.busy = false)
  (hdue : (s.engine k).screeDue q ≤ s.now)
include hq hi hfin hbusy hdue

/-- A record that fails a check ends its request. -/
theorem endsScree_refused (hidx : q.idx = none) {er : EFault} (hcheck : s.screeCheck q = some er) :
    endsScree s k q i s (3, er.1, er.2, 0, 0) [] := by
  have hexec := exec_screeTurn_serves hq hi hfin hbusy hdue
  simp only [State.screeServe, hidx, hcheck] at hexec
  exact endsScree_of_screeEnd hexec hq rfl

/-- A gather reads its elements in one service of their homes. -/
theorem endsScree_gather {idx : List Byte} (hidx : q.idx = some idx) (hacc : q.r.acc = .gat) {f : ScreeFin} {b : List Byte} {u : State}
    (hs : s.inService (fun s => s.gatherAll k q idx 0 q.n) = some ((f, b), u)) (hu : (u.engine k).scree = [q]) (hnow : u.now = s.now) :
    endsScree s k q i u f b := by
  have hexec := exec_screeTurn_serves hq hi hfin hbusy hdue
  simp only [State.screeServe, hidx, hacc, beq_self_eq_true, if_true, State.gather, hs] at hexec
  exact endsScree_of_screeEnd hexec hu hnow

/-- A scatter whose values are read writes its elements in one service of their homes. -/
theorem endsScree_scatter {idx : List Byte} (hidx : q.idx = some idx) (hacc : q.r.acc = .sca) (hneed : q.need ≤ q.rows.length) {f : ScreeFin}
    {u : State} (hs : s.inService (fun s => s.scatterAll k q idx (rowBytes q.need q.rows)) = some (f, u)) (hu : (u.engine k).scree = [q])
    (hnow : u.now = s.now) : endsScree s k q i u f [] := by
  have hexec := exec_screeTurn_serves hq hi hfin hbusy hdue
  have hother : (q.r.acc == .gat) = false := by rw [hacc]; rfl
  simp only [State.screeServe, hidx, hother, Bool.false_eq_true, if_false, State.scatter, Nat.not_lt.mpr hneed, hs] at hexec
  exact endsScree_of_screeEnd hexec hu hnow

/-- A gather whose homes cannot serve it now waits a cycle. -/
theorem exec_screeGather_waits {idx : List Byte} (hidx : q.idx = some idx) (hacc : q.r.acc = .gat)
    (hs : s.inService (fun s => s.gatherAll k q idx 0 q.n) = none) : exec i s = .next (s.after 1 (screeEvent q.r k)) := by
  have hexec := exec_screeTurn_serves hq hi hfin hbusy hdue
  simpa only [State.screeServe, hidx, hacc, beq_self_eq_true, if_true, State.gather, hs] using hexec

end

/-! ## The answer at the SE (R386, R387) -/

section
variable {s : State} {k : Nat} {q : ScreeReq} {i : Instr} {f : ScreeFin} (hq : (s.engine k).scree = [q])
  (hi : i = .screeGather k ∨ i = .screeScatter k) (hfin : q.fin = some f) (hbusy : q.busy = false) (hready : q.ready ≤ s.now)
include hq hi hfin hbusy hready

/-- An answer that is back enters the bank to which it is written first. -/
theorem gives_screeTurn_enters {a port : Nat} {r : MReq}
    (hstep : (s.modScree k q.r.id (fun x => { x with busy := true })).answerStep k q 0 =
      (s.modScree k q.r.id (fun x => { x with busy := true })).bankEnter a port (.queryAccept r) none) :
    gives i s (fun t => (t.engine k).scree = [{ q with busy := true }] ∧
      (∃ p ∈ (t.bank (bankOf a)).q, p.instr = .queryAccept r) ∧ sameProgram s t) := by
  have hexec := exec_screeTurn_answers hq hi hfin hbusy hready hstep.symm
  have hmod := State.engine_modScree hq (fun x => { x with busy := true })
  have hserved : servedFrame s (s.modScree k q.r.id (fun x => { x with busy := true })) := servedFrame_modEngine ..
  generalize s.modScree k q.r.id (fun x => { x with busy := true }) = u at hexec hmod hserved
  have hframe := accessFrame_bankEnter u a port (.queryAccept r)
  have hengine : ((u.bankEnter a port (.queryAccept r) none).engine k).scree = [{ q with busy := true }] := by
    rw [hframe.engineFrame.engine, hmod]
  exact gives_of_exec (hexec hengine) ⟨hengine, State.mem_bankEnter .., (hserved.trans hframe.served).sameProgram⟩

/-- An answer without bytes is its record. -/
theorem gives_screeTurn_record (hdata : q.data = []) :
    gives i s (fun t => (t.engine k).scree = [{ q with busy := true }] ∧
      (∃ p ∈ (t.bank (bankOf (seAddr q.r.dst (q.off + 0x20)))).q, p.instr = .queryAccept { q.r with stage := 8 }) ∧ sameProgram s t) :=
  gives_screeTurn_enters hq hi hfin hbusy hready (port := 5) (by
    simp only [State.answerStep, hdata, List.length_nil, Nat.zero_le, if_true, State.recordAsk])

/-- An answer with bytes begins with their first burst. -/
theorem gives_screeTurn_burst (hdata : q.data ≠ []) {a : Nat} (ha : s.handleAddr q.r.dst q.handle 0 = some a) :
    gives i s (fun t => (t.engine k).scree = [{ q with busy := true }] ∧
      (∃ p ∈ (t.bank (bankOf a)).q, p.instr = .queryAccept { q.r with stage := 7, v1 := 0 }) ∧ sameProgram s t) := by
  have hlen : ¬ q.data.length ≤ 64 * 0 := by simpa using hdata
  have ha' : (s.modScree k q.r.id (fun x => { x with busy := true })).handleAddr q.r.dst q.handle (64 * 0) = some a := ha
  exact gives_screeTurn_enters hq hi hfin hbusy hready (by
    simp only [State.answerStep, hlen, if_false, ha']
    rfl)

end

/-! ## Bursts and records are written (R386, R387, R410) -/

/-- The bytes of a string come back from its value. -/
theorem byte_leNat (b : List Byte) {i : Nat} (h : i < b.length) : BitVec.ofNat 8 (leNat b / 256 ^ i) = (b[i]?).getD 0 := by
  induction b generalizing i with
  | nil => simp at h
  | cons x b ih =>
    have hx : x.toNat < 256 := x.isLt
    cases i with
    | zero =>
      apply BitVec.eq_of_toNat_eq
      simp [leNat, Nat.add_mod, Nat.mod_eq_of_lt hx]
    | succ i =>
      have hdiv : leNat (x :: b) / 256 ^ (i + 1) = leNat b / 256 ^ i := by
        rw [leNat, pow_succ', ← Nat.div_div_eq_div_mul]
        congr 1
        omega
      rw [hdiv, ih (by simpa using h), List.getElem?_cons_succ]

/-- The bytes `b` stand from `a` on, all other bytes as before; memory and marks alone have changed. -/
def burstWritten (s t : State) (a : Nat) (b : List Byte) : Prop :=
  memoryOnly s t ∧ ∀ y, t.readByte y = if a ≤ y ∧ y < a + b.length then (b[y - a]?).getD 0 else s.readByte y

/-- A burst of whole units is written to its end. -/
theorem State.writeBurst_whole {s : State} (hinjs : s.injs = []) (a : Nat) {b : List Byte} {n : Nat} (hlen : b.length = 8 * n) :
    (s.writeBurst a b n).1 = none ∧ burstWritten s (s.writeBurst a b n).2 a b := by
  induction n generalizing s a b with
  | zero =>
    refine ⟨rfl, rfl, fun y => ?_⟩
    rw [if_neg (by omega)]
    rfl
  | succ n ih =>
    have hmore : b.isEmpty = false := by
      cases b with
      | nil => simp at hlen
      | cons x b => rfl
    have hunit := writesBytes_storeUnit s a (BitVec.ofNat 64 (leNat (b.take 8)))
    have honly := memoryOnly_storeUnit s a (BitVec.ofNat 64 (leNat (b.take 8)))
    have hinjs' : (s.storeUnit a (BitVec.ofNat 64 (leNat (b.take 8)))).injs = [] := by rw [honly, hinjs]
    have hwhole : b.length ≥ 8 := by omega
    simp only [State.writeBurst, hmore, Bool.false_eq_true, if_false, State.touch_of_no_injs hinjs, hwhole, if_true]
    generalize s.storeUnit a (BitVec.ofNat 64 (leNat (b.take 8))) = u at hunit honly hinjs'
    obtain ⟨hnone, hrest, hbytes⟩ := ih hinjs' (a + 8) (b := b.drop 8) (by rw [List.length_drop]; omega)
    refine ⟨hnone, honly.trans hrest, fun y => ?_⟩
    have hfits : (BitVec.ofNat 64 (leNat (b.take 8))).toNat = leNat (b.take 8) := by
      have h := leNat_lt (b.take 8)
      rw [List.length_take, min_eq_left hwhole] at h
      exact Nat.mod_eq_of_lt h
    rw [hbytes y, hunit y, List.length_drop, hfits]
    by_cases hrear : a + 8 ≤ y
    · rw [if_neg (show ¬ (a ≤ y ∧ y < a + 8) by omega), List.getElem?_drop]
      by_cases hy : y < a + b.length
      · rw [if_pos (by omega), if_pos (by omega), show 8 + (y - (a + 8)) = y - a by omega]
      · rw [if_neg (by omega), if_neg (by omega)]
    · rw [if_neg (show ¬ (a + 8 ≤ y ∧ _) by omega)]
      by_cases hy : a ≤ y
      · rw [if_pos (by omega), if_pos (by omega), byte_leNat (b.take 8) (by rw [List.length_take]; omega),
          List.getElem?_take_of_lt (by omega)]
      · rw [if_neg (by omega), if_neg (by omega)]

/-- A burst of 64 bytes is written at its bank, and the next follows a cycle later. -/
theorem gives_queryAccept_burst {s : State} {r : MReq} {k a : Nat} {q : ScreeReq} (hinjs : s.injs = []) (hacc : r.acc ≠ .qabort)
    (hstage : r.stage = 7) (hof : s.screeOf r = some (k, q)) (ha : s.handleAddr r.dst q.handle (64 * r.v1.toNat) = some a)
    (hlen : 64 * r.v1.toNat + 64 ≤ q.data.length) :
    gives (.queryAccept r) s (fun t =>
      t.awaits (s.now + 1) (.queryAccept { r with stage := 6, v1 := BitVec.ofNat 64 (r.v1.toNat + 1) }) ∧
      ∀ y, t.readByte y = if a ≤ y ∧ y < a + 64 then (q.data[64 * r.v1.toNat + (y - a)]?).getD 0 else s.readByte y) := by
  have hburst : ((q.data.drop (64 * r.v1.toNat)).take 64).length = 64 := by
    rw [List.length_take, List.length_drop]
    omega
  have hbyte (i : Nat) (hi : i < 64) : ((q.data.drop (64 * r.v1.toNat)).take 64)[i]? = q.data[64 * r.v1.toNat + i]? := by
    rw [List.getElem?_take_of_lt hi, List.getElem?_drop]
  obtain ⟨hnone, honly, hbytes⟩ := State.writeBurst_whole hinjs a (n := 8) hburst
  rw [hburst] at hbytes
  have hexec : exec (.queryAccept r) s = .next (((s.writeBurst a ((q.data.drop (64 * r.v1.toNat)).take 64) 8).2.progress r.grp r.dst).after 1
      (.queryAccept { r with stage := 6, v1 := BitVec.ofNat 64 (r.v1.toNat + 1) })) := by
    change execQueryAccept r s = _
    simp only [execQueryAccept, beq_eq_false_iff_ne.mpr hacc, Bool.false_eq_true, if_false, hstage, State.burstRow, hof, ha, hnone]
  generalize (s.writeBurst a ((q.data.drop (64 * r.v1.toNat)).take 64) 8).2 = u at hexec honly hbytes
  have hnow : u.now = s.now := by rw [honly]
  have hp := engineFrame_progress u r.grp r.dst u.now
  generalize u.progress r.grp r.dst = p at hexec hp
  rw [State.after, hp.served.now, hnow] at hexec
  refine gives_of_exec hexec ⟨State.awaits_at .., fun y => ?_⟩
  refine (hp.served.readByte y).trans ((hbytes y).trans ?_)
  split
  next hin => rw [hbyte (y - a) (by omega)]
  next => rfl

/-- The answer of a Scree request fills bytes 0x20 to 0x3F of its record (Table 16-8). -/
theorem length_screeRecord (f : ScreeFin) : (screeRecord f).length = 32 := by
  simp [screeRecord, length_leBytes]

theorem State.id_of_screeOf {s : State} {r : MReq} {k : Nat} {q : ScreeReq} (h : s.screeOf r = some (k, q)) : q.r.id = r.id := by
  simp only [State.screeOf, Option.bind_eq_some_iff, Option.map_eq_some_iff, Prod.mk.injEq] at h
  obtain ⟨x, -, y, hfind, -, rfl⟩ := h
  simpa using List.find?_some hfind

/-- The record of a Scree request is written at its SE, and the request leaves its unit. -/
theorem gives_queryAccept_record {s : State} {r : MReq} {k : Nat} {q : ScreeReq} {f : ScreeFin} (hacc : r.acc ≠ .qabort)
    (hstage : r.stage = 8) (hof : s.screeOf r = some (k, q)) (hq : (s.engine k).scree = [q]) (hfin : q.fin = some f) :
    gives (.queryAccept r) s (fun t => (t.engine k).scree = [] ∧
      ∀ i < 32, t.readByte (seAddr r.dst (q.off + 0x20) + i) = ((screeRecord f)[i]?).getD 0) := by
  have hlen := length_screeRecord f
  have hid := State.id_of_screeOf hof
  have hend : q.fin.getD (0, 0, 0, 0, 0) = f := by rw [hfin, Option.getD_some]
  have hexec : exec (.queryAccept r) s = .next ((((s.windowBytes (seAddr r.dst (q.off + 0x20)) (screeRecord f)).modEngine k
      (fun e => { e with scree := e.scree.filter (fun x => x.r.id != r.id) })).progress r.grp r.dst).tableLeave q.r
      (completionWord f.1 f.2.1 f.2.2.2.1 f.2.2.2.2 q.off)) := by
    change execQueryAccept r s = _
    simp only [execQueryAccept, beq_eq_false_iff_ne.mpr hacc, Bool.false_eq_true, if_false, hstage, State.recordRow, hof]
    rw [hend]
  generalize seAddr r.dst (q.off + 0x20) = a at hexec ⊢
  have hin (i : Nat) (hi : i < 32) := State.readByte_windowed_in s a (screeRecord f) (hlen.symm ▸ hi)
  have hengine := s.engine_windowBytes a (screeRecord f) k
  generalize s.windowBytes a (screeRecord f) = w at hexec hin hengine
  have hleaves := (engineFrame_progress (w.modEngine k (fun e => { e with scree := e.scree.filter (fun x => x.r.id != r.id) }))
    r.grp r.dst (w.modEngine k (fun e => { e with scree := e.scree.filter (fun x => x.r.id != r.id) })).now).trans
      (engineFrame_tableLeave _ q.r (completionWord f.1 f.2.1 f.2.2.2.1 f.2.2.2.2 q.off))
  have hbyte (y : Nat) : _ = w.readByte y := hleaves.served.readByte y
  refine gives_of_exec hexec ⟨?_, fun i hi => (hbyte _).trans (hin i hi)⟩
  rw [hleaves.engine, State.engine_modEngine, hengine, hq]
  simp [hid]

/-- Settles O45: what each event of the engines beneath the stacks does, branch by branch; the words and completions that go back to an SE
change neither the memory nor the engines. -/
theorem queriesAndScree : Obligations.QueriesAndScree := by
  intro s k hinjs e enters clean
  refine ⟨fun r hacc hstage hwait hroom hport hnew => gives_queryAccept_place hacc hstage hwait hroom hport hnew, ?packet,
    fun q hq hactive hfin hready hneed hdesc => ⟨fun hres => gives_queryAdmit_reserved hq hactive hfin hready hneed hdesc hres,
      fun er u hs hu => gives_queryAdmit_refused hq hactive hfin hready hneed hdesc hs hu,
      fun d u hs hu => gives_queryAdmit_passed hq hactive hfin hready hneed hdesc hs hu,
      fun hs => exec_queryAdmit_waits hq hactive hfin hready hneed hdesc hs⟩,
    fun q he hq hcur hjobs hcan => ⟨?step, fun hc => ?done⟩, fun q b hq hb hst => ?remote,
    fun q b he hq hcur hjobs hb hstack hst hdue hcand => ⟨fun n rest rc u hids hs hu hnow => ?measure,
      fun n rest hids hs => exec_queryStep_waits he hq hcur hb hstack hst hdue hids hs,
      fun hids hfaults hhops => gives_queryStep_places he hq hcur hb hstack hst hdue hjobs hcand hids hfaults hhops⟩,
    fun q st code fa hq hfin => ⟨fun hst hleft => gives_queryComplete_failed hq hfin hst hleft,
      fun u hst hleft hs hu hnow => gives_queryComplete_empty hq hfin hst hleft hs hu hnow,
      fun n u hleft hs hu => gives_queryComplete_burst hq hfin hleft hs hu,
      fun hleft => gives_queryComplete_record hq hfin hleft, fun hleft => gives_queryComplete_over hq hfin hleft⟩,
    fun q r hq hfin => gives_qabortArrival hq hfin r,
    fun r hacc hstage hwho hout hendp hren => gives_queryAccept_aborted hacc hstage hwho hout hendp hren,
    fun q i hi hq => ⟨?serve, fun f hfin hbusy hready => ⟨fun hdata => gives_screeTurn_record hq hi hfin hbusy hready hdata,
      fun a hdata ha => gives_screeTurn_burst hq hi hfin hbusy hready hdata ha⟩⟩,
    fun q r hacc hof => ⟨fun a hstage ha hlen => gives_queryAccept_burst hinjs hacc hstage hof ha hlen,
      fun f hstage hq hfin => gives_queryAccept_record hacc hstage hof hq hfin⟩⟩
  case packet =>
    intro r x hacc hstage htab hrows hbad a pkt home hclean hdown hway
    exact gives_queryAccept_row hinjs hacc hstage htab hrows hbad hclean rfl hdown hway
  case step =>
    intro c hc home due
    by_cases hstack : c.id / 2 ^ 28 = k
    · have hhome : home = true := beq_iff_eq.mpr hstack
      have hdue : due = s.now + 228 := if_pos hhome
      obtain ⟨t, hexec, hx, hserves, hawaits, hsame⟩ := gives_queryStep_home he hq hcur hjobs hcan hc hstack
      rw [Query.setBatch_single (b := candidateBatch k s.now c) (by rfl) (by rfl)] at hx
      refine ⟨t, hexec, _, hx, rfl, ?_, rfl, ?_, ?_, hsame⟩
      · rw [hhome, hdue]
        rfl
      · rw [hdue, hstack]
        exact hawaits
      · rw [hhome]
        exact hserves
    · have haway : home = false := beq_false_of_ne hstack
      have hdue : due = s.now + halfTrip k (c.id / 2 ^ 28) := if_neg (by rw [haway]; decide)
      obtain ⟨t, hexec, hx, hidle, hawaits, hsame⟩ := gives_queryStep_away he hq hcur hjobs hcan hc hstack
      refine ⟨t, hexec, _, hx, rfl, ?_, rfl, ?_, ?_, hsame⟩
      · rw [haway, hdue]
        simp only [Query.stepped, candidateBatch, beq_false_of_ne hstack, Bool.false_eq_true, if_false]
      · rw [hdue]
        exact hawaits
      · rw [haway]
        exact hidle
  case done =>
    obtain ⟨t, hexec, ⟨x, hx, hfin⟩, hawaits, hsame⟩ := gives_queryStep_done he hq hcur hjobs hcan hc
    exact ⟨t, hexec, x, hx, hfin, hawaits, hsame⟩
  case remote =>
    obtain ⟨t, hexec, hx, hrest⟩ := gives_remoteBatch hq hb hst
    exact ⟨t, hexec, ⟨_, hx, rfl⟩, hrest⟩
  case measure =>
    obtain ⟨t, hexec, hx, hawaits⟩ := gives_queryStep_measures he hq hcur hb hstack hst hdue hcand hids hs hu hnow
    have hmeasured : (q.measured n (.inl rc)).batches = [b] := hb
    rw [Query.setBatch_single (b := b) hmeasured (by rfl)] at hx
    exact ⟨t, hexec, _, hx, rfl, rfl, rfl, hawaits⟩
  case serve =>
    intro hfin hbusy hdue ends
    exact ⟨fun er hidx hcheck => endsScree_refused hq hi hfin hbusy hdue hidx hcheck,
      fun idx f b u hidx hacc hs hu hnow => endsScree_gather hq hi hfin hbusy hdue hidx hacc hs hu hnow,
      fun idx f u hidx hacc hneed hs hu hnow => endsScree_scatter hq hi hfin hbusy hdue hidx hacc hneed hs hu hnow,
      fun idx hidx hacc hs => exec_screeGather_waits hq hi hfin hbusy hdue hidx hacc hs⟩

end Sys2Proof.Machine
end
